-- ==== Sys2Proof/Word.lean ====
section
/-! DEFINITION. The word types of the device (R7, R10, R154). -/

namespace Sys2Proof

/-- A word is 64 bits (R7). -/
abbrev Word := BitVec 64

/-- A half-word is 32 bits (R7). -/
abbrev Half := BitVec 32

/-- The addressable unit (R7). -/
abbrev Byte := BitVec 8

/-- A vector register of a thread: 32 lanes of 32 bits, one 1,024-bit string (R154). -/
abbrev Vec := BitVec 1024

/-- A vector register of a triggered element: 16 lanes of 32 bits (R183). -/
abbrev GVec := BitVec 512

end Sys2Proof
end

