-- ==== Sys2Proof/Syntax.lean ====
section
/-! DEFINITION. The syntax of the device: one constructor of `Instr` per row of the opcode table. Control-flow
words carry their operand fields and element ops carry the triggered word without its op. A step of an engine, of the
fabric, of the launcher or of the host port names its agent in the state (`State.cur`, `State.sub`, `State.site`), as a
word is named by the pc; what arrives from outside the device comes as the constructor's own fields. -/

namespace Sys2Proof

/-- The sixteen type codes of R36, in code order. -/
inductive ElTy where
  | i8 | u8 | i16 | u16 | i32 | u32 | i64 | f32 | f16 | bf16 | e4m3 | e5m2 | qa4 | qa8 | sb48 | cs80
  deriving DecidableEq, Repr

/-- The five rounding modes of R41, in code order. -/
inductive Rnd where
  | rne | rtz | rdn | rup | rna
  deriving DecidableEq, Repr

/-- The scopes of R60, in code order. -/
inductive Scope where
  | thr | core | clu | die | pkg | sys
  deriving DecidableEq, Repr

/-- A source operand field (R63). -/
inductive Src where
  | v (n : Fin 48) | o (n : Fin 8) | b (n : Fin 4) | x (n : BitVec 5) | cb (n : BitVec 6) | lit (n : BitVec 6)
  deriving DecidableEq, Repr

/-- A destination operand field (R63). -/
inductive Dst where
  | v (n : Fin 48) | o (n : Fin 8) | x (n : BitVec 5)
  deriving DecidableEq, Repr

/-- Source 2 of F0 or F1: absent, an operand, or the 16-bit immediate (R62). -/
inductive Src2 where
  | none | op (s : Src) | imm (n : BitVec 16)
  deriving DecidableEq, Repr

/-- The operands of a lane instruction in format F0 or F1 (R61, R62, R64). -/
structure VA where
  ty : ElTy
  sat : Bool
  rnd : Rnd
  mask : BitVec 3
  d : Dst
  s1 : Src
  s2 : Src2
  s3 : Option Src
  deriving DecidableEq, Repr

/-- The eight conditions of `vcmp` (R164), in code order. -/
inductive Cond where
  | eq | ne | lt | le | gt | ge | un | ord
  deriving DecidableEq, Repr

/-- The six operations of `vred` (R173), in code order; `vscan` takes the first three. -/
inductive RedOp where
  | add | min | max | and | or | xor
  deriving DecidableEq, Repr

/-- The operands of a conversion in format F4 (R62, R168 to R171). -/
structure VC where
  dt : ElTy
  st : ElTy
  rnd : Rnd
  mask : BitVec 3
  sat : Bool
  m : BitVec 2
  d : Dst
  s1 : Src
  s2 : Src
  deriving DecidableEq, Repr

/-- The operands of a vector memory word in F2 or F3 (R62, R178 to R181). -/
structure VM where
  ty : ElTy
  mask : BitVec 3
  base : BitVec 5
  off : BitVec 16
  idx : Src
  data : Src
  deriving DecidableEq, Repr

/-- The operation of a scoped AMO of the control-flow set (R67, R352), in code order 0 to 9. -/
inductive AmoOp where
  | add | min | max | minu | maxu | and | or | xor | swap | cas
  deriving DecidableEq, Repr

/-- The nine RISC-V AMO operations (R129). -/
inductive RvAmoOp where
  | swap | add | xor | and | or | min | max | minu | maxu
  deriving DecidableEq, Repr

/-- Register-register and register-immediate operations of RV64I, M, Zba and Zbb (R129). -/
inductive AluOp where
  | add | sub | sll | slt | sltu | xor | srl | sra | or | and
  | addw | subw | sllw | srlw | sraw
  | mul | mulh | mulhsu | mulhu | div | divu | rem | remu | mulw | divw | divuw | remw | remuw
  | adduw | sh1add | sh2add | sh3add | sh1adduw | sh2adduw | sh3adduw
  | andn | orn | xnor | max | maxu | min | minu | rol | ror | rolw | rorw | zexth
  deriving DecidableEq, Repr

/-- Operations with a 12-bit immediate or a shift amount (R129). -/
inductive ImmOp where
  | addi | slti | sltiu | xori | ori | andi | slli | srli | srai | addiw | slliw | srliw | sraiw | slliuw | rori | roriw
  deriving DecidableEq, Repr

/-- Zbb operations of one source (R129). -/
inductive UnOp where
  | clz | ctz | cpop | clzw | ctzw | cpopw | sextb | sexth | rev8 | orcb
  deriving DecidableEq, Repr

inductive BrOp where
  | beq | bne | blt | bge | bltu | bgeu
  deriving DecidableEq, Repr

/-- Two formats of the F and D extensions. -/
inductive FFmt where
  | s | d
  deriving DecidableEq, Repr

/-- F and D operations with two or one floating-point sources and a rounding mode. -/
inductive FOp where
  | fadd | fsub | fmul | fdiv | fsqrt
  deriving DecidableEq, Repr

inductive FmaOp where
  | fmadd | fmsub | fnmsub | fnmadd
  deriving DecidableEq, Repr

/-- F and D operations without a rounding mode. -/
inductive FCmp where
  | fsgnj | fsgnjn | fsgnjx | fmin | fmax | feq | flt | fle
  deriving DecidableEq, Repr

/-- The integer side of an F or D conversion. -/
inductive IWidth where
  | w | wu | l | lu
  deriving DecidableEq, Repr

/-- The six CSR instructions. -/
inductive CsrKind where
  | rw | rs | rc | rwi | rsi | rci
  deriving DecidableEq, Repr

/-- A CSR instruction: rd, the source register or 5-bit immediate, the CSR address. -/
structure CsrOp where
  kind : CsrKind
  rd : BitVec 5
  src : BitVec 5
  csr : BitVec 12
  deriving DecidableEq, Repr

/-- The words of RV64IMAFD, Zicsr, Zifencei, Zba and Zbb that have no row of their own (R129). -/
inductive Rv where
  | lui (rd : BitVec 5) (imm : BitVec 20)
  | auipc (rd : BitVec 5) (imm : BitVec 20)
  | jal (rd : BitVec 5) (off : BitVec 20)
  | br (op : BrOp) (rs1 rs2 : BitVec 5) (off : BitVec 12)
  | alu (op : AluOp) (rd rs1 rs2 : BitVec 5)
  | imm (op : ImmOp) (rd rs1 : BitVec 5) (imm : BitVec 12)
  | un (op : UnOp) (rd rs1 : BitVec 5)
  | csrRead (c : CsrOp)
  | ecall
  | ebreak
  | wfi
  | fop (op : FOp) (fmt : FFmt) (rm : BitVec 3) (rd rs1 rs2 : BitVec 5)
  | fma (op : FmaOp) (fmt : FFmt) (rm : BitVec 3) (rd rs1 rs2 rs3 : BitVec 5)
  | fcmp (op : FCmp) (fmt : FFmt) (rd rs1 rs2 : BitVec 5)
  | fclass (fmt : FFmt) (rd rs1 : BitVec 5)
  | fcvtToInt (w : IWidth) (fmt : FFmt) (rm : BitVec 3) (rd rs1 : BitVec 5)
  | fcvtFromInt (w : IWidth) (fmt : FFmt) (rm : BitVec 3) (rd rs1 : BitVec 5)
  | fcvtFF (dst : FFmt) (rm : BitVec 3) (rd rs1 : BitVec 5)
  | fmvToX (fmt : FFmt) (rd rs1 : BitVec 5)
  | fmvFromX (fmt : FFmt) (rd rs1 : BitVec 5)
  deriving DecidableEq, Repr

/-- Scalar loads of the base: width code 0 to 3 for 1, 2, 4, 8 bytes, zero extension, F or D destination. -/
structure LoadOp where
  w : BitVec 2
  uns : Bool
  fp : Bool
  rd : BitVec 5
  rs1 : BitVec 5
  off : BitVec 12
  deriving DecidableEq, Repr

/-- Scalar stores of the base. -/
structure StoreOp where
  w : BitVec 2
  fp : Bool
  rs1 : BitVec 5
  rs2 : BitVec 5
  off : BitVec 12
  deriving DecidableEq, Repr

/-- The fields of a 128-bit triggered word other than bits [126:120] of its op (R73). -/
structure TWord where
  vec : Bool
  care : BitVec 8
  value : BitVec 8
  req : BitVec 10
  test : BitVec 4
  deq : BitVec 10
  a : BitVec 6
  b : BitVec 6
  c : BitVec 6
  out : BitVec 10
  rd : BitVec 4
  pset : BitVec 8
  pclr : BitVec 8
  pfr : BitVec 4
  mod : BitVec 4
  tact : BitVec 8
  imm : BitVec 16
  deriving DecidableEq, Repr

/-- A node of a region for one frame slot: region number, node id, frame slot. -/
structure Site where
  rgn : Nat
  node : Nat
  fs : Nat
  deriving DecidableEq, Repr

/-- The five x-register positions of an F5 word. -/
structure F5 where
  d : BitVec 5
  s1 : BitVec 5
  s2 : BitVec 5
  s3 : BitVec 5
  deriving DecidableEq, Repr

/-- A request a host makes on the port that the device does not support (R88). -/
inductive BadRequest where
  | ud | uc | xrc | atomic | writeImm | sendInv | memWindow
  deriving DecidableEq, Repr

/-- Communication-management datagrams of queue pair 1 (R88). -/
inductive Mad where
  | req | rep | rtu | rej | mra | dreq | drep
  deriving DecidableEq, Repr

/-- The port a management command came in on (R423). -/
inductive MPort where
  | i3c | sideband | mainPort
  deriving DecidableEq, Repr

inductive Instr where
  -- custom-0 (R67)
  | lpad (k : BitVec 4)
  | callt (rd rs1 rs2 : BitVec 5)
  | rett
  | tagp (rd rs1 ek : BitVec 5)
  | tagx (rd rs1 : BitVec 5)
  | fuse (rd n : BitVec 5)
  | split
  | recv (rd : BitVec 4)
  | peek (rd : BitVec 4)
  | wfm (rd : BitVec 5)
  | uiret
  | yield
  | prio (rs1 : BitVec 5)
  | cbld (bank : BitVec 2) (rs1 : BitVec 5)
  | fenceScope (s : Scope)
  | ldAcq (s : Scope) (w : Bool) (rd rs1 : BitVec 5)
  | stRel (s : Scope) (w : Bool) (rs1 rs2 : BitVec 5)
  | amoI64 (op : AmoOp) (s : Scope) (rd rs1 rs2 : BitVec 5)
  | amoI32 (op : AmoOp) (s : Scope) (rd rs1 rs2 : BitVec 5)
  | amoCas128 (s : Scope) (rd : BitVec 4) (rs1 : BitVec 5) (rs2 : BitVec 4)
  | amoFaddF32 (s : Scope) (rd rs1 rs2 : BitVec 5)
  | amoFadd2Bf16 (s : Scope) (rd rs1 rs2 : BitVec 5)
  -- custom-1 (R68)
  | bar (s : Scope) (id : BitVec 4) (rd : BitVec 5)
  | barArr (s : Scope) (id : BitVec 4) (rd : BitVec 5)
  | barWait (s : Scope) (id : BitVec 4) (rd : BitVec 5)
  | jlaunch (rd rs1 : BitVec 5)
  | glaunch (rd rs1 : BitVec 5)
  | gdep (rd rs1 rs2 : BitVec 5)
  | ctxSave (rd rs1 rs2 : BitVec 5)
  | ctxLoad (rd rs1 rs2 : BitVec 5)
  | plbInv (rd rs1 rs2 : BitVec 5)
  | rgnShrink (rd rs1 rs2 : BitVec 5)
  | rgnDrain (rd rs1 : BitVec 5)
  | trapRec (rd rs1 rs2 : BitVec 5)
  -- RISC-V words with a row of their own (R129, R130)
  | jalr (rd rs1 : BitVec 5) (off : BitVec 12)
  | fence (fm pred succ : BitVec 4)
  | fenceI
  | lr (dbl aq rl : Bool) (rd rs1 : BitVec 5)
  | sc (dbl aq rl : Bool) (rd rs1 rs2 : BitVec 5)
  | rvAmo (op : RvAmoOp) (dbl aq rl : Bool) (rd rs1 rs2 : BitVec 5)
  | sret
  | mret
  | emulationEntry (word : Word) (len : Nat)
  -- the 64-bit extension (R66)
  | vadd (a : VA) | vsub (a : VA) | vmul (a : VA) | vmulh (a : VA) | vmadd (a : VA) | vmin (a : VA) | vmax (a : VA)
  | vabs (a : VA) | vand (a : VA) | vor (a : VA) | vxor (a : VA) | vandn (a : VA)
  | vsll (a : VA) | vsrl (a : VA) | vsra (a : VA)
  | vfadd (a : VA) | vfsub (a : VA) | vfmul (a : VA) | vfma (a : VA) | vfmin (a : VA) | vfmax (a : VA)
  | vfdiv (a : VA) | vfsqrt (a : VA) | vfrcp (a : VA) | vfrsq (a : VA) | vfexp2 (a : VA) | vflog2 (a : VA)
  | vcmp (c : Cond) (kd : BitVec 3) (ty : ElTy) (mask : BitVec 3) (s1 : Src) (s2 : Src2)
  | vsel (a : VA)
  | kand (d a b : BitVec 3) | kor (d a b : BitVec 3) | kxor (d a b : BitVec 3) | kandn (d a b : BitVec 3)
  | knot (d a : BitVec 3)
  | kpop (xd : BitVec 5) (a : BitVec 3) | kfirst (xd : BitVec 5) (a : BitVec 3)
  | vcvt (a : VC) | vpack (a : VC) | vunpack (a : VC) | vqnt (a : VC) | vdq (a : VC)
  | vdot4 (a : VA)
  | vred (op : RedOp) (a : VA)
  | vscan (op : RedOp) (a : VA)
  | vperm (a : VA) | vshuf (a : VA) | vslideUp (a : VA) | vslideDown (a : VA) | vbcast (a : VA) | vins (a : VA)
  | vextr (a : VA)
  | vld (a : VM) | vst (a : VM) | vlds (a : VM) | vsts (a : VM) | vldx (a : VM) | vstx (a : VM)
  | vldb (m : BitVec 2) (a : VM)
  | ldFe (xd xb : BitVec 5) (off : BitVec 16) | ldFeTake (xd xb : BitVec 5) (off : BitVec 16)
  | stFe (xs xb : BitVec 5) (off : BitVec 16) | stFeFill (xs xb : BitVec 5) (off : BitVec 16)
  | cpy (r : F5) | cpyPlane (r : F5) | cpyStat (xd : BitVec 5)
  | pf (s : Scope) (xb : BitVec 5) (off : BitVec 16)
  | refLd (ty : ElTy) (xd : BitVec 5) (hs : BitVec 4) (xo : BitVec 5)
  | refSt (ty : ElTy) (xv : BitVec 5) (hs : BitVec 4) (xo : BitVec 5)
  | refLdf (hd hs : BitVec 4) (xo : BitVec 5)
  | refStf (hv hs : BitVec 4) (xo : BitVec 5)
  | refAlloc (hd : BitVec 4) (xn xt xs : BitVec 5)
  | refPin (xd : BitVec 5) (hs : BitVec 4) (xs : BitVec 5)
  | refUnpin (xs : BitVec 5) (hs : BitVec 4)
  | refEq (xd : BitVec 5) (ha hb : BitVec 4)
  | refMov (toX : Bool) (d : BitVec 5) (hs : BitVec 4)
  | refNull (hd : BitVec 4)
  | refChk (hd : BitVec 4) (xv xs xi : BitVec 5)
  | kilnGo (r : F5) | kilnStat (xd xk : BitVec 5)
  | subAdd (r : F5) | subDrop (xd xe : BitVec 5) | subFlush (xd : BitVec 5) | subStat (xd xe : BitVec 5)
  | raceRd (r : F5)
  | mxTile (r : F5) | mxTileAcc (r : F5) | mxSort (r : F5) | mxTopk (r : F5) | mxStat (xd : BitVec 5)
  | grpForm (xd xb : BitVec 5) | grpDrop (xd xh : BitVec 5)
  | collAllreduce (ty : ElTy) (r : F5) | collRedscatter (ty : ElTy) (r : F5) | collAllgather (ty : ElTy) (r : F5)
  | collBcast (ty : ElTy) (r : F5) | collAlltoall (ty : ElTy) (r : F5)
  | collCancel (xd xh : BitVec 5)
  -- element ops (R78)
  | elNop (w : TWord) | elMov (w : TWord) | elSel (w : TWord) | elSteer (w : TWord) | elRepl (w : TWord)
  | elAdd (w : TWord) | elSub (w : TWord) | elMul (w : TWord) | elMulh (w : TWord) | elMac (w : TWord)
  | elMin (w : TWord) | elMax (w : TWord) | elAbs (w : TWord) | elNeg (w : TWord)
  | elAnd (w : TWord) | elOr (w : TWord) | elXor (w : TWord) | elAndn (w : TWord) | elNot (w : TWord)
  | elSll (w : TWord) | elSrl (w : TWord) | elSra (w : TWord)
  | elCmpEq (w : TWord) | elCmpNe (w : TWord) | elCmpLt (w : TWord) | elCmpLe (w : TWord)
  | elFadd (w : TWord) | elFsub (w : TWord) | elFmul (w : TWord) | elFma (w : TWord) | elFmin (w : TWord)
  | elFmax (w : TWord)
  | elFcmpEq (w : TWord) | elFcmpLt (w : TWord) | elFcmpLe (w : TWord) | elFcmpUn (w : TWord)
  | elVredAdd (w : TWord) | elVredMin (w : TWord) | elVredMax (w : TWord)
  | elVredFadd (w : TWord) | elVredFmin (w : TWord) | elVredFmax (w : TWord)
  | elVextr (w : TWord) | elVins (w : TWord)
  | elSettag (w : TWord) | elEndtest (w : TWord)
  | elCsacc (w : TWord) | elCsadd (w : TWord)
  -- steps of the launcher and the Imposer (R96 to R123, R394 to R399)
  | scrub (corrected : Nat)
  | configReload (error : Bool)
  -- the host port (R87 to R95)
  | streamWrite (qp : Nat) (addr : Word) (data : List Byte)
  | streamResume (port : Nat)
  | rdmaWrite (qp : Nat) (key : Nat) (addr : Word) (data : List Byte)
  | rdmaRead (qp : Nat) (key : Nat) (addr : Word) (len : Nat)
  | cmMad (qp : Nat) (m : Mad)
  | unsupportedRequest (qp : Nat) (r : BadRequest)
  | ecnMarkedPacket (qp : Nat)
  | pfcPause (prio : Nat) (on : Bool)
  -- memory (R246 to R260)
  | replicaCollapse (va : Word)
  -- interruption
  | trapEntry (loc : Nat) (cause : Nat) (tval : Word)
  | fabricTrapRaise (cause : Nat) (va : Word)
  -- CSR writes with behaviour of their own (R131)
  | pdrightsWrite (c : CsrOp)
  | quantumWrite (c : CsrOp)
  | matrixCsrWrite (c : CsrOp)
  | prridxWrite (c : CsrOp)
  | tcqWrite (c : CsrOp)
  | csrWrite (c : CsrOp)
  -- Colophon and the pod (R421 to R428)
  | selftestComplete (pass : Bool)
  | thermalThrottle (cluster : Nat) (level : Nat)
  | getStatus (p : MPort)
  | readLog (p : MPort) (page : Nat)
  | loadImage (p : MPort) (image : List Byte)
  | reset (p : MPort)
  | getIdentity (p : MPort)
  | attest (p : MPort) (nonce : BitVec 256)
  | setPowerCap (p : MPort) (watts : Nat)
  | podNumberAssign (n : BitVec 9)
  | linkFlitReplay (link : Nat)
  | linkDown (link : Nat)
  | tickSync (t : Word)
  -- the RV64 base (R129, R130, R260)
  | plainStore (st : StoreOp)
  | scalarLoad (ld : LoadOp)
  | rv64BaseInstruction (i : Rv)
  -- steps of the fabric (R188 to R244)
  | tokenArrival
  | creditReturn
  | phaseEnd
  | streamWalkStart
  | streamPoint
  | memSkip
  | memLoad
  | memStore
  | memIndexedLoad
  | memIndexedStore
  | memRmw
  | memIndexedRmw
  | orderedRequestPerform
  | memReply
  | joinFire
  | loopStart
  | loopDoneToken
  | loopExitToken
  | iterationRetire
  | carryForward
  | collectStep
  | convFire
  | normFire
  | dsqEnter
  | dsqExit
  | callNodeFire
  | callNodeReturn
  | callbackEntry
  | callbackPoolAssign
  | poolTimeout
  | frameRead
  | frameWrite
  | frameEnd
  | frameOpen
  | frameSlotFree
  | frameOrphaned
  | fabricStall
  | ingressTake
  | egressWrite
  | egressEndOfStream
  | ringWaitExpiry
  | sinkConsume
  | mxportFire
  | mxportCompletion
  | accUpdate
  -- steps of the launcher and the Imposer (R96 to R123, R394 to R399)
  | dispatchBind
  | poolTake
  | threadAged
  | threadExit
  | jobComplete
  | startTickReached
  | gangDecision
  | gangStart
  | launchWaitExpiry
  | entryDone
  | configPlace
  | configRetry
  | regionLoad
  | uncorrectableError
  -- the host port (R87 to R95)
  | ptpMessage
  | completionRecord
  -- memory (R246 to R260)
  | protectionRequest
  | protectionReply
  | remoteTimeout
  | feTimeout
  -- threads and inbox
  | inboxMessageArrival
  | calltReturn
  | graphCallTimeout
  | waitlimExpiry
  -- engines
  | copyCommandStart
  | copyCompletion
  | mxuArbitrate
  | fillWaitTimeout
  | tileCompletion
  | sortCompletion
  | mxuParityError
  | kilnInstall
  | kilnMove
  | kilnFault
  | kilnReport
  | pinWaitTimeout
  | subSyncCopy
  | packetFlush
  | packetTimerExpiry
  | packetApply
  | subDrained
  | barrierComplete
  | groupDecision
  | collContribution
  | collCommit
  | collAbort
  | collGroupTimeout
  | collMemberLost
  -- interruption
  | userInterruptDelivery
  | quantumExpiry
  | parkedMessageAppend
  | fabricTrapDelivery
  | shrinkPoint
  | shrinkBudgetExpiry
  | scanOut
  | regionRestore
  | resumeInPlace
  | regionQuantumExpiry
  | occupancyRound
  | drainQuiescence
  | plbInvComplete
  -- CSR writes with behaviour of their own (R131)
  | spimgSave
  | spimgRestore
  -- Colophon and the pod (R421 to R428)
  | standbyRailOn
  | standbyRailLost
  | firmwareVerify
  | thermalTrip
  -- the RV64 base (R129, R130, R260)
  | timerInterrupt
  | externalInterrupt
  | lostMemberReached
  deriving DecidableEq, Repr

end Sys2Proof
end

