-- ==== Sys2Proof/Machine/Encoding.lean ====
section
/-! DEFINITION. The tables of the encodings: code numbers of types, modes, scopes and operand fields, the opcode map of
the 64-bit extension (R66), the element ops (R78) and the profile each word belongs to (R66, R132, R348, R388). -/

namespace Sys2Proof

/-! ### Codes -/

/-- The type code of R36. -/
def ElTy.code : ElTy → Nat
  | .i8 => 0 | .u8 => 1 | .i16 => 2 | .u16 => 3 | .i32 => 4 | .u32 => 5 | .i64 => 6 | .f32 => 7
  | .f16 => 8 | .bf16 => 9 | .e4m3 => 10 | .e5m2 => 11 | .qa4 => 12 | .qa8 => 13 | .sb48 => 14 | .cs80 => 15

def ElTy.ofCode : Nat → Option ElTy
  | 0 => some .i8 | 1 => some .u8 | 2 => some .i16 | 3 => some .u16 | 4 => some .i32 | 5 => some .u32
  | 6 => some .i64 | 7 => some .f32 | 8 => some .f16 | 9 => some .bf16 | 10 => some .e4m3 | 11 => some .e5m2
  | 12 => some .qa4 | 13 => some .qa8 | 14 => some .sb48 | 15 => some .cs80 | _ => none

/-- Codes 0x0 to 0x5: the integers a vector register holds (class I of R66). -/
def ElTy.isInt (t : ElTy) : Bool := t.code ≤ 5
/-- Codes 0x7 to 0x9 (class F of R66). -/
def ElTy.isFlt (t : ElTy) : Bool := 7 ≤ t.code && t.code ≤ 9
/-- Codes 0x7 to 0xB: every scalar floating-point format. -/
def ElTy.isAnyFlt (t : ElTy) : Bool := 7 ≤ t.code && t.code ≤ 11
/-- Signed integer types (R38). -/
def ElTy.signed : ElTy → Bool
  | .i8 | .i16 | .i32 | .i64 => true
  | _ => false
/-- Element width in bits (R36, R154). -/
def ElTy.width : ElTy → Nat
  | .i8 | .u8 | .e4m3 | .e5m2 | .qa8 => 8
  | .i16 | .u16 | .f16 | .bf16 => 16
  | .i32 | .u32 | .f32 => 32
  | .i64 => 64
  | .qa4 => 4
  | .sb48 | .cs80 => 32

/-- The rounding code of R41. -/
def Rnd.code : Rnd → Nat
  | .rne => 0 | .rtz => 1 | .rdn => 2 | .rup => 3 | .rna => 4

def Rnd.ofCode : Nat → Option Rnd
  | 0 => some .rne | 1 => some .rtz | 2 => some .rdn | 3 => some .rup | 4 => some .rna | _ => none

/-- The scope code of R60. -/
def Scope.code : Scope → Nat
  | .thr => 0 | .core => 1 | .clu => 2 | .die => 3 | .pkg => 4 | .sys => 5

def Scope.ofCode : Nat → Option Scope
  | 0 => some .thr | 1 => some .core | 2 => some .clu | 3 => some .die | 4 => some .pkg | 5 => some .sys | _ => none

def Cond.code : Cond → Nat
  | .eq => 0 | .ne => 1 | .lt => 2 | .le => 3 | .gt => 4 | .ge => 5 | .un => 6 | .ord => 7

def Cond.ofCode : Nat → Option Cond
  | 0 => some .eq | 1 => some .ne | 2 => some .lt | 3 => some .le | 4 => some .gt | 5 => some .ge | 6 => some .un
  | 7 => some .ord | _ => none

def RedOp.code : RedOp → Nat
  | .add => 0 | .min => 1 | .max => 2 | .and => 3 | .or => 4 | .xor => 5

def AmoOp.code : AmoOp → Nat
  | .add => 0 | .min => 1 | .max => 2 | .minu => 3 | .maxu => 4 | .and => 5 | .or => 6 | .xor => 7 | .swap => 8
  | .cas => 9

def AmoOp.ofCode : Nat → Option AmoOp
  | 0 => some .add | 1 => some .min | 2 => some .max | 3 => some .minu | 4 => some .maxu | 5 => some .and
  | 6 => some .or | 7 => some .xor | 8 => some .swap | 9 => some .cas | _ => none

/-- The 8-bit operand field of a source (R63). -/
def Src.code : Src → Nat
  | .v n => n.val
  | .o n => 48 + n.val
  | .b n => 56 + n.val
  | .x n => 64 + n.toNat
  | .cb n => 128 + n.toNat
  | .lit n => 192 + n.toNat

def Src.ofCode (c : Nat) : Option Src :=
  if h : c < 48 then some (.v ⟨c, h⟩)
  else if h : c - 48 < 8 then some (.o ⟨c - 48, h⟩)
  else if h : c - 56 < 4 then some (.b ⟨c - 56, h⟩)
  else if c < 64 then none
  else if c < 96 then some (.x (BitVec.ofNat 5 (c - 64)))
  else if c < 128 then none
  else if c < 192 then some (.cb (BitVec.ofNat 6 (c - 128)))
  else if c < 256 then some (.lit (BitVec.ofNat 6 (c - 192)))
  else none

/-- The 8-bit operand field of a destination (R63). -/
def Dst.code : Dst → Nat
  | .v n => n.val
  | .o n => 48 + n.val
  | .x n => 64 + n.toNat

def Dst.ofCode (c : Nat) : Option Dst :=
  if h : c < 48 then some (.v ⟨c, h⟩)
  else if h : c - 48 < 8 then some (.o ⟨c - 48, h⟩)
  else if c < 64 then none
  else if c < 96 then some (.x (BitVec.ofNat 5 (c - 64)))
  else none

/-! ### Lane instructions in F0 and F1 -/

/-- The lane instructions that share the layout of F0 and F1 (R66). -/
inductive VOp where
  | add | sub | mul | mulh | madd | min | max | abs
  | and | or | xor | andn | sll | srl | sra
  | fadd | fsub | fmul | fma | fmin | fmax | fdiv | fsqrt | frcp | frsq | fexp2 | flog2
  | sel | dot4 | red (o : RedOp) | scan (o : RedOp)
  | perm | shuf | slideUp | slideDown | bcast | ins | extr
  deriving DecidableEq, Repr

/-- Modifier classes of R64 as the lane instructions use them: S, Z, R with saturation in minor [60], and R with
saturation in the modifier for integer types. -/
inductive ModK where
  | s | z | r | red
  deriving DecidableEq, Repr

/-- Type classes of R66. -/
inductive TyK where
  | int | flt | intFlt | perm | bytes
  deriving DecidableEq, Repr

def TyK.ok : TyK → ElTy → Bool
  | .int, t => t.isInt
  | .flt, t => t.isFlt
  | .intFlt, t => t.isInt || t.isFlt
  | .perm, t => t.isInt || t.isAnyFlt
  | .bytes, t => t.code ≤ 1

/-- Major opcode (R66). -/
def VOp.opc : VOp → Nat
  | .add => 0x01 | .sub => 0x02 | .mul => 0x03 | .mulh => 0x04 | .madd => 0x05 | .min => 0x06 | .max => 0x07
  | .abs => 0x08 | .and | .or | .xor | .andn => 0x09 | .sll | .srl | .sra => 0x0A
  | .fadd => 0x10 | .fsub => 0x11 | .fmul => 0x12 | .fma => 0x13 | .fmin => 0x14 | .fmax => 0x15 | .fdiv => 0x16
  | .fsqrt => 0x17 | .frcp => 0x18 | .frsq => 0x19 | .fexp2 => 0x1A | .flog2 => 0x1B
  | .sel => 0x21 | .dot4 => 0x2D | .red _ => 0x2E | .scan _ => 0x2F
  | .perm => 0x30 | .shuf => 0x31 | .slideUp | .slideDown => 0x32 | .bcast => 0x33 | .extr => 0x34 | .ins => 0x35

/-- Minor function, without the saturation bit of the float family (R64, R66). -/
def VOp.minor : VOp → Nat
  | .or => 1 | .xor => 2 | .andn => 3 | .srl => 1 | .sra => 2 | .red o => o.code | .scan o => o.code | .slideDown => 1
  | _ => 0

def VOp.modK : VOp → ModK
  | .add | .sub | .mul | .mulh | .madd | .min | .max | .abs | .dot4 => .s
  | .fadd | .fsub | .fmul | .fma | .fmin | .fmax | .fdiv | .fsqrt | .frcp | .frsq | .fexp2 | .flog2 => .r
  | .red _ | .scan _ => .red
  | _ => .z

def VOp.tyK : VOp → TyK
  | .add | .sub | .mul | .mulh | .madd | .min | .max | .abs | .and | .or | .xor | .andn | .sll | .srl | .sra => .int
  | .fadd | .fsub | .fmul | .fma | .fmin | .fmax | .fdiv | .fsqrt | .frcp | .frsq | .fexp2 | .flog2 => .flt
  | .sel => .intFlt
  | .dot4 => .bytes
  | .red .and | .red .or | .red .xor => .int
  | .red _ | .scan _ => .intFlt
  | _ => .perm

/-- Number of sources in F0. -/
def VOp.srcs : VOp → Nat
  | .madd | .fma | .dot4 | .perm | .slideUp | .slideDown => 3
  | .abs | .fsqrt | .frcp | .frsq | .fexp2 | .flog2 => 1
  | _ => 2

/-- Whether F1 exists (R66). -/
def VOp.f1 : VOp → Bool
  | .madd | .abs | .fma | .fsqrt | .frcp | .frsq | .fexp2 | .flog2 | .sel | .dot4 | .red _ | .scan _ | .perm => false
  | _ => true

/-- The lane instruction at a major opcode and minor function; the float family's minor holds saturation. -/
def VOp.ofCode (opc minor : Nat) : Option VOp :=
  match opc, minor with
  | 0x01, 0 => some .add | 0x02, 0 => some .sub | 0x03, 0 => some .mul | 0x04, 0 => some .mulh | 0x05, 0 => some .madd
  | 0x06, 0 => some .min | 0x07, 0 => some .max | 0x08, 0 => some .abs
  | 0x09, 0 => some .and | 0x09, 1 => some .or | 0x09, 2 => some .xor | 0x09, 3 => some .andn
  | 0x0A, 0 => some .sll | 0x0A, 1 => some .srl | 0x0A, 2 => some .sra
  | 0x21, 0 => some .sel | 0x2D, 0 => some .dot4
  | 0x2E, 0 => some (.red .add) | 0x2E, 1 => some (.red .min) | 0x2E, 2 => some (.red .max)
  | 0x2E, 3 => some (.red .and) | 0x2E, 4 => some (.red .or) | 0x2E, 5 => some (.red .xor)
  | 0x2F, 0 => some (.scan .add) | 0x2F, 1 => some (.scan .min) | 0x2F, 2 => some (.scan .max)
  | 0x30, 0 => some .perm | 0x31, 0 => some .shuf | 0x32, 0 => some .slideUp | 0x32, 1 => some .slideDown
  | 0x33, 0 => some .bcast | 0x34, 0 => some .extr | 0x35, 0 => some .ins
  | o, m =>
    if m < 2 then
      match o with
      | 0x10 => some .fadd | 0x11 => some .fsub | 0x12 => some .fmul | 0x13 => some .fma | 0x14 => some .fmin
      | 0x15 => some .fmax | 0x16 => some .fdiv | 0x17 => some .fsqrt | 0x18 => some .frcp | 0x19 => some .frsq
      | 0x1A => some .fexp2 | 0x1B => some .flog2
      | _ => none
    else none

/-- The instruction of a lane op. -/
def VOp.mk : VOp → VA → Instr
  | .add => .vadd | .sub => .vsub | .mul => .vmul | .mulh => .vmulh | .madd => .vmadd | .min => .vmin | .max => .vmax
  | .abs => .vabs | .and => .vand | .or => .vor | .xor => .vxor | .andn => .vandn | .sll => .vsll | .srl => .vsrl
  | .sra => .vsra | .fadd => .vfadd | .fsub => .vfsub | .fmul => .vfmul | .fma => .vfma | .fmin => .vfmin
  | .fmax => .vfmax | .fdiv => .vfdiv | .fsqrt => .vfsqrt | .frcp => .vfrcp | .frsq => .vfrsq | .fexp2 => .vfexp2
  | .flog2 => .vflog2 | .sel => .vsel | .dot4 => .vdot4 | .red o => .vred o | .scan o => .vscan o | .perm => .vperm
  | .shuf => .vshuf | .slideUp => .vslideUp | .slideDown => .vslideDown | .bcast => .vbcast | .ins => .vins
  | .extr => .vextr

/-- The operands of a lane instruction meet its row of R66 and its own description (R159 to R176). -/
def VA.ok (o : VOp) (a : VA) : Bool :=
  o.tyK.ok a.ty
  && (match o.modK with
      | .s => a.rnd == .rne
      | .z => a.rnd == .rne && !a.sat
      | .r => true
      | .red => if a.ty.isFlt then !a.sat else a.rnd == .rne)
  && (match o.srcs, a.s2, a.s3 with
      | 1, .none, .none => true
      | 2, .op _, .none => true
      | 2, .imm _, .none => o.f1
      | 3, .op _, .some _ => true
      | 3, .imm _, .none => o.f1
      | _, _, _ => false)
  && (match o, a.d with
      | .extr, .x _ => a.mask == 0
      | .extr, _ => false
      | .scan .and, _ | .scan .or, _ | .scan .xor, _ => false
      | _, _ => true)

/-! ### Conversions -/

inductive COp where
  | cvt | pack | unpack | qnt | dq
  deriving DecidableEq, Repr

def COp.opc : COp → Nat
  | .cvt => 0x28 | .pack => 0x29 | .unpack => 0x2A | .qnt => 0x2B | .dq => 0x2C

def COp.ofCode : Nat → Option COp
  | 0x28 => some .cvt | 0x29 => some .pack | 0x2A => some .unpack | 0x2B => some .qnt | 0x2C => some .dq | _ => none

def COp.mk : COp → VC → Instr
  | .cvt => .vcvt | .pack => .vpack | .unpack => .vunpack | .qnt => .vqnt | .dq => .vdq

/-- A literal operand below `n`. -/
def Src.isLitBelow (n : Nat) : Src → Bool
  | .lit j => j.toNat < n
  | _ => false

/-- Source 1 of `vcvt`: kinds 0b00 and 0b01 (R168). -/
def Src.isVecOrX : Src → Bool
  | .v _ | .o _ | .b _ | .x _ => true
  | _ => false

def Src.isVec : Src → Bool
  | .v _ | .o _ | .b _ => true
  | _ => false

/-- Pairs of `vpack` (R170). -/
def packOk (dt st : ElTy) : Bool :=
  match dt, st with
  | .i16, .i32 | .i16, .u32 | .u16, .i32 | .u16, .u32 => true
  | .i8, .i16 | .i8, .u16 | .u8, .i16 | .u8, .u16 | .qa8, .i16 | .qa8, .u16 => true
  | .qa4, .i8 | .qa4, .u8 | .qa4, .qa8 => true
  | _, _ => false

/-- The operands of a conversion meet R62 and R168 to R171. -/
def VC.ok (o : COp) (a : VC) : Bool :=
  match o with
  | .cvt =>
    a.s1.isVecOrX
    && (if a.dt == .sb48 then
          a.st.isFlt && (if a.st == .f32 then a.s2.isVec else a.s2.isLitBelow 1)
        else if a.st == .sb48 then
          a.dt.isFlt && a.s2.isLitBelow (if a.dt == .f32 then 2 else 1)
        else
          (a.dt.isInt || a.dt.isAnyFlt) && (a.st.isInt || a.st.isAnyFlt) && a.m == 0
          && a.s2.isLitBelow (max (a.st.width / a.dt.width) (a.dt.width / a.st.width)))
  | .pack => a.rnd == .rne && a.m == 0 && packOk a.dt a.st
  | .unpack => a.rnd == .rne && a.m == 0 && !(a.st == .qa4 && a.dt == .qa4) && packOk a.st a.dt && a.s2.isLitBelow 2
  | .qnt =>
    a.m == 0 && a.st == .f32 && (a.dt == .qa4 || a.dt == .qa8)
    && (match a.s2 with | .x _ | .cb _ => true | _ => false)
  | .dq =>
    a.m == 0 && a.dt == .f32 && (a.st == .qa4 || a.st == .qa8)
    && (match a.s2 with | .x _ | .cb _ => true | _ => false)

/-! ### Vector memory -/

inductive MOp where
  | ld | st | lds | sts | ldx | stx
  deriving DecidableEq, Repr

def MOp.opc : MOp → Nat
  | .ld => 0x38 | .st => 0x39 | .lds => 0x3A | .sts => 0x3B | .ldx => 0x3C | .stx => 0x3D

def MOp.ofCode : Nat → Option MOp
  | 0x38 => some .ld | 0x39 => some .st | 0x3A => some .lds | 0x3B => some .sts | 0x3C => some .ldx
  | 0x3D => some .stx | _ => none

def MOp.mk : MOp → VM → Instr
  | .ld => .vld | .st => .vst | .lds => .vlds | .sts => .vsts | .ldx => .vldx | .stx => .vstx

def MOp.isLoad : MOp → Bool
  | .ld | .lds | .ldx => true
  | _ => false

/-- Whether the format is F3 (R66). -/
def MOp.f3 : MOp → Bool
  | .ld | .st => false
  | _ => true

/-- A load's data field: kind 0b00, payloads 0 to 55 (R177). -/
def Src.isVO : Src → Bool
  | .v _ | .o _ => true
  | _ => false

def Src.isX : Src → Bool
  | .x _ => true
  | _ => false

/-- The operands of a vector memory word (R177 to R180). An F2 word has no index, and F3 no offset. -/
def VM.ok (o : MOp) (a : VM) : Bool :=
  (match o with
   | .ldx | .stx => a.ty == .i32 || a.ty == .u32 || a.ty == .f32
   | _ => a.ty.isInt || a.ty.isFlt)
  && (!o.isLoad || a.data.isVO)
  && (match o with
      | .ld | .st => a.idx == .x 0
      | .lds | .sts => a.idx.isX && a.off == 0
      | .ldx | .stx => a.idx.isVec && a.off == 0)

/-! ### Element ops -/

inductive ElOp where
  | nop | mov | sel | steer | repl | add | sub | mul | mulh | mac | min | max | abs | neg
  | and | or | xor | andn | not | sll | srl | sra | cmpEq | cmpNe | cmpLt | cmpLe
  | fadd | fsub | fmul | fma | fmin | fmax | fcmpEq | fcmpLt | fcmpLe | fcmpUn
  | vredAdd | vredMin | vredMax | vredFadd | vredFmin | vredFmax | vextr | vins | settag | endtest | csacc | csadd
  deriving DecidableEq, Repr

/-- Bits [126:120] of the op (R78). -/
def ElOp.code : ElOp → Nat
  | .nop => 0x00 | .mov => 0x01 | .sel => 0x02 | .steer => 0x03 | .repl => 0x04 | .add => 0x05 | .sub => 0x06
  | .mul => 0x07 | .mulh => 0x08 | .mac => 0x09 | .min => 0x0A | .max => 0x0B | .abs => 0x0C | .neg => 0x0D
  | .and => 0x10 | .or => 0x11 | .xor => 0x12 | .andn => 0x13 | .not => 0x14 | .sll => 0x15 | .srl => 0x16
  | .sra => 0x17 | .cmpEq => 0x18 | .cmpNe => 0x19 | .cmpLt => 0x1A | .cmpLe => 0x1B
  | .fadd => 0x20 | .fsub => 0x21 | .fmul => 0x22 | .fma => 0x23 | .fmin => 0x24 | .fmax => 0x25
  | .fcmpEq => 0x26 | .fcmpLt => 0x27 | .fcmpLe => 0x28 | .fcmpUn => 0x29
  | .vredAdd => 0x30 | .vredMin => 0x31 | .vredMax => 0x32 | .vredFadd => 0x33 | .vredFmin => 0x34 | .vredFmax => 0x35
  | .vextr => 0x36 | .vins => 0x37 | .settag => 0x38 | .endtest => 0x39 | .csacc => 0x3A | .csadd => 0x3B

def ElOp.ofCode : Nat → Option ElOp
  | 0x00 => some .nop | 0x01 => some .mov | 0x02 => some .sel | 0x03 => some .steer | 0x04 => some .repl
  | 0x05 => some .add | 0x06 => some .sub | 0x07 => some .mul | 0x08 => some .mulh | 0x09 => some .mac
  | 0x0A => some .min | 0x0B => some .max | 0x0C => some .abs | 0x0D => some .neg
  | 0x10 => some .and | 0x11 => some .or | 0x12 => some .xor | 0x13 => some .andn | 0x14 => some .not
  | 0x15 => some .sll | 0x16 => some .srl | 0x17 => some .sra
  | 0x18 => some .cmpEq | 0x19 => some .cmpNe | 0x1A => some .cmpLt | 0x1B => some .cmpLe
  | 0x20 => some .fadd | 0x21 => some .fsub | 0x22 => some .fmul | 0x23 => some .fma | 0x24 => some .fmin
  | 0x25 => some .fmax | 0x26 => some .fcmpEq | 0x27 => some .fcmpLt | 0x28 => some .fcmpLe | 0x29 => some .fcmpUn
  | 0x30 => some .vredAdd | 0x31 => some .vredMin | 0x32 => some .vredMax | 0x33 => some .vredFadd
  | 0x34 => some .vredFmin | 0x35 => some .vredFmax | 0x36 => some .vextr | 0x37 => some .vins
  | 0x38 => some .settag | 0x39 => some .endtest | 0x3A => some .csacc | 0x3B => some .csadd
  | _ => none

def ElOp.mk : ElOp → TWord → Instr
  | .nop => .elNop | .mov => .elMov | .sel => .elSel | .steer => .elSteer | .repl => .elRepl | .add => .elAdd
  | .sub => .elSub | .mul => .elMul | .mulh => .elMulh | .mac => .elMac | .min => .elMin | .max => .elMax
  | .abs => .elAbs | .neg => .elNeg | .and => .elAnd | .or => .elOr | .xor => .elXor | .andn => .elAndn
  | .not => .elNot | .sll => .elSll | .srl => .elSrl | .sra => .elSra | .cmpEq => .elCmpEq | .cmpNe => .elCmpNe
  | .cmpLt => .elCmpLt | .cmpLe => .elCmpLe | .fadd => .elFadd | .fsub => .elFsub | .fmul => .elFmul
  | .fma => .elFma | .fmin => .elFmin | .fmax => .elFmax | .fcmpEq => .elFcmpEq | .fcmpLt => .elFcmpLt
  | .fcmpLe => .elFcmpLe | .fcmpUn => .elFcmpUn | .vredAdd => .elVredAdd | .vredMin => .elVredMin
  | .vredMax => .elVredMax | .vredFadd => .elVredFadd | .vredFmin => .elVredFmin | .vredFmax => .elVredFmax
  | .vextr => .elVextr | .vins => .elVins | .settag => .elSettag | .endtest => .elEndtest | .csacc => .elCsacc
  | .csadd => .elCsadd

/-- Ops that exist only in the vector class (R78). -/
def ElOp.vecOnly : ElOp → Bool
  | .repl | .vredAdd | .vredMin | .vredMax | .vredFadd | .vredFmin | .vredFmax | .vextr | .vins | .csacc | .csadd => true
  | _ => false

/-- Ops of the vector class whose result is scalar (R208). -/
def ElOp.scalarResult : ElOp → Bool
  | .vredAdd | .vredMin | .vredMax | .vredFadd | .vredFmin | .vredFmax | .vextr => true
  | _ => false

/-- Which of A, B and C the op reads (R210 to R219), as the number of leading sources. -/
def ElOp.reads : ElOp → Nat
  | .nop => 0
  | .mov | .repl | .abs | .neg | .not | .endtest => 1
  | .sel | .mac | .fma | .vins => 3
  | _ => 2

/-- Modifier layouts of R77 with the limits of R209, R212, R213 and R216. -/
inductive ElMod where
  | none | int | logic | cmp | redInt | flt
  deriving DecidableEq, Repr

def ElOp.modK : ElOp → ElMod
  | .add | .sub | .mul | .mulh | .mac | .min | .max | .abs | .neg => .int
  | .and | .or | .xor | .andn | .not | .sll | .srl | .sra => .logic
  | .cmpEq | .cmpNe | .cmpLt | .cmpLe => .cmp
  | .fadd | .fsub | .fmul | .fma | .fmin | .fmax | .vredFadd | .vredFmin | .vredFmax => .flt
  | .vredAdd | .vredMin | .vredMax => .redInt
  | _ => .none

def ElMod.ok (k : ElMod) (vec : Bool) (m : BitVec 4) : Bool :=
  let wOk := !(vec && m.toNat / 2 % 4 == 1)
  match k with
  | .none => m == 0
  | .int => wOk
  | .logic => wOk && m.toNat / 8 == 0 && m.toNat % 2 == 0
  | .cmp => wOk && m.toNat % 2 == 0
  | .redInt => m.toNat / 2 % 4 == 0
  | .flt => m.toNat / 2 < 5

/-- A source selector that names a port (R75), as the bit number of R74. -/
def selPort (n : Nat) : Option Nat := if n < 0x0A then some n else none

/-- A selector of a defined kind for a class (R75, R209): vi heads and gv registers only in the vector class, and a
port only if it is in the required-input mask. -/
def selOk (vec : Bool) (req : Nat) (n : Nat) : Bool :=
  if n < 0x0A then req / 2 ^ n % 2 == 1 && (vec || !(4 ≤ n && n < 8))
  else if 0x10 ≤ n && n < 0x18 then true
  else if 0x18 ≤ n && n < 0x1C then vec
  else n == 0x1C || n == 0x1D

/-- Whether a selector is vector-valued (R75). -/
def selVec (n : Nat) : Bool := (4 ≤ n && n < 8) || (0x18 ≤ n && n < 0x1C)

/-- The points of R73 to R78 and R209 to R219 that a triggered word settles by itself. A vector-class `steer` has no scalar
result, so it drives vo and co ports only (R74). A tag test of a word whose op reads no source A is refused: its A field names no
port (DEDUCED, log 45). An immediate or zero source A of a `steer` counts as scalar, so that a vector-class `steer` with one is refused
(DESIGN CHOICE, log 45). -/
def TWord.ok (o : ElOp) (w : TWord) : Bool :=
  let req := w.req.toNat
  let out := w.out.toNat
  let aPort := selPort w.a.toNat
  let vecResult := w.vec && !o.scalarResult
  (w.vec || !o.vecOnly)
  && (if 0 < o.reads then selOk w.vec req w.a.toNat else w.a == 0)
  && (if 1 < o.reads then selOk w.vec req w.b.toNat else w.b == 0)
  && (if 2 < o.reads then selOk w.vec req w.c.toNat else w.c == 0)
  && w.req &&& w.deq == w.deq
  && (if o == .nop then out == 0 else if o == .steer then true
      else if vecResult then out % 16 == 0 else out / 16 % 16 == 0)
  && (if o == .nop || o == .steer then w.rd == 0
      else if vecResult then w.rd == 0 || (9 ≤ w.rd.toNat && w.rd.toNat ≤ 12) else w.rd.toNat ≤ 8)
  && o.modK.ok w.vec w.mod
  && w.test.toNat < 12 && (w.test == 0 || (aPort.isSome && 0 < o.reads))
  && (if o == .settag then w.tact == 0 else true)
  && (8 ≤ w.pfr.toNat || w.pfr == 0)
  && (if o == .nop then w.pfr == 0 else true)
  && (if o == .settag then true
      else if o == .endtest then aPort.isSome && w.imm.toNat < 16 && w.imm != 0
      else if o == .steer then
        let els := w.imm.toNat % 1024
        let cls := if selVec w.a.toNat then 0x0F0 else if 8 ≤ w.a.toNat && w.a.toNat < 10 then 0x300 else 0x00F
        w.imm.toNat < 1024 && out != 0 && els != 0 && (out &&& els) == 0
        && (out &&& cls) == out && (els &&& cls) == els && !(w.vec && cls == 0x00F)
      else w.imm == 0 || (0 < o.reads && w.a == 0x1C) || (1 < o.reads && w.b == 0x1C) || (2 < o.reads && w.c == 0x1C))
  && (if o == .repl then !selVec w.a.toNat else true)

/-! ### Profiles -/

/-- The profile and revision at which a word first appears (R20, R66, R132, R306, R329, R348, R388; the launch and
barrier words with the control-flow set, log 31). The RV64 base has none. -/
def Instr.profile : Instr → Option (Nat × Nat)
  | .lpad .. | .callt .. | .rett | .tagp .. | .tagx .. | .fuse .. | .split | .recv .. | .peek .. | .wfm .. | .uiret
  | .yield | .prio .. | .cbld .. | .fenceScope .. | .ldAcq .. | .stRel .. | .amoI64 .. | .amoI32 .. | .amoCas128 ..
  | .amoFaddF32 .. | .amoFadd2Bf16 .. | .bar .. | .barArr .. | .barWait .. | .jlaunch .. | .glaunch .. | .gdep ..
  | .ctxSave .. | .ctxLoad .. | .plbInv .. | .rgnShrink .. | .rgnDrain .. | .trapRec .. => some (1, 1)
  | .vadd .. | .vsub .. | .vmul .. | .vmulh .. | .vmadd .. | .vmin .. | .vmax .. | .vabs .. | .vand .. | .vor ..
  | .vxor .. | .vandn .. | .vsll .. | .vsrl .. | .vsra .. | .vfadd .. | .vfsub .. | .vfmul .. | .vfma .. | .vfmin ..
  | .vfmax .. | .vfdiv .. | .vfsqrt .. | .vfrcp .. | .vfrsq .. | .vfexp2 .. | .vflog2 .. | .vcmp .. | .vsel ..
  | .kand .. | .kor .. | .kxor .. | .kandn .. | .knot .. | .kpop .. | .kfirst .. | .vcvt .. | .vpack .. | .vunpack ..
  | .vqnt .. | .vdq .. | .vdot4 .. | .vred .. | .vscan .. | .vperm .. | .vshuf .. | .vslideUp .. | .vslideDown ..
  | .vbcast .. | .vins .. | .vextr .. | .vld .. | .vst .. | .vlds .. | .vsts .. | .vldx .. | .vstx .. | .ldFe ..
  | .ldFeTake .. | .stFe .. | .stFeFill .. | .cpy .. | .cpyStat .. | .pf .. | .grpForm .. | .grpDrop ..
  | .collAllreduce .. | .collRedscatter .. | .collAllgather .. | .collBcast .. | .collAlltoall .. | .collCancel .. =>
    some (1, 1)
  | .refLd .. | .refSt .. | .refLdf .. | .refStf .. | .refAlloc .. | .refPin .. | .refUnpin .. | .refEq .. | .refMov ..
  | .refNull .. | .refChk .. | .kilnGo .. | .kilnStat .. => some (1, 2)
  | .subAdd .. | .subDrop .. | .subFlush .. | .subStat .. | .raceRd .. => some (1, 3)
  | .vldb .. | .cpyPlane .. => some (1, 4)
  | .mxTile .. | .mxTileAcc .. | .mxStat .. => some (2, 1)
  | .mxSort .. => some (2, 2)
  | .mxTopk .. => some (2, 3)
  | _ => none

/-- A word is undefined when the running code object does not declare its profile and revision (R69). -/
def Instr.declared (profen : BitVec 48) (i : Instr) : Bool :=
  match i.profile with
  | none => true
  | some (1, r) => r ≤ profen.toNat % 2 ^ 16
  | some (2, r) => r ≤ profen.toNat / 2 ^ 16 % 2 ^ 16
  | some (_, r) => r ≤ profen.toNat / 2 ^ 32

/-! ### CSRs -/

/-- Whether a CSR instruction writes (RISC-V Zicsr). -/
def CsrOp.writes (c : CsrOp) : Bool :=
  match c.kind with
  | .rw | .rwi => true
  | _ => c.src != 0

/-- Addresses in the Skearis ranges of R131. -/
def skRange (a : Nat) : Bool :=
  (0x800 ≤ a && a ≤ 0x8FF) || (0xCC0 ≤ a && a ≤ 0xCFF) || (0x5C0 ≤ a && a ≤ 0x5FF)

/-- Skearis CSR addresses that the table of R131 lists. -/
def skListed (a : Nat) : Bool :=
  (0x800 ≤ a && a ≤ 0x809) || (0x810 ≤ a && a ≤ 0x815) || (0xCC0 ≤ a && a ≤ 0xCC6) || (0x5C0 ≤ a && a ≤ 0x5D8)

/-- The CSR instructions whose write has a row of its own. -/
inductive CsrRow where
  | pdrights | quantum | matrix | prridx | tcq | other | read
  deriving DecidableEq, Repr

def CsrOp.row (c : CsrOp) : CsrRow :=
  if !c.writes then .read
  else match c.csr.toNat with
    | 0x5C0 => .quantum
    | 0x5CB => .pdrights
    | 0x810 | 0x811 | 0x812 => .matrix
    | 0x5C8 => .prridx
    | 0x5CC => .tcq
    | _ => .other

def CsrRow.mk : CsrRow → CsrOp → Instr
  | .pdrights => .pdrightsWrite | .quantum => .quantumWrite | .matrix => .matrixCsrWrite | .prridx => .prridxWrite
  | .tcq => .tcqWrite | .other => .csrWrite | .read => fun c => .rv64BaseInstruction (.csrRead c)

/-- A CSR word is undefined when it names an unlisted address of the Skearis ranges (R131). -/
def CsrOp.ok (c : CsrOp) : Bool := !skRange c.csr.toNat || skListed c.csr.toNat

end Sys2Proof
end

