-- ==== Sys2Proof/WellFormed.lean ====
section
/-! DEFINITION. Which instructions have an encoding: the conditions of R61 to R78 and of each instruction's own
description on the operands of a word. The steps of engines, of the fabric and of the host port have no word. -/

namespace Sys2Proof

/-- Destination position of an h register (R62). -/
def isH (n : BitVec 5) : Bool := n.toNat < 16

/-- Types of the collectives (R362): the reducing kinds take INT32, FP32 and BF16. -/
def collReduceTy (t : ElTy) : Bool := t == .i32 || t == .f32 || t == .bf16

/-- Shift immediates keep within the width; the others are any 12 bits (R129). -/
def ImmOp.immOk (o : ImmOp) (imm : BitVec 12) : Bool :=
  match o with
  | .slli | .srli | .srai | .slliuw | .rori => imm.toNat < 64
  | .slliw | .srliw | .sraiw | .roriw => imm.toNat < 32
  | _ => true

/-- Rounding fields 5 and 6 of the F and D extensions are reserved. -/
def rmOk (rm : BitVec 3) : Bool := rm != 5 && rm != 6

def Rv.wf : Rv → Bool
  | .alu .zexth _ _ rs2 => rs2 == 0
  | .imm op _ _ i => op.immOk i
  | .csrRead c => c.ok && !c.writes
  | .fop .fsqrt _ rm _ _ rs2 => rmOk rm && rs2 == 0
  | .fop _ _ rm _ _ _ => rmOk rm
  | .fma _ _ rm _ _ _ _ => rmOk rm
  | .fcvtToInt _ _ rm _ _ | .fcvtFromInt _ _ rm _ _ | .fcvtFF _ rm _ _ => rmOk rm
  | _ => true

/-- The word of a row's own CSR write names that row's register. -/
def CsrOp.wf (c : CsrOp) (r : CsrRow) : Bool := c.ok && c.row == r

/-- The instruction is one that a word can hold (R69). Steps without a word meet it trivially. -/
def Instr.wf : Instr → Bool
  | .fuse _ n => n == 1 || n == 2 || n == 3
  | .recv rd | .peek rd => rd != 0
  | .amoCas128 _ rd _ rs2 => rd != 0 && rs2 != 0
  | .bar s _ _ | .barArr s _ _ | .barWait s _ _ => s != .thr
  | .vadd a => a.ok .add | .vsub a => a.ok .sub | .vmul a => a.ok .mul | .vmulh a => a.ok .mulh
  | .vmadd a => a.ok .madd | .vmin a => a.ok .min | .vmax a => a.ok .max | .vabs a => a.ok .abs
  | .vand a => a.ok .and | .vor a => a.ok .or | .vxor a => a.ok .xor | .vandn a => a.ok .andn
  | .vsll a => a.ok .sll | .vsrl a => a.ok .srl | .vsra a => a.ok .sra
  | .vfadd a => a.ok .fadd | .vfsub a => a.ok .fsub | .vfmul a => a.ok .fmul | .vfma a => a.ok .fma
  | .vfmin a => a.ok .fmin | .vfmax a => a.ok .fmax | .vfdiv a => a.ok .fdiv | .vfsqrt a => a.ok .fsqrt
  | .vfrcp a => a.ok .frcp | .vfrsq a => a.ok .frsq | .vfexp2 a => a.ok .fexp2 | .vflog2 a => a.ok .flog2
  | .vsel a => a.ok .sel | .vdot4 a => a.ok .dot4 | .vred o a => a.ok (.red o) | .vscan o a => a.ok (.scan o)
  | .vperm a => a.ok .perm | .vshuf a => a.ok .shuf | .vslideUp a => a.ok .slideUp | .vslideDown a => a.ok .slideDown
  | .vbcast a => a.ok .bcast | .vins a => a.ok .ins | .vextr a => a.ok .extr
  | .vcmp c kd ty _ _ s2 =>
    kd != 0 && (ty.isFlt || (ty.isInt && c != .un && c != .ord)) && (match s2 with | .none => false | _ => true)
  | .kand d _ _ | .kor d _ _ | .kxor d _ _ | .kandn d _ _ | .knot d _ => d != 0
  | .vcvt a => a.ok .cvt | .vpack a => a.ok .pack | .vunpack a => a.ok .unpack | .vqnt a => a.ok .qnt
  | .vdq a => a.ok .dq
  | .vld a => a.ok .ld | .vst a => a.ok .st | .vlds a => a.ok .lds | .vsts a => a.ok .sts | .vldx a => a.ok .ldx
  | .vstx a => a.ok .stx
  | .vldb _ a => a.ty == .sb48 && a.base.toNat % 2 == 0 && a.data.isVO && a.idx == .x 0
  | .pf scope _ _ => scope == .core || scope == .die
  | .cpy r | .cpyPlane r | .kilnGo r | .subAdd r | .raceRd r | .mxTile r | .mxTileAcc r | .mxSort r | .mxTopk r =>
    r.s3 == 0
  | .refLd ty _ _ _ | .refSt ty _ _ _ => ty.code ≤ 7
  | .refMov toX d _ => toX || isH d
  | .collAllreduce ty r | .collRedscatter ty r => collReduceTy ty && r.s3 == 0
  | .collAllgather ty r | .collBcast ty r | .collAlltoall ty r => ty.code ≤ 9 && r.s3 == 0
  | .elNop w => w.ok .nop | .elMov w => w.ok .mov | .elSel w => w.ok .sel | .elSteer w => w.ok .steer
  | .elRepl w => w.ok .repl | .elAdd w => w.ok .add | .elSub w => w.ok .sub | .elMul w => w.ok .mul
  | .elMulh w => w.ok .mulh | .elMac w => w.ok .mac | .elMin w => w.ok .min | .elMax w => w.ok .max
  | .elAbs w => w.ok .abs | .elNeg w => w.ok .neg | .elAnd w => w.ok .and | .elOr w => w.ok .or
  | .elXor w => w.ok .xor | .elAndn w => w.ok .andn | .elNot w => w.ok .not | .elSll w => w.ok .sll
  | .elSrl w => w.ok .srl | .elSra w => w.ok .sra | .elCmpEq w => w.ok .cmpEq | .elCmpNe w => w.ok .cmpNe
  | .elCmpLt w => w.ok .cmpLt | .elCmpLe w => w.ok .cmpLe | .elFadd w => w.ok .fadd | .elFsub w => w.ok .fsub
  | .elFmul w => w.ok .fmul | .elFma w => w.ok .fma | .elFmin w => w.ok .fmin | .elFmax w => w.ok .fmax
  | .elFcmpEq w => w.ok .fcmpEq | .elFcmpLt w => w.ok .fcmpLt | .elFcmpLe w => w.ok .fcmpLe
  | .elFcmpUn w => w.ok .fcmpUn | .elVredAdd w => w.ok .vredAdd | .elVredMin w => w.ok .vredMin
  | .elVredMax w => w.ok .vredMax | .elVredFadd w => w.ok .vredFadd | .elVredFmin w => w.ok .vredFmin
  | .elVredFmax w => w.ok .vredFmax | .elVextr w => w.ok .vextr | .elVins w => w.ok .vins
  | .elSettag w => w.ok .settag | .elEndtest w => w.ok .endtest | .elCsacc w => w.ok .csacc
  | .elCsadd w => w.ok .csadd
  | .pdrightsWrite c => c.wf .pdrights | .quantumWrite c => c.wf .quantum | .matrixCsrWrite c => c.wf .matrix
  | .prridxWrite c => c.wf .prridx | .tcqWrite c => c.wf .tcq | .csrWrite c => c.wf .other
  | .plainStore st => !st.fp || 2 ≤ st.w.toNat
  | .scalarLoad ld => (!ld.uns || (ld.w.toNat < 3 && !ld.fp)) && (!ld.fp || 2 ≤ ld.w.toNat)
  | .rv64BaseInstruction i => i.wf
  | _ => true

end Sys2Proof
end

