-- ==== Sys2Proof/Decode.lean ====
section
/-! DEFINITION. The decoder: from the bytes of a control-flow instruction, or the 128 bits of a triggered word, to an
instruction or to the name of what makes it undefined (R58 to R69, R73 to R78, R129); and the encoder. -/

namespace Sys2Proof

/-- Why a word is undefined (R69). -/
inductive Undef where
  | length | opcode | minor | format | elementType | modifier | scope | operand | register | zeroField | csr | op
  deriving DecidableEq, Repr

/-- Bits [lo + n - 1 : lo] of a word. -/
def fld (w lo n : Nat) : Nat := w / 2 ^ lo % 2 ^ n

/-- A value when the condition holds, else the reason the word is undefined. -/
def need (c : Bool) (u : Undef) (i : Instr) : Except Undef Instr := if c then .ok i else .error u

/-- A value that exists, else the reason. -/
def orUndef {α : Type} (o : Option α) (u : Undef) : Except Undef α :=
  match o with
  | some a => .ok a
  | none => .error u

/-- A register-number field of the x file (R62). -/
def x5 (n : Nat) : Option (BitVec 5) := if n < 32 then some (BitVec.ofNat 5 n) else none
/-- Of the h file. -/
def h4 (n : Nat) : Option (BitVec 4) := if n < 16 then some (BitVec.ofNat 4 n) else none
/-- Of the k file. -/
def k3 (n : Nat) : Option (BitVec 3) := if n < 8 then some (BitVec.ofNat 3 n) else none

/-! ### 32-bit words -/

/-- The register fields of R-type and I-type words (R67). -/
def rdF (w : Nat) : BitVec 5 := BitVec.ofNat 5 (fld w 7 5)
def rs1F (w : Nat) : BitVec 5 := BitVec.ofNat 5 (fld w 15 5)
def rs2F (w : Nat) : BitVec 5 := BitVec.ofNat 5 (fld w 20 5)
def immF (w : Nat) : BitVec 12 := BitVec.ofNat 12 (fld w 20 12)

/-- Custom-0 (R67). -/
def decodeCustom0 (w : Nat) : Except Undef Instr :=
  let f7 := fld w 25 7
  let rd0 := fld w 7 5 == 0
  let r10 := fld w 15 5 == 0
  let r20 := fld w 20 5 == 0
  let pair := fld w 7 1 == 0
  match fld w 12 3 with
  | 0 => need (rd0 && r10 && fld w 24 8 == 0) .zeroField (.lpad (BitVec.ofNat 4 (fld w 20 4)))
  | 1 =>
    match f7 with
    | 0x00 => .ok (.callt (rdF w) (rs1F w) (rs2F w))
    | 0x01 => need (rd0 && r10 && r20) .zeroField .rett
    | 0x02 => .ok (.tagp (rdF w) (rs1F w) (rs2F w))
    | 0x03 => need r20 .zeroField (.tagx (rdF w) (rs1F w))
    | 0x04 => need r10 .zeroField (.fuse (rdF w) (rs2F w))
    | 0x05 => need (rd0 && r10 && r20) .zeroField .split
    | 0x06 => need (r10 && r20 && pair) .register (.recv (BitVec.ofNat 4 (fld w 8 4)))
    | 0x07 => need (r10 && r20 && pair) .register (.peek (BitVec.ofNat 4 (fld w 8 4)))
    | 0x08 => need (r10 && r20) .zeroField (.wfm (rdF w))
    | 0x09 => need (rd0 && r10 && r20) .zeroField .uiret
    | 0x0A => need (rd0 && r10 && r20) .zeroField .yield
    | 0x0B => need (rd0 && r20) .zeroField (.prio (rs1F w))
    | _ => .error .opcode
  | 2 => need (rd0 && fld w 22 10 == 0) .zeroField (.cbld (BitVec.ofNat 2 (fld w 20 2)) (rs1F w))
  | 3 => do
    let s ← orUndef (Scope.ofCode (fld w 20 3)) .scope
    need (rd0 && r10 && fld w 23 9 == 0) .zeroField (.fenceScope s)
  | 4 => do
    let s ← orUndef (Scope.ofCode (fld w 29 3)) .scope
    need (r20 && fld w 25 2 == 0 && fld w 28 1 == 1) .zeroField (.ldAcq s (fld w 27 1 == 1) (rdF w) (rs1F w))
  | 5 => do
    let s ← orUndef (Scope.ofCode (fld w 29 3)) .scope
    need (rd0 && fld w 25 2 == 0 && fld w 28 1 == 1) .zeroField (.stRel s (fld w 27 1 == 1) (rs1F w) (rs2F w))
  | 6 => do
    let s ← orUndef (Scope.ofCode (fld w 25 3)) .scope
    if fld w 28 4 == 10 then
      need (pair && fld w 20 1 == 0) .register
        (.amoCas128 s (BitVec.ofNat 4 (fld w 8 4)) (rs1F w) (BitVec.ofNat 4 (fld w 21 4)))
    else do
      let o ← orUndef (AmoOp.ofCode (fld w 28 4)) .op
      .ok (.amoI64 o s (rdF w) (rs1F w) (rs2F w))
  | _ => do
    let s ← orUndef (Scope.ofCode (fld w 25 3)) .scope
    if fld w 28 4 == 11 then .ok (.amoFaddF32 s (rdF w) (rs1F w) (rs2F w))
    else if fld w 28 4 == 12 then .ok (.amoFadd2Bf16 s (rdF w) (rs1F w) (rs2F w))
    else do
      let o ← orUndef (AmoOp.ofCode (fld w 28 4)) .op
      .ok (.amoI32 o s (rdF w) (rs1F w) (rs2F w))

/-- Custom-1 (R68). -/
def decodeCustom1 (w : Nat) : Except Undef Instr :=
  let f7 := fld w 25 7
  let r20 := fld w 20 5 == 0
  match fld w 12 3 with
  | 0 => do
    let s ← orUndef (Scope.ofCode (fld w 25 3)) .scope
    let id := BitVec.ofNat 4 (fld w 20 4)
    let ok := fld w 15 5 == 0 && fld w 24 1 == 0
    match fld w 28 4 with
    | 0 => need ok .zeroField (.bar s id (rdF w))
    | 1 => need ok .zeroField (.barArr s id (rdF w))
    | 2 => need ok .zeroField (.barWait s id (rdF w))
    | _ => .error .op
  | 1 =>
    match f7 with
    | 0 => need r20 .zeroField (.jlaunch (rdF w) (rs1F w))
    | 1 => need r20 .zeroField (.glaunch (rdF w) (rs1F w))
    | 2 => .ok (.gdep (rdF w) (rs1F w) (rs2F w))
    | _ => .error .opcode
  | 2 =>
    match f7 with
    | 0 => .ok (.ctxSave (rdF w) (rs1F w) (rs2F w))
    | 1 => .ok (.ctxLoad (rdF w) (rs1F w) (rs2F w))
    | 2 => .ok (.plbInv (rdF w) (rs1F w) (rs2F w))
    | 3 => .ok (.rgnShrink (rdF w) (rs1F w) (rs2F w))
    | 4 => need r20 .zeroField (.rgnDrain (rdF w) (rs1F w))
    | 5 => .ok (.trapRec (rdF w) (rs1F w) (rs2F w))
    | _ => .error .opcode
  | _ => .error .opcode

/-- An operation of OP (0x33) or OP-32 (0x3B), by funct7 and funct3. -/
def AluOp.ofCode (w32 : Bool) (f7 f3 : Nat) : Option AluOp :=
  if w32 then
    match f7, f3 with
    | 0x00, 0 => some .addw | 0x00, 1 => some .sllw | 0x00, 5 => some .srlw | 0x20, 0 => some .subw
    | 0x20, 5 => some .sraw | 0x01, 0 => some .mulw | 0x01, 4 => some .divw | 0x01, 5 => some .divuw
    | 0x01, 6 => some .remw | 0x01, 7 => some .remuw | 0x04, 0 => some .adduw | 0x04, 4 => some .zexth
    | 0x10, 2 => some .sh1adduw | 0x10, 4 => some .sh2adduw | 0x10, 6 => some .sh3adduw
    | 0x30, 1 => some .rolw | 0x30, 5 => some .rorw | _, _ => none
  else
    match f7, f3 with
    | 0x00, 0 => some .add | 0x00, 1 => some .sll | 0x00, 2 => some .slt | 0x00, 3 => some .sltu | 0x00, 4 => some .xor
    | 0x00, 5 => some .srl | 0x00, 6 => some .or | 0x00, 7 => some .and
    | 0x20, 0 => some .sub | 0x20, 4 => some .xnor | 0x20, 5 => some .sra | 0x20, 6 => some .orn | 0x20, 7 => some .andn
    | 0x01, 0 => some .mul | 0x01, 1 => some .mulh | 0x01, 2 => some .mulhsu | 0x01, 3 => some .mulhu
    | 0x01, 4 => some .div | 0x01, 5 => some .divu | 0x01, 6 => some .rem | 0x01, 7 => some .remu
    | 0x10, 2 => some .sh1add | 0x10, 4 => some .sh2add | 0x10, 6 => some .sh3add
    | 0x05, 4 => some .min | 0x05, 5 => some .minu | 0x05, 6 => some .max | 0x05, 7 => some .maxu
    | 0x30, 1 => some .rol | 0x30, 5 => some .ror | _, _ => none

/-- Whether the operation is in OP-32, its funct7 and its funct3. -/
def AluOp.code : AluOp → Bool × Nat × Nat
  | .add => (false, 0x00, 0) | .sub => (false, 0x20, 0) | .sll => (false, 0x00, 1) | .slt => (false, 0x00, 2)
  | .sltu => (false, 0x00, 3) | .xor => (false, 0x00, 4) | .srl => (false, 0x00, 5) | .sra => (false, 0x20, 5)
  | .or => (false, 0x00, 6) | .and => (false, 0x00, 7)
  | .addw => (true, 0x00, 0) | .subw => (true, 0x20, 0) | .sllw => (true, 0x00, 1) | .srlw => (true, 0x00, 5)
  | .sraw => (true, 0x20, 5)
  | .mul => (false, 0x01, 0) | .mulh => (false, 0x01, 1) | .mulhsu => (false, 0x01, 2) | .mulhu => (false, 0x01, 3)
  | .div => (false, 0x01, 4) | .divu => (false, 0x01, 5) | .rem => (false, 0x01, 6) | .remu => (false, 0x01, 7)
  | .mulw => (true, 0x01, 0) | .divw => (true, 0x01, 4) | .divuw => (true, 0x01, 5) | .remw => (true, 0x01, 6)
  | .remuw => (true, 0x01, 7)
  | .adduw => (true, 0x04, 0) | .sh1add => (false, 0x10, 2) | .sh2add => (false, 0x10, 4) | .sh3add => (false, 0x10, 6)
  | .sh1adduw => (true, 0x10, 2) | .sh2adduw => (true, 0x10, 4) | .sh3adduw => (true, 0x10, 6)
  | .andn => (false, 0x20, 7) | .orn => (false, 0x20, 6) | .xnor => (false, 0x20, 4)
  | .max => (false, 0x05, 6) | .maxu => (false, 0x05, 7) | .min => (false, 0x05, 4) | .minu => (false, 0x05, 5)
  | .rol => (false, 0x30, 1) | .ror => (false, 0x30, 5) | .rolw => (true, 0x30, 1) | .rorw => (true, 0x30, 5)
  | .zexth => (true, 0x04, 4)

/-- The one-source operations of Zbb: OP-IMM or OP-IMM-32, funct3 and the 12-bit field. -/
def UnOp.code : UnOp → Bool × Nat × Nat
  | .clz => (false, 1, 0x600) | .ctz => (false, 1, 0x601) | .cpop => (false, 1, 0x602)
  | .clzw => (true, 1, 0x600) | .ctzw => (true, 1, 0x601) | .cpopw => (true, 1, 0x602)
  | .sextb => (false, 1, 0x604) | .sexth => (false, 1, 0x605) | .rev8 => (false, 5, 0x6B8) | .orcb => (false, 5, 0x287)

/-- An immediate operation: OP-IMM or OP-IMM-32, funct3, and what a shift adds to its 12-bit field. -/
def ImmOp.code : ImmOp → Bool × Nat × Nat
  | .addi => (false, 0, 0) | .slti => (false, 2, 0) | .sltiu => (false, 3, 0) | .xori => (false, 4, 0)
  | .ori => (false, 6, 0) | .andi => (false, 7, 0) | .slli => (false, 1, 0) | .srli => (false, 5, 0)
  | .srai => (false, 5, 0x400) | .addiw => (true, 0, 0) | .slliw => (true, 1, 0) | .srliw => (true, 5, 0)
  | .sraiw => (true, 5, 0x400) | .slliuw => (true, 1, 0x080) | .rori => (false, 5, 0x600) | .roriw => (true, 5, 0x600)

/-- OP-IMM (0x13). -/
def decodeOpImm (w : Nat) : Except Undef Instr :=
  let imm := immF w
  let sh := BitVec.ofNat 12 (fld w 20 6)
  let im (o : ImmOp) (i : BitVec 12) : Except Undef Instr := .ok (.rv64BaseInstruction (.imm o (rdF w) (rs1F w) i))
  let un (o : UnOp) : Except Undef Instr := .ok (.rv64BaseInstruction (.un o (rdF w) (rs1F w)))
  match fld w 12 3 with
  | 0 => im .addi imm
  | 2 => im .slti imm
  | 3 => im .sltiu imm
  | 4 => im .xori imm
  | 6 => im .ori imm
  | 7 => im .andi imm
  | 1 =>
    if fld w 26 6 == 0 then im .slli sh
    else match fld w 20 12 with
      | 0x600 => un .clz | 0x601 => un .ctz | 0x602 => un .cpop | 0x604 => un .sextb | 0x605 => un .sexth
      | _ => .error .opcode
  | _ =>
    match fld w 26 6 with
    | 0x00 => im .srli sh
    | 0x10 => im .srai sh
    | 0x18 => im .rori sh
    | _ => match fld w 20 12 with
      | 0x6B8 => un .rev8 | 0x287 => un .orcb
      | _ => .error .opcode

/-- OP-IMM-32 (0x1B). -/
def decodeOpImm32 (w : Nat) : Except Undef Instr :=
  let sh5 := BitVec.ofNat 12 (fld w 20 5)
  let sh6 := BitVec.ofNat 12 (fld w 20 6)
  let im (o : ImmOp) (i : BitVec 12) : Except Undef Instr := .ok (.rv64BaseInstruction (.imm o (rdF w) (rs1F w) i))
  let un (o : UnOp) : Except Undef Instr := .ok (.rv64BaseInstruction (.un o (rdF w) (rs1F w)))
  match fld w 12 3 with
  | 0 => im .addiw (immF w)
  | 1 =>
    if fld w 25 7 == 0 then im .slliw sh5
    else if fld w 26 6 == 0x02 then im .slliuw sh6
    else match fld w 20 12 with
      | 0x600 => un .clzw | 0x601 => un .ctzw | 0x602 => un .cpopw
      | _ => .error .opcode
  | 5 =>
    match fld w 25 7 with
    | 0x00 => im .srliw sh5
    | 0x20 => im .sraiw sh5
    | 0x30 => im .roriw sh5
    | _ => .error .opcode
  | _ => .error .opcode

def BrOp.ofCode : Nat → Option BrOp
  | 0 => some .beq | 1 => some .bne | 4 => some .blt | 5 => some .bge | 6 => some .bltu | 7 => some .bgeu | _ => none

def BrOp.code : BrOp → Nat
  | .beq => 0 | .bne => 1 | .blt => 4 | .bge => 5 | .bltu => 6 | .bgeu => 7

def RvAmoOp.ofCode : Nat → Option RvAmoOp
  | 0x01 => some .swap | 0x00 => some .add | 0x04 => some .xor | 0x0C => some .and | 0x08 => some .or
  | 0x10 => some .min | 0x14 => some .max | 0x18 => some .minu | 0x1C => some .maxu | _ => none

def RvAmoOp.code : RvAmoOp → Nat
  | .swap => 0x01 | .add => 0x00 | .xor => 0x04 | .and => 0x0C | .or => 0x08 | .min => 0x10 | .max => 0x14
  | .minu => 0x18 | .maxu => 0x1C

/-- AMO (0x2F): LR, SC and the nine operations at widths W and D. -/
def decodeAmo (w : Nat) : Except Undef Instr :=
  let dbl := fld w 12 3 == 3
  let aq := fld w 26 1 == 1
  let rl := fld w 25 1 == 1
  if fld w 12 3 == 2 || dbl then
    match fld w 27 5 with
    | 2 => need (fld w 20 5 == 0) .zeroField (.lr dbl aq rl (rdF w) (rs1F w))
    | 3 => .ok (.sc dbl aq rl (rdF w) (rs1F w) (rs2F w))
    | c => do
      let o ← orUndef (RvAmoOp.ofCode c) .op
      .ok (.rvAmo o dbl aq rl (rdF w) (rs1F w) (rs2F w))
  else .error .opcode

/-- The format of an F or D word, from one bit. -/
def fmtOf (b : Nat) : FFmt := if b == 0 then .s else .d
def FFmt.code : FFmt → Nat
  | .s => 0 | .d => 1

def IWidth.ofCode : Nat → Option IWidth
  | 0 => some .w | 1 => some .wu | 2 => some .l | 3 => some .lu | _ => none
def IWidth.code : IWidth → Nat
  | .w => 0 | .wu => 1 | .l => 2 | .lu => 3

/-- funct7 (without the format bit) and funct3 of the F and D operations that have no rounding mode. -/
def FCmp.code : FCmp → Nat × Nat
  | .fsgnj => (0x10, 0) | .fsgnjn => (0x10, 1) | .fsgnjx => (0x10, 2) | .fmin => (0x14, 0) | .fmax => (0x14, 1)
  | .fle => (0x50, 0) | .flt => (0x50, 1) | .feq => (0x50, 2)

def FCmp.ofCode : Nat → Nat → Option FCmp
  | 0x10, 0 => some .fsgnj | 0x10, 1 => some .fsgnjn | 0x10, 2 => some .fsgnjx | 0x14, 0 => some .fmin
  | 0x14, 1 => some .fmax | 0x50, 0 => some .fle | 0x50, 1 => some .flt | 0x50, 2 => some .feq | _, _ => none

def FOp.code : FOp → Nat
  | .fadd => 0x00 | .fsub => 0x04 | .fmul => 0x08 | .fdiv => 0x0C | .fsqrt => 0x2C

def FmaOp.code : FmaOp → Nat
  | .fmadd => 0x43 | .fmsub => 0x47 | .fnmsub => 0x4B | .fnmadd => 0x4F

/-- OP-FP (0x53). -/
def decodeOpFp (w : Nat) : Except Undef Instr :=
  let rv (i : Rv) : Except Undef Instr := .ok (.rv64BaseInstruction i)
  let fmt := fmtOf (fld w 25 1)
  let rm := BitVec.ofNat 3 (fld w 12 3)
  let r2 := fld w 20 5
  if fld w 26 1 == 0 then
    match fld w 25 7 / 2 * 2 with
    | 0x00 => rv (.fop .fadd fmt rm (rdF w) (rs1F w) (rs2F w))
    | 0x04 => rv (.fop .fsub fmt rm (rdF w) (rs1F w) (rs2F w))
    | 0x08 => rv (.fop .fmul fmt rm (rdF w) (rs1F w) (rs2F w))
    | 0x0C => rv (.fop .fdiv fmt rm (rdF w) (rs1F w) (rs2F w))
    | 0x2C => rv (.fop .fsqrt fmt rm (rdF w) (rs1F w) (rs2F w))
    | 0x20 =>
      if r2 == 1 - fld w 25 1 then rv (.fcvtFF fmt rm (rdF w) (rs1F w)) else .error .opcode
    | 0x60 => do
      let i ← orUndef (IWidth.ofCode r2) .opcode
      rv (.fcvtToInt i fmt rm (rdF w) (rs1F w))
    | 0x68 => do
      let i ← orUndef (IWidth.ofCode r2) .opcode
      rv (.fcvtFromInt i fmt rm (rdF w) (rs1F w))
    | 0x70 =>
      if r2 == 0 && fld w 12 3 == 0 then rv (.fmvToX fmt (rdF w) (rs1F w))
      else if r2 == 0 && fld w 12 3 == 1 then rv (.fclass fmt (rdF w) (rs1F w))
      else .error .opcode
    | 0x78 => if r2 == 0 && fld w 12 3 == 0 then rv (.fmvFromX fmt (rdF w) (rs1F w)) else .error .opcode
    | f => do
      let o ← orUndef (FCmp.ofCode f (fld w 12 3)) .opcode
      rv (.fcmp o fmt (rdF w) (rs1F w) (rs2F w))
  else .error .opcode

/-- SYSTEM (0x73). SFENCE.VMA is undefined in every mode (R130.6). -/
def decodeSystem (w : Nat) : Except Undef Instr :=
  let c (k : CsrKind) : Except Undef Instr :=
    let o : CsrOp := ⟨k, rdF w, rs1F w, immF w⟩
    .ok (o.row.mk o)
  match fld w 12 3 with
  | 0 =>
    match fld w 7 25 with
    | 0x000000 => .ok (.rv64BaseInstruction .ecall)
    | 0x002000 => .ok (.rv64BaseInstruction .ebreak)
    | 0x204000 => .ok .sret
    | 0x604000 => .ok .mret
    | 0x20A000 => .ok (.rv64BaseInstruction .wfi)
    | _ => .error .opcode
  | 1 => c .rw
  | 2 => c .rs
  | 3 => c .rc
  | 5 => c .rwi
  | 6 => c .rsi
  | 7 => c .rci
  | _ => .error .opcode

/-- The branch offset, imm[12:1] (RISC-V B-type). -/
def brOff (w : Nat) : BitVec 12 :=
  BitVec.ofNat 12 (fld w 8 4 + fld w 25 6 * 2 ^ 4 + fld w 7 1 * 2 ^ 10 + fld w 31 1 * 2 ^ 11)

/-- The jump offset, imm[20:1] (RISC-V J-type). -/
def jalOff (w : Nat) : BitVec 20 :=
  BitVec.ofNat 20 (fld w 21 10 + fld w 20 1 * 2 ^ 10 + fld w 12 8 * 2 ^ 11 + fld w 31 1 * 2 ^ 19)

/-- Words of a 32-bit length before the conditions of well-formedness. -/
def raw32 (w : Nat) : Except Undef Instr :=
  let rv (i : Rv) : Except Undef Instr := .ok (.rv64BaseInstruction i)
  match fld w 0 7 with
  | 0x0B => decodeCustom0 w
  | 0x2B => decodeCustom1 w
  | 0x37 => rv (.lui (rdF w) (BitVec.ofNat 20 (fld w 12 20)))
  | 0x17 => rv (.auipc (rdF w) (BitVec.ofNat 20 (fld w 12 20)))
  | 0x6F => rv (.jal (rdF w) (jalOff w))
  | 0x67 => need (fld w 12 3 == 0) .opcode (.jalr (rdF w) (rs1F w) (immF w))
  | 0x63 => do
    let o ← orUndef (BrOp.ofCode (fld w 12 3)) .opcode
    rv (.br o (rs1F w) (rs2F w) (brOff w))
  | 0x03 =>
    match fld w 12 3 with
    | 7 => .error .opcode
    | f => .ok (.scalarLoad ⟨BitVec.ofNat 2 (f % 4), 4 ≤ f, false, rdF w, rs1F w, immF w⟩)
  | 0x07 => need (fld w 12 3 == 2 || fld w 12 3 == 3) .opcode
      (.scalarLoad ⟨BitVec.ofNat 2 (fld w 12 3 % 4), false, true, rdF w, rs1F w, immF w⟩)
  | 0x23 => need (fld w 12 3 < 4) .opcode
      (.plainStore ⟨BitVec.ofNat 2 (fld w 12 3 % 4), false, rs1F w, rs2F w,
        BitVec.ofNat 12 (fld w 7 5 + fld w 25 7 * 2 ^ 5)⟩)
  | 0x27 => need (fld w 12 3 == 2 || fld w 12 3 == 3) .opcode
      (.plainStore ⟨BitVec.ofNat 2 (fld w 12 3 % 4), true, rs1F w, rs2F w,
        BitVec.ofNat 12 (fld w 7 5 + fld w 25 7 * 2 ^ 5)⟩)
  | 0x13 => decodeOpImm w
  | 0x1B => decodeOpImm32 w
  | 0x33 => do
    let o ← orUndef (AluOp.ofCode false (fld w 25 7) (fld w 12 3)) .opcode
    rv (.alu o (rdF w) (rs1F w) (rs2F w))
  | 0x3B => do
    let o ← orUndef (AluOp.ofCode true (fld w 25 7) (fld w 12 3)) .opcode
    rv (.alu o (rdF w) (rs1F w) (rs2F w))
  | 0x0F =>
    match fld w 12 3 with
    | 0 => .ok (.fence (BitVec.ofNat 4 (fld w 28 4)) (BitVec.ofNat 4 (fld w 24 4)) (BitVec.ofNat 4 (fld w 20 4)))
    | 1 => .ok .fenceI
    | _ => .error .opcode
  | 0x2F => decodeAmo w
  | 0x73 => decodeSystem w
  | 0x53 => decodeOpFp w
  | o =>
    let fm (p : FmaOp) : Except Undef Instr :=
      if fld w 26 1 == 0 then
        rv (.fma p (fmtOf (fld w 25 1)) (BitVec.ofNat 3 (fld w 12 3)) (rdF w) (rs1F w) (rs2F w)
          (BitVec.ofNat 5 (fld w 27 5)))
      else .error .opcode
    match o with
    | 0x43 => fm .fmadd
    | 0x47 => fm .fmsub
    | 0x4B => fm .fnmsub
    | 0x4F => fm .fnmadd
    | _ => .error .opcode

/-! ### 64-bit words -/

/-- The fields of an extension word (R61). -/
structure XF where
  minor : Nat
  mod : Nat
  mask : Nat
  s3 : Nat
  s2 : Nat
  s1 : Nat
  d : Nat
  ty : Nat
  fmt : Nat
  opc : Nat
  deriving DecidableEq, Repr

/-- The fields of a word (R61). -/
def XF.of (w : Nat) : XF :=
  { minor := fld w 60 4, mod := fld w 57 3, mask := fld w 54 3, s3 := fld w 46 8, s2 := fld w 38 8, s1 := fld w 30 8,
    d := fld w 22 8, ty := fld w 18 4, fmt := fld w 15 3, opc := fld w 7 8 }

/-- The word with these fields (R61). -/
def XF.word (f : XF) : Nat :=
  0x3F + f.opc * 2 ^ 7 + f.fmt * 2 ^ 15 + f.ty * 2 ^ 18 + f.d * 2 ^ 22 + f.s1 * 2 ^ 30 + f.s2 * 2 ^ 38 + f.s3 * 2 ^ 46
    + f.mask * 2 ^ 54 + f.mod * 2 ^ 57 + f.minor * 2 ^ 60

/-- Source 2 of F0 or F1 (R62); formats other than these two have none. -/
def src2Of (n : Nat) (f : XF) : Except Undef Src2 :=
  if f.fmt == 0 then
    if n < 2 then (if f.s2 == 0 then .ok .none else .error .zeroField)
    else do .ok (.op (← orUndef (Src.ofCode f.s2) .operand))
  else if f.fmt == 1 then .ok (.imm (BitVec.ofNat 16 (f.s2 + f.s3 * 2 ^ 8)))
  else .error .format

/-- Source 3 of F0; F1 has none. -/
def src3Of (n : Nat) (f : XF) : Except Undef (Option Src) :=
  if f.fmt == 0 then
    if n < 3 then (if f.s3 == 0 then .ok none else .error .zeroField)
    else do .ok (some (← orUndef (Src.ofCode f.s3) .operand))
  else .ok none

/-- Rounding and saturation of a lane word (R64). -/
def modOf (o : VOp) (ty : ElTy) (f : XF) : Except Undef (Rnd × Bool) :=
  match o.modK with
  | .s => if f.mod < 2 then .ok (.rne, f.mod == 1) else .error .modifier
  | .z => if f.mod == 0 then .ok (.rne, false) else .error .modifier
  | .r => do .ok (← orUndef (Rnd.ofCode f.mod) .modifier, f.minor == 1)
  | .red =>
    if ty.isFlt then do .ok (← orUndef (Rnd.ofCode f.mod) .modifier, false)
    else if f.mod < 2 then .ok (.rne, f.mod == 1)
    else .error .modifier

/-- A lane instruction (R159 to R176). -/
def decodeVA (o : VOp) (f : XF) : Except Undef Instr := do
  let ty ← orUndef (ElTy.ofCode f.ty) .elementType
  let d ← orUndef (Dst.ofCode f.d) .operand
  let s1 ← orUndef (Src.ofCode f.s1) .operand
  let s2 ← src2Of o.srcs f
  let s3 ← src3Of o.srcs f
  let m ← modOf o ty f
  .ok (o.mk ⟨ty, m.2, m.1, BitVec.ofNat 3 f.mask, d, s1, s2, s3⟩)

/-- `vcmp` (R164). -/
def decodeCmp (f : XF) : Except Undef Instr := do
  let ty ← orUndef (ElTy.ofCode f.ty) .elementType
  let c ← orUndef (Cond.ofCode f.minor) .minor
  let kd ← orUndef (k3 f.d) .register
  let s1 ← orUndef (Src.ofCode f.s1) .operand
  let s2 ← src2Of 2 f
  let _ ← src3Of 2 f
  need (f.mod == 0) .modifier (.vcmp c kd ty (BitVec.ofNat 3 f.mask) s1 s2)

/-- A conversion in F4 (R62, R168 to R171). -/
def decodeVC (o : COp) (f : XF) : Except Undef Instr := do
  let dt ← orUndef (ElTy.ofCode f.ty) .elementType
  let st ← orUndef (ElTy.ofCode f.minor) .elementType
  let r ← orUndef (Rnd.ofCode f.mod) .modifier
  let d ← orUndef (Dst.ofCode f.d) .operand
  let s1 ← orUndef (Src.ofCode f.s1) .operand
  let s2 ← orUndef (Src.ofCode f.s2) .operand
  need (f.fmt == 4 && f.s3 % 32 == 0) .zeroField
    (o.mk ⟨dt, st, r, BitVec.ofNat 3 f.mask, f.s3 / 128 % 2 == 1, BitVec.ofNat 2 (f.s3 / 32), d, s1, s2⟩)

/-- The base of F2 and F3: a scalar operand (R62). -/
def baseOf (n : Nat) : Option (BitVec 5) := if 64 ≤ n && n < 96 then some (BitVec.ofNat 5 (n - 64)) else none

/-- A vector memory word in F2 or F3 (R177 to R180). -/
def decodeVM (o : MOp) (f : XF) : Except Undef Instr := do
  let ty ← orUndef (ElTy.ofCode f.ty) .elementType
  let base ← orUndef (baseOf f.s1) .operand
  let data ← orUndef (Src.ofCode f.d) .operand
  if o.f3 then do
    let idx ← orUndef (Src.ofCode f.s3) .operand
    need (f.fmt == 3 && f.s2 == 0 && f.mod == 0 && f.minor == 0) .zeroField
      (o.mk ⟨ty, BitVec.ofNat 3 f.mask, base, 0, idx, data⟩)
  else
    need (f.fmt == 2 && f.mod == 0 && f.minor == 0) .zeroField
      (o.mk ⟨ty, BitVec.ofNat 3 f.mask, base, BitVec.ofNat 16 (f.s2 + f.s3 * 2 ^ 8), .x 0, data⟩)

/-- `vldb` (R181). -/
def decodeVldb (f : XF) : Except Undef Instr := do
  let ty ← orUndef (ElTy.ofCode f.ty) .elementType
  let base ← orUndef (baseOf f.s1) .operand
  let data ← orUndef (Src.ofCode f.d) .operand
  need (f.fmt == 2 && f.mod == 0 && f.minor < 4) .zeroField
    (.vldb (BitVec.ofNat 2 f.minor) ⟨ty, BitVec.ofNat 3 f.mask, base, BitVec.ofNat 16 (f.s2 + f.s3 * 2 ^ 8), .x 0, data⟩)

/-- The full-empty words and `pf` (R257, R66): F2 with no mask. -/
def decodeFe (f : XF) : Except Undef Instr := do
  let base ← orUndef (baseOf f.s1) .operand
  let data ← orUndef (baseOf f.d) .operand
  let off := BitVec.ofNat 16 (f.s2 + f.s3 * 2 ^ 8)
  let ok := f.fmt == 2 && f.mask == 0
  let fe := ok && f.ty == 6 && f.mod == 0
  match f.opc, f.minor with
  | 0x60, 0 => need fe .zeroField (.ldFe data base off)
  | 0x60, 1 => need fe .zeroField (.ldFeTake data base off)
  | 0x61, 0 => need fe .zeroField (.stFe data base off)
  | 0x61, 1 => need fe .zeroField (.stFeFill data base off)
  | 0x64, 0 => do
    let s ← orUndef (Scope.ofCode f.mod) .scope
    need (ok && f.ty == 0 && data == 0) .zeroField (.pf s base off)
  | _, _ => .error .opcode

/-- The mask instructions (R166, R167). -/
def decodeMask (f : XF) : Except Undef Instr := do
  let z := f.s3 == 0
  match f.opc, f.minor with
  | 0x23, 0 => do
    need (z && f.s2 == 0) .zeroField (.kpop (← orUndef (x5 f.d) .register) (← orUndef (k3 f.s1) .register))
  | 0x24, 0 => do
    need (z && f.s2 == 0) .zeroField (.kfirst (← orUndef (x5 f.d) .register) (← orUndef (k3 f.s1) .register))
  | 0x22, m => do
    let d ← orUndef (k3 f.d) .register
    let a ← orUndef (k3 f.s1) .register
    let b ← orUndef (k3 f.s2) .register
    match m with
    | 0 => need z .zeroField (.kand d a b)
    | 1 => need z .zeroField (.kor d a b)
    | 2 => need z .zeroField (.kxor d a b)
    | 3 => need z .zeroField (.kandn d a b)
    | 4 => need (z && f.s2 == 0) .zeroField (.knot d a)
    | _ => .error .minor
  | _, _ => .error .opcode

/-- The x-register words of F5 (R263, R284, R306, R329, R364): positions d, 1, 2 and 3. -/
def decodeX4 (f : XF) : Except Undef Instr := do
  let d ← orUndef (x5 f.d) .register
  let a ← orUndef (x5 f.s1) .register
  let b ← orUndef (x5 f.s2) .register
  let c ← orUndef (x5 f.s3) .register
  let r : F5 := ⟨d, a, b, c⟩
  let z2 := f.s2 == 0 && f.s3 == 0
  let z1 := f.s1 == 0 && z2
  match f.opc, f.minor with
  | 0x62, 0 => .ok (.cpy r)
  | 0x62, 1 => .ok (.cpyPlane r)
  | 0x63, 0 => need z1 .zeroField (.cpyStat d)
  | 0x7B, 0 => .ok (.kilnGo r)
  | 0x7C, 0 => need z2 .zeroField (.kilnStat d a)
  | 0x80, 0 => .ok (.subAdd r)
  | 0x81, 0 => need z2 .zeroField (.subDrop d a)
  | 0x82, 0 => need z1 .zeroField (.subFlush d)
  | 0x83, 0 => need z2 .zeroField (.subStat d a)
  | 0x84, 0 => .ok (.raceRd r)
  | 0x90, 0 => .ok (.mxTile r)
  | 0x90, 1 => .ok (.mxTileAcc r)
  | 0x91, 0 => .ok (.mxSort r)
  | 0x92, 0 => .ok (.mxTopk r)
  | 0x93, 0 => need z1 .zeroField (.mxStat d)
  | 0xA0, 0 => need z2 .zeroField (.grpForm d a)
  | 0xA1, 0 => need z2 .zeroField (.grpDrop d a)
  | 0xA3, 0 => need z2 .zeroField (.collCancel d a)
  | _, _ => .error .opcode

/-- The collectives (R364). -/
def decodeColl (f : XF) : Except Undef Instr := do
  let ty ← orUndef (ElTy.ofCode f.ty) .elementType
  let r : F5 := ⟨← orUndef (x5 f.d) .register, ← orUndef (x5 f.s1) .register, ← orUndef (x5 f.s2) .register,
    ← orUndef (x5 f.s3) .register⟩
  match f.minor with
  | 0 => .ok (.collAllreduce ty r)
  | 1 => .ok (.collRedscatter ty r)
  | 2 => .ok (.collAllgather ty r)
  | 3 => .ok (.collBcast ty r)
  | 4 => .ok (.collAlltoall ty r)
  | _ => .error .minor

/-- The reference words of F5 (R284). -/
def decodeRef (f : XF) : Except Undef Instr := do
  let z3 := f.s3 == 0
  let z2 := f.s2 == 0 && z3
  if f.minor != 0 then .error .minor
  else match f.opc with
  | 0x70 => do
    let ty ← orUndef (ElTy.ofCode f.ty) .elementType
    need z3 .zeroField
      (.refLd ty (← orUndef (x5 f.d) .register) (← orUndef (h4 f.s1) .register) (← orUndef (x5 f.s2) .register))
  | 0x71 => do
    let ty ← orUndef (ElTy.ofCode f.ty) .elementType
    need z3 .zeroField
      (.refSt ty (← orUndef (x5 f.d) .register) (← orUndef (h4 f.s1) .register) (← orUndef (x5 f.s2) .register))
  | 0x72 => do
    need z3 .zeroField
      (.refLdf (← orUndef (h4 f.d) .register) (← orUndef (h4 f.s1) .register) (← orUndef (x5 f.s2) .register))
  | 0x73 => do
    need z3 .zeroField
      (.refStf (← orUndef (h4 f.d) .register) (← orUndef (h4 f.s1) .register) (← orUndef (x5 f.s2) .register))
  | 0x74 => do
    .ok (.refAlloc (← orUndef (h4 f.d) .register) (← orUndef (x5 f.s1) .register) (← orUndef (x5 f.s2) .register)
      (← orUndef (x5 f.s3) .register))
  | 0x75 => do
    need z3 .zeroField
      (.refPin (← orUndef (x5 f.d) .register) (← orUndef (h4 f.s1) .register) (← orUndef (x5 f.s2) .register))
  | 0x76 => do
    need z2 .zeroField (.refUnpin (← orUndef (x5 f.d) .register) (← orUndef (h4 f.s1) .register))
  | 0x77 => do
    need z3 .zeroField
      (.refEq (← orUndef (x5 f.d) .register) (← orUndef (h4 f.s1) .register) (← orUndef (h4 f.s2) .register))
  | 0x78 => do
    need (z3 && f.s2 < 2) .zeroField
      (.refMov (f.s2 == 1) (← orUndef (x5 f.d) .register) (← orUndef (h4 f.s1) .register))
  | 0x79 => do
    need (f.s1 == 0 && z2) .zeroField (.refNull (← orUndef (h4 f.d) .register))
  | 0x7A => do
    .ok (.refChk (← orUndef (h4 f.d) .register) (← orUndef (x5 f.s1) .register) (← orUndef (x5 f.s2) .register)
      (← orUndef (x5 f.s3) .register))
  | _ => .error .opcode

/-- F5 words have modifier and mask zero, and type zero unless the row names one (R65, R66). -/
def f5Ok (f : XF) : Bool := f.fmt == 5 && f.mod == 0 && f.mask == 0 &&
  (f.ty == 0 || f.opc == 0x70 || f.opc == 0x71 || f.opc == 0xA2)

/-- Extension words before the conditions of well-formedness. -/
def raw64 (f : XF) : Except Undef Instr :=
  match VOp.ofCode f.opc f.minor with
  | some o => decodeVA o f
  | none =>
    match COp.ofCode f.opc with
    | some o => decodeVC o f
    | none =>
      match MOp.ofCode f.opc with
      | some o => decodeVM o f
      | none =>
        if f.opc == 0x20 then decodeCmp f
        else if f.opc == 0x3E then decodeVldb f
        else if f.opc == 0x60 || f.opc == 0x61 || f.opc == 0x64 then decodeFe f
        else if !f5Ok f then .error .format
        else if f.opc == 0xA2 then decodeColl f
        else if 0x70 ≤ f.opc && f.opc ≤ 0x7A then decodeRef f
        else if 0x22 ≤ f.opc && f.opc ≤ 0x24 then decodeMask f
        else decodeX4 f

/-- A word that meets the conditions of its own description, else undefined (R69). -/
def checkWf (r : Except Undef Instr) : Except Undef Instr :=
  match r with
  | .ok i => if i.wf then .ok i else .error .operand
  | .error u => .error u

/-- The length in bits of the instruction whose first parcel this is, where it is implemented (R58). -/
def parcelLength (p : Nat) : Option Nat :=
  if p % 4 != 3 then none
  else if p / 4 % 8 != 7 then some 32
  else if p % 128 == 0x3F then some 64
  else none

/-- The instruction in a control-flow word: its bits as one number and its length (R58, R69). -/
def decodeWord (len w : Nat) : Except Undef Instr :=
  match parcelLength (w % 2 ^ 32) with
  | none => .error .length
  | some l =>
    if l != len then .error .length
    else if l == 64 then checkWf (raw64 (XF.of w))
    else checkWf (raw32 w)

/-- A little-endian string of bytes as a number (R7). -/
def leNat : List Byte → Nat
  | [] => 0
  | b :: bs => b.toNat + 2 ^ 8 * leNat bs

/-- The first `n` bytes of a number, lowest first (R7). -/
def leBytes : Nat → Nat → List Byte
  | 0, _ => []
  | n + 1, w => BitVec.ofNat 8 w :: leBytes n (w / 2 ^ 8)

/-- The instruction at the head of a string of bytes, and its length in bytes. An undefined word that is not of a
64-bit length is handled as 32 bits (R58). -/
def decodeBytes (bs : List Byte) : Except Undef (Instr × Nat) :=
  let p := leNat (bs.take 4)
  if parcelLength p == some 64 then do
    .ok (← decodeWord 64 (leNat (bs.take 8)), 8)
  else do
    .ok (← decodeWord 32 p, 4)

/-! ### 128-bit triggered words -/

/-- The fields of a triggered word (R73) below its op. -/
def TWord.of (w : Nat) : TWord :=
  { vec := fld w 127 1 == 1, care := BitVec.ofNat 8 (fld w 112 8), value := BitVec.ofNat 8 (fld w 104 8),
    req := BitVec.ofNat 10 (fld w 94 10), test := BitVec.ofNat 4 (fld w 90 4), deq := BitVec.ofNat 10 (fld w 80 10),
    a := BitVec.ofNat 6 (fld w 74 6), b := BitVec.ofNat 6 (fld w 68 6), c := BitVec.ofNat 6 (fld w 62 6),
    out := BitVec.ofNat 10 (fld w 52 10), rd := BitVec.ofNat 4 (fld w 48 4), pset := BitVec.ofNat 8 (fld w 40 8),
    pclr := BitVec.ofNat 8 (fld w 32 8), pfr := BitVec.ofNat 4 (fld w 28 4), mod := BitVec.ofNat 4 (fld w 24 4),
    tact := BitVec.ofNat 8 (fld w 16 8), imm := BitVec.ofNat 16 (fld w 0 16) }

/-- The op of a triggered word (R78). -/
def elOpOf (w : Nat) : Option ElOp := ElOp.ofCode (fld w 120 7)

/-- The element instruction in a 128-bit word (R73 to R78, R209). -/
def decodeElement (w : Nat) : Except Undef Instr := do
  let o ← orUndef (elOpOf w) .op
  checkWf (.ok (o.mk (TWord.of w)))

/-- The instruction the decoder reads from a word numbered as the opcode table numbers its bits. -/
def decodeTableWord (nbits w : Nat) : Option Instr :=
  if nbits == 128 then (decodeElement w).toOption
  else ((decodeBytes (leBytes 8 w)).map Prod.fst).toOption

/-! ### The encoder -/

/-- An R-type or I-type word from its fields. -/
def rword (opc rd f3 rs1 rs2 f7 : Nat) : Nat :=
  opc + rd * 2 ^ 7 + f3 * 2 ^ 12 + rs1 * 2 ^ 15 + rs2 * 2 ^ 20 + f7 * 2 ^ 25

def iword (opc rd f3 rs1 imm : Nat) : Nat := opc + rd * 2 ^ 7 + f3 * 2 ^ 12 + rs1 * 2 ^ 15 + imm * 2 ^ 20

def CsrKind.code : CsrKind → Nat
  | .rw => 1 | .rs => 2 | .rc => 3 | .rwi => 5 | .rsi => 6 | .rci => 7

def CsrOp.word (c : CsrOp) : Nat := iword 0x73 c.rd.toNat c.kind.code c.src.toNat c.csr.toNat

/-- The words of the RV64 base that have no row of their own (R129). -/
def Rv.word : Rv → Nat
  | .lui rd i20 => 0x37 + rd.toNat * 2 ^ 7 + i20.toNat * 2 ^ 12
  | .auipc rd i20 => 0x17 + rd.toNat * 2 ^ 7 + i20.toNat * 2 ^ 12
  | .jal rd off =>
    let o := off.toNat
    0x6F + rd.toNat * 2 ^ 7 + fld o 11 8 * 2 ^ 12 + fld o 10 1 * 2 ^ 20 + fld o 0 10 * 2 ^ 21 + fld o 19 1 * 2 ^ 31
  | .br op rs1 rs2 off =>
    let o := off.toNat
    0x63 + fld o 10 1 * 2 ^ 7 + fld o 0 4 * 2 ^ 8 + op.code * 2 ^ 12 + rs1.toNat * 2 ^ 15 + rs2.toNat * 2 ^ 20
      + fld o 4 6 * 2 ^ 25 + fld o 11 1 * 2 ^ 31
  | .alu op rd rs1 rs2 =>
    let c := op.code
    rword (if c.1 then 0x3B else 0x33) rd.toNat c.2.2 rs1.toNat rs2.toNat c.2.1
  | .imm op rd rs1 i12 =>
    let c := op.code
    iword (if c.1 then 0x1B else 0x13) rd.toNat c.2.1 rs1.toNat (c.2.2 + i12.toNat)
  | .un op rd rs1 =>
    let c := op.code
    iword (if c.1 then 0x1B else 0x13) rd.toNat c.2.1 rs1.toNat c.2.2
  | .csrRead c => c.word
  | .ecall => 0x00000073
  | .ebreak => 0x00100073
  | .wfi => 0x10500073
  | .fop op fmt rm rd rs1 rs2 => rword 0x53 rd.toNat rm.toNat rs1.toNat rs2.toNat (op.code + fmt.code)
  | .fma op fmt rm rd rs1 rs2 rs3 =>
    rword op.code rd.toNat rm.toNat rs1.toNat rs2.toNat (fmt.code + rs3.toNat * 2 ^ 2)
  | .fcmp op fmt rd rs1 rs2 => rword 0x53 rd.toNat op.code.2 rs1.toNat rs2.toNat (op.code.1 + fmt.code)
  | .fclass fmt rd rs1 => rword 0x53 rd.toNat 1 rs1.toNat 0 (0x70 + fmt.code)
  | .fcvtToInt w fmt rm rd rs1 => rword 0x53 rd.toNat rm.toNat rs1.toNat w.code (0x60 + fmt.code)
  | .fcvtFromInt w fmt rm rd rs1 => rword 0x53 rd.toNat rm.toNat rs1.toNat w.code (0x68 + fmt.code)
  | .fcvtFF dst rm rd rs1 => rword 0x53 rd.toNat rm.toNat rs1.toNat (1 - dst.code) (0x20 + dst.code)
  | .fmvToX fmt rd rs1 => rword 0x53 rd.toNat 0 rs1.toNat 0 (0x70 + fmt.code)
  | .fmvFromX fmt rd rs1 => rword 0x53 rd.toNat 0 rs1.toNat 0 (0x78 + fmt.code)

/-- Custom-0 R-type words with funct3 001 (R67). -/
def c0word (rd rs1 rs2 f7 : Nat) : Nat := rword 0x0B rd 1 rs1 rs2 f7
/-- Custom-1 words (R68). -/
def c1word (f3 rd rs1 rs2 f7 : Nat) : Nat := rword 0x2B rd f3 rs1 rs2 f7

/-- The 32-bit word of an instruction that has one (R67, R68, R129). -/
def encode32 : Instr → Option Nat
  | .lpad k => some (iword 0x0B 0 0 0 k.toNat)
  | .callt rd rs1 rs2 => some (c0word rd.toNat rs1.toNat rs2.toNat 0)
  | .rett => some (c0word 0 0 0 1)
  | .tagp rd rs1 ek => some (c0word rd.toNat rs1.toNat ek.toNat 2)
  | .tagx rd rs1 => some (c0word rd.toNat rs1.toNat 0 3)
  | .fuse rd n => some (c0word rd.toNat 0 n.toNat 4)
  | .split => some (c0word 0 0 0 5)
  | .recv rd => some (c0word (2 * rd.toNat) 0 0 6)
  | .peek rd => some (c0word (2 * rd.toNat) 0 0 7)
  | .wfm rd => some (c0word rd.toNat 0 0 8)
  | .uiret => some (c0word 0 0 0 9)
  | .yield => some (c0word 0 0 0 10)
  | .prio rs1 => some (c0word 0 rs1.toNat 0 11)
  | .cbld b rs1 => some (iword 0x0B 0 2 rs1.toNat b.toNat)
  | .fenceScope s => some (iword 0x0B 0 3 0 s.code)
  | .ldAcq s w rd rs1 => some (rword 0x0B rd.toNat 4 rs1.toNat 0 (s.code * 2 ^ 4 + (2 + w.toNat) * 2 ^ 2))
  | .stRel s w rs1 rs2 => some (rword 0x0B 0 5 rs1.toNat rs2.toNat (s.code * 2 ^ 4 + (2 + w.toNat) * 2 ^ 2))
  | .amoI64 o s rd rs1 rs2 => some (rword 0x0B rd.toNat 6 rs1.toNat rs2.toNat (o.code * 2 ^ 3 + s.code))
  | .amoI32 o s rd rs1 rs2 => some (rword 0x0B rd.toNat 7 rs1.toNat rs2.toNat (o.code * 2 ^ 3 + s.code))
  | .amoCas128 s rd rs1 rs2 =>
    some (rword 0x0B (2 * rd.toNat) 6 rs1.toNat (2 * rs2.toNat) (10 * 2 ^ 3 + s.code))
  | .amoFaddF32 s rd rs1 rs2 => some (rword 0x0B rd.toNat 7 rs1.toNat rs2.toNat (11 * 2 ^ 3 + s.code))
  | .amoFadd2Bf16 s rd rs1 rs2 => some (rword 0x0B rd.toNat 7 rs1.toNat rs2.toNat (12 * 2 ^ 3 + s.code))
  | .bar s id rd => some (c1word 0 rd.toNat 0 id.toNat s.code)
  | .barArr s id rd => some (c1word 0 rd.toNat 0 id.toNat (1 * 2 ^ 3 + s.code))
  | .barWait s id rd => some (c1word 0 rd.toNat 0 id.toNat (2 * 2 ^ 3 + s.code))
  | .jlaunch rd rs1 => some (c1word 1 rd.toNat rs1.toNat 0 0)
  | .glaunch rd rs1 => some (c1word 1 rd.toNat rs1.toNat 0 1)
  | .gdep rd rs1 rs2 => some (c1word 1 rd.toNat rs1.toNat rs2.toNat 2)
  | .ctxSave rd rs1 rs2 => some (c1word 2 rd.toNat rs1.toNat rs2.toNat 0)
  | .ctxLoad rd rs1 rs2 => some (c1word 2 rd.toNat rs1.toNat rs2.toNat 1)
  | .plbInv rd rs1 rs2 => some (c1word 2 rd.toNat rs1.toNat rs2.toNat 2)
  | .rgnShrink rd rs1 rs2 => some (c1word 2 rd.toNat rs1.toNat rs2.toNat 3)
  | .rgnDrain rd rs1 => some (c1word 2 rd.toNat rs1.toNat 0 4)
  | .trapRec rd rs1 rs2 => some (c1word 2 rd.toNat rs1.toNat rs2.toNat 5)
  | .jalr rd rs1 off => some (iword 0x67 rd.toNat 0 rs1.toNat off.toNat)
  | .fence fm p q => some (0x0F + q.toNat * 2 ^ 20 + p.toNat * 2 ^ 24 + fm.toNat * 2 ^ 28)
  | .fenceI => some 0x100F
  | .lr d aq rl rd rs1 => some (rword 0x2F rd.toNat (2 + d.toNat) rs1.toNat 0 (2 * 2 ^ 2 + aq.toNat * 2 + rl.toNat))
  | .sc d aq rl rd rs1 rs2 =>
    some (rword 0x2F rd.toNat (2 + d.toNat) rs1.toNat rs2.toNat (3 * 2 ^ 2 + aq.toNat * 2 + rl.toNat))
  | .rvAmo o d aq rl rd rs1 rs2 =>
    some (rword 0x2F rd.toNat (2 + d.toNat) rs1.toNat rs2.toNat (o.code * 2 ^ 2 + aq.toNat * 2 + rl.toNat))
  | .sret => some 0x10200073
  | .mret => some 0x30200073
  | .pdrightsWrite c | .quantumWrite c | .matrixCsrWrite c | .prridxWrite c | .tcqWrite c | .csrWrite c => some c.word
  | .plainStore s =>
    some (rword (if s.fp then 0x27 else 0x23) (fld s.off.toNat 0 5) s.w.toNat s.rs1.toNat s.rs2.toNat
      (fld s.off.toNat 5 7))
  | .scalarLoad l =>
    some (iword (if l.fp then 0x07 else 0x03) l.rd.toNat (l.w.toNat + 4 * l.uns.toNat) l.rs1.toNat l.off.toNat)
  | .rv64BaseInstruction i => some i.word
  | _ => none

/-- Source 2 in its field, and in F1 the immediate in the fields of sources 2 and 3 (R62). -/
def s2Field : Src2 → Nat
  | .none => 0
  | .op s => s.code
  | .imm n => n.toNat % 2 ^ 8

def s3Field : Src2 → Option Src → Nat
  | .imm n, _ => n.toNat / 2 ^ 8
  | _, some s => s.code
  | _, none => 0

def fmtField : Src2 → Nat
  | .imm _ => 1
  | _ => 0

/-- The fields of a lane instruction. -/
def VA.fields (o : VOp) (a : VA) : XF :=
  { minor := match o.modK with | .r => a.sat.toNat | _ => o.minor
    mod := match o.modK with
      | .s => a.sat.toNat | .z => 0 | .r => a.rnd.code
      | .red => if a.ty.isFlt then a.rnd.code else a.sat.toNat
    mask := a.mask.toNat, s3 := s3Field a.s2 a.s3, s2 := s2Field a.s2, s1 := a.s1.code, d := a.d.code, ty := a.ty.code,
    fmt := fmtField a.s2, opc := o.opc }

/-- The fields of a conversion. -/
def VC.fields (o : COp) (a : VC) : XF :=
  { minor := a.st.code, mod := a.rnd.code, mask := a.mask.toNat, s3 := a.m.toNat * 2 ^ 5 + a.sat.toNat * 2 ^ 7,
    s2 := a.s2.code, s1 := a.s1.code, d := a.d.code, ty := a.dt.code, fmt := 4, opc := o.opc }

/-- The fields of a vector memory word. -/
def VM.fields (o : MOp) (a : VM) : XF :=
  { minor := 0, mod := 0, mask := a.mask.toNat, s3 := if o.f3 then a.idx.code else a.off.toNat / 2 ^ 8,
    s2 := if o.f3 then 0 else a.off.toNat % 2 ^ 8, s1 := 64 + a.base.toNat, d := a.data.code, ty := a.ty.code,
    fmt := if o.f3 then 3 else 2, opc := o.opc }

/-- The fields of an F5 word whose modifier and mask are zero. -/
def f5Fields (opc minor d s1 s2 s3 : Nat) (ty : Nat := 0) : XF :=
  { minor := minor, mod := 0, mask := 0, s3 := s3, s2 := s2, s1 := s1, d := d, ty := ty, fmt := 5, opc := opc }

def F5.fields (r : F5) (opc minor : Nat) (ty : Nat := 0) : XF :=
  f5Fields opc minor r.d.toNat r.s1.toNat r.s2.toNat r.s3.toNat ty

/-- The fields of a full-empty word (R257). -/
def feFields (opc minor : Nat) (data base : BitVec 5) (off : BitVec 16) : XF :=
  { minor := minor, mod := 0, mask := 0, s3 := off.toNat / 2 ^ 8, s2 := off.toNat % 2 ^ 8, s1 := 64 + base.toNat,
    d := 64 + data.toNat, ty := 6, fmt := 2, opc := opc }

/-- The fields of an instruction that is an extension word (R66). -/
def encodeX : Instr → Option XF
  | .vadd a => some (a.fields .add)
  | .vsub a => some (a.fields .sub)
  | .vmul a => some (a.fields .mul)
  | .vmulh a => some (a.fields .mulh)
  | .vmadd a => some (a.fields .madd)
  | .vmin a => some (a.fields .min)
  | .vmax a => some (a.fields .max)
  | .vabs a => some (a.fields .abs)
  | .vand a => some (a.fields .and)
  | .vor a => some (a.fields .or)
  | .vxor a => some (a.fields .xor)
  | .vandn a => some (a.fields .andn)
  | .vsll a => some (a.fields .sll)
  | .vsrl a => some (a.fields .srl)
  | .vsra a => some (a.fields .sra)
  | .vfadd a => some (a.fields .fadd)
  | .vfsub a => some (a.fields .fsub)
  | .vfmul a => some (a.fields .fmul)
  | .vfma a => some (a.fields .fma)
  | .vfmin a => some (a.fields .fmin)
  | .vfmax a => some (a.fields .fmax)
  | .vfdiv a => some (a.fields .fdiv)
  | .vfsqrt a => some (a.fields .fsqrt)
  | .vfrcp a => some (a.fields .frcp)
  | .vfrsq a => some (a.fields .frsq)
  | .vfexp2 a => some (a.fields .fexp2)
  | .vflog2 a => some (a.fields .flog2)
  | .vsel a => some (a.fields .sel)
  | .vdot4 a => some (a.fields .dot4)
  | .vperm a => some (a.fields .perm)
  | .vshuf a => some (a.fields .shuf)
  | .vslideUp a => some (a.fields .slideUp)
  | .vslideDown a => some (a.fields .slideDown)
  | .vbcast a => some (a.fields .bcast)
  | .vins a => some (a.fields .ins)
  | .vextr a => some (a.fields .extr)
  | .vred o a => some (a.fields (.red o))
  | .vscan o a => some (a.fields (.scan o))
  | .vcvt a => some (a.fields .cvt)
  | .vpack a => some (a.fields .pack)
  | .vunpack a => some (a.fields .unpack)
  | .vqnt a => some (a.fields .qnt)
  | .vdq a => some (a.fields .dq)
  | .vld a => some (a.fields .ld)
  | .vst a => some (a.fields .st)
  | .vlds a => some (a.fields .lds)
  | .vsts a => some (a.fields .sts)
  | .vldx a => some (a.fields .ldx)
  | .vstx a => some (a.fields .stx)
  | .vcmp c kd ty mask s1 s2 =>
    some { minor := c.code, mod := 0, mask := mask.toNat, s3 := s3Field s2 none, s2 := s2Field s2, s1 := s1.code,
           d := kd.toNat, ty := ty.code, fmt := fmtField s2, opc := 0x20 }
  | .kand d a b => some (f5Fields 0x22 0 d.toNat a.toNat b.toNat 0)
  | .kor d a b => some (f5Fields 0x22 1 d.toNat a.toNat b.toNat 0)
  | .kxor d a b => some (f5Fields 0x22 2 d.toNat a.toNat b.toNat 0)
  | .kandn d a b => some (f5Fields 0x22 3 d.toNat a.toNat b.toNat 0)
  | .knot d a => some (f5Fields 0x22 4 d.toNat a.toNat 0 0)
  | .kpop xd a => some (f5Fields 0x23 0 xd.toNat a.toNat 0 0)
  | .kfirst xd a => some (f5Fields 0x24 0 xd.toNat a.toNat 0 0)
  | .vldb m a => some { a.fields .ld with minor := m.toNat, opc := 0x3E }
  | .ldFe xd xb off => some (feFields 0x60 0 xd xb off)
  | .ldFeTake xd xb off => some (feFields 0x60 1 xd xb off)
  | .stFe xs xb off => some (feFields 0x61 0 xs xb off)
  | .stFeFill xs xb off => some (feFields 0x61 1 xs xb off)
  | .pf s xb off => some { feFields 0x64 0 0 xb off with mod := s.code, ty := 0 }
  | .cpy r => some (r.fields 0x62 0)
  | .cpyPlane r => some (r.fields 0x62 1)
  | .cpyStat xd => some (f5Fields 0x63 0 xd.toNat 0 0 0)
  | .refLd ty xd hs xo => some (f5Fields 0x70 0 xd.toNat hs.toNat xo.toNat 0 ty.code)
  | .refSt ty xv hs xo => some (f5Fields 0x71 0 xv.toNat hs.toNat xo.toNat 0 ty.code)
  | .refLdf hd hs xo => some (f5Fields 0x72 0 hd.toNat hs.toNat xo.toNat 0)
  | .refStf hv hs xo => some (f5Fields 0x73 0 hv.toNat hs.toNat xo.toNat 0)
  | .refAlloc hd xn xt xs => some (f5Fields 0x74 0 hd.toNat xn.toNat xt.toNat xs.toNat)
  | .refPin xd hs xs => some (f5Fields 0x75 0 xd.toNat hs.toNat xs.toNat 0)
  | .refUnpin xs hs => some (f5Fields 0x76 0 xs.toNat hs.toNat 0 0)
  | .refEq xd ha hb => some (f5Fields 0x77 0 xd.toNat ha.toNat hb.toNat 0)
  | .refMov toX d hs => some (f5Fields 0x78 0 d.toNat hs.toNat toX.toNat 0)
  | .refNull hd => some (f5Fields 0x79 0 hd.toNat 0 0 0)
  | .refChk hd xv xs xi => some (f5Fields 0x7A 0 hd.toNat xv.toNat xs.toNat xi.toNat)
  | .kilnGo r => some (r.fields 0x7B 0)
  | .kilnStat xd xk => some (f5Fields 0x7C 0 xd.toNat xk.toNat 0 0)
  | .subAdd r => some (r.fields 0x80 0)
  | .subDrop xd xe => some (f5Fields 0x81 0 xd.toNat xe.toNat 0 0)
  | .subFlush xd => some (f5Fields 0x82 0 xd.toNat 0 0 0)
  | .subStat xd xe => some (f5Fields 0x83 0 xd.toNat xe.toNat 0 0)
  | .raceRd r => some (r.fields 0x84 0)
  | .mxTile r => some (r.fields 0x90 0)
  | .mxTileAcc r => some (r.fields 0x90 1)
  | .mxSort r => some (r.fields 0x91 0)
  | .mxTopk r => some (r.fields 0x92 0)
  | .mxStat xd => some (f5Fields 0x93 0 xd.toNat 0 0 0)
  | .grpForm xd xb => some (f5Fields 0xA0 0 xd.toNat xb.toNat 0 0)
  | .grpDrop xd xh => some (f5Fields 0xA1 0 xd.toNat xh.toNat 0 0)
  | .collAllreduce ty r => some (r.fields 0xA2 0 ty.code)
  | .collRedscatter ty r => some (r.fields 0xA2 1 ty.code)
  | .collAllgather ty r => some (r.fields 0xA2 2 ty.code)
  | .collBcast ty r => some (r.fields 0xA2 3 ty.code)
  | .collAlltoall ty r => some (r.fields 0xA2 4 ty.code)
  | .collCancel xd xh => some (f5Fields 0xA3 0 xd.toNat xh.toNat 0 0)
  | _ => none

/-- The op and fields of an element instruction. -/
def Instr.element : Instr → Option (ElOp × TWord)
  | .elNop w => some (.nop, w)
  | .elMov w => some (.mov, w)
  | .elSel w => some (.sel, w)
  | .elSteer w => some (.steer, w)
  | .elRepl w => some (.repl, w)
  | .elAdd w => some (.add, w)
  | .elSub w => some (.sub, w)
  | .elMul w => some (.mul, w)
  | .elMulh w => some (.mulh, w)
  | .elMac w => some (.mac, w)
  | .elMin w => some (.min, w)
  | .elMax w => some (.max, w)
  | .elAbs w => some (.abs, w)
  | .elNeg w => some (.neg, w)
  | .elAnd w => some (.and, w)
  | .elOr w => some (.or, w)
  | .elXor w => some (.xor, w)
  | .elAndn w => some (.andn, w)
  | .elNot w => some (.not, w)
  | .elSll w => some (.sll, w)
  | .elSrl w => some (.srl, w)
  | .elSra w => some (.sra, w)
  | .elCmpEq w => some (.cmpEq, w)
  | .elCmpNe w => some (.cmpNe, w)
  | .elCmpLt w => some (.cmpLt, w)
  | .elCmpLe w => some (.cmpLe, w)
  | .elFadd w => some (.fadd, w)
  | .elFsub w => some (.fsub, w)
  | .elFmul w => some (.fmul, w)
  | .elFma w => some (.fma, w)
  | .elFmin w => some (.fmin, w)
  | .elFmax w => some (.fmax, w)
  | .elFcmpEq w => some (.fcmpEq, w)
  | .elFcmpLt w => some (.fcmpLt, w)
  | .elFcmpLe w => some (.fcmpLe, w)
  | .elFcmpUn w => some (.fcmpUn, w)
  | .elVredAdd w => some (.vredAdd, w)
  | .elVredMin w => some (.vredMin, w)
  | .elVredMax w => some (.vredMax, w)
  | .elVredFadd w => some (.vredFadd, w)
  | .elVredFmin w => some (.vredFmin, w)
  | .elVredFmax w => some (.vredFmax, w)
  | .elVextr w => some (.vextr, w)
  | .elVins w => some (.vins, w)
  | .elSettag w => some (.settag, w)
  | .elEndtest w => some (.endtest, w)
  | .elCsacc w => some (.csacc, w)
  | .elCsadd w => some (.csadd, w)
  | _ => none

/-- The 128-bit word of an element instruction (R73). -/
def TWord.word (o : ElOp) (t : TWord) : Nat :=
  t.imm.toNat + t.tact.toNat * 2 ^ 16 + t.mod.toNat * 2 ^ 24 + t.pfr.toNat * 2 ^ 28 + t.pclr.toNat * 2 ^ 32
    + t.pset.toNat * 2 ^ 40 + t.rd.toNat * 2 ^ 48 + t.out.toNat * 2 ^ 52 + t.c.toNat * 2 ^ 62 + t.b.toNat * 2 ^ 68
    + t.a.toNat * 2 ^ 74 + t.deq.toNat * 2 ^ 80 + t.test.toNat * 2 ^ 90 + t.req.toNat * 2 ^ 94
    + t.value.toNat * 2 ^ 104 + t.care.toNat * 2 ^ 112 + o.code * 2 ^ 120 + t.vec.toNat * 2 ^ 127

/-- The words of a well-formed instruction: its length in bits and its bits. Steps of engines, of the fabric and of the
host port have none. -/
def encode (i : Instr) : Option (Nat × Nat) :=
  match encode32 i with
  | some w => some (32, w)
  | none =>
    match encodeX i with
    | some f => some (64, f.word)
    | none => i.element.map (fun p => (128, TWord.word p.1 p.2))

end Sys2Proof
end

