-- ==== Sys2Proof/Machine/Bits.lean ====
section
/-! DEFINITION. Integers and bit strings: fields, sign extension, clamping, and the packed elements of registers and of
memory (R7, R37, R38, R154). -/

namespace Sys2Proof

/-- The low `w` bits of an integer (R38). -/
def wrap (w : Nat) (v : Int) : Nat := (v % (2 ^ w : Int)).toNat

/-- Two's complement value of the low `w` bits. -/
def sval (w v : Nat) : Int := let u := v % 2 ^ w; if 2 * u < 2 ^ w then (u : Int) else (u : Int) - 2 ^ w

/-- Least and greatest value of a `w`-bit type (R38). -/
def tyMin (signed : Bool) (w : Nat) : Int := if signed then -(2 ^ (w - 1) : Int) else 0
def tyMax (signed : Bool) (w : Nat) : Int := if signed then 2 ^ (w - 1) - 1 else 2 ^ w - 1

def clampInt (v lo hi : Int) : Int := if v < lo then lo else if hi < v then hi else v

/-- The value of an element's bits, signed or unsigned. -/
def ival (signed : Bool) (w v : Nat) : Int := if signed then sval w v else (v % 2 ^ w : Nat)

/-- A result narrowed to `w` bits: wrapped, or clamped under saturation (R38). -/
def narrow (signed sat : Bool) (w : Nat) (v : Int) : Nat :=
  wrap w (if sat then clampInt v (tyMin signed w) (tyMax signed w) else v)

/-- Sign extension from `w` bits to a word. -/
def sextW (w v : Nat) : Word := BitVec.ofInt 64 (sval w v)

/-- Element `j` of width `w` (R37, R154). -/
def elemOf (w v j : Nat) : Nat := v / 2 ^ (w * j) % 2 ^ w

/-- The string whose elements of width `w` are these, lowest first (R37). -/
def packElems (w : Nat) : List Nat → Nat
  | [] => 0
  | x :: xs => x % 2 ^ w + 2 ^ w * packElems w xs

/-- The elements 0 to n - 1 of width `w`. -/
def elemsOf (w v n : Nat) : List Nat := (List.range n).map (elemOf w v)

/-- A string built element by element. -/
def buildElems (w n : Nat) (f : Nat → Nat) : Nat := packElems w ((List.range n).map f)

/-- Bit `i` of a number. -/
def bitOf (v i : Nat) : Bool := v / 2 ^ i % 2 == 1

/-- Number of set bits among the low `n`. -/
def popCount (n v : Nat) : Nat := ((List.range n).filter (bitOf v)).length

/-- Position of the lowest set bit among the low `n`, or `n`. -/
def lowestSet (n v : Nat) : Nat := ((List.range n).find? (bitOf v)).getD n

/-- Position of the highest set bit among the low `n` counted from the top, or `n`. -/
def leadingZeros (n v : Nat) : Nat := ((List.range n).find? (fun i => bitOf v (n - 1 - i))).getD n

/-- Round up to a multiple. -/
def roundUp (n m : Nat) : Nat := (n + m - 1) / m * m

/-- The bytes of a byte string as a number and back (R7). -/
def bytesNat : List Byte → Nat
  | [] => 0
  | b :: bs => b.toNat + 256 * bytesNat bs

def natBytes : Nat → Nat → List Byte
  | 0, _ => []
  | n + 1, v => BitVec.ofNat 8 v :: natBytes n (v / 256)

/-- Replace entry `i` of a list. -/
def setAt {α : Type} (l : List α) (i : Nat) (a : α) : List α := l.set i a

/-- Look up a key in an association list. -/
def assoc {α : Type} (l : List (Nat × α)) (k : Nat) : Option α :=
  match l with
  | [] => none
  | (j, a) :: r => if j = k then some a else assoc r k

/-- Set a key in an association list kept in rising order of keys. -/
def assocSet {α : Type} (l : List (Nat × α)) (k : Nat) (a : α) : List (Nat × α) :=
  match l with
  | [] => [(k, a)]
  | (j, b) :: r => if j = k then (k, a) :: r else if k < j then (k, a) :: (j, b) :: r else (j, b) :: assocSet r k a

/-- Remove a key. -/
def assocDel {α : Type} (l : List (Nat × α)) (k : Nat) : List (Nat × α) := l.filter (fun p => p.1 != k)

end Sys2Proof
end

