-- ==== Sys2Proof/Config.lean ====
section
/-! DEFINITION. What one implementation fixes and the manual leaves open: free values with no body, and
the revisions the part implements. -/

namespace Sys2Proof.Config

/-- Revision of TB-V the part implements (R19). -/
def tbV : Nat := 4
/-- Revision of TB-M the part implements (R19). -/
def tbM : Nat := 3
/-- Revision of TB-G the part implements (R19). -/
def tbG : Nat := 2

/-- A fresh free word: the argument is the counter `State.fresh` (log 9). -/
opaque freeWord : Nat → Word

/-- Whether the instruction cache still holds a line it once fetched (R130.5, log 5). -/
opaque keepsLine : Nat → Bool

/-- Which of the 64 PLB entries a fill replaces when all are in use (R248, log 9): the argument is the counter. -/
opaque plbVictim : Nat → Nat

/-- The carry row of a carry-save result: only the sum of the two rows is fixed (R52, log 9). -/
opaque carryRow : Nat → BitVec 80

/-- The outcome of a race for one byte between two values (R263, R323, R341, log 9): the argument is the counter. -/
opaque raceByte : Nat → Byte

/-- The firmware key in ROM: the 2,592 bytes of an ML-DSA-87 public key, as one number (R425, log 20). -/
opaque firmwareKey : BitVec 20736

/-- The 32-byte seed from which the identity key pair was generated at manufacture (R426, log 20). -/
opaque identitySeed : BitVec 256

/-- The certificate that binds a public key to a package serial number (R426, log 20). -/
opaque identityCertificate : List Byte → Word → List Byte

/-- The 64-bit package serial number (R426, log 20). -/
opaque serial : Word

/-- Temperatures and power reported by GET_STATUS (R423, log 20): the argument is the counter. -/
opaque sensors : Nat → List Byte

/-- The byte by which GET_STATUS and an attestation report name a state (R421, log 20): the argument is its place in the
table. -/
opaque stateCode : Nat → Byte

/-- What memory holds, and which words are FULL, once compute leaves reset (R421, log 41): the argument is the counter. -/
opaque resetCells : Nat → List (Nat × Byte)
opaque resetFull : Nat → List Nat

/-- A byte of the self-test and event log (R423, log 20): the number of its 4 KiB page, its place there, and the counter. -/
opaque logByte : Nat → Nat → Nat → Byte

/-- The address of a region's frame area, which holds a frame for each frame slot (R237, log 38): the argument is the region's
number. -/
opaque frameArea : Nat → Word

/-- The priority of eight that what a queue pair sends belongs to (R87, log 22). -/
opaque qpPriority : Nat → Nat

/-- Values of the read-only RISC-V identification CSRs (log 4). -/
opaque vendorId : Word
opaque archId : Word
opaque impId : Word

end Sys2Proof.Config
end

