-- ==== Sys2Proof/Machine/State.lean ====
section
/-! DEFINITION. The state of one package: everything the manual gives the machine, as plain data, and its value
right after reset. Slots, cores, clusters, dies and regions are sparse lists keyed by number; an absent key stands
for the unit as reset leaves it. -/

namespace Sys2Proof.Machine

/-! ### Threads -/

/-- The states of a thread slot (R125), in code order. -/
inductive SlotSt where
  | free | pool | ready | wait | call | trap | out | member
  deriving DecidableEq, Repr

/-- Privilege modes (R130.8). -/
inductive Priv where
  | u | s | m
  deriving DecidableEq, Repr

/-- An inbox message (R142). -/
structure Msg where
  kind : BitVec 8
  status : BitVec 8
  seq : BitVec 16
  tag : BitVec 32
  value : Word
  deriving DecidableEq, Repr

/-- What a waiting instruction waits for (R125, R143). -/
inductive WaitKind where
  | inbox | reserve | enqueue | fe | freeEntry | kiln | transit | pinDir | barrier | group | drain | flush
  | plbInv | region | fuse | reply | matrixCsr | spimg | remote | commands | cancel | loaded
  deriving DecidableEq, Repr

/-- What an expired wait does to its thread (R15): register writes, the null h register, the reservation it gives
back, the trap it takes instead with the AMO outcome and the element of its record, and the length of the instruction it
ends. -/
structure Expiry where
  xs : List (BitVec 5 × Word) := []
  hNull : Option (BitVec 4) := none
  release : Bool := false
  trap : Option (Nat × Word) := none
  amo : Nat := 0
  elem : Nat := 0
  len : Nat := 4
  deriving DecidableEq, Repr

/-- A wait in progress. `deadline` is the cycle at which the governing limit expires, none for a wait with no limit
of its own; `left` is the remaining count while the thread is in OUT (R125, R372). `blk` is the command block that the
instruction has read, and `outer` the end of the count that its reservation began, while it waits for another package (R143, R263,
R330). -/
structure Wait where
  kind : WaitKind
  deadline : Option Nat
  left : Nat
  exp : Expiry
  blk : Option Nat := none
  outer : Option Nat := none
  deriving DecidableEq, Repr

/-- A store that a failed protection reply holds at its home slice (R260). `seq` is its place in the thread's program order; `ref` is set for a reference store (R276). -/
structure Held where
  addr : Word
  width : Nat
  data : Word
  cause : Nat
  seq : Nat
  ref : Bool
  deriving DecidableEq, Repr

/-- A reference store held at the slice (R275, R276): the header of the object in transit, the register that named it, and, once
the entry has left IN_TRANSIT, the header that serves it. -/
structure RefHeld where
  obj : Nat
  base : BitVec 4
  dest : Option Word
  st : Held
  deriving DecidableEq, Repr

/-- One PLB entry (R248). `page` is the virtual base, `size` the size code s, `frame` the physical base. -/
structure Plb where
  slot : Nat
  page : Nat
  size : Nat
  domain : Nat
  rights : BitVec 8
  policy : BitVec 2
  evac : Bool
  managed : Bool
  repl : Bool
  fe : Bool
  frame : Nat
  deriving DecidableEq, Repr

/-- A protection reply: the entry built, or the cause code of R369 the walk met. -/
inductive Reply where
  | entry (e : Plb)
  | fail (cause : Nat)
  deriving DecidableEq, Repr

/-- A plain store posted with its protection request (R248, R260) under the rights table `rights`, or to another package and not yet
acknowledged (R246): then `far` is the number of its request and the cycle by which an answer must come, and `rel` is set for
a release (R350). -/
structure Posted where
  addr : Word
  width : Nat
  data : Word
  reply : Option Reply
  far : Option (Nat × Nat)
  rel : Bool
  seq : Nat
  rights : Word
  deriving DecidableEq, Repr

/-- An atomic operation as a request to another package names it (R130, R352). -/
inductive FarOp where
  | int (op : AmoOp) (dbl : Bool) (src expected : Word)
  | cas128 (expected new : BitVec 128)
  | faddF32 (src : BitVec 32)
  | fadd2Bf16 (src : BitVec 32)
  | satI32 (src : BitVec 32)
  | lr (dbl : Bool)
  | sc (dbl : Bool) (src : Word)
  deriving DecidableEq, Repr

/-- What comes back for request `id` to another package: its data or the acknowledgement, a refusal where the rights of the
owning core's domain are missing, or, with `ok` clear, the AMO outcome code of R370 of a request that got no reply in time
(R246, R352). -/
structure FarReply where
  id : Nat
  ok : Bool
  refused : Bool
  data : BitVec 128
  outcome : BitVec 2
  deriving DecidableEq, Repr

/-- What an access that arrives from another package does (R246, R297, R335): a release stands for a fence, release, barrier instruction
or `sub.flush` of its agent, with whether its scope is `.sys` (R298, R300); a protection request asks whether some rights are granted
(R285, R288). -/
inductive FarDo where
  | read (n : Nat)
  | write (bs : List Byte)
  | atomic (o : FarOp)
  | release (sys : Bool)
  | protect (need : BitVec 8)
  deriving DecidableEq, Repr

/-- What makes an access of another package: a thread, an engine of its core, or a fabric node (R305). -/
inductive FarKind where
  | thread | engine | node
  deriving DecidableEq, Repr

/-- An access of an agent of another package to a scratchpad of this one: the package, the agent's location number there, the number
by which its package knows it, wherever it is loaded, the rights byte that its rights table gives the owning core's domain, and what it does. -/
structure FarAccess where
  id : Nat
  pkg : BitVec 9
  loc : Nat
  agent : Nat
  kind : FarKind
  rights : BitVec 8
  va : Word
  what : FarDo
  deriving DecidableEq, Repr

/-- A read or an atomic of an engine or a frame at another package (R246): who makes it (its command or node), what, the number of its
request, the cycle by which an answer must come, and whether the step at hand has used its answer. -/
structure FarAsk where
  who : Nat
  va : Word
  n : Nat
  op : Option FarOp
  id : Nat
  deadline : Nat
  used : Bool
  deriving DecidableEq, Repr

/-- A write of an engine or a frame to another package (R246, R338, R342): the number of its request, its agent, its address, and the
cycle by which an acknowledgement must come. -/
structure FarWrite where
  id : Nat
  agent : Nat
  va : Word
  deadline : Nat
  deriving DecidableEq, Repr

/-- Another package to which an agent has written: whether a write of it is later than the agent's last release, and the number of a
release at `.sys` that has gone there and whose answer the agent waits for (R298, R300). -/
structure FarTo where
  agent : Nat
  pkg : Nat
  fresh : Bool
  id : Option Nat
  deriving DecidableEq, Repr

/-- The trap record of a thread (R370). -/
structure TrapRec where
  amo : BitVec 2
  elem : BitVec 8
  member : BitVec 8
  cause : BitVec 8
  pc : Word
  tval : Word
  frame : Word
  held : List Held
  tick : Word
  deriving DecidableEq, Repr

/-- An outstanding `callt` (R136, R137): a slot lists the innermost first. `pc` is its address, to which `rett` returns,
`sp` the stack pointer that a callback on the thread gives back, and `deadline` the cycle at which its return wait expires. -/
structure CallRec where
  pc : Word
  sp : Word
  frame : Word
  rd : BitVec 5
  retMask : BitVec 8
  deadline : Nat
  deriving DecidableEq, Repr

/-- A gang as one of its members sees it (R139). -/
structure Gang where
  leader : Nat
  index : Nat
  count : Nat
  deriving DecidableEq, Repr

/-- A parked context of a slot (R374); `home` completes its number to its identity. -/
structure Parked where
  home : Nat
  ctx : BitVec 16
  area : Word
  deriving DecidableEq, Repr

/-- The user CSRs of R131 held per slot, with `wuid`, `profen` and `prio`. -/
structure UCsr where
  waitlim : BitVec 40
  cbsel : BitVec 2
  emuvec : Word
  emuinst : Word
  emupc : Word
  emustat : Bool
  uivec : Word
  uimask : BitVec 16
  uiActive : Bool
  uiEnable : Bool
  uepc : Word
  mxfmt : Word
  mxscale : Word
  mxzero : Word
  arcur : Word
  arend : Word
  arlist : Word
  wuid : BitVec 24
  profen : BitVec 48
  prio : BitVec 2
  deriving DecidableEq, Repr

/-- The supervisor CSRs of R131 held per slot. -/
structure SCsr where
  quantum : Word
  prioceil : BitVec 2
  lnchlim : BitVec 10
  stkinit : Word
  thstat : Bool
  pdrights : Word
  thsave : Word
  thnext : Word
  swcost : BitVec 32
  deriving DecidableEq, Repr

/-- The RISC-V CSRs of a slot (R130.8, R368, log 4). -/
structure RvCsr where
  fcsr : BitVec 8
  mstatus : Word
  mie : Word
  mip : Word
  medeleg : Word
  mideleg : Word
  mtvec : Word
  mscratch : Word
  mepc : Word
  mcause : Word
  mtval : Word
  mcounteren : BitVec 32
  stvec : Word
  sscratch : Word
  sepc : Word
  scause : Word
  stval : Word
  scounteren : BitVec 32
  deriving DecidableEq, Repr

/-- The identity of a thread: the location within the package whose binding gave it its context number, and that number (R372). It
keeps both wherever it is loaded. -/
abbrev Tid := Nat × BitVec 16

/-- A callback running on a thread: the `call` node that made it (R33), and the number of that node's frame. -/
structure CbRef where
  node : Nat
  frame : Nat
  deriving DecidableEq, Repr

/-- One thread slot with the thread it holds (R124). `current` is the instruction last issued: while the thread waits, it is
the one in progress. `stSeq` numbers its plain stores; `far` holds the requests of that instruction to other packages, by
address, with their replies (R246); `moves` are rewrites of h registers that a thread switched out has still to see (R275). `home`
is the location whose binding gave the thread its context number, where that is another slot's (R372). -/
structure Slot where
  st : SlotSt
  priv : Priv
  pc : Word
  x : Vector Word 32
  f : Vector Word 32
  v : Vector Vec 48
  o : Vector Vec 8
  b : Vector Vec 4
  k : Vector Half 8
  h : Vector Word 16
  cb : Vector (Vector Half 64) 4
  shadow : Vector Word 8
  u : UCsr
  sc : SCsr
  rv : RvCsr
  inbox : List Msg
  ibReserved : Nat
  ibSeq : BitVec 16
  uiFresh : Nat
  cbDepth : BitVec 8
  cbStack : List CbRef
  poolOf : Option Nat
  job : Option Nat
  ctx : BitVec 16
  home : Option Nat
  ctxCounter : BitVec 16
  wait : Option Wait
  resv : Option Nat
  posted : List Posted
  held : List Held
  stSeq : Nat
  far : List (Word × Nat × Option FarReply)
  refHeld : List RefHeld
  moves : List (BitVec 4 × Nat × Word)
  trapRec : Option TrapRec
  arr : List (Nat × Nat)
  calls : List CallRec
  gang : Option Gang
  issWait : Nat
  aged : Bool
  quantumUsed : Nat
  dirty : BitVec 6
  origin : Option Word
  parked : List Parked
  instret : Word
  current : Option Instr
  deriving DecidableEq, Repr

/-! ### Cores -/

/-- A copy command (R262, R263). `blk` is the copy block, one little-endian string; `loc` is where it was issued, and `home` with
`ctx` the identity of its thread. -/
structure CopyCmd where
  blk : BitVec 1024
  plane : Bool
  tag : BitVec 32
  loc : Nat
  home : Nat
  ctx : BitVec 16
  rights : Word
  deriving DecidableEq, Repr

/-- Who issued a matrix command (R313). -/
inductive MxWho where
  | thread (loc home : Nat) (ctx : BitVec 16) (tag : BitVec 32)
  | port (rgn node fs : Nat) (tag : BitVec 15)
  deriving DecidableEq, Repr

/-- The four matrix commands (R242, R330). -/
inductive MxForm where
  | tile | tileAcc | sort | topk
  deriving DecidableEq, Repr

/-- A matrix command (R317, R327). `limit` governs its fill wait (R319). -/
structure MxCmd where
  form : MxForm
  blk : BitVec 512
  fmt : Word
  scale : Word
  zero : Word
  who : MxWho
  limit : Nat
  rights : Word
  deriving DecidableEq, Repr

/-- States of a subscriber entry (R302), in code order. -/
inductive SubSt where
  | free | syncing | active | draining
  deriving DecidableEq, Repr

/-- A packet: 64-byte line of the publisher's scratchpad, byte mask, bytes, the cycle it opened, and the agents whose
writes it holds (R298). -/
structure Packet where
  line : Nat
  mask : BitVec 64
  data : BitVec 512
  opened : Nat
  writers : List Nat
  deriving DecidableEq, Repr

/-- A subscription, held with its subscriber entry (R295, R302). `snap` is the source window at the snapshot point
until the initial copy is applied; `sent` are flushed packets not yet applied. -/
structure Sub where
  st : SubSt
  owner : Nat
  ctx : BitVec 16
  tag : BitVec 32
  pubCore : Nat
  pubIdx : Nat
  src : Nat
  dst : Nat
  len : Nat
  snap : Option (List Byte)
  opened : Option Packet
  sent : List Packet
  ended : Bool
  applied : BitVec 32
  deriving DecidableEq, Repr

/-- A publisher entry (R295, R310). -/
structure Pub where
  subCore : Nat
  subIdx : Nat
  packets : BitVec 32
  deriving DecidableEq, Repr

/-- One control core. The core's cycle counter is `State.cycle` plus `cycleOff` (R130.7); `copyFar` are the writes of the running copy to
other packages that are not acknowledged yet. -/
structure Core where
  plb : List Plb
  icache : List (Nat × BitVec 512)
  isspol : BitVec 5
  spdom : BitVec 12
  spimg : Word
  redirected : Bool
  spCmd : Option (BitVec 2)
  spOwner : Tid
  lastIssue : List (Nat × Nat)
  yielded : Option Nat
  copyQ : List CopyCmd
  copyRun : Bool
  copyDone : Nat
  copyFar : List Nat
  mxQ : List MxCmd
  subs : List (Nat × Sub)
  pubs : List (Nat × Pub)
  ring : List (Nat × BitVec 128)
  ringCount : Nat
  cycleOff : Word
  deriving DecidableEq, Repr

/-- The matrix unit of a cluster (R312, R313, R325). `run` has left its queue; `planes` are the bit planes of the running tile's
weights, as its cells hold them; `step` is the vector or segment reached;
`waitFrom` is the cycle from which vector `step` waits on its fill word; `far` are the command's writes to other packages that are not
acknowledged yet; `parity` is the vector a parity error struck. -/
structure Clu where
  run : Option MxCmd
  runReq : Nat
  planes : Nat
  step : Nat
  waitFrom : Option Nat
  ptr : Nat
  credit : Nat
  portQ : List MxCmd
  mxwt : Word
  mxerr : BitVec 32
  throttle : Nat
  parity : Option Nat
  far : List Nat
  deriving DecidableEq, Repr

/-! ### Dies -/

/-- A launch parameter block (R96). -/
structure LBlock where
  entry : Word
  n : BitVec 32
  prioByte : BitVec 8
  classByte : BitVec 8
  gangHalf : BitVec 16
  args : Word
  place : BitVec 128
  tick : Word
  pool : BitVec 16
  rsvd : BitVec 16
  tag : BitVec 32
  gmask : Word
  deriving DecidableEq, Repr

/-- States of a dependence-table entry (R100). -/
inductive DepSt where
  | free | open_ | waiting | launched | done
  deriving DecidableEq, Repr

/-- One dependence-table entry (R99 to R102). A successor is an entry, 256 × die + index, with its generation; `home`, `ctx` and `job` are those
of the creating thread. -/
structure Dep where
  st : DepSt
  gen : BitVec 16
  block : LBlock
  count : Nat
  succ : List (Nat × Nat)
  home : Nat
  ctx : BitVec 16
  rights : Word
  code : Word
  hash : Word
  profen : BitVec 48
  job : Option Nat
  status : BitVec 8
  deriving DecidableEq, Repr

/-- A Kiln and its job (R278 to R281). `cur` is the object in transit: header, new header, footprint; `hdrAt` and `fwdAt` are
the DRAM addresses of its old header and of its forwarding entry. -/
structure Kiln where
  running : Bool
  checked : Bool
  job : BitVec 512
  loc : Nat
  home : Nat
  ctx : BitVec 16
  tag : BitVec 32
  rights : Word
  region : Nat
  bit : Nat
  bitBase : Nat
  d : Word
  cur : Option (Nat × Nat × Nat)
  hdrAt : Nat
  fwdAt : Nat
  moved : Nat
  skPinned : Nat
  skFull : Nat
  skOther : Nat
  bytes : Nat
  status : Option (BitVec 8)
  processed : Nat
  deriving DecidableEq, Repr

/-- The per-die supervisor CSRs and tables. `corrected` holds the corrected-error counters of the die's regions by region number, which
no release of a region clears (R122, R401). -/
structure Die where
  codir : Word
  prrbase : Word
  prridx : Word
  prrCount : Nat
  warmen : Bool
  ttroot : Word
  tcq : Word
  fwdtab : Word
  ftsvc : Word
  rquant : Word
  rimgpool : Word
  lnchwait : Word
  pins : List (Nat × Nat)
  deps : List (Nat × Dep)
  kiln0 : Kiln
  kiln1 : Kiln
  ftPending : List Nat
  corrected : List (Nat × BitVec 32)
  deriving DecidableEq, Repr

/-! ### The fabric -/

/-- The three token classes (R183). -/
inductive TokCls where
  | scalar | vector | control
  deriving DecidableEq, Repr

/-- A token (R183). A scalar's data is in the low 64 bits, a control token's in bit 0. -/
structure Token where
  cls : TokCls
  data : GVec
  mask : BitVec 16
  tag : BitVec 15
  deriving DecidableEq, Repr

/-- An edge of a node record (R80); `route` is the number the Imposer gave it. -/
structure Edge where
  port : Nat
  ctx : Nat
  node : Nat
  inPort : Nat
  route : Nat
  deriving DecidableEq, Repr

/-- A placed node record (R79, R81). -/
structure NodeRec where
  id : Nat
  kind : Nat
  ctxs : Nat
  instrs : List (List (BitVec 128))
  edges : List Edge
  params : List Byte
  arow : Nat
  acol : Nat
  repl : Bool
  unord : Bool
  row : Nat
  col : Nat
  ctx0 : Nat
  raw : List Byte
  deriving DecidableEq, Repr

/-- Registers, predicates and phase of a node for one frame slot (R182). -/
structure EReg where
  node : Nat
  fs : Nat
  g : Vector Word 8
  gv : Vector GVec 4
  p : BitVec 8
  phase : Nat
  lastWord : BitVec 128
  deriving DecidableEq, Repr

/-- State of a loop walk (R191, R231, R380). `next` is the next iteration to release, `oldest` the oldest in flight. -/
structure LoopSt where
  active : Bool
  next : Nat
  oldest : Nat
  first : Nat
  dones : List (Nat × Nat)
  exits : List (Nat × Bool)
  carries : List (Nat × Nat × Token)
  exitAt : Option Nat
  squashed : Nat
  walks : Nat
  opened : Bool
  deriving DecidableEq, Repr

/-- Per-frame state of a special node (R220, R380). -/
inductive NSt where
  | none
  | stream (active opened : Bool) (idx : List Nat) (off : Int) (count : Nat) (bad : Bool) (tag : BitVec 15)
  | loop (l : LoopSt)
  | collect (expected : Nat) (parked : List (Nat × Token))
  | ring (idx : Nat) (stopped : Bool) (waitFrom : Option Nat)
  | sink (last : Nat)
  | call (out entered : Bool) (tag : BitVec 15) (frame : Word) (args : List (Nat × Token))
      (ret : Option (BitVec 8 × List Word)) (since : Option Nat)
  | dsq (pipe : List (Token × Token))
  | frame (fired : Bool)
  deriving DecidableEq, Repr

structure NodeSt where
  node : Nat
  fs : Nat
  st : NSt
  deriving DecidableEq, Repr

/-- States of a memory request (R193, R200, R202, R380). -/
inductive ReqSt where
  | waiting | speculative | behind | faulting | performed | sent
  deriving DecidableEq, Repr

/-- A memory request of a node (R200, R228, R380). `op` is the `mem` op, 16 for an `mxport` command, or 17 for writes of another
kind of node to other packages. `err` marks a request whose address or index head was an error token (R221), and `bad` is its
lowest out-of-range index. `far` numbers its writes to other packages, which have gone out and whose answers it waits for
(R246, R343). -/
structure MReq where
  node : Nat
  fs : Nat
  wave : Nat
  ord : Nat
  pred : Nat
  succ : Nat
  ordered : Bool
  op : Nat
  addr : GVec
  data : GVec
  mask : BitVec 16
  vec : Bool
  width : Nat
  tag : BitVec 15
  st : ReqSt
  val : GVec
  err : Bool
  bad : Option Nat
  far : List Nat := []
  deriving DecidableEq, Repr

/-- One open wave of a frame's memory interface: the order and successor numbers performed (R200), and the nodes whose
unordered requests of it have performed (R202). -/
structure WaveSt where
  fs : Nat
  wave : Nat
  done : List (Nat × Nat)
  udone : List Nat
  closed : Bool
  deriving DecidableEq, Repr

/-- States of a frame slot (R203). -/
inductive FSt where
  | free | running | suspended | ending
  deriving DecidableEq, Repr

/-- Who called a frame (R28, R31, R237): a thread in `callt`, a `call` node of a frame given by its number, a launch. -/
inductive Caller where
  | none
  | thread (home : Nat) (ctx : BitVec 16)
  | node (node frame : Nat)
  | launch (job unit : Nat)
  deriving DecidableEq, Repr

/-- The 0x4C0-byte frame that the Imposer keeps for a launched frame, or the image of an activation frame's
argument area (R28, R237). -/
structure FrameBuf where
  a : Vector Word 8
  fa : Vector Word 8
  v : Vector Vec 8
  deriving DecidableEq, Repr

/-- One frame slot of a region (R31, R199, R203, R237). `id` numbers the frame among all frames ever opened; `wave` is
the oldest open wave of its memory interface. -/
structure FSlot where
  st : FSt
  id : Nat
  job : Option Nat
  wuid : Nat
  act : Word
  own : Bool
  buf : FrameBuf
  args : List Word
  caller : Caller
  opened : Nat
  depth : Nat
  limit : Nat
  stallFrom : Option Nat
  endStatus : BitVec 8
  endWait : Bool
  rights : Word
  wave : Nat
  deriving DecidableEq, Repr

/-- States of a region (R205). -/
inductive RgnSt where
  | free | loading | running | frozen | scanned | shrinking | draining
  deriving DecidableEq, Repr

/-- A fabric trap record (R378). `delivered` is set once the service thread has been told of it (R377). -/
structure FTrap where
  site : Nat × Nat × Nat
  row : Nat
  col : Nat
  ctx : Nat
  status : BitVec 8
  cause : BitVec 8
  va : Word
  ord : Nat
  wave : Nat
  frame : Word
  word : BitVec 128
  tick : Word
  hash : Word
  unord : List (Bool × Nat)
  heads : List (Option Token)
  delivered : Bool := false
  deriving DecidableEq, Repr

/-- A spilled frame: its slot record, the slot it had, and its registers, node states, tokens and requests (R32). -/
structure Spill where
  slot : FSlot
  fs : Nat
  eregs : List EReg
  nsts : List NodeSt
  toks : List (Nat × Nat × Token)
  reqs : List MReq
  waves : List WaveSt
  deriving DecidableEq, Repr

/-- A request on a region in progress (R383, R386, R391, R392): the action code 0 to 3 of R391, or 4 for a drain; the
cycle at which its budget ends; the target folding; the thread that waits for it; the rights it works with; whether it is
the region scheduler's own, with the pool area it has taken; whether it has frozen a running region. -/
structure RgnOp where
  rgn : Nat
  act : Nat
  image : Word
  deadline : Nat
  fold : Nat
  who : Option Tid
  rights : Word
  sched : Bool
  area : Option Nat
  froze : Bool
  deriving DecidableEq, Repr

/-- One region (R110, R111, R121, R182 to R205). `faulted` are its FAULTED nodes, and `resumable` those of them that a page fault
stopped (R204); `spillSize` and `retMask` are its descriptor's, as the load read them (R123). `loadEnd` is the cycle at which a load or reload in progress ends, and
`before` the state a reload returns to; `rounds` counts zero rounds of the occupancy tree (R385); `home` is the image a
scanned-out region lies in, with the pool area it fills. -/
structure Region where
  num : Nat
  st : RgnSt
  rows : Nat
  cols : Nat
  fold : Nat
  desc : Word
  code : Word
  hash : Word
  prio : BitVec 2
  place : BitVec 128
  rights : Word
  nodes : List NodeRec
  sig : Word
  faulted : List Nat
  resumable : List Nat
  spillSize : Nat
  retMask : BitVec 8
  slots : List FSlot
  chan : List (Nat × Nat × Token)
  flight : List (Nat × Nat × Token)
  owed : List (Nat × Nat)
  eregs : List EReg
  nsts : List NodeSt
  reqs : List MReq
  waves : List WaveSt
  last : List (Nat × Nat × Nat)
  trap : Option FTrap
  reloads : Nat
  before : RgnSt
  quantum : Nat
  rounds : Nat
  loadEnd : Nat
  home : Word
  area : Option Nat
  spilled : List Spill
  boundary : Option (Nat × Nat × Nat)
  deriving DecidableEq, Repr

/-! ### Launching, barriers, groups -/

/-- Where a job came from (R95, R101, R103): a thread is named by where it issued and by its identity. -/
inductive JobSrc where
  | stream (qp port : Nat) (hostTag : BitVec 32) (hash : Word)
  | thread (loc home : Nat) (ctx : BitVec 16)
  | entry (die idx : Nat)
  deriving DecidableEq, Repr

/-- A gang launch as one member sees it (R107): the packages of the mask, the decision held, and whether a member was cut
off from the coordinator. -/
structure GangL where
  members : List Nat
  go : Option Bool
  lost : Bool
  deriving DecidableEq, Repr

/-- A submitted job (R97, R103, R108, R399). `live` holds the units that run with the status they would end with, `ended`
those that have ended, and `rest` the status of every unit from `next` on once none of them will run (R114); `bad` says of a unit
in which cycle and at which location the status that it would end with arose (R396). -/
structure Job where
  id : Nat
  src : JobSrc
  block : LBlock
  code : Word
  hash : Word
  profen : BitVec 48
  rights : Word
  submitted : Word
  held : Bool
  next : Nat
  live : List (Nat × BitVec 8)
  bad : List (Nat × Nat × Nat)
  ended : List (Nat × BitVec 8)
  rest : Option (BitVec 8)
  pool : List Nat
  poolLeft : Nat
  gang : Option GangL
  final : Option (BitVec 8)
  deriving DecidableEq, Repr

/-- What waits for a configuration: the head stream of a port, a job's frames, or the frame of a call. -/
inductive Waiter where
  | stream (port : Nat)
  | job (id : Nat)
  | frame (id : Nat)
  deriving DecidableEq, Repr

/-- A configuration to be placed (R113, R114). `tried` is false until the Imposer has checked it. -/
structure Queued where
  who : Waiter
  desc : Word
  code : Word
  hash : Word
  place : BitVec 128
  prio : BitVec 2
  rights : Word
  race : Bool
  tried : Bool
  deriving DecidableEq, Repr

/-- A frame waiting to open in a region (R29, R31, R116). `same` is set for a callee in the caller's own region. -/
structure Opening where
  id : Nat
  desc : Word
  hash : Word
  same : Bool
  act : Word
  own : Bool
  buf : FrameBuf
  caller : Caller
  depth : Nat
  parent : Word
  limit : Nat
  rights : Word
  job : Option Nat
  wuid : Nat
  since : Word
  deriving DecidableEq, Repr

/-- One barrier (R353, R354): job, scope code, scope instance, ID, the number of the open or next generation, its
participants and arrivals, the arrivals held for the next one, and for a `.sys` barrier of a gang the reports, each a generation that
a package has completed for its part with the package, and the generations from the open one on that the packages know to be
open. -/
structure Barrier where
  job : Nat
  lvl : Nat
  inst : Nat
  id : Nat
  gen : Nat
  isOpen : Bool
  parts : List Tid
  arrived : List Tid
  later : List Tid
  heard : List (Nat × Nat)
  opens : List Nat := []
  deriving DecidableEq, Repr

/-- A member of a group: its location number in the pod (R6) as its list names it, in this package the identity of its thread, and
the number that its package gave its `grp.form`. -/
structure Member where
  locid : Nat
  home : Nat
  ctx : BitVec 16
  num : Nat := 0
  deriving DecidableEq, Repr

/-- A group (R359 to R361). Members are in rank order; `dropped` holds the ranks that have dropped it, `ended` those whose thread
has ended, `seqs` the next instance of a rank. One that every member has dropped is not live, and its handle is free. -/
structure Group where
  handle : Nat
  key : BitVec 32
  members : List Member
  timeout : Nat
  closed : Bool
  dropped : List Nat
  ended : List Nat
  seqs : List (Nat × Nat)
  deriving DecidableEq, Repr

/-- An attempt to form a group (R360): the list, whether it is to be refused (another list came for its key, or a member package
holds all the groups it can), the job here of its first arrival (0 for no job), who has arrived, the decision and its handle, the
local members that have taken it, and whether an expiry here has been sent to the coordinator. -/
structure Forming where
  key : BitVec 32
  list : List Nat
  timeout : Nat
  differs : Bool
  job : Option Nat
  arrived : List Member
  decided : Option (BitVec 8 × Nat)
  taken : List Tid
  asked : Bool
  deriving DecidableEq, Repr

/-- What the members of a collective must agree on (R362, R365): minor opcode, type code, op, n, root. -/
structure CollP where
  kind : Nat
  ty : Nat
  op : Nat
  n : Nat
  root : Nat
  deriving DecidableEq, Repr

/-- One member's share of a collective instance (R365). `sent` is its source, read and sent. -/
structure Contrib where
  rank : Nat
  loc : Nat
  home : Nat
  ctx : BitVec 16
  tag : BitVec 32
  src : Word
  dst : Word
  rights : Word
  params : CollP
  sent : Option (List Byte)
  failed : Bool
  deriving DecidableEq, Repr

/-- The k-th collective of a group (R365): the contributions of this package's members and those received from others
(rank, parameters, bytes), the cycle of the first, whether it has committed and its results been written, and when, the final
status with the count and the lowest of the ranks it names, the ranks lost, reached and told, the local members whose destination
failed, and the results of local members that have gone to other packages and wait for acknowledgements. -/
structure Inst where
  id : Nat
  group : Nat
  k : Nat
  contribs : List Contrib
  others : List (Nat × CollP × List Byte)
  firstAt : Option Nat
  committed : Bool
  written : Bool
  writtenAt : Nat
  result : Option (BitVec 8 × Nat × Nat)
  lost : List Nat
  acked : List Nat
  told : List Nat
  bad : List Nat
  far : List (Nat × List Nat)
  deriving DecidableEq, Repr

/-- What packages of the pod tell one another about groups, collectives and `.sys` barriers (R353, R360, R365, R367).
A decision, the results and the end of an instance, a cancellation's answer and a late result come from a coordinator. A gang
launch is named by hash, start tick and user tag (R107). Arrivals at a group and cancellations are numbered by the package they come
from, and a decision names the arrivals it is for. -/
inductive PodMsg where
  | arrive (key : BitVec 32) (list : List Nat) (timeout : Nat) (locid num : Nat) (launch : Option (Word × Word × Nat)) (full : Bool)
  | expired (key : BitVec 32) (locid num : Nat)
  | decide (key : BitVec 32) (st : BitVec 8) (handle : Nat) (nums : List Nat)
  | drop (handle rank : Nat) (ended : Bool)
  | contrib (handle k rank : Nat) (params : CollP) (data : Option (List Byte))
  | cancel (handle rank num : Nat) (ks : List Nat)
  | cancelled (handle rank num : Nat) (st : BitVec 8)
  | collData (handle k : Nat) (data : List (Nat × List Byte))
  | collEnd (handle k : Nat) (st : BitVec 8) (count named : Nat)
  | acked (handle k rank : Nat)
  | lost (handle k rank : Nat)
  | reached (handle k : Nat) (data : List (Nat × List Byte))
  | barrier (launch : Word × Word × Nat) (id gen pkg : Nat)
  | barOpen (launch : Word × Word × Nat) (id gen pkg : Nat)
  | vote (launch : Word × Word × Nat) (pkg : Nat) (accept : Bool)
  | decision (launch : Word × Word × Nat) (go : Bool)
  | cutOff (launch : Word × Word × Nat) (pkg : Nat)
  deriving DecidableEq, Repr

/-- What the device keeps of a thread whose context is switched out (R125, R374): the slot as it was, with the location
it was saved at and the address of its save area, which holds its registers. -/
structure Away where
  loc : Nat
  area : Word
  slot : Slot
  deriving DecidableEq, Repr

/-! ### The host port and Colophon -/

/-- A memory key of a queue pair (R90). -/
structure Key where
  num : Nat
  base : Word
  len : Nat
  domain : Nat
  canR : Bool
  canW : Bool
  deriving DecidableEq, Repr

/-- A completion record (R95). -/
structure Rec where
  hostTag : BitVec 32
  status : BitVec 8
  lowest : BitVec 24
  units : BitVec 32
  tick : Word
  hash : Word
  deriving DecidableEq, Repr

/-- A reliable connected queue pair (R88, R90, R95), bound to a port and a key table by the supervisor by no means that the manual names (log 22, log 46). `asked` stands between a REQ and its RTU; `receives` are the receives the
host has posted. -/
structure Qp where
  connected : Bool
  asked : Bool
  error : Bool
  port : Fin 64
  keys : List Key
  held : List Rec
  receives : Nat
  deriving DecidableEq, Repr

/-- A buffered stream (R92, R93). -/
structure Stream where
  qp : Nat
  hostTag : BitVec 32
  hash : Word
  block : LBlock
  args : List (BitVec 512)
  code : Word
  checked : Bool
  since : Word
  deriving DecidableEq, Repr

/-- An ingress port (R93, R98). -/
structure Port where
  limit : Word
  rights : Word
  buf : List Stream
  deriving DecidableEq, Repr

/-- Power states (R421). -/
inductive Power where
  | off | standby | selftest | running | bisque
  deriving DecidableEq, Repr

/-- The Colophon management controller (R421 to R428). `loading` is an image in progress with the port it came by, and
`wasRunning` whether it arrived in RUNNING. -/
structure Colophon where
  power : Power
  flash : List Byte
  fuseMin : Nat
  loading : Option (MPort × List Byte)
  wasRunning : Bool
  capWatts : Nat
  deriving DecidableEq, Repr

/-- What the device sends to the outside: host port, side-band, links (R88 to R95, R423, R427). -/
inductive Out where
  | ack (qp : Nat)
  | nakInvalid (qp : Nat)
  | nakAccess (qp : Nat)
  | nakRnr (qp : Nat)
  | readResponse (qp : Nat) (data : List Byte)
  | send (qp : Nat) (data : List Byte)
  | mad (qp : Nat) (m : Mad)
  | cnp (qp : Nat)
  | ptp (tick : Word)
  | mgmt (p : MPort) (status : BitVec 8) (data : List Byte)
  | replay (link : Nat)
  | farWrite (id : Nat) (va : Word) (data : List Byte)
  | farRead (id : Nat) (va : Word) (n : Nat)
  | farAmo (id : Nat) (va : Word) (op : FarOp)
  | farRelease (id pkg : Nat) (sys : Bool)
  | farProtect (id : Nat) (va : Word) (need : BitVec 8)
  | farReply (pkg : BitVec 9) (r : FarReply)
  | pod (pkg : Nat) (m : PodMsg)
  deriving DecidableEq, Repr

/-! ### The package -/

/-- What the supervisor sets by means the manual does not name: the two values of an ingress port (R98), the port of a queue pair
and its memory keys (R90; log 22). -/
inductive Setup where
  | limit (port : Fin 64) (v : Word)
  | rights (port : Fin 64) (v : Word)
  | bind (qp : Nat) (port : Fin 64)
  | key (qp : Nat) (k : Key)
  | noKey (qp num : Nat)
  deriving DecidableEq, Repr

/-- A turn of the schedule: a thread issues, an element's candidate fires, or a step of the table happens, to the
agent numbered `cur` (and `sub` within it) or at a node; or something comes from outside that is no row of the table: a
supervisor's configuration of the host port, an access, a reply or a message of another package, a SEND of the host. -/
inductive Turn where
  | issue (loc : Nat)
  | fire (rgn node fs : Nat)
  | event (i : Instr) (cur sub : Nat) (site : Site)
  | setup (c : Setup)
  | arrive (a : FarAccess)
  | reply (r : FarReply)
  | told (m : PodMsg)
  | hostSend (qp : Nat) (data : List Byte)
  deriving DecidableEq, Repr

/-- Memory in canonical form (R245, R246, R256). `cells` holds bytes by address, strictly rising and none equal to what
an unlisted address reads as (log 6): physical addresses below 2^53, then the scratchpads, byte `off` of core c at
2^53 + c × 2^20 + off. `full` holds the addresses of the words whose presence bit is FULL, strictly rising. -/
structure Memory where
  cells : List Host.Cell
  full : List Nat
  deriving DecidableEq, Repr

/-- An invalidation on its way to every PLB and slice (R249, R390), with the thread whose `plb.inv` still waits for it. `flush` also
invalidates the page's cached lines. -/
structure Inv where
  who : Option Tid
  target : Nat
  flush : Bool
  addr : Word
  deriving DecidableEq, Repr

/-- A token waiting on a full-empty word at its home slice (R257, R258). -/
structure FeTok where
  word : Nat
  loc : Nat
  take : Bool
  fill : Bool
  data : Word
  rd : BitVec 5
  deriving DecidableEq, Repr

/-- The package. `issued` are the cores that have issued in this cycle, and `done` the other turns taken in it
(R126, R185). `remote` holds what other packages have answered, `nextFar` numbers requests to them, `asks` and `farOut` are the reads and the
writes of engines and frames there (R338, R342), `miss` is the first read of the step at hand that has no answer yet (none between
steps), `farTo` says to which of them agents have written, and `farResv` holds the reservations of their agents here: package, location, block. `txWait` holds what a paused priority keeps back (R87). -/
structure State where
  cycle : Nat
  tick : Word
  fresh : Nat
  agenda : List Turn
  cur : Nat
  sub : Nat
  site : Site
  slotNo : Nat
  issued : List Nat
  done : List Turn
  pkg : BitVec 9
  mem : Memory
  slots : List (Nat × Slot)
  cores : List (Nat × Core)
  clus : List (Nat × Clu)
  dies : List (Nat × Die)
  regions : List Region
  scanned : List Region
  rgnOps : List RgnOp
  rgnResults : List (Tid × Word)
  feq : List FeTok
  jobs : List Job
  nextJob : Nat
  queued : List Queued
  openings : List Opening
  bars : List Barrier
  groups : List Group
  forming : List Forming
  insts : List Inst
  nextInst : Nat
  nextFrame : Nat
  pod : List PodMsg
  gangMsgs : List PodMsg
  away : List Away
  arrivals : List (Nat × BitVec 16 × Msg)
  parkedMsgs : List (Nat × BitVec 16 × Msg)
  invs : List Inv
  remote : List FarReply
  nextFar : Nat
  asks : List FarAsk
  miss : Option FarAsk
  farOut : List FarWrite
  farTo : List FarTo
  farResv : List (Nat × Nat × Nat)
  qps : List (Nat × Qp)
  ports : List (Nat × Port)
  col : Colophon
  paused : List Nat
  txWait : List (Nat × Out)
  linksDown : List Nat
  outs : List Out
  deriving DecidableEq, Repr

/-- Reasons the machine stops. No step of this model raises one: every trap, refusal status and absent address of
the manual is a next state. -/
inductive Fault where
  /-- Raised by no meaning; safe. -/
  | unreachable
  deriving DecidableEq, Repr

/-- Reasons a step has no meaning. -/
inductive Refusal where
  /-- Raised by an arm of `exec` whose instruction has no meaning yet; safe. -/
  | notModelled (mnemonic : String)
  deriving DecidableEq, Repr

/-! ### Reset -/

/-- User CSRs of a slot right after reset (log 1). -/
def UCsr.reset : UCsr :=
  { waitlim := 0, cbsel := 0, emuvec := 0, emuinst := 0, emupc := 0, emustat := false, uivec := 0, uimask := 0,
    uiActive := false, uiEnable := false, uepc := 0, mxfmt := 0, mxscale := 0, mxzero := 0, arcur := 0, arend := 0,
    arlist := 0, wuid := 0, profen := 0, prio := 0 }

/-- Supervisor CSRs of a slot right after reset (R109, R371; the others log 1). -/
def SCsr.reset : SCsr :=
  { quantum := 0, prioceil := 0, lnchlim := 0x3FF, stkinit := 0, thstat := false, pdrights := 0, thsave := 0,
    thnext := 0, swcost := 4000 }

/-- RISC-V CSRs of a slot right after reset (log 4). -/
def RvCsr.reset : RvCsr :=
  { fcsr := 0, mstatus := 0, mie := 0, mip := 0, medeleg := 0, mideleg := 0, mtvec := 0, mscratch := 0, mepc := 0,
    mcause := 0, mtval := 0, mcounteren := 0xFFFFFFFF, stvec := 0, sscratch := 0, sepc := 0, scause := 0, stval := 0,
    scounteren := 0xFFFFFFFF }

/-- A slot right after reset: FREE, no thread (R125, log 1, log 2). -/
def Slot.reset : Slot :=
  { st := .free, priv := .u, pc := 0, x := .replicate 32 0, f := .replicate 32 0, v := .replicate 48 0,
    o := .replicate 8 0, b := .replicate 4 0, k := .replicate 8 0, h := .replicate 16 0,
    cb := .replicate 4 (.replicate 64 0), shadow := .replicate 8 0, u := .reset, sc := .reset, rv := .reset,
    inbox := [], ibReserved := 0, ibSeq := 0, uiFresh := 0, cbDepth := 0, cbStack := [], poolOf := none, job := none,
    ctx := 0, home := none, ctxCounter := 0, wait := none, resv := none, posted := [], held := [], stSeq := 0, far := [], refHeld := [], moves := [], trapRec := none,
    arr := [], calls := [], gang := none, issWait := 0, aged := false, quantumUsed := 0, dirty := 0, origin := none,
    parked := [], instret := 0, current := none }

/-- A core right after reset (log 1). -/
def Core.reset : Core :=
  { plb := [], icache := [], isspol := 0, spdom := 0, spimg := 0, redirected := false, spCmd := none, spOwner := (0, 0),
    lastIssue := [], yielded := none, copyQ := [], copyRun := false, copyDone := 0, copyFar := [], mxQ := [], subs := [], pubs := [], ring := [],
    ringCount := 0, cycleOff := 0 }

/-- A matrix unit right after reset: `mxwt` 0x1_1111_1111, `ptr` 8, `credit` 0 (R313). -/
def Clu.reset : Clu :=
  { run := none, runReq := 0, planes := 0, step := 0, waitFrom := none, ptr := 8, credit := 0, portQ := [],
    mxwt := 0x111111111, mxerr := 0, throttle := 0, parity := none, far := [] }

/-- An idle Kiln. -/
def Kiln.reset : Kiln :=
  { running := false, checked := false, job := 0, loc := 0, home := 0, ctx := 0, tag := 0, rights := 0, region := 0, bit := 0, bitBase := 0, d := 0,
    cur := none, hdrAt := 0, fwdAt := 0, moved := 0, skPinned := 0, skFull := 0, skOther := 0, bytes := 0, status := none, processed := 0 }

/-- A die right after reset (R120, R273; the others log 1). -/
def Die.reset : Die :=
  { codir := 0, prrbase := 0, prridx := 0, prrCount := 0, warmen := false, ttroot := 0, tcq := 0, fwdtab := 0,
    ftsvc := 0, rquant := 0, rimgpool := 0, lnchwait := 0, pins := [], deps := [], kiln0 := .reset, kiln1 := .reset,
    ftPending := [], corrected := [] }

/-- An empty launch block. -/
def LBlock.zero : LBlock :=
  { entry := 0, n := 0, prioByte := 0, classByte := 0, gangHalf := 0, args := 0, place := 0, tick := 0, pool := 0,
    rsvd := 0, tag := 0, gmask := 0 }

/-- A FREE dependence-table entry (R100). -/
def Dep.reset : Dep :=
  { st := .free, gen := 0, block := .zero, count := 0, succ := [], home := 0, ctx := 0, rights := 0, code := 0,
    hash := 0, profen := 0, job := none, status := 0 }

def FrameBuf.zero : FrameBuf := { a := .replicate 8 0, fa := .replicate 8 0, v := .replicate 8 0 }

/-- A FREE frame slot (R203). -/
def FSlot.free : FSlot :=
  { st := .free, id := 0, job := none, wuid := 0, act := 0, own := false, buf := .zero, args := [], caller := .none, opened := 0, depth := 0, limit := 0,
    stallFrom := none, endStatus := 0, endWait := false, rights := 0, wave := 0 }

/-- A queue pair that nothing has connected (R88). -/
def Qp.reset : Qp := { connected := false, asked := false, error := false, port := 0, keys := [], held := [], receives := 0 }

/-- An ingress port right after reset (R98). -/
def Port.reset : Port := { limit := 0x3FF, rights := 0, buf := [] }

/-- The machine right after the reset of its compute part: RUNNING, every slot FREE, nothing queued (log 1, 2, 6, 7, 8). -/
def State.reset : State :=
  { cycle := 0, tick := 0, fresh := 0, agenda := [], cur := 0, sub := 0, site := ⟨0, 0, 0⟩, slotNo := 0, issued := [], done := [], pkg := 0,
    mem := ⟨[], []⟩, slots := [], cores := [], clus := [], dies := [], regions := [], scanned := [], rgnOps := [], rgnResults := [], feq := [], jobs := [],
    nextJob := 1, queued := [], openings := [], bars := [], groups := [], forming := [], insts := [], nextInst := 1, nextFrame := 1, pod := [], gangMsgs := [], away := [],
    arrivals := [], parkedMsgs := [], invs := [], remote := [], nextFar := 1, asks := [], miss := none, farOut := [], farTo := [], farResv := [], qps := [], ports := [],
    col := { power := .running, flash := [], fuseMin := 0, loading := none, wasRunning := false, capWatts := 2500 },
    paused := [], txWait := [], linksDown := [], outs := [] }

end Sys2Proof.Machine
end

