-- ==== Sys2Proof/Machine/Mem.lean ====
section
/-! DEFINITION. Memory as a list of bytes by address in one canonical form, and its presence bits (R245, R246, R256,
R333). A byte that nothing has written reads as 0 (log 6). -/

namespace Sys2Proof.Machine

/-- What an unlisted address reads as (log 6). -/
def unlisted : Byte := 0

/-- The byte at an address. -/
def cellGet : List Host.Cell → Nat → Byte
  | [], _ => unlisted
  | (k, b) :: r, a => if a = k then b else cellGet r a

/-- Write one byte: writing what an unlisted address reads as removes the entry. -/
def cellSet : List Host.Cell → Nat → Byte → List Host.Cell
  | [], a, b => if b = unlisted then [] else [(a, b)]
  | (k, c) :: r, a, b =>
    if a < k then (if b = unlisted then (k, c) :: r else (a, b) :: (k, c) :: r)
    else if a = k then (if b = unlisted then r else (a, b) :: r)
    else (k, c) :: cellSet r a b

/-- Addresses strictly rising from above `lo`, and no entry equal to what an unlisted address reads as. -/
def cellsOk (lo : Option Nat) : List Host.Cell → Bool
  | [] => true
  | (k, b) :: r => (match lo with | none => true | some l => l < k) && b != unlisted && cellsOk (some k) r

/-- Set or clear a word's membership in a strictly rising list. -/
def flagSet : List Nat → Nat → Bool → List Nat
  | [], a, on => if on then [a] else []
  | k :: r, a, on =>
    if a < k then (if on then a :: k :: r else k :: r)
    else if a = k then (if on then k :: r else r)
    else k :: flagSet r a on

def flagsOk (lo : Option Nat) : List Nat → Bool
  | [] => true
  | k :: r => (match lo with | none => true | some l => l < k) && flagsOk (some k) r

/-- The canonical form of memory. -/
def Memory.wf (m : Memory) : Bool := cellsOk none m.cells && flagsOk none m.full

def Memory.byte (m : Memory) (a : Nat) : Byte := cellGet m.cells a

/-- The bytes at `a`, `a + 1`, …, n of them. -/
def Memory.bytes (m : Memory) (a : Nat) : Nat → List Byte
  | 0 => []
  | n + 1 => m.byte a :: m.bytes (a + 1) n

/-- The little-endian number in `n` bytes at `a` (R7). -/
def Memory.read (m : Memory) (a n : Nat) : Nat := bytesNat (m.bytes a n)

def Memory.setByte (m : Memory) (a : Nat) (b : Byte) : Memory := { m with cells := cellSet m.cells a b }

/-- Write a string of bytes at `a`. -/
def Memory.setBytes (m : Memory) (a : Nat) : List Byte → Memory
  | [] => m
  | b :: bs => (m.setByte a b).setBytes (a + 1) bs

def Memory.write (m : Memory) (a n v : Nat) : Memory := m.setBytes a (natBytes n v)

/-- Copy `n` bytes from `src` to `dst`, two ranges that do not meet. -/
def Memory.copyRange (m : Memory) (src dst n : Nat) : Memory :=
  let moved := (m.cells.filter (fun c => src ≤ c.1 && c.1 < src + n)).map (fun c => (c.1 - src + dst, c.2))
  let kept := m.cells.filter (fun c => !(dst ≤ c.1 && c.1 < dst + n))
  { m with cells := moved.foldl (fun cs c => cellSet cs c.1 c.2) kept }

/-- The presence bit of the word at an aligned address (R256). -/
def Memory.isFull (m : Memory) (a : Nat) : Bool := m.full.contains a

def Memory.setFull (m : Memory) (a : Nat) (on : Bool) : Memory := { m with full := flagSet m.full a on }

/-- The address under which byte `off` of a core's scratchpad is kept. -/
def spadBase (core : Nat) : Nat := 2 ^ 53 + core * 2 ^ 20

end Sys2Proof.Machine
end

