-- ==== Sys2Proof/Machine/Access.lean ====
section
/-! DEFINITION. Reading and writing the parts of the state: units by number, the registers of a thread, statuses, and
the end of an instruction (R6, R10, R13, R125). -/

namespace Sys2Proof.Machine

/-- What a meaning answers. -/
abbrev Res := Host.Outcome State Fault Refusal

/-! ### Units by number -/

def State.slot (s : State) (loc : Nat) : Slot := (assoc s.slots loc).getD Slot.reset
def State.setSlot (s : State) (loc : Nat) (t : Slot) : State := { s with slots := assocSet s.slots loc t }
def State.core (s : State) (c : Nat) : Core := (assoc s.cores c).getD Core.reset
def State.setCore (s : State) (c : Nat) (x : Core) : State := { s with cores := assocSet s.cores c x }
def State.clu (s : State) (c : Nat) : Clu := (assoc s.clus c).getD Clu.reset
def State.setClu (s : State) (c : Nat) (x : Clu) : State := { s with clus := assocSet s.clus c x }
def State.die (s : State) (d : Nat) : Die := (assoc s.dies d).getD Die.reset
def State.setDie (s : State) (d : Nat) (x : Die) : State := { s with dies := assocSet s.dies d x }
def State.modSlot (s : State) (loc : Nat) (f : Slot → Slot) : State := s.setSlot loc (f (s.slot loc))
def State.modCore (s : State) (c : Nat) (f : Core → Core) : State := s.setCore c (f (s.core c))
def State.modClu (s : State) (c : Nat) (f : Clu → Clu) : State := s.setClu c (f (s.clu c))
def State.modDie (s : State) (d : Nat) (f : Die → Die) : State := s.setDie d (f (s.die d))

/-- Core, cluster and die of a location number within the package (R6). -/
def coreOf (loc : Nat) : Nat := loc / 4
def cluOf (loc : Nat) : Nat := loc / 32
def dieOf (loc : Nat) : Nat := loc / 1024
def dieOfCore (c : Nat) : Nat := c / 256
def cluOfCore (c : Nat) : Nat := c / 8

/-- Whether two cores lie in one instance of a scope (R5). -/
def sameInstance (sc : Scope) (a b : Nat) : Bool :=
  match sc with
  | .thr => false
  | .core => a == b
  | .clu => cluOfCore a == cluOfCore b
  | .die => dieOfCore a == dieOfCore b
  | .pkg | .sys => true

/-- The thread that issues (R126). -/
def State.me (s : State) : Slot := s.slot s.cur
def State.setMe (s : State) (t : Slot) : State := s.setSlot s.cur t
def State.modMe (s : State) (f : Slot → Slot) : State := s.setMe (f s.me)

/-- Whether a slot holds a thread that is not away and not idle in a pool. -/
def Slot.occupied (t : Slot) : Bool := t.st != .free && t.st != .pool && t.st != .out

/-- The identity of the thread in a slot (R372). -/
def Slot.tid (t : Slot) (loc : Nat) : Tid := (t.home.getD loc, t.ctx)
def State.tidOf (s : State) (loc : Nat) : Tid := (s.slot loc).tid loc
/-- The identity of the issuing thread. -/
def State.tid (s : State) : Tid := s.tidOf s.cur

/-- The slot a thread is in, if it is in one. -/
def State.locOf (s : State) (t : Tid) : Option Nat :=
  (s.slots.find? (fun e => e.2.occupied && e.2.tid e.1 == t)).map Prod.fst

/-- A fresh free word and the advanced counter (log 9). -/
def State.tick1 (s : State) : State := { s with fresh := s.fresh + 1 }

/-! ### Registers of a thread (R10) -/

/-- An x register; x0 reads zero. -/
def Slot.xr (t : Slot) (r : BitVec 5) : Word := if r = 0 then 0 else t.x[r.toNat]'(by have := r.isLt; omega)

/-- Write an x register; a write to x0 is discarded. -/
def Slot.wx (t : Slot) (r : BitVec 5) (v : Word) : Slot :=
  if r = 0 then t else { t with x := t.x.set r.toNat v (by have := r.isLt; omega) }

def Slot.fr (t : Slot) (r : BitVec 5) : Word := t.f[r.toNat]'(by have := r.isLt; omega)
def Slot.wf (t : Slot) (r : BitVec 5) (v : Word) : Slot := { t with f := t.f.set r.toNat v (by have := r.isLt; omega) }

/-- A k register; k0 reads all ones. -/
def Slot.kr (t : Slot) (r : BitVec 3) : Half := if r = 0 then 0xFFFFFFFF else t.k[r.toNat]'(by have := r.isLt; omega)

/-- Dirty bits of the six lazily saved files (R373). -/
def dirtyV : BitVec 6 := 1
def dirtyO : BitVec 6 := 2
def dirtyB : BitVec 6 := 4
def dirtyK : BitVec 6 := 8
def dirtyH : BitVec 6 := 16
def dirtyCb : BitVec 6 := 32

def Slot.wk (t : Slot) (r : BitVec 3) (v : Half) : Slot :=
  if r = 0 then t else { t with k := t.k.set r.toNat v (by have := r.isLt; omega), dirty := t.dirty ||| dirtyK }

def Slot.hr (t : Slot) (r : BitVec 4) : Word := t.h[r.toNat]'(by have := r.isLt; omega)
def Slot.wh (t : Slot) (r : BitVec 4) (v : Word) : Slot :=
  { t with h := t.h.set r.toNat v (by have := r.isLt; omega), dirty := t.dirty ||| dirtyH }

def Slot.wv (t : Slot) (n : Fin 48) (v : Vec) : Slot :=
  { t with v := t.v.set n.val v n.isLt, dirty := t.dirty ||| dirtyV }
def Slot.wo (t : Slot) (n : Fin 8) (v : Vec) : Slot :=
  { t with o := t.o.set n.val v n.isLt, dirty := t.dirty ||| dirtyO }

/-- Push a result into the last-result ring (R158). -/
def Slot.push (t : Slot) (v : Vec) : Slot :=
  { t with b := #v[v, t.b[0], t.b[1], t.b[2]], dirty := t.dirty ||| dirtyB }

/-- The registers of the issuing thread. -/
def State.x (s : State) (r : BitVec 5) : Word := s.me.xr r
def State.setX (s : State) (r : BitVec 5) (v : Word) : State := s.modMe (·.wx r v)
def State.h (s : State) (r : BitVec 4) : Word := s.me.hr r
def State.setH (s : State) (r : BitVec 4) (v : Word) : State := s.modMe (·.wh r v)

/-! ### Statuses (R13) -/

inductive Status where
  | ok | empty | range | late | timeout | abort | fault | refused | preempted | lost | squashed | boundExceeded
  deriving DecidableEq, Repr

def Status.code : Status → Nat
  | .ok => 0 | .empty => 1 | .range => 2 | .late => 3 | .timeout => 4 | .abort => 5 | .fault => 6 | .refused => 7
  | .preempted => 8 | .lost => 9 | .squashed => 10 | .boundExceeded => 11

def Status.byte (t : Status) : BitVec 8 := BitVec.ofNat 8 t.code
def Status.word (t : Status) : Word := BitVec.ofNat 64 t.code

/-- A status in [63:56] with zero elsewhere: the handle form (R99, R307). -/
def Status.handle (t : Status) : Word := BitVec.ofNat 64 (t.code * 2 ^ 56)

/-! ### The end of an instruction -/

/-- The slot state of a thread whose wait is over (R125). -/
def SlotSt.woken : SlotSt → SlotSt
  | .wait => .ready
  | t => t

/-- Move past an instruction of `len` bytes: the wait, if any, is over, and one instruction is retired (R125, R130). -/
def Slot.retire (t : Slot) (len : Nat) : Slot :=
  { t with pc := t.pc + BitVec.ofNat 64 len, st := t.st.woken, wait := none, far := [], instret := t.instret + 1 }

/-- Go to an address. -/
def Slot.jump (t : Slot) (pc : Word) : Slot :=
  { t with pc := pc, st := t.st.woken, wait := none, far := [], instret := t.instret + 1 }

def State.retire (s : State) (len : Nat) : State := s.modMe (·.retire len)
def State.jump (s : State) (pc : Word) : State := s.modMe (·.jump pc)

/-- Write a status into rd and retire. -/
def State.finish (s : State) (rd : BitVec 5) (st : Status) (len : Nat) : State := (s.setX rd st.word).retire len

/-! ### Bits of a word -/

def bitW (w : Word) (i : Nat) : Bool := w.getLsbD i
def setBitW (w : Word) (i : Nat) (b : Bool) : Word :=
  if b then w ||| BitVec.ofNat 64 (2 ^ i) else w &&& ~~~(BitVec.ofNat 64 (2 ^ i))

end Sys2Proof.Machine
end

