-- ==== Sys2Proof/Machine/Translate.lean ====
section
/-! DEFINITION. Addresses, translation, protection and the PLB (R245 to R252, R259, R271), and reading and writing the
place an address reaches, with what a write does beside: reservations, update packets and the race trace ring (R130,
R297, R298, R305). -/

namespace Sys2Proof.Machine

/-- Kinds of access, with the rights they need (R247). An AMO needs R and W and faults as a store (R369). -/
inductive AK where
  | fetch | load | store | amo
  deriving DecidableEq, Repr

def AK.accessCause : AK → Nat
  | .fetch => 1 | .load => 5 | .store | .amo => 7
def AK.pageCause : AK → Nat
  | .fetch => 12 | .load => 13 | .store | .amo => 15
def AK.misalignedCause : AK → Nat
  | .fetch => 0 | .load => 4 | .store | .amo => 6
def AK.rights : AK → BitVec 8
  | .fetch => 4 | .load => 1 | .store => 2 | .amo => 3
def AK.writes : AK → Bool
  | .store | .amo => true
  | _ => false

def causeControlFlow : Nat := 24
def causePrivilege : Nat := 25
def causeDeferred : Nat := 28
def causeRemote : Nat := 29
def causeFe : Nat := 30
def causeTable : Nat := 31
def causeRaw : Nat := 48

/-- What an address reaches: a DRAM byte, a byte of a scratchpad of this package, or another package. -/
inductive Place where
  | dram (pa : Nat)
  | spad (core off : Nat)
  | far (va : Word)
  deriving DecidableEq, Repr

/-- Who makes an access: its die, its core if it has one, the address of the rights table that governs it (R247), the
slot whose PLB entries it consults, for an engine command of a thread (R248), and, for accesses to another package, the number of
its command or node and the limit of its waits (R246). -/
structure View where
  die : Nat
  core : Option Nat
  rights : Word
  plb : Option Nat := none
  who : Nat := 0
  limit : Nat := 2 ^ 24
  deriving DecidableEq, Repr

/-- The number of a thread as an agent (R332): it keeps it wherever it is loaded (R372). -/
def tidNo (t : Tid) : Nat := 2 ^ 48 + t.1 * 2 ^ 16 + t.2.toNat

/-- The limit of a wait of a thread's command: its `waitlim`, or the least that every limit allows while it is in no slot (R246). -/
def State.limitOf (s : State) (t : Tid) : Nat := ((s.locOf t).map (fun l => (s.slot l).u.waitlim.toNat)).getD (2 ^ 24)

/-- The view of an engine command that a thread issued in a slot under a rights table. -/
def State.engineView (s : State) (loc : Nat) (t : Tid) (rights : Word) : View :=
  { die := dieOf loc, core := some (coreOf loc), rights := rights, plb := some loc, who := tidNo t, limit := s.limitOf t }

/-- The view of a thread's own accesses. -/
def State.viewOf (s : State) (loc : Nat) : View := s.engineView loc (s.tidOf loc) (s.slot loc).sc.pdrights

/-- A byte of DRAM; nothing lies at or above 2^39 (R245). -/
def State.dramByte (s : State) (pa : Nat) : Byte := if pa < 2 ^ 39 then s.mem.byte pa else 0

/-- A 64-bit little-endian word of DRAM. -/
def State.dram64 (s : State) (pa : Nat) : Nat := bytesNat ((List.range 8).map (fun i => s.dramByte (pa + i)))

/-- The rights byte of a domain (R247): the table is at bits [52:12] of `pdrights`. -/
def State.rightsByte (s : State) (rights : Word) (domain : Nat) : BitVec 8 :=
  s.dramByte (rights.toNat / 2 ^ 12 % 2 ^ 41 * 2 ^ 12 + domain)

/-! ### The translation tables -/

/-- How a walk fails (R252). -/
inductive WErr where
  | page | format
  deriving DecidableEq, Repr

def WErr.cause (e : WErr) (k : AK) : Nat :=
  match e with
  | .page => k.pageCause
  | .format => causeTable

/-- The index of a virtual address at a level (R250). -/
def walkIndex (va lvl : Nat) : Nat := if lvl = 0 then va / 2 ^ 44 % 4096 else va / 2 ^ (44 - 8 * lvl) % 256

/-- The leaf entry `e` found at a level, if it passes the checks of R252. -/
def leafOf (va lvl e : Nat) : Except WErr Plb :=
  let sz := e / 2 % 16
  let q := 12 + 2 * sz
  let frame := e / 2 ^ 23 * 2 ^ 12
  let fe := bitOf e 5
  let repl := bitOf e 6
  let managed := bitOf e 7
  let evac := bitOf e 8
  if lvl == 0 || sz / 4 != 4 - lvl then .error .format
  else if e / 2 ^ 9 % 4 == 3 || frame % 2 ^ q != 0 || 2 ^ 39 ≤ frame || (fe && (repl || managed)) || (evac && !managed) then
    .error .format
  else
    .ok { slot := 0, page := va / 2 ^ q * 2 ^ q, size := sz, domain := e / 2 ^ 11 % 4096, rights := 0,
          policy := BitVec.ofNat 2 (e / 2 ^ 9), evac := evac, managed := managed, repl := repl, fe := fe, frame := frame }

/-- The walk of R252 from the entry at `pa`: the address of the leaf's entry and the leaf. -/
def walkFrom (rd : Nat → Nat) (va : Nat) : Nat → Nat → Nat → Except WErr (Nat × Plb)
  | 0, _, _ => .error .format
  | fuel + 1, lvl, pa =>
    let e := rd pa
    if e % 2 == 0 then .error .page
    else if lvl < 4 && e / 2 % 16 == 0 then
      if e / 2 ^ 53 != 0 || e / 2 ^ 5 % 2 ^ 6 != 0 || e / 2 ^ 39 % 2 ^ 14 != 0 then .error .format
      else walkFrom rd va fuel (lvl + 1) (e / 2 ^ 11 % 2 ^ 42 * 2 ^ 11 + 8 * walkIndex va (lvl + 1))
    else (leafOf va lvl e).map (fun l => (pa, l))

/-- A walk by the tree that a die's `ttroot` names (R250). -/
def State.walkOn (s : State) (die : Nat) (va : Nat) : Except WErr (Nat × Plb) :=
  walkFrom s.dram64 va 5 0 ((s.die die).ttroot.toNat / 2 ^ 15 % 2 ^ 38 * 2 ^ 15 + 8 * walkIndex va 0)

/-- The home die of a leaf (R248): that of its frame, or the asking die for a replicated page. -/
def homeOf (die : Nat) (l : Plb) : Nat := if l.repl then die else l.frame / 2 ^ 37 % 4

/-- The walk of a request (R250, R252, log 32): by the tree of the home die it leads to. -/
def State.walk (s : State) (die : Nat) (va : Nat) : Except WErr (Nat × Plb) :=
  let own := s.walkOn die va
  let fits (d : Nat) : Bool :=
    match s.walkOn d va with
    | .ok p => homeOf die p.2 == d
    | .error _ => false
  match [die, 0, 1, 2, 3].find? fits with
  | some d => s.walkOn d va
  | none => own

/-- The slice of its home die that serves a line (R253). -/
def homeSlice (va : Nat) : Nat := (va / 2 ^ 6 % 32) ^^^ (va / 2 ^ 11 % 32)

/-- The PLB entry that a protection reply builds (R248). -/
def State.lookup (s : State) (v : View) (va : Nat) : Except WErr Plb :=
  (s.walk v.die va).map (fun p => { p.2 with rights := s.rightsByte v.rights p.2.domain })

/-- The DRAM address of a byte of a page as an agent of a die reads it (R259), or as it is written: die 0's copy. -/
def Plb.pa (e : Plb) (die : Nat) (writes : Bool) (va : Nat) : Nat :=
  let p := e.frame + (va - e.page)
  if e.repl && !writes then p % 2 ^ 37 + die * 2 ^ 37 else p

def Plb.covers (e : Plb) (slot va : Nat) : Bool := e.slot == slot && e.page ≤ va && va < e.page + 2 ^ (12 + 2 * e.size)

/-- Put a reply into a core's PLB of 64 entries (R248, log 9). -/
def State.plbFill (s : State) (core : Nat) (e : Plb) : State :=
  let c := s.core core
  if c.plb.length < 64 then s.setCore core { c with plb := c.plb ++ [e] }
  else { s.setCore core { c with plb := c.plb.set (Config.plbVictim s.fresh % 64) e } with fresh := s.fresh + 1 }

/-- The PLB entry for an address as a thread sees it: a hit, or the reply to a waited request (R248). -/
def State.plbEntry (s : State) (loc : Nat) (va : Nat) : State × Except WErr Plb :=
  match (s.core (coreOf loc)).plb.find? (·.covers (loc % 4) va) with
  | some e => (s, .ok e)
  | none =>
    match s.lookup (s.viewOf loc) va with
    | .error e => (s, .error e)
    | .ok e => let e' := { e with slot := loc % 4 }; (s.plbFill (coreOf loc) e', .ok e')

/-! ### Checks on an address -/

/-- The data-pointer check (R245): bit 63 is a managed reference, any other bit of [62:56] an access fault. -/
def ptrCheck (k : AK) (va : Word) : Option Nat :=
  if bitW va 63 then some causeRaw
  else if va.toNat / 2 ^ 56 != 0 then some k.accessCause
  else none

/-- The apertures (R246). None for an address that the tables translate. -/
def aperture (pkg : Nat) (core : Option Nat) (va : Nat) : Option (Option Place) :=
  if va / 2 ^ 52 % 16 == 0xE && va / 2 ^ 56 == 0 then
    match core with
    | some c => if va % 2 ^ 52 < 2 ^ 20 then some (some (.spad c (va % 2 ^ 20))) else some none
    | none => some none
  else if va / 2 ^ 52 % 16 == 0xF && va / 2 ^ 56 == 0 then
    if va / 2 ^ 39 % 2 ^ 13 != 0 then some none
    else if va / 2 ^ 30 % 512 == pkg then some (some (.spad (va / 2 ^ 20 % 1024) (va % 2 ^ 20)))
    else some (some (.far (BitVec.ofNat 64 va)))
  else none

/-- Whether bytes lie wholly inside one pinned body (R271, log 33). -/
def State.pinned (s : State) (va n : Nat) : Bool :=
  s.dies.any (fun d => d.2.pins.any (fun p => p.1 + 16 ≤ va && va + n ≤ p.1 + 16 + p.2))

/-- Whether a rights byte grants what an access needs. -/
def granted (rights need : BitVec 8) : Bool := rights &&& need == need

/-- The place that a page's entry gives an access, or the cause of its failure: rights (R248), then the pin check of a
raw access to a managed page (R271); those of `ref.*` instructions and of Kilns are not raw. -/
def State.pagePlace (s : State) (die : Nat) (k : AK) (va n : Nat) (e : Plb) (raw : Bool := true) : Except Nat Place :=
  if !granted e.rights k.rights then .error k.accessCause
  else if raw && e.managed && !s.pinned va n then .error causeRaw
  else .ok (.dram (e.pa die k.writes va))

/-- The place of an aperture access, by the rights of the owning core's domain (R246). The domain of a scratchpad of
another package is held there: its answer says whether the rights were missing (log 34). -/
def State.apPlace (s : State) (rights : Word) (k : AK) (p : Option Place) : Except Nat Place :=
  match p with
  | none => .error k.accessCause
  | some (.spad c off) =>
    if granted (s.rightsByte rights (s.core c).spdom.toNat) k.rights then .ok (.spad c off) else .error k.accessCause
  | some q => .ok q

/-- Where a thread's access of `n` bytes goes, with the page's entry, or the cause of its fault (R245 to R252, R271). -/
def State.reach (s : State) (loc : Nat) (k : AK) (va : Word) (n : Nat) (raw : Bool := true) : State × Except Nat (Place × Option Plb) :=
  match ptrCheck k va with
  | some c => (s, .error c)
  | none =>
    match aperture s.pkg.toNat (some (coreOf loc)) va.toNat with
    | some p => (s, (s.apPlace (s.slot loc).sc.pdrights k p).map (fun q => (q, none)))
    | none =>
      let r := s.plbEntry loc va.toNat
      match r.2 with
      | .error e => (r.1, .error (e.cause k))
      | .ok e => (r.1, (s.pagePlace (dieOf loc) k va.toNat n e raw).map (fun q => (q, some e)))

/-- The entry for an engine's or a fabric node's access: an engine command consults the PLB of its core while its slot has the
command's rights table; else the walk is made at the memory side (R247, R248, R262). -/
def State.entryAs (s : State) (v : View) (va : Nat) : Except WErr Plb :=
  match v.plb with
  | some loc =>
    if (s.slot loc).sc.pdrights == v.rights then
      match (s.core (coreOf loc)).plb.find? (·.covers (loc % 4) va) with
      | some e => .ok e
      | none => s.lookup v va
    else s.lookup v va
  | none => s.lookup v va

/-- Where an engine's or a fabric node's access goes. -/
def State.reachAs (s : State) (v : View) (k : AK) (va : Word) (n : Nat) (raw : Bool := true) : Except Nat (Place × Option Plb) :=
  match ptrCheck k va with
  | some c => .error c
  | none =>
    match aperture s.pkg.toNat v.core va.toNat with
    | some p => (s.apPlace v.rights k p).map (fun q => (q, none))
    | none =>
      match s.entryAs v va.toNat with
      | .error e => .error (e.cause k)
      | .ok e => (s.pagePlace v.die k va.toNat n e raw).map (fun q => (q, some e))

/-! ### Places -/

/-- The memory address of a byte of a scratchpad: in the save image while the port is redirected (R304). -/
def State.spadKey (s : State) (core off : Nat) : Nat :=
  let c := s.core core
  if c.redirected then c.spimg.toNat / 2 ^ 20 % 2 ^ 33 * 2 ^ 20 + off else spadBase core + off

/-- The memory address of a place of this package. -/
def State.key (s : State) (p : Place) : Nat :=
  match p with
  | .dram pa => pa
  | .spad c off => s.spadKey c off
  | .far _ => 0

/-- Read `n` bytes at a place of this package, as a little-endian number. -/
def State.get (s : State) (p : Place) (n : Nat) : Nat := s.mem.read (s.key p) n

/-- Bytes at a place. -/
def State.getBytes (s : State) (p : Place) (n : Nat) : List Byte := s.mem.bytes (s.key p) n

/-- Who writes: the kind of R305, the agent's number (R332: `tidNo` for a thread; 2^40 and up for a frame, 16384 and up for a host
queue pair, 2^72 and up for an agent of another package), the slot whose own stores leave its reservation standing (R130), the
source core if it has one, [37:35] of a ring entry for kind 3, the package if it is another, and the limit of a write to another
package (R246). `unit` marks a write of a matrix unit, which no core owns. -/
structure Agent where
  kind : Nat
  id : Nat
  thread : Option Nat
  core : Option Nat
  iface : Option Nat
  pkg : Option (BitVec 9) := none
  limit : Nat := 2 ^ 24
  unit : Bool := false
  deriving DecidableEq, Repr

/-- An own access of the thread in a slot: kind 0 or 1. -/
def State.agentAt (s : State) (loc : Nat) (kind : Nat := 0) : Agent :=
  { kind := kind, id := tidNo (s.tidOf loc), thread := some loc, core := some (coreOf loc), iface := none }
/-- A write by an engine of a core for a thread's command: kind 2 (R305). -/
def State.agentFor (s : State) (loc : Nat) (t : Tid) : Agent :=
  { kind := 2, id := tidNo t, thread := none, core := some (coreOf loc), iface := none, limit := s.limitOf t }
/-- The agent number of a frame (R332): it keeps it through a spill. -/
def frameAgent (id : Nat) : Nat := 2 ^ 40 + id
/-- The number of a node of a frame where its reads at other packages name it (R246). -/
def nodeNo (frame node : Nat) : Nat := frame * 4096 + node
/-- A write of a frame by a slice interface of a cluster (R305). -/
def Agent.ofFrame (id cluster iface : Nat) : Agent :=
  { kind := 3, id := frameAgent id, thread := none, core := some (cluster * 8), iface := some iface }
/-- A write of a cluster's matrix unit for a command of an `mxport` node: it counts as the frame's (R242). -/
def Agent.ofPort (id cluster : Nat) : Agent :=
  { kind := 2, id := frameAgent id, thread := none, core := some (cluster * 8), iface := none, unit := true }
/-- A host queue pair (R332): no core contains it. Its writes are plain stores. -/
def Agent.ofHost (qp : Nat) : Agent := { kind := 0, id := 16384 + qp, thread := none, core := none, iface := none }
/-- The Imposer, whose writes are no thread's and no frame's. -/
def Agent.imposer : Agent := { kind := 0, id := 12288, thread := none, core := none, iface := none }
/-- An agent of another package (R297, R335): of a fabric node, the low two bits of its location are its slice interface (R305). -/
def Agent.ofFar (a : FarAccess) (kind : Nat) : Agent :=
  { kind := kind, id := 2 ^ 72 + a.pkg.toNat * 2 ^ 64 + a.agent % 2 ^ 64, thread := none, core := some (coreOf a.loc),
    iface := if kind == 3 then some (a.loc % 4) else none, pkg := some a.pkg }

/-- Blocks of 64 bytes by which reservations are kept: bit-identical to the memory address of a place. -/
def Place.block (p : Place) (i : Nat) : Nat :=
  match p with
  | .dram pa => (pa + i) / 64
  | .spad c off => (spadBase c + off + i) / 64
  | .far va => (2 ^ 60 + va.toNat + i) / 64

/-- A write to `n` bytes ends the reservations of other agents on their blocks (R130). -/
def State.breakResv (s : State) (thread : Option Nat) (p : Place) (n : Nat) : State :=
  let hit (b : Nat) : Bool := p.block 0 ≤ b && b ≤ p.block (n - 1)
  { s with slots := s.slots.map (fun e =>
             match e.2.resv with
             | some b => if hit b && thread != some e.1 then (e.1, { e.2 with resv := none }) else e
             | none => e),
           farResv := s.farResv.filter (fun r => !hit r.2.2) }

/-- A ring entry (R305). Where no core is the source, the position of the source is zero (log 46). -/
def ringEntry (s : State) (ag : Agent) (off n : Nat) : BitVec 128 :=
  let core := ag.core.getD 0
  let src := match ag.iface with
    | some i => core / 8 * 8 + i
    | none => core
  BitVec.ofNat 128 (off + src * 2 ^ 35 + (ag.pkg.getD s.pkg).toNat * 2 ^ 45 + (n - 1) % 128 * 2 ^ 54 + ag.kind * 2 ^ 61
    + s.tick.toNat * 2 ^ 64)

/-- Record an arrival from outside the owning core (R305). Two positions of the source field name the core; for a fabric
node its low three bits name the slice interface. -/
def State.ringAdd (s : State) (core off n : Nat) (ag : Agent) : State :=
  if ag.kind != 3 && ag.pkg.isNone && !ag.unit && ag.core == some core then s
  else
    let e := ringEntry s ag off n
    s.modCore core (fun c => { c with ring := assocSet c.ring (c.ringCount % 4096) e, ringCount := c.ringCount + 1 })

/-! ### Update packets (R297 to R300) -/

def Packet.full (p : Packet) : Bool := p.mask == BitVec.allOnes 64

/-- Merge one byte into a packet. -/
def Packet.merge (p : Packet) (i : Nat) (b : Byte) (writer : Nat) : Packet :=
  { p with mask := p.mask ||| BitVec.ofNat 64 (2 ^ i),
           data := (p.data &&& ~~~(BitVec.ofNat 512 (255 * 2 ^ (8 * i)))) ||| BitVec.ofNat 512 (b.toNat * 2 ^ (8 * i)),
           writers := if p.writers.contains writer then p.writers else p.writers ++ [writer] }

/-- Close and send an open packet. -/
def Sub.flush (b : Sub) : Sub :=
  match b.opened with
  | none => b
  | some p => { b with opened := none, sent := b.sent ++ [p] }

/-- One written byte at source offset `off` (R298): a packet that has been open for 64 cycles takes no more. -/
def Sub.update (b : Sub) (cycle off : Nat) (v : Byte) (writer : Nat) : Sub :=
  let line := off / 64
  let merge (p : Packet) (c : Sub) : Sub :=
    let p' := p.merge (off % 64) v writer
    let c' := { c with opened := some p' }
    if p'.full then c'.flush else c'
  let fresh : Packet := ⟨line, 0, 0, cycle, []⟩
  match b.opened with
  | some p => if p.line == line && cycle < p.opened + 64 then merge p b else merge fresh b.flush
  | none => merge fresh b

/-- Whether a subscription forwards writes: from its snapshot point to its end mark (R302, R308). -/
def Sub.forwards (b : Sub) : Bool := (b.st == .syncing || b.st == .active) && !b.ended

def Sub.inWindow (b : Sub) (off : Nat) : Bool := b.src ≤ off && off < b.src + b.len

/-- Updates of one subscription from bytes written at a core's port. -/
def Sub.capture (b : Sub) (cycle off : Nat) (writer : Nat) : List Byte → Sub
  | [] => b
  | v :: vs =>
    let b' := if b.inWindow off then b.update cycle off v writer else b
    b'.capture cycle (off + 1) writer vs

def State.subAt (s : State) (core e : Nat) : Option Sub := assoc (s.core core).subs e
def State.setSub (s : State) (core e : Nat) (b : Sub) : State :=
  s.modCore core (fun c => { c with subs := assocSet c.subs e b })

/-- Count packets sent at the publisher entry (R310). -/
def State.countSent (s : State) (pubCore pubIdx n : Nat) : State :=
  s.modCore pubCore (fun c =>
    match assoc c.pubs pubIdx with
    | none => c
    | some p => { c with pubs := assocSet c.pubs pubIdx { p with packets := p.packets + BitVec.ofNat 32 n } })

/-- Store back a subscription whose packets may have been sent. -/
def State.putSub (s : State) (core e : Nat) (old new : Sub) : State :=
  (s.setSub core e new).countSent new.pubCore new.pubIdx (new.sent.length - old.sent.length)

/-- Packets that have been open for 64 cycles are closed and sent (R298). -/
def State.expirePackets (s : State) : State :=
  s.cores.foldl (fun t c => c.2.subs.foldl (fun u b =>
    if b.2.opened.any (fun p => p.opened + 64 ≤ s.cycle) then u.putSub c.1 b.1 b.2 b.2.flush else u) t) s

/-- Every subscription of a written window receives its updates (R297). -/
def State.capture (s : State) (core off : Nat) (bs : List Byte) (writer : Nat) : State :=
  (s.core core).pubs.foldl (fun t p =>
    match t.subAt p.2.subCore p.2.subIdx with
    | none => t
    | some b =>
      if b.forwards then t.putSub p.2.subCore p.2.subIdx b (b.capture t.cycle off writer bs) else t) s

/-! ### Writes -/

/-- An agent writes to another package. -/
def noteTo (l : List FarTo) (agent pkg : Nat) : List FarTo :=
  if l.any (fun e => e.agent == agent && e.pkg == pkg) then
    l.map (fun e => if e.agent == agent && e.pkg == pkg then { e with fresh := true } else e)
  else l ++ [⟨agent, pkg, true, none⟩]

/-- Write a string of bytes at a place, as one agent's write. -/
def State.put (s : State) (ag : Agent) (p : Place) (bs : List Byte) : State :=
  match p with
  | .dram pa => ({ s with mem := s.mem.setBytes pa bs } : State).breakResv ag.thread p bs.length
  | .spad c off =>
    ((({ s with mem := s.mem.setBytes (s.spadKey c off) bs } : State).breakResv ag.thread p bs.length).capture
      c off bs ag.id).ringAdd c off bs.length ag
  | .far va =>
    { s with outs := s.outs ++ [.farWrite s.nextFar va bs], nextFar := s.nextFar + 1,
             farTo := noteTo s.farTo ag.id (va.toNat / 2 ^ 30 % 512),
             farOut := if ag.thread.isSome then s.farOut else s.farOut ++ [⟨s.nextFar, ag.id, va, s.cycle + ag.limit⟩] }

/-- Write the low `n` bytes of a number. -/
def State.putNat (s : State) (ag : Agent) (p : Place) (n v : Nat) : State := s.put ag p (natBytes n v)

/-- The bytes a packet holds, lowest first, with their places in the line. -/
def Packet.bytes (p : Packet) : List (Nat × Byte) :=
  ((List.range 64).filter (fun i => bitOf p.mask.toNat i)).map
    (fun i => (i, BitVec.ofNat 8 (p.data.toNat / 2 ^ (8 * i))))

/-- Apply a packet at the subscriber's port or save image (R298, R299, R304, R305). -/
def State.applyPacket (s : State) (core : Nat) (b : Sub) (p : Packet) : State :=
  let base := b.dst + (p.line * 64 - b.src)
  let w (t : State) (i : Nat × Byte) : State :=
    ({ t with mem := t.mem.setByte (t.spadKey core (base + i.1)) i.2 } : State).breakResv none (.spad core (base + i.1)) 1
  let lowest := ((p.bytes.head?).map Prod.fst).getD 0
  (p.bytes.foldl w s).ringAdd core (base + lowest) p.bytes.length { kind := 4, id := b.owner, thread := none, core := some b.pubCore, iface := none }

/-! ### Replicated pages (R259) -/

/-- Forget what protection replies on their way say of some pages: their stores ask again (R248, R249, R259). -/
def State.forgetReplies (s : State) (gone : Nat → Plb → Bool) : State :=
  { s with slots := s.slots.map (fun e =>
      (e.1, { e.2 with posted := e.2.posted.map (fun p =>
        match p.reply with
        | some (.entry x) => if gone e.1 x then { p with reply := none } else p
        | _ => p) })) }

/-- Rewrite the leaf entries of a replicated page with the flag clear and drop every PLB entry of the page, and every one on its
way: from then on every access reaches die 0's copy. -/
def State.collapse (s : State) (die : Nat) (va : Nat) : State :=
  match s.walk die va with
  | .error _ => s
  | .ok (pa, e) =>
    if !e.repl then s
    else
      let n := 4 ^ (e.size % 4)
      let first := pa / (8 * n) * (8 * n)
      let clear (t : State) (i : Nat) : State :=
        let a := first + 8 * i
        ({ t with mem := t.mem.write a 8 (t.dram64 a - if bitOf (t.dram64 a) 6 then 64 else 0) } : State).breakResv none (.dram a) 8
      let t := (List.range n).foldl clear s
      let gone (x : Plb) : Bool := x.page == e.page && x.repl
      ({ t with cores := t.cores.map (fun c => (c.1, { c.2 with plb := c.2.plb.filter (fun x => !gone x) })) } :
        State).forgetReplies (fun _ => gone)

/-- Before a write to a replicated page, the page becomes an ordinary one (R259). -/
def State.beforeWrite (s : State) (die : Nat) (va : Nat) (e : Option Plb) : State :=
  match e with
  | some p => if p.repl then s.collapse die va else s
  | none => s

end Sys2Proof.Machine
end

