-- ==== Sys2Proof/Machine/Ops.lean ====
section
/-! DEFINITION. The shared operations of instructions: the end of a meaning, taking a trap and returning from one
(R368 to R370), waits and their expiry (R15, R125, R143), the inbox (R142, R143), a thread's loads, stores and atomics
with posted and held stores (R248, R260), releases (R338, R349), and landing pads (R24). -/

namespace Sys2Proof.Machine

/-- A meaning in progress: `ok` goes on, `error` is a state in which the instruction is over or waits. -/
abbrev Go := Except State State

/-- The state a meaning ends in. -/
def Go.state (g : Go) : State :=
  match g with
  | .ok s => s
  | .error s => s

/-- What a meaning answers: always a next state. -/
def Go.done (g : Go) : Res := .next g.state

/-! ### Traps -/

/-- What a trap reports (R369, R370). -/
structure TrapInfo where
  intr : Bool := false
  cause : Nat
  tval : Word := 0
  elem : Nat := 0
  amo : Nat := 0
  frame : Word := 0
  member : Nat := 0
  deriving DecidableEq, Repr

/-- The index of a slot in its gang. -/
def Slot.member (t : Slot) : Nat := match t.gang with | some g => g.index | none => 0

/-- The member slots of a gang of `n` cores led by a thread, the leader first (R139). -/
def gangSlots (leader n : Nat) : List Nat := (List.range n).map (fun i => leader + 4 * i)

/-- The slots that act with a slot: its gang, or itself alone. -/
def State.fellows (s : State) (loc : Nat) : List Nat :=
  match (s.slot loc).gang with
  | some g => (gangSlots g.leader g.count).filter (fun l => l == loc || (s.slot l).gang.any (fun x => x.leader == g.leader))
  | none => [loc]

/-- The leader of a thread's gang, or the thread. -/
def State.leaderOf (s : State) (loc : Nat) : Nat := match (s.slot loc).gang with | some g => g.leader | none => loc
def State.lead (s : State) (loc : Nat) : Slot := s.slot (s.leaderOf loc)

def Priv.code : Priv → Nat
  | .u => 0 | .s => 1 | .m => 3

/-- Whether a trap is delivered to supervisor mode (R368): delegated, and not taken in machine mode. -/
def Slot.delegated (t : Slot) (intr : Bool) (cause : Nat) : Bool :=
  t.priv != .m && bitW (if intr then t.rv.mideleg else t.rv.medeleg) cause

/-- The handler's address by xtvec: vectored for interrupts in mode 1. -/
def handlerPc (tvec : Word) (intr : Bool) (cause : Nat) : Word :=
  let base := tvec &&& ~~~(3 : Word)
  if intr && tvec.toNat % 4 == 1 then base + BitVec.ofNat 64 (4 * cause) else base

/-- xcause. -/
def causeWord (intr : Bool) (cause : Nat) : Word := BitVec.ofNat 64 (cause + if intr then 2 ^ 63 else 0)

/-- Entry of a trap on one thread (R368, RISC-V privileged architecture): saved pc, cause and value, the stacked
interrupt enable and mode, the slot in TRAP (a gang's other members stay MEMBER), the reservation gone, and the trap record
(R125, R370). -/
def Slot.takeTrap (t : Slot) (tick : Word) (i : TrapInfo) : Slot :=
  let st := t.rv.mstatus
  let rec' : TrapRec :=
    { amo := BitVec.ofNat 2 i.amo, elem := BitVec.ofNat 8 i.elem, member := BitVec.ofNat 8 i.member,
      cause := BitVec.ofNat 8 i.cause, pc := t.pc, tval := i.tval, frame := i.frame, held := t.held, tick := tick }
  let rv :=
    if t.delegated i.intr i.cause then
      { t.rv with
        sepc := t.pc, scause := causeWord i.intr i.cause, stval := i.tval,
        mstatus := setBitW (setBitW (setBitW st 5 (bitW st 1)) 1 false) 8 (t.priv != .u) }
    else
      { t.rv with
        mepc := t.pc, mcause := causeWord i.intr i.cause, mtval := i.tval,
        mstatus := setBitW (setBitW (setBitW (setBitW st 7 (bitW st 3)) 3 false) 11 (t.priv != .u)) 12 (t.priv == .m) }
  { t with
    rv := rv,
    priv := if t.delegated i.intr i.cause then .s else .m,
    pc := handlerPc (if t.delegated i.intr i.cause then t.rv.stvec else t.rv.mtvec) i.intr i.cause,
    st := if t.st == .member then .member else .trap, wait := none, resv := none, far := [], trapRec := some rec' }

/-- A slot whose thread is gone (R394): what the supervisor set for the slot stays, with the context counter and the
parked table. -/
def Slot.freed (t : Slot) : Slot :=
  { Slot.reset with sc := t.sc, rv := t.rv, ctxCounter := t.ctxCounter, parked := t.parked }

/-- Free the slots that an unfinished `fuse` of a thread has reserved (R139). -/
def State.freeReserved (s : State) (loc : Nat) : State :=
  if (s.slot loc).gang.isSome then s
  else
    { s with slots := s.slots.map (fun e =>
        match e.2.gang with
        | some g => if g.leader == loc && e.2.st == .member then (e.1, e.2.freed) else e
        | none => e) }

/-- Give back what a wait in progress holds: the inbox entry of a command not queued, a posted token, and slots that a
`fuse` has reserved (R139, R143, R257). -/
def State.dropWait (s : State) (loc : Nat) : State :=
  match (s.slot loc).wait with
  | none => s
  | some w =>
    let s1 := if w.exp.release then s.modSlot loc (fun t => { t with ibReserved := t.ibReserved - 1 }) else s
    let s2 := { s1 with feq := s1.feq.filter (fun q => q.loc != loc) }
    let s3 := if w.kind == .fuse then s2.freeReserved loc else s2
    s3.modSlot loc (fun t => { t with wait := none, st := t.st.woken })

/-- The requests to other packages of a thread, a command or a node that is over are forgotten. -/
def State.dropAsks (s : State) (who : Nat) : State := { s with asks := s.asks.filter (fun a => a.who != who) }

/-- Take a trap on a thread; a trap on one member of a gang traps every member at the same instruction (R140, R368; log 52). -/
def State.trap (s : State) (loc : Nat) (i : TrapInfo) : State :=
  let j := { i with member := (s.slot loc).member }
  let pc := (s.slot loc).pc
  (s.fellows loc).foldl (fun u l =>
    ((u.dropWait l).dropAsks (tidNo (u.tidOf l))).modSlot l (fun t => { t with pc := pc }.takeTrap s.tick j)) s

/-- The instruction of the issuing thread traps precisely. -/
def State.raise {α : Type} (s : State) (cause : Nat) (tval : Word) : Except State α :=
  .error (s.trap s.cur { cause := cause, tval := tval })

/-- DEFERRED_STORE_FAULT with the address of the oldest held store (R260, R369). -/
def State.raiseDeferred (s : State) (loc : Nat) : State :=
  s.trap loc { cause := causeDeferred, tval := ((s.slot loc).held.head?.map Held.addr).getD 0 }

/-! ### Waits -/

/-- A thread no longer waits for its region operation or its invalidation, which goes on (R390, R391, R392). -/
def State.dropRegionWait (s : State) (loc : Nat) : State :=
  { s with rgnOps := s.rgnOps.map (fun o => if o.who == some (s.tidOf loc) then { o with who := none } else o),
           invs := s.invs.map (fun i => if i.who == some (s.tidOf loc) then { i with who := none } else i) }

/-- End a wait whose limit expired (R15). -/
def State.expire (s0 : State) (loc : Nat) (e : Expiry) : State :=
  let s := s0.dropRegionWait loc
  let s1 := if e.release then s.modSlot loc (fun t => { t with ibReserved := t.ibReserved - 1 }) else s
  let s2 := ({ s1 with feq := s1.feq.filter (fun q => q.loc != loc) } : State).freeReserved loc
  match e.trap with
  | some p =>
    (s2.modSlot loc (fun t => { t with wait := none, st := t.st.woken })).trap loc
      { cause := p.1, tval := p.2, amo := e.amo, elem := e.elem }
  | none =>
    s2.modSlot loc (fun t =>
      let t1 := e.xs.foldl (fun u p => u.wx p.1 p.2) t
      let t2 := match e.hNull with | some h => t1.wh h 0 | none => t1
      t2.retire e.len)

/-- The end of the count that the reservation of the instruction in progress began (R143). -/
def Wait.count (w : Wait) : Option Nat := if w.kind == .reserve || w.kind == .enqueue then w.deadline else w.outer

/-- The deadline of a wait: that of the same wait in progress, of one kept through a switch (R125), or of the reservation
that an enqueue follows (R143); else the limit counts from now. -/
def State.deadlineFor (s : State) (loc : Nat) (k : WaitKind) (limit : Nat) : Nat :=
  match (s.slot loc).wait with
  | some w =>
    if w.kind == k || w.kind == .loaded then w.deadline.getD (s.cycle + limit)
    else if k == .enqueue then w.count.getD (s.cycle + limit)
    else s.cycle + limit
  | none => s.cycle + limit

/-- The count of R143 that a wait for another package keeps: one that has begun, or one that begins now. -/
def State.outerFor (s : State) (k : WaitKind) : Option Nat :=
  if k == .remote then some ((s.me.wait.bind Wait.count).getD (s.cycle + s.me.u.waitlim.toNat)) else none

/-- Whether the instruction in progress holds an inbox entry as it waits (R143). -/
def State.holdsEntry (s : State) : Bool := s.me.wait.any (fun w => w.exp.release)

/-- The issuing thread's condition is unmet: it waits, or its limit has expired (R15, R125, R143). -/
def State.waitFor (s : State) (k : WaitKind) (limit : Nat) (e0 : Expiry) (blk : Option Nat := none) : State :=
  let d := s.deadlineFor s.cur k limit
  let e : Expiry := { e0 with release := e0.release || s.holdsEntry }
  if d ≤ s.cycle then s.expire s.cur e
  else s.modMe (fun t => { t with wait := some ⟨k, some d, 0, e, blk, s.outerFor k⟩, st := if t.st == .ready then .wait else t.st })

/-- A wait with no limit of its own. -/
def State.waitOpen (s : State) (k : WaitKind) : State :=
  s.modMe (fun t => { t with wait := some ⟨k, none, 0, { release := s.holdsEntry }, s.me.wait.bind Wait.blk, s.outerFor k⟩, st := if t.st == .ready then .wait else t.st })

def State.waitlim (s : State) : Nat := s.me.u.waitlim.toNat

/-- What the thread waits for, if it does. -/
def State.waiting (s : State) (k : WaitKind) : Bool :=
  match s.me.wait with
  | some w => w.kind == k
  | none => false

/-! ### The inbox (R142, R143) -/

def inboxSize : Nat := 16

def Slot.inboxFull (t : Slot) : Bool := inboxSize ≤ t.inbox.length + t.ibReserved

/-- `ReserveInbox`: one entry, or wait. An instruction that already holds its entry goes on. `blk` is what it has read before. -/
def State.reserve (s : State) (e : Expiry) (blk : Option Nat := none) : Go :=
  if s.holdsEntry then .ok s
  else if s.me.inboxFull then .error (s.waitFor .reserve s.waitlim e blk)
  else .ok (s.modMe (fun t => { t with ibReserved := t.ibReserved + 1 }))

def State.unreserve (s : State) : State := s.modMe (fun t => { t with ibReserved := t.ibReserved - 1 })

/-- What the accesses of an instruction that has reserved an entry come to: it keeps the entry while it waits for one of them, and
gives it back when it traps. -/
def State.reserved {α : Type} (s : State) (r : Except State α) : Except State α :=
  match r with
  | .ok a => .ok a
  | .error t =>
    .error (if t.me.wait.isSome then
        t.modMe (fun x => { x with wait := x.wait.map (fun w => { w with exp := { w.exp with release := true } }) })
      else if s.holdsEntry then t else t.unreserve)

/-- A message on its way to the thread of an identity (R142, R372). -/
def State.post (s : State) (home : Nat) (ctx : BitVec 16) (kind : Nat) (st : Status) (tag : Half) (value : Word) : State :=
  { s with arrivals := s.arrivals ++ [(home, ctx, ⟨BitVec.ofNat 8 kind, st.byte, 0, tag, value⟩)] }

/-- A message in the 128-bit layout of R142: upper word. -/
def Msg.hi (m : Msg) : Word :=
  BitVec.ofNat 64 (m.kind.toNat * 2 ^ 56 + m.status.toNat * 2 ^ 48 + m.seq.toNat * 2 ^ 32 + m.tag.toNat)

/-- A message read back from its two words. -/
def Msg.ofWords (lo hi : Word) : Msg :=
  { kind := BitVec.ofNat 8 (hi.toNat / 2 ^ 56), status := BitVec.ofNat 8 (hi.toNat / 2 ^ 48),
    seq := BitVec.ofNat 16 (hi.toNat / 2 ^ 32), tag := BitVec.ofNat 32 hi.toNat, value := lo }

/-- Remove the first entry of a list that satisfies a test. -/
def dropFirst {α : Type} (p : α → Bool) : List α → List α
  | [] => []
  | a :: r => if p a then r else a :: dropFirst p r

/-- A return message of `callt`, which `recv`, `peek` and `wfm` never see (R136). -/
def Msg.isReturn (m : Msg) : Bool := m.kind == 1

/-- The messages that `recv` can take, oldest first. -/
def Slot.mail (t : Slot) : List Msg := t.inbox.filter (fun m => !m.isReturn)

/-- Take the first message that satisfies a test out of the inbox; fewer messages are new since the last user interrupt
if it was one of them (R146). -/
def Slot.takeMsg (t : Slot) (p : Msg → Bool) : Slot :=
  match t.inbox.findIdx? p with
  | none => t
  | some i =>
    { t with inbox := t.inbox.eraseIdx i,
             uiFresh := if t.inbox.length ≤ i + t.uiFresh then t.uiFresh - 1 else t.uiFresh }

/-- The inbox gives up what it holds for an outstanding call: its message, or else the place reserved for it. -/
def Slot.dropReturn (t : Slot) (c : CallRec) : Slot :=
  if t.inbox.any (fun m => m.isReturn && m.value == c.frame) then t.takeMsg (fun m => m.isReturn && m.value == c.frame)
  else { t with ibReserved := t.ibReserved - 1 }

/-! ### Posted and held stores (R248, R260) -/

/-- Whether two byte ranges meet. -/
def overlaps (a n b m : Nat) : Bool := a < b + m && b < a + n

def Slot.heldOver (t : Slot) (va n : Nat) : Bool := t.held.any (fun h => overlaps va n h.addr.toNat h.width)

/-- A thread's write of `n` bytes at a place, a replicated page collapsed first (R259). `kind` is that of R305. -/
def State.writeAt (s : State) (loc : Nat) (va : Word) (p : Place × Option Plb) (n v : Nat) (kind : Nat := 0) : State :=
  match p.2 with
  | some e =>
    if e.repl then
      (s.beforeWrite (dieOf loc) va.toNat p.2).putNat (s.agentAt loc kind) (.dram (e.frame + (va.toNat - e.page))) n v
    else s.putNat (s.agentAt loc kind) p.1 n v
  | none => s.putNat (s.agentAt loc kind) p.1 n v

/-- Hold a store at its home slice with the cause of its failure, in its place in program order. -/
def Slot.hold (t : Slot) (h : Held) : Slot :=
  { t with held := t.held.filter (fun x => x.seq < h.seq) ++ [h] ++ t.held.filter (fun x => !(x.seq < h.seq)) }
def State.hold (s : State) (loc : Nat) (va : Word) (n : Nat) (v : Word) (cause seq : Nat) : State :=
  s.modSlot loc (fun t => t.hold ⟨va, n, v, cause, seq, false⟩)

/-- Whether an address is another package's. -/
def State.isFar (s : State) (va : Word) : Bool :=
  match aperture s.pkg.toNat (some 0) va.toNat with
  | some (some (.far _)) => true
  | _ => false

/-- A store of a thread to another package has gone out under the last number: its answer is awaited within `waitlim` (R246). -/
def State.postFarAt (s : State) (loc : Nat) (va : Word) (n : Nat) (v : Word) (rel : Bool) (seq : Nat) : State :=
  s.modSlot loc (fun t =>
    { t with posted := t.posted ++ [⟨va, n, v, none, some (s.nextFar - 1, s.cycle + t.u.waitlim.toNat), rel, seq, t.sc.pdrights⟩] })

/-- The cause with which a store behind a held one is held. -/
def Slot.causeOver (t : Slot) (va n : Nat) : Nat :=
  ((t.held.find? (fun h => overlaps va n h.addr.toNat h.width)).map Held.cause).getD 15

/-- The translation of a store of a thread under the `pdrights` with which its protection was asked for (R248). -/
def State.reachUnder (s : State) (loc : Nat) (va : Word) (n : Nat) (rights : Word) : State × Except Nat (Place × Option Plb) :=
  if rights == (s.slot loc).sc.pdrights then s.reach loc .store va n
  else (s, s.reachAs { s.viewOf loc with rights := rights } .store va n)

/-- Serve a store that waits for its translation: performed, or held (R260). A store behind a held one is held with it, and one to
another package waits for its acknowledgement. `rights` is the table under which its protection was asked for. -/
def State.serveStore (s : State) (loc : Nat) (va : Word) (n : Nat) (v : Word) (seq : Nat) (rights : Word) : State :=
  if (s.slot loc).heldOver va.toNat n then s.hold loc va n v ((s.slot loc).causeOver va.toNat n) seq
  else
    let r := s.reachUnder loc va n rights
    match r.2 with
    | .ok p =>
      let s1 := r.1.writeAt loc va p n v.toNat
      if s.isFar va then s1.postFarAt loc va n v false seq else s1
    | .error c => r.1.hold loc va n v c seq

def Posted.isFar (p : Posted) : Bool := p.far.isSome

/-- One posted store of a thread is served. A store to another package waits for its acknowledgement instead (R246). -/
def State.servePosted (s : State) (loc : Nat) (p : Posted) : State :=
  match p.reply with
  | some (.fail c) => s.hold loc p.addr p.width p.data c p.seq
  | _ => s.serveStore loc p.addr p.width p.data p.seq p.rights

/-- Every posted store of a thread to this package is served, in program order. -/
def State.drain (s : State) (loc : Nat) : State :=
  let ps := (s.slot loc).posted
  let s1 := s.modSlot loc (fun t => { t with posted := t.posted.filter Posted.isFar })
  (ps.filter (fun p => !p.isFar)).foldl (fun u p => u.servePosted loc p) s1

/-- The posted stores are served first where one of them covers a byte of an access (R336); other accesses may come before
them (R337). -/
def State.drainOver (s : State) (loc va n : Nat) : State :=
  if (s.slot loc).posted.any (fun p => !p.isFar && overlaps va n p.addr.toNat p.width) then s.drain loc else s

/-! ### Other packages (R246) -/

/-- The reply to request `id`, if it has come. -/
def State.replyOf (s : State) (id : Nat) : Option FarReply := s.remote.find? (fun r => r.id == id)
def State.dropReply (s : State) (id : Nat) : State := { s with remote := s.remote.filter (fun r => r.id != id) }

/-- What has become of write `id` to another package: none while it waits for an answer, else the cause of its failure if it
failed (R246). -/
def State.fate (s : State) (id : Nat) : Option (Option Nat) :=
  match s.replyOf id with
  | some r => some (if r.refused then some (AK.accessCause .store) else if r.ok then none else some causeRemote)
  | none =>
    match s.farOut.find? (fun w => w.id == id) with
    | some w => if w.deadline ≤ s.cycle then some (some causeRemote) else none
    | none => some none

/-- Forget writes to other packages whose fates are known, and their answers. -/
def State.dropWrites (s : State) (ids : List Nat) : State :=
  { s with farOut := s.farOut.filter (fun w => !ids.contains w.id), remote := s.remote.filter (fun r => !ids.contains r.id) }

/-- Whether some of the writes to other packages still wait for an answer. -/
def State.unacked (s : State) (ids : List Nat) : Bool := ids.any (fun i => (s.fate i).isNone)

/-- The address of the first of some writes to other packages that has failed. -/
def State.farFailed (s : State) (ids : List Nat) : Option Word :=
  (ids.find? (fun i => (s.fate i).any Option.isSome)).bind (fun i => (s.farOut.find? (fun w => w.id == i)).map FarWrite.va)

/-- The writes to other packages that a step has sent. -/
def State.newWrites (s t : State) : List Nat := (t.farOut.drop s.farOut.length).map FarWrite.id

/-- The answer to a read or an atomic `op` of `n` bytes at another package by an engine or a frame (R246): its value, or the cause of
its failure. Without an answer the step at hand is to be taken again once it has come (`State.farStep`); what follows is void. -/
def State.askFar (s : State) (k : AK) (v : View) (va : Word) (n : Nat) (op : Option FarOp) : Except Nat (State × Nat) :=
  if s.miss.isSome then .ok (s, 0)
  else
    match s.asks.find? (fun a => !a.used && a.who == v.who && a.va == va && a.n == n && a.op == op) with
    | none => .ok ({ s with miss := some ⟨v.who, va, n, op, s.nextFar, s.cycle + v.limit, false⟩ }, 0)
    | some a =>
      match s.replyOf a.id with
      | some r =>
        if r.refused then .error k.accessCause
        else if !r.ok then .error causeRemote
        else .ok ({ s with asks := s.asks.map (fun x => if x.id == a.id then { x with used := true } else x) },
          r.data.toNat % 2 ^ (8 * n))
      | none => if a.deadline ≤ s.cycle then .error causeRemote else .ok ({ s with miss := some a }, 0)

/-- A read or an atomic of an engine or a frame goes out to another package, if it has not yet. -/
def State.sendAsk (s : State) (a : FarAsk) : State :=
  if s.asks.any (fun x => x.id == a.id) then s
  else
    { s with asks := s.asks ++ [a], nextFar := s.nextFar + 1,
             outs := s.outs ++ [match a.op with | some o => .farAmo a.id a.va o | none => .farRead a.id a.va a.n] }

/-- What a step of an engine or a frame comes to (R246): where an answer of another package was lacking, its request goes out and
nothing else happens; else the answers that the step has used are forgotten. -/
def State.farStep (s t : State) : State :=
  match t.miss with
  | some a => s.sendAsk a
  | none =>
    let ids := (t.asks.filter (fun a => a.used)).map FarAsk.id
    if ids.isEmpty then t
    else { t with asks := t.asks.filter (fun a => !a.used), remote := t.remote.filter (fun r => !ids.contains r.id) }

/-- The answer to a posted store of a thread, if it has come: an acknowledgement, or the store becomes a held one in the entry that it
has had since it was posted. -/
def State.settle (s : State) (loc : Nat) (p : Posted) : State :=
  match p.far.bind (fun f => s.replyOf f.1) with
  | none => s
  | some r =>
    let s1 := (s.dropReply r.id).modSlot loc (fun t => { t with posted := t.posted.filter (fun q => q.seq != p.seq) })
    if r.refused then s1.hold loc p.addr p.width p.data (AK.accessCause .store) p.seq
    else if r.ok then s1
    else s1.hold loc p.addr p.width p.data causeRemote p.seq

/-- Every answer that has come to a thread's stores to other packages. -/
def State.settleFar (s : State) (loc : Nat) : State :=
  (s.slot loc).posted.foldl (fun u p => u.settle loc p) s

/-- Whether a thread's stores to other packages wait for answers. -/
def State.farPending (s : State) (loc : Nat) : Bool := (s.slot loc).posted.any Posted.isFar

/-- The writes of engines and frames to other packages that are not acknowledged yet. -/
def State.farUnacked (s : State) : List FarWrite := s.farOut.filter (fun w => (s.fate w.id).isNone)

/-- The thread waits for the answers to its stores to other packages (R338, R349). -/
def State.awaitFar (s : State) : Go :=
  let s1 := s.settleFar s.cur
  if !(s1.slot s.cur).held.isEmpty then .error (s1.raiseDeferred s.cur)
  else if s1.farPending s.cur then .error (s1.waitOpen .remote)
  else .ok s1

/-- An access of the issuing thread to another package: the request goes out once, and its reply is awaited for `waitlim`
cycles, at whose end the instruction traps with REMOTE_TIMEOUT (R246). `out` is the request by its number, `k` its kind; `key` tells
requests of one instruction apart. -/
def State.ask (s : State) (k : AK) (va : Word) (elem : Nat) (out : Nat → Out) (key : Word := va) : Except State (State × BitVec 128) :=
  let amo := if k == .amo then 2 else 0
  let trapAt (t : State) (cause amo : Nat) : Except State (State × BitVec 128) :=
    .error (t.trap s.cur { cause := cause, tval := va, elem := elem, amo := amo })
  let answer (t : State) (r : FarReply) : Except State (State × BitVec 128) :=
    if r.refused then trapAt t k.accessCause 0
    else if r.ok then .ok (t, r.data)
    else trapAt t causeRemote r.outcome.toNat
  let wait (t : State) : Except State (State × BitVec 128) :=
    .error (t.waitFor .remote s.waitlim { trap := some (causeRemote, va), amo := amo, elem := elem, release := s.holdsEntry })
  match s.me.far.find? (fun f => f.1 == key) with
  | some (_, _, some r) => answer s r
  | some (_, id, none) =>
    match s.replyOf id with
    | some r =>
      answer ((s.dropReply id).modMe (fun t => { t with far := t.far.map (fun f => if f.2.1 == id then (key, id, some r) else f) })) r
    | none => wait s
  | none =>
    wait (({ s with outs := s.outs ++ [out s.nextFar], nextFar := s.nextFar + 1 } : State).modMe (fun t =>
      { t with far := t.far ++ [(key, s.nextFar, none)], wait := none }))

/-- A synchronising instruction (R260): it traps while a store of the thread is held. -/
def State.syncGate (s : State) : Go :=
  let s1 := s.drain s.cur
  if (s1.slot s.cur).held.isEmpty then .ok s1 else .error (s1.raiseDeferred s.cur)

/-! ### A thread's accesses -/

/-- What a waited access meets before it is performed: the address (R245), then held stores of the thread to the same
bytes, at which the instruction traps not yet executed (R260), then the protection reply (R248). Posted stores to the same
bytes are served first. An instruction whose own rule puts the protection reply first asks for it before (R350, R352). -/
def State.beforeAccess (s : State) (k : AK) (va : Word) (n : Nat) (elem : Nat := 0) (raw : Bool := true) :
    Except State (State × Place × Option Plb) :=
  match ptrCheck k va with
  | some c => .error (s.trap s.cur { cause := c, tval := va, elem := elem })
  | none =>
    let s1 := s.drainOver s.cur va.toNat n
    if s1.me.heldOver va.toNat n then .error (s1.raiseDeferred s.cur)
    else
      let r := s1.reach s.cur k va n raw
      match r.2 with
      | .error c => .error (r.1.trap s.cur { cause := c, tval := va, elem := elem })
      | .ok p => .ok (r.1, p.1, p.2)

/-- A waited load of `n` bytes, precise. `elem` is the element for the trap record. -/
def State.load (s : State) (va : Word) (n : Nat) (elem : Nat := 0) (raw : Bool := true) : Except State (State × Nat) := do
  let (s1, p, _) ← s.beforeAccess .load va n elem raw
  match p with
  | .far w => (s1.ask .load va elem (fun id => .farRead id w n)).map (fun r => (r.1, r.2.toNat % 2 ^ (8 * n)))
  | _ => .ok (s1, s1.get p n)

/-- `k` loads of `n` bytes from an address on, lowest first; the first fault is precise. -/
def State.loads (s : State) (va : Word) (n : Nat) : Nat → Except State (State × List Nat)
  | 0 => .ok (s, [])
  | k + 1 => do
    let (s1, v) ← s.load va n
    let (s2, vs) ← s1.loads (va + BitVec.ofNat 64 n) n k
    .ok (s2, v :: vs)

/-- A block of `k` aligned 64-bit words, read with plain loads, as one little-endian number. -/
def State.loadBlock (s : State) (va : Word) (k : Nat) : Except State (State × Nat) :=
  (s.loads va 8 k).map (fun p => (p.1, packElems 64 p.2))

/-- A waited write of `n` bytes, precise and never deferred. It comes behind the thread's posted stores to the same bytes, and traps,
not yet executed, at one of them that is held (R336, log 54). -/
def State.storeNow (s : State) (va : Word) (n v : Nat) : Go :=
  match ptrCheck .store va with
  | some c => s.raise c va
  | none =>
    let s1 := s.drainOver s.cur va.toNat n
    if s1.me.heldOver va.toNat n then .error (s1.raiseDeferred s.cur)
    else
      let r := s1.reach s.cur .store va n
      match r.2 with
      | .error c => r.1.raise c va
      | .ok p => .ok (r.1.writeAt s.cur va p n v)

/-- The same for a write whose instruction does not go on before it is performed: one to another package is acknowledged first, or
the instruction traps with REMOTE_TIMEOUT (R246, log 54). -/
def State.storeWaited (s : State) (va : Word) (n v : Nat) : Go :=
  if s.isFar va then (s.ask .store va 0 (fun id => .farWrite id va (natBytes n v))).map Prod.fst else s.storeNow va n v

/-- Whether a store's translation is at hand: an aperture, or a PLB hit (R248). -/
def State.atHand (s : State) (loc : Nat) (va : Word) : Bool :=
  (aperture s.pkg.toNat (some (coreOf loc)) va.toNat).isSome
    || (s.core (coreOf loc)).plb.any (·.covers (loc % 4) va.toNat)

/-- The next number in a thread's program order of stores. -/
def State.nextSeq (s : State) : State := s.modMe (fun t => { t with stSeq := t.stSeq + 1 })

/-- Room for one more store that may be held: eight are held or posted at most. The answers to posted ones are waited for first; with
eight held, a ninth traps at itself, not yet executed (R260). -/
def State.holdRoom (s : State) (loc : Nat) : Go :=
  let full (t : State) : Bool := 8 ≤ (t.slot loc).held.length + (t.slot loc).posted.length
  if !full s then .ok s
  else
    let s1 := (s.drain loc).settleFar loc
    if !full s1 then .ok s1
    else if s1.farPending loc then .error (s1.waitOpen .remote)
    else .error (s1.raiseDeferred loc)

/-- A store is posted with its protection request; with eight posted or held, the earlier replies are waited for first, and
with eight held it waits for its own, and traps at itself if it would be the ninth (R260). -/
def State.postStore (s : State) (va : Word) (n : Nat) (v : Word) : Go :=
  match s.holdRoom s.cur with
  | .ok s1 =>
    .ok (s1.modMe (fun x => { x with posted := x.posted ++ [⟨va, n, v, none, none, false, x.stSeq, x.sc.pdrights⟩] })).nextSeq
  | .error w =>
    let s1 := (s.drain s.cur).settleFar s.cur
    if s1.farPending s.cur then .error w
    else
      let r := s1.reach s.cur .store va n
      match r.2 with
      | .ok p => if s1.me.heldOver va.toNat n then .error (s1.raiseDeferred s.cur) else .ok (r.1.writeAt s.cur va p n v.toNat).nextSeq
      | .error _ => .error (r.1.raiseDeferred s.cur)

/-- A store of the issuing thread to another package has gone out. -/
def State.postFar (s : State) (va : Word) (n : Nat) (v : Word) (rel : Bool) : State :=
  (s.postFarAt s.cur va n v rel s.me.stSeq).nextSeq

/-- A plain store of the issuing thread (R248, R260). -/
def State.storePlain (s : State) (va : Word) (n : Nat) (v : Word) (elem : Nat := 0) : Go :=
  match ptrCheck .store va with
  | some c => .error (s.trap s.cur { cause := c, tval := va, elem := elem })
  | none =>
    let behind (t : State) : Go :=
      (t.holdRoom s.cur).map (fun u => (u.serveStore s.cur va n v u.me.stSeq u.me.sc.pdrights).nextSeq)
    if s.me.heldOver va.toNat n then behind s
    else if s.isFar va then
      -- it may come to be held: it takes an entry until it is acknowledged
      match s.reach s.cur .store va n with
      | (s1, .error c) => .error (s1.trap s.cur { cause := c, tval := va, elem := elem })
      | (s1, .ok p) => (s1.holdRoom s.cur).map (fun u => (u.writeAt s.cur va p n v.toNat).postFar va n v false)
    else if !s.atHand s.cur va then s.postStore va n v
    else
      -- an earlier posted store to the same bytes is served first
      let s1 := s.drainOver s.cur va.toNat n
      if s1.me.heldOver va.toNat n then behind s1
      else
        let r := s1.reach s.cur .store va n
        match r.2 with
        | .error c => .error (r.1.trap s.cur { cause := c, tval := va, elem := elem })
        | .ok p => .ok (r.1.writeAt s.cur va p n v.toNat)

/-- The place of the bytes of a replicated page that a write would reach: die 0's copy. -/
def homePlace (va : Word) (p : Place) (e : Option Plb) : Place :=
  match e with
  | some x => if x.repl then .dram (x.frame + (va.toNat - x.page)) else p
  | none => p

/-- An atomic of the issuing thread on `n` bytes (R340, R352): `f` gives the new value, or none for no write; `o` names the
operation to another package, which performs it at its port. It is a write under R259 whether it writes or not. -/
def State.atomic (s : State) (va : Word) (n : Nat) (o : FarOp) (f : Nat → Option Nat) (raw : Bool := true) :
    Except State (State × Nat) := do
  let (s1, p, e) ← s.beforeAccess .amo va n 0 raw
  match p with
  | .far w => (s1.ask .amo va 0 (fun id => .farAmo id w o)).map (fun r => (r.1, r.2.toNat % 2 ^ (8 * n)))
  | _ =>
    let old := s1.get (homePlace va p e) n
    match f old with
    | some v => .ok (s1.writeAt s.cur va (p, e) n v 1, old)
    | none => .ok (s1.beforeWrite (dieOf s.cur) va.toNat e, old)

/-! ### Reference stores at the slices (R275, R276) -/

/-- A reference store is served at the slice for the thread in a slot record, or becomes a deferred store of it (R276); the caller
sees to a free entry. One behind a deferred store is deferred with it. -/
def State.serveRefAt (s : State) (ag : Agent) (loc : Nat) (t : Slot) (h : Held) : State × Slot :=
  let fail (c : Nat) : State × Slot := (s, t.hold { h with cause := c, ref := true })
  if t.heldOver h.addr.toNat h.width then fail (t.causeOver h.addr.toNat h.width)
  else
    match s.lookup { die := dieOf loc, core := some (coreOf loc), rights := t.sc.pdrights } h.addr.toNat with
    | .error e => fail (e.cause .store)
    | .ok e =>
      if granted e.rights (AK.rights .store) then
        ((s.beforeWrite (dieOf loc) h.addr.toNat (some e)).putNat ag (.dram (e.pa (dieOf loc) true h.addr.toNat)) h.width
          h.data.toNat, t)
      else fail (AK.accessCause .store)

/-- Where a held reference store goes: its field in the copy that serves it. -/
def RefHeld.at (r : RefHeld) : Word :=
  match r.dest with
  | some a => a + (r.st.addr - BitVec.ofNat 64 r.obj)
  | none => r.st.addr

/-- An h register that still names a moved object names its copy (R275). -/
def Slot.renew (t : Slot) (m : BitVec 4 × Nat × Word) : Slot :=
  let v := t.hr m.1
  if m.2.2.toNat != m.2.1 && bitW v 63 && v.toNat % 2 ^ 56 == m.2.1 then
    t.wh m.1 (BitVec.ofNat 64 (v.toNat / 2 ^ 56 * 2 ^ 56 + m.2.2.toNat % 2 ^ 56))
  else t

/-- The reference stores of a thread that the slice can serve, in program order: it stops at one whose object is in transit, and at
one that fails and finds no free held-store entry (R276). The register that named a moved object is rewritten, or will be when a thread
that is switched out comes back (R275). -/
def State.serveList (s : State) (ag : Agent) (loc : Nat) (t : Slot) : Nat → State × Slot
  | 0 => (s, t)
  | fuel + 1 =>
    match t.refHeld with
    | [] => (s, t)
    | r :: rest =>
      match r.dest with
      | none => (s, t)
      | some a =>
        let m := (r.base, r.obj, a)
        let t1 := { t with refHeld := rest }
        let p := s.serveRefAt ag loc (if ag.thread.isSome then t1.renew m else { t1 with moves := t1.moves ++ [m] })
          { r.st with addr := r.at }
        if 8 < p.2.held.length + p.2.posted.length && t.held.length < p.2.held.length then (s, t)
        else p.1.serveList ag loc p.2 fuel

def State.serveReady (s : State) (loc : Nat) : State :=
  let p := s.serveList (s.agentAt loc) loc (s.slot loc) (s.slot loc).refHeld.length
  p.1.modSlot loc (fun t => { t with refHeld := p.2.refHeld, held := p.2.held, h := p.2.h, dirty := p.2.dirty })

/-! ### Releases (R300, R338, R349) -/

/-- Apply the initial copy at the subscriber's port: full lines from the publisher core, on the path of the packets (R302, R305;
log 46). -/
def State.applyCopy (s : State) (core : Nat) (b : Sub) (bs : List Byte) : State :=
  (List.range (b.len / 64)).foldl (fun u i =>
    u.applyPacket core b
      ⟨b.src / 64 + i, BitVec.allOnes 64, BitVec.ofNat 512 (bytesNat ((bs.drop (64 * i)).take 64)), 0, []⟩) s

/-- The initial copy of a subscription, if it is still to come, and its message (R302, R307). -/
def State.syncCopy (s : State) (core e : Nat) (b : Sub) : State :=
  match b.snap with
  | none => s
  | some bs =>
    ((s.applyCopy core b bs).setSub core e { b with snap := none, st := if b.st == .syncing then .active else b.st }).post
      b.owner b.ctx 7 .ok b.tag (BitVec.ofNat 64 e)

/-- Apply every sent packet of a subscription, the initial copy first (R299, R307). -/
def State.applySent (s : State) (core e : Nat) : State :=
  match s.subAt core e with
  | none => s
  | some b =>
    let s1 := b.sent.foldl (fun u p => u.applyPacket core b p) (s.syncCopy core e b)
    match s1.subAt core e with
    | none => s1
    | some b1 => s1.setSub core e { b1 with sent := [], applied := b.applied + BitVec.ofNat 32 b.sent.length }

/-- Whether a subscription's packets hold an agent's write. -/
def Sub.holds (b : Sub) (id : Nat) : Bool :=
  b.opened.any (fun p => p.writers.contains id) || b.sent.any (fun p => p.writers.contains id)

/-- The open packets that some test names are closed and sent, and those of them for subscribers that another names are applied
(R298, R300). -/
def State.flushSubs (s : State) (own : Sub → Bool) (inside : Nat → Bool) : State :=
  s.cores.foldl (fun t c => c.2.subs.foldl (fun u p =>
    if p.2.st == .free || !own p.2 then u
    else
      let u1 := match u.subAt c.1 p.1 with
        | some b => u.putSub c.1 p.1 b b.flush
        | none => u
      if inside c.1 then u1.applySent c.1 p.1 else u1) t) s

/-- A release at a scope: packets with the thread's writes, and all packets of its core, are closed, and those for
subscribers inside the scope are applied (R298, R300, R338). -/
def State.releaseSubs (s : State) (loc : Nat) (sc : Scope) : State :=
  s.flushSubs (fun b => b.holds (tidNo (s.tidOf loc)) || b.pubCore == coreOf loc) (sameInstance sc (coreOf loc))

/-- A release of an agent goes to the other packages to which it has written, for the packets there that hold its writes (R298); at
`.sys` each answers when their updates have been applied (R300). -/
def State.releaseFar (s : State) (agent : Nat) (sys : Bool) (limit : Nat) : State :=
  let send (u : State) (e : FarTo) : State :=
    if e.agent != agent || (if sys then e.id.isSome else !e.fresh) then { u with farTo := u.farTo ++ [e] }
    else if sys then
      { u with outs := u.outs ++ [.farRelease u.nextFar e.pkg true], nextFar := u.nextFar + 1,
               farOut := u.farOut ++ [⟨u.nextFar, agent, BitVec.ofNat 64 (0xF * 2 ^ 52 + e.pkg * 2 ^ 30), u.cycle + limit⟩],
               farTo := u.farTo ++ [{ e with fresh := false, id := some u.nextFar }] }
    else { u with outs := u.outs ++ [.farRelease 0 e.pkg false], farTo := u.farTo ++ [{ e with fresh := false }] }
  s.farTo.foldl send { s with farTo := [] }

/-- The answers to an agent's releases, if all have come or their time is over. -/
def State.farReleased (s : State) (agent : Nat) : Option State :=
  let ids := (s.farTo.filter (fun e => e.agent == agent)).filterMap FarTo.id
  if ids.any (fun i => (s.fate i).isNone) then none
  else
    some { s.dropWrites ids with
      farTo := (s.farTo.filter (fun e => !(e.agent == agent && e.id.isSome && !e.fresh))).map (fun e =>
        if e.agent == agent then { e with id := none } else e) }

/-- The packets of the thread's writes at other packages are sent, and at `.sys` applied (R300). -/
def State.awaitReleased (s : State) (sys : Bool) : Go :=
  let me := tidNo (s.tidOf s.cur)
  let s1 := s.releaseFar me sys s.me.u.waitlim.toNat
  if !sys then .ok s1
  else match s1.farReleased me with
    | some s2 => .ok s2
    | none => .error (s1.waitOpen .remote)

/-- Earlier releases of the thread to other packages have been performed, or the instruction waits (R337, R350). -/
def State.awaitReleases (s : State) : Go :=
  let s1 := s.settleFar s.cur
  if s1.me.posted.any Posted.rel then .error (s1.waitOpen .remote) else .ok s1

/-- The waits of a release or fence at a scope (R349); at `.thr` a held store is all that stops it, and it sends the open packets
(R298). A reference store held back on an object in transit is waited for (R275), and so is an earlier `st.rel` to another package
(R337, R351). At `.sys` the thread's writes to other packages are acknowledged (R338); those of its commands are before the message
of the command (R342). -/
def State.release (s : State) (sc : Scope) : Go := do
  if sc == .thr then
    if s.me.held.isEmpty then (s.releaseSubs s.cur sc).awaitReleased false else .error (s.raiseDeferred s.cur)
  else
    let s1 ← s.syncGate
    let s2 := s1.serveReady s.cur
    if !s2.me.held.isEmpty then .error (s2.raiseDeferred s.cur)
    else if !s2.me.refHeld.isEmpty then .error (s2.waitOpen .transit)
    else
      let s3 := s2.releaseSubs s.cur sc
      let s4 ← if sc == .sys then s3.awaitFar else s3.awaitReleases
      if s4.me.held.isEmpty then s4.awaitReleased (sc == .sys) else .error (s4.raiseDeferred s.cur)

/-- The thread waits for its reference stores that are held back on objects in transit (R275). -/
def State.awaitRefs (s : State) : Go :=
  let s1 := s.serveReady s.cur
  if s1.me.refHeld.isEmpty then .ok s1 else .error (s1.waitOpen .transit)

/-! ### Returning from a trap (R125, R137, R260) -/

/-- A deferred reference store is issued again. -/
def State.serveHeldRef (s : State) (loc : Nat) (h : Held) : State :=
  let p := s.serveRefAt (s.agentAt loc) loc (s.slot loc) h
  p.1.modSlot loc (fun t => { t with held := p.2.held })

/-- A thread's held stores are issued again, in program order (R260); then reference stores that waited for an entry. -/
def State.reissue (s : State) (loc : Nat) : State :=
  let hs := (s.slot loc).held
  let s1 := s.modSlot loc (fun t => { t with held := [] })
  (hs.foldl (fun u h =>
    if h.ref then u.serveHeldRef loc h else u.serveStore loc h.addr h.width h.data h.seq (u.slot loc).sc.pdrights) s1).serveReady loc

/-- The exit address (R394). -/
def exitAddr : Word := 0x00FFFFFFFFFFFFF0

/-- How many calls of a thread wait outside the code it runs: one for each callback entered on it while blocked. -/
def Slot.outerCalls (t : Slot) : Nat := t.cbStack.length - (if t.poolOf.isSome then 1 else 0)

/-- The thread of a slot after a trap return (R125, R137): a `callt` whose wait is still pending resumes with a new
count, and one that the supervisor abandoned is forgotten. -/
def Slot.returned (t : Slot) (cycle : Nat) : Slot :=
  if t.sc.thstat && t.outerCalls < t.calls.length then
    { t with st := .call,
             calls := match t.calls with
               | [] => []
               | c :: r => { c with deadline := cycle + t.u.waitlim.toNat } :: r }
  else
    let gone := t.calls.length - t.outerCalls
    { (t.calls.take gone).foldl Slot.dropReturn t with
      st := if t.member == 0 then .ready else .member, calls := t.calls.drop gone }

/-- The thread's held stores are dropped, and with them the reference stores that come to be held as the entries free (R276, R394). -/
def State.dropHeld (s : State) (loc : Nat) : State :=
  let drop (u : State) : State := u.modSlot loc (fun t => { t with held := [] })
  (List.range (s.slot loc).refHeld.length).foldl (fun u _ => drop (u.serveReady loc)) (drop s)

/-- A trap return to `pc` in a mode: held stores first, then the target; held stores are dropped at the exit address
(R260, R394). -/
def State.trapReturn (s : State) (pc : Word) (p : Priv) (mstatus : Word) : State :=
  let back (t : Slot) : Slot :=
    { t with pc := pc, priv := p, wait := none, rv := { t.rv with mstatus := mstatus }, instret := t.instret + 1 }
  if pc == exitAddr then
    (s.dropHeld s.cur).modMe (fun t => { back t with st := if t.member == 0 then .ready else .member, calls := [] })
  else
    let s1 := (s.modMe (fun t => (back t).returned s.cycle)).reissue s.cur
    if (s1.slot s.cur).held.isEmpty then s1 else s1.raiseDeferred s.cur

/-! ### Fetch (R130, R253) -/

/-- The 64 bytes of the line that holds a place, as a number. -/
def State.lineAt (s : State) (p : Place) : BitVec 512 :=
  match p with
  | .dram pa => BitVec.ofNat 512 (s.mem.read (pa / 64 * 64) 64)
  | _ => 0

/-- The 32-bit word at `va % 64` of a line. -/
def wordOfLine (l : BitVec 512) (va : Nat) : Nat := l.toNat / 2 ^ (8 * (va % 64)) % 2 ^ 32

/-- A 32-bit word as an instruction fetch reads it (R130.5, R253, log 5): a line of cached memory that the core's
instruction cache still holds gives its old contents; no line of a page of policy 0b10 is kept. The answer is the word or the cause of
the fetch's fault; a word of another package is waited for (R246). -/
def State.fetch (s : State) (loc : Nat) (va : Word) : State × Except Nat Nat :=
  let r := s.reach loc .fetch va 4
  match r.2 with
  | .error c => (r.1, .error c)
  | .ok (.far w, _) =>
    match r.1.askFar .fetch (r.1.viewOf loc) w 4 none with
    | .ok p => (p.1, .ok p.2)
    | .error c => (r.1, .error c)
  | .ok (.spad c off, _) => (r.1, .ok (r.1.get (.spad c off) 4))
  | .ok (.dram pa, e) =>
    let pa' := match e with | some x => x.pa (dieOf loc) false va.toNat | none => pa
    let s1 := r.1
    let c := s1.core (coreOf loc)
    let line := va.toNat / 64
    let fill : State × Except Nat Nat :=
      let l := s1.lineAt (.dram pa')
      (s1.setCore (coreOf loc) { c with icache := assocSet c.icache line l }, .ok (wordOfLine l va.toNat))
    if e.any (fun x => x.policy == 2) then (s1, .ok (s1.get (.dram pa') 4))
    else
    match assoc c.icache line with
    | none => fill
    | some l =>
      if Config.keepsLine s1.fresh then ({ s1 with fresh := s1.fresh + 1 }, .ok (wordOfLine l va.toNat))
      else ({ fill.1 with fresh := fill.1.fresh + 1 }, fill.2)

/-! ### Landing pads and code pointers (R22 to R24, R394) -/

def ptrE (p : Word) : Bool := bitW p 63
def ptrK (p : Word) : Nat := p.toNat / 2 ^ 59 % 16
def ptrAddr (p : Word) : Word := BitVec.ofNat 64 (p.toNat % 2 ^ 56)

/-- The word `lpad K` (R67, R133). -/
def lpadWord (k : Nat) : Nat := k * 2 ^ 20 + 0x0B

/-- `CheckPad` of R24 on a control-flow pointer whose K must be `k`: the pad at its address, or the cause and value of
the fault. The exit address passes as if it held `lpad 0` (R394). -/
def State.padAt (s : State) (loc : Nat) (p : Word) (k : Nat) : State × Option (Nat × Word) :=
  if ptrE p || ptrK p != k || p.toNat / 2 ^ 56 % 8 != 0 then (s, some (causeControlFlow, p))
  else if ptrAddr p == exitAddr then (s, if k == 0 then none else some (causeControlFlow, p))
  else if p.toNat % 4 != 0 then (s, some (causeControlFlow, p))
  else
    let r := s.fetch loc (ptrAddr p)
    match r.2 with
    | .error c => (r.1, some (c, ptrAddr p))
    | .ok w => (r.1, if w == lpadWord k then none else some (causeControlFlow, p))

/-- The check at a transferring instruction of the issuing thread. -/
def State.checkPad (s : State) (p : Word) (k : Nat) : Go :=
  let r := s.padAt s.cur p k
  match r.2 with
  | none => .ok r.1
  | some e => r.1.raise e.1 e.2

/-- A transfer of the issuing thread to `pc`, with what else the instruction changes: one that reaches the exit address is
first a release of the thread's accesses (R260, R394). -/
def State.transfer (s : State) (pc : Word) (f : State → State) : Go := do
  let s1 ← if pc == exitAddr then s.release .pkg else .ok s
  .ok ((f s1).jump pc)

end Sys2Proof.Machine
end

