-- ==== Sys2Proof/Machine/Csr.lean ====
section
/-! DEFINITION. The CSRs: the Skearis table of R131 with its three access classes, the RISC-V CSRs (R130, R368, log 4),
and the CSR instructions. Reserved bits read as zero (R8). -/

namespace Sys2Proof.Machine

/-- Bits lo to hi of a word, in place. -/
def maskW (v : Word) (hi lo : Nat) : Word := BitVec.ofNat 64 (v.toNat / 2 ^ lo % 2 ^ (hi + 1 - lo) * 2 ^ lo)

/-! ### Values computed from the state -/

/-- Whether the inbox holds an unmasked message that arrived after the last delivery (R146). -/
def Slot.freshMasked (t : Slot) : Bool :=
  (t.inbox.drop (t.inbox.length - t.uiFresh)).any (fun m => m.kind.toNat < 16 && t.u.uimask.getLsbD m.kind.toNat)

/-- A user interrupt is pending (R146). -/
def Slot.uiPending (t : Slot) : Bool := t.priv == .u && t.u.uiEnable && t.freshMasked

/-- `uistat` (R131). -/
def Slot.uistat (t : Slot) : Word :=
  BitVec.ofNat 64 (t.u.uiEnable.toNat + 2 * t.u.uiActive.toNat + 4 * t.uiPending.toNat)

/-- `ibstat` (R131). -/
def Slot.ibstat (t : Slot) : Word := BitVec.ofNat 64 (t.inbox.length + t.ibReserved * 2 ^ 8)

/-- `gang` (R131). -/
def Slot.gangWord (t : Slot) : Word :=
  match t.gang with
  | some g => BitVec.ofNat 64 (g.count * 16 + g.index)
  | none => 16

/-- `locid`: package, then the location within it (R6). -/
def State.locid (s : State) (loc : Nat) : Word := BitVec.ofNat 64 (s.pkg.toNat * 2 ^ 12 + loc)

/-- The cycles of a quantum that runs (R375). -/
def Slot.quantumEff (t : Slot) : Nat := max (t.sc.quantum.toNat % 2 ^ 40) (t.sc.swcost.toNat + 1024)

/-- The clamp bit of `quantum`, set while the written value is the smaller: found anew when it is written and when a
quantum starts (R375). -/
def Slot.clamped (t : Slot) : Slot :=
  { t with sc := { t.sc with
      quantum := setBitW t.sc.quantum 62 (decide (t.sc.quantum.toNat % 2 ^ 40 < t.sc.swcost.toNat + 1024)) } }

/-- A quantum starts. -/
def Slot.startQuantum (t : Slot) : Slot :=
  { if bitW t.sc.quantum 63 then t.clamped else t with quantumUsed := 0 }

/-- `quantum` as it reads. -/
def Slot.quantumWord (t : Slot) : Word := maskW t.sc.quantum 63 61 ||| maskW t.sc.quantum 39 0

/-- Writable bits of mstatus, and the bits that read as constants: FS dirty, SD, UXL and SXL of 64 (log 4). -/
def mstatusMask : Word := 0x7E19AA
def mstatusFixed : Word := 0x8000000A00006000
def sstatusMask : Word := 0xC0122
def sstatusFixed : Word := 0x8000000200006000
/-- Interrupt bits: 1, 5 and 9 of supervisor mode, 16 and 17 of R369. -/
def intMask : Word := 0x30222
/-- misa: RV64 with I, M, A, F, D, S and U. -/
def misaWord : Word := 0x8000000000141129

def Slot.mstatusWord (t : Slot) : Word := (t.rv.mstatus &&& mstatusMask) ||| mstatusFixed
def Slot.sstatusWord (t : Slot) : Word := (t.rv.mstatus &&& sstatusMask) ||| sstatusFixed

/-- MPP holds 0, 1 or 3: a write of 2 leaves it. -/
def legalMpp (old new : Word) : Word :=
  if bitW new 12 && !bitW new 11 then setBitW (setBitW new 12 (bitW old 12)) 11 (bitW old 11) else new

/-! ### Reading -/

/-- CSRs of R131 held per slot, in ascending address. -/
def State.slotCsr (s : State) (loc a : Nat) : Option Word :=
  let t := s.slot loc
  match a with
  | 0x800 => some (t.u.waitlim.zeroExtend 64)
  | 0x801 => some (t.u.cbsel.zeroExtend 64)
  | 0x802 => some t.u.emuvec
  | 0x803 => some t.u.emuinst
  | 0x804 => some t.u.emupc
  | 0x805 => some (BitVec.ofNat 64 t.u.emustat.toNat)
  | 0x806 => some t.u.uivec
  | 0x807 => some (t.u.uimask.zeroExtend 64)
  | 0x808 => some t.uistat
  | 0x809 => some t.u.uepc
  | 0x810 => some (maskW t.u.mxfmt 23 23 ||| maskW t.u.mxfmt 19 16 ||| maskW t.u.mxfmt 11 0)
  | 0x811 => some t.u.mxscale
  | 0x812 => some t.u.mxzero
  | 0x813 => some t.u.arcur
  | 0x814 => some t.u.arend
  | 0x815 => some t.u.arlist
  | 0xCC0 => some (s.locid loc)
  | 0xCC1 => some (t.u.wuid.zeroExtend 64)
  | 0xCC2 => some s.tick
  | 0xCC3 => some (t.u.profen.zeroExtend 64)
  | 0xCC4 => some t.gangWord
  | 0xCC5 => some (t.u.prio.zeroExtend 64)
  | 0xCC6 => some t.ibstat
  | 0x5C0 => some t.quantumWord
  | 0x5C2 => some (t.sc.prioceil.zeroExtend 64)
  | 0x5C3 => some (t.sc.lnchlim.zeroExtend 64)
  | 0x5C4 => some t.sc.stkinit
  | 0x5C5 => some (BitVec.ofNat 64 t.sc.thstat.toNat)
  | 0x5CB => some (maskW t.sc.pdrights 52 12)
  | 0x5D3 => some (maskW t.sc.thsave 63 12)
  | 0x5D4 => some (maskW t.sc.thnext 63 12)
  | 0x5D5 => some (t.sc.swcost.zeroExtend 64)
  | _ => none

/-- CSRs of R131 held per core, cluster or die. -/
def State.unitCsr (s : State) (loc a : Nat) : Option Word :=
  let c := s.core (coreOf loc)
  let d := s.die (dieOf loc)
  match a with
  | 0x5C1 => some (c.isspol.zeroExtend 64)
  | 0x5C6 => some (maskW d.codir 52 6)
  | 0x5C7 => some d.prrbase
  | 0x5C8 => some (maskW d.prridx 63 32 ||| maskW d.prridx 7 0)
  | 0x5C9 => some (BitVec.ofNat 64 d.warmen.toNat)
  | 0x5CA => some (maskW d.ttroot 52 15)
  | 0x5CC => some d.tcq
  | 0x5CD => some (c.spdom.zeroExtend 64)
  | 0x5CE => some (maskW d.fwdtab 52 12 ||| maskW d.fwdtab 5 0)
  | 0x5CF => some (maskW c.spimg 52 20 ||| BitVec.ofNat 64 (4 * c.redirected.toNat))
  | 0x5D0 => some (maskW (s.clu (cluOf loc)).mxwt 35 0)
  | 0x5D1 => some ((s.clu (cluOf loc)).mxerr.zeroExtend 64)
  | 0x5D2 => some (maskW d.ftsvc 63 63 ||| maskW d.ftsvc 20 0)
  | 0x5D6 => some (maskW d.rquant 63 63 ||| maskW d.rquant 39 0)
  | 0x5D7 => some (maskW d.rimgpool 55 6 ||| maskW d.rimgpool 0 0)
  | 0x5D8 => some (maskW d.lnchwait 39 0)
  | _ => none

/-- The regions whose fabric traps are pending for the thread at a location: those of every die that it serves (R377). -/
def State.ftFor (s : State) (loc : Nat) : List Nat :=
  s.dies.flatMap (fun d =>
    if bitW d.2.ftsvc 63 && d.2.ftsvc.toNat % 2 ^ 21 == (s.locid loc).toNat then d.2.ftPending else [])

/-- The interrupt bits that are pending (R369, R377): those set by software, and FABRIC_TRAP for the service thread. -/
def State.mipWord (s : State) (loc : Nat) : Word :=
  setBitW ((s.slot loc).rv.mip &&& intMask) 16 (!(s.ftFor loc).isEmpty || bitW (s.slot loc).rv.mip 16)

/-- `cycle` counts cycles of the core (R130.7). -/
def State.cycleCount (s : State) (core : Nat) : Word := BitVec.ofNat 64 s.cycle + (s.core core).cycleOff

/-- The RISC-V CSRs (log 4). -/
def State.rvCsr (s : State) (loc a : Nat) : Option Word :=
  let t := s.slot loc
  match a with
  | 0x001 => some (BitVec.ofNat 64 (t.rv.fcsr.toNat % 32))
  | 0x002 => some (BitVec.ofNat 64 (t.rv.fcsr.toNat / 32))
  | 0x003 => some (t.rv.fcsr.zeroExtend 64)
  | 0x100 => some t.sstatusWord
  | 0x104 => some (t.rv.mie &&& t.rv.mideleg)
  | 0x105 => some t.rv.stvec
  | 0x106 => some (t.rv.scounteren.zeroExtend 64)
  | 0x10A => some 0
  | 0x140 => some t.rv.sscratch
  | 0x141 => some t.rv.sepc
  | 0x142 => some t.rv.scause
  | 0x143 => some t.rv.stval
  | 0x144 => some (s.mipWord loc &&& t.rv.mideleg)
  | 0x300 => some t.mstatusWord
  | 0x301 => some misaWord
  | 0x302 => some t.rv.medeleg
  | 0x303 => some t.rv.mideleg
  | 0x304 => some t.rv.mie
  | 0x305 => some t.rv.mtvec
  | 0x306 => some (t.rv.mcounteren.zeroExtend 64)
  | 0x30A => some 0
  | 0x320 => some 0
  | 0x340 => some t.rv.mscratch
  | 0x341 => some t.rv.mepc
  | 0x342 => some t.rv.mcause
  | 0x343 => some t.rv.mtval
  | 0x344 => some (s.mipWord loc)
  | 0xB00 => some (s.cycleCount (coreOf loc))
  | 0xB02 => some t.instret
  | 0xC00 => some (s.cycleCount (coreOf loc))
  | 0xC01 => some s.tick
  | 0xC02 => some t.instret
  | 0xF11 => some Config.vendorId
  | 0xF12 => some Config.archId
  | 0xF13 => some Config.impId
  | 0xF14 => some (s.locid loc)
  | 0xF15 => some 0
  | _ => if (0xB03 ≤ a && a ≤ 0xB1F) || (0xC03 ≤ a && a ≤ 0xC1F) || (0x323 ≤ a && a ≤ 0x33F) then some 0 else none

def State.csr (s : State) (loc a : Nat) : Option Word :=
  match s.slotCsr loc a with
  | some v => some v
  | none => match s.unitCsr loc a with
    | some v => some v
    | none => s.rvCsr loc a

/-! ### Writing -/

/-- Writes of the per-slot CSRs of R131. A write of `minstret` counts as after the writing instruction, which retires. -/
def Slot.setCsr (t : Slot) (a : Nat) (v : Word) : Slot :=
  match a with
  | 0x800 => { t with u := { t.u with waitlim := v.truncate 40 } }
  | 0x801 => { t with u := { t.u with cbsel := v.truncate 2 } }
  | 0x802 => { t with u := { t.u with emuvec := v } }
  | 0x803 => { t with u := { t.u with emuinst := v } }
  | 0x804 => { t with u := { t.u with emupc := v } }
  | 0x805 => { t with u := { t.u with emustat := bitW v 0 } }
  | 0x806 => { t with u := { t.u with uivec := v } }
  | 0x807 => { t with u := { t.u with uimask := v.truncate 16 } }
  | 0x808 => { t with u := { t.u with uiEnable := bitW v 0, uiActive := bitW v 1 } }
  | 0x809 => { t with u := { t.u with uepc := v } }
  | 0x810 => { t with u := { t.u with mxfmt := v } }
  | 0x811 => { t with u := { t.u with mxscale := v } }
  | 0x812 => { t with u := { t.u with mxzero := v } }
  | 0x813 => { t with u := { t.u with arcur := v } }
  | 0x814 => { t with u := { t.u with arend := v } }
  | 0x815 => { t with u := { t.u with arlist := v } }
  | 0x5C0 => Slot.clamped { t with sc := { t.sc with quantum := v } }
  | 0x5C2 => { t with sc := { t.sc with prioceil := v.truncate 2 } }
  | 0x5C3 => { t with sc := { t.sc with lnchlim := v.truncate 10 } }
  | 0x5C4 => { t with sc := { t.sc with stkinit := v } }
  | 0x5C5 => { t with sc := { t.sc with thstat := bitW v 0 } }
  | 0x5CB => { t with sc := { t.sc with pdrights := v } }
  | 0x5D3 => { t with sc := { t.sc with thsave := v } }
  | 0x5D4 => { t with sc := { t.sc with thnext := v } }
  | 0x001 => { t with rv := { t.rv with fcsr := BitVec.ofNat 8 (t.rv.fcsr.toNat / 32 * 32 + v.toNat % 32) } }
  | 0x002 => { t with rv := { t.rv with fcsr := BitVec.ofNat 8 (t.rv.fcsr.toNat % 32 + v.toNat % 8 * 32) } }
  | 0x003 => { t with rv := { t.rv with fcsr := v.truncate 8 } }
  | 0x100 => { t with rv := { t.rv with mstatus := (t.rv.mstatus &&& ~~~sstatusMask) ||| (v &&& sstatusMask) } }
  | 0x104 => { t with rv := { t.rv with mie := (t.rv.mie &&& ~~~t.rv.mideleg) ||| (v &&& t.rv.mideleg &&& intMask) } }
  | 0x105 => { t with rv := { t.rv with stvec := v &&& ~~~(2 : Word) } }
  | 0x106 => { t with rv := { t.rv with scounteren := v.truncate 32 } }
  | 0x140 => { t with rv := { t.rv with sscratch := v } }
  | 0x141 => { t with rv := { t.rv with sepc := v &&& ~~~(3 : Word) } }
  | 0x142 => { t with rv := { t.rv with scause := v } }
  | 0x143 => { t with rv := { t.rv with stval := v } }
  | 0x144 => { t with rv := { t.rv with mip := (t.rv.mip &&& ~~~(t.rv.mideleg &&& 2)) ||| (v &&& t.rv.mideleg &&& 2) } }
  | 0x300 => { t with rv := { t.rv with mstatus := legalMpp t.rv.mstatus (v &&& mstatusMask) } }
  | 0x302 => { t with rv := { t.rv with medeleg := v } }
  | 0x303 => { t with rv := { t.rv with mideleg := v &&& intMask } }
  | 0x304 => { t with rv := { t.rv with mie := v &&& intMask } }
  | 0x305 => { t with rv := { t.rv with mtvec := v &&& ~~~(2 : Word) } }
  | 0x306 => { t with rv := { t.rv with mcounteren := v.truncate 32 } }
  | 0x340 => { t with rv := { t.rv with mscratch := v } }
  | 0x341 => { t with rv := { t.rv with mepc := v &&& ~~~(3 : Word) } }
  | 0x342 => { t with rv := { t.rv with mcause := v } }
  | 0x343 => { t with rv := { t.rv with mtval := v } }
  | 0x344 => { t with rv := { t.rv with mip := (t.rv.mip &&& ~~~(0x222 : Word)) ||| (v &&& 0x222) } }
  | 0xB02 => { t with instret := v - 1 }
  | _ => t

/-- Writes of the CSRs held per core, cluster or die. -/
def State.setUnitCsr (s : State) (loc a : Nat) (v : Word) : State :=
  match a with
  | 0x5C1 => s.modCore (coreOf loc) (fun c => { c with isspol := v.truncate 5 })
  | 0x5C6 => s.modDie (dieOf loc) (fun d => { d with codir := v })
  | 0x5C7 => s.modDie (dieOf loc) (fun d => { d with prrbase := v })
  | 0x5C8 => s.modDie (dieOf loc) (fun d => { d with prridx := v, prrCount := 0 })
  | 0x5C9 => s.modDie (dieOf loc) (fun d => { d with warmen := bitW v 0 })
  | 0x5CA => s.modDie (dieOf loc) (fun d => { d with ttroot := v })
  | 0x5CC => s.modDie (dieOf loc) (fun d => { d with tcq := v })
  | 0x5CD => s.modCore (coreOf loc) (fun c => { c with spdom := v.truncate 12 })
  | 0x5CE => s.modDie (dieOf loc) (fun d => { d with fwdtab := v })
  | 0x5CF => s.modCore (coreOf loc) (fun c => if c.redirected then c else { c with spimg := v })
  | 0x5D0 => s.modClu (cluOf loc) (fun c => { c with mxwt := v })
  | 0x5D2 => s.modDie (dieOf loc) (fun d => { d with ftsvc := v })
  | 0x5D6 => s.modDie (dieOf loc) (fun d => { d with rquant := v })
  | 0x5D7 => s.modDie (dieOf loc) (fun d => { d with rimgpool := v })
  | 0x5D8 => s.modDie (dieOf loc) (fun d => { d with lnchwait := v })
  | 0xB00 => s.modCore (coreOf loc) (fun c => { c with cycleOff := v - BitVec.ofNat 64 s.cycle })
  | _ => s

/-- A CSR's new value; writing `pdrights` removes the slot's PLB entries, those on their way among them (R248). -/
def State.setCsr (s : State) (a : Nat) (v : Word) : State :=
  let s1 := (s.modMe (·.setCsr a v)).setUnitCsr s.cur a v
  if a == 0x5CB then
    (s1.modCore (coreOf s.cur) (fun c => { c with plb := c.plb.filter (fun e => e.slot != s.cur % 4) })).forgetReplies
      (fun loc _ => loc == s.cur)
  else s1

/-! ### Access (R70, R131, RISC-V privileged architecture) -/

/-- Supervisor CSRs of R131. -/
def skSupervisor (a : Nat) : Bool := 0x5C0 ≤ a && a ≤ 0x5FF
/-- Read-only CSRs of R131. -/
def skReadOnly (a : Nat) : Bool := (0xCC0 ≤ a && a ≤ 0xCFF) || a == 0x5D1 || a == 0x5D5

/-- Whether a user counter is enabled (RISC-V mcounteren, scounteren). -/
def Slot.counterOk (t : Slot) (a : Nat) : Bool :=
  if 0xC00 ≤ a && a ≤ 0xC1F then
    (t.priv == .m || t.rv.mcounteren.getLsbD (a - 0xC00)) && (t.priv != .u || t.rv.scounteren.getLsbD (a - 0xC00))
  else true

/-- The trap of a CSR access, if it takes one: the cause. -/
def State.csrFault (s : State) (c : CsrOp) : Option Nat :=
  let a := c.csr.toNat
  let p := s.me.priv
  if skRange a then
    if p == .u then (if skSupervisor a || (c.writes && skReadOnly a) then some causePrivilege else none)
    else if c.writes && skReadOnly a then some 2 else none
  else if (s.csr s.cur a).isNone then some 2
  else if p.code < a / 2 ^ 8 % 4 then some 2
  else if c.writes && a / 2 ^ 10 == 3 then some 2
  else if !s.me.counterOk a then some 2
  else none

/-- The operand of a CSR instruction: a register, or a 5-bit immediate. -/
def State.csrOperand (s : State) (c : CsrOp) : Word :=
  match c.kind with
  | .rw | .rs | .rc => s.x c.src
  | _ => c.src.zeroExtend 64

/-- The value a CSR instruction writes. -/
def csrNew (k : CsrKind) (old v : Word) : Word :=
  match k with
  | .rw | .rwi => v
  | .rs | .rsi => old ||| v
  | .rc | .rci => old &&& ~~~v

/-- A CSR instruction: its checks, then its read and its write. -/
def State.csrInstr (s : State) (c : CsrOp) : Go :=
  match s.csrFault c with
  | some cause => s.raise cause (BitVec.ofNat 64 c.word)
  | none =>
    let old := (s.csr s.cur c.csr.toNat).getD 0
    let s1 := if c.writes then s.setCsr c.csr.toNat (csrNew c.kind old (s.csrOperand c)) else s
    .ok ((s1.setX c.rd old).retire 4)

/-- R247, R248. -/
def execPdrightsWrite (c : CsrOp) (s : State) : Res := Go.done (s.csrInstr c)

/-- R375. -/
def execQuantumWrite (c : CsrOp) (s : State) : Res := Go.done (s.csrInstr c)

/-- Whether a thread has a tile command that has not started (R316). -/
def State.tileQueued (s : State) (loc : Nat) : Bool :=
  (s.core (coreOf loc)).mxQ.any (fun m => (m.form == .tile || m.form == .tileAcc) &&
    match m.who with
    | .thread _ h x _ => (h, x) == s.tidOf loc
    | _ => false)

/-- R316: the write waits for the thread's queued tile commands to start. -/
def execMatrixCsrWrite (c : CsrOp) (s : State) : Res :=
  if s.tileQueued s.cur then .next (s.waitOpen .matrixCsr) else Go.done (s.csrInstr c)

/-- R120. -/
def execPrridxWrite (c : CsrOp) (s : State) : Res := Go.done (s.csrInstr c)

/-- R255. -/
def execTcqWrite (c : CsrOp) (s : State) : Res := Go.done (s.csrInstr c)

/-- A write of `spimg` with a command: the base is set, the port begins, and the write returns when it is done (R303,
R304). A save of a redirected port and a restore of one that is not have nothing to do. -/
def State.spimgCommand (s : State) (c : CsrOp) (old v : Word) : State :=
  let core := s.core (coreOf s.cur)
  let s1 := (s.setCsr 0x5CF v).modCore (coreOf s.cur) (fun k =>
    { k with spCmd := some (BitVec.ofNat 2 v.toNat), spOwner := s.tid })
  if core.redirected == (v.toNat % 4 == 1) then ((s.setCsr 0x5CF v).setX c.rd old).retire 4
  else s1.modMe (fun t =>
    { t with st := if t.st == .ready then .wait else t.st, wait := some ⟨.spimg, none, 0, { xs := [(c.rd, old)] }, none, none⟩ })

/-- R131, with the command of `spimg` (R303). -/
def execCsrWrite (c : CsrOp) (s : State) : Res :=
  let old := (s.csr s.cur c.csr.toNat).getD 0
  let v := csrNew c.kind old (s.csrOperand c)
  if c.csr == 0x5CF && (s.csrFault c).isNone && (v.toNat % 4 == 1 || v.toNat % 4 == 2) then
    if s.waiting .spimg then
      -- a thread that was switched out as its command ended finds that on its return
      match s.me.wait with
      | some w => if s.cores.any (fun k => k.2.spCmd.isSome && k.2.spOwner == s.tid) then .next s else .next (s.expire s.cur w.exp)
      | none => .next s
    else if (s.core (coreOf s.cur)).spCmd.isSome then .next (s.waitOpen .cancel)
    else .next (s.spimgCommand c old v)
  else Go.done (s.csrInstr c)

end Sys2Proof.Machine
end

