-- ==== Sys2Proof/Machine/Barriers.lean ====
section
/-! DEFINITION. Barriers (R353 to R358): generations, arrivals and waits. -/

namespace Sys2Proof.Machine

/-! ### Threads by identity -/

/-- Whether a thread has not ended: it is in its slot, or switched out. -/
def State.alive (s : State) (t : Tid) : Bool :=
  (s.locOf t).isSome || s.away.any (fun a => a.slot.tid a.loc == t)

/-- The threads of a job that take part in its barriers, each with its location: neither idle in a pool nor running a callback of
one. -/
def State.jobThreads (s : State) (job : Nat) : List (Nat × Tid) :=
  let mine (t : Slot) : Bool := t.job.getD 0 == job && t.poolOf.isNone
  ((s.slots.filter (fun e => e.2.occupied && mine e.2)).map (fun e => (e.1, e.2.tid e.1)))
    ++ ((s.away.filter (fun a => mine a.slot)).map (fun a => (a.loc, a.slot.tid a.loc)))

/-! ### Generations (R353, R354) -/

/-- The number of a core's scope instance. -/
def instanceOf (sc : Scope) (core : Nat) : Nat :=
  match sc with
  | .thr | .core => core
  | .clu => cluOfCore core
  | .die => dieOfCore core
  | .pkg | .sys => 0

/-- Whether a thread lies in a scope instance. -/
def inInstance (sc : Nat) (inst loc : Nat) : Bool := instanceOf ((Scope.ofCode sc).getD .sys) (coreOf loc) == inst

/-- The participants of a generation that opens now. -/
def State.participants (s : State) (b : Barrier) : List Tid :=
  ((s.jobThreads b.job).filter (fun t => inInstance b.lvl b.inst t.1)).map Prod.snd

/-- Open the next generation with some arrivals counted in it. -/
def State.openGen (s : State) (b : Barrier) (arrived : List Tid) : Barrier :=
  { b with isOpen := true, parts := s.participants b, arrived := arrived, later := [] }

/-- What identifies a gang launch (R107). -/
def Job.launch (j : Job) : Word × Word × Nat := (j.hash, j.block.tick, j.block.tag.toNat)

/-- The other packages of a job's gang launch, for a `.sys` barrier. -/
def State.gangOthers (s : State) (b : Barrier) : List Nat :=
  if b.lvl != 5 then []
  else
    match (s.jobs.find? (fun j => j.id == b.job)).bind Job.gang with
    | some g => g.members.filter (fun p => p != s.pkg.toNat)
    | none => []

/-- Whether every participant of this package has arrived, or has ended without arriving. -/
def State.barLocal (s : State) (b : Barrier) : Bool :=
  b.isOpen && b.parts.all (fun t => b.arrived.contains t || !s.alive t)

/-- Whether the open generation is complete: at `.sys` this package has reported it, and so has every other (R353). -/
def State.barDone (s : State) (b : Barrier) : Bool :=
  s.barLocal b && ((s.gangOthers b).isEmpty || (s.pkg.toNat :: s.gangOthers b).all (fun p => b.heard.contains (b.gen, p)))

/-- A generation completes; arrivals held for the next one open it in the same cycle, and so does its opening at another package.
Reports of the next one are kept. -/
def State.nextGen (s : State) (b : Barrier) : Barrier :=
  let b' := { b with gen := b.gen + 1, isOpen := false, parts := [], arrived := [], later := [],
                     heard := b.heard.filter (fun h => b.gen < h.1), opens := b.opens.filter (fun g => b.gen < g) }
  if b.later.isEmpty && !b.opens.contains (b.gen + 1) then b' else s.openGen b' b.later

/-- A barrier with every complete generation behind it: held arrivals may complete the next one at once. -/
def State.passed (s : State) (b : Barrier) : Barrier :=
  if !s.barDone b then b
  else let c := s.nextGen b; if s.barDone c then s.nextGen c else c

/-- A barrier nobody has arrived at. -/
def Barrier.fresh (job lvl inst id : Nat) : Barrier := ⟨job, lvl, inst, id, 0, false, [], [], [], [], []⟩

def Barrier.same (b : Barrier) (job lvl inst id : Nat) : Bool :=
  b.job == job && b.lvl == lvl && b.inst == inst && b.id == id

/-- The barrier that a thread names (R353). -/
def State.barrier (s : State) (sc : Scope) (id : Nat) : Barrier :=
  let job := s.me.job.getD 0
  let inst := instanceOf sc (coreOf s.cur)
  (s.bars.find? (fun b => b.same job sc.code inst id)).getD (Barrier.fresh job sc.code inst id)

/-- Put a barrier back. -/
def State.setBarrier (s : State) (b : Barrier) : State :=
  if s.bars.any (fun c => c.same b.job b.lvl b.inst b.id) then
    { s with bars := s.bars.map (fun c => if c.same b.job b.lvl b.inst b.id then b else c) }
  else { s with bars := s.bars ++ [b] }

/-- The name that the packages of a gang launch know a job by. -/
def State.launchKey (s : State) (job : Nat) : Word × Word × Nat := ((s.jobs.find? (fun j => j.id == job)).map Job.launch).getD (0, 0, 0)

/-- Put a barrier back; a generation of a gang's `.sys` barrier that has opened here opens at every package, which fixes its
participants there (R353, R354). -/
def State.openUp (s : State) (b : Barrier) : State :=
  if b.isOpen && !b.opens.contains b.gen && !(s.gangOthers b).isEmpty then
    ({ s with outs := s.outs ++ (s.gangOthers b).map (fun p => .pod p (.barOpen (s.launchKey b.job) b.id b.gen s.pkg.toNat)) } :
      State).setBarrier { b with opens := b.opens ++ [b.gen] }
  else s.setBarrier b

/-- The state in which every complete generation of a barrier is behind it. -/
def State.ripe (s : State) (sc : Scope) (id : Nat) : State :=
  let b := s.barrier sc id
  if s.barDone b then s.openUp (s.passed b) else s

/-- `Arrive`: the barrier with the thread's arrival, and the generation it belongs to (R354). -/
def State.arrive (s : State) (b : Barrier) (t : Tid) : Barrier × Nat :=
  let b0 := if b.isOpen then b else s.openGen b []
  if b0.parts.contains t then ({ b0 with arrived := b0.arrived ++ [t] }, b0.gen)
  else ({ b0 with later := b0.later ++ [t] }, b0.gen + 1)

/-! ### The words (R355 to R358) -/

/-- The number of a thread's arrival record (R356, R372). -/
def arrKey (sc : Scope) (id : Nat) : Nat := 16 * (sc.code - 1) + id

def Slot.arrival (t : Slot) (sc : Scope) (id : Nat) : Option Nat := assoc t.arr (arrKey sc id)

/-- What comes before an arrival: held stores, a record of a generation that has not completed (then no arrival follows), the
release. -/
def State.barGate (s : State) (sc : Scope) (id : Nat) : Except State (State × Bool) := do
  let s1 := (← s.syncGate).ripe sc id
  if (s1.me.arrival sc id).any (fun g => (s1.barrier sc id).gen ≤ g) then .ok (s1.releaseSubs s.cur .thr, false)
  else (s1.release sc).map (fun s2 => (s2.ripe sc id, true))

/-- The arrival: a state and whether the answer is OK or RANGE. -/
def State.barArrive (s : State) (sc : Scope) (id : Nat) : Except State (State × Bool) := do
  let (s1, ok) ← s.barGate sc id
  if !ok then .ok (s1, false)
  else
    let p := s1.arrive (s1.barrier sc id) s1.tid
    .ok ((s1.openUp p.1).modMe (fun t => { t with arr := assocSet t.arr (arrKey sc id) p.2 }), true)

/-- The wait for a generation: OK once it has completed, which is asked before the limit (R357). -/
def State.barAwait (s : State) (sc : Scope) (id : Nat) (rd : BitVec 5) : State :=
  match s.me.arrival sc id with
  | none => s.finish rd .range 4
  | some g =>
    let s1 := s.ripe sc id
    if g < (s1.barrier sc id).gen then (s1.modMe (fun t => { t with arr := assocDel t.arr (arrKey sc id) })).finish rd .ok 4
    else s1.waitFor .barrier s.waitlim { xs := [(rd, Status.timeout.word)] }

def execBarArr (sc : Scope) (id : BitVec 4) (rd : BitVec 5) (s : State) : Res :=
  Go.done do
    let (s1, ok) ← s.barArrive sc id.toNat
    .ok (s1.finish rd (if ok then .ok else .range) 4)

/-- The wait with its gate. It sends the open packets (R298). -/
def State.barWaitGo (s : State) (sc : Scope) (id : Nat) (rd : BitVec 5) : Go := do
  let s1 ← s.syncGate
  .ok ((s1.releaseSubs s.cur .thr).barAwait sc id rd)

/-- Held stores are asked for once, before the wait. -/
def execBarWait (sc : Scope) (id : BitVec 4) (rd : BitVec 5) (s : State) : Res :=
  if s.waiting .barrier then .next (s.barAwait sc id.toNat rd) else Go.done (s.barWaitGo sc id.toNat rd)

/-- A `bar` that waits has arrived already. -/
def execBar (sc : Scope) (id : BitVec 4) (rd : BitVec 5) (s : State) : Res :=
  if s.waiting .barrier then .next (s.barAwait sc id.toNat rd)
  else
    Go.done do
      let (s1, ok) ← s.barArrive sc id.toNat
      if ok then .ok (s1.barAwait sc id.toNat rd) else .ok (s1.finish rd .range 4)

/-- A report of another package about a `.sys` barrier of a gang launch; it may come before the generation opens here (R354). -/
def State.barReport (s : State) (launch : Word × Word × Nat) (id gen p : Nat) : State :=
  match s.jobs.find? (fun j => j.gang.isSome && j.launch == launch) with
  | none => s
  | some j =>
    let b := (s.bars.find? (fun b => b.same j.id 5 0 id)).getD (Barrier.fresh j.id 5 0 id)
    if gen < b.gen || b.heard.contains (gen, p) then s else s.setBarrier { b with heard := b.heard ++ [(gen, p)] }

/-- A generation of a `.sys` barrier has opened at another package: it opens here too, with the participants of this moment. A package
whose job is over has none, and reports it complete at once (R354). -/
def State.barOpened (s : State) (launch : Word × Word × Nat) (id gen p : Nat) : State :=
  match s.jobs.find? (fun j => j.gang.isSome && j.launch == launch) with
  | none => { s with outs := s.outs ++ [.pod p (.barrier launch id gen s.pkg.toNat)] }
  | some j =>
    let b := (s.bars.find? (fun b => b.same j.id 5 0 id)).getD (Barrier.fresh j.id 5 0 id)
    if gen < b.gen || b.opens.contains gen then s
    else
      let c := { b with opens := b.opens ++ [gen] }
      s.setBarrier (if gen == b.gen && !b.isOpen then s.openGen c [] else c)

/-- This package's report on a barrier, if it is due: its part is complete, and other packages have parts (R353). -/
def State.reportBar (s : State) (b : Barrier) : State :=
  let me := s.pkg.toNat
  if s.barLocal b && !(s.gangOthers b).isEmpty && !b.heard.contains (b.gen, me) then
    ({ s with outs := s.outs ++ (s.gangOthers b).map (fun p => .pod p (.barrier (s.launchKey b.job) b.id b.gen me)) } :
      State).setBarrier { b with heard := b.heard ++ [(b.gen, me)] }
  else s

/-- The generation of barrier `cur` completes; a `.sys` barrier of a gang launch first takes and gives the reports of the
other packages. -/
def execBarrierComplete (s : State) : Res :=
  match s.pod with
  | .barrier launch id gen p :: rest => .next (({ s with pod := rest } : State).barReport launch id gen p)
  | .barOpen launch id gen p :: rest => .next (({ s with pod := rest } : State).barOpened launch id gen p)
  | _ =>
    match s.bars[s.cur]? with
    | none => .next s
    | some b =>
      if s.barDone b then .next (s.openUp (s.passed b)) else .next (s.reportBar b)

end Sys2Proof.Machine
end

