-- ==== Sys2Proof/Machine/Float.lean ====
section
/-! DEFINITION. Floating-point values, rounding and conversions of the vector engines, the fabric, the matrix unit and the
copy engine (R39 to R57). A finite value is exact: sign, natural mantissa, binary exponent. Where a result is not exact
(a quotient, a root, a logarithm) its mantissa is odd and lies strictly between the true value's neighbours, which fixes
every rounding. -/

namespace Sys2Proof

/-- An exact floating-point value (R39, R40). A finite value is (-1)^neg × m × 2^e. -/
inductive FV where
  | nan
  | inf (neg : Bool)
  | fin (neg : Bool) (m : Nat) (e : Int)
  deriving DecidableEq, Repr

/-- A binary format: exponent bits, fraction bits, bias, and largest finite value maxM × 2^maxE (R39). -/
structure Fmt where
  eb : Nat
  mb : Nat
  bias : Nat
  hasInf : Bool
  maxM : Nat
  maxE : Int
  nan : Nat
  deriving DecidableEq, Repr

def fp32 : Fmt := ⟨8, 23, 127, true, 0xFFFFFF, 104, 0x7FC00000⟩
def fp16 : Fmt := ⟨5, 10, 15, true, 0x7FF, 5, 0x7E00⟩
def fpBf16 : Fmt := ⟨8, 7, 127, true, 0xFF, 120, 0x7FC0⟩
def fpE4m3 : Fmt := ⟨4, 3, 7, false, 14, 5, 0x7F⟩
def fpE5m2 : Fmt := ⟨5, 2, 15, true, 7, 13, 0x7E⟩
def fp64 : Fmt := ⟨11, 52, 1023, true, 0x1FFFFFFFFFFFFF, 971, 0x7FF8000000000000⟩

/-- The format of a floating-point type code (R36). -/
def ElTy.fmt : ElTy → Fmt
  | .f16 => fp16 | .bf16 => fpBf16 | .e4m3 => fpE4m3 | .e5m2 => fpE5m2 | _ => fp32

/-- Exponent of a format's smallest subnormal. -/
def Fmt.minE (f : Fmt) : Int := 1 - (f.bias : Int) - f.mb

/-- Magnitude bits of a format: everything below the sign. -/
def Fmt.width (f : Fmt) : Nat := 1 + f.eb + f.mb

/-- The value of a bit pattern (R39). -/
def Fmt.decode (f : Fmt) (v : Nat) : FV :=
  let neg := bitOf v (f.eb + f.mb)
  let ex := v / 2 ^ f.mb % 2 ^ f.eb
  let fr := v % 2 ^ f.mb
  if ex == 2 ^ f.eb - 1 && f.hasInf then (if fr == 0 then .inf neg else .nan)
  else if ex == 2 ^ f.eb - 1 && fr == 2 ^ f.mb - 1 then .nan
  else if ex == 0 then .fin neg fr f.minE
  else .fin neg (2 ^ f.mb + fr) (f.minE + (ex : Int) - 1)

/-- m / 2^sh rounded to an integer by the mode, for a value of the given sign (R41). -/
def rndShift (r : Rnd) (neg : Bool) (m sh : Nat) : Nat :=
  let q := m / 2 ^ sh
  let rem := m % 2 ^ sh
  let up := match r with
    | .rne => 2 ^ sh < 2 * rem || (2 ^ sh == 2 * rem && q % 2 == 1)
    | .rtz => false
    | .rdn => neg && rem != 0
    | .rup => !neg && rem != 0
    | .rna => 2 ^ sh ≤ 2 * rem
  if up then q + 1 else q

/-- The rounded magnitude of a nonzero value in a format, exponent unbounded above: mantissa and exponent (R41). -/
def Fmt.round (f : Fmt) (r : Rnd) (neg : Bool) (m : Nat) (e : Int) : Nat × Int :=
  let top : Int := e + (Nat.log2 m : Int)
  let q : Int := max (top - f.mb) f.minE
  if q ≤ e then (m * 2 ^ (e - q).toNat, q) else (rndShift r neg m (q - e).toNat, q)

/-- Whether a magnitude exceeds the largest finite value (R42). -/
def Fmt.over (f : Fmt) (m : Nat) (e : Int) : Bool :=
  if f.maxE ≤ e then f.maxM < m * 2 ^ (e - f.maxE).toNat else f.maxM * 2 ^ (f.maxE - e).toNat < m

def Fmt.signBit (f : Fmt) (neg : Bool) : Nat := if neg then 2 ^ (f.eb + f.mb) else 0

/-- Bits of the largest finite value (R39). -/
def Fmt.maxBits (f : Fmt) : Nat :=
  if f.hasInf then (2 ^ f.eb - 1) * 2 ^ f.mb - 1 else 2 ^ (f.eb + f.mb) - 2

/-- An infinite result: an infinity, the canonical NaN in E4M3, or the largest finite value under saturation
(R42, R43). -/
def Fmt.infBits (f : Fmt) (sat neg : Bool) : Nat :=
  if sat then f.signBit neg + f.maxBits
  else if f.hasInf then f.signBit neg + (2 ^ f.eb - 1) * 2 ^ f.mb
  else f.nan

/-- The bits of a value in a format: rounded once, overflow by mode and saturation (R40 to R43). -/
def Fmt.encode (f : Fmt) (r : Rnd) (sat : Bool) (v : FV) : Nat :=
  match v with
  | .nan => f.nan
  | .inf neg => f.infBits sat neg
  | .fin neg m e =>
    if m == 0 then f.signBit neg
    else
      let p := f.round r neg m e
      if f.over p.1 p.2 then
        let toMax := match r with
          | .rtz => true | .rdn => !neg | .rup => neg | _ => false
        if toMax then f.signBit neg + f.maxBits else f.infBits sat neg
      else f.signBit neg + (p.2 - f.minE).toNat * 2 ^ f.mb + p.1

/-! ### Arithmetic on exact values -/

def FV.neg : FV → FV
  | .nan => .nan
  | .inf n => .inf (!n)
  | .fin n m e => .fin (!n) m e

/-- Signed mantissa scaled to a lower exponent. -/
def scaled (neg : Bool) (m : Nat) (e lo : Int) : Int :=
  let v : Int := (m * 2 ^ (e - lo).toNat : Nat)
  if neg then -v else v

/-- The exact value of an integer times a power of two; zero is positive. -/
def FV.ofInt (v : Int) (e : Int) : FV := .fin (v < 0) v.natAbs e

/-- Sum (R40): an exact sum of opposite operands is +0, or -0 under RDN. -/
def FV.add (r : Rnd) (a b : FV) : FV :=
  match a, b with
  | .nan, _ => .nan
  | _, .nan => .nan
  | .inf m, .inf n => if m == n then .inf m else .nan
  | .inf m, .fin .. => .inf m
  | .fin .., .inf n => .inf n
  | .fin n1 m1 e1, .fin n2 m2 e2 =>
    let lo := min e1 e2
    let v := scaled n1 m1 e1 lo + scaled n2 m2 e2 lo
    if v == 0 then (if m1 == 0 && m2 == 0 && n1 == n2 then .fin n1 0 0 else .fin (r == .rdn) 0 0)
    else .ofInt v lo

def FV.sub (r : Rnd) (a b : FV) : FV := FV.add r a b.neg

def FV.mul (a b : FV) : FV :=
  match a, b with
  | .nan, _ => .nan
  | _, .nan => .nan
  | .inf m, .inf n => .inf (m != n)
  | .inf n, .fin n2 m _ => if m == 0 then .nan else .inf (n != n2)
  | .fin n1 m _, .inf n => if m == 0 then .nan else .inf (n != n1)
  | .fin n1 m1 e1, .fin n2 m2 e2 => .fin (n1 != n2) (m1 * m2) (e1 + e2)

/-- Extra bits kept below a quotient or a root. -/
def guardBits : Nat := 160

/-- A truncated mantissa and whether anything was cut off, as one odd or even mantissa. -/
def stickied (q : Nat) (inexact : Bool) : Nat := 2 * q + inexact.toNat

/-- Quotient (R163). -/
def FV.div (a b : FV) : FV :=
  match a, b with
  | .nan, _ => .nan
  | _, .nan => .nan
  | .inf _, .inf _ => .nan
  | .inf n, .fin n2 _ _ => .inf (n != n2)
  | .fin n _ _, .inf n2 => .fin (n != n2) 0 0
  | .fin n1 m1 e1, .fin n2 m2 e2 =>
    if m2 == 0 then (if m1 == 0 then .nan else .inf (n1 != n2))
    else
      let k := guardBits + Nat.log2 m2
      let x := m1 * 2 ^ k
      .fin (n1 != n2) (stickied (x / m2) (x % m2 != 0)) (e1 - e2 - k - 1)

/-- Bitwise integer square root: the bits below `n` of the root of `v`, highest first. -/
def isqrtFrom : Nat → Nat → Nat → Nat
  | 0, _, r => r
  | n + 1, v, r => let r' := r + 2 ^ n; isqrtFrom n v (if r' * r' ≤ v then r' else r)

def isqrt (v : Nat) : Nat := isqrtFrom (Nat.log2 v / 2 + 1) v 0

/-- A mantissa and an even exponent for the same value. -/
def evenExp (m : Nat) (e : Int) : Nat × Int := if e % 2 == 0 then (m, e) else (2 * m, e - 1)

/-- Square root (R163). -/
def FV.sqrt (a : FV) : FV :=
  match a with
  | .nan => .nan
  | .inf n => if n then .nan else .inf false
  | .fin n m e =>
    if m == 0 then .fin n 0 0
    else if n then .nan
    else
      let p := evenExp m e
      let x := p.1 * 2 ^ (2 * guardBits)
      let q := isqrt x
      .fin false (stickied q (q * q != x)) (p.2 / 2 - guardBits - 1)

/-- Reciprocal square root (R163). -/
def FV.rsqrt (a : FV) : FV :=
  match a with
  | .nan => .nan
  | .inf n => if n then .nan else .fin false 0 0
  | .fin n m e =>
    if m == 0 then .inf n
    else if n then .nan
    else
      let p := evenExp m e
      let k := guardBits + Nat.log2 p.1
      let q := isqrt (2 ^ (2 * k) / p.1)
      .fin false (stickied q (q * q * p.1 != 2 ^ (2 * k))) (-(p.2 / 2) - k - 1)

def FV.one : FV := .fin false 1 0

/-! ### 2^a and log2 a -/

/-- Fraction bits of the fixed-point numbers below. -/
def fixBits : Nat := 256

/-- ln 2 × 2^256, truncated. -/
def ln2Fix : Nat := 80260960185991308862233904206310070533990667611589946606122867505419956976171

/-- Taylor terms n, n+1, … of e^x, with `t` the last term: fixed-point, truncated. -/
def expSeries : Nat → Nat → Nat → Nat → Nat → Nat
  | 0, _, _, _, acc => acc
  | fuel + 1, n, x, t, acc =>
    let t' := t * x / 2 ^ fixBits / n
    expSeries fuel (n + 1) x t' (acc + t')

/-- 2^a (R162, R163). -/
def FV.exp2 (a : FV) : FV :=
  match a with
  | .nan => .nan
  | .inf n => if n then .fin false 0 0 else .inf false
  | .fin n m e =>
    if m == 0 then .one
    else if 13 ≤ e + (Nat.log2 m : Int) then .fin false 3 (if n then -8192 else 8192)
    else if 0 ≤ e then
      let k : Int := (m * 2 ^ e.toNat : Nat)
      .fin false 1 (if n then -k else k)
    else
      let s : Int := if n then -(m : Int) else m
      let d : Nat := 2 ^ (-e).toNat
      let k := s / (d : Int)
      let f : Nat := (s % (d : Int)).toNat
      if f == 0 then .fin false 1 k
      else
        let x : Nat := f * 2 ^ fixBits / d * ln2Fix / 2 ^ fixBits
        let y := expSeries 64 1 x (2 ^ fixBits) (2 ^ fixBits)
        .fin false (stickied y true) (k - fixBits - 1)

/-- Fraction bits of log2 of y / 2^prec for y in [1, 2): repeated squaring. -/
def log2Bits : Nat → Nat → Nat → Nat → Nat
  | 0, _, _, acc => acc
  | n + 1, prec, y, acc =>
    let z := y * y / 2 ^ prec
    if 2 ^ (prec + 1) ≤ z then log2Bits n prec (z / 2) (2 * acc + 1) else log2Bits n prec z (2 * acc)

/-- Base-2 logarithm (R162, R163). -/
def FV.log2 (a : FV) : FV :=
  match a with
  | .nan => .nan
  | .inf n => if n then .nan else .inf false
  | .fin n m e =>
    if m == 0 then .inf true
    else if n then .nan
    else
      let t := Nat.log2 m
      let k : Int := e + t
      if m == 2 ^ t then .ofInt k 0
      else
        let y := m * 2 ^ (512 - t)
        let f := log2Bits 128 512 y 0
        .ofInt (2 * (k * 2 ^ 128 + f) + 1) (-129)

/-! ### Order -/

/-- Strict order of finite and infinite values, zeros equal; false on a NaN. -/
def FV.lt (a b : FV) : Bool :=
  match a, b with
  | .nan, _ => false
  | _, .nan => false
  | .inf m, .inf n => m && !n
  | .inf m, .fin .. => m
  | .fin .., .inf n => !n
  | .fin n1 m1 e1, .fin n2 m2 e2 => let lo := min e1 e2; scaled n1 m1 e1 lo < scaled n2 m2 e2 lo

def FV.isNan : FV → Bool
  | .nan => true
  | _ => false

def FV.isInf : FV → Bool
  | .inf _ => true
  | _ => false

def FV.signOf : FV → Bool
  | .nan => false
  | .inf n => n
  | .fin n _ _ => n

def FV.isZero : FV → Bool
  | .fin _ m _ => m == 0
  | _ => false

/-- Equality of values, zeros equal; false on a NaN. -/
def FV.eq (a b : FV) : Bool := !a.isNan && !b.isNan && !a.lt b && !b.lt a

def FV.le (a b : FV) : Bool := a.lt b || a.eq b

/-- minimumNumber and maximumNumber (R40): a NaN is ignored, -0 is below +0. -/
def FV.minNum (a b : FV) : FV :=
  if a.isNan then b else if b.isNan then a
  else if a.lt b then a else if b.lt a then b else if a.signOf then a else b

def FV.maxNum (a b : FV) : FV :=
  if a.isNan then b else if b.isNan then a
  else if a.lt b then b else if b.lt a then a else if a.signOf then b else a

/-- Round to an integer by the mode (R44). Only for finite values. -/
def FV.toInt (r : Rnd) (v : FV) : Int :=
  match v with
  | .fin n m e =>
    let q := if 0 ≤ e then m * 2 ^ e.toNat else rndShift r n m (-e).toNat
    if n then -(q : Int) else q
  | _ => 0

/-! ### Conversions of scalar formats (R44) -/

/-- The value of an element's bits in a type of codes 0x0 to 0xB. -/
def ElTy.value (t : ElTy) (v : Nat) : FV :=
  if t.isAnyFlt then t.fmt.decode v else .ofInt (ival t.signed t.width v) 0

/-- Conversion of one element between two scalar formats (R44). -/
def cvtElem (dt st : ElTy) (r : Rnd) (sat : Bool) (v : Nat) : Nat :=
  if dt.isAnyFlt then dt.fmt.encode r sat (st.value v)
  else if st.isAnyFlt then
    let lo := tyMin dt.signed dt.width
    let hi := tyMax dt.signed dt.width
    match st.fmt.decode v with
    | .nan => 0
    | .inf n => wrap dt.width (if n then lo else hi)
    | x => wrap dt.width (clampInt (x.toInt r) lo hi)
  else narrow dt.signed (sat && dt.width ≤ st.width) dt.width (ival st.signed st.width v)

/-- An inline literal or F1 immediate converted to an element type (R63, R159): exactly for integers (low bits), rounded
by RNE where a float cannot hold it. -/
def litElem (t : ElTy) (n : Int) : Nat :=
  if t.isAnyFlt then t.fmt.encode .rne false (.ofInt n 0) else wrap t.width n

/-! ### Group formats (R45 to R47) -/

/-- Value of a code q under scale bits s and zero point z (R46). -/
def qaValue (s z q : Nat) : FV :=
  match fp16.decode s with
  | .nan | .inf _ => .nan
  | .fin n m e => let d : Int := (q : Int) - z; .fin (n != decide (d < 0)) (m * d.natAbs) e

/-- Quantisation (R47). -/
def qaQuant (qmax s z : Nat) (r : Rnd) (x : FV) : Nat :=
  let sv := fp16.decode s
  if x.isNan || sv.isNan || sv.isInf || sv.isZero then min z qmax
  else if x.isInf then (if x.signOf == sv.signOf then qmax else 0)
  else (clampInt ((x.div sv).toInt r + z) 0 qmax).toNat

/-! ### Block formats (R48 to R50) -/

/-- Value of mantissa bits n under a block exponent E, for a width of m bits (R49). -/
def sbValue (m ex n : Nat) : FV :=
  if ex == 255 then .nan else .ofInt (sval m n) ((ex : Int) - 127 - ((m : Int) - 2))

/-- The largest of some magnitudes. -/
def maxMag : List FV → FV
  | [] => .fin false 0 0
  | x :: xs =>
    let y := maxMag xs
    let a := match x with | .fin _ m e => FV.fin false m e | v => v
    if y.lt a then a else y

/-- Floor of the base-2 logarithm of a nonzero finite magnitude. -/
def FV.floorLog2 : FV → Int
  | .fin _ m e => e + (Nat.log2 m : Int)
  | _ => 0

/-- The block exponent and mantissas of some values (R50). `srcMax` is the largest finite value of the source format. -/
def sbBlock (m : Nat) (r : Rnd) (sat : Bool) (src : Fmt) (xs : List FV) : Nat × List Nat :=
  if xs.any FV.isNan || (!sat && xs.any FV.isInf) then (255, xs.map (fun _ => 0))
  else
    let ys := xs.map (fun x => match x with | .inf n => FV.fin n src.maxM src.maxE | v => v)
    let a := maxMag ys
    let ex : Int := if a.isZero then 0 else max (a.floorLog2 + 127) 0
    let k : Int := (m : Int) - 2 - (ex - 127)
    let n (x : FV) : Nat := match x with
      | .fin s mm e => wrap m (clampInt ((FV.fin s mm (e + k)).toInt r) (tyMin true m) (tyMax true m))
      | _ => 0
    (ex.toNat, ys.map n)

/-- Mantissa width of a code of R62. -/
def sbWidth (c : BitVec 2) : Nat := 4 * (c.toNat + 1)

/-! ### CS80 (R52 to R56) -/

/-- A carry-save value: flags, window exponent, and the resolved integer W. -/
structure Cs where
  nan : Bool
  pinf : Bool
  ninf : Bool
  x : Int
  w : Int
  deriving DecidableEq, Repr

/-- The value of a 192-bit token (R52). -/
def Cs.ofBits (v : Nat) : Cs :=
  { nan := bitOf v 176, pinf := bitOf v 177, ninf := bitOf v 178, x := sval 16 (v / 2 ^ 160),
    w := sval 80 (v % 2 ^ 80 + v / 2 ^ 80 % 2 ^ 80) }

/-- The 192-bit token of a value whose carry row is `c`: any pair of rows with the same sum is the same value (R52). -/
def Cs.toBits (a : Cs) (c : BitVec 80) : Nat :=
  wrap 80 (a.w - c.toNat) + c.toNat * 2 ^ 80 + wrap 16 a.x * 2 ^ 160 + a.nan.toNat * 2 ^ 176 + a.pinf.toNat * 2 ^ 177
    + a.ninf.toNat * 2 ^ 178

/-- Aligned form of a finite contribution in a window of exponent x (R53). -/
def csAlign (x : Int) (v : FV) : Int :=
  match v with
  | .fin n m e => FV.toInt .rdn (.fin n m (e + 64 - x))
  | _ => 0

/-- A total in a window, with the range check of R54. The rule sets a flag for a total outside 80 bits and does not say what S + C holds
then: it is the total modulo 2^80 here (DESIGN CHOICE, log 9). -/
def csTotal (nan pinf ninf : Bool) (x w : Int) : Cs :=
  { nan := nan, pinf := pinf || decide (2 ^ 79 ≤ w), ninf := ninf || decide (w < -(2 ^ 79)), x := x,
    w := sval 80 (wrap 80 w) }

/-- The window exponent of some contributions (R54 step 1). -/
def csExp (vs : List FV) : Int :=
  match (vs.filter (fun v => !v.isNan && !v.isInf && !v.isZero)).map FV.floorLog2 with
  | [] => 0
  | x :: xs => xs.foldl max x

/-- The carry-save sum of some contributions (R54). -/
def csSum (vs : List FV) : Cs :=
  let x := csExp vs
  csTotal (vs.any FV.isNan) (vs.any (fun v => v == .inf false)) (vs.any (fun v => v == .inf true)) x
    ((vs.map (csAlign x)).foldl (· + ·) 0)

/-- Arithmetic right shift of W into a higher window (R55 step 2): a shift of 80 or more gives 0 or -1. -/
def csShift (w : Int) (n : Nat) : Int := if 80 ≤ n then (if w < 0 then -1 else 0) else w / (2 ^ n : Int)

/-- The combination of two carry-save values (R55). -/
def csCombine (a b : Cs) : Cs :=
  let x := max a.x b.x
  csTotal (a.nan || b.nan) (a.pinf || b.pinf) (a.ninf || b.ninf) x
    (csShift a.w (x - a.x).toNat + csShift b.w (x - b.x).toNat)

/-- Resolution to FP32 by the normaliser (R56). -/
def csNorm (sat : Bool) (a : Cs) : Nat :=
  if a.nan || (a.pinf && a.ninf) then fp32.nan
  else if a.pinf then fp32.infBits sat false
  else if a.ninf then fp32.infBits sat true
  else fp32.encode .rne sat (.ofInt a.w (a.x - 64))

/-! ### Reduction tree (R57) -/

/-- One level of the pairwise tree. -/
def treeLevel {α : Type} (op : α → α → α) : List α → List α
  | a :: b :: r => op a b :: treeLevel op r
  | l => l

/-- The pairwise tree over a list of 2^fuel values or fewer. -/
def treeRun {α : Type} (op : α → α → α) : Nat → List α → List α
  | 0, l => l
  | n + 1, l => match l with
    | [] => []
    | [a] => [a]
    | l => treeRun op n (treeLevel op l)

/-- Smallest exponent of a power of two not below n. -/
def ceilLog2 (n : Nat) : Nat := if n ≤ 1 then 0 else Nat.log2 (n - 1) + 1

/-- The reduction of R57, values beyond the last replaced by the identity. -/
def treeReduce {α : Type} (op : α → α → α) (ident : α) (l : List α) : α :=
  let m := 2 ^ ceilLog2 l.length
  ((treeRun op (ceilLog2 l.length) (l ++ List.replicate (m - l.length) ident)).head?).getD ident

/-- Sum, minimum, maximum and the two products of FP32-like formats on bit patterns. -/
def fltOp (f : Fmt) (r : Rnd) (sat : Bool) (o : RedOp) (a b : Nat) : Nat :=
  let x := f.decode a
  let y := f.decode b
  match o with
  | .min => f.encode r sat (x.minNum y)
  | .max => f.encode r sat (x.maxNum y)
  | _ => f.encode r sat (FV.add r x y)

/-- The reduction operations on integer elements of width w (R57, R173). -/
def intOp (signed sat : Bool) (w : Nat) (o : RedOp) (a b : Nat) : Nat :=
  let x := ival signed w a
  let y := ival signed w b
  match o with
  | .add => narrow signed sat w (x + y)
  | .min => wrap w (min x y)
  | .max => wrap w (max x y)
  | .and => (a &&& b) % 2 ^ w
  | .or => (a ||| b) % 2 ^ w
  | .xor => (a ^^^ b) % 2 ^ w

/-- Identities (R57). `vred` of and, or and xor have the identity of their operation. -/
def redIdent (flt : Bool) (f : Fmt) (signed : Bool) (w : Nat) (o : RedOp) : Nat :=
  if flt then
    match o with
    | .min => f.infBits false false
    | .max => f.infBits false true
    | _ => f.signBit true
  else
    match o with
    | .min => wrap w (tyMax signed w)
    | .max => wrap w (tyMin signed w)
    | .and => 2 ^ w - 1
    | _ => 0

end Sys2Proof
end

