-- ==== Sys2Proof/Machine/Flags.lean ====
section
/-! DEFINITION. The accrued exception flags and rounding field of `fcsr`, and F and D results with the flags they raise:
the RISC-V F and D extensions that R130 keeps (R40 does not apply to them). -/

namespace Sys2Proof.Machine

/-- Flag bits of `fcsr`. -/
def flagNX : Nat := 1
def flagUF : Nat := 2
def flagOF : Nat := 4
def flagDZ : Nat := 8
def flagNV : Nat := 16

/-- Accrue flags. -/
def Slot.flag (t : Slot) (n : Nat) : Slot := { t with rv := { t.rv with fcsr := t.rv.fcsr ||| BitVec.ofNat 8 (n % 32) } }

/-- The rounding mode of an rm field, 7 being `frm`; none for a reserved mode. -/
def Slot.rounding (t : Slot) (rm : BitVec 3) : Option Rnd :=
  let c := if rm == 7 then t.rv.fcsr.toNat / 32 else rm.toNat
  Rnd.ofCode c

def fmtRec : FFmt → Fmt
  | .s => fp32
  | .d => fp64

/-- A NaN with a clear quiet bit. -/
def isSnan (f : Fmt) (v : Nat) : Bool := (f.decode v).isNan && !bitOf v (f.mb - 1)

/-- Bits of a register as an operand of a format: an S value must be NaN-boxed, or it is the canonical NaN. -/
def Slot.fop (t : Slot) (f : FFmt) (r : BitVec 5) : Nat :=
  match f with
  | .d => (t.fr r).toNat
  | .s => if (t.fr r).toNat / 2 ^ 32 == 2 ^ 32 - 1 then (t.fr r).toNat % 2 ^ 32 else fp32.nan

/-- A result of a format as a register holds it: an S value is NaN-boxed. -/
def boxed (f : FFmt) (v : Nat) : Word :=
  match f with
  | .d => BitVec.ofNat 64 v
  | .s => BitVec.ofNat 64 (v % 2 ^ 32 + (2 ^ 32 - 1) * 2 ^ 32)

def Slot.wfop (t : Slot) (f : FFmt) (r : BitVec 5) (v : Nat) : Slot := t.wf r (boxed f v)

/-- Whether a value is below the smallest normal number after rounding with an unbounded exponent. -/
def tiny (f : Fmt) (r : Rnd) (v : FV) : Bool :=
  match v with
  | .fin n m e =>
    if m == 0 then false
    else
      let q : Int := e + (Nat.log2 m : Int) - f.mb
      let m' := if q ≤ e then m * 2 ^ (e - q).toNat else rndShift r n m (q - e).toNat
      FV.lt (.fin false m' q) (.fin false 1 (1 - (f.bias : Int)))
  | _ => false

/-- The result bits of an exact value, with NX, UF and OF. -/
def roundFlags (f : Fmt) (r : Rnd) (v : FV) : Nat × Nat :=
  let b := f.encode r false v
  match v with
  | .fin n m e =>
    if m == 0 then (b, 0)
    else
      let p := f.round r n m e
      if f.over p.1 p.2 then (b, flagOF + flagNX)
      else if (f.decode b).eq v then (b, 0)
      else (b, if tiny f r v then flagUF + flagNX else flagNX)
  | _ => (b, 0)

/-- A rounded result, with NV when it is a NaN that no operand explains or an operand is signalling. -/
def withInvalid (f : Fmt) (r : Rnd) (v : FV) (anyNan anySnan : Bool) : Nat × Nat :=
  if anySnan || (v.isNan && !anyNan) then (f.encode r false v, flagNV) else roundFlags f r v

/-- Two-operand arithmetic and the square root. -/
def fopResult (op : FOp) (f : Fmt) (r : Rnd) (a b : Nat) : Nat × Nat :=
  let x := f.decode a
  let y := f.decode b
  let two := (x.isNan || y.isNan, isSnan f a || isSnan f b)
  match op with
  | .fadd => withInvalid f r (x.add r y) two.1 two.2
  | .fsub => withInvalid f r (x.sub r y) two.1 two.2
  | .fmul => withInvalid f r (x.mul y) two.1 two.2
  | .fdiv =>
    let p := withInvalid f r (x.div y) two.1 two.2
    if y.isZero && !x.isZero && !x.isNan && !x.isInf then (p.1, flagDZ) else p
  | .fsqrt => withInvalid f r x.sqrt x.isNan (isSnan f a)

/-- Fused multiply-add: an infinity times zero is invalid whatever the addend. -/
def fmaResult (op : FmaOp) (f : Fmt) (r : Rnd) (a b c : Nat) : Nat × Nat :=
  let x := f.decode a
  let y := f.decode b
  let z := f.decode c
  let prod := x.mul y
  let bad := prod.isNan && !x.isNan && !y.isNan
  let p := match op with | .fmadd | .fmsub => prod | .fnmsub | .fnmadd => prod.neg
  let q := match op with | .fmadd | .fnmsub => z | .fmsub | .fnmadd => z.neg
  withInvalid f r (p.add r q) (x.isNan || y.isNan || z.isNan) (isSnan f a || isSnan f b || isSnan f c || bad)

/-- Sign injection, minimum and maximum, and comparisons: the bits and the flags. -/
def fcmpResult (op : FCmp) (f : Fmt) (a b : Nat) : Nat × Nat :=
  let x := f.decode a
  let y := f.decode b
  let top := 2 ^ (f.eb + f.mb)
  let sn := if isSnan f a || isSnan f b then flagNV else 0
  let qn := if x.isNan || y.isNan then flagNV else 0
  match op with
  | .fsgnj => (a % top + b / top * top, 0)
  | .fsgnjn => (a % top + (1 - b / top) * top, 0)
  | .fsgnjx => (a % top + (a / top + b / top) % 2 * top, 0)
  | .fmin => (f.encode .rne false (x.minNum y), sn)
  | .fmax => (f.encode .rne false (x.maxNum y), sn)
  | .feq => ((x.eq y).toNat, sn)
  | .flt => ((x.lt y).toNat, qn)
  | .fle => ((x.le y).toNat, qn)

/-- The ten classes of `fclass`. -/
def fclassMask (f : Fmt) (a : Nat) : Nat :=
  match f.decode a with
  | .nan => if isSnan f a then 2 ^ 8 else 2 ^ 9
  | .inf n => if n then 2 ^ 0 else 2 ^ 7
  | .fin n m _ =>
    if m == 0 then (if n then 2 ^ 3 else 2 ^ 4)
    else if m < 2 ^ f.mb then (if n then 2 ^ 2 else 2 ^ 5)
    else if n then 2 ^ 1 else 2 ^ 6

def IWidth.signed : IWidth → Bool
  | .w | .l => true
  | _ => false
def IWidth.bits : IWidth → Nat
  | .w | .wu => 32
  | _ => 64

/-- Conversion to an integer: NaN and overflow give the nearest limit, a NaN the greatest, with NV. -/
def toIntResult (w : IWidth) (f : Fmt) (r : Rnd) (a : Nat) : Nat × Nat :=
  let lo := tyMin (IWidth.signed w) (IWidth.bits w)
  let hi := tyMax (IWidth.signed w) (IWidth.bits w)
  match f.decode a with
  | .nan => (wrap (IWidth.bits w) hi, flagNV)
  | .inf n => (wrap (IWidth.bits w) (if n then lo else hi), flagNV)
  | v =>
    let i := v.toInt r
    if i < lo then (wrap (IWidth.bits w) lo, flagNV)
    else if hi < i then (wrap (IWidth.bits w) hi, flagNV)
    else (wrap (IWidth.bits w) i, if v.eq (.ofInt i 0) then 0 else flagNX)

/-- Conversion from an integer register. -/
def fromIntResult (w : IWidth) (f : Fmt) (r : Rnd) (x : Word) : Nat × Nat :=
  roundFlags f r (.ofInt (ival (IWidth.signed w) (IWidth.bits w) x.toNat) 0)

/-- Conversion between S and D. -/
def fmtResult (dst src : Fmt) (r : Rnd) (a : Nat) : Nat × Nat :=
  withInvalid dst r (src.decode a) (src.decode a).isNan (isSnan src a)

end Sys2Proof.Machine
end

