-- ==== Sys2Proof/Machine/Sync.lean ====
section
/-! DEFINITION. Fences, acquires, releases and atomics (R130, R348 to R352), JALR with its landing pad (R24), and the
trap returns (R368). -/

namespace Sys2Proof.Machine

/-! ### Fences -/

/-- R349. -/
def execFenceScope (sc : Scope) (s : State) : Res :=
  Go.done do
    let s1 ← s.release sc
    .ok (s1.retire 4)

/-- R130.2: every FENCE acts as `fence.pkg`. -/
def execFence (_fm _pred _succ : BitVec 4) (s : State) : Res :=
  Go.done do
    let s1 ← s.release .pkg
    .ok (s1.retire 4)

/-- R130.5. -/
def execFenceI (s : State) : Res :=
  .next (((s.drain s.cur).modCore (coreOf s.cur) (fun c => { c with icache := [] })).retire 4)

/-! ### Acquire and release (R350, R351) -/

/-- A loaded value of `n` bytes as a register holds it, sign-extended below 8 bytes. -/
def loadedWord (n v : Nat) : Word := if n < 8 then sextW (8 * n) v else BitVec.ofNat 64 v

def widthOf (w : Bool) : Nat := if w then 8 else 4

/-- The checks that come before a release or an atomic, precise: the pointer, then the waited protection reply. -/
def State.protect (s : State) (k : AK) (va : Word) (n : Nat) : Go :=
  match ptrCheck k va with
  | some c => s.raise c va
  | none =>
    let r := s.reach s.cur k va n
    match r.2 with
    | .error c => r.1.raise c va
    | .ok _ => .ok r.1

/-- R350: the protection reply comes before the overlap with a held store. -/
def execLdAcq (sc : Scope) (w : Bool) (rd rs1 : BitVec 5) (s : State) : Res :=
  let a := s.x rs1
  let n := widthOf w
  Go.done
    (if a.toNat % n != 0 then s.raise (AK.misalignedCause .load) a
    else do
      let s1 ← s.protect .load a n
      if s1.me.heldOver a.toNat n then .error (s1.raiseDeferred s.cur)
      else
        let s2 ← if sc == .thr then .ok s1 else s1.awaitReleases
        let (s3, v) ← s2.load a n
        .ok ((s3.setX rd (loadedWord n v)).retire 4))

/-- The rest of a release at `.sys` whose store to another package has gone out: it waits for the answer to it, which makes it
performed, or a held store (R246, R351). -/
def State.awaitOwn (s : State) (va : Word) (id : Nat) : Go :=
  let s1 := s.settleFar s.cur
  if s1.me.posted.any (fun p => p.addr == va && p.far.any (fun f => f.1 == id)) then .error (s1.waitOpen .remote) else .ok s1

/-- A release's own store, its earlier accesses performed: to another package it is answered later, and at `.sys` the
instruction waits for the answer (R351). -/
def State.releaseStore (s : State) (sc : Scope) (a : Word) (n v : Nat) : Go := do
  let s1 ← s.storeNow a n v
  if !s.isFar a then .ok s1
  else
    let s2 := s1.postFar a n (BitVec.ofNat 64 v) (sc != .thr)
    if sc == .sys then
      (s2.modMe (fun t => { t with far := t.far ++ [(a, s1.nextFar - 1, none)] })).awaitOwn a (s1.nextFar - 1)
    else .ok s2

def execStRel (sc : Scope) (w : Bool) (rs1 rs2 : BitVec 5) (s : State) : Res :=
  let a := s.x rs1
  let n := widthOf w
  let v := (s.x rs2).toNat % 2 ^ (8 * n)
  Go.done
    (match s.me.far.find? (fun f => f.1 == a) with
    | some f => (s.awaitOwn a f.2.1).map (fun t => t.retire 4)
    | none =>
      if a.toNat % n != 0 then s.raise (AK.misalignedCause .store) a
      else do
        let s1 ← s.protect .store a n
        let s2 ← s1.release sc
        let s3 ← s2.releaseStore sc a n v
        .ok (s3.retire 4))

/-! ### Atomics (R352) -/

/-- The new value of an AMO of `w` bits, or none for no write. -/
def amoNew (op : AmoOp) (w src expected old : Nat) : Option Nat :=
  match op with
  | .add => some ((old + src) % 2 ^ w)
  | .min => some (if sval w src < sval w old then src else old)
  | .max => some (if sval w old < sval w src then src else old)
  | .minu => some (min old src)
  | .maxu => some (max old src)
  | .and => some (old &&& src)
  | .or => some (old ||| src)
  | .xor => some (old ^^^ src)
  | .swap => some src
  | .cas => if old == expected then some src else none

/-- FP32 sum of two bit patterns by RNE (R40). -/
def addF32 (a b : Nat) : Nat := fp32.encode .rne false ((fp32.decode a).add .rne (fp32.decode b))
/-- BF16 sum of two bit patterns by RNE (R40). -/
def addBf16 (a b : Nat) : Nat := fpBf16.encode .rne false ((fpBf16.decode a).add .rne (fpBf16.decode b))
/-- Two independent BF16 sums. -/
def addBf16x2 (a b : Nat) : Nat :=
  addBf16 (a % 2 ^ 16) (b % 2 ^ 16) + 2 ^ 16 * addBf16 (a / 2 ^ 16 % 2 ^ 16) (b / 2 ^ 16 % 2 ^ 16)

/-- The new value that an operation named in a request gives, or none for no write (R130, R352). -/
def FarOp.new (o : FarOp) (old : Nat) : Option Nat :=
  match o with
  | .int op dbl src expected =>
    let w := if dbl then 64 else 32
    amoNew op w (src.toNat % 2 ^ w) (expected.toNat % 2 ^ w) old
  | .cas128 expected new => if old == expected.toNat then some new.toNat else none
  | .faddF32 src => some (addF32 old src.toNat)
  | .fadd2Bf16 src => some (addBf16x2 old src.toNat)
  | .satI32 src => some (narrow true true 32 (sval 32 old + sval 32 src.toNat))
  | .lr _ => none
  | .sc dbl src => some (src.toNat % 2 ^ (if dbl then 64 else 32))

/-- The bytes an operation acts on. -/
def FarOp.width : FarOp → Nat
  | .int _ dbl _ _ | .lr dbl | .sc dbl _ => if dbl then 8 else 4
  | .cas128 _ _ => 16
  | .faddF32 _ | .fadd2Bf16 _ | .satI32 _ => 4

/-- Whether an atomic at a scope releases: not at `.thr`, where only overlapping held stores stop it. -/
def State.amoRelease (s : State) (sc : Scope) : Go := if sc == .thr then .ok s else s.release sc

/-- A scoped AMO up to its old value; the reply of another package is awaited without a second release. -/
def State.amoOld (s : State) (sc : Scope) (a : Word) (n : Nat) (o : FarOp) : Except State (State × Nat) :=
  if s.me.far.any (fun f => f.1 == a) then s.atomic a n o o.new
  else if a.toNat % n != 0 then s.raise (AK.misalignedCause .amo) a
  else do
    let s1 ← s.protect .amo a n
    let s2 ← s1.amoRelease sc
    s2.atomic a n o o.new

/-- A scoped AMO of `n` bytes. -/
def State.amo (s : State) (sc : Scope) (rd : BitVec 5) (a : Word) (n : Nat) (o : FarOp) : Go := do
  let (s1, old) ← s.amoOld sc a n o
  .ok ((s1.setX rd (loadedWord n old)).retire 4)

def execAmoI64 (op : AmoOp) (sc : Scope) (rd rs1 rs2 : BitVec 5) (s : State) : Res :=
  Go.done (s.amo sc rd (s.x rs1) 8 (.int op true (s.x rs2) (s.x rd)))

def execAmoI32 (op : AmoOp) (sc : Scope) (rd rs1 rs2 : BitVec 5) (s : State) : Res :=
  Go.done (s.amo sc rd (s.x rs1) 4 (.int op false (s.x rs2) (s.x rd)))

/-- The value of an even register pair. -/
def State.pair (s : State) (r : BitVec 4) : BitVec 128 :=
  BitVec.ofNat 128 ((s.x (BitVec.ofNat 5 (2 * r.toNat))).toNat + 2 ^ 64 * (s.x (BitVec.ofNat 5 (2 * r.toNat + 1))).toNat)

def execAmoCas128 (sc : Scope) (rd : BitVec 4) (rs1 : BitVec 5) (rs2 : BitVec 4) (s : State) : Res :=
  Go.done do
    let (s1, old) ← s.amoOld sc (s.x rs1) 16 (.cas128 (s.pair rd) (s.pair rs2))
    .ok (((s1.setX (BitVec.ofNat 5 (2 * rd.toNat)) (BitVec.ofNat 64 old)).setX (BitVec.ofNat 5 (2 * rd.toNat + 1))
      (BitVec.ofNat 64 (old / 2 ^ 64))).retire 4)

def execAmoFaddF32 (sc : Scope) (rd rs1 rs2 : BitVec 5) (s : State) : Res :=
  Go.done (s.amo sc rd (s.x rs1) 4 (.faddF32 (BitVec.ofNat 32 (s.x rs2).toNat)))

def execAmoFadd2Bf16 (sc : Scope) (rd rs1 rs2 : BitVec 5) (s : State) : Res :=
  Go.done (s.amo sc rd (s.x rs1) 4 (.fadd2Bf16 (BitVec.ofNat 32 (s.x rs2).toNat)))

/-! ### LR, SC and the A-extension AMOs (R130.3) -/

def rvWidth (dbl : Bool) : Nat := if dbl then 8 else 4

/-- A load or an AMO that overlaps a held store of its thread traps, not yet executed (R260). -/
def State.notHeld (s : State) (va : Word) (n : Nat) : Go :=
  let s1 := s.drainOver s.cur va.toNat n
  if s1.me.heldOver va.toNat n then .error (s1.raiseDeferred s.cur) else .ok s1

/-- rl is a release at `.pkg`; an acquire, aq, comes after the thread's earlier releases (R337). -/
def State.rlGate (s : State) (aq rl : Bool) : Go := if rl then s.release .pkg else if aq then s.awaitReleases else .ok s

/-- What comes before an A-extension access, but while it waits for another package. -/
def State.rvGate (s : State) (k : AK) (a : Word) (n : Nat) (aq rl : Bool) : Go :=
  if s.me.far.any (fun f => f.1 == a) then .ok s
  else if a.toNat % n != 0 then s.raise k.misalignedCause a
  else do
    let s0 ← s.notHeld a n
    let s1 ← s0.protect k a n
    s1.rlGate aq rl

/-- The block a reservation covers, by the memory address that writes to it use. -/
def State.resvBlock (s : State) (va : Word) (n : Nat) : Nat :=
  match (s.reach s.cur .load va n).2 with
  | .ok p => (homePlace va p.1 p.2).block 0
  | .error _ => 0

/-- LR: on another package the port keeps the reservation too. -/
def execLr (dbl aq rl : Bool) (rd rs1 : BitVec 5) (s : State) : Res :=
  let a := s.x rs1
  let n := rvWidth dbl
  Go.done do
    let s1 ← s.rvGate .load a n aq rl
    let (s2, p, _) ← s1.beforeAccess .load a n
    let (s3, v) ← match p with
      | .far w => (s2.ask .load a 0 (fun id => .farAmo id w (.lr dbl))).map (fun r => (r.1, r.2.toNat % 2 ^ (8 * n)))
      | _ => Except.ok (s2, s2.get p n)
    let block := s3.resvBlock a n
    .ok (((s3.modMe (fun t => { t with resv := some block })).setX rd (loadedWord n v)).retire 4)

/-- SC: on another package the port answers whether it stored. -/
def execSc (dbl aq rl : Bool) (rd rs1 rs2 : BitVec 5) (s : State) : Res :=
  let a := s.x rs1
  let n := rvWidth dbl
  let v := (s.x rs2).toNat % 2 ^ (8 * n)
  Go.done do
    let s1 ← s.rvGate .store a n aq rl
    let (s2, p, e) ← s1.beforeAccess .store a n
    let held := s2.me.resv == some ((homePlace a p e).block 0)
    let ended (t : State) : State := t.modMe (fun x => { x with resv := none })
    if !held then .ok (((ended s2).setX rd 1).retire 4)
    else
      match p with
      | .far w => do
        let (s3, d) ← s2.ask .store a 0 (fun id => .farAmo id w (.sc dbl (BitVec.ofNat 64 v)))
        .ok (((ended s3).setX rd (if d == 0 then 0 else 1)).retire 4)
      | _ => .ok ((((ended s2).writeAt s.cur a (p, e) n v).setX rd 0).retire 4)

def rvAmoOf : RvAmoOp → AmoOp
  | .swap => .swap | .add => .add | .xor => .xor | .and => .and | .or => .or | .min => .min | .max => .max
  | .minu => .minu | .maxu => .maxu

def execRvAmo (op : RvAmoOp) (dbl aq rl : Bool) (rd rs1 rs2 : BitVec 5) (s : State) : Res :=
  let a := s.x rs1
  let n := rvWidth dbl
  Go.done do
    let s1 ← s.rvGate .amo a n aq rl
    let (s2, old) ← s1.atomic a n (.int (rvAmoOf op) dbl (s.x rs2) 0) (FarOp.int (rvAmoOf op) dbl (s.x rs2) 0).new
    .ok ((s2.setX rd (loadedWord n old)).retire 4)

/-! ### JALR (R24, R130.1) -/

/-- A sign-extended 12-bit immediate. -/
def imm12 (i : BitVec 12) : Word := i.signExtend 64

def execJalr (rd rs1 : BitVec 5) (off : BitVec 12) (s : State) : Res :=
  let p := (s.x rs1 + imm12 off) &&& ~~~(1 : Word)
  Go.done do
    let s1 ← s.checkPad p (ptrK p)
    s1.transfer (ptrAddr p) (·.setX rd (s.me.pc + 4))

/-- Mode of an MPP code. -/
def Priv.ofMpp (hi lo : Bool) : Priv := if hi then .m else if lo then .s else .u

/-- SRET in user mode, or in supervisor mode under TSR, is an illegal instruction (log 4). -/
def execSret (s : State) : Res :=
  let t := s.me
  let st := t.rv.mstatus
  if t.priv == .u || (t.priv == .s && bitW st 22) then .next (s.trap s.cur { cause := 2, tval := 0x10200073 })
  else
    let st' := setBitW (setBitW (setBitW (setBitW st 1 (bitW st 5)) 5 true) 8 false) 17 false
    .next (s.trapReturn t.rv.sepc (if bitW st 8 then .s else .u) st')

def execMret (s : State) : Res :=
  let t := s.me
  let st := t.rv.mstatus
  if t.priv != .m then .next (s.trap s.cur { cause := 2, tval := 0x30200073 })
  else
    let back := Priv.ofMpp (bitW st 12) (bitW st 11)
    let st1 := setBitW (setBitW (setBitW (setBitW st 3 (bitW st 7)) 7 true) 11 false) 12 false
    .next (s.trapReturn t.rv.mepc back (if back == .m then st1 else setBitW st1 17 false))

end Sys2Proof.Machine
end

