-- ==== Sys2Proof/Machine/Base.lean ====
section
/-! DEFINITION. The RV64 base (R129, R130): RV64IMAFD, Zicsr, Zba and Zbb, scalar loads and stores. -/

namespace Sys2Proof.Machine

/-! ### Integer arithmetic -/

/-- Sign-extended low half. -/
def sext32 (v : Word) : Word := (v.truncate 32).signExtend 64
def zext32 (v : Word) : Word := (v.truncate 32).zeroExtend 64

/-- Division of RISC-V: by zero all ones, and the overflow wraps. -/
def divS (n : Nat) (a b : BitVec n) : BitVec n := if b = 0 then BitVec.allOnes n else a.sdiv b
def divU (n : Nat) (a b : BitVec n) : BitVec n := if b = 0 then BitVec.allOnes n else a / b
def remS (n : Nat) (a b : BitVec n) : BitVec n := if b = 0 then a else a.srem b
def remU (n : Nat) (a b : BitVec n) : BitVec n := if b = 0 then a else a % b

/-- Rotation right. -/
def ror64 (a : Word) (n : Nat) : Word := a >>> (n % 64) ||| a <<< (64 - n % 64)
def ror32 (a : Half) (n : Nat) : Half := a >>> (n % 32) ||| a <<< (32 - n % 32)

def boolW (b : Bool) : Word := if b then 1 else 0

/-- Register-register operations of RV64I, M, Zba and Zbb. -/
def aluResult (op : AluOp) (a b : Word) : Word :=
  let a32 : Half := a.truncate 32
  let b32 : Half := b.truncate 32
  let sh := b.toNat % 64
  let sh32 := b.toNat % 32
  match op with
  | .add => a + b
  | .sub => a - b
  | .sll => a <<< sh
  | .slt => boolW (a.slt b)
  | .sltu => boolW (a.ult b)
  | .xor => a ^^^ b
  | .srl => a >>> sh
  | .sra => a.sshiftRight sh
  | .or => a ||| b
  | .and => a &&& b
  | .addw => sext32 (a + b)
  | .subw => sext32 (a - b)
  | .sllw => (a32 <<< sh32).signExtend 64
  | .srlw => (a32 >>> sh32).signExtend 64
  | .sraw => (a32.sshiftRight sh32).signExtend 64
  | .mul => a * b
  | .mulh => BitVec.ofInt 64 (a.toInt * b.toInt / 2 ^ 64)
  | .mulhsu => BitVec.ofInt 64 (a.toInt * b.toNat / 2 ^ 64)
  | .mulhu => BitVec.ofNat 64 (a.toNat * b.toNat / 2 ^ 64)
  | .div => divS 64 a b
  | .divu => divU 64 a b
  | .rem => remS 64 a b
  | .remu => remU 64 a b
  | .mulw => sext32 (a * b)
  | .divw => (divS 32 a32 b32).signExtend 64
  | .divuw => (divU 32 a32 b32).signExtend 64
  | .remw => (remS 32 a32 b32).signExtend 64
  | .remuw => (remU 32 a32 b32).signExtend 64
  | .adduw => zext32 a + b
  | .sh1add => a <<< 1 + b
  | .sh2add => a <<< 2 + b
  | .sh3add => a <<< 3 + b
  | .sh1adduw => zext32 a <<< 1 + b
  | .sh2adduw => zext32 a <<< 2 + b
  | .sh3adduw => zext32 a <<< 3 + b
  | .andn => a &&& ~~~b
  | .orn => a ||| ~~~b
  | .xnor => ~~~(a ^^^ b)
  | .max => if a.slt b then b else a
  | .maxu => if a.ult b then b else a
  | .min => if a.slt b then a else b
  | .minu => if a.ult b then a else b
  | .rol => ror64 a (64 - sh)
  | .ror => ror64 a sh
  | .rolw => (ror32 a32 (32 - sh32)).signExtend 64
  | .rorw => (ror32 a32 sh32).signExtend 64
  | .zexth => (a.truncate 16 : BitVec 16).zeroExtend 64

/-- Operations with an immediate. -/
def immResult (op : ImmOp) (a : Word) (imm : BitVec 12) : Word :=
  let i := imm12 imm
  let sh := imm.toNat % 64
  let a32 : Half := a.truncate 32
  match op with
  | .addi => a + i
  | .slti => boolW (a.slt i)
  | .sltiu => boolW (a.ult i)
  | .xori => a ^^^ i
  | .ori => a ||| i
  | .andi => a &&& i
  | .slli => a <<< sh
  | .srli => a >>> sh
  | .srai => a.sshiftRight sh
  | .addiw => sext32 (a + i)
  | .slliw => (a32 <<< sh).signExtend 64
  | .srliw => (a32 >>> sh).signExtend 64
  | .sraiw => (a32.sshiftRight sh).signExtend 64
  | .slliuw => zext32 a <<< sh
  | .rori => ror64 a sh
  | .roriw => (ror32 a32 sh).signExtend 64

/-- Bytes of a word, lowest first. -/
def wordBytes (a : Word) : List Nat := elemsOf 8 a.toNat 8

/-- Zbb operations of one source. -/
def unResult (op : UnOp) (a : Word) : Word :=
  match op with
  | .clz => BitVec.ofNat 64 (leadingZeros 64 a.toNat)
  | .ctz => BitVec.ofNat 64 (lowestSet 64 a.toNat)
  | .cpop => BitVec.ofNat 64 (popCount 64 a.toNat)
  | .clzw => BitVec.ofNat 64 (leadingZeros 32 (a.toNat % 2 ^ 32))
  | .ctzw => BitVec.ofNat 64 (lowestSet 32 (a.toNat % 2 ^ 32))
  | .cpopw => BitVec.ofNat 64 (popCount 32 (a.toNat % 2 ^ 32))
  | .sextb => (a.truncate 8 : BitVec 8).signExtend 64
  | .sexth => (a.truncate 16 : BitVec 16).signExtend 64
  | .rev8 => BitVec.ofNat 64 (packElems 8 (wordBytes a).reverse)
  | .orcb => BitVec.ofNat 64 (packElems 8 ((wordBytes a).map (fun b => if b == 0 then 0 else 255)))

def brTaken (op : BrOp) (a b : Word) : Bool :=
  match op with
  | .beq => a == b
  | .bne => a != b
  | .blt => a.slt b
  | .bge => !a.slt b
  | .bltu => a.ult b
  | .bgeu => !a.ult b

/-- Byte offset of a branch and of JAL: the field counts half-words. -/
def brOffset (off : BitVec 12) : Word := off.signExtend 64 <<< 1
def jalOffset (off : BitVec 20) : Word := off.signExtend 64 <<< 1

/-- A taken direct transfer: a target that is not word-aligned raises the misaligned-fetch exception. -/
def State.directJump (s : State) (rd : BitVec 5) (pc : Word) : Go :=
  if pc.toNat % 4 != 0 then s.raise 0 pc else s.transfer pc (·.setX rd (s.me.pc + 4))

/-- An F or D operation on the issuing thread with its flags. -/
def State.fpResult (s : State) (f : FFmt) (rd : BitVec 5) (p : Nat × Nat) : Go :=
  .ok ((s.modMe (fun t => (t.wfop f rd p.1).flag p.2)).retire 4)

/-- An F or D operation with an integer result. -/
def State.fpInt (s : State) (rd : BitVec 5) (v : Word) (flags : Nat) : Go :=
  .ok ((s.modMe (fun t => (t.wx rd v).flag flags)).retire 4)

/-- With the rounding mode of an rm field; a reserved mode in `frm` is an illegal instruction. -/
def State.rounded (s : State) (i : Rv) (rm : BitVec 3) (f : Rnd → Go) : Go :=
  match s.me.rounding rm with
  | some r => f r
  | none => s.raise 2 (BitVec.ofNat 64 i.word)

/-- Cause of ECALL by mode (RISC-V). -/
def Priv.ecallCause : Priv → Nat
  | .u => 8 | .s => 9 | .m => 11

/-- The words of the RV64 base that have no row of their own (R129). ECALL and EBREAK take their exceptions; WFI goes
on at once, as its specification allows. -/
def State.rv (s : State) (i : Rv) : Go :=
  match i with
  | .lui rd imm => .ok ((s.setX rd ((imm ++ (0 : BitVec 12)).signExtend 64)).retire 4)
  | .auipc rd imm => .ok ((s.setX rd (s.me.pc + (imm ++ (0 : BitVec 12)).signExtend 64)).retire 4)
  | .jal rd off => s.directJump rd (s.me.pc + jalOffset off)
  | .br op rs1 rs2 off =>
    if brTaken op (s.x rs1) (s.x rs2) then s.directJump 0 (s.me.pc + brOffset off) else .ok (s.retire 4)
  | .alu op rd rs1 rs2 => .ok ((s.setX rd (aluResult op (s.x rs1) (s.x rs2))).retire 4)
  | .imm op rd rs1 imm => .ok ((s.setX rd (immResult op (s.x rs1) imm)).retire 4)
  | .un op rd rs1 => .ok ((s.setX rd (unResult op (s.x rs1))).retire 4)
  | .csrRead c => s.csrInstr c
  | .ecall => s.raise s.me.priv.ecallCause 0
  | .ebreak => s.raise 3 s.me.pc
  | .wfi =>
    if s.me.priv != .m && bitW s.me.rv.mstatus 21 then s.raise 2 (BitVec.ofNat 64 i.word)
    else .ok (s.retire 4)
  | .fop op f rm rd rs1 rs2 =>
    s.rounded i rm (fun r => s.fpResult f rd (fopResult op (fmtRec f) r (s.me.fop f rs1) (s.me.fop f rs2)))
  | .fma op f rm rd rs1 rs2 rs3 =>
    s.rounded i rm (fun r =>
      s.fpResult f rd (fmaResult op (fmtRec f) r (s.me.fop f rs1) (s.me.fop f rs2) (s.me.fop f rs3)))
  | .fcmp op f rd rs1 rs2 =>
    let p := fcmpResult op (fmtRec f) (s.me.fop f rs1) (s.me.fop f rs2)
    match op with
    | .feq | .flt | .fle => s.fpInt rd (BitVec.ofNat 64 p.1) p.2
    | _ => s.fpResult f rd p
  | .fclass f rd rs1 => s.fpInt rd (BitVec.ofNat 64 (fclassMask (fmtRec f) (s.me.fop f rs1))) 0
  | .fcvtToInt w f rm rd rs1 =>
    s.rounded i rm (fun r =>
      let p := toIntResult w (fmtRec f) r (s.me.fop f rs1)
      s.fpInt rd (if IWidth.bits w == 32 then sextW 32 p.1 else BitVec.ofNat 64 p.1) p.2)
  | .fcvtFromInt w f rm rd rs1 => s.rounded i rm (fun r => s.fpResult f rd (fromIntResult w (fmtRec f) r (s.x rs1)))
  | .fcvtFF dst rm rd rs1 =>
    let src := match dst with | .s => FFmt.d | .d => FFmt.s
    s.rounded i rm (fun r => s.fpResult dst rd (fmtResult (fmtRec dst) (fmtRec src) r (s.me.fop src rs1)))
  | .fmvToX f rd rs1 =>
    s.fpInt rd (match f with | .s => sextW 32 (s.me.fr rs1).toNat | .d => s.me.fr rs1) 0
  | .fmvFromX f rd rs1 => s.fpResult f rd ((s.x rs1).toNat % (match f with | .s => 2 ^ 32 | .d => 2 ^ 64), 0)

def execRv64BaseInstruction (i : Rv) (s : State) : Res := Go.done (s.rv i)

/-! ### Scalar loads and stores (R130.4, R248, R260) -/

/-- What a load writes: a NaN-boxed or D value, or the extended integer. -/
def LoadOp.write (ld : LoadOp) (t : Slot) (v : Nat) : Slot :=
  let n := 2 ^ ld.w.toNat
  if ld.fp then t.wf ld.rd (if n == 4 then boxed .s v else BitVec.ofNat 64 v)
  else t.wx ld.rd (if ld.uns then BitVec.ofNat 64 v else sextW (8 * n) v)

def execScalarLoad (ld : LoadOp) (s : State) : Res :=
  let a := s.x ld.rs1 + imm12 ld.off
  let n := 2 ^ ld.w.toNat
  Go.done
    (if a.toNat % n != 0 then s.raise (AK.misalignedCause .load) a
    else do
      let (s1, v) ← s.load a n
      .ok ((s1.modMe (fun t => LoadOp.write ld t v)).retire 4))

def execPlainStore (st : StoreOp) (s : State) : Res :=
  let a := s.x st.rs1 + imm12 st.off
  let n := 2 ^ st.w.toNat
  let v := if st.fp then s.me.fr st.rs2 else s.x st.rs2
  Go.done
    (if a.toNat % n != 0 then s.raise (AK.misalignedCause .store) a
    else do
      let s1 ← s.storePlain a n (BitVec.ofNat 64 (v.toNat % 2 ^ (8 * n)))
      .ok (s1.retire 4))

end Sys2Proof.Machine
end

