-- ==== Sys2Proof/Machine/Engine.lean ====
section
/-! DEFINITION. What the engines share: accesses made for a command under the rights of the thread that issued it
(R247, R262), and the two-entry command queues (R143). -/

namespace Sys2Proof.Machine

/-- An engine's read of `n` bytes: the value, or the cause of its failure. One at another package is asked for (R246). -/
def State.engRead (s : State) (v : View) (va : Word) (n : Nat) (raw : Bool := true) : Except Nat (State × Nat) :=
  match s.reachAs v .load va n raw with
  | .error c => .error c
  | .ok (.far w, _) => s.askFar .load v w n none
  | .ok (p, _) => .ok (s, s.get p n)

/-- An engine's write of `n` bytes. -/
def State.engWrite (s : State) (v : View) (ag : Agent) (va : Word) (n val : Nat) (raw : Bool := true) : Except Nat State :=
  match s.reachAs v .store va n raw with
  | .error c => .error c
  | .ok (p, e) => .ok ((s.beforeWrite v.die va.toNat e).putNat ag (homePlace va p e) n val)

/-- An atomic read-modify-write by an engine or a fabric node: the old value. `o` names the operation to another package. -/
def State.engAtomic (s : State) (v : View) (ag : Agent) (va : Word) (n : Nat) (o : FarOp) (f : Nat → Option Nat) :
    Except Nat (State × Nat) :=
  match s.reachAs v .amo va n with
  | .error c => .error c
  | .ok (.far w, _) => s.askFar .amo v w n (some o)
  | .ok (p, e) =>
    let old := s.get (homePlace va p e) n
    match f old with
    | some x => .ok ((s.beforeWrite v.die va.toNat e).putNat ag (homePlace va p e) n x, old)
    | none => .ok (s, old)

/-- A string of bytes read by an engine, byte by byte: the failing address with its cause. -/
def State.engBytes (s : State) (v : View) (va : Word) : Nat → Except (Word × Nat) (State × List Byte)
  | 0 => .ok (s, [])
  | n + 1 =>
    match s.engRead v va 1 with
    | .error c => .error (va, c)
    | .ok (s1, b) =>
      match s1.engBytes v (va + 1) n with
      | .error e => .error e
      | .ok (s2, bs) => .ok (s2, BitVec.ofNat 8 b :: bs)

/-- Bytes written one by one; what precedes a failure stays written. -/
def State.engPutBytes (s : State) (v : View) (ag : Agent) (va : Word) : List Byte → State × Option (Word × Nat)
  | [] => (s, none)
  | b :: bs =>
    match s.engWrite v ag va 1 b.toNat with
    | .error c => (s, some (va, c))
    | .ok s1 => s1.engPutBytes v ag (va + 1) bs

/-- The pieces of a string of bytes, one write for each 64-byte line it meets. -/
def State.engPieces (s : State) (v : View) (ag : Agent) (va : Word) (bs : List Byte) : Nat → State × Option (Word × Nat)
  | 0 => (s, none)
  | fuel + 1 =>
    if bs.isEmpty then (s, none)
    else
      let n := min bs.length (64 - va.toNat % 64)
      let r := match s.engWrite v ag va n (bytesNat (bs.take n)) with
        | .ok s1 => (s1, none)
        | .error _ => s.engPutBytes v ag va (bs.take n)
      match r.2 with
      | some e => (r.1, some e)
      | none => r.1.engPieces v ag (va + BitVec.ofNat 64 n) (bs.drop n) fuel

/-- Write a string of bytes; what precedes a failure stays written. -/
def State.engPut (s : State) (v : View) (ag : Agent) (va : Word) (bs : List Byte) : State × Option (Word × Nat) :=
  s.engPieces v ag va bs bs.length

/-- The start of an instruction that queues an engine command: a synchronising instruction (R260) behind the thread's
reference stores in transit and its stores to other packages (R276, R342). A bad operand ends it with RANGE; then it reserves an inbox entry, and expiry
writes TIMEOUT (R143). -/
def State.beginCommand (s : State) (rd : BitVec 5) (bad : Bool) : Go := do
  let s1 ← s.syncGate
  if bad then .error (s1.finish rd .range 8)
  else
    let s2 ← s1.awaitRefs
    let s3 ← s2.awaitFar
    s3.reserve { xs := [(rd, Status.timeout.word)], len := 8 }

/-- `EnqueueWithin` when the queue is full: the wait keeps the block read and the count of the reservation, and its expiry
gives the entry back (R143). -/
def State.waitQueue (s : State) (rd : BitVec 5) (blk : Nat) : State :=
  s.waitFor .enqueue s.waitlim { xs := [(rd, Status.timeout.word)], release := true, len := 8 } (some blk)

/-- Release the reservation and end with a status. -/
def State.refuseCommand (s : State) (rd : BitVec 5) (st : Status) : State := s.unreserve.finish rd st 8

/-- A block read with plain loads by an instruction that holds a reservation; a fault releases it. It is read once: an
instruction that waits further keeps it (R263, R330). -/
def State.readBlock (s : State) (va : Word) (k : Nat) : Except State (State × Nat) :=
  match s.me.wait.bind Wait.blk with
  | some b => .ok (s, b)
  | none => s.reserved (s.loadBlock va k)

end Sys2Proof.Machine
end

