-- ==== Sys2Proof/Machine/Copy.lean ====
section
/-! DEFINITION. The copy engine (R262 to R265) and prefetch (R266). -/

namespace Sys2Proof.Machine

/-! ### The copy block (R262) -/

/-- A field of `n` bytes at an offset of a block. -/
def blkAt (b : Nat) (off n : Nat) : Nat := b / 2 ^ (8 * off) % 2 ^ (8 * n)

/-- The fields of a copy block. -/
structure CopyBlk where
  src : Word
  dst : Word
  counts : List Nat
  sstr : List Int
  dstr : List Int
  ctl : Nat
  dexp : Word
  sexp : Word
  reserved : Bool
  deriving DecidableEq, Repr

def CopyBlk.of (b : Nat) : CopyBlk :=
  { src := BitVec.ofNat 64 (blkAt b 0 8), dst := BitVec.ofNat 64 (blkAt b 8 8),
    counts := (List.range 4).map (fun i => blkAt b (0x10 + 4 * i) 4),
    sstr := (List.range 3).map (fun i => sval 32 (blkAt b (0x20 + 4 * i) 4)),
    dstr := (List.range 3).map (fun i => sval 32 (blkAt b (0x2C + 4 * i) 4)),
    ctl := blkAt b 0x38 8, dexp := BitVec.ofNat 64 (blkAt b 0x40 8), sexp := BitVec.ofNat 64 (blkAt b 0x48 8),
    reserved := blkAt b 0x50 48 != 0 }

def CopyBlk.st (c : CopyBlk) : Option ElTy := ElTy.ofCode (c.ctl % 16)
def CopyBlk.dt (c : CopyBlk) : Option ElTy := ElTy.ofCode (c.ctl / 16 % 16)
def CopyBlk.rnd (c : CopyBlk) : Option Rnd := Rnd.ofCode (c.ctl / 2 ^ 8 % 8)
def CopyBlk.sat (c : CopyBlk) : Bool := bitOf c.ctl 11
/-- SB48 mantissa width in bits. -/
def CopyBlk.mant (c : CopyBlk) : Nat := 4 * (c.ctl / 2 ^ 12 % 4 + 1)
def CopyBlk.planes (c : CopyBlk) : Nat := c.ctl / 2 ^ 16 % 16 + 1
/-- Code width of `cpy.plane` in bits. -/
def CopyBlk.codeW (c : CopyBlk) : Nat := 4 * (c.ctl / 2 ^ 20 % 4 + 1)
def CopyBlk.count (c : CopyBlk) (i : Nat) : Nat := c.counts.getD i 0
def CopyBlk.total (c : CopyBlk) : Nat := c.counts.foldl (· * ·) 1

/-- Σ index × stride over dimensions 1 to 3. -/
def strideSum (strs : List Int) (i1 i2 i3 : Nat) : Int :=
  strs.getD 0 0 * i1 + strs.getD 1 0 * i2 + strs.getD 2 0 * i3

/-- Checks common to both forms (R264): reserved fields, counts, addresses. -/
def CopyBlk.commonOk (c : CopyBlk) : Bool :=
  !c.reserved && c.ctl / 2 ^ 22 == 0 && c.ctl / 2 ^ 14 % 4 == 0 && c.counts.all (· != 0) && c.total ≤ 2 ^ 32
  && c.src.toNat < 2 ^ 56 && c.dst.toNat < 2 ^ 56 && c.dexp.toNat < 2 ^ 56 && c.sexp.toNat < 2 ^ 56

/-- An address and its strides are multiples of `n`. -/
def alignedSide (n : Nat) (a : Word) (strs : List Int) : Bool :=
  a.toNat % n == 0 && strs.all (fun x => x % (n : Int) == 0)

def isScalarTy (t : ElTy) : Bool := t.isInt || t.code == 6 || t.isAnyFlt

/-- Whether every value of a float format is one of another. -/
def exactInto (f g : Fmt) : Bool := f == g || (f.mb ≤ g.mb && f.eb ≤ g.eb && g.minE ≤ f.minE)

/-- Significant bits of an integer type's magnitudes; the least signed value is a power of two. -/
def magBits (t : ElTy) : Nat := if t.signed then t.width - 1 else t.width

/-- Whether a pair uses the rounding field: some value of its source type is rounded (R44, R49, R50; log 49). -/
def usesRounding (dt st : ElTy) : Bool :=
  if dt == .sb48 || st == .sb48 then true
  else if dt.isAnyFlt then
    if st.isAnyFlt then !exactInto st.fmt dt.fmt else dt.fmt.mb + 1 < magBits st
  else st.isAnyFlt

/-- Whether a pair uses the saturation field: some value of its source type converts to one out of range, or is an infinity
(R42 to R44, R49, R50; log 49). A float to an integer is clamped either way, and an integer fits a wider one. -/
def usesSat (dt st : ElTy) : Bool :=
  if dt == .sb48 || st == .sb48 then true
  else if dt.isAnyFlt then
    if st.isAnyFlt then st.fmt.hasInf else dt.fmt.maxM * 2 ^ dt.fmt.maxE.toNat < 2 ^ magBits st
  else !st.isAnyFlt && dt.width ≤ st.width && dt != st

/-- `Check` of `cpy` (R264). -/
def CopyBlk.cpyOk (c : CopyBlk) : Bool :=
  match c.st, c.dt, c.rnd with
  | some st, some dt, some _ =>
    c.commonOk && c.ctl / 2 ^ 16 == 0
    && (usesRounding dt st || c.ctl / 2 ^ 8 % 8 == 0) && (usesSat dt st || !c.sat)
    && (if isScalarTy st && isScalarTy dt then
          c.ctl / 2 ^ 12 % 4 == 0 && c.dexp == 0 && c.sexp == 0
          && alignedSide (st.width / 8) c.src c.sstr && alignedSide (dt.width / 8) c.dst c.dstr
        else if st.isFlt && dt == .sb48 then
          c.count 0 % 48 == 0 && c.sexp == 0
          && alignedSide (st.width / 8) c.src c.sstr && alignedSide 8 c.dst c.dstr
        else if st == .sb48 && dt.isFlt then
          c.count 0 % 48 == 0 && c.dexp == 0
          && alignedSide 8 c.src c.sstr && alignedSide (dt.width / 8) c.dst c.dstr
        else false)
  | _, _, _ => false

/-- `Check` of `cpy.plane` (R264). -/
def CopyBlk.planeOk (c : CopyBlk) : Bool :=
  c.commonOk && c.ctl % 2 ^ 14 == 0 && c.count 2 == 1 && c.count 3 == 1
  && c.count 0 % 48 == 0 && 48 ≤ c.count 0 && c.count 0 ≤ 3072 && 1 ≤ c.count 1 && c.count 1 ≤ 128
  && c.planes ≤ c.codeW && c.dexp == 0 && c.sexp == 0
  && c.sstr.drop 1 == [0, 0] && c.dstr == [0, 0, 0]

/-! ### The instructions (R263, R265) -/

/-- Both forms. -/
def State.cpyWord (s : State) (r : F5) (plane : Bool) : Go := do
  let a := s.x r.s1
  let s1 ← s.beginCommand r.d (a.toNat % 64 != 0)
  let (s2, b) ← s1.readBlock a 16
  let c := CopyBlk.of b
  if !(if plane then c.planeOk else c.cpyOk) then .error (s2.refuseCommand r.d .range)
  else if 2 ≤ (s2.core (coreOf s.cur)).copyQ.length then .error (s2.waitQueue r.d b)
  else
    let cmd : CopyCmd :=
      { blk := BitVec.ofNat 1024 b, plane := plane, tag := (s.x r.s2).truncate 32, loc := s.cur, home := s.tid.1, ctx := s.me.ctx,
        rights := s.me.sc.pdrights }
    .ok ((s2.modCore (coreOf s.cur) (fun k => { k with copyQ := k.copyQ ++ [cmd] })).finish r.d .ok 8)

def execCpy (r : F5) (s : State) : Res := Go.done (s.cpyWord r false)
def execCpyPlane (r : F5) (s : State) : Res := Go.done (s.cpyWord r true)

/-- R265. -/
def execCpyStat (xd : BitVec 5) (s : State) : Res :=
  let c := s.core (coreOf s.cur)
  let done := if c.copyQ.isEmpty then 0 else c.copyDone
  .next ((s.setX xd (BitVec.ofNat 64 (done % 2 ^ 32 * 2 ^ 32 + c.copyQ.length))).retire 8)

/-- R266: a prefetch changes no architectural state. -/
def execPf (_sc : Scope) (_xb : BitVec 5) (_off : BitVec 16) (s : State) : Res := .next (s.retire 8)

/-! ### The engine (R262 to R264) -/

/-- The state and, after a fault, the failing address. -/
abbrev Eng := Except (State × Word) State

def State.eRead (s : State) (v : View) (va : Word) (n : Nat) : Except (State × Word) (State × Nat) :=
  match s.engRead v va n with
  | .ok p => .ok p
  | .error _ => .error (s, va)

def State.eWrite (s : State) (v : View) (ag : Agent) (va : Word) (n x : Nat) : Eng :=
  match s.engWrite v ag va n x with
  | .ok t => .ok t
  | .error _ => .error (s, va)

/-- `n` values of `w` bytes from an address on. -/
def State.eReads (s : State) (v : View) (va : Word) (w : Nat) : Nat → Except (State × Word) (State × List Nat)
  | 0 => .ok (s, [])
  | n + 1 => do
    let (s1, x) ← s.eRead v va w
    let (s2, xs) ← s1.eReads v (va + BitVec.ofNat 64 w) w n
    .ok (s2, x :: xs)

def State.eWrites (s : State) (v : View) (ag : Agent) (va : Word) (w : Nat) : List Nat → Eng
  | [] => .ok s
  | x :: xs => do
    let s1 ← s.eWrite v ag va w x
    s1.eWrites v ag (va + BitVec.ofNat 64 w) w xs

/-- An address plus an integer offset. -/
def offs (a : Word) (d : Int) : Word := a + BitVec.ofInt 64 d

/-- What one command works with. -/
structure CopyRun where
  c : CopyBlk
  v : View
  ag : Agent
  st : ElTy
  dt : ElTy
  r : Rnd
  deriving DecidableEq, Repr

/-- One element of a scalar pair (R264). -/
def CopyRun.elem (u : CopyRun) (s : State) (i0 : Nat) (so d : Int) : Eng := do
  let ws := u.st.width / 8
  let wd := u.dt.width / 8
  let (s1, x) ← s.eRead u.v (offs u.c.src (so + (i0 * ws : Nat))) ws
  s1.eWrite u.v u.ag (offs u.c.dst (d + (i0 * wd : Nat))) wd (cvtElem u.dt u.st u.r u.c.sat x)

/-- One block of 48 elements to SB48: block `j` of the row, running block `b`. -/
def CopyRun.toBlk (u : CopyRun) (s : State) (j b : Nat) (so d : Int) : Eng := do
  let ws := u.st.width / 8
  let m := u.c.mant
  let (s1, xs) ← s.eReads u.v (offs u.c.src (so + (48 * j * ws : Nat))) ws 48
  let p := sbBlock m u.r u.c.sat u.st.fmt (xs.map u.st.fmt.decode)
  let s2 ← s1.eWrites u.v u.ag (offs u.c.dst (d + (6 * m * j : Nat))) 8 (elemsOf 64 (packElems m p.2) (6 * m / 8))
  s2.eWrite u.v u.ag (u.c.dexp + BitVec.ofNat 64 b) 1 p.1

/-- One block from SB48. -/
def CopyRun.ofBlk (u : CopyRun) (s : State) (j b : Nat) (so d : Int) : Eng := do
  let wd := u.dt.width / 8
  let m := u.c.mant
  let (s1, ms) ← s.eReads u.v (offs u.c.src (so + (6 * m * j : Nat))) 8 (6 * m / 8)
  let (s2, ex) ← s1.eRead u.v (u.c.sexp + BitVec.ofNat 64 b) 1
  let n := packElems 64 ms
  s2.eWrites u.v u.ag (offs u.c.dst (d + (48 * j * wd : Nat))) wd
    ((List.range 48).map (fun i => u.dt.fmt.encode u.r u.c.sat (sbValue m ex (elemOf m n i))))

/-- Unit `k` of the walk of `cpy`, i0 fastest: an element, or a block of 48. -/
def CopyRun.unit (u : CopyRun) (blocks : Bool) (k : Nat) (s : State) : Eng :=
  let c0 := if blocks then u.c.count 0 / 48 else u.c.count 0
  let i0 := k % c0
  let i1 := k / c0 % u.c.count 1
  let i2 := k / c0 / u.c.count 1 % u.c.count 2
  let i3 := k / c0 / u.c.count 1 / u.c.count 2
  let so := strideSum u.c.sstr i1 i2 i3
  let d := strideSum u.c.dstr i1 i2 i3
  if !blocks then u.elem s i0 so d
  else if u.dt == .sb48 then u.toBlk s i0 k so d
  else u.ofBlk s i0 k so d

/-- The destination bytes of one plane of one row: bit b of 8 codes each. -/
def planeBytes (codes : List Nat) (b k : Nat) : List Nat :=
  (List.range (k / 8)).map (fun i => packElems 1 ((List.range 8).map (fun t => (bitOf (codes.getD (8 * i + t) 0) b).toNat)))

/-- The planes b, b + 1, … of a row. -/
def CopyRun.planesOf (u : CopyRun) (codes : List Nat) (row : Nat) : Nat → Nat → State → Eng
  | 0, _, s => .ok s
  | n + 1, b, s => do
    let k := u.c.count 0
    let s1 ← s.eWrites u.v u.ag (u.c.dst + BitVec.ofNat 64 (b * u.c.count 1 * (k / 8) + row * (k / 8))) 1 (planeBytes codes b k)
    u.planesOf codes row n (b + 1) s1

/-- A row of `cpy.plane`. -/
def CopyRun.row (u : CopyRun) (row : Nat) (s : State) : Eng := do
  let k := u.c.count 0
  let w := u.c.codeW
  let (s1, bs) ← s.eReads u.v (offs u.c.src (strideSum u.c.sstr row 0 0)) 1 (k * w / 8)
  u.planesOf (elemsOf w (packElems 8 bs) k) row u.c.planes 0 s1

def CopyCmd.tid (cmd : CopyCmd) : Tid := (cmd.home, cmd.ctx)

/-- What a command works with, as its thread issued it. -/
def State.copyRunOf (s : State) (cmd : CopyCmd) : CopyRun :=
  let c := CopyBlk.of cmd.blk.toNat
  { c := c, v := s.engineView cmd.loc cmd.tid cmd.rights, ag := s.agentFor cmd.loc cmd.tid,
    st := c.st.getD .i8, dt := c.dt.getD .i8, r := c.rnd.getD .rne }

/-- The elements of one step of a command: a row, a block of 48, or one element. -/
def CopyCmd.per (cmd : CopyCmd) : Nat :=
  let c := CopyBlk.of cmd.blk.toNat
  if cmd.plane then c.count 0 else if c.dt == some .sb48 || c.st == some .sb48 then 48 else 1

/-- The elements of a command. -/
def CopyCmd.elems (cmd : CopyCmd) : Nat :=
  let c := CopyBlk.of cmd.blk.toNat
  if cmd.plane then c.count 0 * c.count 1 else c.total

/-- The next step of a command of which `n` elements are performed. -/
def State.copyFrom (s : State) (cmd : CopyCmd) (n : Nat) : Eng :=
  let u := s.copyRunOf cmd
  if cmd.plane then u.row (n / cmd.per) s else u.unit (cmd.per == 48) (n / cmd.per) s

/-- The engine of core `cur` takes up its oldest command. -/
def execCopyCommandStart (s : State) : Res :=
  let c := s.core s.cur
  if c.copyRun || c.copyQ.isEmpty then .next s
  else .next (s.setCore s.cur { c with copyRun := true, copyDone := 0 })

/-- A command of core `cur` has ended: it leaves the queue and posts its message (kind 0x03). -/
def State.copyEnd (s : State) (cmd : CopyCmd) (rest : List CopyCmd) (st : Status) (v : Word) : State :=
  (((s.dropWrites (s.core s.cur).copyFar).dropAsks (tidNo cmd.tid)).modCore s.cur (fun k =>
    { k with copyQ := rest, copyRun := false, copyDone := 0, copyFar := [] })).post cmd.home cmd.ctx 3 st cmd.tag v

/-- The running command of core `cur` performs its next accesses; the last of them, or a fault, ends it, once its writes to other
packages are acknowledged: one that fails ends it with FAULT (R264, R342). -/
def execCopyCompletion (s : State) : Res :=
  let c := s.core s.cur
  match c.copyRun, c.copyQ with
  | true, cmd :: rest =>
    match s.farFailed c.copyFar with
    | some va => .next (s.copyEnd cmd rest .fault va)
    | none =>
      if cmd.elems ≤ c.copyDone then .next (if s.unacked c.copyFar then s else s.copyEnd cmd rest .ok 0)
      else
        match s.copyFrom cmd c.copyDone with
        | .error p => .next (if s.unacked c.copyFar then s else p.1.copyEnd cmd rest .fault p.2)
        | .ok t =>
          let n := c.copyDone + cmd.per
          let far := c.copyFar ++ s.newWrites t
          .next (if n < cmd.elems || !far.isEmpty then t.modCore s.cur (fun k => { k with copyDone := n, copyFar := far })
            else t.copyEnd cmd rest .ok 0)
  | _, _ => .next s

end Sys2Proof.Machine
end

