-- ==== Sys2Proof/Machine/Groups.lean ====
section
/-! DEFINITION. Groups and collectives (R359 to R367). The steps of a group's coordinator and of an instance act on
attempt or instance number `cur`, rank `sub`; a message of another package at the head of `pod` is taken first. -/

namespace Sys2Proof.Machine

/-! ### Groups by handle -/

def State.group (s : State) (h : Nat) : Option Group := s.groups.find? (fun g => g.handle == h)

def State.setGroup (s : State) (g : Group) : State :=
  { s with groups := s.groups.map (fun x => if x.handle == g.handle then g else x) }

/-- The issuing thread as a member. -/
def State.asMember (s : State) (num : Nat) : Member := ⟨(s.locid s.cur).toNat, s.tid.1, s.tid.2, num⟩

/-- The package of a location number. -/
def pkgOf (locid : Nat) : Nat := locid / 4096

/-- The identity of a member of this package. -/
def Member.tid (m : Member) : Tid := (m.home, m.ctx)

def Group.coordinator (g : Group) : Nat := ((g.members.head?).map (fun m => pkgOf m.locid)).getD 0

/-- Whether a member lies in this package. -/
def State.isLocal (s : State) (m : Member) : Bool := pkgOf m.locid == s.pkg.toNat

/-- The rank of a thread of this package in a group. -/
def State.rankIn (s : State) (g : Group) (t : Tid) : Option Nat :=
  let i := g.members.findIdx (fun m => s.isLocal m && m.tid == t)
  if i < g.members.length then some i else none

/-- Whether a member's thread has ended: other packages report theirs with `drop`. -/
def State.memberEnded (s : State) (m : Member) : Bool := s.isLocal m && !s.alive m.tid

/-- Whether some member of a group has neither dropped it nor ended: its handle is live (R361). -/
def Group.live (g : Group) : Bool := !(List.range g.members.length).all (fun r => g.dropped.contains r)

/-- A group by its live handle. -/
def State.liveGroup (s : State) (h : Nat) : Option Group := (s.group h).filter Group.live

/-- Close a group and record that a rank has dropped it, or that its thread has ended, which drops it too. Its outstanding instances
still find its members (R361). -/
def State.dropRank (s : State) (h rank : Nat) (ended : Bool) : State :=
  let add (l : List Nat) : List Nat := if l.contains rank then l else l ++ [rank]
  match s.group h with
  | none => s
  | some g => s.setGroup { g with closed := true, dropped := add g.dropped, ended := if ended then add g.ended else g.ended }

/-- Tell the other packages of a group something. -/
def State.tellOthers (s : State) (g : Group) (m : PodMsg) : State :=
  let ps := (g.members.map (fun x => pkgOf x.locid)).eraseDups.filter (fun p => p != s.pkg.toNat)
  { s with outs := s.outs ++ ps.map (fun p => .pod p m) }

/-! ### `grp.form` (R359, R360) -/

/-- A member list: locations and timeout, if its fields are good and the issuing thread is in it. -/
def memberList (hdr : Nat) (ws : List Nat) (self : Nat) : Option (List Nat × Nat) :=
  let n := hdr % 2 ^ 32
  let t := hdr / 2 ^ 64 % 2 ^ 40
  if hdr / 2 ^ 104 != 0 || n == 0 || 65536 < n then none
  else if ws.any (fun w => 2 ^ 21 ≤ w) || !decide ws.Nodup || !ws.contains self then none
  else some (ws, if t = 0 then 2 ^ 24 else t)

/-- The list at an address, read with plain loads: its header, and its locations when the count is in range. -/
def State.readList (s : State) (a : Word) : Except State (State × Nat × List Nat) := do
  let (s1, hdr) ← s.loadBlock a 2
  let n := hdr % 2 ^ 32
  if n == 0 || 65536 < n then .ok (s1, hdr, [])
  else
    let (s2, ws) ← s1.loads (a + 16) 4 n
    .ok (s2, hdr, ws)

/-- The result of `grp.form`. -/
def formWord (st rank handle : Nat) : Word := BitVec.ofNat 64 (st * 2 ^ 56 + rank % 2 ^ 16 * 2 ^ 32 + handle % 2 ^ 16)

/-- Live groups that a package holds state for. -/
def State.groupsFull (s : State) : Bool := 4096 ≤ s.groups.countP Group.live

/-- Record an arrival: joined to the undecided attempt of its key, or a new one (R360). `job` is that of the arriving thread here,
`bad` says that its package holds all the groups it can. -/
def State.arriveForm (s : State) (key : BitVec 32) (list : List Nat) (timeout : Nat) (m : Member) (job : Option Nat) (bad : Bool) :
    State :=
  if s.forming.any (fun f => f.key == key && f.decided.isNone) then
    { s with forming := s.forming.map (fun f =>
        if f.key == key && f.decided.isNone then
          { f with arrived := f.arrived ++ [m], differs := f.differs || bad || f.list != list || f.timeout != timeout }
        else f) }
  else { s with forming := s.forming ++ [⟨key, list, timeout, bad, job, [m], none, [], false⟩] }

/-- The arrival of a thread of this package at an attempt whose decision it has not taken. -/
def State.arrivalAt (s : State) (f : Forming) (t : Tid) : Option Member :=
  if f.taken.contains t then none else f.arrived.find? (fun m => s.isLocal m && m.tid == t)

/-- The attempt at which the issuing thread waits. -/
def State.myForm (s : State) : Option Forming := s.forming.find? (fun f => (s.arrivalAt f s.tid).isSome)

/-- Take the decision: the result of the word; an attempt that every local member has left is forgotten. -/
def State.takeForm (s : State) (f : Forming) (rd : BitVec 5) (d : BitVec 8 × Nat) : State :=
  let rank := f.list.findIdx (· == ((s.arrivalAt f s.tid).map Member.locid).getD 0)
  let f' := { f with taken := f.taken ++ [s.tid] }
  let everyone := (f.arrived.filter (fun m => s.isLocal m)).all (fun m => f'.taken.contains m.tid)
  let fs := s.forming.map (fun x => if x == f then f' else x)
  let w := if d.1 == Status.ok.byte then formWord 0 rank d.2 else formWord d.1.toNat 0 0
  (({ s with forming := if everyone then fs.filter (fun x => x != f') else fs } : State).setX rd w).retire 8

/-- An attempt ends here without a group. -/
def State.closeForm (s : State) (f : Forming) (st : BitVec 8) : State :=
  { s with forming := s.forming.map (fun x => if x == f && x.decided.isNone then { x with decided := some (st, 0) } else x) }

/-- A decision goes to the other packages of an attempt, to each with the numbers of the arrivals it is for. -/
def State.sendDecision (s : State) (f : Forming) (st : BitVec 8) (h : Nat) : State :=
  let ps := (f.list.map pkgOf).eraseDups.filter (fun p => p != s.pkg.toNat)
  { s with outs := s.outs ++ ps.map (fun p =>
      .pod p (.decide f.key st h ((f.arrived.filter (fun m => pkgOf m.locid == p)).map Member.num))) }

/-- The coordinator decides an attempt without a group, and says so. -/
def State.decideForm (s : State) (f : Forming) (st : Status) : State := (s.closeForm f st.byte).sendDecision f st.byte 0

/-- Whether this package coordinates an attempt. -/
def State.leadsForm (s : State) (f : Forming) : Bool := pkgOf (f.list.headD 0) == s.pkg.toNat

/-- Wait for the decision. An expiry goes to the coordinator, which serialises it with the arrivals: it abandons an undecided
attempt. A coordinator that does not answer within the limit again is taken to be cut off (log 51). -/
def State.awaitForm (s : State) (rd : BitVec 5) : State :=
  let exp : Expiry := { xs := [(rd, Status.timeout.handle)], len := 8 }
  let taken (t : State) : State :=
    match t.myForm with
    | some g => t.takeForm g rd (g.decided.getD (Status.timeout.byte, 0))
    | none => t.finish rd .range 8
  match s.myForm with
  | none => s.finish rd .range 8
  | some f =>
    if f.decided.isSome then taken s
    else if s.cycle < s.deadlineFor s.cur (if s.waiting .reply then .reply else .group) s.waitlim then
      s.waitFor (if s.waiting .reply then .reply else .group) s.waitlim exp
    else if s.leadsForm f then taken (s.decideForm f .timeout)
    else if s.waiting .reply || s.waitlim == 0 then taken (s.closeForm f Status.timeout.byte)
    else
      let s1 : State :=
        if f.asked then s
        else { s with forming := s.forming.map (fun x => if x == f then { x with asked := true } else x),
                      outs := s.outs ++ [let m := (s.arrivalAt f s.tid).getD ⟨0, 0, 0, 0⟩
                                         .pod (pkgOf (f.list.headD 0)) (.expired f.key m.locid m.num)] }
      s1.waitFor .reply s.waitlim exp

/-- The gang launch that a thread's job is part of. -/
def State.launchName (s : State) (loc : Nat) : Option (Word × Word × Nat) :=
  ((s.slot loc).job.bind (fun j => s.jobs.find? (fun x => x.id == j && x.gang.isSome))).map Job.launch

/-! ### Telling the members of an instance (R365) -/

/-- The message value of R365. -/
def collValue (count named k : Nat) : Word :=
  BitVec.ofNat 64 (count % 2 ^ 17 * 2 ^ 47 + (if count == 0 then 0 else 2 ^ 46 + named % 2 ^ 16 * 2 ^ 30) + k % 2 ^ 30)

/-- Collectives of a group that a thread has outstanding. -/
def Inst.outstanding (i : Inst) (t : Tid) : Bool :=
  i.contribs.any (fun c => (c.home, c.ctx) == t && !i.told.contains c.rank)

def State.setInst (s : State) (i : Inst) : State :=
  { s with insts := s.insts.map (fun x => if x.id == i.id then i else x) }

/-- Tell a local member its final status. -/
def State.tell (s : State) (i : Inst) (c : Contrib) (st : BitVec 8) (value : Word) : State :=
  ({ s with arrivals := s.arrivals ++ [(c.home, c.ctx, ⟨8, st, 0, c.tag, value⟩)] } : State).setInst
    { i with told := i.told ++ [c.rank] }

/-- The status of a local member of an ended instance: a failed destination reports FAULT alone (R365). -/
def Inst.statusOf (i : Inst) (rank : Nat) (st : BitVec 8) : BitVec 8 :=
  if i.bad.contains rank && st == Status.ok.byte then Status.fault.byte else st

/-- Tell every local member that has not been told. -/
def State.tellAll (s : State) (id : Nat) : State :=
  match s.insts.find? (fun i => i.id == id) with
  | none => s
  | some i =>
    match i.result with
    | none => s
    | some (st, count, named) =>
      (i.contribs.filter (fun c => !i.told.contains c.rank)).foldl (fun u c =>
        match u.insts.find? (fun x => x.id == id) with
        | some x => u.tell x c (i.statusOf c.rank st) (collValue count named i.k)
        | none => u) s

/-! ### The coordinator's decision (R360) -/

/-- Whether every location of a list names a thread of a job, or of its gang launch on another package. -/
def State.listOfJob (s : State) (job : Option Nat) (list : List Nat) : Bool :=
  match job with
  | none => false
  | some j =>
    let gang := (s.jobs.find? (fun x => x.id == j)).bind Job.gang
    list.all (fun l =>
      if pkgOf l == s.pkg.toNat then (s.jobThreads j).any (fun t => t.1 == l % 4096)
        || ((s.slot (l % 4096)).occupied && (s.slot (l % 4096)).job.getD 0 == j)
      else gang.any (fun g => g.members.contains (pkgOf l)))

/-- Whether a live group or an outstanding instance that this package knows has a handle. -/
def State.handleUsed (s : State) (h : Nat) : Bool :=
  s.groups.any (fun g => g.handle == h && g.live) || s.insts.any (fun i => i.group == h && i.result.isNone)

/-- A handle that no live group of the pod has. Every package gives those that are its own number modulo 512, which one is left open,
and only when it has none left another one that it does not know to be in use (log 9, log 51). -/
def State.freeHandle (s : State) : Nat :=
  let first := (Config.freeWord s.fresh).toNat
  let own := ((List.range 128).map (fun i => (first + i) % 128 * 512 + s.pkg.toNat)).find? (fun h => h != 0 && !s.handleUsed h)
  let rest := (List.range (s.groups.length + s.insts.length + 1)).map (fun i => (first + i) % 65535 + 1)
  own.getD ((rest.find? (fun h => !s.handleUsed h)).getD 1)

/-- A handle is used anew: the ended instances of the group that had it are forgotten. -/
def State.forgetInsts (s : State) (h : Nat) : State := { s with insts := s.insts.filter (fun i => i.group != h || i.result.isNone) }

/-- Form the group of a complete attempt. -/
def State.formGroup (s0 : State) (f : Forming) (h : Nat) : State :=
  let s := s0.forgetInsts h
  let members := f.list.map (fun l => (f.arrived.find? (fun m => m.locid == l)).getD ⟨l, 0, 0, 0⟩)
  let g : Group := ⟨h, f.key, members, f.timeout, false, [], [], []⟩
  { s with groups := s.groups.filter (fun x => x.handle != h) ++ [g],
           forming := s.forming.map (fun x => if x == f then { x with decided := some (Status.ok.byte, h) } else x) }

/-- Attempt `i` is decided here, if it can be. -/
def State.decide (s : State) (i : Nat) : State :=
  match s.forming[i]? with
  | none => s
  | some f =>
    if f.decided.isSome || !s.leadsForm f then s
    else if f.differs || !s.listOfJob f.job f.list || s.groupsFull then s.decideForm f .refused
    else if f.list.all (fun l => f.arrived.any (fun m => m.locid == l)) then
      let h := s.freeHandle
      ({ (s.formGroup f h) with fresh := s.fresh + 1 } : State).sendDecision f Status.ok.byte h
    else s

/-- Instances of a handle that is used anew had been given up for this package: its members complete with LOST (R365). -/
def State.loseInsts (s : State) (h : Nat) : State :=
  s.insts.foldl (fun u i =>
    if i.group == h && i.result.isNone then
      (u.setInst { i with committed := true, result := some (Status.lost.byte, 0, 0) }).tellAll i.id
    else u) s

/-- The undecided attempt of a key is decided as an arrival comes to it, if it can be. -/
def State.decideKey (s : State) (key : BitVec 32) : State :=
  s.decide (s.forming.findIdx (fun f => f.key == key && f.decided.isNone && s.leadsForm f))

/-- A decision of another package's coordinator, for the arrivals of some numbers; the others wait on in an attempt of their own. A
handle that is live here already is no new group's. -/
def State.takeDecision (s : State) (key : BitVec 32) (st : BitVec 8) (h : Nat) (nums : List Nat) : State :=
  let mine (m : Member) : Bool := s.isLocal m && nums.contains m.num
  match s.forming.find? (fun f => f.key == key && f.decided.isNone && f.arrived.any mine) with
  | none => s
  | some f =>
    let g := { f with arrived := f.arrived.filter mine }
    let rest := { f with arrived := f.arrived.filter (fun m => !mine m) }
    let s1 : State := { s with forming := s.forming.flatMap (fun x =>
      if x == f then (if rest.arrived.isEmpty then [g] else [g, rest]) else [x]) }
    if st == Status.ok.byte && (s.liveGroup h).isNone then (s1.loseInsts h).formGroup g h
    else s1.closeForm g (if st == Status.ok.byte then Status.refused.byte else st)

def execGrpForm (xd xb : BitVec 5) (s : State) : Res :=
  let a := s.x xb
  let fail (t : State) (st : Status) : State := (t.setX xd st.handle).retire 8
  if s.waiting .group || s.waiting .reply then .next (s.awaitForm xd)
  else if a.toNat % 64 != 0 then .next (fail s .range)
  else
    Go.done do
      let (s1, hdr, ws) ← s.readList a
      match memberList hdr ws (s.locid s.cur).toNat with
      | none => .ok (fail s1 .range)
      | some (list, t) =>
        let key := BitVec.ofNat 32 (hdr / 2 ^ 32)
        let num := s1.nextInst
        let s2 := ({ s1 with nextInst := num + 1 } : State).arriveForm key list t (s1.asMember num) (some (s1.me.job.getD 0)) s1.groupsFull
        let coord := pkgOf (list.headD 0)
        let s3 := if coord == s.pkg.toNat then s2.decideKey key
          else { s2 with outs := s2.outs ++ [.pod coord (.arrive key list t (s.locid s.cur).toNat num (s.launchName s.cur) s1.groupsFull)] }
        .ok (s3.awaitForm xd)

def execGroupDecision (s : State) : Res :=
  match s.pod with
  | .arrive key list t l num launch bad :: rest =>
    let job := launch.bind (fun n => (s.jobs.find? (fun j => j.gang.isSome && j.launch == n)).map Job.id)
    .next ((({ s with pod := rest } : State).arriveForm key list t ⟨l, 0, 0, num⟩ job bad).decideKey key)
  | .expired key l num :: rest =>
    let s1 : State := { s with pod := rest }
    match s1.forming.find? (fun f => f.key == key && f.decided.isNone && s1.leadsForm f
        && f.arrived.any (fun m => m.locid == l && m.num == num)) with
    | some f => .next (s1.decideForm f .timeout)
    | none => .next s1
  | .decide key st h nums :: rest => .next (({ s with pod := rest } : State).takeDecision key st h nums)
  | .drop h r e :: rest => .next (({ s with pod := rest } : State).dropRank h r e)
  | _ => .next (s.decide s.cur)

/-- R361. -/
def execGrpDrop (xd xh : BitVec 5) (s : State) : Res :=
  match s.liveGroup ((s.x xh).toNat % 2 ^ 16) with
  | none => .next (s.finish xd .range 8)
  | some g =>
    match s.rankIn g s.tid with
    | none => .next (s.finish xd .range 8)
    | some r =>
      if g.dropped.contains r then .next (s.finish xd .range 8)
      else .next (((s.tellOthers g (.drop g.handle r false)).dropRank g.handle r false).finish xd .ok 8)

/-- An ended thread drops its groups (R361, R394). -/
def State.dropGroups (s : State) (t : Tid) : State :=
  s.groups.foldl (fun u g =>
    match u.rankIn g t with
    | some r => (u.tellOthers g (.drop g.handle r true)).dropRank g.handle r true
    | none => u) s

/-! ### Issuing a collective (R362, R364, R365) -/

structure CollBlk where
  src : Word
  dst : Word
  n : Nat
  handle : Nat
  root : Nat
  op : Nat
  reserved : Bool
  deriving DecidableEq, Repr

def CollBlk.of (b : Nat) : CollBlk :=
  { src := BitVec.ofNat 64 (blkAt b 0 8), dst := BitVec.ofNat 64 (blkAt b 8 8), n := blkAt b 0x10 4, handle := blkAt b 0x14 2,
    root := blkAt b 0x16 2, op := blkAt b 0x18 1, reserved := blkAt b 0x19 39 != 0 }

/-- The checks that come before the group is looked up; `g` is the member count of a live group. -/
def CollBlk.ok (c : CollBlk) (kind w : Nat) (g : Option Nat) : Bool :=
  !c.reserved && 1 ≤ c.n && c.n ≤ 2 ^ 24 && c.op ≤ 2 && (kind < 2 || c.op == 0) && (kind == 3 || c.root == 0)
  && c.src.toNat % w == 0 && c.dst.toNat % w == 0
  && (match g with | some n => c.root < n && n * c.n * w ≤ 2 ^ 30 | none => true)

/-- Bytes of a source and of a destination of one rank. -/
def CollP.w (p : CollP) : Nat := ((ElTy.ofCode p.ty).map ElTy.width).getD 8 / 8
def CollP.srcLen (p : CollP) (g rank : Nat) : Nat :=
  match p.kind with
  | 1 | 4 => g * p.n
  | 3 => if rank == p.root then p.n else 0
  | _ => p.n
def CollP.dstLen (p : CollP) (g : Nat) : Nat :=
  match p.kind with
  | 2 | 4 => g * p.n
  | _ => p.n

/-- An instance that has just begun. -/
def Inst.start (id h k : Nat) (cs : List Contrib) : Inst :=
  { id := id, group := h, k := k, contribs := cs, others := [], firstAt := none, committed := false, written := false,
    writtenAt := 0, result := none, lost := [], acked := [], told := [], bad := [], far := [] }

/-- Start instance k for the issuing thread: its share joins the instance, new or not; of an ended one it is told at
once. -/
def State.collStart (s : State) (h k : Nat) (c : Contrib) : State :=
  let s1 :=
    if s.insts.any (fun i => i.group == h && i.k == k) then
      { s with insts := s.insts.map (fun i => if i.group == h && i.k == k then { i with contribs := i.contribs ++ [c] } else i) }
    else
      { s with insts := s.insts ++ [Inst.start s.nextInst h k [c]],
               nextInst := s.nextInst + 1 }
  match s1.insts.find? (fun i => i.group == h && i.k == k) with
  | some i => s1.tellAll i.id
  | none => s1

/-- Every `coll` word. -/
def State.coll (s : State) (kind : Nat) (ty : ElTy) (r : F5) : Go := do
    let a := s.x r.s1
    let s1 ← s.beginCommand r.d (a.toNat % 64 != 0)
    let (s3, b) ← s1.readBlock a 8
    let c := CollBlk.of b
    let g := s3.liveGroup c.handle
    if !c.ok kind (ty.width / 8) (g.map (fun g => g.members.length)) then .error (s3.refuseCommand r.d .range)
    else
      match g with
      | none => .error (s3.refuseCommand r.d .refused)
      | some g =>
        match s3.rankIn g s3.tid with
        | none => .error (s3.refuseCommand r.d .refused)
        | some rank =>
          if g.closed then .error (s3.refuseCommand r.d .refused)
          else if 4 ≤ (s3.insts.filter (fun i => i.group == c.handle && i.outstanding s3.tid)).length then
            .error (s3.refuseCommand r.d .range)
          else
            let k := (assoc g.seqs rank).getD 0
            let share : Contrib :=
              { rank := rank, loc := s.cur, home := s.tid.1, ctx := s.me.ctx, tag := (s.x r.s2).truncate 32, src := c.src, dst := c.dst,
                rights := s.me.sc.pdrights, params := ⟨kind, ty.code, c.op, c.n, c.root⟩, sent := none, failed := false }
            .ok (((s3.setGroup { g with seqs := assocSet g.seqs rank (k + 1) }).collStart c.handle k share).finish r.d .ok 8)

def execCollAllreduce (ty : ElTy) (r : F5) (s : State) : Res := Go.done (s.coll 0 ty r)
def execCollRedscatter (ty : ElTy) (r : F5) (s : State) : Res := Go.done (s.coll 1 ty r)
def execCollAllgather (ty : ElTy) (r : F5) (s : State) : Res := Go.done (s.coll 2 ty r)
def execCollBcast (ty : ElTy) (r : F5) (s : State) : Res := Go.done (s.coll 3 ty r)
def execCollAlltoall (ty : ElTy) (r : F5) (s : State) : Res := Go.done (s.coll 4 ty r)

/-! ### Contributions (R365, R366) -/

def State.inst (s : State) (id : Nat) : Option Inst := s.insts.find? (fun i => i.id == id)

def Contrib.tid (c : Contrib) : Tid := (c.home, c.ctx)
def State.collView (s : State) (c : Contrib) : View := s.engineView c.loc c.tid c.rights
def State.collAgent (s : State) (c : Contrib) : Agent := s.agentFor c.loc c.tid

/-- Whether every element of a range can be reached for a kind of access. -/
def State.rangeOk (s : State) (v : View) (k : AK) (a : Word) (w n : Nat) : Bool :=
  (List.range n).all (fun i => match s.reachAs v k (a + BitVec.ofNat 64 (i * w)) w with | .ok _ => true | .error _ => false)

/-- A member's engine checks its operands and reads its source. -/
def State.contribute (s : State) (g : Nat) (c : Contrib) : State × Option (List Byte) :=
  let w := c.params.w
  let n := c.params.srcLen g c.rank
  if s.rangeOk (s.collView c) .load c.src w n && s.rangeOk (s.collView c) .store c.dst w (c.params.dstLen g) then
    match s.engBytes (s.collView c) c.src (n * w) with
    | .ok p => (p.1, some p.2)
    | .error _ => (s, none)
  else (s, none)

/-- A contribution of another package arrives. -/
def State.takeContrib (s : State) (h k rank : Nat) (p : CollP) (data : Option (List Byte)) : State :=
  let add (i : Inst) : Inst :=
    match data with
    | some d => { i with others := i.others ++ [(rank, p, d)], firstAt := some (i.firstAt.getD s.cycle) }
    | none => { i with lost := i.lost ++ [rank], firstAt := some (i.firstAt.getD s.cycle) }
  if s.insts.any (fun i => i.group == h && i.k == k) then
    { s with insts := s.insts.map (fun i => if i.group == h && i.k == k then add i else i) }
  else
    { s with insts := s.insts ++ [add (Inst.start s.nextInst h k [])],
             nextInst := s.nextInst + 1 }

/-- The members of the group of an instance. -/
def State.instSize (s : State) (i : Inst) : Nat := ((s.group i.group).map (fun g => g.members.length)).getD 0

/-- The coordinator of an instance's group is this package. -/
def State.coordinates (s : State) (i : Inst) : Bool := (s.group i.group).any (fun g => g.coordinator == s.pkg.toNat)

/-- The source of a rank, if its contribution has come. -/
def Inst.source (i : Inst) (r : Nat) : Option (CollP × List Byte) :=
  match i.contribs.find? (fun c => c.rank == r) with
  | some c => c.sent.map (fun d => (c.params, d))
  | none => (i.others.find? (fun o => o.1 == r)).map (fun o => o.2)

/-- The contributions of all ranks, when they have all come with equal parameters. -/
def Inst.ready (i : Inst) (g : Nat) : Option (CollP × List (List Byte)) :=
  let xs := (List.range g).map i.source
  if 0 < g && xs.all Option.isSome then
    let ys := xs.filterMap (fun x => x)
    match ys with
    | [] => none
    | y :: _ => if ys.all (fun z => z.1 == y.1) then some (y.1, ys.map Prod.snd) else none
  else none

/-- The ranks that make an instance fail before its commit (R365). -/
def State.failing (s : State) (i : Inst) : List Nat :=
  let members := ((s.group i.group).map Group.members).getD []
  let ended := ((s.group i.group).map Group.ended).getD []
  let first := i.source 0
  (List.range members.length).filter (fun r =>
    i.contribs.any (fun c => c.rank == r && c.failed)
    || i.lost.contains r
    || (members[r]?).any (fun m => s.memberEnded m) || ended.contains r
    || (match first, i.source r with | some a, some b => a.1 != b.1 | _, _ => false))

/-- An instance of which nothing has failed commits at the moment its coordinator holds the contributions of all ranks (R365). -/
def State.commitNow (s : State) (h k : Nat) : State :=
  { s with insts := s.insts.map (fun i =>
      if i.group == h && i.k == k && s.coordinates i && i.result.isNone && (s.failing i).isEmpty && (i.ready (s.instSize i)).isSome then
        { i with committed := true }
      else i) }

def execCollContribution (s : State) : Res :=
  match s.pod with
  | .contrib h k rank p d :: rest => .next ((({ s with pod := rest } : State).takeContrib h k rank p d).commitNow h k)
  | _ =>
    match s.inst s.cur with
    | none => .next s
    | some i =>
      match i.contribs.find? (fun c => c.rank == s.sub && c.sent.isNone && !c.failed) with
      | none => .next s
      | some c =>
        if i.result.isSome then .next s
        else
          let r := s.contribute (s.instSize i) c
          let c' := { c with sent := r.2, failed := r.2.isNone }
          let i' := { i with contribs := i.contribs.map (fun x => if x.rank == c.rank then c' else x),
                             firstAt := some (i.firstAt.getD s.cycle) }
          let s1 := r.1.setInst i'
          .next (if s.coordinates i then s1.commitNow i.group i.k
            else
              let coord := ((s.group i.group).map Group.coordinator).getD 0
              { s1 with outs := s1.outs ++ [.pod coord (.contrib i.group i.k c.rank c.params r.2)] })

/-! ### The result (R362, R363) -/

/-- One step of a reduction on FP32 or INT32 patterns. -/
def collStep (flt : Bool) (op a b : Nat) : Nat :=
  let o := match op with | 0 => RedOp.add | 1 => RedOp.max | _ => RedOp.min
  if flt then fltOp fp32 .rne false o a b else intOp true true 32 o a b

/-- The tree of R363 over the elements of all ranks, in rank order. -/
def collReduce (p : CollP) (vs : List Nat) : Nat :=
  let o := match p.op with | 0 => RedOp.add | 1 => RedOp.max | _ => RedOp.min
  let flt := p.ty != 4
  let ident := redIdent flt fp32 true 32 o
  if p.ty == 9 then
    fpBf16.encode .rne false (fp32.decode (treeReduce (collStep true p.op) ident (vs.map (fun v => v * 2 ^ 16))))
  else treeReduce (collStep flt p.op) ident vs

/-- Elements `lo` to `lo + n` of a byte string. -/
def elemsIn (w lo n : Nat) (bs : List Byte) : List Nat :=
  (List.range n).map (fun i => bytesNat ((bs.drop ((lo + i) * w)).take w))

/-- The reduction of block `lo`, element by element. -/
def collBlock (p : CollP) (srcs : List (List Byte)) (lo : Nat) : List Nat :=
  let es := srcs.map (elemsIn p.w lo p.n)
  (List.range p.n).map (fun j => collReduce p (es.map (fun e => e.getD j 0)))

/-- What rank r's destination receives. -/
def collResult (p : CollP) (srcs : List (List Byte)) (r : Nat) : List Nat :=
  match p.kind with
  | 0 => collBlock p srcs 0
  | 1 => collBlock p srcs (r * p.n)
  | 2 => (srcs.map (elemsIn p.w 0 p.n)).flatten
  | 3 => elemsIn p.w 0 p.n (srcs.getD p.root [])
  | _ => (srcs.map (elemsIn p.w (r * p.n) p.n)).flatten

/-- Write elements of `w` bytes one by one; a failing one is dropped. -/
def State.putElems (s : State) (c : Contrib) (w : Nat) (a : Word) : List Nat → State × Bool
  | [] => (s, true)
  | x :: xs =>
    match s.engWrite (s.collView c) (s.collAgent c) a w x with
    | .ok t => t.putElems c w (a + BitVec.ofNat 64 w) xs
    | .error _ => ((s.putElems c w (a + BitVec.ofNat 64 w) xs).1, false)

/-- Write the destination of every local member; ranks whose write failed are noted, and what has gone to other packages. -/
def State.writeResults (s : State) (i : Inst) (res : Nat → Nat → List Nat) : State :=
  let r := i.contribs.foldl (fun (acc : State × List Nat × List (Nat × List Nat)) c =>
    let p := acc.1.putElems c c.params.w c.dst (res c.params.w c.rank)
    let far := acc.1.newWrites p.1
    (p.1, if p.2 then acc.2.1 else acc.2.1 ++ [c.rank], if far.isEmpty then acc.2.2 else acc.2.2 ++ [(c.rank, far)])) (s, [], [])
  r.1.setInst { i with committed := true, written := true, writtenAt := s.cycle, bad := r.2.1, far := r.2.2 }

/-- Once other packages have answered every write of the results, the members whose writes failed there are noted too. -/
def State.settleInst (s : State) (i : Inst) : Option State :=
  if i.far.any (fun p => s.unacked p.2) then none
  else if i.far.isEmpty then some s
  else
    let bad := (i.far.filter (fun p => (s.farFailed p.2).isSome)).map Prod.fst
    some ((s.dropWrites (i.far.flatMap Prod.snd)).setInst { i with bad := i.bad ++ bad, far := [] })

/-- Least of some ranks. -/
def lowest (l : List Nat) : Nat := l.foldl min (l.headD 0)

/-- The ranks of an instance that lie in other packages. -/
def State.awayRanks (s : State) (i : Inst) : List Nat :=
  let g := ((s.group i.group).map Group.members).getD []
  (List.range g.length).filter (fun r => (g[r]?).any (fun m => !s.isLocal m))

/-- Tell the other packages of an instance's group something. -/
def State.tellGroup (s : State) (i : Inst) (m : PodMsg) : State :=
  match s.group i.group with
  | some g => s.tellOthers g m
  | none => s

/-- Tell the packages of an instance's group that have no lost rank something. -/
def State.tellReached (s : State) (i : Inst) (m : PodMsg) : State :=
  let members := ((s.group i.group).map Group.members).getD []
  let gone := i.lost.filterMap (fun r => (members[r]?).map (fun x => pkgOf x.locid))
  let ps := (members.map (fun x => pkgOf x.locid)).eraseDups.filter (fun p => p != s.pkg.toNat && !gone.contains p)
  { s with outs := s.outs ++ ps.map (fun p => .pod p m) }

/-- The instance ends OK once its results are written here and every member of another package has answered or is lost; those reached
learn which were lost (R365). -/
def State.collFinish (s0 : State) (id : Nat) : State :=
  match (s0.inst id).bind s0.settleInst with
  | none => s0
  | some s =>
    match s.inst id with
    | none => s
    | some i =>
      if i.written && i.result.isNone && (s.awayRanks i).all (fun r => i.acked.contains r || i.lost.contains r) then
        ((s.setInst { i with result := some (Status.ok.byte, i.lost.length, lowest i.lost) }).tellReached i
          (.collEnd i.group i.k Status.ok.byte i.lost.length (lowest i.lost))).tellAll id
      else s

/-- The results for the members of other packages. -/
def State.sendResults (s : State) (i : Inst) (p : CollP) (srcs : List (List Byte)) : State :=
  let away := s.awayRanks i
  if away.isEmpty then s
  else s.tellGroup i (.collData i.group i.k (away.map (fun r => (r, ((collResult p srcs r).map (natBytes p.w)).flatten))))

/-- The members here have written their destinations: the coordinator in another package learns it once. -/
def State.ackResults (s0 : State) (id : Nat) : State :=
  match (s0.inst id).bind s0.settleInst with
  | none => s0
  | some s =>
    match s.inst id with
    | none => s
    | some i =>
      if !i.written || !i.acked.isEmpty then s
      else
        let coord := ((s.group i.group).map Group.coordinator).getD 0
        let ranks := i.contribs.map Contrib.rank
        { (s.setInst { i with acked := ranks }) with outs := s.outs ++ ranks.map (fun r => .pod coord (.acked i.group i.k r)) }

/-- Results of another package's coordinator: written, and acknowledged for every member here (R365). -/
def State.takeData (s : State) (h k : Nat) (data : List (Nat × List Byte)) : State :=
  match s.insts.find? (fun i => i.group == h && i.k == k) with
  | none => s
  | some i =>
    let out (w r : Nat) : List Nat := let bs := (assoc data r).getD []; elemsIn w 0 (bs.length / w) bs
    (s.writeResults i out).ackResults i.id

/-- An end decided by another package's coordinator: members told, those that issue later too (R365). -/
def State.takeEnd (s : State) (h k : Nat) (st : BitVec 8) (count named : Nat) : State :=
  let s1 : State :=
    if s.insts.any (fun i => i.group == h && i.k == k) then s
    else { s with insts := s.insts ++ [Inst.start s.nextInst h k []], nextInst := s.nextInst + 1 }
  match s1.insts.find? (fun i => i.group == h && i.k == k) with
  | none => s1
  | some i => if i.result.isSome then s1 else (s1.setInst { i with result := some (st, count, named) }).tellAll i.id

/-- A member of another package has written its destination. One that had been given up learns that it was lost (R365). -/
def State.takeAck (s : State) (h k r : Nat) : State :=
  match s.insts.find? (fun i => i.group == h && i.k == k) with
  | none => s
  | some i =>
    if i.result.isSome then
      match (s.group h).bind (fun g => g.members[r]?) with
      | some m => if i.lost.contains r then { s with outs := s.outs ++ [.pod (pkgOf m.locid) (.reached h k [])] } else s
      | none => s
    else (s.setInst { i with acked := i.acked ++ [r] }).collFinish i.id

/-- An instance that has committed writes the destinations and ends (R365). -/
def execCollCommit (s : State) : Res :=
  match s.pod with
  | .collData h k d :: rest => .next (({ s with pod := rest } : State).takeData h k d)
  | .collEnd h k st count named :: rest => .next (({ s with pod := rest } : State).takeEnd h k st count named)
  | .acked h k r :: rest => .next (({ s with pod := rest } : State).takeAck h k r)
  | _ =>
    match s.inst s.cur with
    | none => .next s
    | some i =>
      if i.result.isSome then .next s
      else if !s.coordinates i then .next (s.ackResults i.id)
      else
        match i.ready (s.instSize i) with
        | none => .next s
        | some (p, srcs) =>
          if !i.committed then .next (s.commitNow i.group i.k)
          else if !i.written then
            .next (((s.writeResults i (fun _ r => collResult p srcs r)).sendResults i p srcs).collFinish i.id)
          else .next (s.collFinish i.id)

/-! ### Ends without a result (R365, R367) -/

/-- End an uncommitted instance everywhere. -/
def State.collStop (s : State) (i : Inst) (st : Status) (ranks : List Nat) : State :=
  ((s.setInst { i with result := some (st.byte, ranks.length, lowest ranks) }).tellGroup i
    (.collEnd i.group i.k st.byte ranks.length (lowest ranks))).tellAll i.id

/-- Whether an instance has neither committed nor ended. -/
def Inst.open (i : Inst) : Bool := !i.committed && i.result.isNone

/-- The oldest of some instances of a group that has not committed or ended; one that nobody else has begun is begun. -/
def State.oldestOpen (s : State) (h : Nat) (ks : List Nat) : Option (State × Inst) :=
  let found (k : Nat) : Option Inst := s.insts.find? (fun i => i.group == h && i.k == k)
  match ks.filter (fun k => match found k with | some i => i.open | none => true) with
  | [] => none
  | k0 :: r =>
    let k := r.foldl min k0
    match found k with
    | some i => some (s, i)
    | none =>
      let i := Inst.start s.nextInst h k []
      some ({ s with insts := s.insts ++ [i], nextInst := s.nextInst + 1 }, i)

/-- A member of another package asks to abort the oldest uncommitted of the instances it has issued: the answer goes back (R367). -/
def State.farCancel (s : State) (h r num : Nat) (ks : List Nat) : State :=
  let m := ((s.group h).bind (fun g => g.members[r]?)).getD ⟨0, 0, 0, 0⟩
  let answer (t : State) (st : Status) : State :=
    { t with outs := t.outs ++ [.pod (pkgOf m.locid) (.cancelled h r num st.byte)] }
  match s.oldestOpen h ks with
  | some p => answer (p.1.collStop p.2 .abort [r]) .ok
  | none => answer s (if s.insts.any (fun i => i.group == h && ks.contains i.k && i.committed) then .late else .range)

def execCollAbort (s : State) : Res :=
  match s.pod with
  | .cancel h r num ks :: rest => .next (({ s with pod := rest } : State).farCancel h r num ks)
  | .cancelled h r num st :: rest =>
    let s1 : State := { s with pod := rest }
    let loc := (((s1.group h).bind (fun g => g.members[r]?)).bind (fun m => s1.locOf m.tid)).getD 4096
    match (s1.slot loc).wait with
    | some w =>
      if w.kind == .cancel && w.blk == some num then
        .next (s1.expire loc { w.exp with xs := w.exp.xs.map (fun p => (p.1, st.zeroExtend 64)) })
      else .next s1
    | none => .next s1
  | _ =>
    match s.inst s.cur with
    | none => .next s
    | some i =>
      if i.result.isSome || i.committed || !s.coordinates i || (s.failing i).isEmpty then .next s
      else .next (s.collStop i .abort (s.failing i))

/-- The group timeout, counted from the first contribution, expires before commit (R365). -/
def execCollGroupTimeout (s : State) : Res :=
  match s.inst s.cur with
  | none => .next s
  | some i =>
    let limit := ((s.group i.group).map Group.timeout).getD (2 ^ 24)
    match i.firstAt with
    | none => .next s
    | some t =>
      if i.result.isSome || i.committed || !s.coordinates i || s.cycle < t + limit then .next s
      else .next (s.collStop i .timeout ((List.range (s.instSize i)).filter (fun r => (i.source r).isNone)))

/-- Ranks of an instance are lost. -/
def State.loseRanks (s : State) (i : Inst) (rs : List Nat) : State :=
  (s.setInst { i with lost := i.lost ++ rs.filter (fun r => !i.lost.contains r) }).collFinish i.id

/-- Members of another package are lost: their link says so, or they do not answer within the group timeout after the results went
out (R365). -/
def execCollMemberLost (s : State) : Res :=
  match s.pod with
  | .lost h k r :: rest =>
    let s1 : State := { s with pod := rest }
    match s1.insts.find? (fun i => i.group == h && i.k == k && i.result.isNone) with
    | some i => .next (s1.loseRanks i [r])
    | none => .next s1
  | _ =>
    match s.inst s.cur with
    | none => .next s
    | some i =>
      let limit := ((s.group i.group).map Group.timeout).getD (2 ^ 24)
      if i.written && i.result.isNone && s.coordinates i && i.writtenAt + limit ≤ s.cycle then
        .next (s.loseRanks i ((s.awayRanks i).filter (fun r => !i.acked.contains r)))
      else .next s

/-- Each byte of a lost member's destination holds its old value or the result (R365, log 9). -/
def State.mixBytes (s : State) (c : Contrib) (a : Word) : List Byte → State
  | [] => s
  | b :: bs =>
    let s1 := if bitW (Config.freeWord s.fresh) 0 then s
      else match s.engWrite (s.collView c) (s.collAgent c) a 1 b.toNat with | .ok t => t | .error _ => s
    ({ s1 with fresh := s.fresh + 1 } : State).mixBytes c (a + 1) bs

/-- This package was lost after commit and is reached again: its members complete with LOST (R365). -/
def execLostMemberReached (s : State) : Res :=
  match s.pod with
  | .reached h k d :: rest =>
    let s1 : State := { s with pod := rest }
    match s1.insts.find? (fun i => i.group == h && i.k == k) with
    | none => .next s1
    | some i =>
      if i.result.isSome then .next s1
      else
        let s2 := i.contribs.foldl (fun u c => u.mixBytes c c.dst ((assoc d c.rank).getD [])) s1
        .next ((s2.setInst { i with committed := true, result := some (Status.lost.byte, 0, 0) }).tellAll i.id)
  | _ => .next s

/-- R367. -/
def execCollCancel (xd xh : BitVec 5) (s : State) : Res :=
  let h := (s.x xh).toNat % 2 ^ 16
  let exp : Expiry := { xs := [(xd, Status.timeout.word)], len := 8 }
  if s.waiting .cancel then .next (s.waitFor .cancel s.waitlim exp (s.me.wait.bind Wait.blk))
  else
    match (s.liveGroup h).bind (fun g => (s.rankIn g s.tid).map (fun r => (g, r))) with
    | none => .next (s.finish xd .range 8)
    | some (g, r) =>
      let mine := s.insts.filter (fun i => i.group == h && i.result.isNone && i.outstanding s.tid)
      if g.dropped.contains r || mine.isEmpty then .next (s.finish xd .range 8)
      else if g.coordinator != s.pkg.toNat then
        .next (({ s with outs := s.outs ++ [.pod g.coordinator (.cancel h r s.nextInst (mine.map Inst.k))], nextInst := s.nextInst + 1 } :
          State).waitFor .cancel s.waitlim exp (some s.nextInst))
      else
        match mine.find? (fun i => !i.committed && mine.all (fun j => j.committed || i.k ≤ j.k)) with
        | some i => .next ((s.collStop i .abort [r]).finish xd .ok 8)
        | none => .next (s.finish xd .late 8)

end Sys2Proof.Machine
end

