-- ==== Sys2Proof/Machine/Regions.lean ====
section
/-! DEFINITION. What the nodes of a region share: tokens and tags (R183), channels and credits (R184, R185, R188),
per-frame state (R182, R220), speculation (R193), the end of a frame (R29, R203, R238) and fabric traps (R377, R378). -/

namespace Sys2Proof.Machine

/-! ### Regions, nodes and frame slots -/

def State.region (s : State) (n : Nat) : Option Region := s.regions.find? (fun r => r.num == n)
def State.modRegion (s : State) (n : Nat) (f : Region → Region) : State :=
  { s with regions := s.regions.map (fun r => if r.num == n then f r else r) }
def State.setRegion (s : State) (r : Region) : State := s.modRegion r.num (fun _ => r)

/-- The die of a region (R111). -/
def Region.die (r : Region) : Nat := r.num / 32
def Region.node? (r : Region) (id : Nat) : Option NodeRec := r.nodes.find? (fun n => n.id == id)
def Region.fslot (r : Region) (f : Nat) : FSlot := r.slots.getD f FSlot.free
def Region.setFslot (r : Region) (f : Nat) (x : FSlot) : Region := { r with slots := r.slots.set f x }
def Region.modFslot (r : Region) (f : Nat) (g : FSlot → FSlot) : Region := r.setFslot f (g (r.fslot f))

/-- The four frame slots of a region at load (R203). -/
def freeSlots : List FSlot := List.replicate 4 FSlot.free

/-- The frame slots that hold a frame. -/
def Region.live (r : Region) : List Nat := (List.range 4).filter (fun f => (r.fslot f).st != .free)

/-- A field of a number. -/
def field (v lo n : Nat) : Nat := v / 2 ^ lo % 2 ^ n

/-- Word `i` of a node's parameter block. -/
def NodeRec.par (n : NodeRec) (i : Nat) : Nat := bytesNat ((n.params.drop (8 * i)).take 8)

/-- The physical cluster of an element (R110, R111). -/
def Region.clusterOf (r : Region) (n : NodeRec) : Nat :=
  r.die * 32 + (r.num % 32 / 8 + n.row / 8) * 8 + (r.num % 8 + n.col / 8)

/-- A node as a writer (R305): the slice interface lies at columns 1, 3, 5 and 7 of its cluster. -/
def Region.agent (r : Region) (n : NodeRec) (fs : Nat) : Agent :=
  Agent.ofFrame (r.fslot fs).id (r.clusterOf n) (n.col % 8 / 2)

/-- A frame's accesses: its die, its rights table (R247) and the limit of its waits (R246). -/
def Region.frameView (r : Region) (f : FSlot) : View :=
  { die := r.die, core := none, rights := f.rights, who := frameAgent f.id, limit := f.limit }
/-- The accesses of a node of a frame. -/
def Region.view (r : Region) (fs node : Nat) : View :=
  { r.frameView (r.fslot fs) with who := nodeNo (r.fslot fs).id node }

/-- The Imposer's writes for a frame, by an interface of the corner cluster. -/
def Region.base (r : Region) (f : FSlot) : Agent := Agent.ofFrame f.id r.num 0

/-! ### Tags and tokens (R183) -/

def tagFs (t : BitVec 15) : Nat := t.toNat % 4
def tagSeq (t : BitVec 15) : Nat := t.toNat / 4 % 256
def tagErr (t : BitVec 15) : Bool := bitOf t.toNat 10
def tagDims (t : BitVec 15) : Nat := t.toNat / 2 ^ 11

def mkTag (dims : Nat) (err : Bool) (seq fs : Nat) : BitVec 15 :=
  BitVec.ofNat 15 (dims % 16 * 2 ^ 11 + err.toNat * 2 ^ 10 + seq % 256 * 4 + fs % 4)

/-- A tag with its error bit set when a condition holds. -/
def orErr (t : BitVec 15) (e : Bool) : BitVec 15 := mkTag (tagDims t) (tagErr t || e) (tagSeq t) (tagFs t)

/-- What a control token carries of a tag: its sequence tag and frame slot. -/
def ctlTag (t : BitVec 15) : BitVec 15 := mkTag 0 false (tagSeq t) (tagFs t)

/-- Lanes of 512 bits where a mask is set, zero elsewhere (R208). -/
def maskLanes (v : Nat) (m : BitVec 16) : Nat := buildElems 32 16 (fun i => if m.getLsbD i then elemOf 32 v i else 0)

def scalarTok (v : Nat) (tag : BitVec 15) : Token := ⟨.scalar, BitVec.ofNat _ (v % 2 ^ 64), 0, tag⟩
def vectorTok (v : Nat) (m : BitVec 16) (tag : BitVec 15) : Token := ⟨.vector, BitVec.ofNat _ (maskLanes v m), m, tag⟩
def controlTok (v : Nat) (tag : BitVec 15) : Token := ⟨.control, BitVec.ofNat _ (v % 2), 0, ctlTag tag⟩

/-- The class of a port (R74). -/
def portCls (p : Nat) : TokCls := if p < 4 then .scalar else if p < 8 then .vector else .control

/-- A value as the token a port of its class carries. -/
def tokFor (p v : Nat) (m : BitVec 16) (tag : BitVec 15) : Token :=
  match portCls p with
  | .scalar => scalarTok v tag
  | .vector => vectorTok v m tag
  | .control => controlTok v tag

def allLanes16 : BitVec 16 := 0xFFFF

/-! ### Channels (R184, R185) -/

/-- Whether a channel entry belongs to a port and a frame slot. -/
def atPort (node port fs : Nat) (e : Nat × Nat × Token) : Bool := e.1 == node && e.2.1 == port && tagFs e.2.2.tag == fs

/-- The head of a port for a frame slot. -/
def Region.head (r : Region) (node port fs : Nat) : Option Token :=
  (r.chan.find? (atPort node port fs)).map (fun e => e.2.2)

/-- Remove the head: its entry is owed to the producer as a credit (R188). -/
def Region.take (r : Region) (node port fs : Nat) : Region :=
  if r.chan.any (atPort node port fs) then
    { r with chan := dropFirst (atPort node port fs) r.chan, owed := r.owed ++ [(node, port)] }
  else r

def Region.takeAll (r : Region) (node fs : Nat) (ports : List Nat) : Region :=
  ports.foldl (fun q p => q.take node p fs) r

/-- Whether some edge arrives at an input port. -/
def Region.fed (r : Region) (node port : Nat) : Bool :=
  r.nodes.any (fun n => n.edges.any (fun e => e.node == node && e.inPort == port))

/-- The edges of an output port in a context. -/
def NodeRec.outs (n : NodeRec) (ctx port : Nat) : List Edge := n.edges.filter (fun e => e.port == port && e.ctx == ctx)
def NodeRec.drives (n : NodeRec) (port : Nat) : Bool := n.edges.any (fun e => e.port == port)

/-- The channels into which a request may answer: one entry for each edge. -/
def Region.answers (r : Region) (q : MReq) : List (Nat × Nat) :=
  if q.op == 17 then [] else ((r.node? q.node).map (fun n => n.edges.map (fun e => (e.node, e.inPort)))).getD []

/-- Frame slots for which requests under way will send tokens into a channel; an entry is kept for each edge (R184, R379). -/
def Region.promised (r : Region) (node port : Nat) : List Nat :=
  r.reqs.flatMap (fun q => ((r.answers q).filter (· == (node, port))).map (fun _ => q.fs))

/-- Entries of a channel in use: held, on the way, owed as credits, or promised. -/
def Region.used (r : Region) (node port : Nat) : Nat :=
  let here (e : Nat × Nat × Token) : Bool := e.1 == node && e.2.1 == port
  r.chan.countP here + r.flight.countP here + r.owed.countP (fun o => o == (node, port)) + (r.promised node port).length

def Region.holds (r : Region) (node port fs : Nat) : Bool :=
  r.chan.any (atPort node port fs) || r.flight.any (atPort node port fs) || (r.promised node port).contains fs

/-- Whether a channel has an entry it may give to a frame: never the last one while another live frame holds none. -/
def Region.room (r : Region) (node port fs : Nat) : Bool :=
  let u := r.used node port
  u + 1 < 4 || (u < 4 && r.live.all (fun g => g == fs || r.holds node port g))

/-- Whether channels have room for tokens of a frame slot, one after another. -/
def Region.takesAll (r : Region) (fs : Nat) : List (Nat × Nat) → Bool
  | [] => true
  | c :: cs =>
    r.room c.1 c.2 fs &&
      ({ r with flight := r.flight ++ [(c.1, c.2, controlTok 0 (mkTag 0 false 0 fs))] } : Region).takesAll fs cs

/-- Whether every edge of some output ports has room, two edges into one channel for two tokens. -/
def Region.canSend (r : Region) (n : NodeRec) (ctx fs : Nat) (ports : List Nat) : Bool :=
  r.takesAll fs (ports.flatMap (fun p => (n.outs ctx p).map (fun e => (e.node, e.inPort))))

/-- A token leaves on every edge of an output port. -/
def Region.send (r : Region) (n : NodeRec) (ctx port : Nat) (t : Token) : Region :=
  { r with flight := r.flight ++ (n.outs ctx port).map (fun e => (e.node, e.inPort, t)) }

/-- The bits of a 10-bit port mask. -/
def portsOf (m : Nat) : List Nat := (List.range 10).filter (bitOf m)

/-! ### Per-frame state (R182, R220) -/

def Region.ereg (r : Region) (node fs : Nat) : Option EReg := r.eregs.find? (fun e => e.node == node && e.fs == fs)
def Region.setEreg (r : Region) (x : EReg) : Region :=
  { r with eregs := r.eregs.map (fun e => if e.node == x.node && e.fs == x.fs then x else e) }

def Region.nst (r : Region) (node fs : Nat) : NSt :=
  ((r.nsts.find? (fun e => e.node == node && e.fs == fs)).map NodeSt.st).getD .none
def Region.setNst (r : Region) (node fs : Nat) (x : NSt) : Region :=
  if r.nsts.any (fun e => e.node == node && e.fs == fs) then
    { r with nsts := r.nsts.map (fun e => if e.node == node && e.fs == fs then { e with st := x } else e) }
  else { r with nsts := r.nsts ++ [⟨node, fs, x⟩] }

/-- The context in which a node stands for a frame: its first one, or the current phase of an element (R190). -/
def Region.phase (r : Region) (n : NodeRec) (fs : Nat) : Nat := ((r.ereg n.id fs).map EReg.phase).getD n.ctx0

/-- Whether an element may fire: no node on it has faulted (R204). -/
def Region.elementOk (r : Region) (n : NodeRec) : Bool :=
  !r.faulted.any (fun id => (r.node? id).any (fun m => m.row == n.row && m.col == n.col))

/-- Whether a region fires (R205). -/
def Region.fires (r : Region) : Bool := r.st == .running

/-- The base selector (R224): an argument register of the frame as it was when the frame opened. -/
def FSlot.based (f : FSlot) (base bsel : Nat) : Word :=
  if bitOf bsel 7 then BitVec.ofNat 64 ((base + (f.args.getD (bsel % 8) 0).toNat) % 2 ^ 56) else BitVec.ofNat 64 base

/-! ### Loops and speculation (R191, R193) -/

def NodeRec.loopW (n : NodeRec) : Nat := field (n.par 0) 0 4
def NodeRec.loopD (n : NodeRec) : Nat := field (n.par 0) 4 8
def NodeRec.loopFixed (n : NodeRec) : Bool := bitOf (n.par 0) 12
def NodeRec.loopCarries (n : NodeRec) : List Nat := (List.range 6).filter (fun j => bitOf (n.par 0) (16 + j))
def NodeRec.loopCount (n : NodeRec) : Nat := n.par 0 / 2 ^ 32
def NodeRec.loopBody (n : NodeRec) : List Nat :=
  let at0 := 24 + 64 * n.loopCarries.length
  (List.range (field (n.par 2) 0 12)).map (fun i => bytesNat ((n.params.drop (at0 + 2 * i)).take 2))

/-- The iteration in flight that a sequence tag names. -/
def LoopSt.iter (l : LoopSt) (seq : Nat) : Option Nat :=
  ((List.range (l.next - l.oldest)).map (fun i => l.oldest + i)).find? (fun i => i % 256 == seq)

/-- Whether an iteration has delivered exit 0. -/
def LoopSt.passed (l : LoopSt) (i : Nat) : Bool := l.exits.contains (i, false)

/-- Whether an iteration is speculative (R193). -/
def LoopSt.speculative (l : LoopSt) (i : Nat) : Bool :=
  ((List.range (i - l.oldest)).map (fun k => l.oldest + k)).any (fun k => !l.passed k)

/-- Whether the work of a node under a sequence tag belongs to a speculative iteration of a loop whose body names it. -/
def Region.speculative (r : Region) (node fs seq : Nat) : Bool :=
  r.nodes.any (fun n => n.kind == 4 && !n.loopFixed && n.loopBody.contains node &&
    (match r.nst n.id fs with
     | .loop l => l.active && (l.iter seq).any l.speculative
     | _ => false))

/-! ### Special nodes at work -/

/-- A special node of a running frame that may fire (R185, R220). -/
structure Fire where
  r : Region
  n : NodeRec
  fs : Nat
  deriving DecidableEq, Repr

def Fire.slot (f : Fire) : FSlot := f.r.fslot f.fs
def Fire.head (f : Fire) (port : Nat) : Option Token := f.r.head f.n.id port f.fs
def Fire.fed (f : Fire) (port : Nat) : Bool := f.r.fed f.n.id port
def Fire.can (f : Fire) (ports : List Nat) : Bool := f.r.canSend f.n 0 f.fs ports
def Fire.st (f : Fire) : NSt := f.r.nst f.n.id f.fs
def Fire.set (f : Fire) (x : NSt) : Fire := { f with r := f.r.setNst f.n.id f.fs x }
def Fire.take (f : Fire) (port : Nat) : Fire := { f with r := f.r.take f.n.id port f.fs }
def Fire.send (f : Fire) (port : Nat) (t : Token) : Fire := { f with r := f.r.send f.n 0 port t }
/-- A tag that names no head. -/
def Fire.fresh (f : Fire) : BitVec 15 := mkTag 0 false 0 f.fs
def Fire.speculative (f : Fire) (t : BitVec 15) : Bool := f.r.speculative f.n.id f.fs (tagSeq t)
def Fire.view (f : Fire) : View := f.r.view f.fs f.n.id
def Fire.agent (f : Fire) : Agent := f.r.agent f.n f.fs

/-- The node of the site, whatever the state of its frame. -/
def State.siteNode (s : State) : Option Fire :=
  match s.region s.site.rgn with
  | none => none
  | some r => (r.node? s.site.node).map (fun n => ⟨r, n, s.site.fs⟩)

/-- The node of the site, if it is of a kind and its frame, its element and its region fire (R185, R204, R205). -/
def State.candidate (s : State) (kind : Nat) : Option Fire :=
  match s.siteNode with
  | none => none
  | some f =>
    if f.r.fires && f.n.kind == kind && f.slot.st == .running && f.r.elementOk f.n then some f else none

/-- The number of a node's element in its region. -/
def NodeRec.elem (n : NodeRec) : Nat := n.row * 256 + n.col

/-- The frame of a site has fired: it is not stalled (R199), and its element records the pair (R185). -/
def State.fired (s : State) (x : Site) : State :=
  s.modRegion x.rgn (fun r => { r with
    slots := r.slots.mapIdx (fun i f => if i == x.fs then { f with stallFrom := none } else f),
    last := match r.node? x.node with
      | some n => (r.last.filter (fun l => l.1 != n.elem)) ++ [(n.elem, n.ctx0, x.fs)]
      | none => r.last })

/-- A step of a node at the site: nothing happens where the node is no candidate or its condition fails. -/
def State.atNode (s : State) (kind : Nat) (k : Fire → Option State) : Res :=
  match s.candidate kind with
  | none => .next s
  | some f =>
    match k f with
    | none => .next s
    | some t => .next (t.fired s.site)

/-- The state with the region as a firing left it. -/
def Fire.put (f : Fire) (s : State) : State := s.setRegion f.r

/-! ### The end of a frame (R29, R203, R238) -/

/-- A release by a frame (R300, R338, R343): update packets that hold its writes are closed and, for subscribers inside the scope,
applied; those at other packages are closed (R298). -/
def State.releaseFrame (s : State) (id : Nat) (sc : Scope) (core : Nat) : State :=
  (s.flushSubs (fun b => b.holds (frameAgent id)) (sameInstance (if sc == .core then .clu else sc) core)).releaseFar
    (frameAgent id) false 0

/-- Bytes of a frame from 0x20 on, up to its reserved bytes (R28). -/
def FrameBuf.bytes (b : FrameBuf) : List Byte :=
  (b.a.toList.map (fun w => natBytes 8 w.toNat)).flatten ++ (b.fa.toList.map (fun w => natBytes 8 w.toNat)).flatten
    ++ (b.v.toList.map (fun v => natBytes 128 v.toNat)).flatten

/-- `n` bytes at offset `off` of a frame as a number; the cause where memory answers with a fault. One that the Imposer keeps lies at
a physical address (R237, log 38). -/
def State.frameGet (s : State) (v : View) (f : FSlot) (off n : Nat) : Except (Word × Nat) (State × Nat) :=
  if f.own then .ok (s, s.mem.read (f.act.toNat + off) n)
  else (s.engBytes v (f.act + BitVec.ofNat 64 off) n).map (fun p => (p.1, bytesNat p.2))

/-- The registers a frame returns under a mask (R25, R27), in the order a0, a1, fa0, fa1 and lanes 0 to 15 of v8 and v9. -/
def State.results (s : State) (v : View) (f : FSlot) (mask : Nat) : List Word :=
  let get (off n : Nat) : Nat := match s.frameGet v f off n with | .ok p => p.2 | .error _ => 0
  let one (bit off : Nat) : List Word := [BitVec.ofNat 64 (if bitOf mask bit then get off 8 else 0)]
  let vec (bit off : Nat) : List Word := (elemsOf 64 (if bitOf mask bit then get off 64 else 0) 8).map (BitVec.ofNat 64)
  one 0 0x20 ++ one 1 0x28 ++ one 2 0x60 ++ one 3 0x68 ++ vec 4 0x0A0 ++ vec 5 0x120

/-- A call's status and results at its node. -/
def NSt.answered (st : BitVec 8) (ws : List Word) : NSt → NSt
  | .call true e tag fr args Option.none since => .call true e tag fr args (some (st, ws)) since
  | y => y

/-- A status and results reach the `call` node of frame `frame` of a region: resident and suspended, which then runs (R203), or
spilled. -/
def Region.answerCall (r : Region) (node frame : Nat) (st : BitVec 8) (ws : List Word) : Region :=
  let r1 := (List.range 4).foldl (fun q fs =>
    if (q.fslot fs).id == frame && (q.fslot fs).st == .suspended then
      (q.setNst node fs ((q.nst node fs).answered st ws)).modFslot fs (fun f => { f with st := .running })
    else q) r
  { r1 with spilled := r1.spilled.map (fun p =>
      if p.slot.id == frame then
        { p with nsts := p.nsts.map (fun e => if e.node == node then { e with st := e.st.answered st ws } else e) }
      else p) }

/-- A status and results reach the `call` node of a frame, wherever the frame is (R31, R236). -/
def State.answerCall (s : State) (node frame : Nat) (st : BitVec 8) (ws : List Word) : State :=
  { s with regions := s.regions.map (fun r => r.answerCall node frame st ws),
           scanned := s.scanned.map (fun r => r.answerCall node frame st ws) }

/-- A work unit of a job has ended (R396, R397, R399). -/
def State.endUnit (s : State) (job unit : Nat) (st : BitVec 8) : State :=
  { s with jobs := s.jobs.map (fun j =>
      if j.id == job then
        { j with live := j.live.filter (fun l => l.1 != unit),
                 ended := if j.ended.any (fun e => e.1 == unit) then j.ended else j.ended ++ [(unit, st)] }
      else j) }

/-- The final status is written into a frame (R238): not where the place of a spilled one is another's by now (R237). -/
def State.putStatus (s : State) (r : Region) (f : FSlot) (st : BitVec 8) : State :=
  if f.own then
    if r.slots.any (fun g => g.st != .free && g.act == f.act) then s else s.put (r.base f) (.dram (f.act.toNat + 0x17)) [st]
  else (s.engPut (r.frameView f) (r.base f) (f.act + 0x17) [st]).1

/-- The return of R29: the final status, the release, and the news to whoever called. -/
def State.frameReturn (s : State) (r : Region) (f : FSlot) (st : BitVec 8) : State :=
  let v := r.frameView f
  let s1 := s.putStatus r f st
  let s2 := s1.releaseFrame f.id .pkg (r.num * 8)
  match f.caller with
  | .none => s2
  | .thread home ctx =>
    let tag := match s2.engRead v (f.act + 4) 4 with | .ok p => p.2 | .error _ => 0
    { s2 with arrivals := s2.arrivals ++ [(home, ctx, ⟨1, st, 0, BitVec.ofNat 32 tag, f.act⟩)] }
  | .node node id => s2.answerCall node id st (s2.results v f r.retMask.toNat)
  | .launch job unit => s2.endUnit job unit st

/-- What remains of a region's tokens and requests when a frame ends: no token of the frame, and no request that is held.
Requests already issued complete (R203, R204, R238). -/
def Region.discard (r : Region) (fs : Nat) : Region :=
  let mine (e : Nat × Nat × Token) : Bool := tagFs e.2.2.tag == fs
  let freed := (r.chan.filter mine).map (fun e => (e.1, e.2.1)) ++ (r.flight.filter mine).map (fun e => (e.1, e.2.1))
  let issued (q : MReq) : Bool :=
    q.st == .sent || q.st == .waiting && !((q.op == 2 || (4 ≤ q.op && q.op ≤ 6)) && r.speculative q.node fs (tagSeq q.tag))
  { r with
    chan := r.chan.filter (fun e => !mine e), flight := r.flight.filter (fun e => !mine e), owed := r.owed ++ freed,
    nsts := r.nsts.filter (fun e => e.fs != fs), reqs := r.reqs.filter (fun q => q.fs != fs || issued q) }

/-- A frame enters ENDING with a status (R203, R238); its return follows once its issued requests have been performed (R29). -/
def Region.ending (r : Region) (fs : Nat) (st : BitVec 8) : Region :=
  (r.discard fs).setFslot fs { r.fslot fs with st := .ending, endStatus := st, endWait := true }

def State.endFrame (s : State) (rgn fs : Nat) (st : BitVec 8) : State :=
  match s.region rgn with
  | none => s
  | some r =>
    let f := r.fslot fs
    if f.st == .free || f.st == .ending then s
    else s.setRegion (r.ending fs st)

/-! ### Fabric traps (R377, R378) -/

/-- The frame status of a fabric cause (R377). -/
def fabStatus : Nat → Status
  | 0x05 => .timeout | 0x06 => .boundExceeded | 0x09 => .refused | 0x0C => .timeout | _ => .fault

/-- Causes that name an element which then stops firing (R204). -/
def faultsElement (cause : Nat) : Bool := (1 ≤ cause && cause ≤ 6) || cause == 0x0D

/-- The fabric cause of a failed access. -/
def fabCause (c : Nat) : Nat :=
  if c == 12 || c == 13 || c == 15 then 1 else if c == causeRaw then 3 else if c == causeRemote then 0xD else 2

/-- What a fabric trap reports. -/
structure FabInfo where
  cause : Nat
  va : Word := 0
  ord : Nat := 0
  wave : Nat := 0
  status : Option (BitVec 8) := none
  deriving DecidableEq, Repr

/-- The unordered requests of the boundary wave (R202): whether performed, and the node. -/
def Region.unordered (r : Region) (fs wave : Nat) : List (Bool × Nat) :=
  ((((r.waves.find? (fun w => w.fs == fs && w.wave == wave)).map WaveSt.udone).getD []).map (fun n => (true, n))
    ++ (r.reqs.filter (fun q => q.fs == fs && q.wave == wave && !q.ordered && q.st != .performed)).map
        (fun q => (false, q.node))).take 16

/-- The record of a trap (R378). -/
def Region.trapRecord (r : Region) (node fs : Nat) (i : FabInfo) (st : BitVec 8) (tick : Word) : FTrap :=
  let n := r.node? node
  { site := (r.num, node, fs), row := (n.map NodeRec.row).getD 0, col := (n.map NodeRec.col).getD 0,
    ctx := (n.map (fun m => r.phase m fs)).getD 0, status := st, cause := BitVec.ofNat 8 i.cause, va := i.va, ord := i.ord,
    wave := i.wave, frame := (r.fslot fs).act,
    word := if n.any (fun m => m.kind == 0) then ((r.ereg node fs).map EReg.lastWord).getD 0 else 0, tick := tick,
    hash := r.hash, unord := if i.cause == 1 then r.unordered fs i.wave else [],
    heads := (List.range 10).map (fun p => r.head node p fs) }

/-- The region's first trap record is kept, and the service thread is to be told of it while it has not been (R377). -/
def State.noteTrap (s : State) (r : Region) (rec1 : FTrap) : State :=
  let s1 := s.setRegion { r with trap := some (r.trap.getD rec1) }
  if bitW (s.die r.die).ftsvc 63 && !(r.trap.any FTrap.delivered) then
    s1.modDie r.die (fun d =>
      { d with ftPending := if d.ftPending.contains r.num then d.ftPending else d.ftPending ++ [r.num] })
  else s1

/-- A fabric trap at a node for a frame: the first record is kept, the service thread is told, and the region freezes
for a page fault that is served, or the frame ends (R30, R377). A drain discards it (R384). -/
def State.fabTrap (s : State) (rgn node fs : Nat) (i : FabInfo) : State :=
  match s.region rgn with
  | none => s
  | some r =>
    if r.st == .draining || r.st == .free then s
    else
      let svc := bitW (s.die r.die).ftsvc 63
      let served := i.cause == 1 && svc
      let st := i.status.getD (if served then Status.preempted.byte else (fabStatus i.cause).byte)
      let r1 : Region :=
        { r with
          faulted := if faultsElement i.cause && !r.faulted.contains node then r.faulted ++ [node] else r.faulted,
          resumable := if served && !r.faulted.contains node then r.resumable ++ [node] else r.resumable }
      let rec1 := r.trapRecord node fs i st s.tick
      if served then
        s.noteTrap { r1 with st := if r.st == .loading then .loading else .frozen, before := .frozen,
                             boundary := some (r.boundary.getD (fs, i.wave, i.ord)) } rec1
      else (s.noteTrap r1 rec1).endFrame rgn fs st

/-- A special node's access failed with a thread's cause code. -/
def State.nodeFault (s : State) (f : Fire) (cause : Nat) (va : Word) : State :=
  s.fabTrap f.r.num f.n.id f.fs { cause := fabCause cause, va := va }

/-! ### Steps of the networks (R188, R190) -/

/-- The oldest token of the site's frame on its way to port `sub` of the site's node arrives. Routes deliver while a
region is frozen (R379). -/
def execTokenArrival (s : State) : Res :=
  match s.siteNode with
  | none => .next s
  | some f =>
    match f.r.flight.find? (atPort f.n.id s.sub f.fs) with
    | none => .next s
    | some e =>
      .next (s.setRegion { f.r with flight := dropFirst (atPort f.n.id s.sub f.fs) f.r.flight, chan := f.r.chan ++ [e] })

/-- An entry of port `sub` of the site's node returns to its producer. -/
def execCreditReturn (s : State) : Res :=
  .next (s.modRegion s.site.rgn (fun r => { r with owed := r.owed.erase (s.site.node, s.sub) }))

/-- The multi-phase nodes of a region. -/
def Region.phased (r : Region) : List NodeRec := r.nodes.filter (fun n => n.kind == 0 && 1 < n.ctxs)

/-- Whether a phase end stands for a frame (R190). -/
def Region.phaseEnd (r : Region) (fs : Nat) : Bool :=
  !r.phased.isEmpty && r.phased.all (fun n =>
    (r.ereg n.id fs).any (fun e => e.p.getLsbD 7) && !r.chan.any (fun c => c.1 == n.id && tagFs c.2.2.tag == fs))

/-- The phase that p6:p5 name. -/
def EReg.nextPhase (e : EReg) : Nat := e.p.toNat / 32 % 4

/-- A phase end of the site's frame. -/
def execPhaseEnd (s : State) : Res :=
  match s.region s.site.rgn with
  | none => .next s
  | some r =>
    let fs := s.site.fs
    if !(r.fires && (r.fslot fs).st == .running && r.phaseEnd fs) then .next s
    else
      match r.phased.find? (fun n => (r.ereg n.id fs).any (fun e => n.ctxs ≤ e.nextPhase)) with
      | some n => .next (s.fabTrap r.num n.id fs { cause := 4 })
      | none =>
        .next (s.setRegion { r with eregs := r.eregs.map (fun e =>
          match r.phased.find? (fun n => n.id == e.node) with
          | some n => if e.fs == fs then { e with phase := n.ctx0 + e.nextPhase, p := e.p &&& 0x1F } else e
          | none => e) })

/-- A fabric trap of a given cause at the site (R377). -/
def execFabricTrapRaise (cause : Nat) (va : Word) (s : State) : Res :=
  match s.siteNode with
  | none => .next s
  | some f =>
    if (f.slot.st == .running || f.slot.st == .suspended) && 1 ≤ cause && cause ≤ 15 then
      .next (s.fabTrap s.site.rgn s.site.node s.site.fs { cause := cause, va := va })
    else .next s

end Sys2Proof.Machine
end

