-- ==== Sys2Proof/Machine/Elements.lean ====
section
/-! DEFINITION. The firing of an element (R185 to R187) and the 48 element ops (R206 to R219). A firing happens at the
site the state names: an element node, for one frame slot. -/

namespace Sys2Proof

/-- The ports a word dequeues. -/
def TWord.deqPorts (w : TWord) : List Nat := Machine.portsOf w.deq.toNat

/-- The element width of a modifier. -/
def TWord.width (w : TWord) : Nat :=
  match w.mod.toNat / 2 % 4 with
  | 0 => if w.vec then 32 else 64
  | 1 => 32
  | 2 => 16
  | _ => 8

def TWord.signed (w : TWord) : Bool := !bitOf w.mod.toNat 3
def TWord.sat (w : TWord) : Bool := bitOf w.mod.toNat 0

/-- The rounding mode of a float modifier (R77). -/
def TWord.rnd (w : TWord) : Rnd := (Rnd.ofCode (w.mod.toNat / 2)).getD .rne

/-- Whether a flag of a carry-save value is set (R219). -/
def Cs.special (a : Cs) : Bool := a.nan || a.pinf || a.ninf

end Sys2Proof

namespace Sys2Proof.Machine

/-! ### Sources (R75, R206) -/

/-- The registers of the firing node for its frame. -/
def Fire.regs (f : Fire) : EReg :=
  (f.r.ereg f.n.id f.fs).getD ⟨f.n.id, f.fs, .replicate 8 0, .replicate 4 0, 0, f.n.ctx0, 0⟩

/-- The head under a selector that names a port. -/
def Fire.headAt (f : Fire) (sel : Nat) : Option Token := if sel < 10 then f.head sel else none

/-- The value of a source in a scalar-class op. -/
def Fire.scalar (f : Fire) (w : TWord) (sel : Nat) : Nat :=
  if sel < 10 then ((f.head sel).map (fun t => t.data.toNat % 2 ^ 64)).getD 0
  else if 0x10 ≤ sel && sel < 0x18 then (f.regs.g.toList.getD (sel - 0x10) 0).toNat
  else if sel == 0x1C then wrap 64 (sval 16 w.imm.toNat)
  else 0

/-- One 32-bit value in every lane. -/
def splat16 (v : Nat) : Nat := buildElems 32 16 (fun _ => v)

/-- The value of a source in a vector-class op. -/
def Fire.vector (f : Fire) (w : TWord) (sel : Nat) : Nat :=
  if 4 ≤ sel && sel < 8 then ((f.head sel).map (fun t => t.data.toNat)).getD 0
  else if 0x18 ≤ sel && sel < 0x1C then (f.regs.gv.toList.getD (sel - 0x18) 0).toNat
  else splat16 (f.scalar w sel)

/-- The lane mask of a source (R206). -/
def Fire.maskAt (f : Fire) (sel : Nat) : BitVec 16 :=
  if 4 ≤ sel && sel < 8 then ((f.head sel).map Token.mask).getD allLanes16 else allLanes16

/-! ### Tags (R76, R187) -/

/-- The head a tag action starts from: under A or B, else the lowest-numbered consumed head. Where the base names B and the op reads no
B, whose field is then 0, the head that stands at si0 is taken for the head under B (DESIGN CHOICE, log 45). -/
def Fire.baseHead (f : Fire) (w : TWord) : Option Token :=
  let sel := if w.tact.toNat / 64 == 1 then w.b.toNat else w.a.toNat
  if w.tact.toNat / 64 == 3 then none
  else
    match f.headAt sel with
    | some t => some t
    | none => (w.deqPorts.head?).bind f.head

/-- The output tag of R187. -/
def Fire.outTag (f : Fire) (w : TWord) : BitVec 15 :=
  let a := w.tact.toNat
  let base := ((f.baseHead w).map Token.tag).getD f.fresh
  let used := (w.deqPorts.map f.head).filterMap (fun t => t)
  let dims := if a / 64 == 2 then used.foldl (fun d t => d ||| tagDims t.tag) (tagDims base) else tagDims base
  let err := tagErr base || (a / 64 == 2 && used.any (fun t => tagErr t.tag))
  mkTag (dims &&& (15 - a % 16)) (err || bitOf a 5) (tagSeq base + (bitOf a 4).toNat) f.fs

/-- The lane mask of a vector output (R187). -/
def Fire.outMask (f : Fire) (w : TWord) : BitVec 16 :=
  match f.baseHead w with
  | some t => if t.cls == .vector then t.mask else allLanes16
  | none => allLanes16

/-- The tag test of R76. -/
def Fire.tagTest (f : Fire) (w : TWord) : Bool :=
  let t := w.test.toNat
  let head := f.headAt w.a.toNat
  if t == 0 then true
  else if t ≤ 4 then head.any (fun h => bitOf (tagDims h.tag) (t - 1))
  else if t ≤ 8 then head.any (fun h => !bitOf (tagDims h.tag) (t - 5))
  else if t == 9 then head.any (fun h => tagErr h.tag)
  else if t == 10 then head.any (fun h => !tagErr h.tag)
  else
    let seqs := ((portsOf w.req.toNat).map f.head).filterMap (fun h => h.map (fun x => tagSeq x.tag))
    seqs.all (fun q => some q == seqs.head?)

/-! ### Firing (R185, R186) -/

/-- The result of an op: its value, whether it is a vector, its own lane mask, result bit and tag where its description
gives them. -/
structure ElOut where
  val : Nat
  vec : Bool
  mask : Option (BitVec 16) := none
  bit : Option Bool := none
  tag : Option (BitVec 15) := none
  deriving DecidableEq, Repr

/-- Whether a slot's word is eligible for a firing that drives some ports (R185). -/
def Fire.eligible (f : Fire) (w : TWord) (ports : Nat) : Bool :=
  (f.regs.p &&& w.care) == (w.value &&& w.care)
  && (portsOf w.req.toNat).all (fun p => (f.head p).isSome)
  && f.tagTest w
  && f.r.canSend f.n (f.r.phase f.n f.fs - f.n.ctx0) f.fs (portsOf ports)

/-- The registers after a firing: destination, then predicates (R186, R208). -/
def EReg.after (e : EReg) (o : ElOp) (w : TWord) (x : ElOut) (mask : BitVec 16) : EReg :=
  let d := w.rd.toNat
  let gv (i : Nat) : GVec :=
    BitVec.ofNat _ (buildElems 32 16 (fun j =>
      if mask.getLsbD j then elemOf 32 x.val j else elemOf 32 (e.gv.toList.getD i 0).toNat j))
  let p0 := (e.p &&& ~~~w.pclr) ||| w.pset
  let b := x.bit.getD (x.val % 2 == 1)
  let pb : BitVec 8 := BitVec.ofNat 8 (2 ^ (w.pfr.toNat % 8))
  { e with
    g := if h : 1 ≤ d ∧ d ≤ 8 then e.g.set (d - 1) (BitVec.ofNat 64 x.val) (by omega) else e.g,
    gv := if h : 9 ≤ d ∧ d ≤ 12 then e.gv.set (d - 9) (gv (d - 9)) (by omega) else e.gv,
    p := if 8 ≤ w.pfr.toNat then (if b then p0 ||| pb else p0 &&& ~~~pb) else p0,
    lastWord := BitVec.ofNat 128 (w.word o) }

/-- The output ports that a firing drives: for `steer`, those of the arm that the condition selects (R197). -/
def Fire.drives (f : Fire) (o : ElOp) (w : TWord) : Nat :=
  if o == .steer then
    (if (if w.vec then f.vector w w.b.toNat else f.scalar w w.b.toNat) % 2 == 1 then w.out.toNat else w.imm.toNat % 1024)
  else w.out.toNat

/-- A firing of an element's word at the site (R186): nothing happens where it is not eligible. `used` free values are used
up by the op. -/
def State.fireWord (s : State) (o : ElOp) (w : TWord) (op : Fire → ElOut) (used : Nat := 0) : Res :=
  s.atNode 0 (fun f =>
    let x := op f
    let ports := f.drives o w
    if !f.eligible w ports then none
    else
      let tag := x.tag.getD (f.outTag w)
      let mask := x.mask.getD (f.outMask w)
      let ctx := f.r.phase f.n f.fs - f.n.ctx0
      let r1 := f.r.takeAll f.n.id f.fs w.deqPorts
      let r2 := (portsOf ports).foldl (fun q p => q.send f.n ctx p (tokFor p x.val mask tag)) r1
      some { s.setRegion (r2.setEreg (f.regs.after o w x mask)) with fresh := s.fresh + used })

/-! ### Moves and steering (R210) -/

/-- A source by the class of the op. -/
def Fire.src (f : Fire) (w : TWord) (sel : BitVec 6) : Nat :=
  if w.vec then f.vector w sel.toNat else f.scalar w sel.toNat

def ElOut.of (w : TWord) (v : Nat) : ElOut := { val := v, vec := w.vec }

def execElNop (w : TWord) (s : State) : Res := s.fireWord .nop w (fun _ => ElOut.of w 0)

def execElMov (w : TWord) (s : State) : Res := s.fireWord .mov w (fun f => ElOut.of w (f.src w w.a))

def execElSel (w : TWord) (s : State) : Res :=
  s.fireWord .sel w (fun f =>
    let a := f.src w w.a
    let b := f.src w w.b
    let c := f.src w w.c
    ElOut.of w (if w.vec then buildElems 32 16 (fun i => if elemOf 32 c i % 2 == 1 then elemOf 32 a i else elemOf 32 b i)
      else if c % 2 == 1 then a else b))

/-- R197: the condition selects the arm. -/
def execElSteer (w : TWord) (s : State) : Res :=
  s.fireWord .steer w (fun f =>
    { ElOut.of w (f.src w w.a) with bit := some (f.src w w.b % 2 == 1) })

def execElRepl (w : TWord) (s : State) : Res :=
  s.fireWord .repl w (fun f => { ElOut.of w (splat16 (f.scalar w w.a.toNat)) with mask := some allLanes16 })

/-! ### Integer ops (R207, R211 to R213) -/

/-- An op applied to the element bits of A, B and C: one extended element, or every element of the string. -/
def Fire.elements (f : Fire) (w : TWord) (g : Nat → Nat → Nat → Nat) : ElOut :=
  let n := w.width
  let a := f.src w w.a
  let b := f.src w w.b
  let c := f.src w w.c
  if w.vec then ElOut.of w (buildElems n (512 / n) (fun j => g (elemOf n a j) (elemOf n b j) (elemOf n c j)))
  else
    let v := g (a % 2 ^ n) (b % 2 ^ n) (c % 2 ^ n) % 2 ^ n
    ElOut.of w (if w.signed then wrap 64 (sval n v) else v)

/-- An exact integer op, narrowed (R211). -/
def Fire.arith (f : Fire) (w : TWord) (sat : Bool) (g : Int → Int → Int → Int) : ElOut :=
  let n := w.width
  f.elements w (fun a b c => narrow w.signed sat n (g (ival w.signed n a) (ival w.signed n b) (ival w.signed n c)))

def execElAdd (w : TWord) (s : State) : Res := s.fireWord .add w (fun f => f.arith w w.sat (fun a b _ => a + b))
def execElSub (w : TWord) (s : State) : Res := s.fireWord .sub w (fun f => f.arith w w.sat (fun a b _ => a - b))
def execElMul (w : TWord) (s : State) : Res := s.fireWord .mul w (fun f => f.arith w w.sat (fun a b _ => a * b))
def execElMulh (w : TWord) (s : State) : Res :=
  s.fireWord .mulh w (fun f => f.arith w false (fun a b _ => a * b / (2 ^ w.width : Int)))
def execElMac (w : TWord) (s : State) : Res := s.fireWord .mac w (fun f => f.arith w w.sat (fun a b c => a * b + c))
def execElMin (w : TWord) (s : State) : Res := s.fireWord .min w (fun f => f.arith w false (fun a b _ => min a b))
def execElMax (w : TWord) (s : State) : Res := s.fireWord .max w (fun f => f.arith w false (fun a b _ => max a b))
def execElAbs (w : TWord) (s : State) : Res :=
  s.fireWord .abs w (fun f => f.arith w w.sat (fun a _ _ => if a < 0 then -a else a))
def execElNeg (w : TWord) (s : State) : Res := s.fireWord .neg w (fun f => f.arith w w.sat (fun a _ _ => 0 - a))

def execElAnd (w : TWord) (s : State) : Res := s.fireWord .and w (fun f => f.elements w (fun a b _ => a &&& b))
def execElOr (w : TWord) (s : State) : Res := s.fireWord .or w (fun f => f.elements w (fun a b _ => a ||| b))
def execElXor (w : TWord) (s : State) : Res := s.fireWord .xor w (fun f => f.elements w (fun a b _ => a ^^^ b))
def execElAndn (w : TWord) (s : State) : Res :=
  s.fireWord .andn w (fun f => f.elements w (fun a b _ => a &&& (2 ^ w.width - 1 - b)))
def execElNot (w : TWord) (s : State) : Res := s.fireWord .not w (fun f => f.elements w (fun a _ _ => 2 ^ w.width - 1 - a))

/-- The shift amount: the low log2 w bits (R212). -/
def execElSll (w : TWord) (s : State) : Res :=
  s.fireWord .sll w (fun f => f.elements w (fun a b _ => a * 2 ^ (b % w.width)))
def execElSrl (w : TWord) (s : State) : Res :=
  s.fireWord .srl w (fun f => f.elements w (fun a b _ => a / 2 ^ (b % w.width)))
def execElSra (w : TWord) (s : State) : Res :=
  s.fireWord .sra w (fun f => f.elements w (fun a b _ => wrap w.width (sval w.width a / (2 ^ (b % w.width) : Int))))

/-- R213: 1 or 0 in each element; the result bit is bit 0. -/
def Fire.compare (f : Fire) (w : TWord) (g : Int → Int → Bool) : ElOut :=
  f.elements w (fun a b _ => (g (ival w.signed w.width a) (ival w.signed w.width b)).toNat)

def execElCmpEq (w : TWord) (s : State) : Res := s.fireWord .cmpEq w (fun f => f.compare w (fun a b => a == b))
def execElCmpNe (w : TWord) (s : State) : Res := s.fireWord .cmpNe w (fun f => f.compare w (fun a b => a != b))
def execElCmpLt (w : TWord) (s : State) : Res := s.fireWord .cmpLt w (fun f => f.compare w (fun a b => decide (a < b)))
def execElCmpLe (w : TWord) (s : State) : Res := s.fireWord .cmpLe w (fun f => f.compare w (fun a b => decide (a ≤ b)))

/-! ### FP32 ops (R214, R215) -/

/-- An op on the 32-bit values of A, B and C, per lane or in bits [31:0]. -/
def Fire.words32 (f : Fire) (w : TWord) (g : Nat → Nat → Nat → Nat) : ElOut :=
  let a := f.src w w.a
  let b := f.src w w.b
  let c := f.src w w.c
  ElOut.of w (if w.vec then buildElems 32 16 (fun i => g (elemOf 32 a i) (elemOf 32 b i) (elemOf 32 c i))
    else g (a % 2 ^ 32) (b % 2 ^ 32) (c % 2 ^ 32))

def Fire.float (f : Fire) (w : TWord) (g : FV → FV → FV → FV) : ElOut :=
  f.words32 w (fun a b c => fp32.encode w.rnd w.sat (g (fp32.decode a) (fp32.decode b) (fp32.decode c)))

def execElFadd (w : TWord) (s : State) : Res := s.fireWord .fadd w (fun f => f.float w (fun a b _ => a.add w.rnd b))
def execElFsub (w : TWord) (s : State) : Res := s.fireWord .fsub w (fun f => f.float w (fun a b _ => a.sub w.rnd b))
def execElFmul (w : TWord) (s : State) : Res := s.fireWord .fmul w (fun f => f.float w (fun a b _ => a.mul b))
def execElFma (w : TWord) (s : State) : Res :=
  s.fireWord .fma w (fun f => f.float w (fun a b c => (a.mul b).add w.rnd c))
def execElFmin (w : TWord) (s : State) : Res := s.fireWord .fmin w (fun f => f.float w (fun a b _ => a.minNum b))
def execElFmax (w : TWord) (s : State) : Res := s.fireWord .fmax w (fun f => f.float w (fun a b _ => a.maxNum b))

def Fire.fcompare (f : Fire) (w : TWord) (g : FV → FV → Bool) : ElOut :=
  f.words32 w (fun a b _ => (g (fp32.decode a) (fp32.decode b)).toNat)

def execElFcmpEq (w : TWord) (s : State) : Res := s.fireWord .fcmpEq w (fun f => f.fcompare w FV.eq)
def execElFcmpLt (w : TWord) (s : State) : Res := s.fireWord .fcmpLt w (fun f => f.fcompare w FV.lt)
def execElFcmpLe (w : TWord) (s : State) : Res := s.fireWord .fcmpLe w (fun f => f.fcompare w FV.le)
def execElFcmpUn (w : TWord) (s : State) : Res :=
  s.fireWord .fcmpUn w (fun f => f.fcompare w (fun a b => a.isNan || b.isNan))

/-! ### Reductions and lanes (R216, R217) -/

/-- A reduction of the 16 lanes of A with one more step on B. -/
def Fire.reduce (f : Fire) (w : TWord) (flt : Bool) (o : RedOp) : ElOut :=
  let step (x y : Nat) : Nat :=
    if flt then fltOp fp32 w.rnd w.sat o x y else intOp w.signed (w.sat && o == .add) 32 o x y
  let ident := redIdent flt fp32 w.signed 32 o
  let a := f.vector w w.a.toNat
  let k := f.maskAt w.a.toNat
  let v := treeReduce step ident ((List.range 16).map (fun i => if k.getLsbD i then elemOf 32 a i else ident))
  let y := step v (f.vector w w.b.toNat % 2 ^ 32) % 2 ^ 32
  { val := if flt || !w.signed then y else wrap 64 (sval 32 y), vec := false }

def execElVredAdd (w : TWord) (s : State) : Res := s.fireWord .vredAdd w (fun f => f.reduce w false .add)
def execElVredMin (w : TWord) (s : State) : Res := s.fireWord .vredMin w (fun f => f.reduce w false .min)
def execElVredMax (w : TWord) (s : State) : Res := s.fireWord .vredMax w (fun f => f.reduce w false .max)
def execElVredFadd (w : TWord) (s : State) : Res := s.fireWord .vredFadd w (fun f => f.reduce w true .add)
def execElVredFmin (w : TWord) (s : State) : Res := s.fireWord .vredFmin w (fun f => f.reduce w true .min)
def execElVredFmax (w : TWord) (s : State) : Res := s.fireWord .vredFmax w (fun f => f.reduce w true .max)

def execElVextr (w : TWord) (s : State) : Res :=
  s.fireWord .vextr w (fun f =>
    { val := elemOf 32 (f.vector w w.a.toNat) (f.vector w w.b.toNat % 16), vec := false })

def execElVins (w : TWord) (s : State) : Res :=
  s.fireWord .vins w (fun f =>
    let a := f.vector w w.a.toNat
    let i := f.vector w w.c.toNat % 16
    { val := buildElems 32 16 (fun j => if j == i then f.vector w w.b.toNat % 2 ^ 32 else elemOf 32 a j), vec := true,
      mask := some (f.maskAt w.a.toNat ||| BitVec.ofNat 16 (2 ^ i)) })

/-! ### Tag ops (R218) -/

def execElSettag (w : TWord) (s : State) : Res :=
  s.fireWord .settag w (fun f =>
    let i := w.imm.toNat
    { ElOut.of w (f.src w w.a) with
      tag := some (mkTag (i / 2 ^ 11) (bitOf i 10) (i / 4 % 256 + f.src w w.b % 256) f.fs) })

def execElEndtest (w : TWord) (s : State) : Res :=
  s.fireWord .endtest w (fun f =>
    let sel := w.imm.toNat % 16
    let y := (f.headAt w.a.toNat).any (fun h => tagDims h.tag &&& sel == sel)
    { ElOut.of w (if w.vec then splat16 y.toNat else y.toNat) with bit := some y })

/-! ### Carry-save ops (R219) -/

/-- Value `h` of a pair (R52). -/
def csHalf (v h : Nat) : Cs := Cs.ofBits (v / 2 ^ (192 * h) % 2 ^ 192)

/-- A pair of carry-save values; their carry rows are free (R52, log 9). -/
def csPair (fresh : Nat) (a b : Cs) : Nat :=
  a.toBits (Config.carryRow fresh) + b.toBits (Config.carryRow (fresh + 1)) * 2 ^ 192

def csOut (fresh : Nat) (g : Nat → Cs) : ElOut :=
  { val := csPair fresh (g 0) (g 1), vec := true, mask := some 0x0FFF, bit := some ((g 0).special || (g 1).special) }

/-- The output tag with the error bits of both sources (R221). -/
def Fire.bothErr (f : Fire) (w : TWord) : BitVec 15 :=
  orErr (f.outTag w) ((f.headAt w.a.toNat).any (fun t => tagErr t.tag) || (f.headAt w.b.toNat).any (fun t => tagErr t.tag))

def execElCsacc (w : TWord) (s : State) : Res :=
  s.fireWord .csacc w (fun f =>
    let a := f.vector w w.a.toNat
    let k := f.maskAt w.a.toNat
    { csOut s.fresh (fun h =>
        csCombine (csHalf (f.vector w w.b.toNat) h)
          (csSum ((((List.range 8).map (fun i => 8 * h + i)).filter (fun i => k.getLsbD i)).map
            (fun i => fp32.decode (elemOf 32 a i))))) with tag := some (f.bothErr w) }) 2

def execElCsadd (w : TWord) (s : State) : Res :=
  s.fireWord .csadd w (fun f =>
    csOut s.fresh (fun h => csCombine (csHalf (f.vector w w.a.toNat) h) (csHalf (f.vector w w.b.toNat) h))) 2

end Sys2Proof.Machine
end

