-- ==== Sys2Proof/Machine/MemNodes.lean ====
section
/-! DEFINITION. Memory from the fabric: `stream` nodes (R225, R226), `mem` nodes and the requests they make (R200, R202,
R227, R228), and `join` nodes (R201, R229). -/

namespace Sys2Proof.Machine

/-! ### Writes to other packages (R246, R343) -/

def Fire.addReq (f : Fire) (q : MReq) : Fire := { f with r := { f.r with reqs := f.r.reqs ++ [q] } }

/-- A node's writes to other packages that a firing has sent: a request stands for them until they are acknowledged. -/
def Fire.sent (f : Fire) (s t : State) : Fire :=
  if (s.newWrites t).isEmpty then f
  else
    f.addReq { node := f.n.id, fs := f.fs, wave := 0, ord := 0, pred := 0, succ := 0, ordered := false, op := 17, addr := 0,
               data := 0, mask := 0, vec := false, width := 8, tag := f.fresh, st := .sent, val := 0, err := false, bad := none,
               far := s.newWrites t }

/-- The request that stands for a node's writes to other packages. -/
def Fire.sending (f : Fire) : Option MReq := f.r.reqs.find? (fun q => q.op == 17 && q.node == f.n.id && q.fs == f.fs)

/-- The first of some writes to other packages that has failed, with its cause. -/
def State.farFault (s : State) (ids : List Nat) : Option (Word × Nat) :=
  ids.findSome? (fun i =>
    match s.fate i with
    | some (some c) => some (((s.farOut.find? (fun w => w.id == i)).map FarWrite.va).getD 0, c)
    | _ => none)

/-! ### `stream` (R225, R226) -/

def NodeRec.strMode (n : NodeRec) : Nat := field (n.par 7) 0 8
def NodeRec.strE (n : NodeRec) : Nat := field (n.par 7) 8 8
def NodeRec.strLevels (n : NodeRec) : Nat := field (n.par 7) 17 2 + 1
def NodeRec.strTagLvl (n : NodeRec) : Nat := field (n.par 7) 19 2
def NodeRec.strSext (n : NodeRec) : Bool := bitOf (n.par 7) 21
/-- Active lanes in the last vector of an innermost run. -/
def NodeRec.strTail (n : NodeRec) : Nat := let t := field (n.par 7) 22 5; if t == 0 then 16 else t
def NodeRec.strStride (n : NodeRec) (i : Nat) : Int := sval 32 (n.par (3 + i) / 2 ^ 32)
def NodeRec.strBound (n : NodeRec) (i : Nat) : Nat := n.par (3 + i) % 2 ^ 32
def NodeRec.strStore (n : NodeRec) : Bool := n.strMode == 3 || n.strMode == 4
def NodeRec.strVec (n : NodeRec) : Bool := n.strMode == 2 || n.strMode == 4
/-- The output port of a load-mode or address-mode stream. -/
def NodeRec.strOut (n : NodeRec) : Nat := if n.strVec then 4 else 0

/-- The sum of some integers. -/
def intSum (l : List Int) : Int := l.foldl (· + ·) 0

/-- The least and greatest byte of a nest (R118). -/
def NodeRec.strLo (n : NodeRec) : Int :=
  (n.par 0 : Int) + intSum ((List.range n.strLevels).map (fun i => min 0 (((n.strBound i : Int) - 1) * n.strStride i)))
def NodeRec.strHi (n : NodeRec) : Int :=
  (n.par 0 : Int) + intSum ((List.range n.strLevels).map (fun i => max 0 (((n.strBound i : Int) - 1) * n.strStride i)))
    + n.strE - 1

/-- Whether a nest shifted by an offset stays in its window. -/
def NodeRec.strFits (n : NodeRec) (o : Int) : Bool :=
  decide ((n.par 1 : Int) ≤ n.strLo + o) && decide (n.strHi + o ≤ (n.par 2 : Int))

/-- A walk starts. -/
def execStreamWalkStart (s : State) : Res :=
  s.atNode 1 (fun f =>
    match f.st with
    | .stream false opened _ _ _ _ _ =>
      let trig := f.head 8
      let offs := f.head 1
      if (f.fed 8 && trig.isNone) || (!f.fed 8 && opened) || (f.fed 1 && offs.isNone) then none
      else
        let g := (f.take 8).take 1
        let o : Int := if f.fed 1 then (offs.map (fun t => sval 64 t.data.toNat)).getD 0 else 0
        let ok := f.n.strFits o && !(offs.any (fun t => tagErr t.tag))
        let tag := (trig.map Token.tag).getD f.fresh
        let start (bad : Bool) : NSt := .stream true true [0, 0, 0, 0] o 0 bad tag
        if ok then some ((g.set (start false)).put s)
        else if f.n.strStore then some ((g.set (start true)).put s)
        else if !f.can [f.n.strOut] then none
        else
          let t := tokFor f.n.strOut 0 allLanes16 (mkTag 15 true 0 f.fs)
          some (((g.send f.n.strOut t).set (.stream false true [] 0 0 false 0)).put s)
    | _ => none)

/-- Whether the levels below `k` all stand at their last point. -/
def NodeRec.strEnded (n : NodeRec) (idx : List Nat) (k : Nat) : Bool :=
  (List.range k).all (fun i => idx.getD i 0 + 1 == n.strBound i)

/-- The next point of a nest, level 0 innermost; none after the last. -/
def NodeRec.strNext (n : NodeRec) (idx : List Nat) : Option (List Nat) :=
  match (List.range n.strLevels).find? (fun i => idx.getD i 0 + 1 < n.strBound i) with
  | none => none
  | some k => some ((List.range 4).map (fun i => if i < k then 0 else if i == k then idx.getD i 0 + 1 else idx.getD i 0))

/-- The node after a point. -/
def Fire.advance (f : Fire) (idx : List Nat) (off : Int) (count : Nat) (bad : Bool) (tag : BitVec 15) : Fire :=
  let c := if f.n.strEnded idx f.n.strTagLvl then count + 1 else count
  match f.n.strNext idx with
  | some i => f.set (.stream true true i off c bad tag)
  | none => f.set (.stream false true [] 0 0 false 0)

/-- Reads of the bytes at several addresses, each of a width. -/
def State.engReads (s : State) (v : View) (n : Nat) : List Word → Except (Word × Nat) (State × List Nat)
  | [] => .ok (s, [])
  | a :: r =>
    match s.engRead v a n with
    | .error c => .error (a, c)
    | .ok (s1, x) =>
      match s1.engReads v n r with
      | .error e => .error e
      | .ok (s2, xs) => .ok (s2, x :: xs)

/-- Writes of a width at several addresses. -/
def State.engWrites (s : State) (v : View) (ag : Agent) (n : Nat) : List (Word × Nat) → Except (Word × Nat) State
  | [] => .ok s
  | p :: r =>
    match s.engWrite v ag p.1 n p.2 with
    | .error c => .error (p.1, c)
    | .ok s1 => s1.engWrites v ag n r

/-- The first of some accesses that could not be made: alignment, then what memory answers. -/
def State.firstFault (s : State) (v : View) (k : AK) (n : Nat) (as : List Word) : Option (Word × Nat) :=
  as.findSome? (fun a =>
    if a.toNat % n != 0 then some (a, k.misalignedCause)
    else match s.reachAs v k a n with | .error c => some (a, c) | .ok _ => none)

/-- The addresses of the active lanes of a vector at `a`. -/
def laneAddrs (a : Word) (m : BitVec 16) : List Word :=
  ((List.range 16).filter (fun i => m.getLsbD i)).map (fun i => a + BitVec.ofNat 64 (4 * i))

/-- Values read for the active lanes, in their lanes. -/
def intoLanes (m : BitVec 16) (xs : List Nat) : Nat :=
  packElems 32 ((List.range 16).map (fun i =>
    if m.getLsbD i then xs.getD (((List.range i).filter (fun j => m.getLsbD j)).length) 0 else 0))

/-- The tag of a point: its dimension-end bits and its sequence tag. -/
def Fire.pointTag (f : Fire) (idx : List Nat) (count : Nat) : BitVec 15 :=
  let dims := ((List.range f.n.strLevels).filter (fun i => f.n.strEnded idx (i + 1))).foldl (fun d i => d + 2 ^ i) 0
  mkTag dims false count f.fs

/-- One point of a walk. -/
def execStreamPoint (s : State) : Res :=
  s.atNode 1 (fun f =>
    match f.st with
    | .stream true _ idx off count bad tag =>
      let n := f.n
      let a : Word := BitVec.ofInt 64 ((n.par 0 : Int) + off
        + intSum ((List.range n.strLevels).map (fun i => (idx.getD i 0 : Int) * n.strStride i)))
      let tail : BitVec 16 :=
        if n.strEnded idx 1 then BitVec.ofNat 16 (2 ^ n.strTail - 1) else allLanes16
      let ptag := f.pointTag idx count
      let next := f.advance idx off count bad tag
      if n.strStore then
        let port := if n.strVec then 4 else 2
        match f.head port with
        | none => none
        | some t =>
          if f.speculative tag then none
          else if bad then some ((next.take port).put s)
          else
            let m := tail &&& t.mask
            let as := if n.strVec then laneAddrs a m else [a]
            let w := if n.strVec then 4 else n.strE
            let vals := if n.strVec then ((List.range 16).filter (fun i => m.getLsbD i)).map (elemOf 32 t.data.toNat)
              else [t.data.toNat % 2 ^ (8 * n.strE)]
            match s.firstFault f.view .store w as with
            | some e => some (s.nodeFault f e.2 e.1)
            | none =>
              match s.engWrites f.view f.agent w (as.zip vals) with
              | .error e => some (s.nodeFault f e.2 e.1)
              | .ok s1 => some (((next.take port).sent s s1).put s1)
      else if !f.can [n.strOut] then none
      else if n.strMode == 0 then some ((next.send 0 (scalarTok a.toNat ptag)).put s)
      else
        let as := if n.strVec then laneAddrs a tail else [a]
        let w := if n.strVec then 4 else n.strE
        -- the fault of a speculative load is held (R193)
        match s.firstFault f.view .load w as with
        | some e => if f.speculative tag then none else some (s.nodeFault f e.2 e.1)
        | none =>
          match s.engReads f.view w as with
          | .error e => if f.speculative tag then none else some (s.nodeFault f e.2 e.1)
          | .ok (s1, xs) =>
            let x := xs.getD 0 0
            let v := if n.strVec then intoLanes tail xs
              else if n.strSext then wrap 64 (sval (8 * w) x) else x
            some ((next.send n.strOut (tokFor n.strOut v tail ptag)).put s1)
    | _ => none)

/-! ### `mem`: issuing requests (R227, R228) -/

def NodeRec.memOp (n : NodeRec) : Nat := field (n.par 0) 0 4
def NodeRec.memAmo (n : NodeRec) : Nat := field (n.par 0) 4 4
def NodeRec.memW (n : NodeRec) : Nat := 2 ^ field (n.par 0) 8 2
def NodeRec.memVec (n : NodeRec) : Bool := bitOf (n.par 0) 10
def NodeRec.memSext (n : NodeRec) : Bool := bitOf (n.par 0) 11
def NodeRec.memOrder (n : NodeRec) : Nat := field (n.par 0) 12 12
def NodeRec.memPred (n : NodeRec) : Nat := field (n.par 0) 24 12
def NodeRec.memSucc (n : NodeRec) : Nat := field (n.par 0) 36 12

/-- The port of the address or index head: `ci0` of a skip, `vi0` of a vector of indices, else `si0`. -/
def NodeRec.memAddrPort (n : NodeRec) : Nat :=
  if n.memOp == 0 then 8 else if n.memVec && (n.memOp == 3 || n.memOp == 4 || n.memOp == 6) then 4 else 0

/-- The port of the data or operand head. -/
def NodeRec.memDataPort (n : NodeRec) : Option Nat :=
  if n.memOp == 2 || n.memOp == 4 || n.memOp == 6 then some (if n.memVec then 5 else 1)
  else if n.memOp == 5 then some 1 else none

/-- The port of a loaded or old value. -/
def NodeRec.memOut (n : NodeRec) : Nat := if n.memVec && n.memOp != 5 then 4 else 0

/-- The wave that a sequence tag names: the tag extended in ascending order from the oldest open wave (R200). -/
def FSlot.extWave (f : FSlot) (seq : Nat) : Nat := f.wave + (seq + 256 - f.wave % 256) % 256

/-- The wave of an unordered request, open or already passed: the one nearest to the oldest open wave (R202, R228). -/
def FSlot.nearWave (f : FSlot) (seq : Nat) : Nat :=
  let d := (seq + 256 - f.wave % 256) % 256
  if 128 ≤ d && 256 ≤ f.wave + d then f.wave + d - 256 else f.wave + d

/-- A firing of a `mem` node of one op: its request is issued, if its frame may open the wave (R200). -/
def State.issueMem (s : State) (op : Nat) : Res :=
  s.atNode 2 (fun f =>
    let n := f.n
    let data := (n.memDataPort).bind f.head
    match f.head n.memAddrPort with
    | none => none
    | some t =>
      let wave := if n.unord then f.slot.nearWave (tagSeq t.tag) else f.slot.extWave (tagSeq t.tag)
      if n.memOp != op || (n.memDataPort.isSome && data.isNone) || !f.can [0, 1, 4, 8] then none
      else if !n.unord && f.slot.wave + 16 ≤ wave then none
      else
        let err := tagErr t.tag && op != 0
        let active : BitVec 16 :=
          (if n.memAddrPort == 4 then t.mask else allLanes16)
            &&& (if n.memDataPort == some 5 then (data.map Token.mask).getD allLanes16 else allLanes16)
        let q : MReq :=
          { node := n.id, fs := f.fs, wave := wave, ord := n.memOrder, pred := n.memPred, succ := n.memSucc,
            ordered := !n.unord, op := op, addr := t.data, data := (data.map Token.data).getD 0,
            mask := if err && n.memAddrPort == 4 then t.mask else active,
            vec := n.memVec, width := n.memW, tag := t.tag, st := .waiting, val := 0, err := err, bad := none }
        let g := match n.memDataPort with
          | some p => (f.take n.memAddrPort).take p
          | none => f.take n.memAddrPort
        some (s.setRegion { g.r with reqs := g.r.reqs ++ [q] }))

def execMemSkip (s : State) : Res := s.issueMem 0
def execMemLoad (s : State) : Res := s.issueMem 1
def execMemStore (s : State) : Res := s.issueMem 2
def execMemIndexedLoad (s : State) : Res := s.issueMem 3
def execMemIndexedStore (s : State) : Res := s.issueMem 4
def execMemRmw (s : State) : Res := s.issueMem 5
def execMemIndexedRmw (s : State) : Res := s.issueMem 6

/-! ### Performing requests (R193, R200, R202, R228) -/

/-- The open wave of a frame. -/
def Region.waveSt (r : Region) (fs wave : Nat) : WaveSt :=
  (r.waves.find? (fun w => w.fs == fs && w.wave == wave)).getD ⟨fs, wave, [], [], false⟩

def Region.setWave (r : Region) (w : WaveSt) : Region :=
  { r with waves := r.waves.filter (fun x => !(x.fs == w.fs && x.wave == w.wave)) ++ [w] }

/-- Whether a place in a wave's chain is next (R200). -/
def WaveSt.ready (w : WaveSt) (ord pred : Nat) : Bool :=
  (pred == 0 && w.done.isEmpty) || w.done.any (fun d => d.2 == ord || (d.2 == 0xFFF && d.1 == pred))

/-- Oldest open waves that have closed are passed. -/
def Region.passWaves (r : Region) (fs : Nat) : Nat → Region
  | 0 => r
  | n + 1 =>
    let b := (r.fslot fs).wave
    if (r.waveSt fs b).closed then
      ({ r with waves := r.waves.filter (fun x => !(x.fs == fs && x.wave == b)) }.modFslot fs
        (fun f => { f with wave := b + 1 })).passWaves fs n
    else r

/-- A place in a chain has performed. -/
def Region.performed (r : Region) (fs wave ord succ : Nat) : Region :=
  let w := r.waveSt fs wave
  (r.setWave { w with done := w.done ++ [(ord, succ)], closed := w.closed || succ == 0 }).passWaves fs 17

/-- Whether a request may perform now by its chain or, unordered, by the fault boundary and what the trap record lists as
unperformed (R200, R202). -/
def Region.mayPerform (r : Region) (q : MReq) : Bool :=
  if q.ordered then q.wave == (r.fslot q.fs).wave && (r.waveSt q.fs q.wave).ready q.ord q.pred
  else match r.boundary with
    | some b =>
      let listed := r.trap.any (fun t => t.unord.contains (false, q.node))
      !(b.1 == q.fs && (b.2.1 < q.wave || (b.2.1 == q.wave && listed)))
    | none => true

def MReq.loads (q : MReq) : Bool := q.op == 1 || q.op == 3
def MReq.stores (q : MReq) : Bool := q.op == 2 || q.op == 4
def MReq.rmws (q : MReq) : Bool := q.op == 5 || q.op == 6
def MReq.kind (q : MReq) : AK := if q.loads then .load else if q.stores then .store else .amo
def MReq.indexed (q : MReq) : Bool := q.op == 3 || q.op == 4 || q.op == 6

/-- The elements of a request: lane, the address or signed index, and the operand. -/
def MReq.elements (q : MReq) : List (Nat × Int × Nat) :=
  if q.vec && q.op != 5 then
    ((List.range 16).filter (fun i => q.mask.getLsbD i)).map (fun i =>
      (i, if q.indexed then sval 32 (elemOf 32 q.addr.toNat i) else Int.ofNat (q.addr.toNat % 2 ^ 64 + 4 * i),
       elemOf 32 q.data.toNat i))
  else [(0, if q.indexed then sval 64 q.addr.toNat else Int.ofNat (q.addr.toNat % 2 ^ 64), q.data.toNat % 2 ^ (8 * q.width))]

/-- The elements to access, as lane, address and operand, and the lowest out-of-range index (R228). -/
def MReq.targets (q : MReq) (n : NodeRec) : List (Nat × Word × Nat) × Option Nat :=
  let es := q.elements
  if !q.indexed then (es.map (fun e => (e.1, BitVec.ofInt 64 e.2.1, e.2.2)), none)
  else
    let count : Nat := n.par 2 % 2 ^ 32
    let inR (e : Nat × Int × Nat) : Bool := decide (0 ≤ e.2.1) && decide (e.2.1 < (count : Int))
    let out := (es.filter (fun e => !inR e)).map (fun e => e.2.1)
    ((es.filter inR).map (fun e => (e.1, BitVec.ofNat 64 (n.par 1 + e.2.1.toNat * q.width), e.2.2)),
     match out with | [] => none | x :: xs => some (wrap 64 (xs.foldl min x)))

/-- The read-modify-write of a `mem` node (R227). -/
def memAmo (code w x old : Nat) : Nat :=
  if code == 9 then addF32 old x
  else match AmoOp.ofCode code with
    | some o => (amoNew o (8 * w) x 0 old).getD old
    | none => old

/-- The same as another package is asked for it. -/
def memFarOp (code w x : Nat) : FarOp :=
  if code == 9 then .faddF32 (BitVec.ofNat 32 x) else .int ((AmoOp.ofCode code).getD .or) (w == 8) (BitVec.ofNat 64 x) 0

/-- Act on the elements in ascending order; the values read, by lane. -/
def State.actAll (s : State) (v : View) (ag : Agent) (q : MReq) (amo : Nat) :
    List (Nat × Word × Nat) → Except (Word × Nat) (State × List (Nat × Nat))
  | [] => .ok (s, [])
  | e :: r => do
    let a := e.2.1
    let one : Except Nat (State × Nat) :=
      if q.loads then s.engRead v a q.width
      else if q.stores then (s.engWrite v ag a q.width e.2.2).map (fun t => (t, 0))
      else s.engAtomic v ag a q.width (memFarOp amo q.width e.2.2) (fun old => some (memAmo amo q.width e.2.2 old))
    match one with
    | .error c => .error (a, c)
    | .ok (s1, x) =>
      let (s2, xs) ← s1.actAll v ag q amo r
      .ok (s2, (e.1, x) :: xs)

/-- The value a request answers with; the old value of a read-modify-write is not extended (R228). -/
def MReq.answer (q : MReq) (n : NodeRec) (xs : List (Nat × Nat)) : Nat :=
  if q.vec && q.op != 5 then packElems 32 ((List.range 16).map (fun i => (assoc xs i).getD 0))
  else
    let x := (assoc xs 0).getD 0
    if n.memSext && q.loads then wrap 64 (sval (8 * q.width) x) else x

/-- Perform a request: memory is touched only if every element can be (R202). Stores to another package are performed when they are
acknowledged (R246, R343). -/
def State.perform (s : State) (r : Region) (n : NodeRec) (q : MReq) : Except (Word × Nat) (State × MReq) :=
  if q.err || q.op == 0 then .ok (s, { q with st := .performed })
  else
    let t := q.targets n
    match s.firstFault (r.view q.fs q.node) q.kind q.width (t.1.map (fun e => e.2.1)) with
    | some e => .error e
    | none =>
      (s.actAll (r.view q.fs q.node) (r.agent n q.fs) q n.memAmo t.1).map (fun p =>
        (p.1, { q with st := if (s.newWrites p.1).isEmpty then .performed else .sent, val := BitVec.ofNat _ (q.answer n p.2),
                       bad := t.2, far := s.newWrites p.1 }))

/-- Whether a region's memory interfaces work (R202, R379, R384). -/
def Region.interfaceOn (r : Region) : Bool := r.st == .running || r.st == .frozen || r.st == .loading || r.st == .draining

/-- What a performed request leaves: its chain or wave advances. -/
def Region.credited (r : Region) (q : MReq) : Region :=
  if q.ordered then r.performed q.fs q.wave q.ord q.succ
  else
    let w := r.waveSt q.fs q.wave
    if q.wave < (r.fslot q.fs).wave then r else r.setWave { w with udone := w.udone ++ [q.node] }

/-- A request that has been performed: its chain or wave advances. What an ended frame still had is over. -/
def State.requestDone (s : State) (rgn sub : Nat) (gone : Bool) (q : MReq) : State :=
  s.modRegion rgn (fun t =>
    ({ t with reqs := if gone then t.reqs.eraseIdx sub else t.reqs.set sub q } : Region).credited q)

/-- A request that failed: the fault of a speculative one is held (R193), and none remains of an ended frame or in a drain. -/
def State.requestFailed (s : State) (r : Region) (sub : Nat) (gone spec : Bool) (q : MReq) (e : Word × Nat) : State :=
  let put (l : List MReq → List MReq) : State := s.modRegion r.num (fun t => { t with reqs := l t.reqs })
  if r.st == .draining || gone then put (·.eraseIdx sub)
  else if q.op == 17 then (put (·.eraseIdx sub)).fabTrap r.num q.node q.fs { cause := fabCause e.2, va := e.1 }
  else if spec then put (·.set sub { q with st := .speculative })
  else
    (put (·.set sub { q with st := .faulting })).fabTrap r.num q.node q.fs
      { cause := fabCause e.2, va := e.1, ord := q.ord, wave := q.wave }

/-- The answers to a request's writes to other packages: it is performed once all have come, or has failed (R246). Those of an
`egress` node's slot are kept for the word that follows them. -/
def State.requestAnswered (s : State) (r : Region) (sub : Nat) (gone : Bool) (q : MReq) : State :=
  if s.unacked q.far then s
  else
    let s1 := s.dropWrites q.far
    match s.farFault q.far with
    | some e => s1.requestFailed r sub gone false { q with far := [] } e
    | none =>
      let q1 := { q with st := .performed, far := [] }
      if q.op != 17 then s1.requestDone r.num sub gone q1
      else
        let keep := !gone && (r.node? q.node).any (fun n => n.kind == 12)
        s1.modRegion r.num (fun t => { t with reqs := if keep then t.reqs.set sub q1 else t.reqs.eraseIdx sub })

/-- Request `sub` of the site's region performs, if it may: in chain order within a wave and in wave order (R200); an
unordered one at any moment (R120). A store or read-modify-write of a speculative iteration is held, and so is the fault
of a speculative load (R193). What an ended frame still has performs, and no reply or fault of it remains. -/
def execOrderedRequestPerform (s : State) : Res :=
  match s.region s.site.rgn with
  | none => .next s
  | some r =>
    match r.reqs[s.sub]? with
    | none => .next s
    | some q =>
      match r.node? q.node with
      | none => .next s
      | some n =>
        let spec := r.speculative q.node q.fs (tagSeq q.tag)
        let gone := (r.fslot q.fs).st == .ending
        if r.interfaceOn && q.st == .sent then .next (s.requestAnswered r s.sub gone q)
        else if !r.interfaceOn || q.op == 16 || q.op == 17 || !(q.st == .waiting || q.st == .speculative) || !r.mayPerform q
          || (spec && !q.err && (q.stores || q.rmws || q.st == .speculative)) then .next s
        else
          match s.perform r n q with
          | .ok (s1, q1) =>
            .next (if q1.st == .sent then s1.modRegion r.num (fun t => { t with reqs := t.reqs.set s.sub q1 })
              else s1.requestDone r.num s.sub gone q1)
          | .error e => .next (s.requestFailed r s.sub gone spec q e)

/-! ### Replies (R221, R228) -/

/-- The tokens of a performed request. -/
def MReq.tokens (q : MReq) (n : NodeRec) : List (Nat × Token) :=
  let done := (8, controlTok 0 q.tag)
  let o := n.memOut
  if q.op == 0 then [done]
  else if q.err then
    if q.stores then [(1, scalarTok q.addr.toNat q.tag), done] else [(o, tokFor o q.addr.toNat (if o == 4 then q.mask else 0) q.tag)]
  else
    let out (p : Nat) (e : Bool) : Nat × Token := (p, tokFor p q.val.toNat q.mask (orErr q.tag e))
    let bad : List (Nat × Token) := match q.bad with
      | some j => [(1, scalarTok j (orErr q.tag true))]
      | none => []
    if q.loads then [out o q.bad.isSome]
    else if q.stores then done :: bad
    else out o false :: bad

/-- Request `sub` of the site's region answers: requests of one node and frame answer in the order they were made. -/
def execMemReply (s : State) : Res :=
  match s.region s.site.rgn with
  | none => .next s
  | some r =>
    match r.reqs[s.sub]? with
    | none => .next s
    | some q =>
      match r.node? q.node with
      | none => .next s
      | some n =>
        let earlier := (r.reqs.take s.sub).any (fun p => p.node == q.node && p.fs == q.fs)
        if !r.interfaceOn || q.op == 16 || q.op == 17 || q.st != .performed || earlier then .next s
        else
          let r1 := { r with reqs := r.reqs.eraseIdx s.sub }
          .next (s.setRegion ((q.tokens n).foldl (fun t p => t.send n 0 p.1 p.2) r1))

/-! ### `join` (R201, R229) -/

/-- The nodes reached from some nodes through edges. -/
def Region.reach (r : Region) : Nat → List Nat → List Nat
  | 0, l => l
  | k + 1, l =>
    let more := (r.nodes.filter (fun n => l.contains n.id)).flatMap (fun n => n.edges.map Edge.node)
    let new := (more.filter (fun i => !l.contains i)).eraseDups
    if new.isEmpty then l else r.reach k (l ++ new)

/-- Whether one node is reached from another. -/
def Region.reaches (r : Region) (a b : Nat) : Bool := (r.reach r.nodes.length [a]).contains b

def NodeRec.joinOrder (n : NodeRec) : Nat := field (n.par 0) 0 12
def NodeRec.joinPred (n : NodeRec) : Nat := field (n.par 0) 12 12
def NodeRec.joinSucc (n : NodeRec) : Nat := field (n.par 0) 24 12
def NodeRec.joinScope (n : NodeRec) : Scope := (Scope.ofCode (field (n.par 0) 36 3)).getD .sys

/-- Unordered requests of a wave or an earlier one that a join waits for: `stream` and `acc` accesses are performed as
they are made. -/
def Fire.joinWaits (f : Fire) (wave : Nat) : Bool :=
  f.r.reqs.any (fun q => q.fs == f.fs && !q.ordered && q.op != 16 && q.st != .performed && q.wave ≤ wave
    && f.r.reaches q.node f.n.id)

/-- R229. At `.sys` the frame's writes to other packages are acknowledged first, and its updates there applied (R300, R338, R343). -/
def execJoinFire (s : State) : Res :=
  s.atNode 3 (fun f =>
    match f.head 8 with
    | none => none
    | some t =>
      let wave := f.slot.extWave (tagSeq t.tag)
      let sys := f.n.joinScope == .sys
      let me := frameAgent f.slot.id
      if !f.can [8] || wave != f.slot.wave || !(f.r.waveSt f.fs wave).ready f.n.joinOrder f.n.joinPred || f.joinWaits wave
          || (sys && s.farUnacked.any (fun w => w.agent == me && !s.farTo.any (fun e => e.id == some w.id))) then none
      else
        let fire (u : State) : State :=
          let g := (f.take 8).send 8 (controlTok (t.data.toNat % 2) t.tag)
          (u.releaseFrame f.slot.id f.n.joinScope (f.r.clusterOf f.n * 8)).setRegion
            (g.r.performed f.fs wave f.n.joinOrder f.n.joinSucc)
        if !sys then some (fire s)
        else if s.farTo.any (fun e => e.agent == me && e.id.isNone) then some (s.releaseFar me true f.slot.limit)
        else (s.farReleased me).map fire)

end Sys2Proof.Machine
end

