-- ==== Sys2Proof/Machine/FlowNodes.lean ====
section
/-! DEFINITION. Nodes that order and convert tokens: `loop` (R191 to R195, R230, R231), `collect` (R198, R232), `conv`
(R233), `norm` (R234) and `dsq` (R235). -/

namespace Sys2Proof.Machine

/-! ### `loop` -/

/-- The port of carry j. -/
def carryPort (j : Nat) : Nat := if j < 3 then 1 + j else 2 + j

def LoopSt.zero : LoopSt :=
  { active := false, next := 0, oldest := 0, first := 0, dones := [], exits := [], carries := [], exitAt := none,
    squashed := 0, walks := 0, opened := false }

/-- Whether the node may release its next iteration: inside the window, below C, not past an exit, and with no exit
token waiting to be applied first (R191, R192, R194). -/
def Fire.mayRelease (f : Fire) (l : LoopSt) : Bool :=
  l.active && l.next < l.oldest + f.n.loopW && l.exitAt.isNone && f.can [8]
    && (if f.n.loopFixed then l.next < f.n.loopCount else (f.head 0).isNone)

/-- Release iterations while the node may. -/
def Fire.releases (f : Fire) (l : LoopSt) : Nat → Fire
  | 0 => f.set (.loop l)
  | k + 1 =>
    if f.mayRelease l then
      (f.send 8 (controlTok 0 (mkTag 0 false l.next f.fs))).releases { l with next := l.next + 1 } k
    else f.set (.loop l)

/-- An element's portable record up to its parameter block: header, edges and parameters with the placed fields zero. -/
def NodeRec.portable (n : NodeRec) : List Byte := n.raw

/-- CRC-64 of R121 over a string of bytes. -/
def crcBit (c : Nat) : Nat := if 2 ^ 63 ≤ c then (c * 2) % 2 ^ 64 ^^^ 0x42F0E1EBA9EA3693 else c * 2
def crcByte (c b : Nat) : Nat := (List.range 8).foldl (fun x _ => crcBit x) (c ^^^ (b * 2 ^ 56))
def crc64 (bs : List Byte) : Nat := bs.foldl (fun c b => crcByte c b.toNat) 0

/-- The initial carries of iteration 0 (R231). -/
def NodeRec.loopInit (n : NodeRec) (fs : Nat) : List (Nat × Nat × Token) :=
  n.loopCarries.zipIdx.map (fun j =>
    (j.1, 0, tokFor (carryPort j.1) (bytesNat ((n.params.drop (24 + 64 * j.2)).take 64)) allLanes16 (mkTag 0 false 0 fs)))

/-- The bytes of a carry record that must be zero. -/
def carryReserved (b : List Byte) (count : Nat) : Bool :=
  ((b.drop 0x12).take 14).all (· == 0)
    && (List.range count).all (fun j => ((b.drop (0x64 + 96 * j)).take 28).all (· == 0))
    && (List.range count).all (fun j => bytesNat ((b.drop (0x62 + 96 * j)).take 2) < 2 ^ 15)

/-- The carries of a record for its first iteration. -/
def recordCarries (n : NodeRec) (b : List Byte) (i0 fs : Nat) : List (Nat × Nat × Token) :=
  n.loopCarries.zipIdx.map (fun j =>
    let o := 0x20 + 96 * j.2
    let tag : BitVec 15 := BitVec.ofNat 15 (bytesNat ((b.drop (o + 0x42)).take 2))
    (j.1, i0, tokFor (carryPort j.1) (bytesNat ((b.drop o).take 64)) (BitVec.ofNat 16 (bytesNat ((b.drop (o + 0x40)).take 2)))
      (mkTag (tagDims tag) (tagErr tag) (tagSeq tag) fs)))

/-- The start of a walk: from iteration 0, or from a carry record (R195). -/
def Fire.startLoop (f : Fire) (l : LoopSt) (s : State) : State :=
  let go (t : State) (i0 : Nat) (cs : List (Nat × Nat × Token)) : State :=
    let l1 := { LoopSt.zero with active := true, opened := true, next := i0, oldest := i0, first := i0, carries := cs,
                                 walks := l.walks }
    ((f.take 9).releases l1 8).put t
  if f.n.par 1 == 0 then go s 0 (f.n.loopInit f.fs)
  else
    match s.engBytes f.view (BitVec.ofNat 64 (f.n.par 1)) (0x20 + 96 * f.n.loopCarries.length) with
    | .error e => s.nodeFault f e.2 e.1
    | .ok (t, b) =>
      if bytesNat (b.take 8) != crc64 f.n.portable || bytesNat ((b.drop 0x10).take 2) != f.n.loopCarries.length
          || !carryReserved b f.n.loopCarries.length then t.fabTrap f.r.num f.n.id f.fs { cause := 9 }
      else
        let i0 := bytesNat ((b.drop 8).take 8)
        go t i0 (recordCarries f.n b i0 f.fs)

/-- A walk starts on its trigger or at frame open; a walk under way releases what it may (R191, R230). -/
def execLoopStart (s : State) : Res :=
  s.atNode 4 (fun f =>
    match f.st with
    | .loop l =>
      if l.active then (if f.mayRelease l then some ((f.releases l 8).put s) else none)
      else if f.fed 9 then (if (f.head 9).isSome then some (f.startLoop l s) else none)
      else if l.opened then none
      else some (f.startLoop l s)
    | _ => none)

/-- A done token counts toward the iteration in flight that its tag names, or is discarded. -/
def execLoopDoneToken (s : State) : Res :=
  s.atNode 4 (fun f =>
    match f.st, f.head 8 with
    | .loop l, some t =>
      let l1 := match (if l.active then l.iter (tagSeq t.tag) else none) with
        | some i => { l with dones := assocSet l.dones i (((assoc l.dones i).getD 0) + 1) }
        | none => l
      some (((f.take 8).set (.loop l1)).put s)
    | _, _ => none)

/-! #### The exit (R192) -/

/-- The sequence tags of squashed iterations. -/
def squashTags (n last : Nat) : List Nat := (List.range (last - (n + 1))).map (fun i => (n + 1 + i) % 256)

/-- What a squash does to the state of a node of the body. -/
def NSt.squash (x : NSt) (tags : List Nat) (expect : Nat) : NSt :=
  match x with
  | .collect _ parked => .collect expect (parked.filter (fun p => !tags.contains (tagSeq p.2.tag)))
  | .dsq pipe => .dsq (pipe.filter (fun p => !tags.contains (tagSeq p.1.tag)))
  | .stream act op idx off count bad tag =>
    if act && tags.contains (tagSeq tag) then .stream false op [] 0 0 false 0 else .stream act op idx off count bad tag
  | y => y

/-- Everything of squashed iterations leaves the body of a loop in one step, with the done tokens, exits and carries that stand at
the loop's own ports (R196); their waves close. -/
def Region.squash (r : Region) (loop : Nat) (body : List Nat) (fs : Nat) (tags : List Nat) (expect : Nat) : Region :=
  let gone (e : Nat × Nat × Token) : Bool :=
    (body.contains e.1 || (e.1 == loop && e.2.1 != 9)) && tagFs e.2.2.tag == fs && tags.contains (tagSeq e.2.2.tag)
  let freed := (r.chan.filter gone ++ r.flight.filter gone).map (fun e => (e.1, e.2.1))
  let hit (q : MReq) : Bool := q.op != 17 && q.fs == fs && body.contains q.node && tags.contains (tagSeq q.tag)
  let base := (r.fslot fs).wave
  let chained := r.nodes.any (fun n => body.contains n.id && ((n.kind == 2 && !n.unord) || n.kind == 3))
  let waves := if chained then ((List.range 16).map (fun i => base + i)).filter (fun w => tags.contains (w % 256)) else []
  let r1 : Region :=
    { r with
      chan := r.chan.filter (fun e => !gone e), flight := r.flight.filter (fun e => !gone e), owed := r.owed ++ freed,
      reqs := r.reqs.filter (fun q => !hit q),
      nsts := r.nsts.map (fun e => if e.fs == fs && body.contains e.node then { e with st := e.st.squash tags expect } else e) }
  (waves.foldl (fun t w => t.setWave { t.waveSt fs w with closed := true }) r1).passWaves fs 17

/-- The exit iteration that the held exit tokens decide: the lowest with exit 1 whose predecessors all passed. -/
def LoopSt.decided (l : LoopSt) : Option Nat :=
  ((List.range (l.next - l.oldest)).map (fun i => l.oldest + i)).find? (fun i =>
    l.exits.contains (i, true) && !l.speculative i)

/-- The walk after its exit at iteration n. -/
def LoopSt.exit (l : LoopSt) (n : Nat) : LoopSt :=
  { l with
    next := n + 1, exitAt := some n, squashed := l.next - (n + 1), dones := l.dones.filter (fun d => d.1 ≤ n),
    exits := l.exits.filter (fun e => e.1 ≤ n), carries := l.carries.filter (fun c => c.2.1 ≤ n) }

/-- An exit token is held, or decides the exit; one that names no iteration in flight is discarded (R191, R192, R231). -/
def execLoopExitToken (s : State) : Res :=
  s.atNode 4 (fun f =>
    match f.st, f.head 0 with
    | .loop l, some t =>
      match (if l.active && l.exitAt.isNone then l.iter (tagSeq t.tag) else none) with
      | none => some ((f.take 0).put s)
      | some i =>
        let l1 := { l with exits := l.exits ++ [(i, t.data.toNat % 2 == 1 || tagErr t.tag)] }
        match l1.decided with
        | none => some (((f.take 0).set (.loop l1)).put s)
        | some n =>
          let g := (f.take 0).set (.loop (l1.exit n))
          some (s.setRegion (g.r.squash f.n.id f.n.loopBody f.fs (squashTags n l1.next) ((n + 1) % 256)))
    | _, _ => none)

/-- The exit token of a walk (R192, R194). -/
def LoopSt.exitToken (l : LoopSt) (n fs : Nat) : Token :=
  let st := if l.squashed == 0 then Status.ok else .squashed
  scalarTok (st.code * 2 ^ 56 + l.squashed % 2 ^ 24 * 2 ^ 32 + (n + 1) % 2 ^ 32) (mkTag 1 false n fs)

/-- Whether a carry-in of iteration n stands at the node: it names an iteration in flight, so the node takes it before it
retires n (R231). -/
def Fire.carryWaits (f : Fire) (n : Nat) : Bool :=
  f.n.loopCarries.any (fun j => f.r.chan.any (fun e => atPort f.n.id (carryPort j) f.fs e && tagSeq e.2.2.tag == n % 256))

/-- Whether the oldest iteration in flight has all that it retires with: its done tokens, its exit, and no carry-in of it still to
be taken (R191, R231). -/
def Fire.mayRetire (f : Fire) (l : LoopSt) : Bool :=
  l.active && l.oldest < l.next && f.n.loopD ≤ (assoc l.dones l.oldest).getD 0 && !f.carryWaits l.oldest
    && (f.n.loopFixed || l.exitAt == some l.oldest || l.passed l.oldest)

/-- The oldest iteration in flight retires with its done tokens and its exit; then the next one is released, or the walk
ends with its exit token (R191, R192). -/
def execIterationRetire (s : State) : Res :=
  s.atNode 4 (fun f =>
    match f.st with
    | .loop l =>
      let n := l.oldest
      let last := if f.n.loopFixed then n + 1 == f.n.loopCount else l.exitAt == some n
      if !f.mayRetire l then none
      else if last then
        if !f.can [0] then none
        else some (((f.send 0 (l.exitToken n f.fs)).set (.loop { LoopSt.zero with opened := true, walks := l.walks + 1 })).put s)
      else
        let l1 := { l with oldest := n + 1, dones := assocDel l.dones n, exits := l.exits.filter (fun e => e.1 != n) }
        some ((f.releases l1 8).put s)
    | _ => none)

/-- A carry whose iteration has been released is sent; else the node takes a carry-in: kept for the iteration after the
one in flight that its tag names, or discarded (R231). -/
def execCarryForward (s : State) : Res :=
  s.atNode 4 (fun f =>
    match f.st with
    | .loop l =>
      let ready (c : Nat × Nat × Token) : Bool := l.active && c.2.1 < l.next && f.can [carryPort c.1]
      match l.carries.find? ready with
      | some c =>
        let t := c.2.2
        let g := f.send (carryPort c.1) { t with tag := mkTag (tagDims t.tag) (tagErr t.tag) c.2.1 f.fs }
        some ((g.set (.loop { l with carries := dropFirst ready l.carries })).put s)
      | none =>
        match f.n.loopCarries.find? (fun j => (f.head (carryPort j)).isSome) with
        | none => none
        | some j =>
          match f.head (carryPort j) with
          | none => none
          | some t =>
            let l1 := match (if l.active then l.iter (tagSeq t.tag) else none) with
              | some i => if l.exitAt == some i then l else { l with carries := l.carries ++ [(j, i + 1, t)] }
              | none => l
            some (((f.take (carryPort j)).set (.loop l1)).put s)
    | _ => none)

/-! ### `collect` (R198, R232) -/

def NodeRec.colArms (n : NodeRec) : List Nat := (List.range 4).filter (fun a => bitOf (n.par 0) (48 + a))
def NodeRec.colB (n : NodeRec) (arm : Nat) : Nat := field (n.par 0) (16 + 8 * arm) 8 + 1
def NodeRec.colVec (n : NodeRec) : Bool := bitOf (n.par 0) 12
def NodeRec.colPort (n : NodeRec) (arm : Nat) : Nat := if n.colVec then 4 + arm else arm
def NodeRec.colOut (n : NodeRec) : Nat := if n.colVec then 4 else 0

def execCollectStep (s : State) : Res :=
  s.atNode 5 (fun f =>
    match f.st with
    | .collect expected parked =>
      let out := f.n.colOut
      let due (t : Token) : Bool := tagSeq t.tag == expected
      let sent (g : Fire) (t : Token) (rest : List (Nat × Token)) : Option State :=
        if !f.can [out] then none
        else some (((g.send out t).set (.collect ((expected + 1) % 256) rest)).put s)
      match parked.find? (fun p => due p.2) with
      | some p => sent f p.2 (dropFirst (fun q => due q.2) parked)
      | none =>
        let heads := f.n.colArms.filterMap (fun a => (f.head (f.n.colPort a)).map (fun t => (a, t)))
        match heads.find? (fun h => due h.2) with
        | some h => sent (f.take (f.n.colPort h.1)) h.2 parked
        | none =>
          match heads with
          | [] => none
          | h :: _ =>
            if f.n.colB h.1 ≤ parked.countP (fun p => p.1 == h.1) then
              some (s.fabTrap f.r.num f.n.id f.fs { cause := 6 })
            else some (((f.take (f.n.colPort h.1)).set (.collect expected (parked ++ [h]))).put s)
    | _ => none)

/-! ### `conv` (R233) and `norm` (R234) -/

/-- A converted value in its position: integers extended by their type, floats zero-extended. -/
def convPlace (dt : ElTy) (w v : Nat) : Nat :=
  if dt.isAnyFlt || !dt.signed then v % 2 ^ dt.width else wrap w (sval dt.width v)

def execConvFire (s : State) : Res :=
  s.atNode 6 (fun f =>
    let b := f.n.par 0
    let vec := bitOf b 12
    let port := if vec then 4 else 0
    match f.head port, ElTy.ofCode (field b 4 4), ElTy.ofCode (field b 0 4), Rnd.ofCode (field b 8 3) with
    | some t, some dt, some st, some rnd =>
      if !f.can [port] then none
      else
        let one (w v : Nat) : Nat := convPlace dt w (cvtElem dt st rnd (bitOf b 11) (v % 2 ^ st.width))
        let v := if vec then buildElems 32 16 (fun i => one 32 (elemOf 32 t.data.toNat i)) else one 64 t.data.toNat
        some (((f.take port).send port (tokFor port v t.mask t.tag)).put s)
    | _, _, _, _ => none)

def execNormFire (s : State) : Res :=
  s.atNode 7 (fun f =>
    let accum := bitOf (f.n.par 0) 1
    match f.head 4 with
    | none => none
    | some t =>
      let p := f.head 5
      if (accum && p.isNone) || !f.can [4] then none
      else
        let one (h : Nat) : Nat :=
          let v := csHalf t.data.toNat h
          let prev := fp32.decode (elemOf 32 ((p.map (fun q => q.data.toNat)).getD 0) h)
          csNorm (bitOf (f.n.par 0) 0) (if accum then csCombine v (csSum [prev]) else v)
        let g := if accum then (f.take 4).take 5 else f.take 4
        let tag := orErr t.tag (accum && p.any (fun q => tagErr q.tag))
        some ((g.send 4 (vectorTok (packElems 32 [one 0, one 1]) 0x0003 tag)).put s))

/-! ### `dsq` (R235) -/

def NodeRec.dsqOp (n : NodeRec) : Nat := field (n.par 0) 0 2
def NodeRec.dsqPasses (n : NodeRec) : Nat := field (n.par 0) 2 2 + 1
def NodeRec.dsqTwo (n : NodeRec) : Bool := n.dsqOp != 1

/-- Tokens in the pipeline of a node for every frame: at most one per stage. -/
def Fire.pipeUsed (f : Fire) : Nat :=
  (f.r.nsts.map (fun e => if e.node == f.n.id then (match e.st with | .dsq p => p.length | _ => 0) else 0)).foldl (· + ·) 0

def execDsqEnter (s : State) : Res :=
  s.atNode 8 (fun f =>
    match f.st, f.head 4 with
    | .dsq pipe, some a =>
      let b := f.head 5
      if (f.n.dsqTwo && b.isNone) || !f.can [4] || 12 ≤ f.pipeUsed then none
      else
        let g := if f.n.dsqTwo then (f.take 4).take 5 else f.take 4
        some ((g.set (.dsq (pipe ++ [(a, if f.n.dsqTwo then b.getD a else a)]))).put s)
    | _, _ => none)

/-- The divisor under the guard (R235): the threshold with the divisor's sign where it is too small. -/
def guarded (guard : Bool) (tau d : Nat) : Nat × Bool :=
  let x := fp32.decode d
  let mag := fp32.decode (d % 2 ^ 31)
  if guard && !x.isNan && mag.lt (fp32.decode tau) then (tau % 2 ^ 31 + d / 2 ^ 31 * 2 ^ 31, true) else (d, false)

/-- The passes of a lane: the result and whether a divisor was replaced. -/
def dsqLane (op tau : Nat) (guard sat : Bool) (r : Rnd) (a b : Nat) : Nat → Nat × Bool → Nat × Bool
  | 0, y => y
  | k + 1, y =>
    let enc (v : FV) : Nat := fp32.encode r sat v
    let dec (v : Nat) : FV := fp32.decode v
    let step : Nat × Bool :=
      match op with
      | 0 =>
        let d := guarded guard tau b
        (enc ((dec a).div (dec d.1)), d.2)
      | 1 => (enc (dec a).sqrt, false)
      | 2 =>
        let d := guarded guard tau a
        let e := enc (FV.sub r (.ofInt 2 0) ((dec d.1).mul (dec y.1)))
        (enc ((dec y.1).mul (dec e)), d.2)
      | _ =>
        let h := enc ((dec a).mul (dec y.1))
        let e := enc (FV.sub r (.ofInt 3 (-1)) ((FV.ofInt 1 (-1)).mul ((dec h).mul (dec y.1))))
        (enc ((dec y.1).mul (dec e)), false)
    dsqLane op tau guard sat r a b k (step.1, y.2 || step.2)

def execDsqExit (s : State) : Res :=
  s.atNode 8 (fun f =>
    match f.st with
    | .dsq ((a, b) :: rest) =>
      let p := f.n.par 0
      let m := if f.n.dsqTwo then a.mask &&& b.mask else a.mask
      let rnd := (Rnd.ofCode (field p 4 3)).getD .rne
      let lane (i : Nat) : Nat × Bool :=
        dsqLane f.n.dsqOp (p / 2 ^ 32) (bitOf p 8) (bitOf p 7) rnd (elemOf 32 a.data.toNat i) (elemOf 32 b.data.toNat i)
          f.n.dsqPasses (elemOf 32 b.data.toNat i, false)
      let on := (List.range 16).filter (fun i => m.getLsbD i)
      let tag := orErr a.tag ((f.n.dsqTwo && tagErr b.tag) || on.any (fun i => (lane i).2))
      if !f.can [4] then none
      else some (((f.send 4 (vectorTok (buildElems 32 16 (fun i => (lane i).1)) m tag)).set (.dsq rest)).put s)
    | _ => none)

end Sys2Proof.Machine
end

