-- ==== Sys2Proof/Machine/Frames.lean ====
section
/-! DEFINITION. Frames: `frame` nodes and the end of a frame (R237, R238), opening a frame in a slot (R28, R29, R31,
R203, R222), spilling and restoring one (R31, R32), orphaned and stalled frames (R199, R397). -/

namespace Sys2Proof.Machine

/-! ### `frame` nodes (R237, R238) -/

def NodeRec.frameOp (n : NodeRec) : Nat := field (n.par 0) 0 2
def NodeRec.frameSlot (n : NodeRec) : Nat := field (n.par 0) 2 6

/-- Where a slot lies in a frame, and its size (R28). -/
def slotOff (i : Nat) : Nat :=
  if i < 8 then 0x20 + 8 * i else if i < 16 then 0x60 + 8 * (i - 8) else 0xA0 + 64 * (i - 16)
def slotLen (i : Nat) : Nat := if i < 16 then 8 else 64

/-- Write a slot of a frame's argument area. -/
def FrameBuf.setSlot (b : FrameBuf) (i v : Nat) : FrameBuf :=
  if h : i < 8 then { b with a := b.a.set i (BitVec.ofNat 64 v) h }
  else if h : i < 16 then { b with fa := b.fa.set (i - 8) (BitVec.ofNat 64 v) (by omega) }
  else if h : i < 32 then
    let j := (i - 16) / 2
    let old := (b.v[j]'(by omega)).toNat
    let new := if i % 2 == 0 then old / 2 ^ 512 * 2 ^ 512 + v % 2 ^ 512 else old % 2 ^ 512 + v % 2 ^ 512 * 2 ^ 512
    { b with v := b.v.set j (BitVec.ofNat _ new) (by omega) }
  else b

def execFrameRead (s : State) : Res :=
  s.atNode 10 (fun f =>
    match f.st with
    | .frame fired =>
      let i := f.n.frameSlot
      let out := if i < 16 then 0 else 4
      let trig := f.head 8
      if f.n.frameOp != 0 || (if f.fed 8 then trig.isNone else fired) || !f.can [out] then none
      else
        match s.frameGet f.view f.slot (slotOff i) (slotLen i) with
        -- the fault of a speculative read is held with its trigger (R193)
        | .error e => if trig.any (fun t => f.speculative t.tag) then none else some (s.nodeFault f e.2 e.1)
        | .ok (s1, v) =>
          let tag := (trig.map Token.tag).getD f.fresh
          some ((((f.take 8).set (.frame true)).send out (tokFor out v allLanes16 tag)).put s1)
    | _ => none)

def execFrameWrite (s : State) : Res :=
  s.atNode 10 (fun f =>
    let i := f.n.frameSlot
    let port := if i < 16 then 0 else 4
    match f.head port with
    | none => none
    | some t =>
      if f.n.frameOp != 1 || !f.can [8] || f.speculative t.tag then none
      else
        let g := (f.take port).send 8 (controlTok 0 t.tag)
        if f.slot.own then
          some (g.put (s.put f.agent (.dram (f.slot.act.toNat + slotOff i)) (natBytes (slotLen i) t.data.toNat)))
        else
          match s.engPut f.view f.agent (f.slot.act + BitVec.ofNat 64 (slotOff i)) (natBytes (slotLen i) t.data.toNat) with
          | (_, some e) => some (s.nodeFault f e.2 e.1)
          | (s1, none) => some (g.put s1))

/-- The final statuses (R13). -/
def finalStatus (n : Nat) : Bool := n < 12 && n != 8

/-- Requests of a frame that its end waits for: issued, not performed, and not held by R193 or R202. -/
def Region.endWaits (r : Region) (fs : Nat) : Bool :=
  r.reqs.any (fun q => q.fs == fs && q.op != 16 && (q.st == .sent || q.st == .waiting)
    && !((q.stores || q.rmws) && r.speculative q.node fs (tagSeq q.tag)))

def execFrameEnd (s : State) : Res :=
  s.atNode 10 (fun f =>
    match f.head 0 with
    | none => none
    | some t =>
      let st := t.data.toNat % 256
      if f.n.frameOp != 2 || f.speculative t.tag || f.r.endWaits f.fs then none
      else if tagErr t.tag || !finalStatus st then some (s.fabTrap f.r.num f.n.id f.fs { cause := 0xB })
      else some (s.endFrame f.r.num f.fs (BitVec.ofNat 8 st)))

/-- An ENDING slot becomes FREE when nothing of it remains (R203); then the return of R29 is made, whose release covers all that the
frame has done. -/
def execFrameSlotFree (s : State) : Res :=
  match s.region s.site.rgn with
  | none => .next s
  | some r =>
    let fs := s.site.fs
    if (r.fslot fs).st == .ending && !r.chan.any (fun e => tagFs e.2.2.tag == fs)
        && !r.flight.any (fun e => tagFs e.2.2.tag == fs)
        && !r.reqs.any (fun q => q.fs == fs && (q.op == 16 || q.st == .sent || r.mayPerform q)) then
      let r1 : Region :=
        { r.setFslot fs FSlot.free with
          eregs := r.eregs.filter (fun e => e.fs != fs), reqs := r.reqs.filter (fun q => q.fs != fs),
          waves := r.waves.filter (fun w => w.fs != fs) }
      let f := r.fslot fs
      .next (if f.endWait then (s.setRegion r1).frameReturn r1 f f.endStatus else s.setRegion r1)
    else .next s

/-! ### Frames by number -/

/-- The frames of a region: resident, then spilled. -/
def Region.frames (r : Region) : List FSlot := (r.slots.filter (fun f => f.st != .free)) ++ r.spilled.map Spill.slot

def State.findFrame (s : State) (id : Nat) : Option FSlot :=
  (s.regions.flatMap Region.frames ++ s.scanned.flatMap Region.frames).find? (fun f => f.id == id)

/-- The thread at the root of a chain of calls; none where a launch stands there (R33, R34, R199). -/
def State.rootThread (s : State) (f : FSlot) : Nat → Option Tid
  | 0 => none
  | k + 1 =>
    match f.caller with
    | .thread home ctx => some (home, ctx)
    | .node _ id => (s.findFrame id).bind (fun g => s.rootThread g k)
    | _ => none

/-- Depth of a chain at most: one frame per number given out. -/
def State.root (s : State) (f : FSlot) : Option Tid := s.rootThread f s.nextFrame

/-! ### Activation frames (R28) -/

def roundUp64 (n : Nat) : Nat := (n + 63) / 64 * 64

/-- Size of an activation frame. -/
def frameSize (spill : Nat) : Nat := roundUp64 (0x4C0 + spill)

/-- Why a page cannot hold a part of a frame: the cause of a store there. The manual gives one page one failure; which of them a page
that fails several rows of its table has is the model's choice: managed first (log 48). -/
def State.framePageErr (s : State) (v : View) (va : Word) : Option Nat :=
  match ptrCheck .store va with
  | some c => some c
  | none =>
    if (aperture s.pkg.toNat v.core va.toNat).isSome then some AK.store.accessCause
    else
      match s.entryAs v va.toNat with
      | .error e => some (e.cause .store)
      | .ok e =>
        if e.managed then some causeRaw
        else if !granted e.rights 2 || e.policy == 2 || e.fe then some AK.store.accessCause
        else none

/-- The first page of a frame that is not ordinary, by the lowest frame address in it. -/
def State.frameErr (s : State) (v : View) (a : Word) (size : Nat) : Option (Word × Nat) :=
  let first := a.toNat / 4096
  let last := (a.toNat + size - 1) / 4096
  ((List.range (last + 1 - first)).map (fun i => if i == 0 then a else BitVec.ofNat 64 ((first + i) * 4096))).findSome?
    (fun va => (s.framePageErr v va).map (fun c => (va, c)))

/-- The state word of a frame. -/
def frameState (st depth : Nat) (spilled : Bool) (fs : Nat) : Nat :=
  st * 2 ^ 56 + depth % 2 ^ 16 * 2 ^ 40 + spilled.toNat * 4 + fs

/-- A new frame up to its reserved bytes: PREEMPTED, with the arguments. -/
def frameImage (ret : Nat) (p : Word) (b : FrameBuf) : List Byte :=
  natBytes 8 ret ++ natBytes 8 p.toNat ++ natBytes 8 (frameState Status.preempted.code 0 false 0) ++ natBytes 8 0 ++ b.bytes

/-! ### Opening a frame (R28, R29, R31, R203, R220, R222) -/

/-- The state of a special node when a frame opens. -/
def NodeRec.opened (n : NodeRec) : NSt :=
  match n.kind with
  | 1 => .stream false false [] 0 0 false 0
  | 4 => .loop LoopSt.zero
  | 5 => .collect 0 []
  | 8 => .dsq []
  | 9 => .call false false 0 0 [] none none
  | 10 => .frame false
  | 11 | 12 => .ring 0 false none
  | 13 => .sink 9
  | _ => .none

/-- The offset of the value of set bit `i` of a mask among values of `size` bytes. -/
def maskedAt (mask i size : Nat) : Nat := size * ((List.range i).filter (bitOf mask)).length

/-- The registers and predicates of an element when a frame opens (R182, R222). -/
def NodeRec.regs0 (n : NodeRec) (fs : Nat) : EReg :=
  let h := n.par 0
  let gm := field h 8 8
  let gvm := field h 16 4
  let gv0 := 8 + 8 * ((List.range 8).filter (bitOf gm)).length
  { node := n.id, fs := fs,
    g := Vector.ofFn (fun i =>
      if bitOf gm i.val then BitVec.ofNat 64 (bytesNat ((n.params.drop (8 + maskedAt gm i.val 8)).take 8)) else 0),
    gv := Vector.ofFn (fun i =>
      if bitOf gvm i.val then BitVec.ofNat _ (bytesNat ((n.params.drop (gv0 + maskedAt gvm i.val 64)).take 64)) else 0),
    p := BitVec.ofNat 8 h, phase := n.ctx0, lastWord := 0 }

/-- The first free frame slot. -/
def Region.freeSlot (r : Region) : Option Nat := (List.range 4).find? (fun f => (r.fslot f).st == .free)

/-- The argument registers of a frame that opens. -/
def State.openArgs (s : State) (v : View) (o : Opening) : List Word :=
  if o.own then o.buf.a.toList
  else (List.range 8).map (fun i =>
    match s.engRead v (o.act + BitVec.ofNat 64 (0x20 + 8 * i)) 8 with
    | .ok p => BitVec.ofNat 64 p.2
    | .error _ => 0)

/-- The physical address of a frame that the Imposer keeps, in the frame area of its region (R237, log 38). -/
def Region.areaSlot (r : Region) (fs : Nat) : Word :=
  BitVec.ofNat 64 (r.die * 2 ^ 37 + (Config.frameArea r.die).toNat % 2 ^ 36 / 64 * 64 + 0x4C0 * (r.num % 32 * 4 + fs))

/-- The argument area of a frame that the Imposer keeps, as memory holds it. -/
def State.frameBuf (s : State) (f : FSlot) : FrameBuf :=
  let at1 (off n : Nat) : Nat := s.mem.read (f.act.toNat + off) n
  { a := Vector.ofFn (fun i => BitVec.ofNat 64 (at1 (0x20 + 8 * i.val) 8)),
    fa := Vector.ofFn (fun i => BitVec.ofNat 64 (at1 (0x60 + 8 * i.val) 8)),
    v := Vector.ofFn (fun i => BitVec.ofNat _ (at1 (0xA0 + 128 * i.val) 128)) }

/-- A region whose frames that the Imposer keeps carry their argument areas with them (R32, R379). -/
def State.packed (s : State) (r : Region) : Region :=
  { r with slots := r.slots.map (fun f => if f.own && f.st != .free then { f with buf := s.frameBuf f } else f) }

/-- The frame of the caller, or 0. -/
def State.parentAct (s : State) (f : FSlot) : Word :=
  match f.caller with
  | .node _ id => ((s.findFrame id).map FSlot.act).getD 0
  | _ => 0

/-- The Imposer writes a frame that it keeps: the header of R28, the argument area, the reserved bytes (R237). -/
def State.layFrame (s : State) (r : Region) (fs : Nat) (f : FSlot) : State :=
  s.put (r.base f) (.dram f.act.toNat)
    (natBytes 8 0 ++ natBytes 8 (2 ^ 63 + 2 ^ 59 + r.desc.toNat) ++ natBytes 8 (frameState Status.preempted.code f.depth false fs)
      ++ natBytes 8 (s.parentAct f).toNat ++ f.buf.bytes ++ natBytes 32 0)

/-- A `call` node's record of the frame that its call opened (R380). -/
def NSt.called (act : Word) : NSt → NSt
  | .call true e tag _ args ret since => .call true e tag act args ret since
  | x => x
def State.called (s : State) (o : Opening) (act : Word) : State :=
  match o.caller with
  | .node node id =>
    { s with regions := s.regions.map (fun r =>
        { r with nsts := r.nsts.map (fun e =>
                   if e.node == node && (r.fslot e.fs).id == id then { e with st := e.st.called act } else e) }) }
  | _ => s

/-- A frame opens in a slot of a region. A loop that asks for a warm start while `warmen` is clear ends it with REFUSED
before anything fires (R195). -/
def State.openFrame (s : State) (r : Region) (fs : Nat) (o : Opening) : State :=
  let v : View := { die := r.die, core := none, rights := o.rights }
  let f : FSlot :=
    { st := .running, id := o.id, job := o.job, wuid := o.wuid, act := if o.own then r.areaSlot fs else o.act, own := o.own, buf := o.buf,
      args := s.openArgs v o, caller := o.caller, opened := s.cycle, depth := o.depth, limit := o.limit, stallFrom := none,
      endStatus := 0, endWait := false, rights := o.rights, wave := 0 }
  let s1 := if o.own then s.layFrame r fs f
    else (s.engPut v (r.base f) (o.act + 0x10)
      (natBytes 8 (frameState Status.preempted.code o.depth false fs) ++ natBytes 8 o.parent.toNat)).1
  let r1 : Region :=
    { r.setFslot fs f with
      eregs := r.eregs.filter (fun e => e.fs != fs) ++ (r.nodes.filter (fun n => n.kind == 0)).map (fun n => n.regs0 fs),
      nsts := r.nsts.filter (fun e => e.fs != fs)
        ++ (r.nodes.filter (fun n => n.opened != .none)).map (fun n => ⟨n.id, fs, n.opened⟩) }
  let s2 := (s1.setRegion r1).called o f.act
  match r.nodes.find? (fun n => n.kind == 4 && n.par 1 != 0) with
  | some n => if (s.die r.die).warmen then s2 else s2.fabTrap r.num n.id fs { cause := 9 }
  | none => s2

/-! ### Spilling and restoring (R31, R32) -/

/-- A tag under another frame slot. -/
def retag (t : BitVec 15) (fs : Nat) : BitVec 15 := mkTag (tagDims t) (tagErr t) (tagSeq t) fs
def Token.retag (t : Token) (fs : Nat) : Token := { t with tag := Machine.retag t.tag fs }

/-- A node's state under another frame slot. -/
def NSt.retag (x : NSt) (fs : Nat) : NSt :=
  match x with
  | .stream a o idx off c bad tag => .stream a o idx off c bad (Machine.retag tag fs)
  | .loop l => .loop { l with carries := l.carries.map (fun c => (c.1, c.2.1, c.2.2.retag fs)) }
  | .collect e parked => .collect e (parked.map (fun p => (p.1, p.2.retag fs)))
  | .call o e tag fr args ret since => .call o e (Machine.retag tag fs) fr (args.map (fun p => (p.1, p.2.retag fs))) ret since
  | .dsq pipe => .dsq (pipe.map (fun p => (p.1.retag fs, p.2.retag fs)))
  | y => y

/-- Whether a frame was opened before another; frames of one cycle by their numbers. -/
def FSlot.before (f g : FSlot) : Bool := f.opened < g.opened || (f.opened == g.opened && f.id < g.id)

/-- The oldest suspended frame: the one opened earliest (R31). -/
def Region.oldestSuspended (r : Region) : Option Nat :=
  ((List.range 4).filter (fun f => (r.fslot f).st == .suspended)).foldl (fun b f =>
    match b with
    | none => some f
    | some g => if (r.fslot f).before (r.fslot g) then some f else some g) none

/-- The oldest suspended frame, once its commands and issued requests are complete, so that a spill can take it (R31, R203). -/
def Region.toSpill (r : Region) : Option Nat :=
  r.oldestSuspended.filter (fun f =>
    !r.reqs.any (fun q => q.fs == f && (q.op == 16 || q.st == .sent || (q.st == .waiting && r.mayPerform q))))

/-- The words a spill writes: their format is the fabric's (log 9). -/
def State.spillWords (s : State) (n : Nat) : State × List Byte :=
  ({ s with fresh := s.fresh + n },
   ((List.range n).map (fun i => natBytes 8 (Config.freeWord (s.fresh + i)).toNat)).flatten)

/-- The fabric's own state of a frame leaves its slot: it is kept with the spilled frame. -/
def Region.spillOut (r : Region) (fs : Nat) : Region :=
  let mine (e : Nat × Nat × Token) : Bool := tagFs e.2.2.tag == fs
  let sp : Spill :=
    { slot := r.fslot fs, fs := fs, eregs := r.eregs.filter (fun e => e.fs == fs), nsts := r.nsts.filter (fun e => e.fs == fs),
      toks := r.chan.filter mine ++ r.flight.filter mine, reqs := r.reqs.filter (fun q => q.fs == fs),
      waves := r.waves.filter (fun w => w.fs == fs) }
  { r.setFslot fs FSlot.free with
    chan := r.chan.filter (fun e => !mine e), flight := r.flight.filter (fun e => !mine e),
    owed := r.owed ++ sp.toks.map (fun e => (e.1, e.2.1)), eregs := r.eregs.filter (fun e => e.fs != fs),
    nsts := r.nsts.filter (fun e => e.fs != fs), reqs := r.reqs.filter (fun q => q.fs != fs),
    waves := r.waves.filter (fun w => w.fs != fs), spilled := r.spilled ++ [sp] }

/-- Spill a frame: a write that fails, that of the spilled bit too, leaves the frame resident, and the region takes the fault at its
`call` node. -/
def State.spill (s : State) (r : Region) (fs : Nat) : Except State State :=
  let f := r.fslot fs
  if f.own then .ok (s.setRegion ((s.packed r).spillOut fs))
  else
    let w := s.spillWords (r.spillSize / 8)
    let word := natBytes 8 (frameState Status.preempted.code f.depth true fs)
    let fail (e : Word × Nat) : State :=
      let node := ((r.nsts.find? (fun x => x.fs == fs && (match x.st with | .call true _ _ _ _ _ _ => true | _ => false))).map
        NodeSt.node).getD 0
      s.fabTrap r.num node fs { cause := fabCause e.2, va := e.1 }
    match w.1.engPut (r.frameView f) (r.base f) (f.act + 0x4C0) w.2 with
    | (_, some e) => .error (fail e)
    | (s1, none) =>
      match s1.engPut (r.frameView f) (r.base f) (f.act + 0x10) word with
      | (_, some e) => .error (fail e)
      | (s2, none) => .ok (s2.setRegion (r.spillOut fs))

/-- Whether every channel has room for the tokens of a spilled frame and for the answers to its requests, by the rule of its
entries (R184). -/
def Region.roomFor (r : Region) (p : Spill) (fs : Nat) : Bool :=
  r.takesAll fs (p.toks.map (fun e => (e.1, e.2.1)) ++ p.reqs.flatMap r.answers)

/-- A spilled frame comes back into a free slot and runs: its call has returned (R203). -/
def State.restore (s : State) (r : Region) (p : Spill) (fs : Nat) : State :=
  let f : FSlot := { p.slot with st := .running, act := if p.slot.own then r.areaSlot fs else p.slot.act }
  let s1 := if f.own then s.layFrame r fs f
    else (s.engPut (r.frameView f) (r.base f) (f.act + 0x10)
      (natBytes 8 (frameState Status.preempted.code f.depth false fs))).1
  s1.setRegion
    { r.setFslot fs f with
      chan := r.chan ++ p.toks.map (fun e => (e.1, e.2.1, e.2.2.retag fs)),
      eregs := r.eregs ++ p.eregs.map (fun e => { e with fs := fs }),
      nsts := r.nsts ++ p.nsts.map (fun e => ⟨e.node, fs, e.st.retag fs⟩),
      reqs := r.reqs ++ p.reqs.map (fun q => { q with fs := fs, tag := retag q.tag fs }),
      waves := r.waves ++ p.waves.map (fun w => { w with fs := fs }),
      spilled := r.spilled.filter (fun q => q.slot.id != p.slot.id) }

/-! ### Where a frame opens (R29, R31, R116) -/

/-- The regions of the package in ascending number. -/
def State.regionsUp (s : State) : List Region := (List.range 128).filterMap s.region

/-- The clusters of a region's rectangle, as bits of a placement set (R96, R110). -/
def rectBits (num rows cols : Nat) : BitVec 128 :=
  BitVec.ofNat 128 (((List.range rows).flatMap (fun i => (List.range cols).map (fun j =>
    2 ^ (num / 32 * 32 + num % 32 + 8 * i + j)))).foldl (· + ·) 0)
def Region.rect (r : Region) : BitVec 128 := rectBits r.num r.rows r.cols

/-- Whether a region holds a configuration and fires. -/
def Region.serves (r : Region) (desc hash : Word) : Bool := r.st == .running && r.desc == desc && r.hash == hash

/-- The lowest-numbered region with a free slot for a call's frame; a callee of the caller's own configuration opens in
the caller's region, by a spill if it must (R31). -/
def State.openAt (s : State) (o : Opening) : Option Region :=
  if o.same then
    match o.caller with
    | .node _ id =>
      s.regionsUp.find? (fun r => r.st == .running && r.frames.any (fun f => f.id == id)
        && (r.freeSlot.isSome || r.toSpill.isSome))
    | _ => none
  else s.regionsUp.find? (fun r => r.serves o.desc o.hash && r.freeSlot.isSome)

/-- The lowest-numbered region with a free slot for a job's next frame: inside its placement set (R116). -/
def State.openUnitAt (s : State) (j : Job) : Option Region :=
  s.regionsUp.find? (fun r => r.serves (ptrAddr j.block.entry) j.hash && r.freeSlot.isSome
    && r.rect &&& j.block.place == r.rect)

/-- The next frame of a launched job (R237): a0 the argument pointer, a1 the ID, a2 N. -/
def State.unitFrame (s : State) (j : Job) : Opening :=
  let a : Vector Word 8 := #v[j.block.args, BitVec.ofNat 64 j.next, BitVec.ofNat 64 j.block.n.toNat, 0, 0, 0, 0, 0]
  { id := s.nextFrame, desc := ptrAddr j.block.entry, hash := j.hash, same := false, act := 0, own := true,
    buf := { FrameBuf.zero with a := a }, caller := .launch j.id j.next, depth := 0, parent := 0, limit := 2 ^ 24,
    rights := j.rights, job := some j.id, wuid := j.next, since := s.tick }

/-- Whether a job still has frames to open. -/
def Job.opens (j : Job) : Bool := !j.held && j.final.isNone && ptrE j.block.entry && j.next < j.block.n.toNat

/-- A frame no longer waits to open. -/
def State.dropOpening (s : State) (id : Nat) : State :=
  { s with openings := s.openings.filter (fun o => o.id != id), queued := s.queued.filter (fun q => q.who != .frame id) }

/-- Frame `sub` of those waiting opens: the calls in order, then the jobs' next units. -/
def execFrameOpen (s : State) : Res :=
  match s.openings[s.sub]? with
  | some o =>
    match s.openAt o with
    | none => .next s
    | some r =>
      match r.freeSlot, r.toSpill with
      | some fs, _ => .next ((s.dropOpening o.id).openFrame r fs o)
      | none, some g =>
        match s.spill r g with
        | .error t => .next t
        | .ok t => .next (match t.region r.num with | some q => (t.dropOpening o.id).openFrame q g o | none => t)
      | none, none => .next s
  | none =>
    match s.jobs[s.sub - s.openings.length]? with
    | none => .next s
    | some j =>
      -- a launch that the Imposer has still to look at waits for it (R247)
      if !j.opens || s.queued.any (fun q => q.who == .job j.id && !q.tried) then .next s
      else
        match s.openUnitAt j with
        | none => .next s
        | some r =>
          match r.freeSlot with
          | none => .next s
          | some fs =>
            let s1 : State :=
              { s with nextFrame := s.nextFrame + 1,
                       jobs := s.jobs.map (fun x => if x.id == j.id then
                         { x with next := x.next + 1, live := x.live ++ [(x.next, 0)] } else x) }
            .next (s1.openFrame r fs (s.unitFrame j))

/-! ### Orphaned and stalled frames (R199, R397) -/

/-- Whether a node of a frame with no token may still act: a walk that needs no input, a start at the frame's opening, host input, an
outstanding call, or an instruction that requires no input (log 53). -/
def Region.mayStart (r : Region) (fs : Nat) (n : NodeRec) : Bool :=
  match n.kind, r.nst n.id fs with
  | 0, _ =>
    match r.ereg n.id fs with
    | some e => (n.instrs.getD (e.phase - n.ctx0) []).any (fun w =>
        let t := TWord.of w.toNat
        t.req == 0 && (e.p &&& t.care) == (t.value &&& t.care))
    | none => false
  | 1, .stream active opened _ _ _ _ _ => (active && !n.strStore) || (!opened && !r.fed n.id 8 && !r.fed n.id 1)
  | 4, .loop l => let f : Fire := ⟨r, n, fs⟩; f.mayRelease l || f.mayRetire l || (!l.opened && !r.fed n.id 9)
  | 9, .call out _ _ _ _ _ _ => out
  | 10, .frame fired => n.frameOp == 0 && !fired && !r.fed n.id 8
  | 11, .ring _ stopped _ => !stopped
  | _, _ => false

/-- Whether a node keeps tokens of a frame in its own entries (R199; log 53). -/
def NSt.keeps : NSt → Bool
  | .collect _ parked => !parked.isEmpty
  | .dsq pipe => !pipe.isEmpty
  | .loop l => !l.exits.isEmpty || !l.carries.isEmpty
  | _ => false

/-- A frame with nothing left: no token, request, call or node that may still act. -/
def Region.orphan (r : Region) (fs : Nat) : Bool :=
  (r.fslot fs).st == .running && !r.chan.any (fun e => tagFs e.2.2.tag == fs) && !r.flight.any (fun e => tagFs e.2.2.tag == fs)
    && !r.nsts.any (fun e => e.fs == fs && e.st.keeps) && !r.reqs.any (fun q => q.fs == fs) && !r.nodes.any (r.mayStart fs)

def execFrameOrphaned (s : State) : Res :=
  match s.region s.site.rgn with
  | none => .next s
  | some r =>
    if r.fires && r.orphan s.site.fs then
      .next (s.fabTrap r.num ((r.nodes.head?.map NodeRec.id).getD 0) s.site.fs { cause := 0xF })
    else .next s

/-- What keeps a frame that does not fire from being stalled: work in flight, a wait for a pool thread or for the host. -/
def Region.awaits (r : Region) (fs : Nat) : Bool :=
  r.reqs.any (fun q => q.fs == fs && (q.op == 16 || q.st == .sent || q.st == .performed || (q.st == .waiting && r.mayPerform q
    && !((q.stores || q.rmws) && r.speculative q.node fs (tagSeq q.tag)))))
  || r.nsts.any (fun e => e.fs == fs && (match e.st with
      | .call _ false _ _ _ _ (some _) => true
      | .ring _ false (some _) => (r.node? e.node).any (fun n => n.kind == 11 && r.canSend n 0 fs [0, 4, 8])
      | _ => false))

/-- The node that holds a token of a frame: in a channel or on a route, in a node's own entries, or as a request. -/
def Region.holder (r : Region) (fs : Nat) : Option Nat :=
  match (r.chan ++ r.flight).find? (fun e => tagFs e.2.2.tag == fs) with
  | some e => some e.1
  | none =>
    match r.nsts.find? (fun e => e.fs == fs && e.st.keeps) with
    | some e => some e.node
    | none => (r.reqs.find? (fun q => q.fs == fs)).map MReq.node

/-- A frame that has not fired since `stallFrom` ends at its wait limit. -/
def execFabricStall (s : State) : Res :=
  match s.region s.site.rgn with
  | none => .next s
  | some r =>
    let f := r.fslot s.site.fs
    match f.stallFrom, r.holder s.site.fs with
    | some t, some node =>
      if r.fires && f.st == .running && t + f.limit ≤ s.cycle && !r.awaits s.site.fs then
        .next (s.fabTrap r.num node s.site.fs { cause := 5 })
      else .next s
    | _, _ => .next s

end Sys2Proof.Machine
end

