-- ==== Sys2Proof/Machine/CodeObj.lean ====
section
/-! DEFINITION. Code objects as the device reads them in memory: the directory (R94), the ELF sections (R16, R17), the
profiles (R19), function symbols (R21), graph function descriptors (R25), node records (R79, R80) and foldings (R112). -/

namespace Sys2Proof.Machine

/-! ### Bytes the device reads -/

/-- Bytes within 4 KiB, and so within a page, at a virtual address as the loader and the Imposer of a die read them: no rights beyond
GraphCfg (R247). -/
def State.devPiece (s : State) (die va n : Nat) : Option (List Byte) :=
  if (aperture s.pkg.toNat none va).isSome then none
  else match s.walk die va with
    | .ok p =>
      let at1 (i : Nat) : Nat := p.2.pa die false (va + i)
      if p.2.managed && !(List.range n).all (fun i => s.pinned (va + i) 1) then none
      else some ((List.range n).map (fun i => s.dramByte (at1 i)))
    | .error _ => none

/-- Some bytes from a virtual address on, piece by piece, all of them or none. -/
def State.devPieces (s : State) (die va n : Nat) : Nat → Option (List Byte)
  | 0 => some []
  | fuel + 1 =>
    if n == 0 then some []
    else
      let k := min n (4096 - va % 4096)
      match s.devPiece die va k, s.devPieces die (va + k) (n - k) fuel with
      | some b, some bs => some (b ++ bs)
      | _, _ => none

def State.devBytes (s : State) (die va n : Nat) : Option (List Byte) := s.devPieces die va n (n / 4096 + 2)

/-- A little-endian number of `n` bytes. -/
def State.devNat (s : State) (die va n : Nat) : Option Nat := (s.devBytes die va n).map bytesNat

/-- Bytes `lo` to `lo + n − 1` of a string, as a number. -/
def bytesAt (bs : List Byte) (lo n : Nat) : Nat := bytesNat ((bs.drop lo).take n)

/-! ### ELF (R16, R17; log 16) -/

structure Sect where
  type : Nat
  alloc : Bool
  exec : Bool
  va : Nat
  size : Nat
  deriving DecidableEq, Repr

def descMagic : Nat := 0x534B474400000001
def foldMagic : Nat := 0x534B464F00000001

def sectBits : Nat := 1
def sectSyms : Nat := 2
def sectDynSyms : Nat := 11
def sectGraph : Nat := 0x70000B01
def sectFold : Nat := 0x70000B02
def sectProf : Nat := 0x70000B03

/-- A loaded code object: the address of its ELF header, what its addresses are moved by, and its sections. -/
structure CodeObj where
  base : Nat
  bias : Nat
  sects : List Sect
  deriving DecidableEq, Repr

/-- An allocated section lies at its address, moved by the header's address in an object of type ET_DYN; another lies at
its place in the file. -/
def sectOf (base : Nat) (dyn : Bool) (h : List Byte) : Sect :=
  let alloc := bitOf (bytesAt h 8 8) 1
  { type := bytesAt h 4 4, alloc := alloc, exec := bitOf (bytesAt h 8 8) 2,
    va := if alloc then (if dyn then base else 0) + bytesAt h 16 8 else base + bytesAt h 24 8, size := bytesAt h 32 8 }

/-- The code object whose ELF header lies at an address, if it is one (R16). -/
def State.codeObj (s : State) (die base : Nat) : Option CodeObj :=
  match s.devBytes die base 64 with
  | none => none
  | some e =>
    let dyn := bytesAt e 16 2 == 3
    if bytesAt e 0 4 != 0x464C457F || bytesAt e 4 1 != 2 || bytesAt e 5 1 != 1 || bytesAt e 18 2 != 0xB9D4
        || !(dyn || bytesAt e 16 2 == 2) then none
    else
      let sh := base + bytesAt e 40 8
      let hs := (List.range (bytesAt e 60 2)).map (fun i => s.devBytes die (sh + i * bytesAt e 58 2) 64)
      if hs.any Option.isNone then none
      else some { base := base, bias := if dyn then base else 0, sects := hs.filterMap (fun h => h.map (sectOf base dyn)) }

/-- Whether an address lies in an allocated section. -/
def Sect.has (t : Sect) (a : Nat) : Bool := t.alloc && t.va ≤ a && a < t.va + t.size
def CodeObj.holds (c : CodeObj) (a : Nat) : Bool := c.sects.any (fun t => t.has a)

def CodeObj.sect (c : CodeObj) (type : Nat) : Option Sect := c.sects.find? (fun t => t.type == type)

/-- The entries of `.sk.prof` (R19); an object without the section declares nothing. -/
def State.profiles (s : State) (die : Nat) (c : CodeObj) : Option (List Nat) :=
  match c.sect sectProf with
  | none => some []
  | some t =>
    let es := (List.range (t.size / 8)).map (fun i => s.devNat die (t.va + 8 * i) 8)
    if es.any Option.isNone then none else some (es.filterMap id)

/-- The revision of a profile that the part implements. -/
def partRev (p : Nat) : Nat := if p == 1 then Config.tbV else if p == 2 then Config.tbM else if p == 3 then Config.tbG else 0

/-- R21, of the 24 bytes of a symbol: a function that the object defines names a `lpad K` of `.text`, or with E set a graph
function descriptor of `.sk.graph` and K = 1. -/
def State.symbolOk (s : State) (die : Nat) (c : CodeObj) (e : List Byte) : Bool :=
  let o := bytesAt e 5 1
  let k := o / 2 ^ 3 % 2 ^ 4
  let a := c.bias + bytesAt e 8 8
  if bytesAt e 4 1 % 16 != 2 || bytesAt e 6 2 == 0 then true
  else if bitOf o 7 then
    k == 1 && a % 64 == 0 && c.sects.any (fun t => t.type == sectGraph && t.has a) && s.devNat die a 8 == some descMagic
  else a % 4 == 0 && c.sects.any (fun t => t.type == sectBits && t.exec && t.has a) && s.devNat die a 4 == some (lpadWord k)

/-- Every symbol of the object's symbol tables obeys R21; one that cannot be read does not. -/
def State.symbolsOk (s : State) (die : Nat) (c : CodeObj) : Bool :=
  c.sects.all (fun t => (t.type != sectSyms && t.type != sectDynSyms)
    || (List.range (t.size / 24)).all (fun i => (s.devBytes die (t.va + 24 * i) 24).any (s.symbolOk die c)))

/-- The checks of R17, R19 and R21: none where the loader refuses the object; else `profen` (R69). -/
def State.profenOf (s : State) (die : Nat) (c : CodeObj) : Option (BitVec 48) :=
  match s.profiles die c with
  | none => none
  | some es =>
    let rev (p : Nat) : Nat := ((es.find? (fun e => e / 2 ^ 48 == p)).map (fun e => e / 2 ^ 32 % 2 ^ 16)).getD 0
    let bad := es.any (fun e => e / 2 ^ 48 == 0 || 3 < e / 2 ^ 48 || partRev (e / 2 ^ 48) < e / 2 ^ 32 % 2 ^ 16
      || e % 2 ^ 32 != 0)
    let twice := [1, 2, 3].any (fun p => 1 < es.countP (fun e => e / 2 ^ 48 == p))
    if bad || twice || ((c.sect sectGraph).isSome && rev 3 == 0) || !s.symbolsOk die c then none
    else some (BitVec.ofNat 48 (rev 3 * 2 ^ 32 + rev 2 * 2 ^ 16 + rev 1))

/-! ### The directory (R94) -/

def State.dirBase (s : State) (die : Nat) : Nat := (s.die die).codir.toNat / 64 % 2 ^ 47 * 64
def State.dirCount (s : State) (die : Nat) : Nat :=
  let c := s.dram64 (s.dirBase die) % 2 ^ 32
  if c < 2 ^ 16 then c else 0
/-- Entry `i`: hash and address. -/
def State.dirEntry (s : State) (die i : Nat) : Nat × Nat :=
  (s.dram64 (s.dirBase die + 0x40 + 16 * i), s.dram64 (s.dirBase die + 0x48 + 16 * i))
/-- Whether a reserved field of the directory is nonzero. A count of 65,536 or more, which no directory of R94 can hold, is taken
for one (DESIGN CHOICE, log 46). -/
def State.dirBad (s : State) (die : Nat) : Bool :=
  (List.range 60).any (fun i => s.dramByte (s.dirBase die + 4 + i) != 0) || 2 ^ 16 ≤ s.dram64 (s.dirBase die) % 2 ^ 32

/-- The address of the code object of a hash: the first entry that has it. -/
def State.dirFind (s : State) (die : Nat) (hash : Word) : Option Nat :=
  ((List.range (s.dirCount die)).find? (fun i => (s.dirEntry die i).1 == hash.toNat)).map (fun i => (s.dirEntry die i).2)

/-- The first code object of a die's directory that holds an address, with its hash. -/
def State.codeAt (s : State) (die : Nat) (a : Nat) : Option (Word × CodeObj) :=
  (List.range (s.dirCount die)).findSome? (fun i =>
    let e := s.dirEntry die i
    if e.2 / 2 ^ 56 != 0 then none
    else match s.codeObj die e.2 with
      | some c => if c.holds a then some (BitVec.ofNat 64 e.1, c) else none
      | none => none)

/-! ### Graph functions (R25, R79, R80) -/

/-- The size of a node record up to its padding, by its header. -/
def recordLen (h : Nat) : Nat := 32 + 16 * field h 227 7 + 8 * field h 208 16 + field h 192 16

/-- An edge in portable form. -/
def edgeOf (e : Nat) : Edge :=
  { port := field e 60 4, ctx := field e 58 2, node := field e 46 12, inPort := field e 42 4, route := field e 16 10 }

/-- Words of 128 bits, taken by the counts of the four contexts. -/
def splitCtx : List Nat → List (BitVec 128) → List (List (BitVec 128))
  | [], _ => []
  | n :: ns, ws => ws.take n :: splitCtx ns (ws.drop n)

/-- A node record, unplaced. -/
def recordOf (bs : List Byte) : NodeRec :=
  let h := bytesAt bs 0 32
  let ni := field h 227 7
  let ne := field h 208 16
  let counts := (List.range 4).map (fun c => field h (184 - 8 * c) 8)
  let words := (List.range ni).map (fun i => BitVec.ofNat 128 (bytesAt bs (32 + 16 * i) 16))
  let at1 := 32 + 16 * ni
  let at2 := at1 + 8 * ne
  let params := (bs.drop at2).take (field h 192 16)
  { id := field h 236 12, kind := field h 248 8, ctxs := field h 234 2 + 1, instrs := splitCtx counts words,
    edges := (List.range ne).map (fun i => edgeOf (bytesAt bs (at1 + 8 * i) 8)), params := params, arow := field h 144 16,
    acol := field h 128 16, repl := bitOf h 127, unord := bitOf h 126, row := 0, col := 0, ctx0 := 0,
    raw := bs.take 32 ++ (bs.drop at1).take (8 * ne) ++ params }

/-- The checks of R79 to R81 on the header and edges of a record in portable form, beside its contents. The padding is no field:
its bytes are not looked at (DESIGN CHOICE, log 45). -/
def recordForm (bs : List Byte) : Bool :=
  let h := bytesAt bs 0 32
  let ni := field h 227 7
  let ne := field h 208 16
  let counts := (List.range 4).map (fun c => field h (184 - 8 * c) 8)
  ni ≤ 64 && field h 224 3 == 0 && ne ≤ 320 && field h 192 16 % 8 == 0 && field h 192 16 ≤ 2048 && h % 2 ^ 126 / 2 ^ 64 == 0
    && h % 2 ^ 64 == 0 && counts.foldl (· + ·) 0 == ni && counts.all (· ≤ 16)
    && (counts.drop (field h 234 2 + 1)).all (· == 0)
    && (List.range ne).all (fun i => bytesAt bs (32 + 16 * ni + 8 * i) 8 % 2 ^ 42 == 0)

/-- `n` node records from an address on; false beside a record whose form is wrong. -/
def State.records (s : State) (die : Nat) : Nat → Nat → Option (List (NodeRec × Bool))
  | 0, _ => some []
  | n + 1, a =>
    match s.devNat die a 32 with
    | none => none
    | some h =>
      let len := (recordLen h + 31) / 32 * 32
      match s.devBytes die a len, s.records die n (a + len) with
      | some bs, some rs => some ((recordOf bs, recordForm bs) :: rs)
      | _, _ => none

/-- A graph function as the Imposer reads it. `size` is the length of its descriptor and records. -/
structure Graph where
  desc : Nat
  head : List Byte
  nodes : List NodeRec
  formOk : Bool
  size : Nat
  deriving DecidableEq, Repr

/-- The graph function at an address: none where memory cannot be read or no descriptor stands there. -/
def State.graphAt (s : State) (die a : Nat) : Option Graph :=
  match s.devBytes die a 64 with
  | none => none
  | some d =>
    let n := bytesAt d 8 4
    if bytesAt d 0 8 != descMagic || n == 0 || 4096 < n then none
    else
      match s.records die n (a + 64) with
      | none => none
      | some rs =>
        let pad (r : NodeRec) : Nat :=
          (32 + 16 * (r.instrs.map List.length).foldl (· + ·) 0 + 8 * r.edges.length + r.params.length + 31) / 32 * 32
        some { desc := a, head := d, nodes := rs.map Prod.fst, formOk := rs.all Prod.snd,
               size := 64 + (rs.map (fun r => pad r.1)).foldl (· + ·) 0 }

/-- The target of a `call` node. -/
def NodeRec.callTarget (n : NodeRec) : Word := BitVec.ofNat 64 (n.par 0)

/-- The graph functions of `.sk.graph`, found one after the other at 64-byte steps. -/
def State.graphsIn (s : State) (die lo hi : Nat) : Nat → List Graph
  | 0 => []
  | k + 1 =>
    if hi ≤ lo then []
    else
      match s.graphAt die lo with
      | some g => g :: s.graphsIn die (lo + roundUp64 g.size) hi k
      | none => s.graphsIn die (lo + 64) hi k

/-- Whether a configuration holds a `call` node with a control-flow target (R34). -/
def State.hasCallbacks (s : State) (die : Nat) (c : CodeObj) : Bool :=
  match c.sect sectGraph with
  | none => false
  | some t => (s.graphsIn die t.va (t.va + t.size) (t.size / 64 + 1)).any (fun g =>
      g.nodes.any (fun n => n.kind == 9 && !ptrE n.callTarget))

/-! ### Foldings (R112) -/

structure Folding where
  rows : Nat
  cols : Nat
  ctxs : Nat
  carry : Nat
  entries : List Nat
  deriving DecidableEq, Repr

/-- The folding at an address for a graph, if it is well formed: `size` is 0 full, 1 half, 2 quarter. -/
def State.foldingAt (s : State) (die a size : Nat) (g : Graph) : Option Folding :=
  match s.devBytes die a (64 + 8 * g.nodes.length) with
  | none => none
  | some b =>
    let es := (List.range g.nodes.length).map (fun i => bytesAt b (64 + 8 * i) 8)
    let f : Folding := { rows := bytesAt b 0x11 1, cols := bytesAt b 0x12 1, ctxs := bytesAt b 0x13 1, carry := bytesAt b 0x18 8,
                         entries := es }
    let good := bytesAt b 0 8 == foldMagic && bytesAt b 8 8 == g.desc && bytesAt b 0x10 1 == size
      && 1 ≤ f.rows && f.rows ≤ 4 && 1 ≤ f.cols && f.cols ≤ 8 && 1 ≤ f.ctxs && f.ctxs ≤ 4
      && bytesAt b 0x14 4 == g.nodes.length && ((b.drop 0x20).take 32).all (· == 0)
      && es.all (fun e => field e 44 2 == 0 && e % 2 ^ 32 == 0)
    if good then some f else none

/-- The nodes of a graph in the places of a folding. -/
def Folding.place (f : Folding) (g : Graph) : List NodeRec :=
  (g.nodes.zip f.entries).map (fun p => { p.1 with row := field p.2 56 8, col := field p.2 48 8, ctx0 := field p.2 46 2 })

/-- Whether placed nodes fit a folding: inside its shape and contexts, one node to an element context, ids in order. -/
def Folding.fits (f : Folding) (g : Graph) : Bool :=
  let ns := f.place g
  let claims := ns.flatMap (fun n => (List.range n.ctxs).map (fun c => (n.row, n.col, n.ctx0 + c)))
  (g.nodes.zip f.entries).all (fun p => field p.2 32 12 == p.1.id)
    && ns.all (fun n => n.row < 8 * f.rows && n.col < 8 * f.cols && n.ctx0 + n.ctxs ≤ f.ctxs)
    && claims.eraseDups.length == claims.length

end Sys2Proof.Machine
end

