-- ==== Sys2Proof/Machine/FullEmpty.lean ====
section
/-! DEFINITION. Full-empty words (R256 to R258): the presence bit, the tokens that wait on a word at its home slice, and
the four instructions. -/

namespace Sys2Proof.Machine

/-- Service of one token if its condition holds: the waiting thread's instruction completes (R258). -/
def State.serveToken (s : State) (q : FeTok) : State × Bool :=
  let full := s.mem.isFull q.word
  if q.fill then
    if full then (s, false)
    else
      let s1 := s.putNat (s.agentAt q.loc) (.dram q.word) 8 q.data.toNat
      (({ s1 with mem := s1.mem.setFull q.word true } : State).modSlot q.loc (·.retire 8), true)
  else if full then
    let v := BitVec.ofNat 64 (s.mem.read q.word 8)
    let s1 := if q.take then { s with mem := s.mem.setFull q.word false } else s
    (s1.modSlot q.loc (fun t => (t.wx q.rd v).retire 8), true)
  else (s, false)

/-- One pass over the tokens of a word in the order they arrived: those not served stay. -/
def State.servePass (s : State) (word : Nat) : List FeTok → State × List FeTok
  | [] => (s, [])
  | q :: r =>
    if q.word != word then let p := s.servePass word r; (p.1, q :: p.2)
    else
      let a := s.serveToken q
      let p := a.1.servePass word r
      if a.2 then p else (p.1, q :: p.2)

/-- Serve a word's tokens until a pass serves none. -/
def State.serveWord (s : State) (word : Nat) : Nat → State
  | 0 => s
  | n + 1 =>
    let p := s.servePass word s.feq
    let s1 := { p.1 with feq := p.2 }
    if p.2.length == s.feq.length then s1 else s1.serveWord word n

/-- A changed presence bit: the home slice serves the waiting tokens. -/
def State.setPresence (s : State) (word : Nat) (full : Bool) : State :=
  let s1 : State := { s with mem := s.mem.setFull word full }
  if s.mem.isFull word == full then s1 else s1.serveWord word (s.feq.length + 1)

/-- The home word of a full-empty access, or the state after its precise trap (R257). -/
def State.feWord (s : State) (k : AK) (a : Word) : Except State (State × Nat) :=
  if a.toNat % 8 != 0 then s.raise k.misalignedCause a
  else if a.toNat / 2 ^ 56 != 0 || (aperture s.pkg.toNat (some (coreOf s.cur)) a.toNat).isSome then
    s.raise k.accessCause a
  else
    -- a page that lacks full-empty comes before the rights and the managed flag
    let r := s.plbEntry s.cur a.toNat
    match r.2.toOption.filter (fun e => !e.fe) with
    | some _ => r.1.raise k.accessCause a
    | none => do
      let (s1, p, _) ← r.1.beforeAccess k a 8
      match p with
      | .dram pa => .ok (s1, pa)
      | _ => s1.raise k.accessCause a

/-- A waiting form: its token is posted once, and the instruction is over when it is served. -/
def State.feWait (s : State) (a : Word) (mk : Nat → FeTok) (k : AK) (releases : Bool) : Go :=
  let limit := s.waitFor .fe s.waitlim { trap := some (causeFe, a) }
  if s.feq.any (fun q => q.loc == s.cur) then .error limit
  else do
    let s1 ← if releases then s.release .die else .ok s
    let (s2, w) ← s1.feWord k a
    let s3 := ({ s2 with feq := s2.feq ++ [mk w] } : State).serveWord w (s2.feq.length + 2)
    if s3.feq.any (fun q => q.loc == s.cur) then
      .error (s3.waitFor .fe s.waitlim { trap := some (causeFe, a) })
    else .ok s3

def feAddr (s : State) (xb : BitVec 5) (off : BitVec 16) : Word := s.x xb + off.signExtend 64

def execLdFe (xd xb : BitVec 5) (off : BitVec 16) (s : State) : Res :=
  Go.done (s.feWait (feAddr s xb off) (fun w => ⟨w, s.cur, false, false, 0, xd⟩) .load false)

def execLdFeTake (xd xb : BitVec 5) (off : BitVec 16) (s : State) : Res :=
  Go.done (s.feWait (feAddr s xb off) (fun w => ⟨w, s.cur, true, false, 0, xd⟩) .load false)

/-- `st.fe` writes and leaves EMPTY, without a wait. -/
def execStFe (xs xb : BitVec 5) (off : BitVec 16) (s : State) : Res :=
  Go.done do
    let (s1, w) ← s.feWord .store (feAddr s xb off)
    let s2 := s1.putNat (s1.agentAt s.cur) (.dram w) 8 (s.x xs).toNat
    .ok ((s2.setPresence w false).retire 8)

/-- `st.fe.fill`: a release at `.die` (R344). -/
def execStFeFill (xs xb : BitVec 5) (off : BitVec 16) (s : State) : Res :=
  Go.done (s.feWait (feAddr s xb off) (fun w => ⟨w, s.cur, false, true, s.x xs, 0⟩) .store true)

/-- Expiry of a token's wait: it is withdrawn, and the thread traps (R257). -/
def execFeTimeout (s : State) : Res :=
  match s.me.wait with
  | some w =>
    if w.kind == .fe && (w.deadline.any (· ≤ s.cycle)) && s.feq.any (fun q => q.loc == s.cur) then
      .next (s.expire s.cur w.exp)
    else .next s
  | none => .next s

end Sys2Proof.Machine
end

