-- ==== Sys2Proof/Machine/Matrix.lean ====
section
/-! DEFINITION. The matrix unit (R312 to R331): its command blocks and their checks, the five words, the arbiter, and the
steps of a running command. A step acts on cluster `cur`; one step completes one vector or one segment. -/

namespace Sys2Proof.Machine

/-! ### The format word (R314) -/

def mxP (f : Nat) : Nat := f % 16 + 1
def mxA (f : Nat) : Nat := f / 2 ^ 4 % 16
def mxB (f : Nat) : Nat := f / 2 ^ 8 % 16
def mxG (f : Nat) : Nat := f / 2 ^ 16 % 4
/-- SB48 mantissa width of A. -/
def mxM (f : Nat) : Nat := 4 * (f / 2 ^ 18 % 4 + 1)
def mxSat (f : Nat) : Bool := bitOf f 23

def mxInt8 : Nat := 0x0
def mxQa4 : Nat := 0xC
def mxQa8 : Nat := 0xD
def mxSb48 : Nat := 0xE

/-- Whether A is QA4 or QA8. -/
def mxQa (f : Nat) : Bool := mxA f == mxQa4 || mxA f == mxQa8

/-- `mxfmt` is valid. -/
def mxFmtOk (f : Nat) : Bool :=
  f / 2 ^ 24 == 0 && f / 2 ^ 20 % 8 == 0 && f / 2 ^ 12 % 16 == 0
  && (mxB f == mxInt8 || mxB f == mxSb48)
  && (mxA f == mxInt8 || mxQa f || mxA f == mxSb48)
  && (if mxA f == mxSb48 then mxP f == mxM f
      else if mxA f == mxQa4 then mxP f ≤ 4
      else mxP f ≤ 8)
  && (mxA f == mxSb48 || f / 2 ^ 18 % 4 == 0) && (mxQa f || mxG f == 0)

/-! ### The tile block (R317) -/

structure TileBlk where
  abase : Word
  bbase : Word
  bside : Word
  cbase : Word
  bstride : Nat
  cstride : Nat
  m : Nat
  q : Nat
  kblk : Nat
  ncol : Nat
  fill : Word
  reserved : Bool
  deriving DecidableEq, Repr

def TileBlk.of (b : Nat) : TileBlk :=
  { abase := BitVec.ofNat 64 (blkAt b 0 8), bbase := BitVec.ofNat 64 (blkAt b 8 8), bside := BitVec.ofNat 64 (blkAt b 0x10 8),
    cbase := BitVec.ofNat 64 (blkAt b 0x18 8), bstride := blkAt b 0x20 4, cstride := blkAt b 0x24 4, m := blkAt b 0x28 2,
    q := blkAt b 0x2A 2, kblk := blkAt b 0x2C 1, ncol := blkAt b 0x2D 1 + 1, fill := BitVec.ofNat 64 (blkAt b 0x30 8),
    reserved := blkAt b 0x2E 2 != 0 || blkAt b 0x38 8 != 0 }

/-- Slots of the B ring. -/
def TileBlk.slots (c : TileBlk) : Nat := if c.q = 0 then c.m else c.q
/-- Bytes of the bit planes of A. -/
def TileBlk.aBytes (c : TileBlk) (f : Nat) : Nat := mxP f * c.ncol * 6 * c.kblk

/-- Who issues a command, for the scratchpad rule of R317: a core, or an `mxport` node of a cluster. -/
inductive MxFrom where
  | core (c : Nat)
  | port (cluster : Nat)
  deriving DecidableEq, Repr

/-- Where a region that must lie in one scratchpad begins, if it does. -/
def mxSpad (pkg : Nat) (w : MxFrom) (a : Word) (n : Nat) : Option Place :=
  let core := match w with | .core c => some c | .port _ => none
  match aperture pkg core a.toNat with
  | some (some (.spad c off)) =>
    let own := match w with | .core d => c == d | .port k => cluOfCore c == k
    if own && off + n ≤ 2 ^ 20 then some (.spad c off) else none
  | _ => none

def addrOk (a : Word) (align : Nat) : Bool := a.toNat < 2 ^ 56 && a.toNat % align == 0

/-- `CheckTile` (R330). -/
def TileBlk.ok (c : TileBlk) (pkg : Nat) (w : MxFrom) (fmt scale zero : Word) : Bool :=
  let f := fmt.toNat
  !c.reserved && mxFmtOk f
  && 1 ≤ c.m && c.m ≤ 4096 && c.q ≤ c.m && (c.q == 0 || c.fill != 0)
  && 1 ≤ c.kblk && c.kblk ≤ 64 && c.kblk % 2 ^ mxG f == 0 && c.ncol ≤ 128
  && c.bstride % 64 == 0 && 48 * c.kblk ≤ c.bstride && c.cstride % 4 == 0 && 4 * c.ncol ≤ c.cstride
  && addrOk c.abase 64 && addrOk c.bbase 64 && addrOk c.bside (if mxB f == mxInt8 then 4 else 1) && addrOk c.cbase 4
  && addrOk c.fill 8
  && (mxA f == mxInt8 || addrOk scale (if mxQa f then 2 else 1)) && (!mxQa f || addrOk zero 1)
  && (mxSpad pkg w c.abase (c.aBytes f)).isSome && (mxSpad pkg w c.bbase (c.slots * c.bstride)).isSome
  && (c.fill == 0 || (mxSpad pkg w c.fill 8).isSome)

/-! ### The sort block (R327) -/

structure SortBlk where
  keys : Word
  okeys : Word
  oidx : Word
  n : Nat
  ibase : Nat
  len : Nat
  key : Nat
  desc : Bool
  global : Bool
  k : Nat
  reserved : Bool
  deriving DecidableEq, Repr

def SortBlk.of (b : Nat) : SortBlk :=
  { keys := BitVec.ofNat 64 (blkAt b 0 8), okeys := BitVec.ofNat 64 (blkAt b 8 8), oidx := BitVec.ofNat 64 (blkAt b 0x10 8),
    n := blkAt b 0x18 4, ibase := blkAt b 0x1C 2, len := blkAt b 0x1E 1 + 1, key := blkAt b 0x1F 1 / 4 % 4,
    desc := bitOf (blkAt b 0x1F 1) 1, global := bitOf (blkAt b 0x1F 1) 0, k := blkAt b 0x20 1 + 1,
    reserved := blkAt b 0x1F 1 / 16 != 0 || blkAt b 0x21 31 != 0 }

/-- Key width in bytes. -/
def SortBlk.w (c : SortBlk) : Nat := if c.key = 3 then 2 else 4
def SortBlk.segments (c : SortBlk) : Nat := (c.n + c.len - 1) / c.len

/-- `CheckSort` (R330). -/
def SortBlk.ok (c : SortBlk) (topk : Bool) : Bool :=
  !c.reserved && 1 ≤ c.n && c.n < 2 ^ 20 && c.len ≤ 128 && (if topk then c.k ≤ c.len else c.k == 1)
  && addrOk c.keys c.w && addrOk c.okeys c.w && addrOk c.oidx 2

/-- The check of a command block for its form. -/
def mxBlockOk (form : MxForm) (b pkg : Nat) (w : MxFrom) (fmt scale zero : Word) : Bool :=
  match form with
  | .tile | .tileAcc => (TileBlk.of b).ok pkg w fmt scale zero
  | .sort => (SortBlk.of b).ok false
  | .topk => (SortBlk.of b).ok true

/-! ### The words (R329 to R331) -/

/-- A requester's commands, queued or running, of a core. -/
def State.mxCount (s : State) (core : Nat) : Nat :=
  let u := s.clu (cluOfCore core)
  (s.core core).mxQ.length + (if u.run.isSome && u.runReq == core % 8 then 1 else 0)

/-- The four command words. -/
def State.mxWord (s : State) (r : F5) (form : MxForm) : Go := do
  let a := s.x r.s1
  let s1 ← s.beginCommand r.d (a.toNat % 64 != 0)
  let (s2, b) ← s1.readBlock a 8
  let u := s.me.u
  if !mxBlockOk form b s.pkg.toNat (.core (coreOf s.cur)) u.mxfmt u.mxscale u.mxzero then
    .error (s2.refuseCommand r.d .range)
  else if 2 ≤ s2.mxCount (coreOf s.cur) then .error (s2.waitQueue r.d b)
  else
    let cmd : MxCmd :=
      { form := form, blk := BitVec.ofNat 512 b, fmt := u.mxfmt, scale := u.mxscale, zero := u.mxzero,
        who := .thread s.cur s.tid.1 s.me.ctx ((s.x r.s2).truncate 32), limit := s.waitlim,
        rights := s.me.sc.pdrights }
    .ok ((s2.modCore (coreOf s.cur) (fun k => { k with mxQ := k.mxQ ++ [cmd] })).finish r.d .ok 8)

def execMxTile (r : F5) (s : State) : Res := Go.done (s.mxWord r .tile)
def execMxTileAcc (r : F5) (s : State) : Res := Go.done (s.mxWord r .tileAcc)
def execMxSort (r : F5) (s : State) : Res := Go.done (s.mxWord r .sort)
def execMxTopk (r : F5) (s : State) : Res := Go.done (s.mxWord r .topk)

/-- Whether a command belongs to a thread. -/
def MxCmd.ofThread (c : MxCmd) (t : Tid) : Bool :=
  match c.who with
  | .thread _ h x _ => (h, x) == t
  | _ => false

def execMxStat (xd : BitVec 5) (s : State) : Res :=
  let core := coreOf s.cur
  let u := s.clu (cluOfCore core)
  let mine := u.run.any (fun c => c.ofThread s.tid)
  let done := if u.run.isSome && u.runReq == core % 8 then u.step else 0
  .next ((s.setX xd (BitVec.ofNat 64 (done % 2 ^ 32 * 2 ^ 32 + mine.toNat * 8 + u.run.isSome.toNat * 4
    + s.mxCount core))).retire 8)

/-! ### Completions -/

/-- The kind under which a matrix command of an `mxport` node stands among the requests of its region. -/
def opMxport : Nat := 16

/-- Fill the oldest unanswered `mxport` request of a node with its status and value (R242). -/
def answerPort (node fs : Nat) (v : Nat) : List MReq → List MReq
  | [] => []
  | r :: rs =>
    if r.node == node && r.fs == fs && r.op == opMxport && r.st != .performed then
      { r with st := .performed, val := BitVec.ofNat _ v } :: rs
    else r :: answerPort node fs v rs

/-- The running command of cluster `cur` ends with exactly one completion (R322, R324, R328). -/
def State.mxEnd (s : State) (c : MxCmd) (st : Status) (value : Nat) : State :=
  let s1 := (s.dropWrites (s.clu s.cur).far).modClu s.cur (fun u =>
    { u with run := none, planes := 0, step := 0, waitFrom := none, parity := none, far := [] })
  match c.who with
  | .thread _ home ctx tag => (s1.dropAsks (tidNo (home, ctx))).post home ctx 4 st tag (BitVec.ofNat 64 value)
  | .port rgn node fs _ =>
    { s1 with regions := s1.regions.map (fun g =>
        if g.num == rgn then { g with reqs := answerPort node fs (st.code + 256 * (value % 2 ^ 56)) g.reqs } else g) }

/-- VA[55:12] of a faulting access. -/
def faultPage (va : Word) : Nat := va.toNat / 2 ^ 12 % 2 ^ 44

/-- The value of a tile completion: m0 and the page. -/
def mxValue (m page : Nat) : Nat := m % 2 ^ 12 * 2 ^ 44 + page

/-- The number of the frame in a slot of a region. -/
def State.frameAt (s : State) (rgn fs : Nat) : Nat :=
  (((s.regions.find? (fun r => r.num == rgn)).bind (fun r => r.slots[fs]?)).map FSlot.id).getD 0

def State.mxView (s : State) (c : MxCmd) (cluster : Nat) : View :=
  match c.who with
  | .thread loc home ctx _ => s.engineView loc (home, ctx) c.rights
  | .port rgn node fs _ =>
    { die := cluster / 32, core := none, rights := c.rights, who := nodeNo (s.frameAt rgn fs) node, limit := c.limit }

def State.mxAgent (s : State) (c : MxCmd) (cluster : Nat) : Agent :=
  match c.who with
  | .thread loc home ctx _ => s.agentFor loc (home, ctx)
  | .port rgn _ fs _ => { Agent.ofPort (s.frameAt rgn fs) cluster with limit := c.limit }

def MxCmd.from (c : MxCmd) (cluster : Nat) : MxFrom :=
  match c.who with
  | .thread loc _ _ _ => .core (coreOf loc)
  | .port .. => .port cluster

def MxCmd.isTile (c : MxCmd) : Bool := c.form == .tile || c.form == .tileAcc

/-! ### The arbiter (R313) -/

/-- The unstarted commands of a requester. -/
def State.mxQueue (s : State) (cluster req : Nat) : List MxCmd :=
  if req = 8 then (s.clu cluster).portQ else (s.core (8 * cluster + req)).mxQ

def State.mxPop (s : State) (cluster req : Nat) : State :=
  if req = 8 then s.modClu cluster (fun u => { u with portQ := u.portQ.drop 1 })
  else s.modCore (8 * cluster + req) (fun k => { k with mxQ := k.mxQ.drop 1 })

/-- Max(w, 1) for a requester. -/
def mxWeight (w : Word) (req : Nat) : Nat := max (w.toNat / 2 ^ (4 * req) % 16) 1

/-- The requester that starts next and the credit left to it. -/
def State.mxPick (s : State) (cluster : Nat) : Option (Nat × Nat) :=
  let u := s.clu cluster
  if !(s.mxQueue cluster u.ptr).isEmpty && 0 < u.credit then some (u.ptr, u.credit - 1)
  else
    (((List.range 9).map (fun i => (u.ptr + 1 + i) % 9)).find? (fun r => !(s.mxQueue cluster r).isEmpty)).map
      (fun r => (r, mxWeight u.mxwt r - 1))

/-- The rights of A, B and the fill word at the start (R322): the first address that fails. -/
def State.mxRights (s : State) (cluster : Nat) (c : MxCmd) : Option Word :=
  let t := TileBlk.of c.blk.toNat
  let bad (a : Word) : Bool :=
    match mxSpad s.pkg.toNat (c.from cluster) a 1 with
    | some p => (match s.apPlace c.rights .load (some p) with | .ok _ => false | .error _ => true)
    | none => true
  [t.abase, t.bbase, t.fill].find? (fun a => a != 0 && bad a)

/-- `n` bytes of a region in a scratchpad, as a number. -/
def State.mxBytes (s : State) (w : MxFrom) (a : Word) (n : Nat) : Nat :=
  match mxSpad s.pkg.toNat w a n with
  | some p => s.get p n
  | none => 0

/-- The bit planes of a command's weights, as its cells take them (R312, R318). -/
def State.mxPlanes (s : State) (cluster : Nat) (c : MxCmd) : Nat :=
  let t := TileBlk.of c.blk.toNat
  if c.isTile then s.mxBytes (c.from cluster) t.abase (t.aBytes c.fmt.toNat) else 0

def execMxuArbitrate (s : State) : Res :=
  let u := s.clu s.cur
  if u.run.isSome then .next s
  else
    match s.mxPick s.cur with
    | none => .next s
    | some (r, credit) =>
      match (s.mxQueue s.cur r).head? with
      | none => .next s
      | some c =>
        let s1 := (s.mxPop s.cur r).modClu s.cur (fun u =>
          { u with
            run := some c, runReq := r, planes := s.mxPlanes s.cur c, step := 0, waitFrom := none, ptr := r,
            credit := credit, parity := none })
        match (if c.isTile then s.mxRights s.cur c else none) with
        | some a => .next (s1.mxEnd c .fault (mxValue 0 (faultPage a)))
        | none => .next s1

/-! ### A tile (R318 to R322) -/

/-- What one tile works with. -/
structure TileRun where
  t : TileBlk
  f : Nat
  scale : Word
  zero : Word
  acc : Bool
  planes : Nat
  v : View
  ag : Agent
  who : MxFrom
  deriving DecidableEq, Repr

def State.mxTile (s : State) (c : MxCmd) (cluster planes : Nat) : TileRun :=
  { t := TileBlk.of c.blk.toNat, f := c.fmt.toNat, scale := c.scale, zero := c.zero, acc := c.form == .tileAcc, planes := planes,
    v := s.mxView c cluster, ag := s.mxAgent c cluster, who := c.from cluster }

def TileRun.spad (u : TileRun) (s : State) (a : Word) (n : Nat) : Nat := s.mxBytes u.who a n

/-- Whether the codes of A are two's complement. -/
def TileRun.signed (u : TileRun) : Bool := !mxQa u.f

/-- The weights that the cells of column c hold, k rising: bits by plane, plane P - 1 negative for signed codes (R318). -/
def TileRun.weights (u : TileRun) (c : Nat) : List Int :=
  let n := 6 * u.t.kblk
  let p := mxP u.f
  let planes := (List.range p).map (fun b => u.planes / 2 ^ (8 * (b * u.t.ncol * n + c * n)) % 2 ^ (8 * n))
  (List.range (48 * u.t.kblk)).map (fun k => ival u.signed p (packElems 1 (planes.map (fun x => x / 2 ^ k))))

/-- The activations of vector m (R319). -/
def TileRun.codes (u : TileRun) (s : State) (m : Nat) : List Int :=
  let n := 48 * u.t.kblk
  let x := u.spad s (u.t.bbase + BitVec.ofNat 64 (m % u.t.slots * u.t.bstride)) n
  (List.range n).map (fun k => sval 8 (elemOf 8 x k))

/-- A value that a NaN or an infinity turns into NaN (R46, R51). -/
def finiteOrNan (v : FV) : FV := if v.isInf then .nan else v

/-- The B factor of every cell of vector m (R320). -/
def TileRun.bFactors (u : TileRun) (s : State) (m : Nat) : Except (State × Word) (State × List FV) :=
  let slot := m % u.t.slots
  if mxB u.f == mxSb48 then do
    let (s1, es) ← s.eReads u.v (u.t.bside + BitVec.ofNat 64 (slot * u.t.kblk)) 1 u.t.kblk
    .ok (s1, es.map (fun (e : Nat) => if e == 255 then .nan else FV.fin false 1 ((e : Int) - 133)))
  else do
    let (s1, x) ← s.eRead u.v (u.t.bside + BitVec.ofNat 64 (4 * slot)) 4
    .ok (s1, List.replicate u.t.kblk (finiteOrNan (fp32.decode x)))

/-- The A factor and the zero point of every cell of column c (R315, R320). -/
def TileRun.aFactors (u : TileRun) (s : State) (c : Nat) : Except (State × Word) (State × List (FV × Nat)) :=
  let k := u.t.kblk
  if mxQa u.f then do
    let g := 2 ^ mxG u.f
    let n := k / g
    let (s1, ss) ← s.eReads u.v (u.scale + BitVec.ofNat 64 (2 * (c * n))) 2 n
    let (s2, zs) ← s1.eReads u.v (u.zero + BitVec.ofNat 64 (c * n)) 1 n
    .ok (s2, (List.range k).map (fun i => (finiteOrNan (fp16.decode (ss.getD (i / g) 0)), zs.getD (i / g) 0)))
  else if mxA u.f == mxSb48 then do
    let (s1, es) ← s.eReads u.v (u.scale + BitVec.ofNat 64 (c * k)) 1 k
    .ok (s1, es.map (fun (e : Nat) =>
      (if e == 255 then .nan else FV.fin false 1 ((e : Int) - 127 - ((mxM u.f : Int) - 2)), 0)))
  else .ok (s, List.replicate k (FV.one, 0))

/-- Sum of products of two lists. -/
def dotInt (a x : List Int) : Int := (List.zipWith (· * ·) a x).foldl (· + ·) 0

/-- The contribution of one cell (R320). -/
def cellValue (a x : List Int) (af : FV × Nat) (bf : FV) : FV :=
  ((FV.ofInt (dotInt a x - af.2 * x.foldl (· + ·) 0) 0).mul af.1).mul bf

/-- Column c of vector m: the FP32 result (R321). -/
def TileRun.column (u : TileRun) (s : State) (x : List Int) (bf : List FV) (m c : Nat) :
    Except (State × Word) (State × Nat) := do
  let (s1, af) ← u.aFactors s c
  let w := u.weights c
  let ps := (List.range u.t.kblk).map (fun i =>
    cellValue ((w.drop (48 * i)).take 48) ((x.drop (48 * i)).take 48) (af.getD i (.one, 0)) (bf.getD i .nan))
  if u.acc then
    let (s2, old) ← s1.eRead u.v (u.t.cbase + BitVec.ofNat 64 (m * u.t.cstride + 4 * c)) 4
    .ok (s2, csNorm (mxSat u.f) (csSum (ps ++ [fp32.decode old])))
  else .ok (s1, csNorm (mxSat u.f) (csSum ps))

/-- Columns c, c + 1, … of vector m. -/
def TileRun.columns (u : TileRun) (x : List Int) (bf : List FV) (m : Nat) :
    Nat → Nat → State → Except (State × Word) (State × List Nat)
  | 0, _, s => .ok (s, [])
  | n + 1, c, s => do
    let (s1, y) ← u.column s x bf m c
    let (s2, ys) ← u.columns x bf m n (c + 1) s1
    .ok (s2, y :: ys)

/-- Vector m, written whole or not at all. -/
def TileRun.vector (u : TileRun) (s : State) (m : Nat) : Eng := do
  let (s1, bf) ← u.bFactors s m
  let (s2, ys) ← u.columns (u.codes s m) bf m u.t.ncol 0 s1
  s2.eWrites u.v u.ag (u.t.cbase + BitVec.ofNat 64 (m * u.t.cstride)) 4 ys

/-- Whether vector m waits on the fill word (R319). -/
def TileRun.waits (u : TileRun) (s : State) (m : Nat) : Bool := u.t.fill != 0 && u.spad s u.t.fill 8 ≤ m

/-- The matrix unit of cluster `cur` is done with a vector or segment: the next one follows. -/
def State.mxNext (s : State) : State :=
  (s.dropWrites (s.clu s.cur).far).modClu s.cur (fun k => { k with step := k.step + 1, waitFrom := none, parity := none, far := [] })

/-- A vector or segment is written: what of it went to other packages is acknowledged before the next one (R322, R328). -/
def State.mxWritten (s t : State) : State :=
  let far := s.newWrites t
  if far.isEmpty then t.mxNext else t.modClu s.cur (fun k => { k with far := far })

/-- The next vector of the running tile, or its end (R322). -/
def execTileCompletion (s : State) : Res :=
  let k := s.clu s.cur
  match k.run with
  | none => .next s
  | some c =>
    if !c.isTile then .next s
    else
      let u := s.mxTile c s.cur k.planes
      if !k.far.isEmpty then
        match s.farFailed k.far with
        | some va => .next (s.mxEnd c .fault (mxValue k.step (faultPage va)))
        | none => .next (if s.unacked k.far then s else s.mxNext)
      else if u.t.m ≤ k.step then .next (s.mxEnd c .ok 0)
      else if u.waits s k.step then
        .next (s.setClu s.cur { k with waitFrom := some (k.waitFrom.getD s.cycle) })
      else
        match u.vector s k.step with
        | .ok t => .next (s.mxWritten t)
        | .error p => .next (s.mxEnd c .fault (mxValue k.step (faultPage p.2)))

/-- The fill word has not passed the vector within the limit (R319, R322). -/
def execFillWaitTimeout (s : State) : Res :=
  let k := s.clu s.cur
  match k.run, k.waitFrom with
  | some c, some from' =>
    if c.isTile && (s.mxTile c s.cur k.planes).waits s k.step && from' + c.limit ≤ s.cycle then
      .next (s.mxEnd c .timeout (mxValue k.step 0))
    else .next s
  | _, _ => .next s

/-- A parity error of a stationary weight (R325): the cells take their planes from A again and the vector is computed again; a
second one ends the command. -/
def execMxuParityError (s : State) : Res :=
  let k := s.clu s.cur
  match k.run with
  | none => .next s
  | some c =>
    if !c.isTile || (TileBlk.of c.blk.toNat).m ≤ k.step then .next s
    else
      let s1 := s.setClu s.cur
        { k with mxerr := if k.mxerr == BitVec.allOnes 32 then k.mxerr else k.mxerr + 1,
                  planes := s.mxPlanes s.cur c, parity := some k.step }
      .next (if k.parity == some k.step then s1.mxEnd c .fault (mxValue k.step 0) else s1)

/-! ### Sorting (R328) -/

/-- Order of a key by its bits: two's complement, unsigned, or IEEE totalOrder. -/
def sortKey (kind v : Nat) : Int :=
  let fp (x : Nat) : Int := if x < 2 ^ 31 then x else 2 ^ 31 - 1 - (x : Int)
  match kind with
  | 0 => sval 32 v
  | 1 => v
  | 2 => fp v
  | _ => fp (v * 2 ^ 16)

/-- A key with its index. -/
abbrev Keyed := Nat × Nat

def Keyed.before (kind : Nat) (desc : Bool) (a b : Keyed) : Bool :=
  let x := sortKey kind a.1
  let y := sortKey kind b.1
  if x == y then a.2 ≤ b.2 else if desc then y < x else x < y

def sortInsert (le : Keyed → Keyed → Bool) (a : Keyed) : List Keyed → List Keyed
  | [] => [a]
  | b :: r => if le a b then a :: b :: r else b :: sortInsert le a r

/-- The keys in order; equal ones stay in index order. -/
def sortKeys (le : Keyed → Keyed → Bool) : List Keyed → List Keyed
  | [] => []
  | a :: r => sortInsert le a (sortKeys le r)

/-- Segment t: read, sorted and written, whole or not at all. -/
def State.sortSegment (s : State) (v : View) (ag : Agent) (c : SortBlk) (topk : Bool) (t : Nat) : Eng := do
  let lo := c.len * t
  let cnt := min c.len (c.n - lo)
  let (s1, ks) ← s.eReads v (c.keys + BitVec.ofNat 64 (lo * c.w)) c.w cnt
  let index (i : Nat) : Nat := (c.ibase + (if c.global then lo + i else i)) % 2 ^ 16
  let sorted := sortKeys (Keyed.before c.key c.desc) ((List.range cnt).map (fun i => (ks.getD i 0, index i)))
  let out := if topk then sorted.take c.k else sorted
  let pos := if topk then c.k * t else lo
  let s2 ← s1.eWrites v ag (c.okeys + BitVec.ofNat 64 (pos * c.w)) c.w (out.map Prod.fst)
  s2.eWrites v ag (c.oidx + BitVec.ofNat 64 (pos * 2)) 2 (out.map Prod.snd)

/-- The next segment of the running sort, or its end. -/
def execSortCompletion (s : State) : Res :=
  let k := s.clu s.cur
  match k.run with
  | none => .next s
  | some c =>
    if c.isTile then .next s
    else
      let b := SortBlk.of c.blk.toNat
      if !k.far.isEmpty then
        match s.farFailed k.far with
        | some va => .next (s.mxEnd c .fault (faultPage va))
        | none => .next (if s.unacked k.far then s else s.mxNext)
      else if b.segments ≤ k.step then .next (s.mxEnd c .ok 0)
      else
        match s.sortSegment (s.mxView c s.cur) (s.mxAgent c s.cur) b (c.form == .topk) k.step with
        | .ok t => .next (s.mxWritten t)
        | .error p => .next (s.mxEnd c .fault (faultPage p.2))

end Sys2Proof.Machine
end

