-- ==== Sys2Proof/Machine/IoNodes.lean ====
section
/-! DEFINITION. Nodes that meet the outside of the fabric: `ingress` and `egress` (R239, R240), `sink` (R241), `mxport`
(R242) and `acc` (R243, R244). -/

namespace Sys2Proof.Machine

/-! ### Rings (R239, R240) -/

def NodeRec.ringVec (n : NodeRec) : Bool := bitOf (n.par 2) 33
def NodeRec.ringSlots (n : NodeRec) : Nat := n.par 2 % 2 ^ 16
/-- The limit of a wait in cycles. -/
def NodeRec.ringLimit (n : NodeRec) : Nat := let l := field (n.par 2) 40 24; if l == 0 then 2 ^ 24 else 256 * l
def Fire.ringData (f : Fire) (i : Nat) : Word := f.slot.based (f.n.par 0) (field (f.n.par 2) 24 8) + BitVec.ofNat 64 (64 * i)
def Fire.ringCtl (f : Fire) (i : Nat) : Word := f.slot.based (f.n.par 1) (field (f.n.par 2) 24 8) + BitVec.ofNat 64 (8 * i)

/-- The home word of a control word, or the cause of the fault of reaching it: it must lie in a full-empty page. -/
def State.ctlWord (s : State) (v : View) (k : AK) (a : Word) : Except Nat Nat :=
  if a.toNat % 8 != 0 then .error k.misalignedCause
  else match s.reachAs v k a 8 with
    | .error c => .error c
    | .ok (.dram pa, some e) => if e.fe then .ok pa else .error k.accessCause
    | .ok _ => .error k.accessCause

/-- The node begins to wait at its control word, if it does not already. -/
def Fire.ringWait (f : Fire) (s : State) (i : Nat) (stopped : Bool) (since : Option Nat) : Option State :=
  if since.isSome then none else some ((f.set (.ring i stopped (some s.cycle))).put s)

/-- The token of a control word's slot (R239, R240). -/
def ringToken (vec : Bool) (w data fs : Nat) : Token :=
  let kind := w % 256
  let err := kind != 0 || w / 2 ^ 37 != 0
  let tag : BitVec 15 := BitVec.ofNat 15 (w / 2 ^ 24 % 2 ^ 13 * 4 + fs)
  if vec then vectorTok data (BitVec.ofNat 16 (w / 2 ^ 8)) (orErr tag err) else scalarTok data (orErr tag err)

/-- The bytes of a ring's data slot, which is 64-byte aligned (R239). -/
def State.slotBytes (s : State) (v : View) (a : Word) : Except (Word × Nat) (State × List Byte) :=
  if a.toNat % 64 != 0 then .error (a, AK.load.misalignedCause) else s.engBytes v a 64

/-- Write a ring's data slot (R240). -/
def State.putSlot (s : State) (v : View) (ag : Agent) (a : Word) (bs : List Byte) : State × Option (Word × Nat) :=
  if !bs.isEmpty && a.toNat % 64 != 0 then (s, some (a, AK.store.misalignedCause)) else s.engPut v ag a bs

/-- An `ingress` node waits for its control word to be full, takes it and sends its slot; a slot that cannot be read leaves the
word full. -/
def execIngressTake (s : State) : Res :=
  s.atNode 11 (fun f =>
    match f.st with
    | .ring i false since =>
      if !f.can [0, 4, 8] then none
      else
        match s.ctlWord f.view .load (f.ringCtl i) with
        | .error c => some (s.nodeFault f c (f.ringCtl i))
        | .ok pa =>
          if !s.mem.isFull pa then f.ringWait s i false since
          else
            let w := s.mem.read pa 8
            let s1 := s.setPresence pa false
            let next := (i + 1) % f.n.ringSlots
            if w % 256 == 1 && w / 2 ^ 37 == 0 then
              some (((f.send 8 (controlTok 0 f.fresh)).set (.ring next true none)).put s1)
            else
              match s1.slotBytes f.view (f.ringData i) with
              | .error e => some (s.nodeFault f e.2 e.1)
              | .ok (s2, bs) =>
                let port := if f.n.ringVec then 4 else 0
                some (((f.send port (ringToken f.n.ringVec w (bytesNat bs) f.fs)).set (.ring next false none)).put s2)
    | _ => none)

/-- The slot is written, and the control word follows. -/
def Fire.fillWord (f : Fire) (s : State) (port i pa : Nat) (stopped : Bool) (word : Nat) : State :=
  let g : Fire := { f with r := { f.r with reqs := f.r.reqs.filter (fun q => !(q.op == 17 && q.node == f.n.id && q.fs == f.fs)) } }
  let s1 := s.releaseFrame f.slot.id .die (f.r.clusterOf f.n * 8)
  ((g.take port).set (.ring ((i + 1) % f.n.ringSlots) stopped none)).put
    ((s1.putNat f.agent (.dram pa) 8 word).setPresence pa true)

/-- An `egress` node fills its control word when it is empty: the release side of the pairing. A slot at another package is
acknowledged before (R246, R343). -/
def Fire.fill (f : Fire) (s : State) (port i : Nat) (stopped : Bool) (since : Option Nat) (t : Token) (word : Nat)
    (slot : List Byte) : Option State :=
  if f.speculative t.tag then none
  else
    match s.ctlWord f.view .store (f.ringCtl i) with
    | .error c => some (s.nodeFault f c (f.ringCtl i))
    | .ok pa =>
      if s.mem.isFull pa then f.ringWait s i stopped since
      else
        match f.sending with
        | some q => if q.st == .performed then some (f.fillWord s port i pa stopped word) else none
        | none =>
          match s.putSlot f.view f.agent (f.ringData i) slot with
          | (_, some e) => some (s.nodeFault f e.2 e.1)
          | (s1, none) =>
            some (if (s.newWrites s1).isEmpty then f.fillWord s1 port i pa stopped word else (f.sent s s1).put s1)

/-- The tag bits of a control word. -/
def ctlTagBits (t : BitVec 15) : Nat := t.toNat / 4 * 2 ^ 24

def execEgressWrite (s : State) : Res :=
  s.atNode 12 (fun f =>
    let port := if f.n.ringVec then 4 else 0
    match f.st, f.head port with
    | .ring i st since, some t =>
      f.fill s port i st since t (ctlTagBits t.tag + t.mask.toNat * 2 ^ 8)
        (natBytes 64 (if f.n.ringVec then t.data.toNat else t.data.toNat % 2 ^ 64))
    | _, _ => none)

/-- A control token, taken only when no data head stands, writes an end-of-stream word. -/
def execEgressEndOfStream (s : State) : Res :=
  s.atNode 12 (fun f =>
    match f.st, f.head (if f.n.ringVec then 4 else 0), f.head 8 with
    | .ring i st since, none, some t => f.fill s 8 i st since t 1 []
    | _, _, _ => none)

/-- A wait at a ring reaches its limit: the frame ends with TIMEOUT. -/
def execRingWaitExpiry (s : State) : Res :=
  match s.siteNode with
  | none => .next s
  | some f =>
    match f.st with
    | .ring _ _ (some since) =>
      if (f.n.kind == 11 || f.n.kind == 12) && f.r.fires && f.slot.st == .running && since + f.n.ringLimit ≤ s.cycle then
        .next (s.endFrame f.r.num f.fs Status.timeout.byte)
      else .next s
    | _ => .next s

/-! ### `sink` (R241) -/

/-- Words written at consecutive addresses. -/
def State.engWords (s : State) (v : View) (ag : Agent) (a : Word) (ws : List Nat) : State × Option (Word × Nat) :=
  s.engPut v ag a (ws.map (natBytes 8)).flatten

/-- The log of a token: the entry of an error token, then the header. The log is 64-byte aligned. -/
def Fire.logToken (f : Fire) (s : State) (port : Nat) (t : Token) : Except (Word × Nat) State :=
  let base := f.slot.based (f.n.par 0) (field (f.n.par 1) 16 8)
  if base.toNat % 64 != 0 then .error (base, AK.store.misalignedCause)
  else
  match s.engBytes f.view base 24 with
  | .error e => .error e
  | .ok (s1, bs) =>
    let count := bytesNat (bs.take 8)
    let errs := bytesNat ((bs.drop 8).take 8)
    let idx := bytesNat ((bs.drop 16).take 8)
    let e := (tagErr t.tag).toNat
    let r := if tagErr t.tag then
      s1.engWords f.view f.agent (base + BitVec.ofNat 64 (64 + 128 * (idx % 2 ^ (f.n.par 1 % 256))))
        (elemsOf 64 t.data.toNat 8 ++ [port * 2 ^ 32 + t.tag.toNat * 2 ^ 16 + t.mask.toNat, s.tick.toNat, 0, 0, 0, 0, 0, 0])
      else (s1, none)
    match r with
    | (_, some x) => .error x
    | (s2, none) =>
      match s2.engWords f.view f.agent base [count + 1, errs + e, idx + e] with
      | (_, some x) => .error x
      | (s3, none) => .ok s3

def execSinkConsume (s : State) : Res :=
  s.atNode 13 (fun f =>
    match f.st with
    | .sink last =>
      match ((List.range 10).map (fun k => (last + 1 + k) % 10)).find? (fun p => (f.head p).isSome) with
      | none => none
      | some p =>
        match f.head p with
        | none => none
        | some t =>
          -- a squashed iteration leaves nothing outside the fabric (R193)
          if (f.speculative t.tag && (f.n.par 0 != 0 || bitOf (f.n.par 1) 8)) || f.sending.isSome then none
          else
          match (if f.n.par 0 == 0 then .ok s else f.logToken s p t) with
          | .error e => some (s.nodeFault f e.2 e.1)
          | .ok s1 =>
            let s2 := (((f.take p).set (.sink p)).sent s s1).put s1
            some (if tagErr t.tag && bitOf (f.n.par 1) 8 then s2.fabTrap f.r.num f.n.id f.fs { cause := 7 } else s2)
    | _ => none)

/-! ### `mxport` (R242) -/

/-- Commands of the port of a cluster, queued or running. -/
def State.portCount (s : State) (cluster : Nat) : Nat :=
  (s.clu cluster).portQ.length + (if (s.clu cluster).run.isSome && (s.clu cluster).runReq == 8 then 1 else 0)

def mxFormOf (k : Nat) : MxForm := match k with | 0 => .tile | 1 => .tileAcc | 2 => .sort | _ => .topk

/-- A request that stands for a command of the node, answered already or not. -/
def Fire.mxReq (f : Fire) (tag : BitVec 15) (answer : Option Nat) : MReq :=
  { node := f.n.id, fs := f.fs, wave := 0, ord := 0, pred := 0, succ := 0, ordered := false, op := opMxport, addr := 0,
    data := 0, mask := 0, vec := false, width := 8, tag := tag, st := if answer.isSome then .performed else .waiting,
    val := BitVec.ofNat _ (answer.getD 0), err := false, bad := none }

def execMxportFire (s : State) : Res :=
  s.atNode 14 (fun f =>
    let p := f.n.par 0
    let sin := bitOf p 2
    let zin := bitOf p 3
    match f.head 0 with
    | none => none
    | some t =>
      let h1 := f.head 1
      let h2 := f.head 2
      if (sin && h1.isNone) || (zin && h2.isNone) || f.speculative t.tag || !f.can [0]
          || 2 ≤ s.portCount (f.r.clusterOf f.n) then none
      else
        let g1 := f.take 0
        let g2 := if sin then g1.take 1 else g1
        let g := if zin then g2.take 2 else g2
        let val (h : Option Token) : Word := BitVec.ofNat 64 ((h.map (fun x => x.data.toNat)).getD 0)
        let scale := if sin then val h1 else BitVec.ofNat 64 (f.n.par 2)
        let zero := if zin then val h2 else BitVec.ofNat 64 (f.n.par 3)
        let a : Word := BitVec.ofNat 64 t.data.toNat
        let refuse : State := (g.addReq (f.mxReq t.tag (some Status.range.code))).put s
        let heads := t :: ((if sin then h1.toList else []) ++ (if zin then h2.toList else []))
        match heads.find? (fun h => tagErr h.tag) with
        | some e => some ((g.addReq (f.mxReq e.tag (some (e.data.toNat % 2 ^ 64)))).put s)
        | none =>
        if a.toNat % 64 != 0 then some refuse
        else
          match s.engBytes f.view a 64 with
          | .error e => some (s.nodeFault f e.2 e.1)
          | .ok (s1, bs) =>
            let form := mxFormOf (p % 4)
            let fmt : Word := BitVec.ofNat 64 (f.n.par 1)
            if !mxBlockOk form (bytesNat bs) s.pkg.toNat (.port (f.r.clusterOf f.n)) fmt scale zero then
              some ((g.addReq (f.mxReq t.tag (some Status.range.code))).put s1)
            else
              let cmd : MxCmd :=
                { form := form, blk := BitVec.ofNat 512 (bytesNat bs), fmt := fmt, scale := scale, zero := zero,
                  who := .port f.r.num f.n.id f.fs t.tag, limit := 2 ^ 24, rights := f.slot.rights }
              some (((g.addReq (f.mxReq t.tag none)).put s1).modClu (f.r.clusterOf f.n)
                (fun u => { u with portQ := u.portQ ++ [cmd] })))

/-- The oldest command of the site's node has completed: its token is sent. A node's commands complete in the order issued,
whatever their frames (R242). -/
def execMxportCompletion (s : State) : Res :=
  match s.siteNode with
  | none => .next s
  | some f =>
    let mine (q : MReq) : Bool := q.node == f.n.id && q.op == opMxport
    match f.r.reqs.find? mine with
    | none => .next s
    | some q =>
      if !f.r.interfaceOn || q.st != .performed || q.fs != f.fs then .next s
      else
        let r1 := { f.r with reqs := dropFirst mine f.r.reqs }
        .next (s.setRegion (if f.slot.st == .ending then r1 else r1.send f.n 0 0 (scalarTok q.val.toNat q.tag)))

/-! ### `acc` (R243, R244) -/

def NodeRec.accOp (n : NodeRec) : Nat := field (n.par 1) 13 4
def NodeRec.accVec (n : NodeRec) : Bool := bitOf (n.par 1) 17
def NodeRec.accT (n : NodeRec) : Nat := field (n.par 1) 0 13
def NodeRec.accW (n : NodeRec) : Nat := if n.accOp == 2 || n.accOp == 6 then 8 else 4

/-- The update of an entry (R243). -/
def accNew (op x e : Nat) : Nat :=
  match op with
  | 0 => (e + x) % 2 ^ 32
  | 1 => narrow true true 32 (sval 32 e + sval 32 x)
  | 2 => (e + x) % 2 ^ 64
  | 3 => addF32 e (x % 2 ^ 32)
  | 4 => wrap 32 (min (sval 32 e) (sval 32 x))
  | 5 => wrap 32 (max (sval 32 e) (sval 32 x))
  | _ => (e + 1) % 2 ^ 64

/-- The same as another package is asked for it. -/
def accFarOp (op x : Nat) : FarOp :=
  let v := BitVec.ofNat 64 x
  match op with
  | 0 => .int .add false v 0
  | 1 => .satI32 (BitVec.ofNat 32 x)
  | 2 => .int .add true v 0
  | 3 => .faddF32 (BitVec.ofNat 32 x)
  | 4 => .int .min false v 0
  | 5 => .int .max false v 0
  | _ => .int .add true 1 0

/-- The updates of a firing in ascending lane order: the new values by lane. -/
def State.accumulate (s : State) (f : Fire) (base : Word) : List (Nat × Nat × Nat) → Except (Word × Nat) (State × List (Nat × Nat))
  | [] => .ok (s, [])
  | (i, k, x) :: r => do
    let a := base + BitVec.ofNat 64 (f.n.accW * k)
    match s.engAtomic f.view f.agent a f.n.accW (accFarOp f.n.accOp x) (fun e => some (accNew f.n.accOp x e)) with
    | .error c => .error (a, c)
    | .ok (s1, old) =>
      let (s2, ys) ← s1.accumulate f base r
      .ok (s2, (i, accNew f.n.accOp x old) :: ys)

def execAccUpdate (s : State) : Res :=
  s.atNode 15 (fun f =>
    let n := f.n
    let kp := if n.accVec then 4 else 0
    let counts := n.accOp == 6
    match f.head kp with
    | none => none
    | some t =>
      let vh := f.head (kp + 1)
      if (!counts && vh.isNone) || f.speculative t.tag || !f.can [0, 1, 4] then none
      else
        let g := if counts then f.take kp else (f.take kp).take (kp + 1)
        let value (i : Nat) : Nat :=
          let d := (vh.map (fun h => h.data.toNat)).getD 0
          if n.accVec then (if n.accOp == 2 then wrap 64 (sval 32 (elemOf 32 d i)) else elemOf 32 d i)
          else if n.accW == 4 then d % 2 ^ 32 else d % 2 ^ 64
        let on : BitVec 16 := if n.accVec && !counts then t.mask &&& ((vh.map Token.mask).getD allLanes16) else t.mask
        let keys : List (Nat × Nat) :=
          if n.accVec then ((List.range 16).filter (fun i => on.getLsbD i)).map (fun i => (i, elemOf 32 t.data.toNat i))
          else [(0, t.data.toNat % 2 ^ 64)]
        let good := keys.filter (fun k => k.2 < n.accT)
        let bad := keys.find? (fun k => n.accT ≤ k.2)
        if tagErr t.tag then some ((g.send 1 (scalarTok t.data.toNat t.tag)).put s)
        else
          let base := f.slot.based (n.par 0) (field (n.par 1) 24 8)
          match s.firstFault f.view .amo n.accW (good.map (fun k => base + BitVec.ofNat 64 (n.accW * k.2))) with
          | some e => some (s.nodeFault f e.2 e.1)
          | none =>
            match s.accumulate f base (good.map (fun k => (k.1, k.2, value k.1))) with
            | .error e => some (s.nodeFault f e.2 e.1)
            | .ok (s1, ys) =>
              let g1 := match bad with
                | some k => g.send 1 (scalarTok k.2 (orErr t.tag true))
                | none => g
              let m : BitVec 16 := BitVec.ofNat 16 ((good.map (fun k => 2 ^ k.1)).foldl (· + ·) 0)
              let v := if n.accVec then packElems 32 ((List.range 16).map (fun i => (assoc ys i).getD 0))
                else (assoc ys 0).getD 0
              some ((if good.isEmpty then g1 else g1.send kp (tokFor kp v m t.tag)).put s1))

end Sys2Proof.Machine
end

