-- ==== Sys2Proof/Machine/Imposer.lean ====
section
/-! DEFINITION. The Imposer's load-time checks (R25, R72, R79 to R82, R112, R115, R117 to R120, R189, R209, R220 to R243),
placement (R110 to R114, R116, R398), and the protection of resident configurations (R121 to R123). -/

namespace Sys2Proof.Machine

/-! ### Encodings and records (R117 step 1) -/

/-- Input ports of a node that some edge feeds. -/
def fedPorts (ns : List NodeRec) (id : Nat) : List Nat :=
  (ns.flatMap (fun n => (n.edges.filter (fun e => e.node == id)).map Edge.inPort)).eraseDups

/-- Output ports of a node that an edge leaves. -/
def NodeRec.outPorts (n : NodeRec) : List Nat := (n.edges.map Edge.port).eraseDups

/-- Whether a source selector names a scalar (R74). -/
def scalarSel (s : Nat) : Bool := !((4 ≤ s && s < 8) || (0x18 ≤ s && s < 0x1C))

/-- One word of an element in a context (R189, R209). -/
def wordFits (n : NodeRec) (fed : List Nat) (ctx : Nat) (w : BitVec 128) : Bool :=
  match elOpOf w.toNat with
  | none => false
  | some o =>
    let t := TWord.of w.toNat
    let outs := portsOf (t.out.toNat ||| (if o == .steer then t.imm.toNat % 1024 else 0))
    let sels := ([t.a, t.b, t.c].take o.reads).map BitVec.toNat
    t.ok o && (portsOf t.req.toNat).all fed.contains
      && outs.all (fun p => n.edges.any (fun e => e.port == p && e.ctx == ctx))
      && (n.repl || (o != .repl && !(outs.any (fun p => portCls p == .vector) && sels.all scalarSel)))

/-- The parameter block of an element (R222). -/
def elementParams (n : NodeRec) : Bool :=
  let h := n.par 0
  n.params.isEmpty || (h / 2 ^ 20 == 0 && n.params.length
    == 8 + 8 * ((List.range 8).filter (bitOf (field h 8 8))).length + 64 * ((List.range 4).filter (bitOf (field h 16 4))).length)

/-- The input and output ports that a kind lists, and those it requires (R220). -/
def kindPorts : Nat → List Nat × List Nat × List Nat × List Nat
  | 1 => ([1, 2, 4, 8], [0, 4], [], [])
  | 2 => ([0, 1, 4, 5, 8], [0, 1, 4, 8], [], [])
  | 3 => ([8], [8], [], [])
  | 4 => ([0, 1, 2, 3, 5, 6, 7, 8, 9], [0, 1, 2, 3, 5, 6, 7, 8], [8], [8])
  | 5 => ([0, 1, 2, 3, 4, 5, 6, 7], [0, 4], [], [])
  | 6 => ([0, 4], [0, 4], [], [])
  | 7 => ([4, 5], [4], [], [])
  | 8 => ([4, 5], [4], [], [])
  | 9 => ([0, 1, 2, 3, 4, 5, 6, 7, 8], [0, 1, 2, 3, 4, 5, 8], [], [])
  | 10 => ([0, 4, 8], [0, 4, 8], [], [])
  | 11 => ([], [0, 4, 8], [], [])
  | 12 => ([0, 4, 8], [], [], [])
  | 13 => ([0, 1, 2, 3, 4, 5, 6, 7, 8, 9], [], [], [])
  | 14 => ([0, 1, 2], [0], [], [])
  | 15 => ([0, 1, 4, 5], [0, 1, 4], [], [1])
  | _ => ([], [], [], [])

/-- A base selector (R224). -/
def bselOk (b : Nat) : Bool := b / 8 == 0 || b / 8 == 16

def isSize (e : Nat) : Bool := e == 1 || e == 2 || e == 4 || e == 8

/-- `stream` (R225): reserved bits, levels above the count, sizes and the input a store takes. -/
def streamBlock (n : NodeRec) (ins outs : List Nat) : Bool :=
  let m := n.strMode
  n.params.length == 64 && n.par 7 / 2 ^ 27 == 0 && !bitOf (n.par 7) 16 && m ≤ 4 && field (n.par 7) 22 5 ≤ 16
    && (List.range 4).all (fun i => i < n.strLevels || n.par (3 + i) == 0)
    && (if m == 1 || m == 3 then isSize n.strE else if m == 2 || m == 4 then n.strE == 64 else true)
    && (m != 3 || ins.contains 2) && (m != 4 || ins.contains 4)
    && ins.all (fun p => p == 8 || p == 1 || (m == 3 && p == 2) || (m == 4 && p == 4))
    && outs.all (fun p => m < 3 && p == n.strOut)

/-- `mem` (R227). -/
def memBlock (n : NodeRec) (ins outs : List Nat) : Bool :=
  let b := n.par 0
  let op := n.memOp
  let used := n.memAddrPort :: (match n.memDataPort with | some p => [p] | none => [])
  let vecIn := op == 3 || op == 4 || op == 6
  n.params.length == 40 && b / 2 ^ 48 == 0 && n.par 2 / 2 ^ 32 == 0 && op ≤ 6 && n.memAmo ≤ 9
    && !(n.memVec && n.memW != 4) && (op < 5 || (4 ≤ n.memW && !(n.memAmo == 9 && n.memW != 4))) && (op ≥ 5 || n.memAmo == 0)
    && (if n.unord then op != 0 && n.memOrder == 0 && n.memPred == 0 && n.memSucc == 0
        else 1 ≤ n.memOrder && n.memOrder ≤ 4094)
    && n.par 3 ≤ n.par 4 && ins.all used.contains
    && outs.all (fun p => p == (if op == 0 || op == 2 || op == 4 then 8 else n.memOut) || (p == 1 && (vecIn || op == 2) && op != 3))
    && (!(op == 4 || op == 6) || outs.contains 1)

/-- `loop` (R230). -/
def loopBlock (n : NodeRec) (ids ins outs : List Nat) : Bool :=
  let b := n.par 0
  let nb := field (n.par 2) 0 12
  let carry (p : Nat) : Bool := (1 ≤ p && p ≤ 3) || (5 ≤ p && p ≤ 7)
  let ports := n.loopCarries.map carryPort
  n.params.length == 24 + 64 * n.loopCarries.length + (2 * nb + 7) / 8 * 8 && n.params.length ≤ 2048
    && field b 22 10 == 0 && field b 13 3 == 0 && n.par 2 / 2 ^ 12 == 0 && 1 ≤ nb && nb ≤ 1012
    && 1 ≤ n.loopW && n.loopW ≤ 8 && 1 ≤ n.loopD
    && ports.all (fun p => ins.contains p && outs.contains p)
    && (ins ++ outs).all (fun p => !carry p || ports.contains p)
    && (!n.loopFixed || (n.loopCount != 0 && !ins.contains 0))
    && n.loopBody.all (fun i => i < 4096 && ids.contains i && i != n.id)

/-- `collect` (R119, R232), but for the steer it names. -/
def collectBlock (n : NodeRec) (ins outs : List Nat) : Bool :=
  n.params.length == 8 && n.par 0 / 2 ^ 52 == 0 && field (n.par 0) 13 3 == 0
    && (n.colArms.map n.colPort).all ins.contains && ins.all ((n.colArms.map n.colPort).contains ·) && outs.all (· == n.colOut)

/-- `conv` (R233), `norm` (R234), `dsq` (R235). -/
def convBlock (n : NodeRec) (ins outs : List Nat) : Bool :=
  let b := n.par 0
  let vec := bitOf b 12
  let port := if vec then 4 else 0
  n.params.length == 8 && b / 2 ^ 13 == 0 && (Rnd.ofCode (field b 8 3)).isSome && field b 4 4 ≤ 11 && field b 0 4 ≤ 11
    && !(vec && (field b 4 4 == 6 || field b 0 4 == 6)) && ins.all (· == port) && outs.all (· == port)

def normBlock (n : NodeRec) (ins : List Nat) : Bool :=
  n.params.length == 8 && n.par 0 / 4 == 0 && ins.contains 5 == bitOf (n.par 0) 1

def dsqBlock (n : NodeRec) (ins : List Nat) : Bool :=
  let b := n.par 0
  let tau := b / 2 ^ 32
  let guard := bitOf b 8
  n.params.length == 8 && field b 9 23 == 0 && (Rnd.ofCode (field b 4 3)).isSome && (2 ≤ n.dsqOp || n.dsqPasses == 1)
    && (!guard || (n.dsqOp % 2 == 0 && 0 < tau && tau < 0x7F800000)) && (n.dsqTwo || !ins.contains 5)

/-- `frame` (R237). -/
def frameBlock (n : NodeRec) (ins outs : List Nat) : Bool :=
  let i := n.frameSlot
  let port := if i < 16 then 0 else 4
  n.params.length == 8 && n.par 0 / 2 ^ 8 == 0 && i < 32
    && (match n.frameOp with
        | 0 => ins.all (· == 8) && outs.all (· == port)
        | 1 => [0, 1, 8, 9, 16, 17, 18, 19].contains i && ins.all (· == port) && outs.all (· == 8)
        | 2 => i == 0 && ins.all (· == 0) && outs.isEmpty
        | _ => false)

/-- `ingress` and `egress` (R239). -/
def ringBlock (n : NodeRec) (ins outs : List Nat) : Bool :=
  let b := n.par 2
  let port := if n.ringVec then 4 else 0
  n.params.length == 24 && field b 34 6 == 0 && !bitOf b 32 && field b 16 8 == 0 && 1 ≤ n.ringSlots && bselOk (field b 24 8)
    && ins.all (fun p => p == port || p == 8) && outs.all (fun p => p == port || p == 8)

/-- `sink` (R241), `mxport` (R242), `acc` (R243). -/
def sinkBlock (n : NodeRec) : Bool :=
  let b := n.par 1
  n.params.length == 16 && b / 2 ^ 24 == 0 && field b 9 7 == 0 && b % 256 ≤ 16 && bselOk (field b 16 8)

def mxportBlock (n : NodeRec) : Bool := n.params.length == 32 && n.par 0 / 16 == 0

def accBlock (n : NodeRec) (ins outs : List Nat) : Bool :=
  let b := n.par 1
  let op := field b 13 4
  let vec := bitOf b 17
  let key := if vec then 4 else 0
  let count := op == 6
  n.params.length == 16 && b / 2 ^ 32 == 0 && field b 18 6 == 0 && op ≤ 6 && 1 ≤ field b 0 13 && field b 0 13 ≤ 4096
    && bselOk (field b 24 8)
    && !(count && ins.contains (key + 1)) && ins.all (fun p => p == key || p == key + 1)
    && outs.all (fun p => p == key || p == 1)

/-- `join` (R229) and `call` (R236): the block alone. -/
def joinBlock (n : NodeRec) : Bool :=
  n.params.length == 8 && n.par 0 / 2 ^ 39 == 0 && 1 ≤ n.joinOrder && n.joinOrder ≤ 4094
    && (match Scope.ofCode (field (n.par 0) 36 3) with | some .thr | none => false | some _ => true)

/-- The static checks of a call target (R236). -/
def State.callTargetOk (s : State) (die : Nat) (c : CodeObj) (p : Word) : Bool :=
  let a := p.toNat % 2 ^ 56
  p.toNat / 2 ^ 56 % 8 == 0 &&
    (if ptrE p then ptrK p == 1 && a % 64 == 0 && c.holds a && s.devNat die a 8 == some descMagic
     else ptrK p == 2 && a % 4 == 0 && c.holds a && s.devNat die a 4 == some (lpadWord 2))

/-- A special node's record (R220 to R243). -/
def State.specialOk (s : State) (die : Nat) (c : CodeObj) (ids ins : List Nat) (n : NodeRec) : Bool :=
  let outs := n.outPorts
  let ports := kindPorts n.kind
  n.instrs.all List.isEmpty && n.ctxs == 1 && ins.all ports.1.contains && outs.all ports.2.1.contains
    && ports.2.2.1.all ins.contains && ports.2.2.2.all outs.contains
    && (match n.kind with
        | 1 => streamBlock n ins outs
        | 2 => memBlock n ins outs
        | 3 => joinBlock n
        | 4 => loopBlock n ids ins outs
        | 5 => collectBlock n ins outs
        | 6 => convBlock n ins outs
        | 7 => normBlock n ins
        | 8 => dsqBlock n ins
        | 9 => n.params.length == 16 && n.par 1 / 16 == 0 && !ins.isEmpty && s.callTargetOk die c n.callTarget
        | 10 => frameBlock n ins outs
        | 11 | 12 => ringBlock n ins outs
        | 13 => sinkBlock n
        | 14 => mxportBlock n
        | 15 => accBlock n ins outs
        | _ => false)

/-- The TB-G revision at which a node kind appears (R82). -/
def kindRev (k : Nat) : Nat := if 14 ≤ k then 2 else 1

/-- The edges of a record (R80). An edge that leaves from a context beyond the node's count has no producer: it is refused (DESIGN
CHOICE, log 45). -/
def edgesOk (ns : List NodeRec) (n : NodeRec) : Bool :=
  n.edges.all (fun e => e.port < 10 && e.inPort < 10 && e.ctx < n.ctxs && portCls e.port == portCls e.inPort
    && ns.any (fun m => m.id == e.node))
  && n.edges.all (fun e => (n.edges.filter (fun d => d.port == e.port && d.ctx == e.ctx)).length ≤ 8)

/-- One input port has at most one producer in a context (R80): a producer is a node's output port. -/
def producersOk (ns : List NodeRec) : Bool :=
  let es := (ns.flatMap (fun n => n.edges.map (fun e => ((e.node, e.inPort, e.ctx), (n.id, e.port))))).eraseDups
  es.all (fun e => (es.filter (fun d => d.1 == e.1)).length == 1)

/-- The order, predecessor and successor numbers of a node of the memory-order chain (R227, R229). -/
def NodeRec.chain (n : NodeRec) : Option (Nat × Nat × Nat) :=
  if n.kind == 2 && !n.unord then some (n.memOrder, n.memPred, n.memSucc)
  else if n.kind == 3 then some (n.joinOrder, n.joinPred, n.joinSucc) else none

/-- Links of the memory-order chain that neither side names (R227). -/
def linksOk (ns : List NodeRec) : Bool :=
  let ch := ns.filterMap NodeRec.chain
  ch.all (fun a => (a.2.2 != 0xFFF || ch.any (fun b => b.2.1 == a.1)) && (a.2.1 != 0xFFF || ch.any (fun b => b.2.2 == a.1)))

/-- A record and its instructions (R72, R79 to R82, R220). -/
def State.recordOk (s : State) (die : Nat) (c : CodeObj) (rev : Nat) (ns : List NodeRec) (n : NodeRec) : Bool :=
  let ins := fedPorts ns n.id
  n.kind < 16 && kindRev n.kind ≤ rev && (!n.unord || n.kind == 2) && edgesOk ns n
    && (if n.kind == 0 then elementParams n
          && (n.instrs.zipIdx).all (fun ws => ws.1.all (wordFits n ins ws.2))
        else s.specialOk die c (ns.map NodeRec.id) ins n)

/-- The descriptor (R25). -/
def Graph.headOk (g : Graph) : Bool :=
  let d := g.head
  let targets := (g.nodes.filter (fun n => n.kind == 9)).map NodeRec.callTarget
  g.desc % 64 == 0 && bytesAt d 0x28 4 % 64 == 0 && bytesAt d 0x2C 1 ≤ 8 && bytesAt d 0x2D 1 ≤ 8 && bytesAt d 0x2E 1 ≤ 8
    && bytesAt d 0x2F 1 < 64 && bytesAt d 0x30 4 == (!targets.isEmpty).toNat + 2 * (targets.any ptrE).toNat
    && (d.drop 0x34).all (· == 0)

def State.step1 (s : State) (die : Nat) (c : CodeObj) (rev : Nat) (g : Graph) : Bool :=
  let ids := g.nodes.map NodeRec.id
  g.headOk && g.formOk && ids.eraseDups.length == ids.length && producersOk g.nodes && linksOk g.nodes
    && g.nodes.all (s.recordOk die c rev g.nodes)

/-! ### Foldings and routes (R112, R115, R189) -/

/-- The links of a route between two elements, along the row first. A link leads out of a switch box in one of four
directions: 0 east, 1 west, 2 south, 3 north. -/
def routeLinks (r1 c1 r2 c2 : Nat) : List (Nat × Nat × Nat) :=
  let row := if c1 ≤ c2 then (List.range (c2 - c1)).map (fun i => (r1, c1 + i, 0))
    else (List.range (c1 - c2)).map (fun i => (r1, c1 - i, 1))
  let col := if r1 ≤ r2 then (List.range (r2 - r1)).map (fun i => (r1 + i, c2, 2))
    else (List.range (r1 - r2)).map (fun i => (r1 - i, c2, 3))
  row ++ col

/-- The class, physical context and links of every route. -/
def routesOf (ns : List NodeRec) : List (TokCls × Nat × Nat × Nat × Nat) :=
  ns.flatMap (fun n => n.edges.flatMap (fun e =>
    match ns.find? (fun m => m.id == e.node) with
    | none => []
    | some m => (routeLinks n.row n.col m.row m.col).map (fun l => (portCls e.port, n.ctx0 + e.ctx, l))))

/-- No link carries more routes than it can (R115). -/
def routable (ns : List NodeRec) : Bool :=
  let ls := routesOf ns
  ls.eraseDups.all (fun l => (ls.filter (· == l)).length ≤ (if l.1 == .control then 8 else 4))

/-- Slice-interface columns (R189). -/
def columnsOk (ns : List NodeRec) : Bool :=
  ns.all (fun n => !([1, 2, 10, 15].contains n.kind) || n.col % 2 == 1)

/-- The foldings of a graph that are not set aside, full first: the size and the folding. -/
def State.foldings (s : State) (die : Nat) (g : Graph) : List (Nat × Folding) :=
  ((List.range 3).filterMap (fun i =>
    let a := bytesAt g.head (0x10 + 8 * i) 8
    if a == 0 then none else (s.foldingAt die a i g).map (fun f => (i, f)))).filter
      (fun p => p.2.fits g && routable (p.2.place g))

/-! ### Streams, steers and overlaps (R118 to R120) -/

/-- R118. -/
def nestOk (n : NodeRec) : Bool := (List.range n.strLevels).all (fun i => n.strBound i != 0) && n.strFits 0

/-- The nodes reached from some nodes through edges, going on from no node of `stop`. -/
def reachFrom (ns : List NodeRec) (stop : List Nat) : Nat → List Nat → List Nat
  | 0, l => l
  | k + 1, l =>
    let more := (ns.filter (fun n => l.contains n.id && !stop.contains n.id)).flatMap (fun n => n.edges.map Edge.node)
    let new := (more.filter (fun i => !l.contains i)).eraseDups
    if new.isEmpty then l else reachFrom ns stop k (l ++ new)

/-- The two arms of every `steer`: the element, and the nodes that each arm's ports lead to. -/
def steerArms (ns : List NodeRec) : List (Nat × List Nat × List Nat) :=
  ns.flatMap (fun n => if n.kind != 0 then [] else
    n.instrs.zipIdx.flatMap (fun ws => ws.1.filterMap (fun w =>
      let t := TWord.of w.toNat
      let arm (m : Nat) : List Nat := ((n.edges.filter (fun e => e.ctx == ws.2 && bitOf m e.port)).map Edge.node).eraseDups
      if elOpOf w.toNat == some .steer then some (n.id, arm t.out.toNat, arm (t.imm.toNat % 1024)) else none)))

/-- The nodes at which the arms of a steer re-merge. -/
def remerge (ns : List NodeRec) (a b : List Nat) : List Nat :=
  let k := ns.length
  let rb := reachFrom ns [] k b
  let both := (reachFrom ns [] k a).filter rb.contains
  let fb := reachFrom ns both k b
  ((reachFrom ns both k a).filter fb.contains).filter both.contains

/-- R119: every re-merge node of a steer collects for it or for a steer that encloses it. -/
def steersOk (ns : List NodeRec) : Bool :=
  let k := ns.length
  let arms := steerArms ns
  let encloses (s t : Nat) : Bool := s != t && arms.any (fun x => x.1 == s &&
    (let stop := remerge ns x.2.1 x.2.2
     (reachFrom ns stop k (x.2.1 ++ x.2.2).eraseDups).any (fun n => n == t && !stop.contains n)))
  arms.all (fun x => (remerge ns x.2.1 x.2.2).all (fun m =>
    ns.any (fun n => n.id == m && n.kind == 5 && (n.par 0 % 4096 == x.1 || encloses (n.par 0 % 4096) x.1))))
  && (ns.filter (fun n => n.kind == 5)).all (fun n =>
    (n.colArms.map n.colB).foldl (· + ·) 0 ≤ 256 && arms.any (fun x => x.1 == n.par 0 % 4096))

/-- A declared range: first and last byte, and the argument register its base is relative to. -/
structure Range where
  lo : Nat
  hi : Nat
  reg : Option Nat
  deriving DecidableEq, Repr

def ringReg (b : Nat) : Option Nat := if bitOf b 7 then some (b % 8) else none

/-- The ranges a node covers for R120; a skip node is an ordered memory node like the others. -/
def NodeRec.ranges (n : NodeRec) : List Range :=
  match n.kind with
  | 1 => if n.strMode == 0 then [] else [⟨n.par 1, n.par 2, none⟩]
  | 2 => if n.unord || n.par 3 != 0 || n.par 4 != 0 then [⟨n.par 3, n.par 4, none⟩]
         else [⟨0, 2 ^ 56 - 1, none⟩]
  | 11 | 12 =>
    let r := ringReg (field (n.par 2) 24 8)
    [⟨n.par 0, n.par 0 + 64 * n.ringSlots - 1, r⟩, ⟨n.par 1, n.par 1 + 8 * n.ringSlots - 1, r⟩]
  | 13 => if n.par 0 == 0 then [] else
      [⟨n.par 0, n.par 0 + 64 + 128 * 2 ^ (n.par 1 % 256) - 1, ringReg (field (n.par 1) 16 8)⟩]
  | 15 =>
    let w := if field (n.par 1) 13 4 == 2 || field (n.par 1) 13 4 == 6 then 8 else 4
    [⟨n.par 0, n.par 0 + w * field (n.par 1) 0 13 - 1, ringReg (field (n.par 1) 24 8)⟩]
  | _ => []

def NodeRec.writer (n : NodeRec) : Bool :=
  match n.kind with
  | 1 => n.strStore
  | 2 => n.memOp == 2 || 4 ≤ n.memOp
  | 11 | 12 | 13 | 15 => true
  | _ => false

/-- Ranges that may meet (R120): those of bases relative to the same argument register as written; else a relative one covers
every address below 2^56 (R224). -/
def Range.meets (a b : Range) : Bool :=
  let cover (r : Range) : Range := if a.reg == b.reg || r.reg.isNone then r else { r with lo := 0, hi := 2 ^ 56 - 1 }
  (cover a).lo ≤ (cover b).hi && (cover b).lo ≤ (cover a).hi

/-- The nodes that follow a node at once: by an edge, or by a link of the memory-order chain that either side names. -/
def NodeRec.next (ns : List NodeRec) (n : NodeRec) : List Nat :=
  let linked := match n.chain with
    | none => []
    | some a => (ns.filter (fun m => match m.chain with
        | none => false
        | some b => (a.2.2 == b.1 || b.2.1 == a.1) && n.id != m.id)).map NodeRec.id
  (n.edges.map Edge.node ++ linked).eraseDups

/-- The nodes reached from some nodes by steps of `NodeRec.next`, themselves included. -/
def followFrom (ns : List NodeRec) : Nat → List Nat → List Nat
  | 0, l => l
  | k + 1, l =>
    let new := (((ns.filter (fun n => l.contains n.id)).flatMap (NodeRec.next ns)).filter (fun i => !l.contains i)).eraseDups
    if new.isEmpty then l else followFrom ns k (l ++ new)

/-- The nodes that R120 orders after a node: those that a join reaches which the node reaches. Between unordered nodes and others no
path runs along links alone. -/
def orderedAfter (ns : List NodeRec) (n : NodeRec) : List Nat :=
  let k := ns.length
  let joins := (ns.filter (fun m => m.kind == 3)).map NodeRec.id
  followFrom ns k ((followFrom ns k (n.next ns)).filter joins.contains)

/-- The conflicting pairs of unordered memory nodes (R120), each once, the unordered node first; of two unordered nodes, the earlier
record is U (DESIGN CHOICE, log 56). -/
def conflicts (ns : List NodeRec) : List (Nat × Nat) :=
  let mem := ns.filter (fun n => !n.ranges.isEmpty)
  let free (n : NodeRec) : Bool := n.kind != 2 || n.unord
  mem.zipIdx.flatMap (fun u => mem.zipIdx.filterMap (fun m =>
    let first := if free m.1 then u.2 < m.2 else true
    if free u.1 && u.2 != m.2 && first && (u.1.writer || m.1.writer)
        && u.1.ranges.any (fun a => m.1.ranges.any a.meets)
        && !(orderedAfter ns u.1).contains m.1.id && !(orderedAfter ns m.1).contains u.1.id
    then some (u.1.id, m.1.id) else none))

/-! ### A configuration checked (R17, R19, R117, R247) -/

/-- Whether the pages of some bytes grant GraphCfg under a rights table. -/
def State.graphCfg (s : State) (die : Nat) (rights : Word) (a n : Nat) : Bool :=
  let first := a / 4096
  (List.range ((a + n - 1) / 4096 + 1 - first)).all (fun i =>
    match s.walk die ((first + i) * 4096) with
    | .ok p => granted (s.rightsByte rights p.2.domain) 16
    | .error _ => false)

/-- The spans of a configuration that the Imposer reads: the graph function and its foldings. -/
def Graph.spans (g : Graph) : List (Nat × Nat) :=
  (g.desc, g.size) :: (List.range 3).filterMap (fun i =>
    let a := bytesAt g.head (0x10 + 8 * i) 8
    if a == 0 then none else some (a, 64 + 8 * g.nodes.length))

/-- Whether a launch may use a configuration (R247): GraphCfg on the pages of its descriptor, and on all that the Imposer reads of it
where the descriptor still names a graph. -/
def State.mayUse (s : State) (die : Nat) (desc : Nat) (rights : Word) : Bool :=
  s.graphCfg die rights desc 64 &&
    (match s.graphAt die desc with
     | some g => g.spans.all (fun p => s.graphCfg die rights p.1 p.2)
     | none => true)

/-- A configuration that has passed R117. -/
structure Checked where
  graph : Graph
  folds : List (Nat × Folding)
  clash : List (Nat × Nat)
  deriving DecidableEq, Repr

/-- The checks of a configuration of the code object at `code` in their order; none where it is refused. -/
def State.checkConfig (s : State) (die : Nat) (code desc : Nat) (rights : Word) (race : Bool) : Option Checked :=
  match (s.codeObj die code).filter (fun c => c.holds desc) with
  | none => none
  | some c =>
    match s.profenOf die c, s.graphAt die desc with
    | some pf, some g =>
      let folds := s.foldings die g
      let clash := conflicts g.nodes
      if g.spans.all (fun p => s.graphCfg die rights p.1 p.2) && s.step1 die c (pf.toNat / 2 ^ 32) g && !folds.isEmpty
          && folds.all (fun f => columnsOk (f.2.place g))
          && (g.nodes.filter (fun n => n.kind == 1)).all nestOk && steersOk g.nodes && (race || clash.isEmpty)
      then some ⟨g, folds, clash⟩ else none
    | _, _ => none

/-! ### Placement (R113, R116, R398) -/

/-- Whether someone waits for a frame of a region's configuration. -/
def State.claimed (s : State) (r : Region) : Bool :=
  s.openings.any (fun o => o.desc == r.desc && o.hash == r.hash)
    || s.jobs.any (fun j => j.opens && ptrAddr j.block.entry == r.desc && j.hash == r.hash && r.rect &&& j.block.place == r.rect)

/-- An idle resident region, which is free for placement (R398). -/
def State.idle (s : State) (r : Region) : Bool :=
  r.st == .running && r.live.isEmpty && r.spilled.isEmpty && !s.claimed r

/-- Clusters that a region holds against placement. -/
def State.busy (s : State) : BitVec 128 :=
  (s.regions.filter (fun r => r.st != .free && !s.idle r)).foldl (fun b r => b ||| r.rect) 0

/-- The corners at which a shape lies wholly in a die's grid. -/
def corners (rows cols : Nat) : List Nat :=
  (List.range 128).filter (fun n => n % 32 / 8 + rows ≤ 4 && n % 8 + cols ≤ 8)

def inside (a b : BitVec 128) : Bool := a &&& b == a

/-- The first folding and corner that R113 finds. -/
def State.findPlace (s : State) (c : Checked) (place : BitVec 128) : Option (Nat × Folding × Nat) :=
  let busy := s.busy
  c.folds.findSome? (fun f =>
    ((corners f.2.rows f.2.cols).find? (fun n =>
      inside (rectBits n f.2.rows f.2.cols) place && rectBits n f.2.rows f.2.cols &&& busy == 0)).map (fun n => (f.1, f.2, n)))

/-- Whether some folding's shape fits inside a placement set at all. -/
def Checked.everFits (c : Checked) (place : BitVec 128) : Bool :=
  c.folds.any (fun f => (corners f.2.rows f.2.cols).any (fun n => inside (rectBits n f.2.rows f.2.cols) place))

/-- The bytes of a value, least significant first (R121). -/
def trigBytes (w : BitVec 128) : List Byte := natBytes 16 w.toNat

/-- An edge in placed form (R80). Its route number is written modulo the width of its field (DESIGN CHOICE, log 56). -/
def placedEdge (ns : List NodeRec) (e : Edge) : Nat :=
  let m := ns.find? (fun n => n.id == e.node)
  e.port * 2 ^ 60 + e.ctx * 2 ^ 58 + e.node * 2 ^ 46 + e.inPort * 2 ^ 42 + (m.map NodeRec.row).getD 0 * 2 ^ 34
    + (m.map NodeRec.col).getD 0 * 2 ^ 26 + e.route % 1024 * 2 ^ 16

/-- The signature of a placed configuration (R121): instruction words by element, context and slot, then route tables and
parameter blocks in node-record order. Empty slots give no word, and a node's route table is its placed edges, unpadded (DESIGN
CHOICE, log 56). -/
def signature (ns : List NodeRec) : Word :=
  let key (n : NodeRec) (c : Nat) : Nat := (n.row * 256 + n.col) * 4 + n.ctx0 + c
  let words := ns.flatMap (fun n => n.instrs.zipIdx.map (fun ws => (key n ws.2, ws.1)))
  let upto := (words.map Prod.fst).foldl max 0
  let instr := (List.range (upto + 1)).flatMap (fun k => (words.filter (fun w => w.1 == k)).flatMap (fun w => w.2.flatMap trigBytes))
  let rest := ns.flatMap (fun n => (n.edges.map (fun e => natBytes 8 (placedEdge ns e))).flatten ++ n.params)
  BitVec.ofNat 64 (crc64 (instr ++ rest))

/-- Routes numbered in node-record order. -/
def numberRoutes : Nat → List NodeRec → List NodeRec
  | _, [] => []
  | k, n :: ns =>
    { n with edges := n.edges.zipIdx.map (fun e => { e.1 with route := k + e.2 }) } :: numberRoutes (k + n.edges.length) ns

/-- The cycles of a load (R116). -/
def loadCycles (ns : List NodeRec) : Nat :=
  let words (n : NodeRec) : Nat := (n.instrs.map List.length).foldl (· + ·) 0 + (n.edges.length + 1) / 2 + (n.params.length + 15) / 16
  let per (k : Nat) : Nat := ((ns.filter (fun n => n.row / 8 * 8 + n.col / 8 == k)).map words).foldl (· + ·) 0
  200 + ((List.range 64).map per).foldl max 0

/-- A region that begins to load. -/
def newRegion (num rows cols size : Nat) (ns : List NodeRec) (desc code hash : Word) (prio : BitVec 2) (place : BitVec 128)
    (rights : Word) (spillSize : Nat) (retMask : BitVec 8) (loadEnd : Nat) : Region :=
  { num := num, st := .loading, rows := rows, cols := cols, fold := size, desc := desc, code := code, hash := hash,
    prio := prio, place := place, rights := rights, nodes := ns, sig := signature ns, faulted := [], resumable := [],
    spillSize := spillSize, retMask := retMask, slots := freeSlots,
    chan := [], flight := [], owed := [], eregs := [], nsts := [], reqs := [], waves := [], last := [], trap := none,
    reloads := 0, before := .running, quantum := 0, rounds := 0, loadEnd := loadEnd, home := 0, area := none,
    spilled := [], boundary := none }

/-- Idle regions under a rectangle are unloaded (R398). -/
def State.unload (s : State) (rect : BitVec 128) : State :=
  let gone (r : Region) : Bool := r.rect &&& rect != 0
  let nums := (s.regions.filter gone).map Region.num
  { s with regions := s.regions.filter (fun r => !gone r),
           dies := s.dies.map (fun d => (d.1, { d.2 with ftPending := d.2.ftPending.filter (fun n => !nums.contains n) })) }

/-- The placement race report (R120): a ring of 256 entries of 16 bytes. `prrbase` is taken for a virtual address; an entry that
cannot be written there is lost, and the index advances all the same (DESIGN CHOICE, log 56). -/
def State.raceReport (s : State) (die : Nat) (hash : Word) (desc : Nat) (p : Nat × Nat) : State :=
  let d := s.die die
  let i := d.prridx.toNat % 256
  let lost := d.prridx.toNat / 2 ^ 32 + if 256 ≤ d.prrCount then 1 else 0
  let e := natBytes 8 hash.toNat ++ natBytes 2 p.1 ++ natBytes 2 p.2 ++ natBytes 4 (desc % 2 ^ 32)
  let a := d.prrbase.toNat + 16 * i
  let s1 := match s.walk die a with
    | .ok w =>
      if w.2.managed && !s.pinned a 16 then s
      else (s.beforeWrite die a (some w.2)).put Agent.imposer (.dram (w.2.pa die true a)) e
    | .error _ => s
  s1.setDie die { d with prridx := BitVec.ofNat 64 (lost % 2 ^ 32 * 2 ^ 32 + (i + 1) % 256), prrCount := d.prrCount + 1 }

/-- `Load(f, c)` (R113, R116): the region is loading, and conflicts go to the die's report (R120). -/
def State.load1 (s : State) (q : Queued) (c : Checked) (f : Nat × Folding × Nat) : State :=
  let ns := numberRoutes 0 (f.2.1.place c.graph)
  let r := newRegion f.2.2 f.2.1.rows f.2.1.cols f.1 ns q.desc q.code q.hash q.prio q.place q.rights
    (bytesAt c.graph.head 0x28 4) (BitVec.ofNat 8 (bytesAt c.graph.head 0x2F 1)) (s.cycle + loadCycles ns)
  let s0 := s.unload (rectBits f.2.2 f.2.1.rows f.2.1.cols)
  let s1 : State :=
    { s0 with dies := s0.dies.map (fun d => (d.1, { d.2 with ftPending := d.2.ftPending.filter (· != f.2.2) })) }
  c.clash.foldl (fun t p => t.raceReport (f.2.2 / 32) q.hash c.graph.desc p) { s1 with regions := s1.regions ++ [r] }

/-- The die whose Imposer and directory serve a launch: that of the lowest cluster of its placement set (log 37). -/
def placeDie (place : BitVec 128) : Nat := ((List.range 128).find? (fun i => place.getLsbD i)).getD 0 / 32

/-! ### What becomes of a waiter -/

/-- A call whose frame does not open ends with a status through its frame (R29, R136). -/
def State.failOpening (s : State) (o : Opening) (st : BitVec 8) : State :=
  let s1 := s.dropOpening o.id
  match o.caller with
  | .thread home ctx =>
    let v : View := { die := dieOf ((s.locOf (home, ctx)).getD home), core := none, rights := o.rights }
    let s2 := (s1.engPut v Agent.imposer (o.act + 0x17) [st]).1
    let (s2, tag) := match s2.engRead v (o.act + 4) 4 with | .ok p => p | .error _ => (s2, 0)
    { s2 with arrivals := s2.arrivals ++ [(home, ctx, ⟨1, st, 0, BitVec.ofNat 32 tag, o.act⟩)] }
  | .node node id => s1.answerCall node id st (List.replicate 20 0)
  | _ => s1

def State.modJob (s : State) (id : Nat) (f : Job → Job) : State :=
  { s with jobs := s.jobs.map (fun j => if j.id == id then f j else j) }
def State.job (s : State) (id : Nat) : Option Job := s.jobs.find? (fun j => j.id == id)

def Qp.record (q : Qp) (r : Rec) : Qp := { q with held := q.held ++ [r] }
def State.qp (s : State) (n : Nat) : Qp := (assoc s.qps n).getD Qp.reset
def State.modQp (s : State) (n : Nat) (f : Qp → Qp) : State := { s with qps := assocSet s.qps n (f (s.qp n)) }
def State.port (s : State) (n : Nat) : Port := (assoc s.ports n).getD Port.reset
def State.modPort (s : State) (n : Nat) (f : Port → Port) : State := { s with ports := assocSet s.ports n (f (s.port n)) }

def noUnit : Nat := 0xFFFFFF

/-- Completion records that a queue pair holds at most (R95). -/
def heldLimit : Nat := 64

/-- Whether a queue pair can hold one more record: a stream or a job whose record has no place ends when one has gone (log 46). -/
def State.recordRoom (s : State) (qp : Nat) : Bool := (s.qp qp).held.length < heldLimit

/-- A completion record for a stream (R95). -/
def State.report (s : State) (qp : Nat) (hostTag : Half) (hash : Word) (st : BitVec 8) (lowest units : Nat) : State :=
  s.modQp qp (fun q => q.record ⟨hostTag, st, BitVec.ofNat 24 lowest, BitVec.ofNat 32 units, s.tick, hash⟩)

/-- The head stream of a port ends with a status before any job of it exists, once its record has a place. -/
def State.endStream (s : State) (port : Nat) (st : BitVec 8) : State :=
  match (s.port port).buf with
  | [] => s
  | x :: rest =>
    if !s.recordRoom x.qp then s
    else (({ s with queued := s.queued.filter (fun q => q.who != .stream port) } : State).modPort port
      (fun p => { p with buf := rest })).report x.qp x.hostTag x.hash st noUnit 0

/-- Whether a job can run in the regions it has. -/
def State.jobPlaced (s : State) (j : Job) : Bool :=
  j.next != 0 || s.regions.any (fun r => r.desc == ptrAddr j.block.entry && r.hash == j.hash && inside r.rect j.block.place)

/-- A refused placement (R114): the stream, job or call that waits for it ends. A job that has a region goes on, unless it may not use
it (`all`). -/
def State.refuse (s : State) (q : Queued) (st : Status) (all : Bool := false) : State :=
  let s1 : State := { s with queued := s.queued.filter (fun x => x.who != q.who) }
  match q.who with
  | .stream port => s.endStream port st.byte
  | .job id =>
    match s1.job id with
    | some j => if s1.jobPlaced j && !all then s1 else s1.modJob id (fun x => { x with final := some st.byte })
    | none => s1
  | .frame id =>
    match s1.openings.find? (fun o => o.id == id) with
    | some o => s1.failOpening o st.byte
    | none => s1

/-- How many regions of its configuration a job's frames use: the regions at hand against ⌈N / 4⌉ (R116). -/
def State.wantsRegion (s : State) (q : Queued) : Bool :=
  match q.who with
  | .stream _ => !s.regions.any (fun r => r.desc == q.desc && r.hash == q.hash)
  | .job id =>
    match s.job id with
    | some j =>
      let have1 := s.regions.countP (fun r => r.desc == q.desc && r.hash == q.hash && inside r.rect q.place)
      have1 < (j.block.n.toNat + 3) / 4 && j.next < j.block.n.toNat
    | none => false
  | .frame id =>
    match s.openings.find? (fun o => o.id == id) with
    | some _ => !s.regions.any (fun r => r.desc == q.desc && r.hash == q.hash
        && (r.st == .loading && r.reloads == 0 || (r.st == .running && r.freeSlot.isSome)))
    | none => false

/-- Whether the start tick of a waiter, if it has one, has come: the Imposer starts placing no earlier (R106). A job is queued at its
tick. -/
def State.timely (s : State) (q : Queued) : Bool :=
  match q.who with
  | .stream port => (s.port port).buf.head?.all (fun x => x.block.tick.toNat ≤ s.tick.toNat)
  | _ => true

/-- Whether a waiter is a launch, which needs GraphCfg for a resident configuration too (R247). -/
def Waiter.launches : Waiter → Bool
  | .frame _ => false
  | _ => true

/-- The first entry of the queue that the Imposer has not seen: checked and placed, or queued, or refused (R113). -/
def execConfigPlace (s : State) : Res :=
  match s.queued.find? (fun q => !q.tried && s.timely q) with
  | none => .next s
  | some q =>
    let seen : State := { s with queued := s.queued.map (fun x => if x.who == q.who then { x with tried := true } else x) }
    if q.who.launches && !s.mayUse (placeDie q.place) q.desc.toNat q.rights then .next (s.refuse q .refused true)
    else if !s.wantsRegion q then .next seen
    else
      match s.checkConfig (placeDie q.place) q.code.toNat q.desc.toNat q.rights q.race with
      | none => .next (s.refuse q .refused)
      | some c =>
        match s.findPlace c q.place with
        | some f => .next (seen.load1 q c f)
        | none => .next (if c.everFits q.place then seen else s.refuse q .refused)

/-- The queue in the order of R113: by launch priority, then arrival. -/
def State.queueOrder (s : State) : List Queued :=
  [3, 2, 1, 0].flatMap (fun p => s.queued.filter (fun q => q.tried && q.prio.toNat == p))

/-- The first queued configuration that can be placed now is (R113). A waiter keeps its place in the queue until it has what
it waits for. -/
def execConfigRetry (s : State) : Res :=
  let go (q : Queued) : Option State :=
    if !s.wantsRegion q || !s.timely q then none
    else match s.checkConfig (placeDie q.place) q.code.toNat q.desc.toNat q.rights q.race with
      | none => some (s.refuse q .refused)
      | some c => (s.findPlace c q.place).map (fun f => s.load1 q c f)
  .next ((s.queueOrder.findSome? go).getD s)

/-- A load is complete: the region runs (R116, R205). -/
def execRegionLoad (s : State) : Res :=
  match s.region s.site.rgn with
  | none => .next s
  | some r =>
    if r.st == .loading && r.reloads == 0 && r.loadEnd ≤ s.cycle then .next (s.setRegion { r with st := .running })
    else .next s

/-! ### Soft errors (R121 to R123) -/

/-- Whether a region holds a configuration. -/
def Region.resident (r : Region) : Bool := r.st == .running || r.st == .frozen

/-- The corrected-error counter of a region of a die: no release of the region clears it (R401). -/
def Die.correctedOf (d : Die) (rgn : Nat) : BitVec 32 := (assoc d.corrected rgn).getD 0

/-- The scrubber has read a region and corrected some single-bit errors. -/
def execScrub (corrected : Nat) (s : State) : Res :=
  match s.region s.site.rgn with
  | none => .next s
  | some r =>
    let count := fun d : Die => BitVec.ofNat 32 (min ((d.correctedOf r.num).toNat + corrected) (2 ^ 32 - 1))
    .next (if r.resident then
      s.modDie r.die (fun d => { d with corrected := assocSet d.corrected r.num (count d) })
      else s)

/-- An uncorrectable error: the region freezes and its reload begins. -/
def execUncorrectableError (s : State) : Res :=
  .next (s.modRegion s.site.rgn (fun r =>
    if r.resident then
      { r with st := .loading, before := r.st, reloads := 1, loadEnd := s.cycle + loadCycles r.nodes }
    else r))

/-- The nodes of a region as its code object has them now, in the recorded folding with the recorded routes. -/
def State.reread (s : State) (r : Region) : Option (List NodeRec) :=
  (s.graphAt r.die r.desc.toNat).map (fun g =>
    let ns := r.nodes.map (fun n =>
      match g.nodes.find? (fun m => m.id == n.id) with
      | some m => { m with row := n.row, col := n.col, ctx0 := n.ctx0,
                           edges := m.edges.zipIdx.map (fun e => { e.1 with route := ((n.edges[e.2]?).map Edge.route).getD 0 }) }
      | none => n)
    if g.nodes.length == r.nodes.length then ns else [])

/-- Whether the code object still gives a region the signature it was placed with (R121 to R123). -/
def State.unchanged (s : State) (r : Region) : Bool := (s.reread r).any (fun ns => signature ns == r.sig)

/-- Every live frame of a region ends with a cause (R122, R384). -/
def State.endAll (s : State) (rgn : Nat) (cause : Nat) : State :=
  match s.region rgn with
  | none => s
  | some r =>
    ((List.range 4).filter (fun fs => (r.fslot fs).st == .running || (r.fslot fs).st == .suspended)).foldl
      (fun t fs => t.fabTrap rgn ((r.nodes.head?.map NodeRec.id).getD 0) fs { cause := cause }) s

/-- A reload has failed: every live frame ends, and the region goes on with the configuration that it has (DESIGN CHOICE, log 40). -/
def State.reloadFailed (s : State) (r : Region) : State :=
  (s.modRegion r.num (fun x => { x with st := .running, reloads := 0, boundary := none })).endAll r.num 8

/-- A reload is complete. `error` says that it met another uncorrectable error: the second in succession, or a signature
that differs, ends the frames; else the region resumes as it was. -/
def execConfigReload (error : Bool) (s : State) : Res :=
  match s.region s.site.rgn with
  | none => .next s
  | some r =>
    if !(r.st == .loading && r.reloads != 0 && r.loadEnd ≤ s.cycle) then .next s
    else
      if error && r.reloads < 2 then
        .next (s.setRegion { r with reloads := r.reloads + 1, loadEnd := s.cycle + loadCycles r.nodes })
      else if error || !s.unchanged r then .next (s.reloadFailed r)
      else .next (s.modRegion r.num (fun x => { x with st := r.before, reloads := 0 }))

end Sys2Proof.Machine
end

