-- ==== Sys2Proof/Machine/Control.lean ====
section
/-! DEFINITION. The scalar control words of R132, without `callt` and `rett`: landing pads, tagged pointers, gangs, the
inbox, user-interrupt return, priority, constant banks; and entry to the emulation handler (R70). -/

namespace Sys2Proof.Machine

/-- R133. -/
def execLpad (_k : BitVec 4) (s : State) : Res := .next (s.retire 4)

/-- R134: `{E, K, 0b000, address}`. -/
def tagPointer (a : Word) (ek : BitVec 5) : Word :=
  BitVec.ofNat 64 (a.toNat % 2 ^ 56 + ek.toNat % 16 * 2 ^ 59 + ek.toNat / 16 * 2 ^ 63)

def execTagp (rd rs1 ek : BitVec 5) (s : State) : Res := .next ((s.setX rd (tagPointer (s.x rs1) ek)).retire 4)

/-- R135. -/
def execTagx (rd rs1 : BitVec 5) (s : State) : Res :=
  .next ((s.setX rd (BitVec.ofNat 64 ((s.x rs1).toNat / 2 ^ 59))).retire 4)

/-! ### Gangs (R139, R141) -/

/-- A member as it starts: the leader's registers and user CSRs, its own stack pointer (R139). -/
def Slot.fused (m leader : Slot) (g : Gang) (rd : BitVec 5) : Slot :=
  let t := { m with
    st := .member, priv := leader.priv, pc := leader.pc + 4, x := leader.x, f := leader.f, v := leader.v, o := leader.o,
    b := leader.b, k := leader.k, h := leader.h, cb := leader.cb, u := leader.u,
    rv := { m.rv with fcsr := leader.rv.fcsr }, job := leader.job, dirty := 0x3F, gang := some g, wait := none,
    ctx := m.ctxCounter, ctxCounter := m.ctxCounter + 1 }
  (t.wx rd 0).wx 2 (if rd = 2 then 0 else m.sc.stkinit)

/-- Reserve what is FREE of the member slots (R139). -/
def State.reserveGang (s : State) (n : Nat) : State :=
  (List.range n).foldl (fun t i =>
    if i == 0 then t
    else if (t.slot (s.cur + 4 * i)).st == .free then
      t.modSlot (s.cur + 4 * i) (fun m => { m with st := .member, gang := some ⟨s.cur, i, n⟩ })
    else t) s

/-- Whether every member slot is reserved for the issuing thread. -/
def State.gangReady (s : State) (n : Nat) : Bool :=
  (List.range n).all (fun i => i == 0 ||
    ((s.slot (s.cur + 4 * i)).st == .member && (s.slot (s.cur + 4 * i)).gang == some ⟨s.cur, i, n⟩))

/-- Every member starts after the `fuse`, and the leader goes on with OK (R139). -/
def State.formGang (s : State) (rd : BitVec 5) (n : Nat) : State :=
  let lead := s.me
  let s1 := (List.range n).foldl (fun t i =>
    if i == 0 then t else t.modSlot (s.cur + 4 * i) (fun m => m.fused lead ⟨s.cur, i, n⟩ rd)) s
  (s1.modMe (fun t => { t with gang := some ⟨s.cur, 0, n⟩ })).finish rd .ok 4

def execFuse (rd n : BitVec 5) (s : State) : Res :=
  let size := 2 ^ n.toNat
  if s.me.gang.isSome || coreOf s.cur % size != 0 then .next (s.finish rd .range 4)
  else
    let s1 := s.reserveGang size
    if s1.gangReady size then .next (s1.formGang rd size)
    else .next (s1.waitFor .fuse s.waitlim { xs := [(rd, Status.timeout.word)] })

/-- R141, on each member of the gang. -/
def execSplit (s : State) : Res :=
  .next ((s.modMe (fun t => { t with gang := none, st := if t.st == .member then .ready else t.st })).retire 4)

/-! ### The inbox (R144, R145) -/

/-- The register pair of a `recv` or `peek` word. -/
def pairLo (rd : BitVec 4) : BitVec 5 := BitVec.ofNat 5 (2 * rd.toNat)
def pairHi (rd : BitVec 4) : BitVec 5 := BitVec.ofNat 5 (2 * rd.toNat + 1)

/-- A header with no source and the given status. -/
def noMessage (st : Status) : Word := BitVec.ofNat 64 (st.code * 2 ^ 48)

/-- R144: a synchronising instruction (R260). The writes of an engine command have been performed, and acknowledged by other packages,
when it posts (R342). -/
def execRecv (rd : BitVec 4) (s : State) : Res :=
  Go.done do
    let s1 ← s.syncGate
    match s1.me.mail with
    | [] => .error (s1.waitFor .inbox s1.waitlim { xs := [(pairLo rd, 0), (pairHi rd, noMessage .timeout)] })
    | m :: _ =>
      let s2 := s1.modMe (fun t => t.takeMsg (fun q => !q.isReturn))
      .ok (((s2.setX (pairLo rd) m.value).setX (pairHi rd) m.hi).retire 4)

def execPeek (rd : BitVec 4) (s : State) : Res :=
  match s.me.mail with
  | [] => .next (((s.setX (pairLo rd) 0).setX (pairHi rd) (noMessage .empty)).retire 4)
  | m :: _ => .next (((s.setX (pairLo rd) m.value).setX (pairHi rd) m.hi).retire 4)

/-- R145. -/
def execWfm (rd : BitVec 5) (s : State) : Res :=
  if s.me.mail.isEmpty then .next (s.waitFor .inbox s.waitlim { xs := [(rd, Status.timeout.word)] })
  else .next (s.finish rd .ok 4)

/-! ### User interrupts and emulation (R70, R71, R147) -/

/-- Swap x8 to x15 with their shadows (R146). -/
def Slot.swapShadow (t : Slot) : Slot :=
  { t with
    x := Vector.ofFn (fun i => if h : 8 ≤ i.val ∧ i.val < 16 then t.shadow[i.val - 8]'(by omega) else t.x[i]),
    shadow := Vector.ofFn (fun i => t.x[i.val + 8]'(by have := i.isLt; omega)) }

def execUiret (s : State) : Res :=
  Go.done
    (if s.me.u.emustat then
      s.transfer s.me.u.emupc (·.modMe (fun t => { t with u := { t.u with emustat := false } }))
    else if s.me.u.uiActive then
      s.transfer s.me.u.uepc (·.modMe (fun t => { t.swapShadow with u := { t.u with uiActive := false } }))
    else s.raise causeControlFlow 0)

/-- R70: an undefined word of `len` bytes. The pad is checked before anything is written (R24). -/
def execEmulationEntry (word : Word) (len : Nat) (s : State) : Res :=
  Go.done
    (if s.me.priv != .u then s.raise 2 word
    else if s.me.u.emustat then s.raise 26 word
    else do
      let s1 ← s.checkPad s.me.u.emuvec 5
      .ok (s1.modMe (fun t =>
        { t with u := { t.u with emuinst := word, emupc := t.pc + BitVec.ofNat 64 len, emustat := true },
                 pc := ptrAddr t.u.emuvec })))

/-! ### Priority and constant banks (R148 to R150) -/

/-- R150. A quantum that `yield` ends counts as used up; in a gang the leader's core says whether it does. -/
def execYield (s : State) : Res :=
  let s1 := s.modCore (coreOf s.cur) (fun c => { c with yielded := some (s.cur % 4) })
  let ends := (s.core (coreOf (s.leaderOf s.cur))).isspol.toNat / 16 == 1
  .next ((s1.modMe (fun t => { t with issWait := 0, quantumUsed := if ends then 2 ^ 41 else t.quantumUsed })).retire 4)

/-- R149. -/
def execPrio (rs1 : BitVec 5) (s : State) : Res :=
  .next ((s.modMe (fun t =>
    { t with u := { t.u with prio := BitVec.ofNat 2 (min (t.xr rs1).toNat t.sc.prioceil.toNat) } })).retire 4)

/-- R148: the bank changes only after every load has completed. -/
def execCbld (bank : BitVec 2) (rs1 : BitVec 5) (s : State) : Res :=
  Go.done
    (if (s.x rs1).toNat % 64 != 0 then s.raise (AK.misalignedCause .load) (s.x rs1)
    else do
      let (s1, ws) ← s.loads (s.x rs1) 4 64
      let vals : Vector Half 64 := Vector.ofFn (fun i => BitVec.ofNat 32 (ws.getD i.val 0))
      .ok ((s1.modMe (fun t =>
        { t with cb := t.cb.set bank.toNat vals (by have := bank.isLt; omega), dirty := t.dirty ||| dirtyCb })).retire 4))

end Sys2Proof.Machine
end

