-- ==== Sys2Proof/Machine/Ready.lean ====
section
/-! DEFINITION. Which threads are ready (R126), and what the fetch brings them (R58, R69, R70, R130): the fetched instruction, the
queues that it needs, starvation (R127). -/

namespace Sys2Proof.Machine

/-! ### The next instruction -/

/-- The instruction in a fetched word of `len` bits; an undefined or undeclared word enters the emulation handler (R69, R70). -/
def decoded (profen : BitVec 48) (len w : Nat) : Instr :=
  match decodeWord len w with
  | .ok i => if i.declared profen then i else .emulationEntry (BitVec.ofNat 64 w) (len / 8)
  | .error _ => .emulationEntry (BitVec.ofNat 64 w) (len / 8)

/-- The fetch of a thread's next instruction: a fault of either parcel is a trap at the first (R58), and the exit address
ends the thread (R394). -/
def State.fetchInstr (s : State) (loc : Nat) : State × Instr :=
  let t := s.slot loc
  if t.pc == exitAddr then (s, .threadExit)
  else if t.pc.toNat % 4 != 0 then (s, .trapEntry loc (AK.misalignedCause .fetch) t.pc)
  else
    let r := s.fetch loc t.pc
    match r.2 with
    | .error c => (r.1, .trapEntry loc c t.pc)
    | .ok w =>
      if parcelLength w == some 64 then
        let q := r.1.fetch loc (t.pc + 4)
        match q.2 with
        | .error c => (q.1, .trapEntry loc c (t.pc + 4))
        | .ok h => (q.1, decoded t.u.profen 64 (w + h * 2 ^ 32))
      else (r.1, decoded t.u.profen 32 w)

/-! ### Readiness (R126) -/

/-- Whether a thread takes turns of its own: it is in READY, in a wait or in a trap handler (log 8); a gang does through its
leader. -/
def State.takesTurns (s : State) (loc : Nat) : Bool :=
  let t := s.slot loc
  s.col.power == .running && loc < 4096 && (t.st == .ready || t.st == .wait || t.st == .trap) && s.leaderOf loc == loc

/-- Whether the turn of a thread is one of an instruction in progress: it waits, or a member of its gang does. -/
def State.polls (s : State) (loc : Nat) : Bool :=
  s.takesTurns loc && (s.fellows loc).any (fun m => (s.slot m).wait.isSome)

/-- Whether the queue of a core that an instruction needs is full (R126). -/
def State.queueFull (s : State) (core : Nat) : Instr → Bool
  | .cpy _ | .cpyPlane _ => 2 ≤ (s.core core).copyQ.length
  | .mxTile _ | .mxTileAcc _ | .mxSort _ | .mxTopk _ => 2 ≤ s.mxCount core
  | _ => false

/-- Whether a core's queues have room for any instruction. -/
def State.queuesOpen (s : State) (core : Nat) : Bool := (s.core core).copyQ.length < 2 && s.mxCount core < 2

/-- Whether a thread may issue (R126): no member of its gang waits, and no queue that its next instruction needs is full on a core of it.
The model keeps no instruction unfetched and no result pending. -/
def State.able (s : State) (loc : Nat) : Bool :=
  let cs := (s.fellows loc).map coreOf
  s.takesTurns loc && (s.slot loc).st != .wait && !s.polls loc
    && (cs.all s.queuesOpen || (let i := (s.fetchInstr loc).2; !cs.any (fun c => s.queueFull c i)))

/-- Whether a thread is ready in what remains of this cycle: no core of it has issued. -/
def State.ready (s : State) (loc : Nat) : Bool := s.able loc && !((s.fellows loc).map coreOf).any s.issued.contains

/-- The priority level of a thread. -/
def Slot.level (t : Slot) : Nat := t.u.prio.toNat

/-- Whether a ready thread of a strict level above a thread's level stands on its core (R127). -/
def State.starved (s : State) (loc : Nat) : Bool :=
  (List.range 4).any (fun i =>
    let l := coreOf loc * 4 + i
    (s.slot loc).level < (s.slot l).level && (s.core (coreOf loc)).isspol.getLsbD (s.slot l).level && s.able l)

end Sys2Proof.Machine
end

