-- ==== Sys2Proof/Machine/Interrupts.lean ====
section
/-! DEFINITION. What happens to a thread between its instructions: traps raised by the fetch, the interrupts of R369, user
interrupts (R146), arrival of messages (R142, R143, R374), aging (R127). A step acts on the thread at
location `cur`. -/

namespace Sys2Proof.Machine

/-- R368: a trap that no instruction of its own raises, a fetch fault among them. -/
def execTrapEntry (loc cause : Nat) (tval : Word) (s : State) : Res :=
  if (s.slot loc).occupied then .next (s.trap loc { cause := cause, tval := tval }) else .next s

/-! ### Interrupts (R369, R377) -/

/-- Whether a thread, or its whole gang, stands at an instruction boundary for an interrupt: no wait, or one in `recv`, `wfm` or an
inbox reservation, which it leaves and later executes again (R140, R146). -/
def State.atBoundary (s : State) (loc : Nat) : Bool :=
  let ms := s.fellows loc
  ms.all (fun m => (s.slot m).wait.isNone)
    || ms.all (fun m => (s.slot m).wait.any (fun w => w.kind == .inbox || w.kind == .reserve))

/-- Whether the RISC-V enables let interrupt `code` in (mie, mideleg, and the enable of the mode). -/
def Slot.interruptEnabled (t : Slot) (code : Nat) : Bool :=
  bitW t.rv.mie code &&
    (if t.delegated true code then t.priv == .u || bitW t.rv.mstatus 1
     else if bitW t.rv.mideleg code then false
     else t.priv != .m || bitW t.rv.mstatus 3)

/-- Whether the thread at a location can take an interrupt now; a handler that enables it is interrupted too. -/
def State.interruptible (s : State) (loc code : Nat) : Bool :=
  let st := (s.lead loc).st
  s.atBoundary loc && (st == .ready || st == .wait || st == .trap) && (s.slot loc).interruptEnabled code

/-- Whether a user interrupt that is due on any of its gang can come to the thread now (R146): not to one that has reached the exit
address, which discards it (R394). -/
def State.userInterruptible (s : State) (loc : Nat) : Bool :=
  let st := (s.lead loc).st
  s.atBoundary loc && (s.slot loc).pc != exitAddr && (st == .ready || st == .wait) && (s.fellows loc).any (fun l => (s.slot l).uiPending)
    && !(s.slot loc).u.uiActive && !(s.slot loc).u.emustat

/-- Take an interrupt. -/
def State.interrupt (s : State) (loc code : Nat) (tval : Word) : State :=
  s.trap loc { intr := true, cause := code, tval := tval }

/-- Deliver the first of some pending interrupts that is enabled. -/
def State.deliver (s : State) (codes : List Nat) : State :=
  match codes.find? (fun c => bitW s.me.rv.mip c && s.interruptible s.cur c) with
  | some c => s.interrupt s.cur c 0
  | none => s

/-- The source of an interrupt raises it now when `sub` is 1. -/
def State.raised (s : State) (code : Nat) : State :=
  if s.sub == 1 then s.modMe (fun t => { t with rv := { t.rv with mip := setBitW t.rv.mip code true } }) else s

def execTimerInterrupt (s : State) : Res :=
  if s.me.occupied then .next ((s.raised 5).deliver [5]) else .next s

/-- The external interrupt, and the software interrupt that a CSR write has raised. -/
def execExternalInterrupt (s : State) : Res :=
  if s.me.occupied then .next ((s.raised 9).deliver [9, 1]) else .next s

/-- Whether the thread at a location is a service thread with a fabric trap to take, in READY (R377). -/
def State.takesFabricTrap (s : State) (loc : Nat) : Bool :=
  !(s.ftFor loc).isEmpty && (s.lead loc).st == .ready && s.atBoundary loc && (s.slot loc).interruptEnabled 16

/-- FABRIC_TRAP is taken by the service thread, for the lowest-numbered pending region of those that it serves, whose record is then
delivered (R377). -/
def execFabricTrapDelivery (s : State) : Res :=
  match s.ftFor s.cur with
  | [] => .next s
  | r :: rs =>
    let low := rs.foldl min r
    let told (x : Region) : Region := if x.num == low then { x with trap := x.trap.map (fun t => { t with delivered := true }) } else x
    if s.takesFabricTrap s.cur then
      .next ((({ s with regions := s.regions.map told } : State).modDie (low / 32) (fun d =>
        { d with ftPending := d.ftPending.filter (· != low) })).interrupt s.cur 16 (BitVec.ofNat 64 low))
    else .next s

/-! ### User interrupts (R146) -/

/-- Delivery to one member of a gang, or to a thread alone. -/
def Slot.takeUser (t : Slot) : Slot :=
  { t.swapShadow with u := { t.u with uepc := t.pc, uiActive := true }, pc := ptrAddr t.u.uivec, uiFresh := 0 }

def State.userInterrupt (s : State) (loc : Nat) : State :=
  let r := s.padAt loc (s.slot loc).u.uivec 4
  match r.2 with
  | some e => (r.1.dropWait loc).trap loc { cause := e.1, tval := e.2 }
  | none => (s.fellows loc).foldl (fun u l => (u.dropWait l).modSlot l Slot.takeUser) r.1

def execUserInterruptDelivery (s : State) : Res :=
  if s.userInterruptible s.cur then .next (s.userInterrupt s.cur) else .next s

/-! ### Aging (R127) -/

/-- A ready thread whose count has reached 60 ages, unless it is starved (R127). -/
def execThreadAged (s : State) : Res :=
  if s.me.st == .ready && 60 ≤ s.me.issWait && !s.starved s.cur then .next (s.modMe (fun t => { t with aged := true }))
  else .next s

/-! ### Messages (R142, R143, R374, R394) -/

/-- A message enters an inbox: it takes the sequence number and the place reserved for it. -/
def Slot.receive (t : Slot) (m : Msg) : Slot :=
  { t with inbox := t.inbox ++ [{ m with seq := t.ibSeq }], ibSeq := t.ibSeq + 1, ibReserved := t.ibReserved - 1,
           uiFresh := t.uiFresh + 1 }

/-- What the device keeps of a thread that is switched out. -/
def State.awayOf (s : State) (t : Tid) : Option Away := s.away.find? (fun w => w.slot.tid w.loc == t)

/-- Where a message for a thread goes: its slot, its save area, or nowhere when the thread has ended. A return message for
a call that the supervisor has abandoned is discarded (R384). -/
def State.deliverMsg (s : State) (t : Tid) (m : Msg) : State :=
  match s.locOf t with
  | some l =>
    if m.isReturn && !(s.slot l).calls.any (fun c => c.frame == m.value) then s else s.modSlot l (·.receive m)
  | none =>
    match s.awayOf t with
    | some w =>
      if (s.slot w.loc).parked.any (fun p => (p.home, p.ctx) == t) then { s with parkedMsgs := s.parkedMsgs ++ [(t.1, t.2, m)] } else s
    | none => s

/-- The location to which a thread's messages come: that of its slot, or of its table of parked contexts. -/
def State.mailAt (s : State) (t : Tid) : Nat :=
  match s.locOf t with
  | some l => l
  | none => ((s.awayOf t).map Away.loc).getD t.1

/-- The oldest message for location `cur` arrives. -/
def execInboxMessageArrival (s : State) : Res :=
  let here (a : Nat × BitVec 16 × Msg) : Bool := s.mailAt (a.1, a.2.1) == s.cur
  match s.arrivals.find? here with
  | none => .next s
  | some a => .next (({ s with arrivals := dropFirst here s.arrivals } : State).deliverMsg (a.1, a.2.1) a.2.2)

end Sys2Proof.Machine
end

