-- ==== Sys2Proof/Machine/Subs.lean ====
section
/-! DEFINITION. Scratchpad subscription: the words of R306, the steps of a subscription (R298 to R302), and the save and
restore of a scratchpad (R304). A step of a subscription acts on core `cur`, subscriber entry `sub`. -/

namespace Sys2Proof.Machine

/-! ### `sub.add` (R295, R296, R307) -/

/-- A subscription as a block asks for it. -/
structure SubReq where
  pubCore : Nat
  src : Nat
  dst : Nat
  len : Nat
  deriving DecidableEq, Repr

/-- The block's request, if its fields and the limits of R295 allow it on core `c`. -/
def State.subReq (s : State) (c b : Nat) : Option SubReq :=
  let a := blkAt b 0 8
  let d := blkAt b 8 8
  let n := blkAt b 0x10 8
  let src := a % 2 ^ 20
  let p := a / 2 ^ 20 % 1024
  if a / 2 ^ 52 != 0xF || a / 2 ^ 39 % 2 ^ 13 != 0 || a / 2 ^ 30 % 512 != s.pkg.toNat then none
  else if 2 ^ 20 ≤ d || 2 ^ 19 ≤ n || blkAt b 0x18 8 != 0 then none
  else if n < 64 || 2 ^ 18 < n || n % 64 != 0 || src % 64 != 0 || d % 64 != 0 || 2 ^ 20 < src + n || 2 ^ 20 < d + n then none
  else if (s.core c).subs.any (fun e => overlaps d n e.2.dst e.2.len) then none
  else if p == c && overlaps src n d n then none
  else some ⟨p, src, d, n⟩

/-- Lowest free number below 16. -/
def freeOf {α : Type} (l : List (Nat × α)) : Option Nat := (List.range 16).find? (fun i => (assoc l i).isNone)

/-- Whether a thread may hold one more entry and has the rights of both scratchpads. -/
def State.subAllowed (s : State) (q : SubReq) : Bool :=
  let c := coreOf s.cur
  let r := s.me.sc.pdrights
  granted (s.rightsByte r (s.core q.pubCore).spdom.toNat) 1 && granted (s.rightsByte r (s.core c).spdom.toNat) 2
  && ((s.core c).subs.filter (fun e => (e.2.owner, e.2.ctx) == s.tid)).length < 8

/-- The handle of R307. -/
def subHandle (st : Status) (e : Nat) : Word := BitVec.ofNat 64 (st.code * 2 ^ 56 + e)

/-- Acceptance: both entries are claimed and the snapshot point is marked (R302). -/
def State.subClaim (s : State) (q : SubReq) (e p : Nat) (tag : Half) : State :=
  let c := coreOf s.cur
  let b : Sub :=
    { st := .syncing, owner := s.tid.1, ctx := s.me.ctx, tag := tag, pubCore := q.pubCore, pubIdx := p, src := q.src,
      dst := q.dst, len := q.len, snap := some (s.mem.bytes (s.spadKey q.pubCore q.src) q.len), opened := none, sent := [],
      ended := false, applied := 0 }
  (s.setSub c e b).modCore q.pubCore (fun k => { k with pubs := assocSet k.pubs p ⟨c, e, 0⟩ })

def execSubAdd (r : F5) (s : State) : Res :=
  Go.done do
    let a := s.x r.s1
    let s1 ← s.syncGate
    let endWith (t : State) (st : Status) : State := (t.setX r.d (subHandle st 0)).retire 8
    if a.toNat % 32 != 0 then .error (endWith s1 .range)
    else
      let s2 ← s1.reserve { xs := [(r.d, subHandle .timeout 0)], len := 8 }
      let (s3, b) ← s2.readBlock a 4
      match s3.subReq (coreOf s.cur) b with
      | none => .error (endWith s3.unreserve .range)
      | some q =>
        match freeOf (s3.core (coreOf s.cur)).subs, freeOf (s3.core q.pubCore).pubs, s3.subAllowed q with
        | some e, some p, true =>
          .ok (((s3.subClaim q e p ((s.x r.s2).truncate 32)).setX r.d (subHandle .ok e)).retire 8)
        | _, _, _ => .error (endWith s3.unreserve .refused)

/-! ### `sub.drop`, `sub.flush`, `sub.stat`, `race.rd` (R308 to R311) -/

/-- Mark the end at the source port, and drain (R308). -/
def State.subEnd (s : State) (c e : Nat) (b : Sub) : State :=
  s.putSub c e b { b.flush with st := .draining, ended := true }

def execSubDrop (xd xe : BitVec 5) (s : State) : Res :=
  let c := coreOf s.cur
  let e := (s.x xe).toNat
  let mine (b : Sub) : Bool := (b.owner, b.ctx) == s.tid
  let wait (t : State) : State := t.waitFor .drain t.waitlim { xs := [(xd, Status.timeout.word)], len := 8 }
  if s.waiting .drain then
    match s.subAt c (e % 16) with
    | some b => if mine b && b.st == .draining then .next (wait s) else .next (s.finish xd .ok 8)
    | none => .next (s.finish xd .ok 8)
  else if 16 ≤ e then .next (s.finish xd .range 8)
  else
    match s.subAt c e with
    | none => .next (s.finish xd .range 8)
    | some b =>
      if !mine b || b.st == .draining then .next (s.finish xd .range 8)
      else .next (wait (s.subEnd c e b))

/-- R309: writes performed, those to other packages acknowledged, packets flushed and applied, there too. -/
def execSubFlush (xd : BitVec 5) (s : State) : Res :=
  Go.done do
    let me := tidNo s.tid
    let s1 := ((← s.syncGate).settleFar s.cur).serveReady s.cur
    let s2 := s1.releaseSubs s.cur .pkg
    let s3 := if s1.farPending s.cur then s2 else s2.releaseFar me true s2.waitlim
    let wait (t : State) : Go := .error (t.waitFor .flush t.waitlim { xs := [(xd, Status.timeout.word)], len := 8 })
    if !s1.me.held.isEmpty then .error (s1.raiseDeferred s.cur)
    else if !s1.me.refHeld.isEmpty || s1.farPending s.cur then wait s2
    else match s3.farReleased me with
      | some s4 => .ok (s4.finish xd .ok 8)
      | none => wait s3

def SubSt.code : SubSt → Nat
  | .free => 0 | .syncing => 1 | .active => 2 | .draining => 3

/-- The word of `sub.stat`. -/
def State.subWord (s : State) (c x : Nat) : Nat :=
  let word (b : Sub) (off cnt : Nat) : Nat :=
    b.st.code * 2 ^ 56 + (s.core (if x / 16 == 0 then c else b.pubCore)).redirected.toNat * 2 ^ 55 + off * 2 ^ 32 + cnt
  if x / 16 == 0 then
    match s.subAt c (x % 16) with
    | some b => word b b.src b.applied.toNat
    | none => (s.core c).redirected.toNat * 2 ^ 55
  else
    match assoc (s.core c).pubs (x % 16) with
    | some p => match s.subAt p.subCore p.subIdx with
      | some b => word b b.dst p.packets.toNat
      | none => 0
    | none => (s.core c).redirected.toNat * 2 ^ 55

def execSubStat (xd xe : BitVec 5) (s : State) : Res :=
  let x := (s.x xe).toNat
  .next ((s.setX xd (if 32 ≤ x then 0xFF00000000000000 else BitVec.ofNat 64 (s.subWord (coreOf s.cur) x))).retire 8)

/-- Write 128-bit values with plain stores, each behind its protection reply: the first fault is precise. -/
def State.storeQuads (s : State) (a : Word) : List (BitVec 128) → Go
  | [] => .ok s
  | v :: r => do
    let s1 ← s.protect .store a 8
    let s2 ← s1.storePlain a 8 (BitVec.ofNat 64 v.toNat)
    let s3 ← s2.protect .store (a + 8) 8
    let s4 ← s3.storePlain (a + 8) 8 (BitVec.ofNat 64 (v.toNat / 2 ^ 64))
    s4.storeQuads (a + 16) r

def execRaceRd (r : F5) (s : State) : Res :=
  let i := (s.x r.s2).toNat
  let b := s.x r.s1
  let n := i / 2 ^ 16 % 128
  let c := s.core (coreOf s.cur)
  let fail (st : Status) : Res := .next ((s.setX r.d st.handle).retire 8)
  if 2 ^ 23 ≤ i || i / 2 ^ 12 % 16 != 0 || n == 0 || 64 < n || b.toNat % 16 != 0 then fail .range
  else if !granted (s.rightsByte s.me.sc.pdrights c.spdom.toNat) 1 then fail .refused
  else
    Go.done do
      let es := (List.range n).map (fun j => (assoc c.ring ((i + j) % 4096)).getD 0)
      let s1 ← s.storeQuads b es
      .ok ((s1.setX r.d (BitVec.ofNat 64 (c.ringCount % 2 ^ 32 * 2 ^ 24 + c.ringCount % 4096))).retire 8)

/-! ### Steps of a subscription -/

/-- The initial copy is applied and the message posted (R302). -/
def execSubSyncCopy (s : State) : Res :=
  match s.subAt s.cur s.sub with
  | none => .next s
  | some b => .next (s.syncCopy s.cur s.sub b)

/-- An open packet whose mask is full is closed and sent (R298); packets of another line and of a release are closed by
the write or the release itself. -/
def execPacketFlush (s : State) : Res :=
  match s.subAt s.cur s.sub with
  | none => .next s
  | some b => if b.opened.any Packet.full then .next (s.putSub s.cur s.sub b b.flush) else .next s

/-- Cycles after which an open packet is flushed. -/
def packetTimer : Nat := 64

def execPacketTimerExpiry (s : State) : Res :=
  match s.subAt s.cur s.sub with
  | none => .next s
  | some b =>
    if b.opened.any (fun p => p.opened + packetTimer ≤ s.cycle) then .next (s.putSub s.cur s.sub b b.flush) else .next s

/-- The oldest sent packet is applied, after the initial copy (R299, R302). -/
def execPacketApply (s : State) : Res :=
  match s.subAt s.cur s.sub with
  | none => .next s
  | some b =>
    match b.snap, b.sent with
    | none, p :: r =>
      .next ((s.applyPacket s.cur b p).setSub s.cur s.sub { b with sent := r, applied := b.applied + 1 })
    | _, _ => .next s

/-- A DRAINING entry with nothing left becomes FREE, and its publisher entry with it (R302). -/
def execSubDrained (s : State) : Res :=
  match s.subAt s.cur s.sub with
  | none => .next s
  | some b =>
    if b.st == .draining && b.snap.isNone && b.opened.isNone && b.sent.isEmpty then
      .next ((s.modCore s.cur (fun k => { k with subs := assocDel k.subs s.sub })).modCore b.pubCore
        (fun k => { k with pubs := assocDel k.pubs b.pubIdx }))
    else .next s

/-! ### Accesses of other packages (R246, R297, R335, R346) -/

/-- The rights an access needs, and its bytes. -/
def FarDo.need : FarDo → BitVec 8
  | .read _ => AK.rights .load
  | .write _ => AK.rights .store
  | .atomic (.lr _) => AK.rights .load
  | .atomic (.sc _ _) => AK.rights .store
  | .atomic _ => AK.rights .amo
  | .release _ => 0
  | .protect need => need

def FarDo.size : FarDo → Nat
  | .read n => n
  | .write bs => bs.length
  | .atomic o => o.width
  | .release _ | .protect _ => 0

/-- The kind of a plain write from another package in a ring entry (R305). -/
def FarKind.code : FarKind → Nat
  | .thread => 0 | .engine => 2 | .node => 3

/-- Whether an agent of another package holds a reservation on the block of a place. -/
def State.farHolds (s : State) (a : FarAccess) (p : Place) : Bool := s.farResv.contains (a.pkg.toNat, a.loc, p.block 0)

/-- A write that arrives from another package: its agent's own reservation stands (R130). -/
def State.farPut (s : State) (a : FarAccess) (kind : Nat) (p : Place) (bs : List Byte) : State :=
  let own := s.farResv.filter (fun r => r.1 == a.pkg.toNat && r.2.1 == a.loc)
  let s1 := s.put (Agent.ofFar a kind) p bs
  { s1 with farResv := s1.farResv.filter (fun r => !(r.1 == a.pkg.toNat && r.2.1 == a.loc)) ++ own }

/-- Replace the reservation of an agent of another package. -/
def State.farReserve (s : State) (a : FarAccess) (b : Option Nat) : State :=
  { s with farResv := s.farResv.filter (fun r => !(r.1 == a.pkg.toNat && r.2.1 == a.loc))
             ++ (b.map (fun x => (a.pkg.toNat, a.loc, x))).toList }

/-- An access performed at the port: the state and the data that goes back. -/
def State.farServe (s : State) (a : FarAccess) (p : Place) : State × Nat :=
  match a.what with
  | .read n => (s, s.get p n)
  | .write bs => (s.farPut a a.kind.code p bs, 0)
  | .atomic (.lr dbl) => (s.farReserve a (some (p.block 0)), s.get p (if dbl then 8 else 4))
  | .atomic (.sc dbl v) =>
    if s.farHolds a p then (((s.farPut a 1 p (natBytes (if dbl then 8 else 4) v.toNat))).farReserve a none, 0)
    else (s.farReserve a none, 1)
  | .atomic o =>
    let old := s.get p o.width
    match o.new old with
    | some v => (s.farPut a 1 p (natBytes o.width v), old)
    | none => (s, old)
  | .release sys => (s.flushSubs (fun b => b.holds (Agent.ofFar a 0).id) (fun _ => sys), 0)
  | .protect _ => (s, 0)

/-- Whether something can come over the Wezil links: they are up in RUNNING, those that have not been taken down (R422, R427). -/
def State.linked (s : State) : Bool := s.col.power == .running && s.linksDown.length < 12

/-- An access of an agent of another package arrives at a scratchpad port here: performed in the order of its arrival and answered,
or refused where its rights table lacks the rights of the owning core's domain (R246). A release concerns no address: it sends the
packets that hold its agent's writes, and at `.sys` its answer follows their application (R298, R300). -/
def State.serveFar (s : State) (a : FarAccess) : State :=
  let answer (t : State) (refused : Bool) (d : Nat) : State :=
    { t with outs := t.outs ++ [.farReply a.pkg ⟨a.id, true, refused, BitVec.ofNat 128 d, 0⟩] }
  match a.what, aperture s.pkg.toNat none a.va.toNat with
  | .release sys, _ => let r := s.farServe a (.spad 0 0); if sys then answer r.1 false 0 else r.1
  | _, some (some (.spad c off)) =>
    if !granted a.rights a.what.need || 2 ^ 20 < off + a.what.size then answer s true 0
    else let r := s.farServe a (.spad c off); answer r.1 false r.2
  | _, _ => s

/-! ### Save and restore of a scratchpad (R304) -/

/-- The image's address. -/
def Core.image (c : Core) : Nat := c.spimg.toNat / 2 ^ 20 % 2 ^ 33 * 2 ^ 20

/-- The command is complete: the CSR write that waits for it ends. -/
def State.spimgDone (s : State) (core : Nat) : State :=
  let c := s.core core
  let s1 := s.setCore core { c with spCmd := none }
  match s1.locOf c.spOwner with
  | none => s1
  | some l =>
    match (s1.slot l).wait with
    | some w => if w.kind == .spimg then s1.expire l w.exp else s1
    | none => s1

/-- Copy a whole scratchpad between its port storage and its image, as the port's writes (R130, R304). -/
def State.spimgCopy (s : State) (src dst : Nat) (p : Place) : State :=
  ({ s with mem := s.mem.copyRange src dst (2 ^ 20) } : State).breakResv none p (2 ^ 20)

def execSpimgSave (s : State) : Res :=
  let c := s.core s.cur
  if c.spCmd == some 1 then
    .next (((s.spimgCopy (spadBase s.cur) c.image (.dram c.image)).setCore s.cur { c with redirected := true }).spimgDone s.cur)
  else .next s

def execSpimgRestore (s : State) : Res :=
  let c := s.core s.cur
  if c.spCmd == some 2 then
    .next (((s.spimgCopy c.image (spadBase s.cur) (.spad s.cur 0)).setCore s.cur { c with redirected := false }).spimgDone s.cur)
  else .next s

end Sys2Proof.Machine
end

