-- ==== Sys2Proof/Machine/Calls.lean ====
section
/-! DEFINITION. Calls between the two encodings: `callt` and `rett` (R28, R29, R136 to R138), `call` nodes (R31, R236), and
callbacks (R33 to R35). -/

namespace Sys2Proof.Machine

/-! ### `callt` (R28, R29, R136) -/

/-- The placement set, priority and race policy of a job's launches; a thread of no job may use every region. -/
def State.launchOf (s : State) (job : Option Nat) : BitVec 128 × BitVec 2 × Bool :=
  match job.bind s.job with
  | some j => (j.block.place, j.block.prioByte.truncate 2, j.block.classByte.getLsbD 3)
  | none => (BitVec.allOnes 128, 0, false)

/-- A call's frame waits to open, and its configuration to be placed if it must (R29). -/
def State.wake (s : State) (o : Opening) (code : Word) : State :=
  let l := s.launchOf o.job
  let q : Queued :=
    { who := .frame o.id, desc := o.desc, code := code, hash := o.hash, place := l.1, prio := l.2.1, rights := o.rights,
      race := l.2.2, tried := false }
  { s with openings := s.openings ++ [o], queued := if o.same then s.queued else s.queued ++ [q] }

/-- The argument registers of a thread as a frame carries them. -/
def Slot.frameArgs (t : Slot) : FrameBuf :=
  { a := Vector.ofFn (fun i => t.x[i.val + 10]'(by have := i.isLt; omega)),
    fa := Vector.ofFn (fun i => t.f[i.val + 10]'(by have := i.isLt; omega)),
    v := Vector.ofFn (fun i => t.v[i.val + 8]'(by have := i.isLt; omega)) }

/-- The parent and depth of a frame that a thread opens (R28). -/
def State.parentOf (s : State) (t : Slot) : Word × Nat :=
  match t.cbStack.head?.bind (fun c => s.findFrame c.frame) with
  | some f => (f.act, min (f.depth + 1) 0xFFFF)
  | none => (0, 0)

/-- The call of a graph function. The descriptor is read once, and stores held back on objects in transit are waited for first, so
that no effect precedes a wait. The callee's code object and hash, which the manual takes as known, are those of the first object
in the directory of the caller's die that holds the descriptor, the hash 0 where none does (log 48). -/
def State.callGraph (s : State) (rd : BitVec 5) (p : Word) (tag : Half) : Go :=
  let a := ptrAddr p
  let read (s : State) : Except State (State × Nat) :=
    match s.me.wait.bind Wait.blk with
    | some d => .ok (s, d)
    | none =>
      if p.toNat / 2 ^ 56 % 8 != 0 || ptrK p != 1 || a.toNat % 64 != 0 then s.raise causeControlFlow p
      else do
        let (s1, m) ← s.load a 8
        if m != descMagic then s1.raise causeControlFlow p else s1.loadBlock a 8
  do
    let s0 ← s.awaitRefs
    if !s0.me.held.isEmpty then .error (s0.raiseDeferred s.cur) else
    let _ ← s0.awaitReleases
    let (s2, d) ← read s0
    let s3 ← s2.reserve { xs := [(rd, Status.timeout.word)] } (some d)
    let size := frameSize (d / 2 ^ (8 * 0x28) % 2 ^ 32)
    let f := s.x 2 - BitVec.ofNat 64 size
    match s3.frameErr (s.viewOf s.cur) f size with
    | some e => s3.reserved (s3.raise e.2 e.1)
    | none =>
      let t := s3.me
      let ret := tag.toNat * 2 ^ 32 + (s.locid s.cur).toNat
      let s4 := (s3.engPut (s.viewOf s.cur) (s.agentAt s.cur) f (frameImage ret p t.frameArgs)).1
      let s5 ← s4.reserved (s4.release .pkg)
      let c := s.codeAt (dieOf s.cur) a.toNat
      let up := s.parentOf t
      let o : Opening :=
        { id := s.nextFrame, desc := a, hash := (c.map Prod.fst).getD 0, same := false, act := f, own := false,
          buf := t.frameArgs, caller := .thread s.tid.1 s.tid.2, depth := up.2, parent := up.1, limit := s.waitlim,
          rights := t.sc.pdrights, job := t.job, wuid := t.u.wuid.toNat, since := s.tick }
      let rec1 : CallRec :=
        { pc := t.pc, sp := t.xr 2, frame := f, rd := rd, retMask := BitVec.ofNat 8 (d / 2 ^ (8 * 0x2F)),
          deadline := s.cycle + s.waitlim }
      let s6 := (({ s5 with nextFrame := s5.nextFrame + 1 } : State).wake o
        (BitVec.ofNat 64 ((c.map (fun x => x.2.base)).getD 0)))
      .ok (s6.modMe (fun u => { u with st := .call, wait := none, calls := rec1 :: u.calls }))

def execCallt (rd rs1 rs2 : BitVec 5) (s : State) : Res :=
  let p := s.x rs1
  Go.done
    (if s.me.gang.isSome then s.raise 27 0
    else do
      let s1 ← s.syncGate
      if ptrE p then s1.callGraph rd p ((s.x rs2).truncate 32)
      else
        let s2 ← s1.checkPad p 1
        .ok (((s2.setX rd Status.ok.word).setX 1 (s.me.pc + 4)).jump (ptrAddr p)))

/-! ### The return of a graph call (R29, R30, R136, R137) -/

/-- The return message of the innermost call, if it is in the inbox. -/
def Slot.returnMsg (t : Slot) : Option Msg :=
  match t.calls with
  | [] => none
  | c :: _ => t.inbox.find? (fun m => m.isReturn && m.value == c.frame)

/-- Copy the results that a return mask names from a frame into the thread's registers. -/
def State.copyResults (s : State) (f : Word) (mask : BitVec 8) : Except (Word × Nat) State :=
  let v := s.viewOf s.cur
  let one (k off n : Nat) (w : Slot → Nat → Slot) (t : Except (Word × Nat) State) : Except (Word × Nat) State :=
    if !mask.getLsbD k then t
    else match t with
      | .error e => .error e
      | .ok u => (u.engBytes v (f + BitVec.ofNat 64 off) n).map (fun p => p.1.modMe (fun x => w x (bytesNat p.2)))
  let s1 := one 0 0x20 8 (fun x n => x.wx 10 (BitVec.ofNat 64 n)) (.ok s)
  let s2 := one 1 0x28 8 (fun x n => x.wx 11 (BitVec.ofNat 64 n)) s1
  let s3 := one 2 0x60 8 (fun x n => x.wf 10 (BitVec.ofNat 64 n)) s2
  let s4 := one 3 0x68 8 (fun x n => x.wf 11 (BitVec.ofNat 64 n)) s3
  let s5 := one 4 0x0A0 128 (fun x n => x.wv 8 (BitVec.ofNat _ n)) s4
  one 5 0x120 128 (fun x n => x.wv 9 (BitVec.ofNat _ n)) s5

/-- The return message resumes the thread in `callt`. -/
def execCalltReturn (s : State) : Res :=
  match s.me.calls, s.me.returnMsg with
  | c :: rest, some m =>
    if s.me.st != .call then .next s
    else
      let s1 := s.modMe (fun t =>
        { t.takeMsg (fun q => q.isReturn && q.value == c.frame) with calls := rest, st := .ready, pc := c.pc })
      if m.status == Status.fault.byte then .next (s1.trap s.cur { cause := 53, tval := c.frame, frame := c.frame })
      else
        match (if m.status == Status.ok.byte then s1.copyResults c.frame c.retMask else .ok s1) with
        | .error e => .next (s1.trap s.cur { cause := e.2, tval := e.1 })
        | .ok s2 => .next ((s2.setX c.rd (m.status.zeroExtend 64)).retire 4)
  | _, _ => .next s

/-- The return wait reaches its limit: the frame stays live (R137). -/
def execGraphCallTimeout (s : State) : Res :=
  match s.me.calls, s.me.returnMsg with
  | c :: _, none =>
    if s.me.st == .call && c.deadline ≤ s.cycle then
      .next ((s.modMe (fun t => { t with pc := c.pc, sc := { t.sc with thstat := true } })).trap s.cur
        { cause := 54, tval := c.frame, frame := c.frame })
    else .next s
  | _, _ => .next s

/-! ### `rett` (R138) -/

/-- What a callback carries back: a0, a1, fa0, fa1 and lanes 0 to 15 of v8 and v9. -/
def Slot.callbackResults (t : Slot) : List Word :=
  [t.xr 10, t.xr 11, t.fr 10, t.fr 11] ++ (elemsOf 64 (t.v[8]).toNat 8).map (BitVec.ofNat 64)
    ++ (elemsOf 64 (t.v[9]).toNat 8).map (BitVec.ofNat 64)

/-- The thread after a callback: a pool thread is idle again, or free once its job is complete (R399); another waits in its
`callt` with a new count, its stack pointer as that call left it (R27, R136). -/
def Slot.afterCallback (t : Slot) (jobLives : Bool) (cycle : Nat) : Slot :=
  let u := { t with cbDepth := t.cbDepth - 1, cbStack := t.cbStack.drop 1, wait := none, instret := t.instret + 1 }
  if t.poolOf.isSome && t.cbDepth == 1 then (if jobLives then { u with st := .pool } else u.freed)
  else
    match t.calls with
    | c :: r => { u.wx 2 c.sp with st := .call, pc := c.pc, calls := { c with deadline := cycle + t.u.waitlim.toNat } :: r }
    | [] => { u with st := .call }

/-- What a thread that ends leaves behind: its groups are dropped, its subscriptions drain, and the dependence entries it
left OPEN end with REFUSED (R100, R361, R394). -/
def State.leave (s : State) (loc : Nat) : State :=
  let t := s.tidOf loc
  let drop (u : State) (core : Nat) : State :=
    (u.core core).subs.foldl (fun u p =>
      if (p.2.owner, p.2.ctx) == t && (p.2.st == .syncing || p.2.st == .active) then u.subEnd core p.1 p.2 else u) u
  let s1 := (s.cores.map Prod.fst).foldl drop (s.dropGroups t)
  { s1 with dies := s1.dies.map (fun d => (d.1, { d.2 with deps := d.2.deps.map (fun e =>
      if e.2.st == .open_ && (e.2.home, e.2.ctx) == t then
        (e.1, { e.2 with st := .done, status := Status.refused.byte }) else e) })) }

def execRett (s : State) : Res :=
  Go.done
    (if s.me.cbDepth == 0 then s.raise causeControlFlow 0
    else do
      let s1 ← s.release .pkg
      let t := s1.me
      let s2 := match t.cbStack with
        | c :: _ => s1.answerCall c.node c.frame Status.ok.byte t.callbackResults
        | [] => s1
      let lives := t.poolOf.any (fun j => (s.job j).isSome)
      let s3 := if t.poolOf.isSome && t.cbDepth == 1 && !lives then s2.leave s.cur else s2
      .ok (s3.modMe (fun u => u.afterCallback lives s.cycle)))

/-! ### `call` nodes (R31, R236) -/

/-- What a call's heads put into the argument registers. -/
def callArgs (n : NodeRec) (heads : List (Nat × Token)) : FrameBuf :=
  heads.foldl (fun b h =>
    let v := h.2.data.toNat
    if h.1 < 4 then (if bitOf (n.par 1) h.1 then b.setSlot (8 + h.1) v else b.setSlot h.1 v)
    else if h.1 < 8 then b.setSlot (16 + 2 * (h.1 - 4)) v
    else b) FrameBuf.zero

/-- The check of a target at a call: the fabric cause and the address of a failure (R236). -/
def State.targetErr (s : State) (v : View) (p : Word) : Option (Nat × Word) :=
  let a := ptrAddr p
  let k : AK := if ptrE p then .load else .fetch
  let n := if ptrE p then 8 else 4
  let want := if ptrE p then descMagic else lpadWord 2
  if p.toNat / 2 ^ 56 % 8 != 0 || ptrK p != (if ptrE p then 1 else 2) || a.toNat % (if ptrE p then 64 else 4) != 0 then some (2, a)
  else
    match s.reachAs v k a n with
    | .error c => some (if c == k.pageCause then 1 else 2, a)
    | .ok (.far _, _) => some (2, a)
    | .ok (q, _) => if s.get q n == want then none else some (2, a)

/-- Whether a slot in POOL is promised to a callback that has not entered it: its frame still exists. -/
def State.promised (s : State) (t : Slot) : Bool := t.cbStack.any (fun c => (s.findFrame c.frame).isSome)

/-- The idle pool thread with the lowest location number, once the pool has taken all of its slots (R34). -/
def State.idlePool (s : State) (job : Option Nat) : Option Nat :=
  match job.bind s.job with
  | none => none
  | some j =>
    if j.poolLeft != 0 then none
    else (List.range 4096).find? (fun l => j.pool.contains l && (s.slot l).st == .pool && (s.slot l).poolOf == some j.id
      && !s.promised (s.slot l))

/-- The pool slot that a callback has been given. -/
def State.poolFor (s : State) (c : CbRef) : Option Nat :=
  (s.slots.find? (fun e => e.2.st == .pool && e.2.cbStack == [c])).map Prod.fst

/-- The heads are consumed and the frame waits for its call. -/
def Fire.suspend (f : Fire) (tag : BitVec 15) (frame : Word) (heads : List (Nat × Token)) (since : Option Nat) : Fire :=
  let g := heads.foldl (fun (x : Fire) h => x.take h.1) f
  let g1 := g.set (.call true false tag frame heads none since)
  { g1 with r := g1.r.modFslot f.fs (fun x => { x with st := .suspended }) }

/-- The call of a graph target. The frame goes below the calling frame on the stack of the thread at the root; a launched
frame's callee is kept as the launched frame is (log 38). No thread waits for it: its return target is 0 (log 48). -/
def State.callFromNode (s : State) (f : Fire) (tag : BitVec 15) (heads : List (Nat × Token)) : State :=
  let p := f.n.callTarget
  let a := ptrAddr p
  let buf := callArgs f.n heads
  let c := s.codeAt f.r.die a.toNat
  let same := a == f.r.desc
  let opening (act : Word) (own : Bool) : Opening :=
    { id := s.nextFrame, desc := a, hash := if same then f.r.hash else (c.map Prod.fst).getD 0, same := same, act := act, own := own,
      buf := buf, caller := .node f.n.id f.slot.id, depth := min (f.slot.depth + 1) 0xFFFF, parent := f.slot.act,
      limit := f.slot.limit, rights := f.slot.rights, job := f.slot.job, wuid := f.slot.wuid, since := s.tick }
  let go (t : State) (act : Word) (own : Bool) : State :=
    ({ (f.suspend tag act heads none).put t with nextFrame := s.nextFrame + 1 } : State).wake (opening act own)
      (BitVec.ofNat 64 ((c.map (fun x => x.2.base)).getD 0))
  -- a configuration that is resident has the size that its load read (R123)
  let size1 : Except Nat (State × Nat) :=
    if same then .ok (s, f.r.spillSize)
    else match s.regions.find? (fun r => r.desc == a && r.hash == (c.map Prod.fst).getD 0) with
      | some r => .ok (s, r.spillSize)
      | none => s.engRead f.view (a + 0x28) 4
  if f.slot.own then go s 0 true
  else
    match size1 with
    | .error e => s.nodeFault f e (a + 0x28)
    | .ok (s1, spill) =>
      let size := frameSize spill
      let act := BitVec.ofNat 64 (f.slot.act.toNat / 64 * 64) - BitVec.ofNat 64 size
      match s1.frameErr f.view act size with
      | some e => s1.nodeFault f e.2 e.1
      | none =>
        match s1.engPut f.view f.agent act (frameImage 0 p buf) with
        | (_, some e) => s1.nodeFault f e.2 e.1
        | (s2, none) => go s2 act false

/-- A `call` node has every head: it calls, or answers for an error head (R221), or takes an idle pool thread, or holds its tokens
while none is (R34). -/
def execCallNodeFire (s : State) : Res :=
  s.atNode 9 (fun f =>
    match f.st with
    | .call false _ _ _ _ _ since =>
      let ins := (List.range 9).filter f.fed
      let heads := ins.filterMap (fun p => (f.head p).map (fun t => (p, t)))
      match heads with
      | [] => none
      | first :: _ =>
        if heads.length != ins.length || !f.can [0, 1, 2, 3, 4, 5, 8] || f.speculative first.2.tag then none
        else
          match heads.find? (fun h => tagErr h.2.tag) with
          | some e =>
            let g := heads.foldl (fun (x : Fire) h => x.take h.1) f
            some ((if f.n.drives 0 then g.send 0 (scalarTok e.2.data.toNat e.2.tag)
              else g.send 8 (controlTok 0 first.2.tag)).put s)
          | none =>
            match s.targetErr f.view f.n.callTarget with
            | some e => some (s.fabTrap f.r.num f.n.id f.fs { cause := e.1, va := e.2 })
            | none =>
              if ptrE f.n.callTarget then some (s.callFromNode f first.2.tag heads)
              else if (s.root f.slot).isSome then some ((f.suspend first.2.tag 0 heads none).put s)
              else
                match s.idlePool f.slot.job with
                | some loc =>
                  some (((f.suspend first.2.tag 0 heads none).put s).modSlot loc (fun t =>
                    { t with cbStack := [⟨f.n.id, f.slot.id⟩] }))
                | none =>
                  if since.isSome then none else some ((f.set (.call false false 0 0 [] none (some s.cycle))).put s)
    | _ => none)

/-- The outputs of a call that returned with OK. -/
def callOutputs (tag : BitVec 15) (ws : List Word) : List (Nat × Token) :=
  let w (i : Nat) : Nat := (ws.getD i 0).toNat
  let vec (i : Nat) : Nat := packElems 64 (((ws.drop i).take 8).map BitVec.toNat)
  [(0, scalarTok (w 0) tag), (1, scalarTok (w 1) tag), (2, scalarTok (w 2) tag), (3, scalarTok (w 3) tag),
   (4, vectorTok (vec 4) allLanes16 tag), (5, vectorTok (vec 12) allLanes16 tag), (8, controlTok 0 tag)]

/-- The call of a spilled frame has returned: the frame is restored, a suspended one spilled for it if it must, once its channels
have room (R184); or it ends with the status (R31, R203). -/
def State.spilledReturn (s : State) (r : Region) (p : Spill) (st : BitVec 8) : State :=
  if st != Status.ok.byte then
    let r1 := { r with spilled := r.spilled.filter (fun q => q.slot.id != p.slot.id) }
    (s.setRegion r1).frameReturn r1 p.slot st
  else
    match r.freeSlot, r.toSpill with
    | some fs, _ => if r.roomFor p fs then s.restore r p fs else s
    | none, some g =>
      if !(r.spillOut g).roomFor p g then s
      else
        match s.spill r g with
        | .error t => t
        | .ok t => match t.region r.num with | some q => t.restore q p g | none => t
    | none, none => s

/-- The spilled frame and the state of its `call` node that a site names: its slot number is 4 or above. -/
def State.spilledCall (s : State) : Option (Region × Spill × NSt) :=
  match s.region s.site.rgn with
  | none => none
  | some r =>
    if s.site.fs < 4 || !r.fires then none
    else (r.spilled[s.site.fs - 4]?).bind (fun p =>
      (p.nsts.find? (fun e => e.node == s.site.node)).map (fun e => (r, p, e.st)))

/-- A call returns (R236): the frame runs, and the node sends its outputs when they have room. -/
def execCallNodeReturn (s : State) : Res :=
  match s.spilledCall with
  | some (r, p, .call true _ _ _ _ (some (st, _)) _) => .next (s.spilledReturn r p st)
  | _ =>
    s.atNode 9 (fun f =>
      match f.st with
      | .call true _ tag _ _ (some (st, ws)) _ =>
        if st != Status.ok.byte then some (s.fabTrap f.r.num f.n.id f.fs { cause := 0xA, status := some st })
        else if !f.can [0, 1, 2, 3, 4, 5, 8] then none
        else
          let g := (callOutputs tag ws).foldl (fun (x : Fire) o => x.send o.1 o.2) (f.set (.call false false 0 0 [] none none))
          some (g.put s)
      | _ => none)

/-! ### Callbacks (R33 to R35) -/

/-- The registers a callback starts with, over those of its thread. -/
def Slot.withArgs (t : Slot) (b : FrameBuf) : Slot :=
  { t with
    x := Vector.ofFn (fun i => if h : 10 ≤ i.val ∧ i.val < 18 then b.a[i.val - 10]'(by omega) else t.x[i]),
    f := Vector.ofFn (fun i => if h : 10 ≤ i.val ∧ i.val < 18 then b.fa[i.val - 10]'(by omega) else t.f[i]),
    v := Vector.ofFn (fun i => if h : 8 ≤ i.val ∧ i.val < 16 then b.v[i.val - 8]'(by omega) else t.v[i]),
    dirty := t.dirty ||| dirtyV }

/-- A thread enters a callback. -/
def Slot.enter (t : Slot) (target : Word) (b : FrameBuf) (sp : Word) (c : CbRef) : Slot :=
  { ((t.withArgs b).wx 1 0).wx 2 sp with
    st := .ready, wait := none, pc := ptrAddr target, cbDepth := t.cbDepth + 1, cbStack := c :: t.cbStack }

/-- Whether requests of a frame that precede a wave's call are still to be performed (R33). -/
def Region.precedes (r : Region) (fs wave : Nat) : Bool :=
  r.reqs.any (fun q => q.fs == fs && q.op != 16 && ((q.st == .sent && q.wave ≤ wave)
    || (q.st == .waiting && (q.wave < wave || (q.wave == wave && r.mayPerform q)))))

/-- A callback that has been called and not entered: its region and node, the slot record and number of its frame, the tag and
arguments of the call, and the region once it is entered. -/
structure CallIn where
  r : Region
  n : NodeRec
  slot : FSlot
  fs : Nat
  tag : BitVec 15
  args : List (Nat × Token)
  done : Region

/-- A node's call is entered. -/
def NSt.enter : NSt → NSt
  | .call true _ tag fr args ret since => .call true true tag fr args ret since
  | x => x

/-- The callback that the site names, when its frame's earlier requests are performed: the frame is resident, or spilled. -/
def State.callIn (s : State) : Option CallIn :=
  match s.spilledCall with
  | some (r, p, .call true false tag _ args none _) =>
    match r.node? s.site.node with
    | none => none
    | some n =>
      if ptrE n.callTarget || p.reqs.any (fun q => q.op != 16 && q.st == .waiting && q.wave < p.slot.extWave (tagSeq tag)) then none
      else some ⟨r, n, p.slot, p.fs, tag, args,
        { r with spilled := r.spilled.map (fun q =>
            if q.slot.id == p.slot.id then
              { q with nsts := q.nsts.map (fun e => if e.node == n.id then { e with st := e.st.enter } else e) }
            else q) }⟩
  | _ =>
    match s.siteNode with
    | none => none
    | some f =>
      match f.st with
      | .call true false tag _ args none _ =>
        if !f.r.fires || f.n.kind != 9 || f.slot.st != .suspended || !f.r.elementOk f.n || ptrE f.n.callTarget
            || f.r.precedes f.fs (f.slot.extWave (tagSeq tag)) then none
        else some ⟨f.r, f.n, f.slot, f.fs, tag, args, (f.set f.st.enter).r⟩
      | _ => none

/-- The call is entered: the node keeps that, and the frame's earlier accesses are released. -/
def CallIn.entered (c : CallIn) (s : State) : State :=
  (s.setRegion c.done).releaseFrame c.slot.id .pkg (c.r.num * 8)

/-- A callback starts on the thread blocked in `callt` at the root of the chain of calls. -/
def execCallbackEntry (s : State) : Res :=
  match s.callIn with
  | none => .next s
  | some c =>
    match (s.root c.slot).bind s.locOf with
    | none => .next s
    | some loc =>
      if (s.slot loc).st != .call || (s.slot loc).returnMsg.isSome then .next s
      else
        let sp : Word := BitVec.ofNat 64 (c.slot.act.toNat / 64 * 64)
        .next ((c.entered s).modSlot loc (fun u =>
          u.enter c.n.callTarget (callArgs c.n c.args) sp ⟨c.n.id, c.slot.id⟩))

/-- A thread as the dispatcher starts it (R109): what the supervisor set for its slot stays, and of the CSRs that a context holds the
others are zero. -/
def Slot.bound (t : Slot) (j : Job) (wuid : Nat) : Slot :=
  let u := t.freed
  Slot.startQuantum { u with
    st := .ready, priv := .u, x := u.x.set 2 t.sc.stkinit, job := some j.id, ctx := t.ctxCounter, ctxCounter := t.ctxCounter + 1,
    u := { UCsr.reset with waitlim := BitVec.ofNat 40 (2 ^ 24), wuid := BitVec.ofNat 24 wuid, profen := j.profen,
                           prio := j.block.prioByte.truncate 2 },
    sc := { t.sc with prioceil := j.block.prioByte.truncate 2, thstat := false },
    rv := { t.rv with fcsr := 0, mstatus := t.rv.mstatus &&& ~~~sstatusMask, sscratch := 0, sepc := 0, scause := 0, stval := 0 } }

/-- A callback of a launched graph starts on the pool thread that its node took. -/
def execCallbackPoolAssign (s : State) : Res :=
  match s.callIn with
  | none => .next s
  | some c =>
    match c.slot.job.bind s.job, s.poolFor ⟨c.n.id, c.slot.id⟩ with
    | some j, some loc =>
      .next ((c.entered s).modSlot loc (fun t =>
        { ((t.bound j c.slot.wuid).enter c.n.callTarget (callArgs c.n c.args) t.sc.stkinit ⟨c.n.id, c.slot.id⟩) with
          cbStack := [⟨c.n.id, c.slot.id⟩], poolOf := some j.id, ctx := t.ctx, ctxCounter := t.ctxCounter }))
    | _, _ => .next s

/-- No pool thread has become free within the frame's wait limit (R34). -/
def execPoolTimeout (s : State) : Res :=
  match s.siteNode with
  | none => .next s
  | some f =>
    match f.st with
    | .call false false _ _ _ none (some since) =>
      if f.r.fires && f.slot.st == .running && since + f.slot.limit ≤ s.cycle
          && (s.idlePool f.slot.job).isNone then
        .next (s.fabTrap f.r.num f.n.id f.fs { cause := 0xC })
      else .next s
    | _ => .next s

end Sys2Proof.Machine
end

