-- ==== Sys2Proof/Machine/Heap.lean ====
section
/-! DEFINITION. The managed heap as threads reach it: references (R268, R269), headers (R270), the pin directory (R271,
R272), the reference barrier and forwarding (R273 to R277), allocation (R283, R288) and the heap words (R284 to R292). -/

namespace Sys2Proof.Machine

/-! ### References and headers -/

/-- Footprint of a class (R268). -/
def footprint (c : Nat) : Nat := 32 * 2 ^ c

/-- The class of a body size (R268). -/
def classOf (n : Nat) : Nat := ((List.range 15).find? (fun c => 16 + n ≤ footprint c)).getD 15

def maxBody : Nat := 524272

/-- Header address of a reference. -/
def refAddr (r : Word) : Word := BitVec.ofNat 64 (r.toNat % 2 ^ 56)

/-- Class of a reference. -/
def refClass (r : Word) : Nat := r.toNat / 2 ^ 59 % 16

/-- The format of R268 for a nonzero value. -/
def refOk (r : Word) : Bool := bitW r 63 && refClass r ≤ 14 && r.toNat / 2 ^ 56 % 8 == 0 && r.toNat % 16 == 0

/-- A reference with another header. -/
def refAt (r a : Word) : Word := BitVec.ofNat 64 (2 ^ 63 + refClass r * 2 ^ 59 + a.toNat % 2 ^ 56)

/-- A header as memory holds it (R270). -/
structure Header where
  size : Nat
  type : Nat
  pin : Nat
  flags : Nat
  deriving DecidableEq, Repr

def Header.of (v : Nat) : Header := ⟨v % 2 ^ 32, v / 2 ^ 32 % 2 ^ 32, v / 2 ^ 64 % 2 ^ 32, v / 2 ^ 96⟩
def Header.nat (h : Header) : Nat := h.size % 2 ^ 32 + h.type % 2 ^ 32 * 2 ^ 32 + h.pin % 2 ^ 32 * 2 ^ 64 + h.flags % 2 ^ 32 * 2 ^ 96
/-- Forwarding state. -/
def Header.state (h : Header) : Nat := h.flags % 4

/-! ### Pages of references -/

def rightRef : BitVec 8 := 8

/-- The page of a reference access, by a waited protection reply that needs Ref and the kind's right (R285, R289). A
scratchpad holds no managed page (R267); one of another package is asked for its rights (log 34). -/
def State.refPage (s : State) (k : AK) (a : Word) : Except State (State × Option Plb) :=
  match aperture s.pkg.toNat (some (coreOf s.cur)) a.toNat with
  | some (some (.spad c _)) =>
    if granted (s.rightsByte s.me.sc.pdrights (s.core c).spdom.toNat) (k.rights ||| rightRef) then .ok (s, none)
    else s.raise k.accessCause a
  | some (some _) =>
    (s.ask k a 0 (fun id => .farProtect id a (k.rights ||| rightRef)) (a ||| 2 ^ 62)).map (fun r => (r.1, none))
  | some none => s.raise k.accessCause a
  | none =>
    let r := s.plbEntry s.cur a.toNat
    match r.2 with
    | .error e => r.1.raise (e.cause k) a
    | .ok e => if granted e.rights (k.rights ||| rightRef) then .ok (r.1, some e) else r.1.raise k.accessCause a

/-- The DRAM address of a byte of a managed page. -/
def Plb.at (e : Plb) (a : Word) : Nat := e.frame + (a.toNat - e.page)

/-! ### The forwarding table (R273, R274) -/

/-- log2 of a die's table size, or none without a table. -/
def State.fwdLog (s : State) (die : Nat) : Option Nat :=
  let e := (s.die die).fwdtab.toNat % 64
  if 10 ≤ e && e ≤ 24 then some e else none

/-- The DRAM address of entry `i`. -/
def State.fwdEntry (s : State) (die i : Nat) : Nat := (s.die die).fwdtab.toNat / 2 ^ 12 % 2 ^ 41 * 2 ^ 12 + 32 * i

/-- Probe start. -/
def probeStart (a e : Nat) : Nat := let g := a / 16; (g ^^^ (g / 2 ^ e)) % 2 ^ e

/-- Entries read from `i` on: the hit's address, state and new header. -/
def State.fwdProbe (s : State) (die e a : Nat) : Nat → Nat → Option (Nat × Nat × Nat)
  | 0, _ => none
  | n + 1, i =>
    let p := s.fwdEntry die (i % 2 ^ e)
    let w := s.dram64 p
    if w / 2 ^ 62 == 0 then none
    else if w % 2 ^ 56 == a then some (p, w / 2 ^ 62, s.dram64 (p + 8))
    else s.fwdProbe die e a n (i + 1)

/-- Lookup of an old header address at its home die. -/
def State.fwdLookup (s : State) (die a : Nat) : Option (Nat × Nat × Nat) :=
  match s.fwdLog die with
  | none => none
  | some e => s.fwdProbe die e a 32 (probeStart a e)

/-- Home die of a page. -/
def Plb.home (e : Plb) : Nat := e.frame / 2 ^ 37 % 4

/-- What the slice finds for a header: no forwarding, in transit, or moved to a new header (R275). -/
inductive Fwd where
  | normal | transit | moved (a : Word)
  deriving DecidableEq, Repr

def State.forward (s : State) (e : Plb) (a : Word) : Fwd :=
  if !e.evac then .normal
  else match s.fwdLookup e.home a.toNat with
    | some (_, 1, _) => .transit
    | some (_, 2, n) => .moved (BitVec.ofNat 64 n)
    | _ => .normal

/-- The new reference of a value that names a moved object, if its page can be seen (R287, R291). -/
def State.movedRef (s : State) (r : Word) : Option Word :=
  match s.lookup (s.viewOf s.cur) (refAddr r).toNat with
  | .ok e => match s.forward e (refAddr r) with
    | .moved a => some (refAt r a)
    | _ => none
  | .error _ => none

/-- The header at an address whose page is known. -/
def State.header (s : State) (e : Plb) (a : Word) : Header := Header.of (s.mem.read (e.at a) 16)

/-! ### Locating a field (R285) -/

/-- Where a field lies: its address, its page, and the old header if the object is in transit. -/
structure Field where
  ea : Word
  page : Plb
  transit : Option Nat
  deriving DecidableEq, Repr

def causeNullRef : Nat := 49
def causeNotManaged : Nat := 50
def causeBounds : Nat := 51
def causeRefFormat : Nat := 52

/-- The header that serves an access: the page, the header address, whether it is in transit; a moved object's base
register is rewritten (R275). -/
def State.resolve (s : State) (k : AK) (hs : BitVec 4) (e : Plb) : Except State (State × Plb × Word × Bool) :=
  let r := s.h hs
  match s.forward e (refAddr r) with
  | .normal => .ok (s, e, refAddr r, false)
  | .transit => .ok (s, e, refAddr r, true)
  | .moved a => do
    let s1 := s.setH hs (refAt r a)
    let (s2, q) ← s1.refPage k a
    match q with
    | some e2 => .ok (s2, e2, a, false)
    | none => s2.raise k.accessCause a

/-- The location steps of R285 for a field of `w` bytes. -/
def State.field (s : State) (k : AK) (hs : BitVec 4) (xo : BitVec 5) (w : Nat) : Except State (State × Field) :=
  let r := s.h hs
  let o := (s.x xo).toNat
  if r == 0 then s.raise causeNullRef 0
  else if o % w != 0 then s.raise k.misalignedCause (refAddr r + 16 + BitVec.ofNat 64 o)
  else do
    let (s1, q) ← (s.drain s.cur).refPage k (refAddr r)
    match q with
    | none => s1.raise causeNotManaged (refAddr r)
    | some e =>
      if !e.managed then s1.raise causeNotManaged (refAddr r)
      else
        let (s2, e2, a, transit) ← s1.resolve k hs e
        if (s2.header e2 a).size < o + w then s2.raise causeBounds a
        else
          let ea := a + 16 + BitVec.ofNat 64 o
          let old := if transit then some a.toNat else none
          if ea.toNat / 2 ^ 12 == a.toNat / 2 ^ 12 then .ok (s2, ⟨ea, e2, old⟩)
          else
            let (s3, q3) ← s2.refPage k ea
            match q3 with
            | some e3 => if e3.managed then .ok (s3, ⟨ea, e3, old⟩) else s3.raise causeNotManaged ea
            | none => s3.raise causeNotManaged ea

/-- A thread's write of `n` bytes of a managed page; a replicated one becomes ordinary (R259). -/
def State.refWrite (s : State) (e : Plb) (a : Word) (n v : Nat) (kind : Nat := 0) : State :=
  s.writeAt s.cur a (.dram (e.at a), some e) n v kind

/-- A reference load: behind the thread's own held reference stores to the same bytes (R276), and a deferred-store trap
where a held store overlaps (R260). -/
def State.refLoad (s : State) (hs : BitVec 4) (xo : BitVec 5) (w : Nat) : Except State (State × Field × Nat) := do
  let (s1, f) ← s.field .load hs xo w
  if s1.me.refHeld.any (fun h => overlaps f.ea.toNat w h.at.toNat h.st.width) then .error (s1.waitOpen .transit)
  else if s1.me.heldOver f.ea.toNat w then .error (s1.raiseDeferred s.cur)
  else .ok (s1, f, s1.mem.read (f.page.pa (dieOf s.cur) false f.ea.toNat) w)

/-- A reference store: held at the slice while the object is in transit (R275), and behind the thread's own held reference store to
the same bytes. -/
def State.refStore (s : State) (hs : BitVec 4) (xo : BitVec 5) (w : Nat) (v : Word) : Go := do
  let (s1, f) ← s.field .store hs xo w
  match f.transit with
  | some a =>
    .ok (s1.modMe (fun t => { t with refHeld := t.refHeld ++ [⟨a, hs, none, ⟨f.ea, w, v, 0, t.stSeq, true⟩⟩] })).nextSeq
  | none =>
    if s1.me.heldOver f.ea.toNat w then .error (s1.raiseDeferred s.cur)
    else if s1.me.refHeld.any (fun h => overlaps f.ea.toNat w h.at.toNat h.st.width) then
      .ok (s1.modMe (fun t =>
        { t with refHeld := t.refHeld ++ [⟨f.ea.toNat, hs, some f.ea, ⟨f.ea, w, v, 0, t.stSeq, true⟩⟩] })).nextSeq
    else .ok (s1.refWrite f.page f.ea w v.toNat)

/-- R286. -/
def execRefLd (ty : ElTy) (xd : BitVec 5) (hs : BitVec 4) (xo : BitVec 5) (s : State) : Res :=
  Go.done do
    let (s1, _, v) ← s.refLoad hs xo (ty.width / 8)
    .ok ((s1.setX xd (if ty.signed then sextW ty.width v else BitVec.ofNat 64 v)).retire 8)

def execRefSt (ty : ElTy) (xv : BitVec 5) (hs : BitVec 4) (xo : BitVec 5) (s : State) : Res :=
  Go.done do
    let s1 ← s.refStore hs xo (ty.width / 8) (BitVec.ofNat 64 ((s.x xv).toNat % 2 ^ ty.width))
    .ok (s1.retire 8)

/-- R287: a loaded reference to a moved object is healed in its field (R277). -/
def execRefLdf (hd hs : BitVec 4) (xo : BitVec 5) (s : State) : Res :=
  Go.done do
    let (s1, f, n) ← s.refLoad hs xo 8
    let v : Word := BitVec.ofNat 64 n
    if v == 0 then .ok ((s1.setH hd 0).retire 8)
    else if !refOk v then s1.raise causeRefFormat v
    else match s1.movedRef v with
      | some r => .ok (((s1.refWrite f.page f.ea 8 r.toNat 1).setH hd r).retire 8)
      | none => .ok ((s1.setH hd v).retire 8)

/-- The value register of `ref.stf` is rewritten if it names a moved object. -/
def execRefStf (hv hs : BitVec 4) (xo : BitVec 5) (s : State) : Res :=
  Go.done do
    let v := match s.movedRef (s.h hv) with
      | some r => if s.h hv == 0 then s.h hv else r
      | none => s.h hv
    let s1 ← s.refStore hs xo 8 v
    .ok ((if v == s.h hv then s1 else s1.setH hv v).retire 8)

/-! ### Allocation (R283, R288) -/

/-- Writes a status and null, and ends. -/
def State.allocFail (s : State) (hd : BitVec 4) (xs : BitVec 5) (st : Status) : State := (s.setH hd 0).finish xs st 8

/-- A refill's pop (R283): none for an empty list; a fault releases the reservation. Its accesses are no raw ones (R271), and its
decrement is an AMO at `.pkg`, so it is behind a release (R338, R352). -/
def State.popChunk (s : State) : Except State (State × Option (Word × Word × Nat)) :=
  let l := s.me.u.arlist
  let go : Except State (State × Option (Word × Word × Nat)) := do
    let s0 ← s.release .pkg
    let (s1, k) ← s0.load l 8 0 false
    if k == 0 then .ok (s1, none)
    else
      let c := l + 0x10 + BitVec.ofNat 64 (16 * (k - 1))
      let (s2, b) ← s1.load c 8 0 false
      let (s3, e) ← s2.load (c + 8) 8 0 false
      let o : FarOp := .int .add true (BitVec.allOnes 64) 0
      let (s4, _) ← s3.atomic l 8 o o.new false
      .ok (s4, some (BitVec.ofNat 64 b, BitVec.ofNat 64 e, k - 1))
  s.reserved go

/-- Post the message of a refill into the entry reserved for it. -/
def State.postRefill (s : State) (st : Status) (v : Nat) : State := s.post s.tid.1 s.tid.2 6 st 0 (BitVec.ofNat 64 v)

/-- Make room for `f` bytes in the arena. -/
def State.arenaRoom (s : State) (hd : BitVec 4) (xs : BitVec 5) (f : Nat) : Go :=
  let u := s.me.u
  if u.arcur.toNat + f ≤ u.arend.toNat then .ok s
  else if u.arlist == 0 then .error (s.allocFail hd xs .empty)
  else do
    let s1 ← s.reserve { xs := [(xs, Status.timeout.word)], hNull := some hd, len := 8 }
    let (s2, p) ← s1.popChunk
    match p with
    | none => .error ((s2.postRefill .empty 0).allocFail hd xs .empty)
    | some (b, e, k) =>
      let s3 := (s2.modMe (fun t => { t with u := { t.u with arcur := b, arend := e } })).postRefill .ok k
      if b.toNat + f ≤ e.toNat then .ok s3 else .error (s3.allocFail hd xs .range)

/-- Protection of every page that a new object touches, its address checked first (R245): the first address on each page, with the
page, if it is none of a scratchpad. -/
def State.allocPages (s : State) (a : Word) : Nat → Except State (State × List (Word × Option Plb))
  | 0 => .ok (s, [])
  | n + 1 => do
    if a.toNat / 2 ^ 56 != 0 then s.raise (AK.accessCause .store) a
    else
      let (s1, q) ← s.refPage .store a
      let (s2, ps) ← s1.allocPages (BitVec.ofNat 64 ((a.toNat / 2 ^ 12 + 1) * 2 ^ 12)) n
      .ok (s2, (a, q) :: ps)

/-- The place of the bytes of an object on a page. -/
def State.allocPlace (s : State) (p : Word × Option Plb) : Place :=
  match p.2, aperture s.pkg.toNat (some (coreOf s.cur)) p.1.toNat with
  | some e, _ => .dram (e.at p.1)
  | none, some (some q) => q
  | none, _ => .far p.1

/-- Write a string of bytes over the pages of an object in this package. -/
def State.allocWrite (s : State) (ps : List (Word × Option Plb)) (bs : List Byte) : State :=
  match ps with
  | [] => s
  | p :: r =>
    let n := min bs.length (2 ^ 12 - p.1.toNat % 2 ^ 12)
    let s1 := match s.allocPlace p with
      | .far _ => s
      | q => (s.beforeWrite (dieOf s.cur) p.1.toNat p.2).put (s.agentAt s.cur) q (bs.take n)
    s1.allocWrite r (bs.drop n)

/-- Write a string of bytes to another package, line by line, each acknowledged (log 54). -/
def State.farLines (s : State) (a : Word) (bs : List Byte) : Nat → Go
  | 0 => .ok s
  | fuel + 1 =>
    if bs.isEmpty then .ok s
    else do
      let n := min bs.length (64 - a.toNat % 64)
      let r ← s.ask .store a 0 (fun id => .farWrite id a (bs.take n))
      r.1.farLines (a + BitVec.ofNat 64 n) (bs.drop n) fuel

/-- What of an object lies in other packages. -/
def State.allocFar (s : State) (ps : List (Word × Option Plb)) (bs : List Byte) : Go :=
  match ps with
  | [] => .ok s
  | p :: r => do
    let n := min bs.length (2 ^ 12 - p.1.toNat % 2 ^ 12)
    let s1 ← match s.allocPlace p with
      | .far _ => s.farLines p.1 (bs.take n) 65
      | _ => .ok s
    s1.allocFar r (bs.drop n)

def execRefAlloc (hd : BitVec 4) (xn xt xs : BitVec 5) (s : State) : Res :=
  let n := (s.x xn).toNat
  let c := classOf n
  let f := footprint c
  Go.done
    (if maxBody < n then .ok (s.allocFail hd xs .range)
    else if s.me.u.arcur.toNat % 32 != 0 then s.raise (AK.accessCause .store) s.me.u.arcur
    else do
      let s1 ← (s.drain s.cur).arenaRoom hd xs f
      let a := s1.me.u.arcur
      let pages := (a.toNat + f - 1) / 2 ^ 12 + 1 - a.toNat / 2 ^ 12
      let (s2, ps) ← s1.allocPages a pages
      let h : Header := ⟨n, (s.x xt).toNat, 0, 0⟩
      let s3 := (← s2.allocFar ps (natBytes f h.nat)).allocWrite ps (natBytes f h.nat)
      let r : Word := BitVec.ofNat 64 (2 ^ 63 + c * 2 ^ 59 + a.toNat % 2 ^ 56)
      .ok (((s3.setH hd r).modMe (fun t => { t with u := { t.u with arcur := a + BitVec.ofNat 64 f } })).finish xs .ok 8))

/-! ### Pins (R272, R289, R290) -/

/-- The header that a pin acts on, waiting while it is in transit. -/
def State.pinHeader (s : State) (hs : BitVec 4) : Except State (State × Plb × Word) :=
  if s.h hs == 0 then s.raise causeNullRef 0
  else do
    let (s1, q) ← (s.drain s.cur).refPage .load (refAddr (s.h hs))
    match q with
    | none => s1.raise (AK.accessCause .load) (refAddr (s.h hs))
    | some e =>
      let (s2, e2, a, transit) ← s1.resolve .load hs e
      if transit then .error (s2.waitOpen .transit) else .ok (s2, e2, a)

/-- Write a header's pin count. -/
def State.setPin (s : State) (e : Plb) (a : Word) (n : Nat) : State :=
  s.refWrite e (a + 8) 4 n

def pinEntries : Nat := 4096

def execRefPin (xd : BitVec 5) (hs : BitVec 4) (xs : BitVec 5) (s : State) : Res :=
  Go.done do
    let (s1, e, a) ← s.pinHeader hs
    let h := s1.header e a
    let d := s1.die e.home
    if h.pin == 2 ^ 32 - 1 then .ok ((s1.setX xd 0).finish xs .range 8)
    else if h.pin == 0 && pinEntries ≤ d.pins.length then
      .error (s1.waitFor .pinDir s1.waitlim { xs := [(xd, 0), (xs, Status.timeout.word)], len := 8 })
    else
      let s2 := s1.setPin e a (h.pin + 1)
      let s3 := if h.pin == 0 then s2.setDie e.home { d with pins := assocSet d.pins a.toNat h.size } else s2
      .ok ((s3.setX xd (a + 16)).finish xs .ok 8)

def execRefUnpin (xs : BitVec 5) (hs : BitVec 4) (s : State) : Res :=
  Go.done do
    let (s1, e, a) ← s.pinHeader hs
    let h := s1.header e a
    if h.pin == 0 then .ok (s1.finish xs .range 8)
    else
      let s2 := s1.setPin e a (h.pin - 1)
      let s3 := if h.pin == 1 then s2.modDie e.home (fun d => { d with pins := assocDel d.pins a.toNat }) else s2
      .ok (s3.finish xs .ok 8)

/-- The wait for a directory entry expires (R272). -/
def execPinWaitTimeout (s : State) : Res :=
  match s.me.wait with
  | some w => if w.kind == .pinDir && w.deadline.any (· ≤ s.cycle) then .next (s.expire s.cur w.exp) else .next s
  | none => .next s

/-! ### Register instructions (R291, R292) -/

/-- A register resolved through a MOVED entry. -/
def State.resolveEq (s : State) (h : BitVec 4) : State :=
  if s.h h == 0 then s
  else match s.movedRef (s.h h) with
    | some r => s.setH h r
    | none => s

def execRefEq (xd : BitVec 5) (ha hb : BitVec 4) (s : State) : Res :=
  let s1 := (s.resolveEq ha).resolveEq hb
  let same := if s1.h ha == 0 || s1.h hb == 0 then s1.h ha == s1.h hb else refAddr (s1.h ha) == refAddr (s1.h hb)
  .next ((s1.setX xd (BitVec.ofNat 64 same.toNat)).retire 8)

def execRefMov (toX : Bool) (d : BitVec 5) (hs : BitVec 4) (s : State) : Res :=
  .next ((if toX then s.setX d (s.h hs) else s.setH (d.truncate 4) (s.h hs)).retire 8)

def execRefNull (hd : BitVec 4) (s : State) : Res := .next ((s.setH hd 0).retire 8)

/-- What `ref.chk` answers: the reference, the status and the information word. -/
def State.chkRef (s : State) (v : Word) : Word × Status × Word :=
  if v == 0 then (0, .empty, 0)
  else if !refOk v then (0, .range, 0)
  else
    let page (a : Word) : Option Plb :=
      if (aperture s.pkg.toNat (some (coreOf s.cur)) a.toNat).isSome then none
      else match s.lookup (s.viewOf s.cur) a.toNat with
        | .ok e => if granted e.rights (AK.rights .load ||| rightRef) && e.managed then some e else none
        | .error _ => none
    match page (refAddr v) with
    | none => (0, .fault, 0)
    | some e =>
      let r := match s.forward e (refAddr v) with
        | .moved a => refAt v a
        | _ => v
      match page (refAddr r) with
      | none => (0, .fault, 0)
      | some e2 =>
        let h := s.header e2 (refAddr r)
        if h.flags / 4 != 0 || h.state == 3 || maxBody < h.size || classOf h.size != refClass v then (0, .refused, 0)
        else (r, .ok, BitVec.ofNat 64 (h.type * 2 ^ 32 + h.size))

def execRefChk (hd : BitVec 4) (xv xs xi : BitVec 5) (s : State) : Res :=
  let s1 := s.drain s.cur
  let p := s1.chkRef (s1.x xv)
  .next ((((s1.setH hd p.1).setX xs p.2.1.word).setX xi p.2.2).retire 8)

/-! ### Held reference stores (R275, R276) -/

/-- What a thread that is switched out can be served: without it (R276). -/
def State.serveAway (s : State) (a : Away) : State :=
  let p := s.serveList { s.agentAt a.loc with id := tidNo (a.slot.tid a.loc), thread := none } a.loc a.slot a.slot.refHeld.length
  { p.1 with away := p.1.away.map (fun b => if b.slot.tid b.loc == a.slot.tid a.loc then { b with slot := p.2 } else b) }

/-- The entry of an object leaves IN_TRANSIT: every held reference store to it has its copy, and what each thread can then be
served is served, in its program order (R276). -/
def State.serveRefs (s : State) (old : Nat) (new : Word) : State :=
  let mark (t : Slot) : Slot :=
    { t with refHeld := t.refHeld.map (fun r => if r.obj == old && r.dest.isNone then { r with dest := some new } else r) }
  let s1 : State := { s with slots := s.slots.map (fun e => (e.1, mark e.2)), away := s.away.map (fun a => { a with slot := mark a.slot }) }
  s1.away.foldl State.serveAway (s1.slots.foldl (fun t p => t.serveReady p.1) s1)

end Sys2Proof.Machine
end

