-- ==== Sys2Proof/Machine/Kilns.lean ====
section
/-! DEFINITION. The Kilns: their job, the checks, one object's install, copy and rollback, and the report (R278 to R281,
R293, R294). A Kiln's step acts on die `cur`, Kiln `sub`. -/

namespace Sys2Proof.Machine

/-! ### The job (R278) -/

def Kiln.list (k : Kiln) : Word := BitVec.ofNat 64 (blkAt k.job.toNat 0 8)
def Kiln.count (k : Kiln) : Nat := blkAt k.job.toNat 8 4
def Kiln.bitmap (k : Kiln) : Word := BitVec.ofNat 64 (blkAt k.job.toNat 0x10 8)
def Kiln.start (k : Kiln) : Nat := blkAt k.job.toNat 0x18 8
def Kiln.stop (k : Kiln) : Nat := blkAt k.job.toNat 0x20 8
def Kiln.report (k : Kiln) : Word := BitVec.ofNat 64 (blkAt k.job.toNat 0x28 8)

def State.kiln (s : State) (die i : Nat) : Kiln := if i == 0 then (s.die die).kiln0 else (s.die die).kiln1
def State.setKiln (s : State) (die i : Nat) (k : Kiln) : State :=
  s.modDie die (fun d => if i == 0 then { d with kiln0 := k } else { d with kiln1 := k })

/-- The conditions of R293 on a job block. -/
def kilnJobOk (b : Nat) : Bool :=
  blkAt b 0x0C 4 == 0 && blkAt b 0x30 16 == 0 && 1 ≤ blkAt b 8 4 && blkAt b 8 4 ≤ 256
  && blkAt b 0 8 % 16 == 0 && blkAt b 0x18 8 % 32 == 0 && blkAt b 0x28 8 % 8 == 0 && blkAt b 0x18 8 ≤ blkAt b 0x20 8

/-- A Kiln of a die that runs no job; of two, Kiln 0 (R293 waits for a free one and names no order: DESIGN CHOICE, log 59). -/
def State.freeKiln (s : State) (die : Nat) : Option Nat := [0, 1].find? (fun i => !(s.kiln die i).running)

/-- R293. -/
def execKilnGo (r : F5) (s : State) : Res :=
  Go.done do
    let a := s.x r.s1
    let s1 ← s.beginCommand r.d (a.toNat % 64 != 0)
    let (s2, b) ← s1.readBlock a 8
    if !kilnJobOk b then .error (s2.refuseCommand r.d .range)
    else
      match s2.freeKiln (dieOf s.cur) with
      | none => .error (s2.waitFor .kiln s2.waitlim { xs := [(r.d, Status.timeout.word)], release := true, len := 8 } (some b))
      | some i => do
        let s3 ← s2.reserved (s2.release .pkg)
        let job : Kiln :=
          { Kiln.reset with
            running := true, job := BitVec.ofNat 512 b, loc := s.cur, home := s.tid.1, ctx := s.me.ctx, tag := (s.x r.s2).truncate 32,
            rights := s.me.sc.pdrights, d := BitVec.ofNat 64 (blkAt b 0x18 8) }
        .ok ((s3.setKiln (dieOf s.cur) i job).finish r.d .ok 8)

/-- R294. -/
def execKilnStat (xd xk : BitVec 5) (s : State) : Res :=
  let k := s.kiln (dieOf s.cur) ((s.x xk).toNat % 2)
  .next ((s.setX xd (BitVec.ofNat 64
    (min k.processed (2 ^ 24 - 1) * 2 ^ 40 + k.tag.toNat * 2 ^ 8 + k.running.toNat))).retire 8)

/-! ### A Kiln's accesses -/

def State.kilnView (s : State) (k : Kiln) : View := s.engineView k.loc (k.home, k.ctx) k.rights
def State.kilnAgent (s : State) (k : Kiln) : Agent := s.agentFor k.loc (k.home, k.ctx)

/-- The page of a header or body for a Kiln, with the right it needs. -/
def State.kilnPage (s : State) (k : Kiln) (need : BitVec 8) (a : Word) : Option Plb :=
  if a.toNat / 2 ^ 56 != 0 || (aperture s.pkg.toNat none a.toNat).isSome then none
  else match s.entryAs (s.kilnView k) a.toNat with
    | .ok e => if granted e.rights need then some e else none
    | .error _ => none

/-- One word of 16 bytes of an object: objects are granule-aligned, so it lies on one page. -/
def State.kilnRead (s : State) (k : Kiln) (a : Word) : Option Nat :=
  (s.kilnPage k 1 a).map (fun e => s.mem.read (e.pa (dieOf k.loc) false a.toNat) 16)

def State.kilnWrite (s : State) (k : Kiln) (a : Word) (v : Nat) : Option State :=
  (s.kilnPage k 2 a).map (fun e =>
    (s.beforeWrite (dieOf k.loc) a.toNat (some e)).putNat (s.kilnAgent k) (.dram (e.at a)) 16 v)

/-- The granules of a body from `i` on, copied in rising order. -/
def State.kilnCopy (s : State) (k : Kiln) (src dst : Word) : Nat → Nat → Option State
  | 0, _ => some s
  | n + 1, i =>
    match s.kilnRead k (src + BitVec.ofNat 64 (16 * i)) with
    | none => none
    | some v =>
      match s.kilnWrite k (dst + BitVec.ofNat 64 (16 * i)) v with
      | none => none
      | some s1 => s1.kilnCopy k src dst n (i + 1)

/-! ### The region list (R278, R279) -/

/-- An entry: base and size code, or none if it cannot be read. A Kiln's accesses are no raw ones (R271). -/
def State.regionEntry (s : State) (k : Kiln) (j : Nat) : Option (State × Word × Nat) :=
  let a := k.list + BitVec.ofNat 64 (16 * j)
  match s.engRead (s.kilnView k) a 8 false with
  | .error _ => none
  | .ok (s1, b) =>
    match s1.engRead (s1.kilnView k) (a + 8) 8 false with
    | .error _ => none
    | .ok (s2, z) => some (s2, BitVec.ofNat 64 b, z % 16)

/-- Whether an entry meets R279. -/
def State.regionOk (s : State) (k : Kiln) (base : Word) (z : Nat) : Bool :=
  base.toNat / 2 ^ 56 == 0 && (aperture s.pkg.toNat none base.toNat).isNone &&
  match s.entryAs (s.kilnView k) base.toNat with
  | .error _ => false
  | .ok e => e.page == base.toNat && e.size == z && e.managed && e.evac && granted e.rights 0xB && (s.fwdLog e.home).isSome

/-- The check of every entry: OK, REFUSED, or FAULT for an entry that cannot be read. -/
def State.regionsStatus (s : State) (k : Kiln) : Nat → Nat → State × Status
  | 0, _ => (s, .ok)
  | n + 1, j =>
    match s.regionEntry k j with
    | none => (s, .fault)
    | some p => if p.1.regionOk k p.2.1 p.2.2 then p.1.regionsStatus k n (j + 1) else (p.1, .refused)

/-- The next set bit of the bitmap from bit `i` of a region on, within `n` bits: found, none, or a fault. -/
def State.nextLive (s : State) (k : Kiln) (bitBase : Nat) : Nat → Nat → Except Unit (State × Option Nat)
  | 0, _ => .ok (s, none)
  | n + 1, i =>
    match s.engRead (s.kilnView k) (k.bitmap + BitVec.ofNat 64 ((bitBase + i) / 8)) 1 false with
    | .error _ => .error ()
    | .ok (s1, b) => if bitOf b ((bitBase + i) % 8) then .ok (s1, some i) else s1.nextLive k bitBase n (i + 1)

/-- The first empty slot among the 32 probed for a header (R274). -/
def State.freeFwd (s : State) (die a : Nat) : Option Nat :=
  match s.fwdLog die with
  | none => none
  | some e =>
    ((List.range 32).map (fun i => s.fwdEntry die ((probeStart a e + i) % 2 ^ e))).find? (fun p => s.dram64 p / 2 ^ 62 == 0)

/-- Write a header's flags word, at its DRAM address. -/
def State.setFlags (s : State) (k : Kiln) (hdr st : Nat) : State :=
  s.putNat (s.kilnAgent k) (.dram (hdr + 12)) 4 ((Header.of (s.mem.read hdr 16)).flags / 4 * 4 + st)

/-- Write the words of a forwarding entry. -/
def State.setFwd (s : State) (k : Kiln) (p : Nat) (ws : List Nat) : State :=
  s.put (s.kilnAgent k) (.dram p) (ws.flatMap (natBytes 8))

/-- One live object met in the walk: skipped, installed, or the end of the job (R279). A header that cannot be written ends it with
FAULT (R280). -/
def State.kilnObject (s : State) (die i : Nat) (k : Kiln) (h : Word) : State :=
  let k1 := { k with processed := k.processed + 1 }
  match s.kilnPage k 1 h with
  | none => s.setKiln die i { k with status := some Status.fault.byte }
  | some e =>
    let o := s.header e h
    let f := footprint (classOf o.size)
    if o.state != 0 || maxBody < o.size || o.flags / 4 != 0 then s.setKiln die i { k1 with skOther := k.skOther + 1 }
    else if o.pin != 0 then s.setKiln die i { k1 with skPinned := k.skPinned + 1 }
    else if !granted e.rights 3 then s.setKiln die i { k with status := some Status.fault.byte }
    else if k.stop < k.d.toNat + f then s.setKiln die i { k with status := some Status.range.byte }
    else
      match s.freeFwd e.home h.toNat with
      | none => s.setKiln die i { k1 with skFull := k.skFull + 1 }
      | some p =>
        (((s.beforeWrite (dieOf k.loc) h.toNat (some e)).setFwd k p [2 ^ 62 + h.toNat, k.d.toNat, f, 0]).setFlags k (e.at h) 1).setKiln die i
          { k1 with cur := some (h.toNat, k.d.toNat, f), hdrAt := e.at h, fwdAt := p }

/-- The check of the list, then one object at a time up to its install. -/
def execKilnInstall (s : State) : Res :=
  let k := s.kiln s.cur s.sub
  if !k.running || k.cur.isSome || k.status.isSome then .next s
  else if !k.checked then
    let r := s.regionsStatus k k.count 0
    .next (r.1.setKiln s.cur s.sub { k with checked := true, status := if r.2 == .ok then none else some r.2.byte })
  else if k.count ≤ k.region then .next (s.setKiln s.cur s.sub { k with status := some Status.ok.byte })
  else
    match s.regionEntry k k.region with
    | none => .next (s.setKiln s.cur s.sub { k with status := some Status.fault.byte })
    | some (s1, base, z) =>
      let bits := 4 ^ z * 256
      match s1.nextLive k k.bitBase (bits - k.bit) k.bit with
      | .error _ => .next (s.setKiln s.cur s.sub { k with status := some Status.fault.byte })
      | .ok (s2, none) => .next (s2.setKiln s.cur s.sub { k with region := k.region + 1, bit := 0, bitBase := k.bitBase + bits })
      | .ok (s2, some b) =>
        .next (s2.kilnObject s.cur s.sub { k with bit := b + 1 } (base + BitVec.ofNat 64 (16 * b)))

/-- The copy of the object in transit: header first, body after it; none where a read or write fails. -/
def State.kilnCopied (s : State) (k : Kiln) (h d f : Nat) : Option State :=
  match s.kilnRead k (BitVec.ofNat 64 h) with
  | none => none
  | some v =>
    match s.kilnWrite k (BitVec.ofNat 64 d) (v % 2 ^ 64) with
    | none => none
    | some s1 => s1.kilnCopy k (BitVec.ofNat 64 h) (BitVec.ofNat 64 d) (f / 16 - 1) 1

/-- The forwarding entry and the old header leave IN_TRANSIT, and what waits is served (R275, R280). They lie at the home slice:
no translation is needed. -/
def State.kilnLeave (s : State) (k : Kiln) (h : Nat) (moved : Option Nat) : State :=
  let s1 := match moved with
    | some _ => (s.setFwd k k.fwdAt [2 * 2 ^ 62 + h]).setFlags k k.hdrAt 2
    | none => (s.setFwd k k.fwdAt [0, 0, 0]).setFlags k k.hdrAt 0
  s1.serveRefs h (BitVec.ofNat 64 (moved.getD h))

/-- The object in transit is copied and becomes MOVED. -/
def execKilnMove (s : State) : Res :=
  let k := s.kiln s.cur s.sub
  match k.cur with
  | none => .next s
  | some (h, d, f) =>
    match s.kilnCopied k h d f with
    | none => .next s
    | some s1 =>
      let k1 := { k with cur := none, moved := k.moved + 1, bytes := k.bytes + f, d := k.d + BitVec.ofNat 64 f }
      .next ((s1.setKiln s.cur s.sub k1).kilnLeave k h (some d))

/-- A read or write of the copy fails: the object is rolled back and the job ends (R280). -/
def execKilnFault (s : State) : Res :=
  let k := s.kiln s.cur s.sub
  match k.cur with
  | none => .next s
  | some (h, d, f) =>
    match s.kilnCopied k h d f with
    | some _ => .next s
    | none =>
      .next ((s.setKiln s.cur s.sub { k with cur := none, status := some Status.fault.byte }).kilnLeave k h none)

/-- The words of a report, by offset. -/
def Kiln.words (k : Kiln) (st : BitVec 8) : List (Nat × Nat) :=
  let last := [(0x30, st.toNat)]
  if st == Status.refused.byte then last
  else [(0, k.moved), (8, k.skPinned), (0x10, k.skFull), (0x18, k.skOther), (0x20, k.bytes), (0x28, k.d.toNat)] ++ last

/-- Write a report; a word that cannot be written makes the status FAULT. -/
def State.writeReport (s : State) (k : Kiln) (st : BitVec 8) : List (Nat × Nat) → State × BitVec 8
  | [] => (s, st)
  | p :: r =>
    match s.engWrite (s.kilnView k) (s.kilnAgent k) (k.report + BitVec.ofNat 64 p.1) 8 p.2 false with
    | .error _ => (s, Status.fault.byte)
    | .ok s1 => s1.writeReport k st r

/-- A status code back as a status. -/
def Status.ofByte (b : BitVec 8) : Status :=
  match b.toNat with
  | 0 => .ok | 1 => .empty | 2 => .range | 3 => .late | 4 => .timeout | 5 => .abort | 7 => .refused | 8 => .preempted
  | 9 => .lost | 10 => .squashed | 11 => .boundExceeded | _ => .fault

/-- The end of a job: its report, then its message (kind 0x05). -/
def execKilnReport (s : State) : Res :=
  let k := s.kiln s.cur s.sub
  match k.status with
  | none => .next s
  | some st =>
    if !k.running then .next s
    else
      let r := s.writeReport k st (k.words st)
      .next (((r.1.dropAsks (tidNo (k.home, k.ctx))).setKiln s.cur s.sub { k with running := false, status := none }).post k.home k.ctx 5 (Status.ofByte r.2)
        k.tag (BitVec.ofNat 64 k.moved))

end Sys2Proof.Machine
end

