-- ==== Sys2Proof/Machine/Launch.lean ====
section
/-! DEFINITION. Launching work: the launch block and its checks (R96, R97), jobs from submission to completion (R103, R106 to
R109, R114, R399), the dependence table (R99 to R105), gang launches (R107), and the end of a thread (R394 to R396). A step of
a job acts on the job at place `sub` among the jobs. -/

namespace Sys2Proof.Machine

/-! ### The launch block (R96, R97) -/

/-- A block of 64 bytes. -/
def LBlock.of (b : Nat) : LBlock :=
  { entry := BitVec.ofNat 64 (blkAt b 0 8), n := BitVec.ofNat 32 (blkAt b 8 4), prioByte := BitVec.ofNat 8 (blkAt b 0xC 1),
    classByte := BitVec.ofNat 8 (blkAt b 0xD 1), gangHalf := BitVec.ofNat 16 (blkAt b 0xE 2),
    args := BitVec.ofNat 64 (blkAt b 0x10 8), place := BitVec.ofNat 128 (blkAt b 0x18 16),
    tick := BitVec.ofNat 64 (blkAt b 0x28 8), pool := BitVec.ofNat 16 (blkAt b 0x30 2),
    rsvd := BitVec.ofNat 16 (blkAt b 0x32 2), tag := BitVec.ofNat 32 (blkAt b 0x34 4), gmask := BitVec.ofNat 64 (blkAt b 0x38 8) }

def LBlock.gang (b : LBlock) : Bool := b.gangHalf.getLsbD 0

/-- Step 1 of R97: no reserved field, N below 2^24, the callback pool at most 64. Bits [63:56] of the argument pointer, which R96
gives as zero, are taken for a reserved field (DESIGN CHOICE, log 46). -/
def LBlock.fields (b : LBlock) : Bool :=
  b.n.toNat < 2 ^ 24 && b.prioByte.toNat < 4 && b.classByte.toNat < 16 && b.gangHalf.toNat < 2 && b.args.toNat < 2 ^ 56
    && b.rsvd == 0 && b.pool.toNat ≤ 64

/-- Step 2: a placement set; a mask and a start tick for a gang, and no mask otherwise. -/
def LBlock.sets (b : LBlock) : Bool :=
  b.place != 0 && (if b.gang then b.gmask != 0 && b.tick != 0 else b.gmask == 0)

/-- Step 3: priority and traffic class within a launch limit (R98). -/
def LBlock.within (b : LBlock) (limit : Word) : Bool :=
  b.prioByte.toNat ≤ limit.toNat / 2 ^ 8 % 4 && bitOf limit.toNat (b.classByte.toNat % 8)

/-- Steps 1 to 3, which all report RANGE. -/
def LBlock.ok13 (b : LBlock) (limit : Word) : Bool := b.fields && b.sets && b.within limit

/-- The entry of a block as R24 checks it, read as the device reads code objects. -/
def State.entryOk (s : State) (die : Nat) (p : Word) : Bool :=
  let a := (ptrAddr p).toNat
  p.toNat / 2 ^ 56 % 8 == 0 && ptrK p == 1
    && (if ptrE p then a % 64 == 0 && s.devNat die a 8 == some descMagic else a % 4 == 0 && s.devNat die a 4 == some (lpadWord 1))

/-- Steps 4 and 5: the entry, its place in the configuration, the profiles, and a pool for callbacks. None is REFUSED; else
`profen` of the job's threads. -/
def State.ok45 (s : State) (die : Nat) (c : CodeObj) (b : LBlock) : Option (BitVec 48) :=
  if !s.entryOk die b.entry || !c.holds (ptrAddr b.entry).toNat || (b.pool == 0 && s.hasCallbacks die c) then none
  else s.profenOf die c

/-- Steps 6 and 7. -/
def State.check67 (s : State) (b : LBlock) : Option Status :=
  if b.n == 0 then some .empty else if b.tick != 0 && b.tick.toNat ≤ s.tick.toNat then some .late else none

/-- A launch whose code object is known. -/
structure Launch where
  block : LBlock
  code : Word
  hash : Word
  profen : BitVec 48
  deriving DecidableEq, Repr

/-- Steps 1 to 5 for a thread's launch: its code object is the one in its die's directory that holds the entry (log 37). -/
def State.check15 (s : State) (b : LBlock) (limit : Word) : Except Status Launch :=
  if !b.ok13 limit then .error .range
  else
    match s.codeAt (placeDie b.place) (ptrAddr b.entry).toNat with
    | none => .error .refused
    | some (hash, c) =>
      match s.ok45 (placeDie b.place) c b with
      | none => .error .refused
      | some pf => .ok ⟨b, BitVec.ofNat 64 c.base, hash, pf⟩

/-! ### Gangs (R107) -/

/-- The identity of a gang launch. -/
def gangId (hash : Word) (b : LBlock) : Word × Word × Nat := (hash, b.tick, b.tag.toNat)
def Job.gangId (j : Job) : Word × Word × Nat := Machine.gangId j.hash j.block

/-- The packages of a member mask; none where it cannot be read. -/
def State.gangMask (s : State) (v : View) (a : Word) : State × Option (List Nat) :=
  match s.engBytes v a 64 with
  | .ok p => (p.1, some ((List.range 512).filter (bitOf (bytesNat p.2))))
  | .error _ => (s, none)

/-- The coordinator: the member with the lowest package number. -/
def gangHead (members : List Nat) : Nat := members.foldl min 512

/-- A member's vote: LATE within the decision margin of 10,000 ticks. -/
def State.vote (s : State) (l : Word × Word × Nat) (members : List Nat) : State :=
  let m : PodMsg := .vote l s.pkg.toNat (s.tick.toNat + 10000 < l.2.1.toNat)
  if gangHead members == s.pkg.toNat then { s with gangMsgs := s.gangMsgs ++ [m] }
  else { s with outs := s.outs ++ [.pod (gangHead members) m] }

/-! ### Submission and dispatch (R103, R106, R108) -/

/-- The slots of a placement set. -/
def LBlock.slots (b : LBlock) : List Nat := (List.range 4096).filter (fun l => b.place.getLsbD (l / 32))

/-- A job leaves its wait for a start tick: it is refused when its set holds no slot outside the pool, or queued for the
Imposer, or open to the dispatcher. -/
def State.begin1 (s : State) (j : Job) : State :=
  let q : Queued :=
    { who := .job j.id, desc := ptrAddr j.block.entry, code := j.code, hash := j.hash, place := j.block.place,
      prio := j.block.prioByte.truncate 2, rights := j.rights, race := j.block.classByte.getLsbD 3, tried := false }
  if ptrE j.block.entry then
    { (s.modJob j.id (fun x => { x with held := false })) with queued := s.queued ++ [q] }
  else if j.block.slots.length ≤ j.block.pool.toNat then
    s.modJob j.id (fun x => { x with held := false, final := some Status.refused.byte })
  else s.modJob j.id (fun x => { x with held := false })

/-! ### Memory keys (R90) -/

/-- Where an access of the host through a key goes: the page's domain, or the scratchpad's, must be the key's. The walk is that of an
access of die 0, whose copy of a replicated page is read, and another package's scratchpad is out of reach (DESIGN CHOICE, log 57). -/
def State.keyReach (s : State) (key : Key) (k : AK) (va : Word) (n : Nat) : Option (Place × Option Plb) :=
  let has : BitVec 8 := BitVec.ofNat 8 (key.canR.toNat + 2 * key.canW.toNat)
  if (ptrCheck k va).isSome then none
  else
    match aperture s.pkg.toNat none va.toNat with
    | some (some (.spad c off)) =>
      if (s.core c).spdom.toNat == key.domain && granted has k.rights then some (.spad c off, none) else none
    | some _ => none
    | none =>
      match s.walk 0 va.toNat with
      | .error _ => none
      | .ok (_, e) =>
        if e.domain != key.domain then none
        else match s.pagePlace 0 k va.toNat n { e with rights := has } with
          | .ok p => some (p, some e)
          | .error _ => none

/-- A queue pair writes bytes through a key one by one: what precedes a failure stays written. -/
def State.keyPutBytes (s : State) (qp : Nat) (key : Key) (va : Word) : List Byte → State × Bool
  | [] => (s, true)
  | b :: bs =>
    match s.keyReach key .store va 1 with
    | none => (s, false)
    | some (p, e) => ((s.beforeWrite 0 va.toNat e).put (Agent.ofHost qp) (homePlace va p e) [b]).keyPutBytes qp key (va + 1) bs

/-- The pieces of a host write, one write for each 64-byte line it meets. -/
def State.keyPieces (s : State) (qp : Nat) (key : Key) (va : Word) (bs : List Byte) : Nat → State × Bool
  | 0 => (s, true)
  | fuel + 1 =>
    if bs.isEmpty then (s, true)
    else
      let n := min bs.length (64 - va.toNat % 64)
      let r := match s.keyReach key .store va n with
        | some (p, e) => ((s.beforeWrite 0 va.toNat e).put (Agent.ofHost qp) (homePlace va p e) (bs.take n), true)
        | none => s.keyPutBytes qp key va (bs.take n)
      if r.2 then r.1.keyPieces qp key (va + BitVec.ofNat 64 n) (bs.drop n) fuel else r

/-- A queue pair writes bytes through a key: what precedes a failure stays written. -/
def State.keyPut (s : State) (qp : Nat) (key : Key) (va : Word) (bs : List Byte) : State × Bool :=
  s.keyPieces qp key va bs bs.length

/-- What a queue pair has written is released at `.pkg` to the work that a stream launches (R91, R300). -/
def State.releaseHost (s : State) (qp : Nat) : State := s.flushSubs (fun b => b.holds (Agent.ofHost qp).id) (fun _ => true)

/-- The argument tokens of a stream are copied under the rights of key 0 (R92). -/
def State.copyArgs (s : State) (qp : Nat) (a : Word) (args : List (BitVec 512)) : State × Bool :=
  match (s.qp qp).keys.find? (fun k => k.num == 0) with
  | none => (s, args.isEmpty)
  | some k => s.keyPut qp k a (args.flatMap (fun t => natBytes 64 t.toNat))

/-- A job starts. A stream leaves its port once its arguments are copied; a copy that fails ends the job with FAULT. -/
def State.start (s : State) (id : Nat) : State :=
  match s.job id with
  | none => s
  | some j =>
    if j.final.isSome || !j.held then s
    else
      match j.src with
      | .stream qp port _ _ =>
        match (s.port port).buf with
        | x :: rest =>
          let r := (s.modPort port (fun p => { p with buf := rest })).copyArgs qp j.block.args x.args
          if r.2 then (r.1.releaseHost qp).begin1 j
          else r.1.modJob id (fun y => { y with held := false, final := some Status.fault.byte })
        | [] => s.begin1 j
      | _ => s.begin1 j

/-- `Submit`: a job, which starts at once unless a start tick holds it. A gang member votes; one whose mask cannot be read
ends with FAULT. -/
def State.submit (s : State) (src : JobSrc) (l : Launch) (rights : Word) : State :=
  let v : View := { die := placeDie l.block.place, core := none, rights := rights }
  let (s0, mask) := if l.block.gang then s.gangMask v l.block.gmask else (s, none)
  let j : Job :=
    { id := s.nextJob, src := src, block := l.block, code := l.code, hash := l.hash, profen := l.profen, rights := rights,
      submitted := s.tick, held := true, next := 0, live := [], bad := [], ended := [], rest := none, pool := [],
      poolLeft := l.block.pool.toNat, gang := mask.map (fun ms => ⟨ms, none, false⟩),
      final := if l.block.gang && mask.isNone then some Status.fault.byte else none }
  let s1 : State := { s0 with jobs := s.jobs ++ [j], nextJob := s.nextJob + 1 }
  let s2 := match mask with | some ms => s1.vote j.gangId ms | none => s1
  if l.block.tick == 0 then s2.start j.id else s2

/-- Jobs in the order in which they take slots: by priority, then submission (R108). -/
def State.jobOrder (s : State) : List Job :=
  [3, 2, 1, 0].flatMap (fun p => s.jobs.filter (fun j => j.block.prioByte.toNat == p))

/-- Whether a job's pool still takes slots, and whether its next unit waits for one. -/
def Job.wantsPool (j : Job) : Bool := !j.held && j.final.isNone && j.poolLeft != 0
def Job.wantsSlot (j : Job) : Bool :=
  !j.held && j.final.isNone && j.rest.isNone && !ptrE j.block.entry && j.poolLeft == 0 && j.next < j.block.n.toNat

/-- The free slots that a job may take: of its set, and wanted by no job before it. -/
def State.freeFor (s : State) (j : Job) : List Nat :=
  let wants (x : Job) (l : Nat) : Bool := x.block.place.getLsbD (l / 32) && (x.wantsPool || x.wantsSlot)
  j.block.slots.filter (fun l =>
    (s.slot l).st == .free && (s.jobOrder.find? (fun x => wants x l)).any (fun x => x.id == j.id))

/-- A unit of a job is bound to a slot (R109): its first pad is checked, and a failure ends it with FAULT. -/
def State.bind1 (s : State) (j : Job) (loc : Nat) : State :=
  let p := j.block.entry
  let start (t : Slot) : Slot :=
    { ((((t.bound j j.next).wx 1 exitAddr).wx 10 j.block.args).wx 11 (BitVec.ofNat 64 j.block.n.toNat)) with pc := ptrAddr p }
  let r := (s.modSlot loc start).padAt loc p 1
  match r.2 with
  | none => r.1.modJob j.id (fun x => { x with next := x.next + 1, live := x.live ++ [(x.next, 0)] })
  | some _ =>
    (r.1.modSlot loc Slot.freed).modJob j.id (fun x =>
      { x with next := x.next + 1, ended := x.ended ++ [(x.next, Status.fault.byte)] })

/-- The binding that the dispatcher makes next in a cycle in which some dies have bound: the first job in order whose unit's slot, the
lowest free one, lies on another die (R108). -/
def State.bindNext (s : State) (dies : List Nat) : Option (Job × Nat) :=
  s.jobOrder.findSome? (fun j =>
    if j.wantsSlot then ((s.freeFor j).head?.filter (fun l => !dies.contains (dieOf l))).map (fun l => (j, l)) else none)

/-- The dispatcher binds a unit of job `sub` to the lowest free slot. -/
def execDispatchBind (s : State) : Res :=
  match s.jobs[s.sub]? with
  | none => .next s
  | some j =>
    match j.wantsSlot, s.freeFor j with
    | true, l :: _ => .next (s.bind1 j l)
    | _, _ => .next s

/-- An idle pool thread's slot. -/
def Slot.pooled (t : Slot) (job : Nat) : Slot :=
  { t.freed with st := .pool, poolOf := some job, job := some job, ctx := t.ctxCounter, ctxCounter := t.ctxCounter + 1 }

/-- The pool takes the highest free slot (R96). -/
def execPoolTake (s : State) : Res :=
  match s.jobs[s.sub]? with
  | none => .next s
  | some j =>
    match j.wantsPool, (s.freeFor j).getLast? with
    | true, some l =>
      .next ((s.modSlot l (·.pooled j.id)).modJob j.id (fun x => { x with pool := x.pool ++ [l], poolLeft := x.poolLeft - 1 }))
    | _, _ => .next s

/-- The pools of all jobs take what they want, in the order of the jobs (R96). -/
def State.takePools (s : State) : State :=
  s.jobOrder.foldl (fun t j => (List.range j.poolLeft).foldl (fun u _ =>
    match ({ u with sub := u.jobs.findIdx (fun x => x.id == j.id) } : State) |> execPoolTake with
    | .next v => { v with sub := u.sub }
    | _ => u) t) s

/-- The bindings of one cycle (R108): one on each die at most. An entry that must be read at another package is asked for (R246). -/
def State.dispatch (s : State) : Nat → List Nat → State
  | 0, _ => s
  | k + 1, dies =>
    match s.bindNext dies with
    | none => s
    | some (j, l) => (s.farStep (s.bind1 j l)).dispatch k (dieOf l :: dies)

/-- A job of no gang reaches its start tick (R106). -/
def execStartTickReached (s : State) : Res :=
  match s.jobs[s.sub]? with
  | none => .next s
  | some j => if j.held && j.gang.isNone && j.block.tick.toNat ≤ s.tick.toNat then .next (s.start j.id) else .next s

/-! ### Gang decisions (R107) -/

/-- Votes of a launch. -/
def PodMsg.isVote (l : Word × Word × Nat) : PodMsg → Bool
  | .vote x _ _ => x == l
  | _ => false

/-- A message of the pod arrives: a vote that comes after its coordinator's decision time counts as none to accept (R107). -/
def State.hear (s : State) (m : PodMsg) : State :=
  { s with pod := s.pod ++ [match m with
      | .vote l p a => .vote l p (a && s.tick.toNat + 5000 ≤ l.2.1.toNat)
      | x => x] }

/-- Whether every member of a launch has voted to accept. -/
def State.accepted (s : State) (l : Word × Word × Nat) (members : List Nat) : Bool :=
  members.all (fun p => s.gangMsgs.contains (.vote l p true))

/-- A member takes a decision: LATE completes the job. -/
def State.decided (s : State) (j : Job) (go : Bool) : State :=
  s.modJob j.id (fun x =>
    { x with gang := x.gang.map (fun g => { g with go := some go }),
             final := if go then x.final else some Status.late.byte })

/-- A vote whose decision time has come and for which this coordinator has no launch, or has decided: its sender is told
LATE. -/
def State.lateVote (s : State) : Option (Word × Word × Nat × Nat) :=
  s.gangMsgs.findSome? (fun m =>
    match m with
    | .vote l p _ =>
      if l.2.1.toNat ≤ s.tick.toNat + 5000
          && !s.jobs.any (fun j => j.gangId == l && j.gang.any (fun g => g.go.isNone) && j.final.isNone) then
        some (l.1, l.2.1, l.2.2, p)
      else none
    | _ => none)

/-- A message of a gang launch is taken up; else job `sub` is decided, by the coordinator at the start less 5,000 ticks on the votes
that came by then (`State.hear`), by another member on the coordinator's word before the start tick; else a vote that came too late is answered. -/
def execGangDecision (s : State) : Res :=
  match s.pod with
  | .cutOff l _ :: rest =>
    .next { s with pod := rest, jobs := s.jobs.map (fun j =>
      if j.gangId == l then { j with gang := j.gang.map (fun g => { g with lost := true }) } else j) }
  | .vote l p a :: rest => .next { s with pod := rest, gangMsgs := s.gangMsgs ++ [.vote l p a] }
  | .decision l go :: rest => .next { s with pod := rest, gangMsgs := s.gangMsgs ++ [.decision l go] }
  | _ =>
    match s.jobs[s.sub]?.bind (fun j => j.gang.map (fun g => (j, g))) with
    | some (j, g) =>
      let l := j.gangId
      if !j.held || j.final.isSome || g.go.isSome then .next s
      else if gangHead g.members == s.pkg.toNat then
        if s.tick.toNat + 5000 < l.2.1.toNat then .next s
        else
          let go := s.accepted l g.members && s.tick.toNat < l.2.1.toNat
          let told := (g.members.filter (fun p => p != s.pkg.toNat)).map (fun p => Out.pod p (.decision l go))
          .next (({ s with outs := s.outs ++ told, gangMsgs := s.gangMsgs.filter (fun m => !m.isVote l) } : State).decided j go)
      else if j.block.tick.toNat ≤ s.tick.toNat then .next s
      else if s.gangMsgs.contains (.decision l true) || s.gangMsgs.contains (.decision l false) then
        let go := !s.gangMsgs.contains (.decision l false)
        .next (({ s with gangMsgs := s.gangMsgs.filter (fun m => m != .decision l true && m != .decision l false) } :
          State).decided j go)
      else .next s
    | none =>
      match s.lateVote with
      | some (h, t, n, p) =>
        let l := (h, t, n)
        .next { s with gangMsgs := s.gangMsgs.filter (fun m => m != .vote l p true && m != .vote l p false),
                       outs := if p == s.pkg.toNat then s.outs else s.outs ++ [.pod p (.decision l false)] }
      | none => .next s

/-- The start tick of a gang's job: with GO it starts, with no decision it completes with LOST. -/
def execGangStart (s : State) : Res :=
  match s.jobs[s.sub]?.bind (fun j => j.gang.map (fun g => (j, g))) with
  | none => .next s
  | some (j, g) =>
    if !j.held || j.final.isSome || s.tick.toNat < j.block.tick.toNat then .next s
    else
      match g.go with
      | some true => .next (s.start j.id)
      | some false => .next s
      | none =>
        if gangHead g.members == s.pkg.toNat then .next s
        else .next (s.modJob j.id (fun x => { x with final := some Status.lost.byte }))

/-! ### Dependence entries (R99 to R105) -/

def State.dep (s : State) (die i : Nat) : Dep := (assoc (s.die die).deps i).getD Dep.reset
def State.setDep (s : State) (die i : Nat) (d : Dep) : State := s.modDie die (fun x => { x with deps := assocSet x.deps i d })
def State.modDep (s : State) (die i : Nat) (f : Dep → Dep) : State := s.setDep die i (f (s.dep die i))

/-- The OK handle of an entry. -/
def depHandle (die i : Nat) (gen : BitVec 16) : Word := BitVec.ofNat 64 (gen.toNat * 2 ^ 40 + die * 2 ^ 9 + i)

def handleDie (h : Word) : Nat := h.toNat / 2 ^ 9 % 4
def handleIdx (h : Word) : Nat := h.toNat % 256
def handleGen (h : Word) : Nat := h.toNat / 2 ^ 40 % 2 ^ 16
def handleSt (h : Word) : Nat := h.toNat / 2 ^ 56
def State.named (s : State) (h : Word) : Dep := s.dep (handleDie h) (handleIdx h)
def State.stale (s : State) (h : Word) : Bool := (s.named h).gen.toNat != handleGen h

/-- An entry whose count is 0 is LAUNCHED: steps 6 and 7, then submission (R100). -/
def State.launchEntry (s : State) (die i : Nat) : State :=
  let d := s.dep die i
  match s.check67 d.block with
  | some st => s.setDep die i { d with st := .done, status := st.byte }
  | none =>
    (s.setDep die i { d with st := .launched }).submit (.entry die i) ⟨d.block, d.code, d.hash, d.profen⟩ d.rights

/-- A predecessor of an entry has completed. -/
def State.release1 (s : State) (p : Nat × Nat) : State :=
  let die := p.1 / 256
  let i := p.1 % 256
  let d := s.dep die i
  if d.gen.toNat != p.2 || d.count == 0 || !(d.st == .open_ || d.st == .waiting) then s
  else
    let s1 := s.setDep die i { d with count := d.count - 1 }
    if d.st == .waiting && d.count == 1 then s1.launchEntry die i else s1

/-- Entry `sub` of die `cur` is DONE (R101). -/
def execEntryDone (s : State) : Res :=
  let d := s.dep s.cur s.sub
  if d.st != .done then .next s
  else
    let s1 := d.succ.foldl State.release1 s
    let s2 : State := { s1 with arrivals := s1.arrivals ++
      [(d.home, d.ctx, ⟨2, d.status, 0, d.block.tag, depHandle s.cur s.sub d.gen⟩)] }
    .next (s2.setDep s.cur s.sub { Dep.reset with gen := d.gen + 1 })

/-- The lowest FREE entry of a die: R104 waits for a free entry and names no order (DESIGN CHOICE, log 57). -/
def State.freeDep (s : State) (die : Nat) : Option Nat := (List.range 256).find? (fun i => (s.dep die i).st == .free)

/-! ### The instructions -/

/-- R103. -/
def execJlaunch (rd rs1 : BitVec 5) (s : State) : Res :=
  Go.done do
    let a := s.x rs1
    let s0 ← s.syncGate
    if a.toNat % 64 != 0 then .error (s0.finish rd .range 4)
    else
      let s1 ← (← s0.awaitRefs).reserve { xs := [(rd, Status.timeout.word)] }
      let (s2, b) ← s1.readBlock a 8
      let blk := LBlock.of b
      match s2.check15 blk (s.me.sc.lnchlim.zeroExtend 64) with
      | .error st => .error (s2.unreserve.finish rd st 4)
      | .ok l =>
        match s2.check67 blk with
        | some st => .error (s2.unreserve.finish rd st 4)
        | none =>
          let s3 ← s2.reserved (s2.release .pkg)
          .ok ((s3.submit (.thread s.cur s.tid.1 s.tid.2) l s.me.sc.pdrights).finish rd .ok 4)

/-- R104. The block is read once, a free entry awaited with it at hand. -/
def execGlaunch (rd rs1 : BitVec 5) (s : State) : Res :=
  let fail (t : State) (st : Status) : State := (t.setX rd st.handle).retire 4
  Go.done do
    let a := s.x rs1
    let s0 ← s.syncGate
    if a.toNat % 64 != 0 then .error (fail s0 .range)
    else
      let s1 ← (← s0.awaitRefs).reserve { xs := [(rd, Status.timeout.handle)] }
      let (s2, b) ← s1.readBlock a 8
      let blk := LBlock.of b
      match s2.check15 blk (s.me.sc.lnchlim.zeroExtend 64) with
      | .error st => .error (fail s2.unreserve st)
      | .ok l =>
        if !ptrE blk.entry then .error (fail s2.unreserve .refused)
        else
          match s2.freeDep (dieOf s.cur) with
          | none =>
            .error (s2.waitFor .freeEntry s2.waitlim { xs := [(rd, Status.timeout.handle)], release := true } (some b))
          | some i => do
            let s3 ← s2.reserved (s2.release .pkg)
            let d := s3.dep (dieOf s.cur) i
            let e : Dep :=
              { d with st := .open_, block := blk, count := 0, succ := [], home := s.tid.1, ctx := s.tid.2,
                       rights := s.me.sc.pdrights, code := l.code, hash := l.hash, profen := l.profen, job := s.me.job, status := 0 }
            .ok (((s3.setDep (dieOf s.cur) i e).setX rd (depHandle (dieOf s.cur) i d.gen)).retire 4)

/-- R105: no rs1 field of 0 names a predecessor. -/
def execGdep (rd rs1 rs2 : BitVec 5) (s : State) : Res :=
  let h := s.x rs2
  let e := s.named h
  let mine := s.me.sc.pdrights
  if handleSt h != 0 || s.stale h || e.st != .open_ || e.rights != mine then .next (s.finish rd .range 4)
  else if rs1 == 0 then
    let s1 := if e.count == 0 then s.launchEntry (handleDie h) (handleIdx h)
      else s.setDep (handleDie h) (handleIdx h) { e with st := .waiting }
    .next (s1.finish rd .ok 4)
  else
    let p := s.x rs1
    let d := s.named p
    if handleSt p != 0 || p == h then .next (s.finish rd .range 4)
    else if s.stale p then .next (s.finish rd .ok 4)
    else if d.rights != mine || d.st == .free || d.st == .open_ || 16 ≤ d.succ.length || e.count == 255 then
      .next (s.finish rd .range 4)
    else
      let s1 := s.setDep (handleDie h) (handleIdx h) { e with count := e.count + 1 }
      .next ((s1.modDep (handleDie p) (handleIdx p) (fun x =>
        { x with succ := x.succ ++ [(handleDie h * 256 + handleIdx h, handleGen h)] })).finish rd .ok 4)

/-! ### The end of a thread (R394, R396) -/

/-- Whether a thread has an engine command that has not reached its final status. -/
def State.commandsOut (s : State) (t : Tid) : Bool :=
  let k (x : Kiln) : Bool := x.running && (x.home, x.ctx) == t
  s.cores.any (fun c => c.2.copyQ.any (fun q => (q.home, q.ctx) == t) || c.2.mxQ.any (fun q => q.ofThread t))
    || s.clus.any (fun c => c.2.run.any (fun q => q.ofThread t))
    || s.dies.any (fun d => k d.2.kiln0 || k d.2.kiln1) || s.insts.any (fun i => i.outstanding t)

/-- The status a thread ends with, from a0 (R13, R394). -/
def endStatus (a0 : Word) : BitVec 8 :=
  let st := a0.toNat % 256
  if st == 8 || 0xB < st then Status.fault.byte else BitVec.ofNat 8 st

/-- Threads of a control work unit other than some. -/
def State.unitOthers (s : State) (job : Nat) (wuid : BitVec 24) (out : List Nat) : Bool :=
  let mine (t : Slot) : Bool := t.job == some job && t.u.wuid == wuid && t.poolOf.isNone
  s.slots.any (fun e => e.2.occupied && mine e.2 && !out.contains e.1) || s.away.any (fun a => mine a.slot)

/-- A status that is not OK is noted in a work unit: the first one stays, and of those of one cycle that of the lowest location
(R396). -/
def Job.noteStatus (j : Job) (u cycle loc : Nat) (st : BitVec 8) : Job :=
  let first := !j.live.any (fun l => l.1 == u && l.2 != 0) || j.bad.any (fun b => b.1 == u && b.2.1 == cycle && loc < b.2.2)
  if st == Status.ok.byte || !first then j
  else
    { j with live := j.live.map (fun l => if l.1 == u then (u, st) else l),
             bad := (u, cycle, loc) :: j.bad.filter (fun b => b.1 != u) }

/-- A thread's end is noted in its work unit, and the last thread ends the unit (R396). A graph unit ends with its frame alone (R397). -/
def State.noteEnd (s : State) (t : Slot) (locs : List Nat) (st : BitVec 8) : State :=
  match t.job with
  | none => s
  | some id =>
    if (s.job id).any (fun j => ptrE j.block.entry) then s
    else
    let u := t.u.wuid.toNat
    let s1 := s.modJob id (·.noteStatus u s.cycle (locs.foldl min 4096) st)
    if s1.unitOthers id t.u.wuid locs then s1
    else
      let fin := ((s1.job id).bind (fun j => (j.live.find? (fun l => l.1 == u)).map Prod.snd)).getD st
      s1.endUnit id u fin

/-- The thread of a slot, with the rest of its gang, is gone. -/
def State.endThread (s : State) (loc : Nat) (st : BitVec 8) : State :=
  let t := s.slot loc
  let locs := s.fellows loc
  let told := if st == Status.ok.byte then Status.fault.byte else st
  let s1 := t.cbStack.foldl (fun u c => u.answerCall c.node c.frame told (List.replicate 20 0)) s
  let s2 := locs.foldl (fun u l => u.leave l) s1
  let s3 := if t.poolOf.isSome then s2 else s2.noteEnd t locs st
  let s4 := locs.foldl (fun u l => u.modSlot l Slot.freed) s3
  match t.poolOf with
  | some id => if (s3.job id).isSome then s4.modSlot loc (·.pooled id) else s4
  | none => s4

/-- The thread stands at the exit address. A store that is still held here was held when a trap returned, and is
discarded. -/
def execThreadExit (s : State) : Res :=
  let t := s.me
  if t.pc != exitAddr || !(t.st == .ready || t.st == .wait || t.st == .trap) then .next s
  else
    let locs := s.fellows s.cur
    let s1 := locs.foldl (fun u l => (u.drain l).dropHeld l) s
    if locs.any (fun l => !(s1.slot l).refHeld.isEmpty) then .next (s1.waitOpen .transit)
    else
      let s2 := locs.foldl (fun u l => (u.releaseSubs l .pkg).releaseFar (tidNo (u.tidOf l)) false 0) s1
      let busy := locs.any (fun l => s2.commandsOut (s2.tidOf l))
      if busy && s.cycle < s2.deadlineFor s.cur .commands s.waitlim then .next (s2.waitFor .commands s.waitlim {})
      else .next (s2.endThread s.cur (if busy then Status.timeout.byte else endStatus (t.xr 10)))

/-! ### The end of a job (R399) -/

/-- Whether a job is complete: every unit has ended, or it ended before any ran. -/
def Job.complete (j : Job) : Bool :=
  match j.final with
  | some _ => j.live.isEmpty
  | none => !j.held && j.live.isEmpty && (j.rest.isSome || j.block.n.toNat ≤ j.next)

/-- The lowest unit that ended with a status other than OK, and that status. -/
def Job.worst (j : Job) : Option (Nat × BitVec 8) :=
  let bad := j.ended.filter (fun e => e.2 != Status.ok.byte)
  let all := match j.rest with
    | some st => if j.next < j.block.n.toNat then bad ++ [(j.next, st)] else bad
    | none => bad
  all.foldl (fun b e => match b with | some x => if e.1 < x.1 then some e else b | none => some e) none

/-- The status a job reports, with its lowest unit of another status than OK. A gang that lost a member says so (R107). -/
def Job.report (j : Job) : BitVec 8 × Nat :=
  match j.final, j.worst with
  | some st, _ => (st, noUnit)
  | none, some (u, st) => (st, u)
  | none, none => (if j.gang.any GangL.lost then Status.lost.byte else Status.ok.byte, noUnit)

/-- Entries that threads of a job left OPEN end with it (R100). -/
def Die.endOpen (d : Die) (job : Nat) : Die :=
  { d with deps := d.deps.map (fun e =>
      if e.2.st == .open_ && e.2.job == some job then (e.1, { e.2 with st := .done, status := Status.refused.byte }) else e) }

/-- Whether what a job reports has a place (R95). -/
def State.canReport (s : State) (j : Job) : Bool :=
  match j.src with
  | .stream qp _ _ _ => s.recordRoom qp
  | _ => true

def execJobComplete (s : State) : Res :=
  match s.jobs[s.sub]? with
  | none => .next s
  | some j =>
    if !j.complete || !s.canReport j then .next s
    else
      let r := j.report
      let freePool (u : State) (l : Nat) : State :=
        if (u.slot l).st == .pool && (u.slot l).poolOf == some j.id then (u.leave l).modSlot l Slot.freed else u
      let s0 := (s.bars.filter (fun b => b.job == j.id)).foldl State.reportBar s
      let s1 := j.pool.foldl freePool s0
      let s2 : State :=
        { s1 with jobs := s1.jobs.filter (fun x => x.id != j.id), queued := s1.queued.filter (fun q => q.who != .job j.id),
                  bars := s1.bars.filter (fun b => b.job != j.id), dies := s1.dies.map (fun d => (d.1, d.2.endOpen j.id)),
                  gangMsgs := s1.gangMsgs.filter (fun m => m != .decision j.gangId true && m != .decision j.gangId false) }
      match j.src with
      | .stream qp port hostTag hash =>
        let s3 := if j.held then s2.modPort port (fun p => { p with buf := p.buf.drop 1 }) else s2
        .next (s3.report qp hostTag hash r.1 r.2 (j.ended.countP (fun e => e.2 == Status.ok.byte)))
      | .thread _ home ctx =>
        .next { s2 with arrivals := s2.arrivals ++ [(home, ctx, ⟨2, r.1, 0, j.block.tag, BitVec.ofNat 64 r.2⟩)] }
      | .entry die i => .next (s2.modDep die i (fun d => { d with st := .done, status := r.1 }))

/-! ### Streams at the head of a port (R93, R94, R97) -/

/-- Whether a region holds a configuration whose load is complete (R94). -/
def State.residentCfg (s : State) (desc hash : Word) : Bool :=
  s.regions.any (fun r => r.desc == desc && r.hash == hash && (r.st != .loading || r.reloads != 0))

/-- The head stream of a port: refused, waiting for its configuration, or launched. The port reads the directory of the die that its
block's placement set names (DESIGN CHOICE, log 37, log 46). Steps 1 to 3 need no configuration and come first; a graph function that is not
resident goes to the Imposer, which reads the code object. -/
def State.portHead (s : State) (port : Nat) : State :=
  match (s.port port).buf with
  | [] => s
  | x :: _ =>
    let b := x.block
    let die := placeDie b.place
    let desc := ptrAddr b.entry
    let code := (s.dirFind die x.hash).getD (2 ^ 56)
    if x.checked then s
    else if s.dirBad die || 2 ^ 56 ≤ code then s.endStream port Status.refused.byte
    else if !b.ok13 (s.port port).limit then s.endStream port Status.range.byte
    else if ptrE b.entry && !s.residentCfg desc x.hash then
      if s.queued.any (fun q => q.who == .stream port) then s
      else
        let q : Queued :=
          { who := .stream port, desc := desc, code := BitVec.ofNat 64 code, hash := x.hash, place := b.place,
            prio := b.prioByte.truncate 2, rights := (s.port port).rights, race := b.classByte.getLsbD 3, tried := false }
        { s with queued := s.queued ++ [q] }
    else if ptrE b.entry && !s.mayUse die desc.toNat (s.port port).rights then s.endStream port Status.refused.byte
    else
      match (s.codeObj die code).bind (fun c => s.ok45 die c b), s.check67 b with
      | none, _ => s.endStream port Status.refused.byte
      | some _, some st => s.endStream port st.byte
      | some pf, none =>
        let s1 : State := { s with queued := s.queued.filter (fun q => q.who != .stream port) }
        let s2 := s1.modPort port (fun p =>
          { p with buf := match p.buf with | y :: r => { y with checked := true } :: r | [] => [] })
        s2.submit (.stream x.qp port x.hostTag x.hash) ⟨b, BitVec.ofNat 64 code, x.hash, pf⟩ (s.port port).rights

/-! ### The launch wait limit (R114) -/

/-- The launch wait limit of a die in ticks. -/
def State.launchLimit (s : State) (die : Nat) : Nat :=
  let n := (s.die die).lnchwait.toNat % 2 ^ 40
  if n == 0 then 2 ^ 34 else n

/-- Whether the limit has passed since a launch. -/
def State.launchOver (s : State) (die : Nat) (from1 : Nat) : Bool := from1 + s.launchLimit die ≤ s.tick.toNat

/-- The die whose limit governs a frame that waits to open: for a `callt` that of the calling thread (DESIGN CHOICE, log 37). -/
def State.openingDie (s : State) (o : Opening) : Nat :=
  match o.caller with
  | .thread home ctx => dieOf ((s.locOf (home, ctx)).getD home)
  | _ => placeDie (s.launchOf o.job).1

/-- `cur` is 0 for the head stream of port `sub`, 1 for job `sub`, 2 for frame `sub` of those that wait to open. -/
def execLaunchWaitExpiry (s : State) : Res :=
  match s.cur with
  | 0 =>
    match (s.port s.sub).buf with
    | x :: _ =>
      if s.queued.any (fun q => q.who == .stream s.sub) && s.launchOver (placeDie x.block.place) (max x.since.toNat x.block.tick.toNat)
      then .next (s.endStream s.sub Status.timeout.byte)
      else .next s
    | [] => .next s
  | 1 =>
    match s.jobs[s.sub]? with
    | some j =>
      if !j.held && j.final.isNone && j.rest.isNone && j.next < j.block.n.toNat
          && s.launchOver (placeDie j.block.place) (max j.submitted.toNat j.block.tick.toNat) then
        .next (({ s with queued := s.queued.filter (fun q => q.who != .job j.id) } : State).modJob j.id (fun x =>
          { x with rest := some Status.timeout.byte }))
      else .next s
    | none => .next s
  | _ =>
    match s.openings[s.sub]? with
    | some o =>
      if !o.same && s.launchOver (s.openingDie o) o.since.toNat then .next (s.failOpening o Status.timeout.byte) else .next s
    | none => .next s

end Sys2Proof.Machine
end

