-- ==== Sys2Proof/Machine/HostPort.lean ====
section
/-! DEFINITION. The host port (R87 to R95): queue pairs, memory keys, streams and completion records. The port is live in
RUNNING only (R422, R423). -/

namespace Sys2Proof.Machine

def State.emit (s : State) (o : Out) : State := { s with outs := s.outs ++ [o] }

/-- The priority of eight that a queue pair's packets have (R87, log 22). -/
def priorityOf (qp : Nat) : Nat := Config.qpPriority qp % 8

/-- A packet of a queue pair: it waits while its priority is paused (R87). -/
def State.transmit (s : State) (qp : Nat) (o : Out) : State :=
  if s.paused.contains (priorityOf qp) then { s with txWait := s.txWait ++ [(priorityOf qp, o)] } else s.emit o

/-- Whether the host port is up. -/
def State.portUp (s : State) : Bool := s.col.power == .running

/-- Whether a queue pair takes requests. -/
def State.qpUp (s : State) (qp : Nat) : Bool := s.portUp && (s.qp qp).connected && !(s.qp qp).error

/-! ### What the supervisor configures (R90, R98)

The manual names no means of it. A queue pair starts on port 0 with no key (log 22, log 46). -/

/-- A queue pair's key table takes a key, in the place of one of its number; it has 256 places. -/
def Qp.addKey (q : Qp) (k : Key) : Qp :=
  let others := q.keys.filter (fun x => x.num != k.num)
  if others.length < 256 then { q with keys := others ++ [k] } else q

/-- The supervisor sets a port's launch limit or rights table, binds a queue pair to a port, or fills its key table. -/
def State.setUp (s : State) (c : Setup) : State :=
  match c with
  | .limit p v => s.modPort p.val (fun x => { x with limit := v })
  | .rights p v => s.modPort p.val (fun x => { x with rights := v })
  | .bind qp p => s.modQp qp (fun q => { q with port := p })
  | .key qp k => s.modQp qp (·.addKey k)
  | .noKey qp num => s.modQp qp (fun q => { q with keys := q.keys.filter (fun x => x.num != num) })

/-! ### Connections (R88) -/

/-- The queue pair numbers of the 1,024 reliable connected ones; 0 and 1 are never among them. -/
def rcNumber (qp : Nat) : Bool := 2 ≤ qp && qp < 2 ^ 24

/-- The queue pair that is reserved for Colophon's commands (R423). -/
def mgmtQp : Nat := 2

/-- A communication-management datagram for a queue pair: the device answers REQ with REP, or with REJ when it has no queue
pair left, and DREQ with DREP; RTU connects. It starts no exchange of its own, so it expects no REP or DREP. -/
def execCmMad (qp : Nat) (m : Mad) (s : State) : Res :=
  if !s.portUp || !rcNumber qp then .next s
  else
    match m with
    | .req =>
      -- one of the 1,024 is kept for Colophon
      let used := s.qps.countP (fun q => q.1 != qp && q.1 != mgmtQp && (q.2.connected || q.2.asked))
      if qp != mgmtQp && 1023 ≤ used then .next (s.transmit 1 (.mad qp .rej))
      else .next ((s.modQp qp (fun q => { q with asked := true })).transmit 1 (.mad qp .rep))
    | .rtu => .next (if (s.qp qp).asked then s.modQp qp (fun q => { q with asked := false, connected := true, error := false }) else s)
    | .rej => .next (s.modQp qp (fun q => { q with asked := false }))
    | .dreq => .next ((s.modQp qp (fun q => { q with asked := false, connected := false, error := false })).transmit 1 (.mad qp .drep))
    | .rep | .mra | .drep => .next s

/-- A request of a kind that a queue pair does not take: a NAK, and the queue pair is in error. -/
def State.badRequest (s : State) (qp : Nat) : State :=
  (s.modQp qp (fun q => { q with error := true })).transmit qp (.nakInvalid qp)

def execUnsupportedRequest (qp : Nat) (_r : BadRequest) (s : State) : Res :=
  .next (if !s.qpUp qp then s else s.badRequest qp)

/-- A SEND of the host on an ordinary queue pair is accepted: the manual gives its data no use. -/
def State.hostSend (s : State) (qp : Nat) : State := if s.qpUp qp then s.transmit qp (.ack qp) else s

def execEcnMarkedPacket (qp : Nat) (s : State) : Res := .next (if s.qpUp qp then s.transmit qp (.cnp qp) else s)

/-- Priority flow control on eight priorities (R87): a priority that is no longer paused sends what it has kept back, in order. -/
def execPfcPause (prio : Nat) (on : Bool) (s : State) : Res :=
  if !s.portUp || 8 ≤ prio then .next s
  else
    let others := s.paused.filter (· != prio)
    if on then .next { s with paused := others ++ [prio] }
    else .next { s with paused := others, txWait := s.txWait.filter (fun w => w.1 != prio),
                        outs := s.outs ++ (s.txWait.filter (fun w => w.1 == prio)).map Prod.snd }

/-- The port serves the tick as an IEEE 1588 master (R89). -/
def execPtpMessage (s : State) : Res := .next (if s.portUp then s.emit (.ptp s.tick) else s)

/-! ### Data access (R90) -/

/-- The key of a number, if every byte of a range may be accessed through it. -/
def State.keyFor (s : State) (qp num : Nat) (k : AK) (addr : Word) (n : Nat) : Option Key :=
  match (s.qp qp).keys.find? (fun x => x.num == num) with
  | none => none
  | some x =>
    if x.base.toNat ≤ addr.toNat && addr.toNat + n ≤ x.base.toNat + x.len
        && (List.range n).all (fun i => (s.keyReach x k (addr + BitVec.ofNat 64 i) 1).isSome) then some x
    else none

/-- An RDMA WRITE on an ordinary key: all of it, or nothing and a NAK. Colophon's queue pair takes commands alone (R423): another request
there is of an unsupported kind (DESIGN CHOICE, log 46). -/
def execRdmaWrite (qp : Nat) (key : Nat) (addr : Word) (data : List Byte) (s : State) : Res :=
  if !s.qpUp qp || key == 0 then .next s
  else if qp == mgmtQp then .next (s.badRequest qp)
  else
    match s.keyFor qp key .store addr data.length with
    | none => .next (s.transmit qp (.nakAccess qp))
    | some k => .next ((s.keyPut qp k addr data).1.transmit qp (.ack qp))

/-- Bytes read through a key. -/
def State.keyGet (s : State) (k : Key) (a : Word) (n : Nat) : List Byte :=
  (List.range n).map (fun i =>
    match s.keyReach k .load (a + BitVec.ofNat 64 i) 1 with
    | some p => BitVec.ofNat 8 (s.get p.1 1)
    | none => 0)

/-- An RDMA READ. One that names key 0 is served through it as through another key: the manual makes a WRITE on it a stream, and says
nothing of a READ (DESIGN CHOICE, log 46). -/
def execRdmaRead (qp : Nat) (key : Nat) (addr : Word) (len : Nat) (s : State) : Res :=
  if !s.qpUp qp then .next s
  else if qp == mgmtQp then .next (s.badRequest qp)
  else
    match s.keyFor qp key .load addr len with
    | none => .next (s.transmit qp (.nakAccess qp))
    | some k => .next (s.transmit qp (.readResponse qp (s.keyGet k addr len)))

/-! ### Streams (R92, R93) -/

/-- Token `i` of a stream write. -/
def tokenAt (data : List Byte) (i : Nat) : Nat := bytesAt data (64 * i) 64

/-- Whether bytes hold exactly one whole stream. -/
def wholeStream (data : List Byte) : Bool :=
  data.length % 64 == 0 && 128 ≤ data.length && bytesAt data 0 1 == 1 && data.length == 64 * (2 + bytesAt data 1 1)

/-- The stream that a write carries. -/
def streamOf (qp : Nat) (data : List Byte) (tick : Word) : Stream :=
  { qp := qp, hostTag := BitVec.ofNat 32 (bytesAt data 4 4), hash := BitVec.ofNat 64 (bytesAt data 8 8),
    block := LBlock.of (tokenAt data 1),
    args := (List.range (bytesAt data 1 1)).map (fun i => BitVec.ofNat 512 (tokenAt data (2 + i))),
    code := 0, checked := false, since := tick }

/-- Tokens in a port's buffer. -/
def Port.tokens (p : Port) : Nat := (p.buf.map (fun x => 2 + x.args.length)).foldl (· + ·) 0

/-- A stream write: refused whole, or buffered, with what the queue pair wrote before it released to its work (R91); the head of a
port is looked up at once. -/
def execStreamWrite (qp : Nat) (addr : Word) (data : List Byte) (s : State) : Res :=
  if !s.qpUp qp then .next s
  else if qp == mgmtQp then .next (s.badRequest qp)
  else if addr != 0 || !wholeStream data then .next (s.transmit qp (.nakInvalid qp))
  else
    let port := (s.qp qp).port.val
    let x := streamOf qp data s.tick
    if 1024 < (s.port port).tokens + 2 + x.args.length || !s.recordRoom qp then .next (s.transmit qp (.nakRnr qp))
    else
      let s1 := ((s.releaseHost qp).modPort port (fun p => { p with buf := p.buf ++ [x] })).transmit qp (.ack qp)
      .next (if (s.port port).buf.isEmpty then s1.portHead port else s1)

/-- The head stream of a port is looked at again: its configuration is resident, or it has come to the head. -/
def execStreamResume (port : Nat) (s : State) : Res := .next (if s.portUp && port < 64 then s.portHead port else s)

/-- The 32 bytes of a completion record (R95). -/
def Rec.bytes (r : Rec) : List Byte :=
  natBytes 4 r.hostTag.toNat ++ natBytes 1 r.status.toNat ++ natBytes 3 r.lowest.toNat ++ natBytes 4 r.units.toNat ++ natBytes 4 0
    ++ natBytes 8 r.tick.toNat ++ natBytes 8 r.hash.toNat

/-- The oldest held record of queue pair `cur` is sent when the host has a receive posted; `sub` more have been (R95). -/
def execCompletionRecord (s : State) : Res :=
  let q := s.qp s.cur
  match q.held, s.qpUp s.cur && q.receives + s.sub != 0 with
  | r :: rest, true =>
    .next ((s.modQp s.cur (fun x => { x with held := rest, receives := q.receives + s.sub - 1 })).transmit s.cur
      (.send s.cur r.bytes))
  | _, _ => .next (if s.sub == 0 then s else s.modQp s.cur (fun x => { x with receives := q.receives + s.sub }))

end Sys2Proof.Machine
end

