-- ==== Sys2Proof/Machine/Sha3.lean ====
section
/-! DEFINITION. SHA3-512, SHAKE128 and SHAKE256 (FIPS 202): the digest of firmware images and what their signatures are made with (R425, R426). The 1,600 bits of the sponge are one number, its
lanes the 64-bit elements of that string (R37); lane x + 5y is the lane of column x and row y. -/

namespace Sys2Proof.Machine

/-- A lane turned left by `n` places, `n` below 64. -/
def laneTurn (v n : Nat) : Nat := (v * 2 ^ n) % 2 ^ 64 ||| v / 2 ^ (64 - n)

/-- The sponge whose lane x + 5y is `f x y`. -/
def spongeOf (f : Nat → Nat → Nat) : Nat := buildElems 64 25 (fun i => f (i % 5) (i / 5))

/-- The lane of column `x` and row `y`, each taken modulo 5. -/
def spongeLane (a x y : Nat) : Nat := elemOf 64 a (x % 5 + 5 * (y % 5))

/-- The parity of a column: one bit string of the five lanes in it. -/
def columnParity (a x : Nat) : Nat := ((List.range 5).map (spongeLane a x)).foldl (· ^^^ ·) 0

/-- θ: each column takes the parity of the column before it and of the one after it, that one turned by one place. -/
def spongeMix (a : Nat) : Nat :=
  let parity := buildElems 64 5 (columnParity a)
  let turned := buildElems 64 5 (fun x => elemOf 64 parity ((x + 4) % 5) ^^^ laneTurn (elemOf 64 parity ((x + 1) % 5)) 1)
  spongeOf (fun x y => spongeLane a x y ^^^ elemOf 64 turned x)

/-- ρ and π as one walk over the lanes but the first: the lane that step `t` of the walk stands on is turned by the triangular
number of t + 1 and put where step t + 1 stands. The walk starts in column 1 of row 0 and goes from (x, y) to (y, 2x + 3y). -/
def spongeWalk (a : Nat) : Nat → Nat → Nat → Nat → Nat
  | 0, _, _, acc => acc
  | n + 1, x, y, acc =>
    let t := 24 - (n + 1)
    let y' := (2 * x + 3 * y) % 5
    spongeWalk a n y y' (acc + laneTurn (spongeLane a x y) ((t + 1) * (t + 2) / 2 % 64) * 2 ^ (64 * (y + 5 * y')))

/-- χ: a lane changes where the next lane of its row is 0 and the one after it is 1. -/
def spongeRow (a : Nat) : Nat :=
  spongeOf (fun x y => spongeLane a x y ^^^ (spongeLane a (x + 2) y ^^^ (spongeLane a (x + 1) y &&& spongeLane a (x + 2) y)))

/-- One step of the eight-bit shift register that ι draws its bits from. -/
def iotaShift (r : Nat) : Nat := if 128 ≤ r then (2 * r) ^^^ 0x171 else 2 * r

/-- Seven draws: the bits at places 0, 1, 3, 7, 15, 31 and 63 of a round's constant, and the register after them. -/
def iotaDraw : Nat → Nat → Nat → Nat → Nat × Nat
  | 0, _, r, c => (c, r)
  | n + 1, place, r, c => iotaDraw n (2 * place + 1) (iotaShift r) (if r % 2 == 1 then c + 2 ^ place else c)

/-- The rounds: θ, ρ and π, χ, and ι in the first lane. -/
def spongeRounds : Nat → Nat → Nat → Nat
  | 0, _, a => a
  | n + 1, r, a =>
    let m := spongeMix a
    let d := iotaDraw 7 0 r 0
    spongeRounds n d.2 (spongeRow (spongeWalk m 24 1 0 (spongeLane m 0 0)) ^^^ d.1)

def spongePermute (a : Nat) : Nat := spongeRounds 24 1 a

/-- Take in `n` blocks of `rate` bytes. -/
def spongeTake (rate : Nat) : Nat → List Byte → Nat → Nat
  | 0, _, a => a
  | n + 1, bs, a => spongeTake rate n (bs.drop rate) (spongePermute (a ^^^ bytesNat (bs.take rate)))

/-- The sponge that took a byte string, the bits of `suffix`, and zeros up to a last 1. -/
def spongeFull (rate suffix : Nat) (bs : List Byte) : Nat :=
  let n := bs.length / rate + 1
  let last := suffix * 2 ^ (8 * (bs.length % rate)) ^^^ 2 ^ (8 * rate - 1)
  spongePermute (spongeTake rate (n - 1) bs 0 ^^^ bytesNat (bs.drop (rate * (n - 1))) ^^^ last)

/-- Give out `n` blocks of `rate` bytes. -/
def spongeGive (rate : Nat) : Nat → Nat → List Byte
  | 0, _ => []
  | n + 1, a => natBytes rate a ++ spongeGive rate n (spongePermute a)

/-- SHA3-512 of a byte string: the first 64 bytes of the sponge that took the string and the bits 0 1. -/
def sha3 (bs : List Byte) : List Byte := natBytes 64 (spongeFull 72 0x06 bs)

/-- The first `n` blocks of SHAKE128 and of SHAKE256: the string is followed by the bits 1 1 1 1. -/
def shake128 (bs : List Byte) (n : Nat) : List Byte := spongeGive 168 n (spongeFull 168 0x1F bs)
def shake256 (bs : List Byte) (n : Nat) : List Byte := spongeGive 136 n (spongeFull 136 0x1F bs)

end Sys2Proof.Machine
end

