-- ==== Sys2Proof/Machine/MlDsa.lean ====
section
/-! DEFINITION. ML-DSA-87 (FIPS 204), with which firmware images and attestation reports are signed (R425, R426): keys from a seed,
signing and verification, in the pure form with an empty context (log 20). A polynomial is the list of its 256 coefficients modulo q.
Loops that draw from a sponge end at the iteration limits that FIPS 204 gives, which are met with a probability below 2^-256. -/

namespace Sys2Proof.Machine

abbrev Poly := List Nat

def mlQ : Nat := 8380417
/-- The bound of a mask, half the low-order range, the bound of a challenge's products, and the number of hints. -/
def mlGamma1 : Nat := 2 ^ 19
def mlGamma2 : Nat := 261888
def mlBeta : Nat := 120
def mlOmega : Nat := 75

/-! ### Polynomials -/

def Poly.add (a b : Poly) : Poly := List.zipWith (fun x y => (x + y) % mlQ) a b
def Poly.sub (a b : Poly) : Poly := List.zipWith (fun x y => (x + (mlQ - y)) % mlQ) a b
/-- The product of transforms. -/
def Poly.mul (a b : Poly) : Poly := List.zipWith (fun x y => x * y % mlQ) a b
def Poly.zero : Poly := List.replicate 256 0

/-- 1753 to a power below 512. -/
def mlRoot (e : Nat) : Nat :=
  ((List.range 9).foldl (fun p i => (if bitOf e i then p.1 * p.2 % mlQ else p.1, p.2 * p.2 % mlQ)) (1, 1753)).1

/-- The exponent of the point at which place `i` of a transform is taken: the eight bits of `i` reversed, doubled, plus 1. -/
def mlPoint (i : Nat) : Nat := 2 * buildElems 1 8 (fun k => i / 2 ^ (7 - k)) + 1

/-- The number-theoretic transform: the polynomial at 256 points. -/
def Poly.ntt (w : Poly) : Poly :=
  (List.range 256).map (fun i => let x := mlRoot (mlPoint i); w.foldr (fun a b => (a + x * b) % mlQ) 0)

/-- Sums of some values, each of which is then multiplied by its factor, `n` times over. -/
def mlSums : Nat → List (Nat × Nat) → List Nat
  | 0, _ => []
  | n + 1, v => (v.map Prod.fst).foldl (· + ·) 0 % mlQ :: mlSums n (v.map (fun p => (p.1 * p.2 % mlQ, p.2)))

/-- The inverse transform; 8347681 is the inverse of 256. -/
def Poly.intt (w : Poly) : Poly :=
  (mlSums 256 (w.zipIdx.map (fun p => (p.1, mlRoot (512 - mlPoint p.2))))).map (fun x => x * 8347681 % mlQ)

/-- The largest distance of a coefficient from 0. -/
def Poly.norm (w : Poly) : Nat := (w.map (fun x => min x (mlQ - x))).foldl max 0

/-- A matrix of transforms by a vector of transforms. -/
def mlMul (m : List (List Poly)) (v : List Poly) : List Poly :=
  m.map (fun r => ((r.zip v).map (fun p => p.1.mul p.2)).foldl Poly.add Poly.zero)

/-! ### Bits -/

/-- 256 fields of `c` bits. -/
def mlUnpack (c : Nat) (bs : List Byte) : List Nat := elemsOf c (bytesNat bs) 256
def mlPack (c : Nat) (w : List Nat) : List Byte := natBytes (32 * c) (packElems c w)

/-- Values stored as their difference from `b`. -/
def mlFrom (b : Nat) (w : List Nat) : Poly := w.map (fun u => (b + mlQ - u) % mlQ)

/-- Split bytes into `n` strings of `len`. -/
def mlSplit (len n : Nat) (bs : List Byte) : List (List Byte) := (List.range n).map (fun i => (bs.drop (len * i)).take len)

/-- The high-order part of a coefficient, and the size of its low-order part. -/
def mlHigh (r : Nat) : Nat := (r / (2 * mlGamma2) + if mlGamma2 < r % (2 * mlGamma2) then 1 else 0) % 16
def mlLow (r : Nat) : Nat :=
  let m := r % (2 * mlGamma2)
  (if mlGamma2 < m then 2 * mlGamma2 - m else m) + (if mlQ - 1 - mlGamma2 ≤ r && (mlGamma2 < m || m == 0) then 1 else 0)

/-- The high-order part that a hint tells. -/
def mlUseHint (h : Bool) (r : Nat) : Nat :=
  let m := r % (2 * mlGamma2)
  if !h then mlHigh r else if 0 < m && m ≤ mlGamma2 then (mlHigh r + 1) % 16 else (mlHigh r + 15) % 16

/-! ### What is drawn from a sponge -/

/-- The coefficients below q among the fields of 23 bits in triples of bytes. -/
def mlTriples : List Byte → List Nat
  | a :: b :: c :: r =>
    let z := a.toNat + 2 ^ 8 * b.toNat + 2 ^ 16 * (c.toNat % 128)
    if z < mlQ then z :: mlTriples r else mlTriples r
  | _ => []

/-- The public matrix, eight rows of seven, by its seed; it is drawn as transforms. -/
def mlExpandA (seed : List Byte) : List (List Poly) :=
  (List.range 8).map (fun r => (List.range 7).map (fun c =>
    (mlTriples (shake128 (seed ++ [BitVec.ofNat 8 c, BitVec.ofNat 8 r]) 16)).take 256))

/-- A polynomial with coefficients from -2 to 2. -/
def mlSmall (seed : List Byte) (n : Nat) : Poly :=
  let nibbles := (shake256 (seed ++ natBytes 2 n) 4).flatMap (fun b => [b.toNat % 16, b.toNat / 16])
  ((nibbles.filter (· < 15)).take 256).map (fun b => (mlQ + 2 - b % 5) % mlQ)

/-- A mask. -/
def mlMask (seed : List Byte) (n : Nat) : Poly := mlFrom mlGamma1 (mlUnpack 20 ((shake256 (seed ++ natBytes 2 n) 5).take 640))

/-- The challenge: 60 coefficients 1 or -1, at places drawn one by one. -/
def mlBall : Nat → List Byte → Nat → Poly → Poly
  | _, [], _, c => c
  | i, b :: bs, signs, c =>
    if 256 ≤ i then c
    else if i < b.toNat then mlBall i bs signs c
    else mlBall (i + 1) bs (signs / 2) ((c.set i (c.getD b.toNat 0)).set b.toNat (if signs % 2 == 1 then mlQ - 1 else 1))
def mlChallenge (seed : List Byte) : Poly :=
  let g := shake256 seed 1
  mlBall 196 (g.drop 8) (bytesNat (g.take 8)) Poly.zero

/-- 64 bytes of SHAKE256. -/
def mlHash (bs : List Byte) : List Byte := (shake256 bs 1).take 64

/-- The hash that a challenge comes from: of the message's and of the high-order parts. -/
def mlCommit (mu : List Byte) (w1 : List (List Nat)) : List Byte := mlHash (mu ++ w1.flatMap (mlPack 4))

/-- A message in the pure form with an empty context. -/
def mlMessage (m : List Byte) : List Byte := 0 :: 0 :: m

/-! ### Hints -/

/-- The hints of a signature: places in ascending order polynomial by polynomial, then the running counts. -/
def mlPackHints (hs : List (List Bool)) : List Byte :=
  let places := hs.map (fun h => (h.zipIdx.filter Prod.fst).map Prod.snd)
  let all := places.flatten
  (all.map (BitVec.ofNat 8)) ++ List.replicate (mlOmega - all.length) 0
    ++ (List.range 8).map (fun i => BitVec.ofNat 8 (places.take (i + 1)).flatten.length)

/-- Whether places rise strictly. -/
def mlRising : List Nat → Bool
  | a :: b :: r => a < b && mlRising (b :: r)
  | _ => true

def mlUnpackHints (bs : List Byte) : Option (List (List Bool)) :=
  let ends := ((bs.drop mlOmega).take 8).map BitVec.toNat
  let spans := (0 :: ends).zip ends
  let part (p : Nat × Nat) : List Nat := (((bs.take mlOmega).drop p.1).take (p.2 - p.1)).map BitVec.toNat
  let last := ends.getLastD 0
  if spans.any (fun p => p.2 < p.1 || mlOmega < p.2 || !mlRising (part p)) || ((bs.take mlOmega).drop last).any (· != 0) then none
  else some (spans.map (fun p => (List.range 256).map (fun j => (part p).contains j)))

/-! ### Keys, signing, verification -/

/-- What a seed gives: the matrix seed, the secret vectors, the signing seed, and the vector t. -/
structure MlKey where
  rho : List Byte
  s1 : List Poly
  s2 : List Poly
  k : List Byte
  t : List Poly
  deriving DecidableEq, Repr

def mlKey (seed : List Byte) : MlKey :=
  let g := shake256 (seed ++ [8, 7]) 1
  let rho := g.take 32
  let s1 := (List.range 7).map (mlSmall ((g.drop 32).take 64))
  let s2 := (List.range 8).map (fun r => mlSmall ((g.drop 32).take 64) (r + 7))
  { rho := rho, s1 := s1, s2 := s2, k := (g.drop 96).take 32,
    t := List.zipWith Poly.add ((mlMul (mlExpandA rho) (s1.map Poly.ntt)).map Poly.intt) s2 }

/-- The high part of a coefficient of t, without its low 13 bits taken from -2^12 + 1 to 2^12; and the low part. -/
def mlT1 (r : Nat) : Nat := (r + 2 ^ 12 - 1) / 2 ^ 13
def mlT0 (r : Nat) : Nat := (r + mlQ - mlT1 r * 2 ^ 13) % mlQ

/-- The public key: 2,592 bytes. -/
def MlKey.pub (k : MlKey) : List Byte := k.rho ++ k.t.flatMap (fun p => mlPack 10 (p.map mlT1))

/-- A try at a signature with mask number `n` on. -/
def MlKey.try1 (k : MlKey) (a : List (List Poly)) (mu rand : List Byte) (n : Nat) : Option (List Byte) :=
  let y := (List.range 7).map (fun r => mlMask rand (n + r))
  let w := (mlMul a (y.map Poly.ntt)).map Poly.intt
  let c := mlCommit mu (w.map (fun p => p.map mlHigh))
  let ch := (mlChallenge c).ntt
  let by1 (v : List Poly) : List Poly := v.map (fun p => (ch.mul p.ntt).intt)
  let z := List.zipWith Poly.add y (by1 k.s1)
  let r := List.zipWith Poly.sub w (by1 k.s2)
  let ct0 := by1 (k.t.map (fun p => p.map mlT0))
  let hs := List.zipWith (fun u v => List.zipWith (fun x e => mlHigh x != mlHigh ((x + e) % mlQ)) u v) r ct0
  if z.any (fun p => mlGamma1 - mlBeta ≤ p.norm) || r.any (fun p => p.any (fun x => mlGamma2 - mlBeta ≤ mlLow x))
      || ct0.any (fun p => mlGamma2 ≤ p.norm) || mlOmega < (hs.flatten.filter id).length then none
  else some (c ++ z.flatMap (fun p => mlPack 20 (mlFrom mlGamma1 p)) ++ mlPackHints hs)

/-- The first signature of some tries; 814 of them all fail with a probability below 2^-256. -/
def MlKey.tries (k : MlKey) (a : List (List Poly)) (mu rand : List Byte) : Nat → Nat → List Byte
  | 0, _ => List.replicate 4627 0
  | n + 1, i =>
    match k.try1 a mu rand i with
    | some x => x
    | none => k.tries a mu rand n (i + 7)

/-- A signature of a message: 4,627 bytes. `rnd` are the 32 bytes of the signer's own. -/
def MlKey.sign (k : MlKey) (m rnd : List Byte) : List Byte :=
  let mu := mlHash (mlHash k.pub ++ mlMessage m)
  k.tries (mlExpandA k.rho) mu (mlHash (k.k ++ rnd ++ mu)) 814 0

/-- Whether a signature of a message is one under a public key. -/
def mlVerify (pub m sig : List Byte) : Bool :=
  match mlUnpackHints (sig.drop 4544) with
  | none => false
  | some hs =>
    let mu := mlHash (mlHash pub ++ mlMessage m)
    let z := (mlSplit 640 7 (sig.drop 64)).map (fun b => mlFrom mlGamma1 (mlUnpack 20 b))
    let ch := (mlChallenge (sig.take 64)).ntt
    let t1 : List Poly := (mlSplit 320 8 (pub.drop 32)).map (fun b => (mlUnpack 10 b).map (fun x => x * 2 ^ 13 % mlQ))
    let az := mlMul (mlExpandA (pub.take 32)) (z.map Poly.ntt)
    let w := List.zipWith (fun p q => (p.sub (ch.mul (Poly.ntt q))).intt) az t1
    let w1 := List.zipWith (fun h p => List.zipWith mlUseHint h p) hs w
    pub.length == 2592 && sig.length == 4627 && z.all (fun p => p.norm < mlGamma1 - mlBeta) && mlCommit mu w1 == sig.take 64

end Sys2Proof.Machine
end

