-- ==== Sys2Proof/Machine/Colophon.lean ====
section
/-! DEFINITION. Colophon, the management controller (R421 to R428), and what the pod does to a package. -/

namespace Sys2Proof.Machine

/-- A state's place in the table of R421. -/
def Power.place : Power → Nat
  | .off => 0 | .standby => 1 | .selftest => 2 | .running => 3 | .bisque => 4

def State.setPower (s : State) (p : Power) : State := { s with col := { s.col with power := p } }

/-- Memory after the self-test: its contents are not given (log 41). -/
def freeMemory (n : Nat) : Memory :=
  (Config.resetFull n).foldl (fun m a => m.setFull a true)
    ((Config.resetCells n).foldl (fun m c => m.setByte c.1 c.2) ⟨[], []⟩)

/-- Compute is reset: threads, regions, jobs, open streams and what the pod has sent are gone without records; what Colophon and the
clocks hold stays, and requests to other packages are numbered on. -/
def State.resetCompute (s : State) : State :=
  { State.reset with
    cycle := s.cycle, tick := s.tick, fresh := s.fresh + 1, agenda := s.agenda, cur := s.cur, sub := s.sub, site := s.site,
    slotNo := s.slotNo, pkg := s.pkg, mem := freeMemory s.fresh, col := s.col, linksDown := s.linksDown, outs := s.outs,
    nextFar := s.nextFar }

/-! ### Power states (R421) -/

def execStandbyRailOn (s : State) : Res :=
  if s.col.power == .off then .next (s.setPower .standby) else .next s

def execStandbyRailLost (s : State) : Res :=
  .next { s.resetCompute with col := { s.col with power := .off, loading := none, wasRunning := false } }

def execSelftestComplete (pass : Bool) (s : State) : Res :=
  if s.col.power == .selftest then .next (s.setPower (if pass then .running else .bisque)) else .next s

def execThermalTrip (s : State) : Res :=
  if s.col.power == .running then .next (s.resetCompute.setPower .bisque) else .next s

/-! ### Firmware images (R425) -/

def fwMagic : Nat := 0x534B465700000001

def fwBody (i : List Byte) : List Byte := (i.drop 0x1280).take (bytesAt i 8 4)
def fwVersion (i : List Byte) : Nat := bytesAt i 0xC 4

/-- The four checks, in order. -/
def fwVerified (fuseMin : Nat) (i : List Byte) : Bool :=
  bytesAt i 0 8 == fwMagic && ((i.drop 0x1263).take 29).all (· == 0) && i.length == 0x1280 + bytesAt i 8 4
    && mlVerify (natBytes 2592 Config.firmwareKey.toNat) (i.take 0x50) ((i.drop 0x50).take 4627)
    && (i.drop 0x10).take 64 == sha3 (fwBody i) && fuseMin ≤ fwVersion i

/-- A response (R423). -/
def State.respond (s : State) (p : MPort) (st : Status) (data : List Byte) : State := s.emit (.mgmt p st.byte data)

/-- The image in progress is verified, and dropped or written to flash: what flash holds is erased first, so that a loss of the
rail in between leaves no image that verifies (R425). With none in progress, the flash image decides what follows STANDBY. -/
def execFirmwareVerify (s : State) : Res :=
  let c := s.col
  match c.loading with
  | some (p, i) =>
    let ok := fwVerified c.fuseMin i
    if ok && !c.flash.isEmpty then .next { s with col := { c with flash := [] } }
    else
    let next : Power := if c.wasRunning then .selftest else if ok then .standby else c.power
    let c1 : Colophon :=
      { c with loading := none, wasRunning := false, power := next, flash := if ok then i else c.flash,
               fuseMin := if ok then max c.fuseMin (fwVersion i) else c.fuseMin }
    .next (({ s with col := c1 } : State).respond p (if ok then .ok else .refused) [])
  | none =>
    if c.power == .standby then .next (s.setPower (if fwVerified c.fuseMin c.flash then .selftest else .bisque)) else .next s

/-! ### Commands (R423, R424) -/

/-- The codes of the commands (R423). -/
def mgmtCode : Instr → Option (BitVec 8)
  | .getStatus _ => some 0x01 | .readLog _ _ => some 0x02 | .loadImage _ _ => some 0x03 | .reset _ => some 0x04
  | .getIdentity _ => some 0x05 | .attest _ _ => some 0x06 | .setPowerCap _ _ => some 0x07
  | _ => none

/-- Whether a command reaches Colophon: on the main port it is a SEND on queue pair 2, which is live in RUNNING only (R423). -/
def State.hears (s : State) (p : MPort) : Bool := s.col.power != .off && (p != .mainPort || s.qpUp mgmtQp)

/-- Whether the package is in a state that takes LOAD_IMAGE and RESET. -/
def Power.resettable (p : Power) : Bool := p == .standby || p == .bisque || p == .running

/-- LOAD_IMAGE is taken by the side-band ports alone; in RUNNING it first resets compute. -/
def execLoadImage (p : MPort) (image : List Byte) (s : State) : Res :=
  if !s.hears p then .next s
  else if p == .mainPort || !s.col.power.resettable || s.col.loading.isSome then .next (s.respond p .refused [])
  else
    let run := s.col.power == .running
    let s1 := if run then s.resetCompute.setPower .standby else s
    .next { s1 with col := { s1.col with loading := some (p, image), wasRunning := run } }

/-- RESET: from RUNNING to SELFTEST, and from BISQUE and STANDBY to STANDBY, which verifies the flash image. -/
def execReset (p : MPort) (s : State) : Res :=
  if !s.hears p then .next s
  else if !s.col.power.resettable || s.col.loading.isSome then .next (s.respond p .refused [])
  else
    let next : Power := if s.col.power == .running then .selftest else .standby
    .next ((s.resetCompute.setPower next).respond p .ok [])

/-- Status: the state, the sensors and the security version (log 20). -/
def execGetStatus (p : MPort) (s : State) : Res :=
  if !s.hears p then .next s
  else
    .next ({ s with fresh := s.fresh + 1 }.respond p .ok
      (Config.stateCode s.col.power.place :: Config.sensors s.fresh ++ natBytes 4 (fwVersion s.col.flash)))

/-- A 4 KiB page of the log. -/
def logPage (page fresh : Nat) : List Byte := (List.range 4096).map (fun i => Config.logByte page i fresh)

def execReadLog (p : MPort) (page : Nat) (s : State) : Res :=
  if !s.hears p then .next s
  else .next ({ s with fresh := s.fresh + 1 }.respond p .ok (logPage page s.fresh))

/-- The identity key pair of the package, and its public key of 2,592 bytes (R426). -/
def identityPair : MlKey := mlKey (natBytes 32 Config.identitySeed.toNat)
def identityKey : List Byte := identityPair.pub

def execGetIdentity (p : MPort) (s : State) : Res :=
  if !s.hears p then .next s
  else .next (s.respond p .ok (identityKey ++ Config.identityCertificate identityKey Config.serial))

/-- The attestation report up to its signature (R426). -/
def State.attestReport (s : State) (nonce : BitVec 256) : List Byte :=
  natBytes 32 nonce.toNat ++ natBytes 8 Config.serial.toNat ++ sha3 (fwBody s.col.flash) ++ natBytes 4 (fwVersion s.col.flash)
    ++ [Config.stateCode s.col.power.place, 0, 0, 0] ++ natBytes 8 (if s.col.power == .running then s.tick.toNat else 0)

/-- The 32 bytes that a signature draws of its own: FIPS 204 leaves them to the signer (log 20). -/
def signerBytes (fresh : Nat) : List Byte :=
  (List.range 4).flatMap (fun i => natBytes 8 (Config.freeWord (fresh + i)).toNat)

def execAttest (p : MPort) (nonce : BitVec 256) (s : State) : Res :=
  if !s.hears p then .next s
  else .next (({ s with fresh := s.fresh + 4 } : State).respond p .ok
    (s.attestReport nonce ++ identityPair.sign (s.attestReport nonce) (signerBytes s.fresh)))

/-- A package cap from 1.2 to 2.5 kW (R428). -/
def execSetPowerCap (p : MPort) (watts : Nat) (s : State) : Res :=
  if !s.hears p then .next s
  else if s.col.power != .running || s.col.loading.isSome then .next (s.respond p .refused [])
  else if watts < 1200 || 2500 < watts then .next (s.respond p .range [])
  else .next ({ s with col := { s.col with capWatts := watts } }.respond p .ok [])

/-- Throttling changes timing only (R428). -/
def execThermalThrottle (cluster : Nat) (level : Nat) (s : State) : Res :=
  if s.col.power == .running && cluster < 128 then .next (s.modClu cluster (fun c => { c with throttle := level })) else .next s

/-! ### The pod (R427) -/

/-- The pod manager gives the package its number before it enters RUNNING. -/
def execPodNumberAssign (n : BitVec 9) (s : State) : Res :=
  if s.col.power == .off || s.col.power == .running then .next s else .next { s with pkg := n }

def wezilLinks : Nat := 12

/-- A damaged flit is sent again; nothing else changes. The links carry flits in RUNNING (R422). -/
def execLinkFlitReplay (link : Nat) (s : State) : Res :=
  .next (if s.col.power == .running && link < wezilLinks && !s.linksDown.contains link then s.emit (.replay link) else s)

def execLinkDown (link : Nat) (s : State) : Res :=
  .next (if link < wezilLinks && !s.linksDown.contains link then { s with linksDown := s.linksDown ++ [link] } else s)

/-- The tick is set as the pod forms, before RUNNING. Afterwards it is held within 4 ns of the pod's over the links: how is not said,
and here one correction moves it by at most 4 either way (DESIGN CHOICE, log 47). -/
def execTickSync (t : Word) (s : State) : Res :=
  let near := t.toNat ≤ s.tick.toNat + 4 && s.tick.toNat ≤ t.toNat + 4
  .next (if s.col.power == .selftest || (s.linked && near) then { s with tick := t } else s)

end Sys2Proof.Machine
end

