-- ==== Sys2Proof/Machine/Expiry.lean ====
section
/-! DEFINITION. The end of a wait at its limit (R15, R125): what a wait waits for is asked once more before the limit takes effect, so
that an instruction whose condition has been met in time completes (R143 to R145, R357). -/

namespace Sys2Proof.Machine

/-- The waits of a kind of some threads end. -/
def State.expireAll (s : State) (locs : List Nat) (k : WaitKind) : State :=
  locs.foldl (fun u l =>
    match (u.slot l).wait with
    | some w => if w.kind == k then u.expire l w.exp else u
    | none => u) s

/-- Whether what the thread at `cur` waits for has come, so that the instruction in progress completes in its own turn. -/
def State.waitMet (s : State) (k : WaitKind) : Bool :=
  match k with
  | .inbox => (s.fellows s.cur).all (fun m => !(s.slot m).mail.isEmpty)
  | .reserve => !s.me.inboxFull
  | .enqueue => s.me.current.any (fun i => !s.queueFull (coreOf s.cur) i)
  | .freeEntry => (s.freeDep (dieOf s.cur)).isSome
  | .kiln => (s.freeKiln (dieOf s.cur)).isSome
  | .region => s.rgnResults.any (fun r => r.1 == s.tid)
  | .plbInv => !s.invs.any (fun i => i.who == some s.tid)
  | .remote => s.me.far.any (fun f => f.2.2.isNone && (s.replyOf f.2.1).isSome)
      || s.asks.any (fun a => a.who == tidNo s.tid && (s.replyOf a.id).isSome)
  | _ => false

/-- The wait of a thread has reached its limit; that of `recv` or `wfm` ends on every member of a gang (R140). Waits of full-empty
words, of pin entries and of an ended thread's commands have steps of their own, and so has the return wait of `callt`; a group's
attempt is abandoned at its coordinator (R360). Where what the instruction waits for has come, it completes instead. -/
def execWaitlimExpiry (s : State) : Res :=
  match s.me.wait with
  | none => .next s
  | some w =>
    if !w.deadline.any (· ≤ s.cycle) || s.waitMet w.kind then .next s
    else
      match w.kind, s.me.current with
      | .fe, _ | .pinDir, _ | .loaded, _ | .commands, _ => .next s
      | .group, _ | .reply, _ => .next (s.awaitForm ((w.exp.xs.head?.map Prod.fst).getD 0))
      | .barrier, some (.bar sc id rd) | .barrier, some (.barWait sc id rd) => .next (s.barAwait sc id.toNat rd)
      | .fuse, some (.fuse rd n) => execFuse rd n s
      | .drain, some (.subDrop d e) => execSubDrop d e s
      | .flush, some (.subFlush d) => execSubFlush d s
      | k, _ => .next (s.expireAll (if k == .inbox then s.fellows s.cur else [s.cur]) k)

end Sys2Proof.Machine
end

