-- ==== Sys2Proof/Machine/Switch.lean ====
section
/-! DEFINITION. Switching threads (R371 to R376, R389), parked contexts (R374), invalidation (R249, R390), trap records
(R370, R393), and the replies to posted stores (R246, R248, R259, R260). -/

namespace Sys2Proof.Machine

/-! ### The save area (R372) -/

def areaMagic : Nat := 0x534B435400000001

/-- The CSRs of the area, in ascending address: every one held per thread slot, and six RISC-V ones. -/
def areaCsrs : List Nat :=
  [0x003, 0x100, 0x140, 0x141, 0x142, 0x143, 0x5C0, 0x5C2, 0x5C3, 0x5C4, 0x5C5, 0x5CB, 0x5D3, 0x5D4, 0x5D5,
   0x800, 0x801, 0x802, 0x803, 0x804, 0x805, 0x806, 0x807, 0x808, 0x809, 0x810, 0x811, 0x812, 0x813, 0x814, 0x815,
   0xCC0, 0xCC1, 0xCC2, 0xCC3, 0xCC4, 0xCC5, 0xCC6]

/-- Those that a load leaves to the slot, or computes (R131). -/
def areaKept : List Nat := [0x5D3, 0x5D4, 0x5D5, 0xCC0, 0xCC2, 0xCC6]

def SlotSt.code : SlotSt → Nat
  | .free => 0 | .pool => 1 | .ready => 2 | .wait => 3 | .call => 4 | .trap => 5 | .out => 6 | .member => 7

def SlotSt.ofArea : Nat → Option SlotSt
  | 2 => some .ready | 3 => some .wait | 4 => some .call | 5 => some .trap | 7 => some .member | _ => none

def Priv.ofCode : Nat → Option Priv
  | 0 => some .u | 1 => some .s | 3 => some .m | _ => none

/-- The cycles left of a thread's wait or return wait. -/
def State.remaining (s : State) (t : Slot) : Nat :=
  let d := match t.st with
    | .call => t.calls.head?.map CallRec.deadline
    | _ => t.wait.bind Wait.deadline
  (d.getD s.cycle - s.cycle) % 2 ^ 40

def zeros (n : Nat) : List Nat := List.replicate n 0

/-- Exactly `n` words, padded with zeros. -/
def padTo (n : Nat) (l : List Nat) : List Nat := (l ++ zeros n).take n

/-- The arrival records (R356). -/
def Slot.arrWords (t : Slot) : List Nat :=
  (List.range 80).map (fun i => match assoc t.arr i with | some g => (g + 1) % 2 ^ 48 | none => 0)

def Slot.kWords (t : Slot) : List Nat :=
  (List.range 4).map (fun i => (t.kr (BitVec.ofNat 3 (2 * i))).toNat + 2 ^ 32 * (t.kr (BitVec.ofNat 3 (2 * i + 1))).toNat)

/-- The 2,048 words of a thread's area, in order of address. -/
def State.areaWords (s : State) (loc : Nat) : List Nat :=
  let t := s.slot loc
  [areaMagic, t.st.code * 2 ^ 56 + t.priv.code * 2 ^ 54 + s.remaining t, t.pc.toNat,
   t.ctx.toNat * 2 ^ 48 + (s.locid loc).toNat, t.ibReserved * 2 ^ 8 + t.inbox.length, t.cbDepth.toNat, 0, 0]
  ++ (t.x.toList.map BitVec.toNat) ++ (t.f.toList.map BitVec.toNat) ++ (t.shadow.toList.map BitVec.toNat)
  ++ (t.h.toList.map BitVec.toNat) ++ t.kWords ++ zeros 28
  ++ padTo 64 (areaCsrs.map (fun a => ((s.csr loc a).getD 0).toNat))
  ++ padTo 32 ((t.inbox.map (fun m => [m.value.toNat, m.hi.toNat])).flatten)
  ++ t.arrWords ++ zeros 16
  ++ (t.cb.toList.map (fun b => elemsOf 64 (packElems 32 (b.toList.map BitVec.toNat)) 32)).flatten
  ++ (t.b.toList.map (fun v => elemsOf 64 v.toNat 16)).flatten ++ (t.o.toList.map (fun v => elemsOf 64 v.toNat 16)).flatten
  ++ (t.v.toList.map (fun v => elemsOf 64 v.toNat 16)).flatten ++ zeros 640

/-- Whether word `i` of an area belongs to a file that is clean in its origin (R373). -/
def Slot.skips (t : Slot) (a : Word) (i : Nat) : Bool :=
  t.origin == some a &&
    ((80 ≤ i && i < 96 && !t.dirty.getLsbD 4) || (96 ≤ i && i < 100 && !t.dirty.getLsbD 3)
      || (320 ≤ i && i < 448 && !t.dirty.getLsbD 5) || (448 ≤ i && i < 512 && !t.dirty.getLsbD 2)
      || (512 ≤ i && i < 640 && !t.dirty.getLsbD 1) || (640 ≤ i && i < 1408 && !t.dirty.getLsbD 0))

/-- Write the words of an area from word `i` on as the issuing thread, but for those that stay. -/
def State.writeArea (s : State) (a : Word) (skip : Nat → Bool) : Nat → List Nat → Go
  | _, [] => .ok s
  | i, w :: ws => do
    let s1 ← if skip i then .ok s else s.storeWaited (a + BitVec.ofNat 64 (8 * i)) 8 w
    s1.writeArea a skip (i + 1) ws

/-- The four pages of an area are checked before any byte is written. -/
def State.areaPages (s : State) (a : Word) : Nat → Go
  | 0 => .ok s
  | n + 1 => do
    let s1 ← s.areaPages a n
    match ptrCheck .store a with
    | some c => s1.raise c a
    | none =>
      let p := a + BitVec.ofNat 64 (4096 * n)
      let r := s1.reach s1.cur .store p 8
      match r.2 with
      | .error c => r.1.raise c p
      | .ok _ => .ok r.1

/-! ### Saving (R373, R374, R389) -/

/-- Whether a saved context must be parked. -/
def Slot.needsPark (t : Slot) : Bool :=
  t.ibReserved != 0 || !t.calls.isEmpty || t.wait.any (fun w => w.kind == .fe)

/-- Cycles of a save and a load, which nothing fixes (log 9). -/
def State.newCost (s : State) (loc : Nat) : State :=
  { (s.modSlot loc (fun t => { t with sc := { t.sc with swcost := (Config.freeWord s.fresh).truncate 32 } })) with
    fresh := s.fresh + 1 }

/-- The slot of a thread that is gone from it: what the supervisor set for the slot stays. Reference stores held at the slice stay
there, and are performed without the thread (R276). -/
def Slot.leaveOut (t : Slot) (loc : Nat) (a : Word) : Slot :=
  { t.freed with
    st := .out, u := t.u,
    parked := if t.needsPark then t.parked ++ [⟨(t.tid loc).1, t.ctx, a⟩] else t.parked }

/-- Save a thread into an area as the issuing thread: OUT, its token withdrawn, parked if it must be. -/
def State.saveTo (s : State) (loc : Nat) (a : Word) : Go := do
  let s1 ← s.areaPages a 4
  let t := s1.slot loc
  let s2 ← s1.writeArea a (t.skips a) 0 (s1.areaWords loc)
  let s3 : State :=
    { s2 with feq := s2.feq.filter (fun q => q.loc != loc),
              away := s2.away ++ [⟨loc, a, { s2.slot loc with resv := none, home := some ((s2.slot loc).tid loc).1 }⟩] }
  .ok ((s3.modSlot loc (fun t => t.leaveOut loc a)).newCost loc)

/-! ### Loading (R372 to R374, R389) -/

/-- A field of `n` bytes of an area. -/
def areaOk (b : Nat) (member : Bool) : Bool :=
  blkAt b 0 8 == areaMagic
  && (match SlotSt.ofArea (blkAt b 0xF 1) with | some .member => member | some _ => true | none => false)
  && (Priv.ofCode (blkAt b 8 8 / 2 ^ 54 % 4)).isSome && blkAt b 8 8 / 2 ^ 40 % 2 ^ 14 == 0
  && blkAt b 0x18 8 / 2 ^ 21 % 2 ^ 27 == 0 && blkAt b 0x20 8 / 2 ^ 13 == 0 && blkAt b 0x20 8 / 2 ^ 5 % 8 == 0
  && blkAt b 0x28 8 / 2 ^ 8 == 0 && blkAt b 0x30 16 == 0 && blkAt b 0x320 224 == 0 && blkAt b 0x530 208 == 0
  && (List.range 80).all (fun i => blkAt b (0x706 + 8 * i) 2 == 0) && blkAt b 0x980 128 == 0 && blkAt b 0x2C00 5120 == 0

/-- The gang that a `gang` word of an area names for the slot it is loaded into (R131, R139). -/
def gangOfWord (loc w : Nat) : Option Gang :=
  if w / 16 % 16 ≤ 1 then none else some ⟨loc - 4 * (w % 8), w % 8, w / 16 % 16⟩

/-- The CSRs that a load restores. -/
def Slot.loadCsrs (t : Slot) (loc b : Nat) : List (Nat × Nat) → Slot
  | [] => t
  | (i, a) :: r =>
    let v := BitVec.ofNat 64 (blkAt b (0x400 + 8 * i) 8)
    let t1 :=
      if areaKept.contains a then t
      else if a == 0xCC1 then { t with u := { t.u with wuid := v.truncate 24 } }
      else if a == 0xCC3 then { t with u := { t.u with profen := v.truncate 48 } }
      else if a == 0xCC4 then { t with gang := gangOfWord loc v.toNat }
      else if a == 0xCC5 then { t with u := { t.u with prio := v.truncate 2 } }
      else t.setCsr a v
    t1.loadCsrs loc b r

/-- The messages of an area. -/
def areaInbox (b : Nat) : List Msg :=
  (List.range (min (blkAt b 0x20 8 % 32) 16)).map (fun i =>
    Msg.ofWords (BitVec.ofNat 64 (blkAt b (0x600 + 16 * i) 8)) (BitVec.ofNat 64 (blkAt b (0x608 + 16 * i) 8)))

def areaArr (b : Nat) : List (Nat × Nat) :=
  ((List.range 80).filter (fun i => blkAt b (0x700 + 8 * i) 8 != 0)).map (fun i => (i, blkAt b (0x700 + 8 * i) 8 - 1))

/-- The registers of an area in a slot. -/
def Slot.loadRegs (t : Slot) (b : Nat) : Slot :=
  { t with
    pc := BitVec.ofNat 64 (blkAt b 0x10 8),
    x := Vector.ofFn (fun i => BitVec.ofNat 64 (blkAt b (0x40 + 8 * i.val) 8)),
    f := Vector.ofFn (fun i => BitVec.ofNat 64 (blkAt b (0x140 + 8 * i.val) 8)),
    shadow := Vector.ofFn (fun i => BitVec.ofNat 64 (blkAt b (0x240 + 8 * i.val) 8)),
    h := Vector.ofFn (fun i => BitVec.ofNat 64 (blkAt b (0x280 + 8 * i.val) 8)),
    k := Vector.ofFn (fun i => BitVec.ofNat 32 (blkAt b (0x300 + 4 * i.val) 4)),
    cb := Vector.ofFn (fun i => Vector.ofFn (fun j => BitVec.ofNat 32 (blkAt b (0xA00 + 256 * i.val + 4 * j.val) 4))),
    b := Vector.ofFn (fun i => BitVec.ofNat _ (blkAt b (0xE00 + 128 * i.val) 128)),
    o := Vector.ofFn (fun i => BitVec.ofNat _ (blkAt b (0x1000 + 128 * i.val) 128)),
    v := Vector.ofFn (fun i => BitVec.ofNat _ (blkAt b (0x1400 + 128 * i.val) 128)) }

/-- The wait of a loaded thread goes on with the recorded count: what it waits for is what the device kept (R125). -/
def Slot.resumeWait (t : Slot) (cycle left : Nat) : Slot :=
  match t.st with
  | .call =>
    match t.calls with
    | c :: r => { t with wait := none, calls := { c with deadline := cycle + left } :: r }
    | [] => { t with wait := none, calls := [⟨t.pc, t.xr 2, 0, 0, 0, cycle + left⟩] }
  | .wait =>
    match t.wait with
    | some w => { t with wait := some { w with deadline := w.deadline.map (fun _ => cycle + left) } }
    | none => { t with wait := some ⟨.loaded, some (cycle + left), 0, {}, none, none⟩ }
  | _ => { t with wait := t.wait.map (fun w => { w with deadline := w.deadline.map (fun _ => cycle + left) }) }

/-- The rewrites of h registers that a thread has still to see are made (R275). -/
def Slot.renewAll (t : Slot) : Slot := { t.moves.foldl Slot.renew t with moves := [] }

/-- A slot with the context of an area in it: `base` is what the device kept of the thread, `home` its home. -/
def Slot.loaded (slot base : Slot) (loc home : Nat) (a : Word) (b cycle : Nat) : Slot :=
  let t := { base with
    st := (SlotSt.ofArea (blkAt b 0xF 1)).getD .ready, priv := (Priv.ofCode (blkAt b 8 8 / 2 ^ 54 % 4)).getD .u,
    ctx := BitVec.ofNat 16 (blkAt b 0x1E 2), home := if home == loc then none else some home, cbDepth := BitVec.ofNat 8 (blkAt b 0x28 1), inbox := areaInbox b,
    ibReserved := blkAt b 0x21 1 % 32, arr := areaArr b, trapRec := none, dirty := 0, origin := some a, quantumUsed := 0,
    issWait := 0, aged := false, resv := none,
    sc := { base.sc with swcost := slot.sc.swcost, thsave := slot.sc.thsave, thnext := slot.sc.thnext },
    rv := slot.rv, ctxCounter := slot.ctxCounter, parked := slot.parked }
  ((((t.loadRegs b).loadCsrs loc b ((List.range 38).zip areaCsrs)).renewAll).startQuantum).resumeWait cycle
    (blkAt b 8 8 % 2 ^ 40)

/-- What the device keeps of the context that an area holds: by the location and the number recorded there, and, of two contexts saved
at one location under one number, by the area. -/
def State.awayAt (s : State) (a : Word) (b : Nat) : Option Away :=
  let mine (w : Away) : Bool := w.loc == blkAt b 0x18 4 % 4096 && w.slot.ctx == BitVec.ofNat 16 (blkAt b 0x1E 2)
  (s.away.find? (fun w => mine w && w.area == a)).orElse (fun _ => s.away.find? mine)

/-- Load an area into a slot: the thread keeps its identity, and messages not yet appended come to it there (R374). The quantum that
starts is by the new `swcost` (R375). -/
def State.loadFrom (s0 : State) (loc : Nat) (a : Word) (b : Nat) : State :=
  let s := s0.newCost loc
  let ctx := BitVec.ofNat 16 (blkAt b 0x1E 2)
  let was := blkAt b 0x18 4 % 4096
  let kept := s.awayAt a b
  let base := (kept.map Away.slot).getD (s.slot loc).freed
  let home := (kept.map (fun w => (w.slot.tid w.loc).1)).getD was
  let s1 := s.modSlot loc (fun t => t.loaded base loc home a b s.cycle)
  let back (m : Nat × BitVec 16 × Msg) : Bool := m.1 == home && m.2.1 == ctx
  let s2 : State :=
    { s1 with away := dropFirst (fun w => some w == kept) s1.away,
              parkedMsgs := s1.parkedMsgs.filter (fun m => !back m),
              arrivals := s1.parkedMsgs.filter back ++ s1.arrivals }
  let s3 := s2.modSlot was (fun t => { t with parked := t.parked.filter (fun p => (p.home, p.ctx) != (home, ctx)) })
  s3.modCore (coreOf loc) (fun c => { c with plb := c.plb.filter (fun e => e.slot != loc % 4) })

/-! ### The words of R388 -/

/-- A word of R388, for the xtval of a user-mode attempt. -/
def privWord (f7 : Nat) (rd rs1 rs2 : BitVec 5) : Word :=
  BitVec.ofNat 64 (f7 * 2 ^ 25 + rs2.toNat * 2 ^ 20 + rs1.toNat * 2 ^ 15 + 2 * 2 ^ 12 + rd.toNat * 2 ^ 7 + 0x2B)

/-- The words of R388 raise PRIVILEGE_VIOLATION in user mode (R70). -/
def State.privileged (s : State) (f7 : Nat) (rd rs1 rs2 : BitVec 5) (k : State → Go) : Res :=
  Go.done (if s.me.priv == .u then s.raise causePrivilege (privWord f7 rd rs1 rs2) else k s)

/-- The slot that a location number names on the issuing core, not the issuing one, with an aligned area. -/
def State.otherSlot (s : State) (a l : Word) : Option Nat :=
  let n := l.toNat % 2 ^ 21
  if n / 4 != (s.locid s.cur).toNat / 4 || n == (s.locid s.cur).toNat || a.toNat % 4096 != 0 then none
  else some (n % 4096)

def execCtxSave (rd rs1 rs2 : BitVec 5) (s : State) : Res :=
  s.privileged 0 rd rs1 rs2 (fun s =>
    match s.otherSlot (s.x rs1) (s.x rs2) with
    | none => .ok (s.finish rd .range 4)
    | some l => do
      let t0 := s.slot l
      if !(t0.st == .ready || t0.st == .wait || t0.st == .call || t0.st == .trap) then .ok (s.finish rd .range 4)
      else
        let s1 := (s.drain l).settleFar l
        let t := s1.slot l
        if t.gang.isSome || !t.held.isEmpty || (t.needsPark && 4 ≤ t.parked.length) then .ok (s1.finish rd .refused 4)
        else if s1.farPending l then .error (s1.waitOpen .remote)
        else
          let s2 ← s1.saveTo l (s.x rs1)
          .ok (s2.finish rd .ok 4))

def execCtxLoad (rd rs1 rs2 : BitVec 5) (s : State) : Res :=
  s.privileged 1 rd rs1 rs2 (fun s =>
    match s.otherSlot (s.x rs1) (s.x rs2) with
    | none => .ok (s.finish rd .range 4)
    | some l => do
      if !((s.slot l).st == .free || (s.slot l).st == .out) then .ok (s.finish rd .range 4)
      else
        let (s1, b) ← s.loadBlock (s.x rs1) 2048
        if !areaOk b false then .ok (s1.finish rd .refused 4)
        else .ok ((s1.loadFrom l (s.x rs1) b).finish rd .ok 4))

/-! ### Quanta (R375) -/

/-- Read and check the incoming areas of some slots, each as its own thread. -/
def State.incoming (s : State) : List Nat → Except State (State × List Nat)
  | [] => .ok (s, [])
  | l :: ls => do
    let s1 : State := { s with cur := l }
    let a := (s1.slot l).sc.thnext
    let (s2, b) ← s1.loadBlock (maskW a 63 12) 2048
    if !areaOk b true then .error (s2.trap l { cause := 55, tval := maskW a 63 12 })
    else
      let s3 ← s2.areaPages (maskW (s2.slot l).sc.thsave 63 12) 4
      let (s4, bs) ← s3.incoming ls
      .ok (s4, b :: bs)

/-- Save and load some slots, each between its own areas; `thsave` and `thnext` change places. -/
def State.switchSlots (s : State) : List (Nat × Nat) → Go
  | [] => .ok s
  | (l, b) :: r => do
    let t := s.slot l
    let old := maskW t.sc.thsave 63 12
    let new := maskW t.sc.thnext 63 12
    let s1 ← ({ s with cur := l } : State).saveTo l old
    let s2 := (s1.loadFrom l new b).modSlot l (fun u => { u with sc := { u.sc with thsave := new, thnext := old } })
    s2.switchSlots r

/-- A hardware switch of a thread or of its whole gang. -/
def State.hardSwitch (s : State) (loc : Nat) : Go := do
  let ls := s.fellows loc
  let (s1, bs) ← s.incoming ls
  let s2 ← s1.switchSlots (ls.zip bs)
  .ok { s2 with cur := loc }

def State.restartQuantum (s : State) (ls : List Nat) : State :=
  ls.foldl (fun u l => u.modSlot l Slot.startQuantum) s

/-- Whether the handler of DEFERRED_STORE_FAULT runs on a thread or its gang: its return issues the held stores again (R260), and a
quantum's end raises the trap no second time in it (log 55). -/
def State.servesHeld (s : State) (loc : Nat) : Bool :=
  (s.lead loc).st == .trap && (s.slot loc).trapRec.any (fun r => r.cause.toNat == causeDeferred)

/-- A thread's quantum has run out at an instruction boundary; that of one member ends it for the whole gang. Stores to other
packages are answered first. -/
def execQuantumExpiry (s : State) : Res :=
  let loc := s.cur
  let ls := s.fellows loc
  let s0 := ls.foldl (fun u l => (u.drain l).settleFar l) s
  let t := s0.me
  if !(bitW t.sc.quantum 63 && t.quantumEff ≤ t.quantumUsed && t.occupied) then .next s
  else if ls.any (fun l => !(s0.slot l).held.isEmpty) then
    if s0.servesHeld loc then .next s0
    else .next (s0.raiseDeferred ((ls.find? (fun l => !(s0.slot l).held.isEmpty)).getD loc))
  else if ls.any s0.farPending then .next s0
  else if bitW t.sc.quantum 61 then
    if s0.interruptible loc 17 then .next ((s0.restartQuantum ls).interrupt loc 17 0) else .next s0
  else if ls.any (fun l => maskW (s0.slot l).sc.thnext 63 12 == 0
      || ((s0.slot l).needsPark && 4 ≤ (s0.slot l).parked.length)) then .next (s0.restartQuantum ls)
  else Go.done (s0.hardSwitch (s0.leaderOf loc))

/-! ### Messages of parked contexts (R374) -/

/-- Append a message to an area's inbox, as one update. -/
def State.appendMsg (s : State) (v : View) (ag : Agent) (a : Word) (m : Msg) : Except Nat State := do
  let (s1, c) ← s.engRead v (a + 0x20) 8
  let n := c % 32
  let held := c / 2 ^ 8 % 32
  let s2 ← s1.engWrite v ag (a + BitVec.ofNat 64 (0x600 + 16 * n)) 8 m.value.toNat
  let s3 ← s2.engWrite v ag (a + BitVec.ofNat 64 (0x608 + 16 * n)) 8 m.hi.toNat
  s3.engWrite v ag (a + 0x20) 8 (n + 1 + (held - 1) * 2 ^ 8)

/-- The oldest message for a parked context of location `cur` is appended to its area. -/
def execParkedMessageAppend (s : State) : Res :=
  let here (a : Nat × BitVec 16 × Msg) : Bool := s.mailAt (a.1, a.2.1) == s.cur
  match s.parkedMsgs.find? here with
  | none => .next s
  | some (home, ctx, m) =>
    match s.me.parked.find? (fun p => (p.home, p.ctx) == (home, ctx)), s.awayOf (home, ctx) with
    | some p, some w =>
      let v : View := { s.engineView s.cur (home, ctx) w.slot.sc.pdrights with plb := none }
      match s.appendMsg v (s.agentFor s.cur (home, ctx)) p.area { m with seq := w.slot.ibSeq } with
      | .ok s1 =>
        .next { s1 with
          parkedMsgs := dropFirst here s1.parkedMsgs,
          away := s1.away.map (fun x => if x.slot.tid x.loc == (home, ctx) then
            { x with slot := { x.slot with ibSeq := x.slot.ibSeq + 1, uiFresh := x.slot.uiFresh + 1 } } else x) }
      | .error _ => .next s
    | _, _ => .next s

/-! ### Invalidation (R249, R390) -/

/-- Whether an invalidation covers a PLB entry. -/
def Inv.covers (i : Inv) (e : Plb) : Bool :=
  match i.target with
  | 0 => e.page ≤ i.addr.toNat && i.addr.toNat < e.page + 2 ^ (12 + 2 * e.size)
  | 1 => e.domain == i.addr.toNat % 4096
  | _ => true

/-- The page that holds an address, by its first byte and size code: as a PLB or the tables have it, or, when neither does any more, the
largest that it could be in. -/
def State.pageOf (s : State) (va : Nat) : Nat × Nat :=
  let at' (e : Plb) : Bool := e.page ≤ va && va < e.page + 2 ^ (12 + 2 * e.size)
  match s.cores.findSome? (fun c => c.2.plb.find? at') with
  | some e => (e.page, e.size)
  | none =>
    match s.walk 0 va with
    | .ok p => (p.2.page, p.2.size)
    | .error _ => (va / 2 ^ 42 * 2 ^ 42, 15)

/-- Every PLB, every reply on its way to one, and the page's lines where the word asks for it. -/
def State.invalidate (s0 : State) (i : Inv) : State :=
  let s := s0.forgetReplies (fun _ e => i.covers e)
  let page := s0.pageOf i.addr.toNat
  let inPage (line : Nat) : Bool := page.1 ≤ 64 * line && 64 * line < page.1 + 2 ^ (12 + 2 * page.2)
  { s with cores := s.cores.map (fun c => (c.1, { c.2 with
      plb := c.2.plb.filter (fun e => !i.covers e),
      icache := if i.flush then c.2.icache.filter (fun l => !inPage l.1) else c.2.icache })) }

def execPlbInv (rd rs1 rs2 : BitVec 5) (s : State) : Res :=
  s.privileged 2 rd rs1 rs2 (fun s => do
    let m := (s.x rs2).toNat
    let exp : Expiry := { xs := [(rd, Status.timeout.word)] }
    if s.waiting .plbInv then
      if s.invs.any (fun i => i.who == some s.tid) then .ok (s.waitFor .plbInv s.waitlim exp) else .ok (s.finish rd .ok 4)
    else
      let s0 ← s.syncGate
      if m % 4 == 3 || 16 ≤ m || (bitOf m 3 && m % 4 != 0) then .ok (s0.finish rd .range 4)
      else
        let s1 ← s0.release .pkg
        let i : Inv := ⟨some s.tid, m % 4, bitOf m 3, s.x rs1⟩
        .ok (({ s1 with invs := s1.invs ++ [i] } : State).waitFor .plbInv s1.waitlim exp))

/-- The oldest invalidation is acknowledged everywhere: the work is done, and its `plb.inv` ends if it still waits. -/
def execPlbInvComplete (s : State) : Res :=
  match s.invs with
  | [] => .next s
  | i :: r =>
    let s1 := ({ s with invs := r } : State).invalidate i
    match i.who.bind s1.locOf with
    | none => .next s1
    | some l =>
      match (s1.slot l).wait with
      | some w =>
        if w.kind == .plbInv then .next (s1.expire l { w.exp with xs := w.exp.xs.map (fun p => (p.1, Status.ok.word)) })
        else .next s1
      | none => .next s1

/-! ### Trap records (R370, R378, R393) -/

/-- The 32 words of a thread trap record. -/
def TrapRec.words (r : TrapRec) : List Nat :=
  [r.amo.toNat * 2 ^ 24 + r.elem.toNat * 2 ^ 16 + r.member.toNat * 2 ^ 8 + r.cause.toNat, r.pc.toNat, r.tval.toNat,
   r.frame.toNat, r.held.length, r.tick.toNat, 0, 0]
  ++ padTo 24 ((r.held.map (fun h => [h.addr.toNat, h.cause % 2 ^ 8 * 2 ^ 8 + h.width % 16, h.data.toNat])).flatten)

def TokCls.code : TokCls → Nat
  | .scalar => 0 | .vector => 1 | .control => 2

/-- Where a token stands (R380). -/
structure TokAt where
  place : Nat
  port : Nat
  row : Nat
  col : Nat
  ctx : Nat
  fs : Nat
  node : Nat
  pos : Nat
  deriving DecidableEq, Repr

/-- The 12 words of a token record. -/
def Token.words (t : Token) (a : TokAt) : List Nat :=
  [t.cls.code * 2 ^ 62 + a.place * 2 ^ 56 + a.port * 2 ^ 48 + a.row * 2 ^ 40 + a.col * 2 ^ 32 + a.ctx * 2 ^ 30
     + a.fs * 2 ^ 28 + a.node * 2 ^ 16 + a.pos,
   t.mask.toNat * 2 ^ 48 + t.tag.toNat * 2 ^ 32] ++ elemsOf 64 t.data.toNat 8 ++ [0, 0]

/-- The record of a port without a head. -/
def noToken (port : Nat) : List Nat := [0x3F * 2 ^ 56 + port * 2 ^ 48] ++ zeros 11

/-- The 152 words of a fabric trap record. -/
def FTrap.words (r : FTrap) : List Nat :=
  let n := r.site.2.1
  let fs := r.site.2.2
  [r.col * 2 ^ 48 + r.row * 2 ^ 40 + n * 2 ^ 28 + r.ctx * 2 ^ 26 + fs * 2 ^ 24 + r.site.1 * 2 ^ 16 + r.status.toNat * 2 ^ 8
     + r.cause.toNat, r.va.toNat, r.ord % 2 ^ 12 * 2 ^ 8 + r.wave % 2 ^ 8, r.frame.toNat] ++ elemsOf 64 r.word.toNat 2
  ++ [r.tick.toNat, r.hash.toNat, r.unord.length]
  ++ elemsOf 64 (packElems 32 (padTo 16 (r.unord.map (fun u => u.1.toNat * 2 ^ 31 + u.2 % 2 ^ 12)))) 8 ++ zeros 15
  ++ ((List.range 10).map (fun q =>
      match (r.heads[q]?).bind (fun t => t) with
      | some t => t.words ⟨0, q, r.row, r.col, r.ctx, fs, n, 0⟩
      | none => noToken q)).flatten

/-- The record that `trap.rec` names. A region that was scanned out keeps its record until its place is loaded again. -/
def State.record (s : State) (sel : Nat) : Option (List Nat) :=
  if sel / 2 ^ 62 == 0 then s.me.trapRec.map TrapRec.words
  else
    match s.regions.find? (fun r => r.num == sel % 128) with
    | some r => r.trap.map FTrap.words
    | none => ((s.scanned.find? (fun r => r.num == sel % 128)).bind Region.trap).map FTrap.words

def execTrapRec (rd rs1 rs2 : BitVec 5) (s : State) : Res :=
  s.privileged 5 rd rs1 rs2 (fun s => do
    let sel := (s.x rs2).toNat
    let a := s.x rs1
    if a.toNat % 64 != 0 || 2 ≤ sel / 2 ^ 62 || sel % 2 ^ 62 / (if sel / 2 ^ 62 == 1 then 128 else 1) != 0 then
      .ok (s.finish rd .range 4)
    else
      match s.record sel with
      | none => .ok (s.finish rd .empty 4)
      | some ws => do
        let s1 ← s.writeArea a (fun _ => false) 0 ws
        .ok (s1.finish rd .ok 4))

/-! ### Posted stores and replicas (R246, R248, R259, R260) -/

/-- The home slice walks for posted store `sub` of the thread, under the rights table it was posted with. -/
def execProtectionRequest (s : State) : Res :=
  match s.me.posted[s.sub]? with
  | none => .next s
  | some p =>
    if p.isFar || p.reply.isSome then .next s
    else
      let r : Reply := match s.lookup { s.viewOf s.cur with rights := p.rights } p.addr.toNat with
        | .ok e => .entry { e with slot := s.cur % 4 }
        | .error e => .fail (e.cause .store)
      .next (s.modMe (fun t => { t with posted := t.posted.set s.sub { p with reply := some r } }))

/-- The thread without a posted store. -/
def State.unpost (s : State) (p : Posted) : State := s.modMe (fun t => { t with posted := t.posted.filter (fun q => q.seq != p.seq) })

/-- The reply to the oldest posted store: the entry fills the PLB and the store is performed, or it is held; stores to
other packages that have been answered are acknowledged or held. -/
def execProtectionReply (s : State) : Res :=
  let t := s.settleFar s.cur
  if t.me.posted.length < s.me.posted.length then .next t
  else
    match s.me.posted.find? (fun p => !p.isFar) with
    | none => .next s
    | some p =>
      match p.reply with
      | none => .next s
      | some (.entry e) =>
        let s1 := if p.rights != s.me.sc.pdrights || (s.core (coreOf s.cur)).plb.any (·.covers (s.cur % 4) p.addr.toNat) then s else s.plbFill (coreOf s.cur) e
        .next ((s1.unpost p).servePosted s.cur p)
      | some (.fail _) => .next ((s.unpost p).servePosted s.cur p)

/-- A store to another package that has no answer in time becomes a held store, in the entry that it has had since it was posted
(R246, R260). -/
def execRemoteTimeout (s : State) : Res :=
  let late (p : Posted) : Bool := p.far.any (fun f => f.2 ≤ s.cycle && (s.replyOf f.1).isNone)
  match s.me.posted.find? late with
  | none => .next s
  | some p =>
    .next ((s.unpost p).hold s.cur p.addr p.width p.data causeRemote p.seq)

/-- A replicated page becomes an ordinary one (R259). -/
def execReplicaCollapse (va : Word) (s : State) : Res := .next (s.collapse (dieOf s.cur) va.toNat)

end Sys2Proof.Machine
end

