-- ==== Sys2Proof/Machine/Image.lean ====
section
/-! DEFINITION. The image of a region (R380): its records written from a region, and read back onto one (R381). The manual gives the
56 bytes of a node's state no layout: the one here is the model's (DESIGN CHOICE, log 58). -/

namespace Sys2Proof.Machine

def imageMagic : Nat := 0x534B524900000001

/-! ### Records written -/

/-- A register record: 48 words. -/
def EReg.words (e : EReg) (ctx0 : Nat) : List Nat :=
  [(e.phase - ctx0) % 4 * 2 ^ 22 + e.fs * 2 ^ 20 + e.p.toNat * 2 ^ 12 + e.node] ++ e.g.toList.map BitVec.toNat
    ++ (e.gv.toList.map (fun v => elemsOf 64 v.toNat 8)).flatten ++ zeros 7

/-- The tokens of a channel list with their positions. -/
def positions : List (Nat × Nat × Token) → List (Nat × Nat × Token) → List (Nat × Nat × Token × Nat)
  | _, [] => []
  | seen, e :: r =>
    (e.1, e.2.1, e.2.2, seen.countP (fun x => x.1 == e.1 && x.2.1 == e.2.1 && tagFs x.2.2.tag == tagFs e.2.2.tag))
      :: positions (seen ++ [e]) r

/-- The place of a node in a region. -/
def Region.at1 (r : Region) (place node port fs pos : Nat) : TokAt :=
  let n := r.node? node
  { place := place, port := port, row := (n.map NodeRec.row).getD 0, col := (n.map NodeRec.col).getD 0,
    ctx := (n.map (fun m => r.phase m fs)).getD 0 % 4, fs := fs, node := node, pos := pos }

/-- A token in a node's own entries: the place code of R380, port and position. Carries of a loop and arguments of a call stand in no
place that the manual lists. -/
structure Entry where
  place : Nat
  port : Nat
  pos : Nat
  tok : Token
  deriving DecidableEq, Repr

/-- The tokens that a node's state holds. -/
def NSt.entries : NSt → List Entry
  | .collect _ parked => parked.zipIdx.map (fun p => ⟨1, p.1.1, p.2, p.1.2⟩)
  | .dsq pipe => pipe.zipIdx.flatMap (fun p => [⟨2, 4, p.2, p.1.1⟩, ⟨2, 5, p.2, p.1.2⟩])
  | .loop l => l.carries.map (fun c => ⟨0x3F, carryPort c.1, c.2.1 - l.oldest, c.2.2⟩)
  | .call _ _ _ _ args _ _ => args.map (fun a => ⟨0x3F, a.1, 0, a.2⟩)
  | _ => []

/-- The token records of a region: 12 words each. -/
def Region.tokenWords (r : Region) : List (List Nat) :=
  (positions [] r.chan).map (fun e => e.2.2.1.words (r.at1 0 e.1 e.2.1 (tagFs e.2.2.1.tag) e.2.2.2))
  ++ r.nsts.flatMap (fun n => n.st.entries.map (fun e => e.tok.words (r.at1 e.place n.node e.port n.fs e.pos)))

/-- The state words of a loop walk: the iterations, done counts of 8 bits from the oldest iteration on, exit tokens of 2 bits with
the squashed count and three flags, the walk count, the first iteration. -/
def LoopSt.words (l : LoopSt) : List Nat :=
  let its := (List.range 16).map (l.oldest + ·)
  let exits := packElems 2 (its.map (fun i => (l.exits.contains (i, false)).toNat + 2 * (l.exits.contains (i, true)).toNat))
  [l.next, l.oldest] ++ elemsOf 64 (packElems 8 (its.map (fun i => min 255 ((assoc l.dones i).getD 0)))) 2
    ++ [exits + l.squashed % 2 ^ 16 * 2 ^ 32 + (l.active.toNat + 2 * l.opened.toNat + 4 * l.exitAt.isSome.toNat) * 2 ^ 56,
        l.walks, l.first]

/-- The seven state words of a node's record. -/
def NSt.words : NSt → List Nat
  | .stream active opened idx off count bad tag =>
    elemsOf 64 (packElems 32 (padTo 4 idx)) 2 ++ [wrap 64 off, active.toNat + 2 * opened.toNat + 4 * bad.toNat
      + tag.toNat * 2 ^ 8 + count % 2 ^ 32 * 2 ^ 32, 0, 0, 0]
  | .loop l => l.words
  | .collect expected _ => expected :: zeros 6
  | .ring idx stopped _ => (idx % 2 ^ 32 + stopped.toNat * 2 ^ 32) :: zeros 6
  | .sink last => last :: zeros 6
  | .call out entered tag fr _ _ _ => [out.toNat + 2 * entered.toNat + tag.toNat * 2 ^ 8, fr.toNat] ++ zeros 5
  | _ => zeros 7

/-- The code of the order number last performed in an open wave: 0 for none, 0xFFF once the wave has closed. -/
def WaveSt.code (w : WaveSt) : Nat := if w.closed then 0xFFF else ((w.done.getLast?).map Prod.fst).getD 0

/-- The state words of a frame's memory interface: the oldest open wave, then 12 bits for each of 16 waves. -/
def Region.waveWords (r : Region) (fs : Nat) : List Nat :=
  let b := (r.fslot fs).wave
  b :: elemsOf 64 (packElems 12 ((List.range 16).map (fun i => (r.waveSt fs (b + i)).code))) 3 ++ zeros 3

/-- Whether the image has a node-state record for a kind. -/
def hasNodeState (kind : Nat) : Bool := [1, 4, 5, 9, 11, 12, 13].contains kind

/-- The first word of a node-state record. -/
def stateHead (kind fs id : Nat) : Nat := kind * 2 ^ 16 + fs * 2 ^ 12 + id

/-- The node-state records of a region: 8 words each; a frame's memory interface comes after its nodes. -/
def Region.stateWords (r : Region) : List (List Nat) :=
  r.live.flatMap (fun fs =>
    (r.nodes.filter (fun n => hasNodeState n.kind)).map (fun n => stateHead n.kind fs n.id :: (r.nst n.id fs).words)
      ++ [stateHead 0xFF fs 0 :: r.waveWords fs])

/-- The code of a held request: 0 speculative, a held store or a held fault of a load (R193, R196); 1 behind a fault or waiting its
turn; 2 faulting. -/
def Region.reqCode (r : Region) (q : MReq) : Nat :=
  if q.st == .faulting then 2
  else if q.st == .speculative || ((q.stores || q.rmws) && r.speculative q.node q.fs (tagSeq q.tag)) then 0
  else 1

/-- A request record: 16 words. -/
def MReq.words (q : MReq) (code : Nat) : List Nat :=
  [code * 2 ^ 56 + q.op * 2 ^ 48 + q.ord % 2 ^ 12 * 2 ^ 36 + q.node * 2 ^ 24 + q.wave % 2 ^ 8 * 2 ^ 16 + q.fs * 2 ^ 14,
   q.addr.toNat % 2 ^ 64, q.mask.toNat * 2 ^ 48 + q.width % 16, 0] ++ elemsOf 64 q.data.toNat 8 ++ zeros 4

/-- The held `mem` requests of a region. -/
def Region.heldReqs (r : Region) : List MReq := r.reqs.filter (fun q => q.op < 16)

/-- The register records of a region's live frames. -/
def Region.regWords (r : Region) : List (List Nat) :=
  (r.eregs.filter (fun e => (r.fslot e.fs).st != .free)).map (fun e =>
    e.words (((r.node? e.node).map NodeRec.ctx0).getD 0))

def FSt.code : FSt → Nat
  | .free => 0 | .running => 1 | .suspended => 2 | .ending => 3
def FSt.ofCode (c : Nat) : FSt := if c == 1 then .running else if c == 2 then .suspended else if c == 3 then .ending else .free

/-- The sizes of the four parts of an image in records. -/
def Region.imageCounts (r : Region) : Nat × Nat × Nat × Nat :=
  (r.regWords.length, r.tokenWords.length, r.stateWords.length, r.heldReqs.length)

/-- The offsets of tokens, node states and requests, and the total size. -/
def imageOffsets (c : Nat × Nat × Nat × Nat) : Nat × Nat × Nat × Nat :=
  let t := 0x100 + 384 * c.1
  let n := t + 96 * c.2.1
  let q := n + 64 * c.2.2.1
  (t, n, q, q + 128 * c.2.2.2)

def Region.imageSize (r : Region) : Nat := (imageOffsets r.imageCounts).2.2.2

/-- The words of an image. Only a page fault freezes a region (R379): its cause is the one that 0x48 names. -/
def Region.imageWords (r : Region) : List Nat :=
  let c := r.imageCounts
  let o := imageOffsets c
  let states := ((List.range 4).map (fun j => (r.fslot j).st.code * 2 ^ (32 + 8 * j))).foldl (· + ·) 0
  [imageMagic, r.hash.toNat, r.desc.toNat, r.sig.toNat, r.num + r.fold * 2 ^ 8 + r.rows * 2 ^ 16 + r.cols * 2 ^ 24 + states]
  ++ (List.range 4).map (fun j => (r.fslot j).act.toNat)
  ++ [r.boundary.isSome.toNat, c.1 + c.2.1 * 2 ^ 32, c.2.2.1 + c.2.2.2 * 2 ^ 32, o.1, o.2.1, o.2.2.1, o.2.2.2] ++ zeros 16
  ++ r.regWords.flatten ++ r.tokenWords.flatten ++ r.stateWords.flatten
  ++ (r.heldReqs.map (fun q => q.words (r.reqCode q))).flatten

/-! ### Records read back -/

/-- Words of a record in an image. -/
def wordsAt (b : List Byte) (off n : Nat) : List Nat := (List.range n).map (fun i => bytesAt b (off + 8 * i) 8)

/-- A register record read back onto a register set. -/
def EReg.ofWords (e : EReg) (ctx0 : Nat) (w : List Nat) : EReg :=
  let h := w.getD 0 0
  { e with
    phase := ctx0 + field h 22 2, p := BitVec.ofNat 8 (field h 12 8),
    g := Vector.ofFn (fun i => BitVec.ofNat 64 (w.getD (1 + i.val) 0)),
    gv := Vector.ofFn (fun i => BitVec.ofNat _ (packElems 64 ((w.drop (9 + 8 * i.val)).take 8))) }

/-- The class of a code. -/
def TokCls.ofCode (c : Nat) : TokCls := if c == 0 then .scalar else if c == 1 then .vector else .control

/-- A token record: its node, and the token with its place. -/
def tokenOf (w : List Nat) : Nat × Entry :=
  let h := w.getD 0 0
  let k := w.getD 1 0
  (field h 16 12,
   { place := field h 56 6, port := field h 48 8, pos := field h 0 16,
     tok := { cls := TokCls.ofCode (field h 62 2), data := BitVec.ofNat _ (packElems 64 ((w.drop 2).take 8)),
              mask := BitVec.ofNat 16 (field k 48 16), tag := BitVec.ofNat 15 (field k 32 15) } })

/-- A loop walk read back: its state words and the carries it keeps. -/
def LoopSt.ofWords (w : List Nat) (es : List Entry) (ports : List Nat) : LoopSt :=
  let at1 (i : Nat) : Nat := w.getD i 0
  let oldest := at1 1
  let its := (List.range (min 16 (at1 0 - oldest)))
  let done (i : Nat) : Nat := elemOf 8 (at1 2 + 2 ^ 64 * at1 3) i
  { active := bitOf (at1 4) 56, opened := bitOf (at1 4) 57, next := at1 0, oldest := oldest, first := at1 6,
    dones := (its.filter (fun i => done i != 0)).map (fun i => (oldest + i, done i)),
    exits := its.flatMap (fun i => (if bitOf (at1 4) (2 * i) then [(oldest + i, false)] else [])
      ++ (if bitOf (at1 4) (2 * i + 1) then [(oldest + i, true)] else [])),
    carries := es.filterMap (fun e => (ports.find? (fun j => carryPort j == e.port)).map (fun j => (j, oldest + e.pos, e.tok))),
    exitAt := if bitOf (at1 4) 58 then some (at1 0 - 1) else none, squashed := field (at1 4) 32 16, walks := at1 5 }

/-- The entry of a list at a port and a position. -/
def entryTok (es : List Entry) (port pos : Nat) : Option Token :=
  (es.find? (fun e => e.port == port && e.pos == pos)).map Entry.tok

/-- A node's state read back from its state words and its entries. `old` has what an image does not hold: a return that came after
the scan-out, a `frame` node's own state. -/
def NSt.ofWords (n : NodeRec) (w : List Nat) (es : List Entry) (old : NSt) : NSt :=
  let at1 (i : Nat) : Nat := w.getD i 0
  match n.kind, old with
  | 1, _ =>
    let active := bitOf (at1 3) 0
    .stream active (bitOf (at1 3) 1) (if active then (elemsOf 32 (at1 0 + 2 ^ 64 * at1 1) 4).take n.strLevels else []) (sval 64 (at1 2))
      (field (at1 3) 32 32) (bitOf (at1 3) 2) (BitVec.ofNat 15 (field (at1 3) 8 15))
  | 4, _ => .loop (LoopSt.ofWords w es n.loopCarries)
  | 5, _ => .collect (at1 0) (es.map (fun e => (e.port, e.tok)))
  | 8, _ => .dsq ((List.range es.length).filterMap (fun i =>
      match entryTok es 4 i, entryTok es 5 i with | some a, some b => some (a, b) | _, _ => Option.none))
  | 9, .call _ _ _ _ _ ret since =>
    .call (bitOf (at1 0) 0) (bitOf (at1 0) 1) (BitVec.ofNat 15 (field (at1 0) 8 15)) (BitVec.ofNat 64 (at1 1))
      (es.map (fun e => (e.port, e.tok))) ret since
  | 11, .ring _ _ since | 12, .ring _ _ since => .ring (field (at1 0) 0 32) (bitOf (at1 0) 32) since
  | 13, _ => .sink (at1 0)
  | _, x => x

/-- The successor number of the node that has an order number. -/
def Region.succOf (r : Region) (m : Nat) : Nat :=
  ((r.nodes.findSome? (fun n =>
    if n.kind == 2 && !n.unord && n.memOrder == m then some n.memSucc
    else if n.kind == 3 && n.joinOrder == m then some n.joinSucc else none))).getD 0xFFF

/-- A frame's open waves read back; the unordered requests performed are those that the device keeps. -/
def Region.wavesOf (r : Region) (fs : Nat) (w : List Nat) : List WaveSt :=
  let b := w.getD 0 0
  let v := w.getD 1 0 + 2 ^ 64 * w.getD 2 0 + 2 ^ 128 * w.getD 3 0
  (List.range 16).filterMap (fun i =>
    let m := elemOf 12 v i
    let old := r.waveSt fs (b + i)
    if m == 0 && old.udone.isEmpty then none
    else some { fs := fs, wave := b + i, udone := old.udone, closed := m == 0xFFF,
                done := if m == 0 || m == 0xFFF then [] else [(m, r.succOf m)] })

/-- A request record read back: onto the request that the device keeps, or by its node's parameters alone. -/
def Region.reqOf (r : Region) (w : List Nat) : MReq :=
  let h := w.getD 0 0
  let n := r.node? (field h 24 12)
  let fs := field h 14 2
  let ord := field h 36 12
  let seq := field h 16 8
  let par (f : NodeRec → Nat) : Nat := (n.map f).getD 0
  let wave := if ord == 0 then (r.fslot fs).nearWave seq else (r.fslot fs).extWave seq
  let vec := n.any NodeRec.memVec
  let bare : MReq :=
    { node := field h 24 12, fs := fs, wave := wave, ord := ord, pred := par NodeRec.memPred, succ := par NodeRec.memSucc,
      ordered := !(n.any NodeRec.unord), op := field h 48 8, addr := 0, data := 0, mask := 0, vec := vec, width := 0,
      tag := mkTag 0 false seq fs, st := .waiting, val := 0, err := false, bad := none }
  let q := (r.heldReqs.find? (fun q => q.node == bare.node && q.fs == fs && q.ord == ord && q.wave % 256 == seq
    && q.op == bare.op)).getD bare
  let code := field h 56 8
  { q with
    st := if code != 0 then .waiting else if q.loads then .speculative else .waiting,
    addr := if q.indexed && q.vec then q.addr else BitVec.ofNat _ (w.getD 1 0), mask := BitVec.ofNat 16 (field (w.getD 2 0) 48 16),
    width := field (w.getD 2 0) 0 4, data := BitVec.ofNat _ (packElems 64 ((w.drop 4).take 8)) }

/-- A region as its image has it. What an image does not hold is what the region had. -/
def Region.reloaded (r : Region) (b : List Byte) : Region :=
  let count (i : Nat) : Nat := bytesAt b (0x50 + 4 * i) 4
  let off (i : Nat) : Nat := bytesAt b (0x60 + 8 * i) 8
  let regs := (List.range (count 0)).map (fun i => wordsAt b (0x100 + 384 * i) 48)
  let toks := (List.range (count 1)).map (fun i => tokenOf (wordsAt b (off 0 + 96 * i) 12))
  let recs := (List.range (count 2)).map (fun i => wordsAt b (off 1 + 64 * i) 8)
  let stateOf (kind fs id : Nat) : List Nat :=
    ((recs.find? (fun w => w.getD 0 0 == stateHead kind fs id)).getD (zeros 8)).drop 1
  let slots := r.slots.mapIdx (fun fs f => if f.st == .free then f else { f with wave := (stateOf 0xFF fs 0).getD 0 0 })
  let r1 := { r with slots := slots }
  { r1 with
    eregs := r.live.flatMap (fun fs => (r.nodes.filter (fun n => n.kind == 0)).map (fun n =>
      let e := (r.ereg n.id fs).getD (n.regs0 fs)
      match regs.find? (fun w => field (w.getD 0 0) 0 12 == n.id && field (w.getD 0 0) 20 2 == fs) with
      | some w => e.ofWords n.ctx0 w
      | none => e)),
    chan := (List.range 4).flatMap (fun k =>
      (toks.filter (fun t => t.2.place == 0 && t.2.pos == k)).map (fun t => (t.1, t.2.port, t.2.tok))),
    nsts := r.live.flatMap (fun fs => (r.nodes.filter (fun n => n.opened != .none)).map (fun n =>
      let es := (toks.filter (fun t => t.2.place != 0 && t.1 == n.id && tagFs t.2.tok.tag == fs)).map Prod.snd
      ⟨n.id, fs, NSt.ofWords n (stateOf n.kind fs n.id) es (r.nst n.id fs)⟩)),
    waves := r.live.flatMap (fun fs => r1.wavesOf fs (stateOf 0xFF fs 0)),
    reqs := (List.range (count 3)).map (fun i => r1.reqOf (wordsAt b (off 2 + 128 * i) 16))
      ++ r.reqs.filter (fun q => 16 ≤ q.op) }

end Sys2Proof.Machine
end

