-- ==== Sys2Proof/Machine/Residence.lean ====
section
/-! DEFINITION. The residence of regions: `rgn.shrink` and `rgn.drain` (R391, R392), region images (R380, R381), shrinking
(R382), the region scheduler (R383), drains and quiescence (R384, R385). Requests on one region are taken in arrival order
(R386); a step acts on the region of the site. -/

namespace Sys2Proof.Machine

/-! ### Requests -/

/-- The request that a region works on now, if it is of a kind and no reload is in progress (R123, R386). -/
def State.opFor (s : State) (rgn act : Nat) : Option RgnOp :=
  if (s.region rgn).any (fun r => r.st == .loading && r.reloads != 0) then none
  else (s.rgnOps.find? (fun o => o.rgn == rgn)).bind (fun o => if o.act == act then some o else none)

/-- Change the request that a region works on. -/
def modFirst (rgn : Nat) (f : RgnOp → RgnOp) : List RgnOp → List RgnOp
  | [] => []
  | o :: r => if o.rgn == rgn then f o :: r else o :: modFirst rgn f r
def State.modOp (s : State) (rgn : Nat) (f : RgnOp → RgnOp) : State := { s with rgnOps := modFirst rgn f s.rgnOps }

/-- A request is over: the thread that waits for it learns its status and outcome. -/
def State.opDone (s : State) (o : RgnOp) (st : Status) (outcome : Nat) : State :=
  { s with
    rgnOps := dropFirst (fun x => x.rgn == o.rgn) s.rgnOps,
    rgnResults := match o.who with
      | some w => s.rgnResults ++ [(w, BitVec.ofNat 64 (outcome * 2 ^ 8 + st.code))]
      | none => s.rgnResults }

/-- The record of a region is cleared (R377). -/
def State.clearRecord (s : State) (r : Region) : State :=
  s.modDie r.die (fun d => { d with ftPending := d.ftPending.filter (· != r.num) })

/-! ### The instructions (R391, R392) -/

/-- The issuing thread's wait for its request: its result, or the wait. -/
def State.regionWait (s : State) (rd : BitVec 5) (submit : State → Go) : Go :=
  let wait (t : State) : State := t.waitFor .region t.waitlim { xs := [(rd, Status.timeout.word)] }
  match s.rgnResults.find? (fun r => r.1 == s.tid) with
  | some r => .ok ((({ s with rgnResults := s.rgnResults.filter (fun x => x.1 != s.tid) } : State).setX rd r.2).retire 4)
  | none =>
    if s.rgnOps.any (fun o => o.who == some s.tid) then .error (wait s)
    else (submit s).map wait

/-- A request of the issuing thread. -/
def State.threadOp (s : State) (rgn act : Nat) (image : Word) (budget fold : Nat) : RgnOp :=
  { rgn := rgn, act := act, image := image, deadline := s.cycle + (if budget == 0 then 256 else budget) * 1024, fold := fold,
    who := some s.tid, rights := s.me.sc.pdrights, sched := false, area := none, froze := false }

def execRgnShrink (rd rs1 rs2 : BitVec 5) (s : State) : Res :=
  s.privileged 3 rd rs1 rs2 (fun s =>
    s.regionWait rd (fun s =>
      let n := (s.x rs1).toNat
      let w := (s.x rs2).toNat
      let fold := w / 4 % 4
      if 128 ≤ n || 2 ^ 56 ≤ w || fold == 3 || (w % 4 == 0 && fold == 0) then .error (s.finish rd .range 4)
      else
        .ok { s with rgnOps := s.rgnOps ++
          [s.threadOp n (w % 4) (BitVec.ofNat 64 (w / 2 ^ 12 % 2 ^ 44 * 2 ^ 12)) (w / 2 ^ 4 % 2 ^ 8) fold] }))

def execRgnDrain (rd rs1 : BitVec 5) (s : State) : Res :=
  s.privileged 4 rd rs1 0 (fun s =>
    s.regionWait rd (fun s =>
      let n := (s.x rs1).toNat % 128
      if (s.region n).isNone then .error (s.finish rd .range 4)
      else .ok { s with rgnOps := s.rgnOps ++ [s.threadOp n 4 0 0 0] }))

/-! ### Memory of the requests -/

/-- The view of a request's accesses: its thread's rights for a thread's own request. The region scheduler's are checked against no
rights table (log 39). -/
def RgnOp.view (o : RgnOp) : Option View :=
  if o.sched then none else some { die := o.rgn / 32, core := none, rights := o.rights }

/-- Write bytes as the region scheduler. -/
def State.devPut (s : State) (die : Nat) (ag : Agent) (va : Nat) : List Byte → State × Bool
  | [] => (s, true)
  | b :: bs =>
    if (aperture s.pkg.toNat none va).isSome then (s, false)
    else match s.walk die va with
      | .error _ => (s, false)
      | .ok p =>
      if p.2.managed && !s.pinned va 1 then (s, false)
      else (((s.beforeWrite die va (some p.2)).put ag (.dram (p.2.pa die true va)) [b])).devPut die ag (va + 1) bs

/-- Write bytes of an image of a region. -/
def State.imagePut (s : State) (v : Option View) (rgn : Nat) (a : Word) (bs : List Byte) : State × Bool :=
  match v with
  | some w => let r := s.engPut w Agent.imposer a bs; (r.1, r.2.isNone)
  | none => s.devPut (rgn / 32) Agent.imposer a.toNat bs

def State.imageGet (s : State) (v : Option View) (die : Nat) (a : Word) (n : Nat) : Option (State × List Byte) :=
  match v with
  | some w => match s.engBytes w a n with | .ok p => some p | .error _ => none
  | none => (s.devBytes die a.toNat n).map (fun b => (s, b))

/-! ### The image pool (R383) -/

/-- The pool descriptor of a die, when it is enabled and well formed: its address, area count, area size and bitmap. -/
def State.imagePool (s : State) (die : Nat) : Option (Nat × Nat × Nat × Nat) :=
  let w := (s.die die).rimgpool.toNat
  let a := w / 64 % 2 ^ 50 * 64
  match s.devBytes die a 64 with
  | none => none
  | some b =>
    if bitOf w 0 && bytesAt b 4 4 == 0 && bytesAt b 0x30 16 == 0 && bytesAt b 0 4 ≤ 256 then
      some (a, bytesAt b 0 4, bytesAt b 8 8, bytesAt b 0x10 32)
    else none

/-- Set or clear the busy bit of an area. -/
def State.markArea (s : State) (die i : Nat) (busy : Bool) : Option State :=
  match s.imagePool die with
  | none => none
  | some (a, _, _, map) =>
    let byte := map / 2 ^ (i / 8 * 8) % 256
    let new := byte - (if bitOf byte (i % 8) then 2 ^ (i % 8) else 0) + (if busy then 2 ^ (i % 8) else 0)
    let r := s.devPut die Agent.imposer (a + 0x10 + i / 8) [BitVec.ofNat 8 new]
    if r.2 then some r.1 else none

/-- Take the lowest free area of a die's pool for an image of a size: its number and address. -/
def State.takeArea (s : State) (die size : Nat) : Option (State × Nat × Word) :=
  match s.imagePool die with
  | none => none
  | some (a, n, cap, map) =>
    if cap < size then none
    else
      match (List.range n).find? (fun i => !bitOf map i) with
      | none => none
      | some i =>
        match s.devNat die (a + 0x40 + 8 * i) 8, s.markArea die i true with
        | some addr, some t => some (t, i, BitVec.ofNat 64 addr)
        | _, _ => none

/-! ### Scan-out (R381) -/

/-- Whether a request that a region has issued is still to be performed or answered. -/
def Region.unsettled (r : Region) : Bool :=
  r.reqs.any (fun q => q.op == 16 || q.st == .sent || (q.op != 17 && (q.st == .performed || (q.st == .waiting && r.mayPerform q
    && !((q.stores || q.rmws) && r.speculative q.node q.fs (tagSeq q.tag))))))

/-- A running region's scan-out is given up, and it runs on. -/
def State.unfreeze (s : State) (o : RgnOp) : State :=
  s.modRegion o.rgn (fun r => if o.froze && r.boundary.isNone && r.st == .frozen then { r with st := .running } else r)

/-- A region as it is scanned out: what its routes carry has arrived, and the frames that the Imposer keeps go with it. -/
def State.settledRegion (s : State) (r : Region) : Region :=
  s.packed { r with chan := r.chan ++ r.flight, flight := [], owed := [] }

/-- The image is written, and the region is scanned out. -/
def State.scanOut (s : State) (r : Region) (o : RgnOp) : State :=
  let r1 := s.settledRegion r
  let p := s.imagePut o.view r.num o.image ((r1.imageWords.map (natBytes 8)).flatten)
  if !p.2 then (p.1.unfreeze o).opDone o .fault 0
  else
    let s1 := r.live.foldl (fun u fs => u.releaseFrame (r.fslot fs).id .pkg (r.num * 8)) p.1
    let s2 : State :=
      { s1 with regions := s1.regions.filter (fun x => x.num != r.num),
                scanned := s1.scanned ++ [{ r1 with st := .scanned, home := o.image, area := o.area }] }
    s2.opDone o .ok 1

/-- The area that a request of the scheduler has taken is given back, and the region goes on (R383). -/
def State.giveUp (s : State) (r : Region) (o : RgnOp) : State :=
  let s1 := match o.area with | some i => (s.markArea r.die i false).getD s | none => s
  ((s1.unfreeze o).modRegion r.num (fun x => { x with quantum := 0 })).opDone o .ok 0

/-- A scan-out: a running region is frozen first, what it has issued settles, and the image is written. The scheduler scans out no
region whose last frame has ended in the meantime, nor one whose image would not fit its area (R383). -/
def execScanOut (s : State) : Res :=
  match s.opFor s.site.rgn 2 with
  | none => .next s
  | some o =>
    match s.region o.rgn with
    | none => .next (s.opDone o .refused 0)
    | some r =>
      if r.st == .running then
        .next ((s.setRegion { r with st := .frozen }).modOp o.rgn (fun x => { x with froze := true }))
      else if r.st != .frozen then .next (s.opDone o .refused 0)
      else if o.sched && r.live.isEmpty && r.spilled.isEmpty then .next (s.giveUp r o)
      else if r.unsettled then .next s
      else if o.sched && !((s.imagePool r.die).any (fun p => (s.settledRegion r).imageSize ≤ p.2.2.1)) then .next (s.giveUp r o)
      else .next (s.scanOut r o)

/-! ### Resume in place (R379) -/

/-- A region runs again: its held requests are issued again, and the elements that page faults stopped fire (R204). -/
def Region.resumed (r : Region) : Region :=
  { r with st := .running, boundary := none, trap := none, faulted := r.faulted.filter (fun n => !r.resumable.contains n),
           resumable := [],
           reqs := r.reqs.map (fun q => if q.st == .faulting || q.st == .behind then { q with st := .waiting } else q) }

def execResumeInPlace (s : State) : Res :=
  match s.opFor s.site.rgn 1 with
  | none => .next s
  | some o =>
    match s.region o.rgn with
    | none => .next (s.opDone o .refused 0)
    | some r =>
      if r.st != .frozen then .next (s.opDone o .refused 0)
      else .next (((s.setRegion r.resumed).clearRecord r).opDone o .ok 2)

/-! ### Restore (R381) -/

/-- The checks of an image for a region at a corner: magic, signature and shape (R381). -/
def State.imageFits (s : State) (r : Region) (corner : Nat) (b : List Byte) : Bool :=
  let c := (bytesAt b 0x50 4, bytesAt b 0x54 4, bytesAt b 0x58 4, bytesAt b 0x5C 4)
  let o := imageOffsets c
  let sig := (s.reread { r with num := corner }).map signature
  bytesAt b 0 8 == imageMagic && bytesAt b 8 8 == r.hash.toNat && bytesAt b 0x10 8 == r.desc.toNat
    && sig.any (fun x => x.toNat == bytesAt b 0x18 8) && (corners r.rows r.cols).contains corner
    && bytesAt b 0x21 1 == r.fold && bytesAt b 0x22 1 == r.rows && bytesAt b 0x23 1 == r.cols
    && bytesAt b 0x60 8 == o.1 && bytesAt b 0x68 8 == o.2.1 && bytesAt b 0x70 8 == o.2.2.1 && bytesAt b 0x78 8 == o.2.2.2

/-- The scanned-out region that an image belongs to: the one scanned out to it, or one of the same region and function. -/
def State.scannedAt (s : State) (image : Word) (b : List Byte) : Option Region :=
  match s.scanned.find? (fun r => r.home == image) with
  | some r => some r
  | none => s.scanned.find? (fun r => bytesAt b 0x20 1 == r.num && bytesAt b 8 8 == r.hash.toNat && bytesAt b 0x10 8 == r.desc.toNat)

/-- A frame slot of an image of which the device keeps nothing: by the header of the image and the activation frame (log 58). -/
def State.slotOf (s : State) (v : Option View) (r : Region) (rights : Word) (b : List Byte) (j : Nat) : FSlot :=
  let a := BitVec.ofNat 64 (bytesAt b (0x28 + 8 * j) 8)
  let st := FSt.ofCode (bytesAt b (0x24 + j) 1)
  let own := a == r.areaSlot j
  let get (off n : Nat) : Nat :=
    if own then s.mem.read (a.toNat + off) n else ((s.imageGet v r.die (a + BitVec.ofNat 64 off) n).map (fun p => bytesNat p.2)).getD 0
  let loc := get 0 4 % 2 ^ 21
  let t := s.slot loc
  let mine := !own && t.calls.any (fun c => c.frame == a)
  let f : FSlot :=
    { FSlot.free with
      st := st, id := s.nextFrame + j, job := if mine then t.job else none, wuid := t.u.wuid.toNat, act := a, own := own,
      args := (List.range 8).map (fun i => BitVec.ofNat 64 (get (0x20 + 8 * i) 8)),
      caller := if mine then .thread (t.home.getD loc) t.ctx else .none, opened := s.cycle, depth := Machine.field (get 0x10 8) 40 16,
      limit := if mine then t.u.waitlim.toNat else 2 ^ 24, rights := rights }
  if st == .free then FSlot.free else { f with buf := s.frameBuf f }

/-- The region of an image of which the device keeps nothing: its configuration from the code object that holds its descriptor, its
frames from the header (R381, log 58). -/
def State.bareRegion (s : State) (v : Option View) (corner : Nat) (b : List Byte) : Option Region :=
  let die := corner / 32
  let desc := bytesAt b 0x10 8
  let size := bytesAt b 0x21 1
  match s.codeAt die desc, s.graphAt die desc with
  | some (hash, c), some g =>
    ((s.foldings die g).find? (fun f => f.1 == size)).map (fun f =>
      let rights := (v.map View.rights).getD 0
      let r := newRegion (bytesAt b 0x20 1) f.2.rows f.2.cols size (numberRoutes 0 (f.2.place g)) (BitVec.ofNat 64 desc)
        (BitVec.ofNat 64 c.base) hash 0 (BitVec.allOnes 128) rights (bytesAt g.head 0x28 4) (BitVec.ofNat 8 (bytesAt g.head 0x2F 1)) 0
      { r with slots := (List.range 4).map (s.slotOf v r rights b) })
  | _, _ => none

/-- The frames that the Imposer keeps for a region are written at its place (R237). -/
def State.layFrames (s : State) (r : Region) : State :=
  r.live.foldl (fun t fs => if (r.fslot fs).own then t.layFrame r fs (r.fslot fs) else t) s

/-- The region of an image comes back at a corner: none where a check fails. An image in another package is read there first (R246). -/
def State.restoreAt (s : State) (v : Option View) (image : Word) (corner : Nat) : Option State :=
  match s.imageGet v (corner / 32) image 0x100 with
  | none => none
  | some (a, h) =>
    if a.miss.isSome then some a
    else
    let kept := s.scannedAt image h
    match (match kept with | some r => some r | none => s.bareRegion v corner h) with
    | none => none
    | some r =>
      let rect := rectBits corner r.rows r.cols
      if !s.imageFits r corner h || !inside rect r.place || s.busy &&& rect != 0 then none
      else
        match a.imageGet v (corner / 32) image (bytesAt h 0x78 8) with
        | none => none
        | some (s, b) =>
          if s.miss.isSome then some s
          else
          let r1 := { r.reloaded b with num := corner }
          let r2 : Region :=
            { r1 with
              slots := r1.slots.mapIdx (fun fs f => if f.own && f.st != .free then { f with act := r1.areaSlot fs } else f),
              st := .running, home := 0, area := none, trap := none, faulted := [], resumable := [], boundary := none,
              last := [], quantum := 0, rounds := 0 }
          let s0 := (s.unload rect).clearRecord r2
          let s1 : State :=
            { s0 with regions := s0.regions ++ [r2],
                      nextFrame := if kept.isSome then s0.nextFrame else s0.nextFrame + 4,
                      scanned := s0.scanned.filter (fun x => !(x.num == r.num && x.home == r.home)) }
          let s2 := s1.layFrames r2
          some (match r.area with | some i => (s2.markArea (r.num / 32) i false).getD s2 | none => s2)

/-- A corner where a scanned-out region of the scheduler's fits now. -/
def State.restoreCorner (s : State) (r : Region) : Option Nat :=
  (corners r.rows r.cols).find? (fun n =>
    inside (rectBits n r.rows r.cols) r.place && rectBits n r.rows r.cols &&& s.busy == 0)

/-- Whether a queued configuration of a higher priority can be placed now (R113). -/
def State.outranked (s : State) (p : BitVec 2) : Bool :=
  s.queueOrder.any (fun q => p.toNat < q.prio.toNat && s.wantsRegion q && s.timely q
    && ((s.checkConfig (placeDie q.place) q.code.toNat q.desc.toNat q.rights q.race).bind (fun c => s.findPlace c q.place)).isSome)

/-- Whether another region that the scheduler scanned out comes first: at a higher priority, or earlier at the same one (R383). -/
def State.restoresFirst (s : State) (i : Nat) (r : Region) : Bool :=
  s.scanned.zipIdx.any (fun x => x.1.area.isSome && (s.restoreCorner x.1).isSome
    && (r.prio.toNat < x.1.prio.toNat || (x.1.prio == r.prio && x.2 < i)))

/-- The restore that a thread asks for at the region of the site; else the scheduler's restore of scanned-out region `sub`,
queued at its own priority (R383). -/
def execRegionRestore (s : State) : Res :=
  match s.opFor s.site.rgn 3 with
  | some o =>
    match s.restoreAt o.view o.image o.rgn with
    | some t => .next (t.opDone o .ok 3)
    | none => .next (s.opDone o .refused 0)
  | none =>
    match s.scanned[s.sub]? with
    | none => .next s
    | some r =>
      if r.area.isNone || s.outranked r.prio || s.restoresFirst s.sub r then .next s
      else
        match s.restoreCorner r with
        | none => .next s
        | some c => .next ((s.restoreAt none r.home c).getD s)

/-! ### Shrinking (R382) -/

/-- The folding of a size that a region's configuration gives, smaller than the one it has. -/
def State.smaller (s : State) (r : Region) (size : Nat) : Option (Graph × Folding) :=
  match s.graphAt r.die r.desc.toNat with
  | none => none
  | some g =>
    if size ≤ r.fold || g.nodes.length != r.nodes.length then none
    else ((s.foldings r.die g).find? (fun f => f.1 == size)).map (fun f => (g, f.2))

/-- The (node, port) pairs of a folding's carry-point table. -/
def State.carryPoints (s : State) (die : Nat) (f : Folding) : List (Nat × Nat) :=
  if f.carry == 0 then []
  else
    (List.range ((s.devNat die f.carry 8).getD 0)).map (fun i =>
      let e := (s.devNat die (f.carry + 8 + 4 * i) 4).getD 0
      (e % 2 ^ 12, e / 2 ^ 12 % 2 ^ 4))

/-- Whether every frame of a region stands at carry points and has no request. -/
def Region.atShrinkPoint (r : Region) (pts : List (Nat × Nat)) : Bool :=
  r.flight.isEmpty && r.reqs.isEmpty && r.chan.all (fun e => pts.contains (e.1, e.2.1))
    && r.nsts.all (fun n => n.st.entries.all (fun e => e.place == 0x3F
      && (pts.contains (n.node, e.port) || (match n.st with | .call _ _ _ _ _ _ _ => true | _ => false))))

/-- A region on the places of a smaller folding: registers and tokens go with their nodes. -/
def Region.refolded (r : Region) (g : Graph) (f : Folding) (size : Nat) : Region :=
  let ns := numberRoutes 0 (f.place g)
  let ctx0 (l : List NodeRec) (id : Nat) : Nat := ((l.find? (fun n => n.id == id)).map NodeRec.ctx0).getD 0
  let move (e : EReg) : EReg := { e with phase := e.phase - ctx0 r.nodes e.node + ctx0 ns e.node }
  { r with
    nodes := ns, rows := f.rows, cols := f.cols, fold := size, sig := signature ns, last := [],
    eregs := r.eregs.map move, spilled := r.spilled.map (fun p => { p with eregs := p.eregs.map move }) }

/-- A shrink: the smaller folding is loaded at the shrink point; once it is, the region runs on it. A code object written since the
region was placed fails the load as it fails a reload (R123; FAULT for the request, log 40). -/
def execShrinkPoint (s : State) : Res :=
  match s.opFor s.site.rgn 0 with
  | none => .next s
  | some o =>
    match s.region o.rgn with
    | none => .next (s.opDone o .refused 0)
    | some r =>
      if r.st == .shrinking then
        if r.loadEnd ≤ s.cycle then .next ((s.setRegion { r.resumed with st := .running }).opDone o .ok 0) else .next s
      else if !(r.st == .running || r.st == .frozen) then .next (s.opDone o .refused 0)
      else
        match s.smaller r o.fold with
        | none => .next (s.opDone o .refused 0)
        | some (g, f) =>
          if !r.atShrinkPoint (s.carryPoints r.die f) then .next s
          else if !s.unchanged r then .next ((s.reloadFailed r).opDone o .fault 0)
          else
            let r1 := r.refolded g f o.fold
            .next ((s.setRegion { r1 with st := .shrinking, loadEnd := s.cycle + loadCycles r1.nodes }).clearRecord r)

/-- The budget of a shrink is used up: the region is scanned out, by the scheduler to an area of its pool if it has one. -/
def execShrinkBudgetExpiry (s : State) : Res :=
  match s.opFor s.site.rgn 0 with
  | none => .next s
  | some o =>
    match s.region o.rgn with
    | none => .next (s.opDone o .refused 0)
    | some r =>
      if s.cycle < o.deadline || !(r.st == .running || r.st == .frozen) then .next s
      else if !o.sched then .next (s.modOp o.rgn (fun x => { x with act := 2 }))
      else
        match s.takeArea r.die r.imageSize with
        | some (t, i, a) => .next (t.modOp o.rgn (fun x => { x with act := 2, image := a, area := some i }))
        | none => .next (s.opDone o .ok 0)

/-! ### The region scheduler (R383) -/

/-- A request of the region scheduler, with the budget that `rgn.shrink` has by default (log 40). -/
def State.schedOp (s : State) (rgn act : Nat) (image : Word) (fold : Nat) (area : Option Nat) : RgnOp :=
  { rgn := rgn, act := act, image := image, deadline := s.cycle + 256 * 1024, fold := fold, who := none, rights := 0,
    sched := true, area := area, froze := false }

/-- The next smaller folding of a region whose place frees a rectangle in which a queued configuration fits. -/
def State.shrinkFor (s : State) (r : Region) (q : Queued) : Option Nat :=
  match s.checkConfig (placeDie q.place) q.code.toNat q.desc.toNat q.rights q.race with
  | none => none
  | some c =>
    match [1, 2].find? (fun z => (s.smaller r z).isSome) with
    | none => none
    | some z =>
      match s.smaller r z with
      | none => none
      | some (g, f) => if ((s.setRegion (r.refolded g f z)).findPlace c q.place).isSome then some z else none

/-- A region's quantum has run out: a queued configuration of at least its priority that could use its place has it shrunk
or scanned out; otherwise its quantum starts again. -/
def execRegionQuantumExpiry (s : State) : Res :=
  match s.region s.site.rgn with
  | none => .next s
  | some r =>
    let w := (s.die r.die).rquant
    if !(bitW w 63) || r.st != .running || r.quantum < w.toNat % 2 ^ 40 || (r.live.isEmpty && r.spilled.isEmpty)
        || s.rgnOps.any (fun o => o.rgn == r.num) then .next s
    else
      let again := s.setRegion { r with quantum := 0 }
      match s.queueOrder.find? (fun q => q.place &&& r.rect != 0 && r.prio.toNat ≤ q.prio.toNat && s.wantsRegion q) with
      | none => .next again
      | some q =>
        match s.shrinkFor r q with
        | some z => .next { again with rgnOps := again.rgnOps ++ [s.schedOp r.num 0 0 z none] }
        | none =>
          match again.takeArea r.die r.imageSize with
          | some (t, i, a) => .next { t with rgnOps := t.rgnOps ++ [s.schedOp r.num 2 a 0 (some i)] }
          | none => .next again

/-! ### Draining (R384, R385) -/

/-- A frame of a draining region ends with FAULT; its return follows once what it has issued is complete (R29). -/
def State.drainFrame (s : State) (rgn fs : Nat) : State :=
  s.modRegion rgn (fun r =>
    if (r.fslot fs).st == .running || (r.fslot fs).st == .suspended then r.ending fs Status.fault.byte else r)

/-- The record of a drain's trap: that of the first frame that it ends (R377, R384). -/
def Region.drainRecord (r : Region) (tick : Word) : Option FTrap :=
  let node := (r.nodes.head?.map NodeRec.id).getD 0
  let rec1 (fs : Nat) : FTrap := r.trapRecord node fs { cause := 0xE } Status.fault.byte tick
  match r.live.head?, r.spilled.head? with
  | some fs, _ => some (rec1 fs)
  | none, some p => some { rec1 p.fs with frame := p.slot.act, heads := List.replicate 10 none }
  | none, none => none

/-- The drain configuration takes the place of every element's: every frame ends with the trap DRAINED, resident or spilled. The
record lasts until the region is drained. -/
def State.startDrain (s : State) (r : Region) : State :=
  let ids := r.frames.map FSlot.id
  let own (o : Opening) : Bool := o.same && (match o.caller with | .node _ id => ids.contains id | _ => false)
  let s1 := (List.range 4).foldl (fun u fs => u.drainFrame r.num fs) s
  let s2 := r.spilled.foldl (fun u p => u.frameReturn r p.slot Status.fault.byte) s1
  let s3 := s2.modRegion r.num (fun x =>
    { x with st := .draining, spilled := [], faulted := [], resumable := [], boundary := none, rounds := 0,
             owed := x.owed ++ (x.chan ++ x.flight).map (fun e => (e.1, e.2.1)), chan := [], flight := [] })
  let s4 : State := { s3 with openings := s3.openings.filter (fun o => !own o) }
  match s4.region r.num, r.drainRecord s.tick with
  | some x, some rec1 => s4.noteTrap x rec1
  | _, _ => s4

/-- Whether the occupancy tree counts nothing in a region. -/
def Region.vacant (r : Region) : Bool :=
  r.chan.isEmpty && r.flight.isEmpty && r.owed.isEmpty && r.reqs.isEmpty && r.live.isEmpty

/-- The drain of the region begins; once it has, one sampling round is complete. -/
def execOccupancyRound (s : State) : Res :=
  match s.opFor s.site.rgn 4 with
  | none => .next s
  | some o =>
    match s.region o.rgn with
    | none => .next (s.opDone o .range 0)
    | some r =>
      if r.st == .draining then .next (s.setRegion { r with rounds := if r.vacant then r.rounds + 1 else 0 })
      else if r.st == .running || r.st == .frozen then .next (s.startDrain r)
      else .next s

/-- Two zero rounds in succession: the region is FREE. -/
def execDrainQuiescence (s : State) : Res :=
  match s.opFor s.site.rgn 4 with
  | none => .next s
  | some o =>
    match s.region o.rgn with
    | none => .next (s.opDone o .range 0)
    | some r =>
      if r.st == .draining && r.vacant && 2 ≤ r.rounds then
        .next ((({ s with regions := s.regions.filter (fun x => x.num != r.num) } : State).clearRecord r).opDone o .ok 0)
      else .next s

end Sys2Proof.Machine
end

