-- ==== Sys2Proof/Machine/Operands.lean ====
section
/-! DEFINITION. The operand forms of vector words (R63, R154 to R159): sources by kind, masks, destinations and the
last-result ring (R158). A register is handled as the 1,024-bit number of its string. -/

namespace Sys2Proof.Machine

/-- Lanes of a vector register. -/
def lanes : Nat := 32

/-- Elements of width `w` in a register (R154). -/
def perReg (w : Nat) : Nat := 1024 / w

/-- One element in every place. -/
def splat (w v : Nat) : Nat := buildElems w (perReg w) (fun _ => v)

/-- The signed value of an inline literal and of an F1 immediate. -/
def litVal (n : BitVec 6) : Int := n.toInt
def immVal (n : BitVec 16) : Int := n.toInt

/-- The string a source supplies for a type (R63, R156). `index` is a position that reads an index or a count (R175). -/
def Slot.src (t : Slot) (ty : ElTy) (index : Bool) (s : Src) : Nat :=
  match s with
  | .v n => t.v[n.val].toNat
  | .o n => t.o[n.val].toNat
  | .b n => t.b[n.val].toNat
  | .x n => splat ty.width (t.xr n).toNat
  | .cb n =>
    splat 32 ((t.cb[t.u.cbsel.toNat]'(by have := t.u.cbsel.isLt; omega))[n.toNat]'(by have := n.isLt; omega)).toNat
  | .lit n => splat ty.width (if index then wrap ty.width (litVal n) else litElem ty (litVal n))

/-- Source 2 of F0 or F1. -/
def Slot.src2 (t : Slot) (ty : ElTy) (index : Bool) (s : Src2) : Nat :=
  match s with
  | .none => 0
  | .op o => t.src ty index o
  | .imm n => splat ty.width (if index then wrap ty.width (immVal n) else litElem ty (immVal n))

def Slot.src3 (t : Slot) (ty : ElTy) (s : Option Src) : Nat :=
  match s with
  | none => 0
  | some o => t.src ty false o

/-- The 32-bit scale word of `vqnt` and `vdq`: a scalar or a constant-bank entry (R171). -/
def Slot.scaleWord (t : Slot) (s : Src) : Nat := t.src .u32 false s % 2 ^ 32

/-! ### Masks (R155) -/

/-- Whether a lane of a mask value is active. -/
def laneOn (k : Nat) (i : Nat) : Bool := bitOf k i

/-- Whether element `j` of width `w` is active. -/
def elemOn (k w j : Nat) : Bool := laneOn k (w * j / 32)

/-- Lanes of `a` where the mask is set, lanes of `b` elsewhere. -/
def blend (k a b : Nat) : Nat := buildElems 32 lanes (fun i => if laneOn k i then elemOf 32 a i else elemOf 32 b i)

/-- Every lane. -/
def allLanes : Nat := 2 ^ 32 - 1

/-- Lanes lo to hi - 1. -/
def laneRange (lo hi : Nat) : Nat := 2 ^ hi - 2 ^ lo

/-! ### Destinations (R156, R158) -/

/-- An element as a scalar register holds it: signed types sign-extended, the others zero-extended. -/
def extElem (ty : ElTy) (v : Nat) : Word := if ty.signed then sextW ty.width v else BitVec.ofNat 64 (v % 2 ^ ty.width)

/-- The value and width of element 0 as a scalar destination takes it: an SB48 mantissa is `m` bits wide (R36). -/
def scalarOf (ty : ElTy) (m r : Nat) : Word := if ty == .sb48 then BitVec.ofNat 64 (r % 2 ^ m) else extElem ty (elemOf ty.width r 0)

/-- A scalar source of type SB48: its low `m` bits in each of the 48 mantissas, zero in every other bit of the block (R156,
R169; log 50). -/
def Slot.srcBlock (t : Slot) (m : Nat) (s : Src) : Nat :=
  match s with
  | .x n => packElems m (List.replicate 48 ((t.xr n).toNat % 2 ^ m))
  | _ => t.src .sb48 false s

/-- Old contents of a destination. -/
def Slot.dst (t : Slot) (d : Dst) : Nat :=
  match d with
  | .v n => t.v[n.val].toNat
  | .o n => t.o[n.val].toNat
  | .x _ => 0

/-- Write a result under a mask and push it into the ring: a vector destination keeps its inactive lanes; a scalar one
takes element 0 if lane 0 is active, and the ring sees zero in inactive lanes. `m` is the mantissa width of a type SB48. -/
def Slot.writeDst (t : Slot) (ty : ElTy) (d : Dst) (k r : Nat) (m : Nat := 0) : Slot :=
  let full : Vec := BitVec.ofNat 1024 (blend k r (t.dst d))
  match d with
  | .v n => (t.wv n full).push full
  | .o n => (t.wo n full).push full
  | .x n => (if laneOn k 0 then t.wx n (scalarOf ty m r) else t).push full

/-- The mask value of a mask field. -/
def Slot.mask (t : Slot) (k : BitVec 3) : Nat := (t.kr k).toNat

/-- A result vector built from elements. -/
def buildReg (w : Nat) (f : Nat → Nat) : Nat := buildElems w (perReg w) f

end Sys2Proof.Machine
end

