-- ==== Sys2Proof/Machine/Vector.lean ====
section
/-! DEFINITION. The vector instructions that touch no memory: integer and floating-point lanes, compares and masks,
conversions, dot products, reductions, scans and permutes (R160 to R176). Every one is 8 bytes long. -/

namespace Sys2Proof.Machine

/-- A lane instruction: the function of the three sources' elements at each active element (R160 to R163). -/
def State.lanesOf (s : State) (a : VA) (f : Nat → Nat → Nat → Nat) : State :=
  let t := s.me
  let w := a.ty.width
  let x := t.src a.ty false a.s1
  let y := t.src2 a.ty false a.s2
  let z := t.src3 a.ty a.s3
  (s.setMe (t.writeDst a.ty a.d (t.mask a.mask)
    (buildReg w (fun j => f (elemOf w x j) (elemOf w y j) (elemOf w z j))))).retire 8

/-! ### Integer lanes (R160, R161) -/

/-- An integer result: exact, then wrapped or clamped (R38). -/
def State.intLanes (s : State) (a : VA) (sat : Bool) (f : Int → Int → Int → Int) : State :=
  let w := a.ty.width
  let g := a.ty.signed
  s.lanesOf a (fun x y z => narrow g sat w (f (ival g w x) (ival g w y) (ival g w z)))

def execVadd (a : VA) (s : State) : Res := .next (s.intLanes a a.sat (fun x y _ => x + y))
def execVsub (a : VA) (s : State) : Res := .next (s.intLanes a a.sat (fun x y _ => x - y))
def execVmul (a : VA) (s : State) : Res := .next (s.intLanes a a.sat (fun x y _ => x * y))
def execVmulh (a : VA) (s : State) : Res := .next (s.intLanes a false (fun x y _ => x * y / (2 ^ a.ty.width : Int)))
def execVmadd (a : VA) (s : State) : Res := .next (s.intLanes a a.sat (fun x y z => x * y + z))
def execVmin (a : VA) (s : State) : Res := .next (s.intLanes a false (fun x y _ => min x y))
def execVmax (a : VA) (s : State) : Res := .next (s.intLanes a false (fun x y _ => max x y))
def execVabs (a : VA) (s : State) : Res := .next (s.intLanes a a.sat (fun x _ _ => if x < 0 then -x else x))

def execVand (a : VA) (s : State) : Res := .next (s.lanesOf a (fun x y _ => x &&& y))
def execVor (a : VA) (s : State) : Res := .next (s.lanesOf a (fun x y _ => x ||| y))
def execVxor (a : VA) (s : State) : Res := .next (s.lanesOf a (fun x y _ => x ^^^ y))
def execVandn (a : VA) (s : State) : Res :=
  .next (s.lanesOf a (fun x y _ => x &&& (y ^^^ (2 ^ a.ty.width - 1))))

/-- The shift amount: the low log2 w bits (R161). Widths are powers of two. -/
def execVsll (a : VA) (s : State) : Res :=
  .next (s.lanesOf a (fun x y _ => x * 2 ^ (y % a.ty.width) % 2 ^ a.ty.width))
def execVsrl (a : VA) (s : State) : Res := .next (s.lanesOf a (fun x y _ => x / 2 ^ (y % a.ty.width)))
def execVsra (a : VA) (s : State) : Res :=
  .next (s.lanesOf a (fun x y _ => wrap a.ty.width (sval a.ty.width x / (2 ^ (y % a.ty.width) : Int))))

/-! ### Floating-point lanes (R162, R163) -/

/-- A floating-point result: exact, then rounded once by the mode, with overflow by R42 or R43. -/
def State.fltLanes (s : State) (a : VA) (f : FV → FV → FV → FV) : State :=
  let m := a.ty.fmt
  s.lanesOf a (fun x y z => m.encode a.rnd a.sat (f (m.decode x) (m.decode y) (m.decode z)))

def execVfadd (a : VA) (s : State) : Res := .next (s.fltLanes a (fun x y _ => x.add a.rnd y))
def execVfsub (a : VA) (s : State) : Res := .next (s.fltLanes a (fun x y _ => x.sub a.rnd y))
def execVfmul (a : VA) (s : State) : Res := .next (s.fltLanes a (fun x y _ => x.mul y))
def execVfma (a : VA) (s : State) : Res := .next (s.fltLanes a (fun x y z => (x.mul y).add a.rnd z))
def execVfmin (a : VA) (s : State) : Res := .next (s.fltLanes a (fun x y _ => x.minNum y))
def execVfmax (a : VA) (s : State) : Res := .next (s.fltLanes a (fun x y _ => x.maxNum y))
def execVfdiv (a : VA) (s : State) : Res := .next (s.fltLanes a (fun x y _ => x.div y))
def execVfsqrt (a : VA) (s : State) : Res := .next (s.fltLanes a (fun x _ _ => x.sqrt))
def execVfrcp (a : VA) (s : State) : Res := .next (s.fltLanes a (fun x _ _ => FV.one.div x))
def execVfrsq (a : VA) (s : State) : Res := .next (s.fltLanes a (fun x _ _ => x.rsqrt))
def execVfexp2 (a : VA) (s : State) : Res := .next (s.fltLanes a (fun x _ _ => x.exp2))
def execVflog2 (a : VA) (s : State) : Res := .next (s.fltLanes a (fun x _ _ => x.log2))

/-! ### Compare, select, masks (R164 to R167) -/

/-- The condition on two elements of a type. -/
def condHolds (c : Cond) (ty : ElTy) (x y : Nat) : Bool :=
  if ty.isFlt then
    let a := ty.fmt.decode x
    let b := ty.fmt.decode y
    match c with
    | .eq => a.eq b
    | .ne => !a.eq b
    | .lt => a.lt b
    | .le => a.le b
    | .gt => b.lt a
    | .ge => b.le a
    | .un => a.isNan || b.isNan
    | .ord => !(a.isNan || b.isNan)
  else
    let a := ival ty.signed ty.width x
    let b := ival ty.signed ty.width y
    match c with
    | .eq => a == b
    | .ne => a != b
    | .lt => a < b
    | .le => a ≤ b
    | .gt => b < a
    | .ge => b ≤ a
    | .un => false
    | .ord => true

/-- A lane's bit: the condition on every element of the lane. -/
def laneCond (c : Cond) (ty : ElTy) (x y i : Nat) : Bool :=
  let e := 32 / ty.width
  (List.range e).all (fun b => condHolds c ty (elemOf ty.width x (i * e + b)) (elemOf ty.width y (i * e + b)))

def execVcmp (c : Cond) (kd : BitVec 3) (ty : ElTy) (mask : BitVec 3) (s1 : Src) (s2 : Src2) (s : State) : Res :=
  let t := s.me
  let x := t.src ty false s1
  let y := t.src2 ty false s2
  let m := t.mask mask
  let r := buildElems 1 lanes (fun i => if laneOn m i then (laneCond c ty x y i).toNat else elemOf 1 (t.kr kd).toNat i)
  .next ((s.setMe (t.wk kd (BitVec.ofNat 32 r))).retire 8)

def execVsel (a : VA) (s : State) : Res :=
  let t := s.me
  .next ((s.setMe (t.writeDst a.ty a.d allLanes
    (blend (t.mask a.mask) (t.src a.ty false a.s1) (t.src2 a.ty false a.s2)))).retire 8)

/-- A whole-register mask operation (R166). -/
def State.maskOp (s : State) (d : BitVec 3) (v : Half) : State := (s.modMe (·.wk d v)).retire 8

def execKand (d a b : BitVec 3) (s : State) : Res := .next (s.maskOp d (s.me.kr a &&& s.me.kr b))
def execKor (d a b : BitVec 3) (s : State) : Res := .next (s.maskOp d (s.me.kr a ||| s.me.kr b))
def execKxor (d a b : BitVec 3) (s : State) : Res := .next (s.maskOp d (s.me.kr a ^^^ s.me.kr b))
def execKandn (d a b : BitVec 3) (s : State) : Res := .next (s.maskOp d (s.me.kr a &&& ~~~(s.me.kr b)))
def execKnot (d a : BitVec 3) (s : State) : Res := .next (s.maskOp d (~~~(s.me.kr a)))

def execKpop (xd : BitVec 5) (a : BitVec 3) (s : State) : Res :=
  .next ((s.setX xd (BitVec.ofNat 64 (popCount 32 (s.me.kr a).toNat))).retire 8)
def execKfirst (xd : BitVec 5) (a : BitVec 3) (s : State) : Res :=
  .next ((s.setX xd (BitVec.ofNat 64 (lowestSet 32 (s.me.kr a).toNat))).retire 8)

/-! ### Conversions (R168 to R171) -/

/-- The number of an inline literal source. -/
def litNum (s : Src) : Nat :=
  match s with
  | .lit n => n.toNat
  | _ => 0

/-- A conversion's end: the result in the lanes it writes. -/
def State.cvtEnd (s : State) (a : VC) (region r : Nat) : State :=
  let t := s.me
  (s.setMe (t.writeDst a.dt a.d (t.mask a.mask &&& region) r (sbWidth a.m))).retire 8

/-- `vcvt` between scalar formats (R168): the string and the lanes written. -/
def cvtPart (dt st : ElTy) (r : Rnd) (sat : Bool) (x j : Nat) : Nat × Nat :=
  let ws := st.width
  let wd := dt.width
  let c (v : Nat) : Nat := cvtElem dt st r sat v
  if wd < ws then
    let n := 1024 / ws
    let f := ws / wd
    (buildReg wd (fun i => if j * n ≤ i && i < (j + 1) * n then c (elemOf ws x (i - j * n)) else 0),
      laneRange (j * 32 / f) ((j + 1) * 32 / f))
  else if ws < wd then (buildReg wd (fun i => c (elemOf ws x (j * (1024 / wd) + i))), allLanes)
  else (buildReg wd (fun i => c (elemOf ws x i)), allLanes)

/-- An SB48 block as a register holds it (R169). -/
def blockReg (m ex : Nat) (ns : List Nat) : Nat := packElems m ns + ex * 2 ^ 1016

/-- To SB48: the block of 48 source elements. -/
def toBlock (m : Nat) (st : ElTy) (r : Rnd) (sat : Bool) (x y : Nat) : Nat :=
  let w := st.width
  let vs := if w == 32 then elemsOf 32 x 32 ++ elemsOf 32 y 16 else elemsOf 16 x 48
  let p := sbBlock m r sat st.fmt (vs.map st.fmt.decode)
  blockReg m p.1 p.2

/-- From SB48 (R49, R169). -/
def ofBlock (m : Nat) (dt : ElTy) (r : Rnd) (sat : Bool) (x j : Nat) : Nat :=
  let ex := x / 2 ^ 1016 % 256
  let n := perReg dt.width
  let first := if dt.width == 32 then 32 * j else 0
  buildReg dt.width (fun i =>
    if i < n && first + i < 48 then dt.fmt.encode r sat (sbValue m ex (elemOf m x (first + i))) else 0)

def execVcvt (a : VC) (s : State) : Res :=
  let t := s.me
  let m := sbWidth a.m
  let x := t.src a.st false a.s1
  if a.dt == .sb48 then .next (s.cvtEnd a allLanes (toBlock m a.st a.rnd a.sat x (t.src a.st false a.s2)))
  else if a.st == .sb48 then .next (s.cvtEnd a allLanes (ofBlock m a.dt a.rnd a.sat (t.srcBlock m a.s1) (litNum a.s2)))
  else
    let p := cvtPart a.dt a.st a.rnd a.sat x (litNum a.s2)
    .next (s.cvtEnd a p.2 p.1)

/-- Narrowing of one code or integer (R170). -/
def packElem (dt st : ElTy) (sat : Bool) (v : Nat) : Nat := narrow dt.signed sat dt.width (ival st.signed st.width v)

def execVpack (a : VC) (s : State) : Res :=
  let t := s.me
  let ws := a.st.width
  let n := 1024 / ws
  let x := t.src a.st false a.s1
  let y := t.src a.st false a.s2
  .next (s.cvtEnd a allLanes (buildReg a.dt.width (fun i =>
    packElem a.dt a.st a.sat (if i < n then elemOf ws x i else elemOf ws y (i - n)))))

def execVunpack (a : VC) (s : State) : Res :=
  let t := s.me
  let wd := a.dt.width
  let x := t.src a.st false a.s1
  .next (s.cvtEnd a allLanes (buildReg wd (fun i =>
    wrap wd (ival a.st.signed a.st.width (elemOf a.st.width x (litNum a.s2 * (1024 / wd) + i))))))

/-- Largest code of a QA type. -/
def qaMax (t : ElTy) : Nat := 2 ^ t.width - 1

def execVqnt (a : VC) (s : State) : Res :=
  let t := s.me
  let c := t.scaleWord a.s2
  let x := t.src .f32 false a.s1
  .next ((s.setMe (t.writeDst .u32 a.d (t.mask a.mask) (buildReg 32 (fun i =>
    qaQuant (qaMax a.dt) (c % 2 ^ 16) (c / 2 ^ 16 % 256) a.rnd (fp32.decode (elemOf 32 x i)))))).retire 8)

def execVdq (a : VC) (s : State) : Res :=
  let t := s.me
  let c := t.scaleWord a.s2
  let x := t.src .u32 false a.s1
  .next (s.cvtEnd a allLanes (buildReg 32 (fun i =>
    fp32.encode .rne false (qaValue (c % 2 ^ 16) (c / 2 ^ 16 % 256) (elemOf 32 x i % 2 ^ a.st.width)))))

/-! ### Dot products, reductions and scans (R172 to R174) -/

def execVdot4 (a : VA) (s : State) : Res :=
  let t := s.me
  let g := a.ty.signed
  let x := t.src a.ty false a.s1
  let y := t.src2 a.ty false a.s2
  let z := t.src3 .i32 a.s3
  let dot (i : Nat) : Int :=
    ((List.range 4).map (fun b => ival g 8 (elemOf 8 x (4 * i + b)) * ival g 8 (elemOf 8 y (4 * i + b)))).foldl (· + ·)
      (sval 32 (elemOf 32 z i))
  .next ((s.setMe (t.writeDst .i32 a.d (t.mask a.mask) (buildReg 32 (fun i => narrow true a.sat 32 (dot i))))).retire 8)

/-- One reduction step on two elements (R57, R173). -/
def redStep (o : RedOp) (a : VA) (x y : Nat) : Nat :=
  if a.ty.isFlt then fltOp a.ty.fmt a.rnd false o x y
  else intOp a.ty.signed (a.sat && o == .add) a.ty.width o x y

def redIdentity (o : RedOp) (ty : ElTy) : Nat := redIdent ty.isFlt ty.fmt ty.signed ty.width o

def execVred (o : RedOp) (a : VA) (s : State) : Res :=
  let t := s.me
  let w := a.ty.width
  let x := t.src a.ty false a.s1
  let k := t.mask a.mask
  let ident := redIdentity o a.ty
  let es := (List.range (perReg w)).map (fun j => if elemOn k w j then elemOf w x j else ident)
  let r := redStep o a (treeReduce (redStep o a) ident es) (elemOf w (t.src2 a.ty false a.s2) 0)
  .next ((s.setMe (t.writeDst a.ty a.d allLanes r)).retire 8)

/-- One step of the prefix order: element j takes op(y[j - d], y[j]). -/
def scanStep (op : Nat → Nat → Nat) (d : Nat) (y : List Nat) : List Nat :=
  y.take d ++ List.zipWith op y (y.drop d)

/-- The steps d, 2d, 4d, … below the length. -/
def scanRun (op : Nat → Nat → Nat) : Nat → Nat → List Nat → List Nat
  | 0, _, y => y
  | fuel + 1, d, y => if d < y.length then scanRun op fuel (2 * d) (scanStep op d y) else y

def execVscan (o : RedOp) (a : VA) (s : State) : Res :=
  let t := s.me
  let w := a.ty.width
  let x := t.src a.ty false a.s1
  let k := t.mask a.mask
  let y := (List.range (perReg w)).map (fun j => if elemOn k w j then elemOf w x j else redIdentity o a.ty)
  let y0 := match y with
    | [] => []
    | h :: r => redStep o a (elemOf w (t.src2 a.ty false a.s2) 0) h :: r
  .next ((s.setMe (t.writeDst a.ty a.d k (packElems w (scanRun (redStep o a) 8 1 y0)))).retire 8)

/-! ### Permutes (R175, R176) -/

/-- Element 0 of source 2 read as an index or a count. -/
def State.indexOf (s : State) (a : VA) : Nat := elemOf a.ty.width (s.me.src2 a.ty true a.s2) 0

/-- A permute: each active element is found by a function of its number. -/
def State.permute (s : State) (a : VA) (f : Nat → Nat) : State :=
  let t := s.me
  (s.setMe (t.writeDst a.ty a.d (t.mask a.mask) (buildReg a.ty.width f))).retire 8

/-- Element `e` of a source, 0 beyond it. -/
def elemOr0 (w v e : Nat) : Nat := if e < perReg w then elemOf w v e else 0

def execVperm (a : VA) (s : State) : Res :=
  let t := s.me
  let w := a.ty.width
  let n := perReg w
  let x := t.src a.ty false a.s1
  let i := t.src2 a.ty true a.s2
  let z := t.src3 a.ty a.s3
  .next (s.permute a (fun j => let e := elemOf w i j; if e < n then elemOf w x e else elemOr0 w z (e - n)))

def execVshuf (a : VA) (s : State) : Res :=
  let w := a.ty.width
  let x := s.me.src a.ty false a.s1
  .next (s.permute a (fun j => elemOf w x (j ^^^ (s.indexOf a % perReg w))))

def execVslideUp (a : VA) (s : State) : Res :=
  let w := a.ty.width
  let n := perReg w
  let x := s.me.src a.ty false a.s1
  let z := s.me.src3 a.ty a.s3
  let c := s.indexOf a
  .next (s.permute a (fun j => if c ≤ j then elemOf w x (j - c) else if c ≤ n + j then elemOr0 w z (n + j - c) else 0))

def execVslideDown (a : VA) (s : State) : Res :=
  let w := a.ty.width
  let n := perReg w
  let x := s.me.src a.ty false a.s1
  let z := s.me.src3 a.ty a.s3
  let c := s.indexOf a
  .next (s.permute a (fun j => if j + c < n then elemOf w x (j + c) else elemOr0 w z (j + c - n)))

def execVbcast (a : VA) (s : State) : Res :=
  let x := s.me.src a.ty false a.s1
  .next (s.permute a (fun _ => elemOr0 a.ty.width x (s.indexOf a)))

/-- `vins` changes one element; a scalar destination changes only if that is element 0. -/
def execVins (a : VA) (s : State) : Res :=
  let t := s.me
  let w := a.ty.width
  let e := s.indexOf a
  let on := e < perReg w && elemOn (t.mask a.mask) w e
  let v := elemOf w (t.src a.ty false a.s1) 0
  let r := buildReg w (fun j => if on && j == e then v else elemOf w (t.dst a.d) j)
  let full : Vec := BitVec.ofNat 1024 r
  let t1 := match a.d with
    | .v n => t.wv n full
    | .o n => t.wo n full
    | .x n => if on && e == 0 then t.wx n (extElem a.ty v) else t
  .next ((s.setMe (t1.push full)).retire 8)

def execVextr (a : VA) (s : State) : Res :=
  let v := elemOr0 a.ty.width (s.me.src a.ty false a.s1) (s.indexOf a)
  .next ((s.setMe (s.me.writeDst a.ty a.d allLanes v)).retire 8)

end Sys2Proof.Machine
end

