-- ==== Sys2Proof/Machine/VectorMem.lean ====
section
/-! DEFINITION. Vector loads and stores (R177 to R181): the checks of every active element come before any is
performed; elements are performed in ascending order. -/

namespace Sys2Proof.Machine

/-- Element addresses of a form, by element number (R178 to R180). -/
def Slot.eaUnit (t : Slot) (a : VM) (j : Nat) : Word :=
  t.xr a.base + a.off.signExtend 64 + BitVec.ofNat 64 (j * (a.ty.width / 8))
def Slot.eaStride (t : Slot) (a : VM) (j : Nat) : Word :=
  t.xr a.base + BitVec.ofNat 64 j * (match a.idx with | .x n => t.xr n | _ => 0)
def Slot.eaIndex (t : Slot) (a : VM) (j : Nat) : Word := t.xr a.base + sextW 32 (elemOf 32 (t.src .i32 false a.idx) j)

/-- One access of a vector instruction: element number, address, width in bytes. -/
structure VAcc where
  elem : Nat
  va : Word
  n : Nat
  deriving DecidableEq, Repr

/-- The active accesses of an instruction, in ascending element order. -/
def Slot.active (t : Slot) (a : VM) (ea : Nat → Word) : List VAcc :=
  let w := a.ty.width
  ((List.range (perReg w)).filter (elemOn (t.mask a.mask) w)).map (fun j => ⟨j, ea j, w / 8⟩)

/-- The checks of one element that come before any element is performed (R177): alignment, the data pointer, and rights
and pins by the PLB entry at hand. -/
def State.checkElem (s : State) (k : AK) (e : VAcc) : Go :=
  if e.va.toNat % e.n != 0 then .error (s.trap s.cur { cause := k.misalignedCause, tval := e.va, elem := e.elem })
  else
    match ptrCheck k e.va with
    | some c => .error (s.trap s.cur { cause := c, tval := e.va, elem := e.elem })
    | none =>
      if s.atHand s.cur e.va then
        let r := s.reach s.cur k e.va e.n
        match r.2 with
        | .error c => .error (r.1.trap s.cur { cause := c, tval := e.va, elem := e.elem })
        | .ok _ => .ok r.1
      else .ok s

/-- The waited protection reply of one element. -/
def State.waitElem (s : State) (k : AK) (e : VAcc) : Go :=
  let r := s.reach s.cur k e.va e.n
  match r.2 with
  | .error c => .error (r.1.trap s.cur { cause := c, tval := e.va, elem := e.elem })
  | .ok _ => .ok r.1

/-- Every check of a load: no element is performed before all have passed. -/
def State.checkLoads (s : State) (es : List VAcc) : Go := do
  let s1 ← es.foldlM (fun (t : State) e => t.checkElem .load e) (es.foldl (fun t e => t.drainOver s.cur e.va.toNat e.n) s)
  if es.any (fun e => s1.me.heldOver e.va.toNat e.n) then .error (s1.raiseDeferred s.cur)
  else es.foldlM (fun (t : State) e => t.waitElem .load e) s1

/-- Read the elements, all checks passed: their values by element number. -/
def State.readElems (s : State) : List VAcc → Except State (State × List (Nat × Nat))
  | [] => .ok (s, [])
  | e :: r => do
    let (s1, v) ← s.load e.va e.n e.elem
    let (s2, vs) ← s1.readElems r
    .ok (s2, (e.elem, v) :: vs)

/-- A list of keyed values as a register with elements of width `w`. -/
def regOf (w : Nat) (vs : List (Nat × Nat)) : Nat := buildReg w (fun j => (assoc vs j).getD 0)

/-- The destination of a load's data field. -/
def loadDst (d : Src) : Dst :=
  match d with
  | .v n => .v n
  | .o n => .o n
  | _ => .x 0

/-- A vector load: checks, reads, then the destination and the ring. -/
def State.vload (s : State) (a : VM) (ea : Nat → Word) : Go := do
  let es := s.me.active a ea
  let s1 ← s.checkLoads es
  let (s2, vs) ← s1.readElems es
  let t := s2.me
  .ok ((s2.setMe (t.writeDst a.ty (loadDst a.data) (t.mask a.mask) (regOf a.ty.width vs))).retire 8)

def execVld (a : VM) (s : State) : Res := Go.done (s.vload a (s.me.eaUnit a))
def execVlds (a : VM) (s : State) : Res := Go.done (s.vload a (s.me.eaStride a))
def execVldx (a : VM) (s : State) : Res := Go.done (s.vload a (s.me.eaIndex a))

/-! ### Stores -/

/-- Whether an element's store would be held on its reply. -/
def State.wouldHold (s : State) (e : VAcc) : Bool :=
  !s.atHand s.cur e.va && !s.me.heldOver e.va.toNat e.n
    && (match (s.reach s.cur .store e.va e.n).2 with | .error _ => true | .ok _ => false)

/-- A vector store (R177): posted with deferral while its missing elements are no more than the free held-store entries; else it
waits for their replies, and a failure is precise. With more elements to be held than entries it traps before any (R260). -/
def State.vstore (s : State) (a : VM) (ea : Nat → Word) : Go := do
  let t := s.me
  let es := t.active a ea
  let data := t.src a.ty false a.data
  let s0 := s.drain s.cur
  let free := 8 - s0.me.held.length
  let misses := (es.filter (fun e => !s0.atHand s.cur e.va)).length
  let s1 ← es.foldlM (fun (u : State) e => u.checkElem .store e) s0
  let s1 ← if free < misses then es.foldlM (fun (u : State) e => u.waitElem .store e) s1 else .ok s1
  if free < (es.filter (fun e => s1.me.heldOver e.va.toNat e.n || s1.wouldHold e)).length then .error (s1.raiseDeferred s.cur)
  else
    let s2 ← es.foldlM (fun (u : State) e =>
      u.storePlain e.va e.n (BitVec.ofNat 64 (elemOf a.ty.width data e.elem)) e.elem) s1
    .ok (s2.retire 8)

def execVst (a : VM) (s : State) : Res := Go.done (s.vstore a (s.me.eaUnit a))
def execVsts (a : VM) (s : State) : Res := Go.done (s.vstore a (s.me.eaStride a))
def execVstx (a : VM) (s : State) : Res := Go.done (s.vstore a (s.me.eaIndex a))

/-! ### SB48 blocks (R181) -/

/-- Accesses of `vldb`: the active mantissa lanes, then the exponent byte under lane 31. -/
def Slot.blockAccs (t : Slot) (m : BitVec 2) (a : VM) : List VAcc :=
  let base := t.xr a.base + a.off.signExtend 64
  let k := t.mask a.mask
  let mant := ((List.range (6 * (m.toNat + 1))).filter (laneOn k)).map (fun i => (⟨i, base + BitVec.ofNat 64 (4 * i), 4⟩ : VAcc))
  mant ++ (if laneOn k 31 then [⟨31, t.xr (a.base + 1), 1⟩] else [])

def execVldb (m : BitVec 2) (a : VM) (s : State) : Res :=
  Go.done do
    let t := s.me
    let es := t.blockAccs m a
    let base := t.xr a.base + a.off.signExtend 64
    let s0 ←
      match es with
      | e :: _ =>
        if e.n == 4 && base.toNat % 8 != 0 then
          (.error (s.trap s.cur { cause := AK.misalignedCause .load, tval := base, elem := e.elem }) : Go)
        else .ok s
      | [] => .ok s
    let s1 ← s0.checkLoads es
    let (s2, vs) ← s1.readElems es
    let lane (i : Nat) : Nat := if i == 31 then (assoc vs 31).getD 0 * 2 ^ 24 else (assoc vs i).getD 0
    let u := s2.me
    .ok ((s2.setMe (u.writeDst .u32 (loadDst a.data) (u.mask a.mask) (buildReg 32 lane))).retire 8)

end Sys2Proof.Machine
end

