-- ==== Sys2Proof/Machine/Dispatch.lean ====
section
/-! DEFINITION. The one dispatch from instructions to their meanings: one arm per row of the opcode table. -/

namespace Sys2Proof.Machine

def exec (i : Instr) (s : State) : Host.Outcome State Fault Refusal :=
  match i with
  | .lpad k => Sys2Proof.Machine.execLpad k s
  | .callt rd rs1 rs2 => Sys2Proof.Machine.execCallt rd rs1 rs2 s
  | .rett => Sys2Proof.Machine.execRett s
  | .tagp rd rs1 ek => Sys2Proof.Machine.execTagp rd rs1 ek s
  | .tagx rd rs1 => Sys2Proof.Machine.execTagx rd rs1 s
  | .fuse rd n => Sys2Proof.Machine.execFuse rd n s
  | .split => Sys2Proof.Machine.execSplit s
  | .recv rd => Sys2Proof.Machine.execRecv rd s
  | .peek rd => Sys2Proof.Machine.execPeek rd s
  | .wfm rd => Sys2Proof.Machine.execWfm rd s
  | .uiret => Sys2Proof.Machine.execUiret s
  | .yield => Sys2Proof.Machine.execYield s
  | .prio rs1 => Sys2Proof.Machine.execPrio rs1 s
  | .cbld bank rs1 => Sys2Proof.Machine.execCbld bank rs1 s
  | .fenceScope sc => Sys2Proof.Machine.execFenceScope sc s
  | .ldAcq sc w rd rs1 => Sys2Proof.Machine.execLdAcq sc w rd rs1 s
  | .stRel sc w rs1 rs2 => Sys2Proof.Machine.execStRel sc w rs1 rs2 s
  | .amoI64 op sc rd rs1 rs2 => Sys2Proof.Machine.execAmoI64 op sc rd rs1 rs2 s
  | .amoI32 op sc rd rs1 rs2 => Sys2Proof.Machine.execAmoI32 op sc rd rs1 rs2 s
  | .amoCas128 sc rd rs1 rs2 => Sys2Proof.Machine.execAmoCas128 sc rd rs1 rs2 s
  | .amoFaddF32 sc rd rs1 rs2 => Sys2Proof.Machine.execAmoFaddF32 sc rd rs1 rs2 s
  | .amoFadd2Bf16 sc rd rs1 rs2 => Sys2Proof.Machine.execAmoFadd2Bf16 sc rd rs1 rs2 s
  | .bar sc id rd => Sys2Proof.Machine.execBar sc id rd s
  | .barArr sc id rd => Sys2Proof.Machine.execBarArr sc id rd s
  | .barWait sc id rd => Sys2Proof.Machine.execBarWait sc id rd s
  | .jlaunch rd rs1 => Sys2Proof.Machine.execJlaunch rd rs1 s
  | .glaunch rd rs1 => Sys2Proof.Machine.execGlaunch rd rs1 s
  | .gdep rd rs1 rs2 => Sys2Proof.Machine.execGdep rd rs1 rs2 s
  | .ctxSave rd rs1 rs2 => Sys2Proof.Machine.execCtxSave rd rs1 rs2 s
  | .ctxLoad rd rs1 rs2 => Sys2Proof.Machine.execCtxLoad rd rs1 rs2 s
  | .plbInv rd rs1 rs2 => Sys2Proof.Machine.execPlbInv rd rs1 rs2 s
  | .rgnShrink rd rs1 rs2 => Sys2Proof.Machine.execRgnShrink rd rs1 rs2 s
  | .rgnDrain rd rs1 => Sys2Proof.Machine.execRgnDrain rd rs1 s
  | .trapRec rd rs1 rs2 => Sys2Proof.Machine.execTrapRec rd rs1 rs2 s
  | .jalr rd rs1 off => Sys2Proof.Machine.execJalr rd rs1 off s
  | .fence fm pred succ => Sys2Proof.Machine.execFence fm pred succ s
  | .fenceI => Sys2Proof.Machine.execFenceI s
  | .lr dbl aq rl rd rs1 => Sys2Proof.Machine.execLr dbl aq rl rd rs1 s
  | .sc dbl aq rl rd rs1 rs2 => Sys2Proof.Machine.execSc dbl aq rl rd rs1 rs2 s
  | .rvAmo op dbl aq rl rd rs1 rs2 => Sys2Proof.Machine.execRvAmo op dbl aq rl rd rs1 rs2 s
  | .sret => Sys2Proof.Machine.execSret s
  | .mret => Sys2Proof.Machine.execMret s
  | .emulationEntry word len => Sys2Proof.Machine.execEmulationEntry word len s
  | .vadd a => Sys2Proof.Machine.execVadd a s
  | .vsub a => Sys2Proof.Machine.execVsub a s
  | .vmul a => Sys2Proof.Machine.execVmul a s
  | .vmulh a => Sys2Proof.Machine.execVmulh a s
  | .vmadd a => Sys2Proof.Machine.execVmadd a s
  | .vmin a => Sys2Proof.Machine.execVmin a s
  | .vmax a => Sys2Proof.Machine.execVmax a s
  | .vabs a => Sys2Proof.Machine.execVabs a s
  | .vand a => Sys2Proof.Machine.execVand a s
  | .vor a => Sys2Proof.Machine.execVor a s
  | .vxor a => Sys2Proof.Machine.execVxor a s
  | .vandn a => Sys2Proof.Machine.execVandn a s
  | .vsll a => Sys2Proof.Machine.execVsll a s
  | .vsrl a => Sys2Proof.Machine.execVsrl a s
  | .vsra a => Sys2Proof.Machine.execVsra a s
  | .vfadd a => Sys2Proof.Machine.execVfadd a s
  | .vfsub a => Sys2Proof.Machine.execVfsub a s
  | .vfmul a => Sys2Proof.Machine.execVfmul a s
  | .vfma a => Sys2Proof.Machine.execVfma a s
  | .vfmin a => Sys2Proof.Machine.execVfmin a s
  | .vfmax a => Sys2Proof.Machine.execVfmax a s
  | .vfdiv a => Sys2Proof.Machine.execVfdiv a s
  | .vfsqrt a => Sys2Proof.Machine.execVfsqrt a s
  | .vfrcp a => Sys2Proof.Machine.execVfrcp a s
  | .vfrsq a => Sys2Proof.Machine.execVfrsq a s
  | .vfexp2 a => Sys2Proof.Machine.execVfexp2 a s
  | .vflog2 a => Sys2Proof.Machine.execVflog2 a s
  | .vcmp c kd ty mask s1 s2 => Sys2Proof.Machine.execVcmp c kd ty mask s1 s2 s
  | .vsel a => Sys2Proof.Machine.execVsel a s
  | .kand d a b => Sys2Proof.Machine.execKand d a b s
  | .kor d a b => Sys2Proof.Machine.execKor d a b s
  | .kxor d a b => Sys2Proof.Machine.execKxor d a b s
  | .kandn d a b => Sys2Proof.Machine.execKandn d a b s
  | .knot d a => Sys2Proof.Machine.execKnot d a s
  | .kpop xd a => Sys2Proof.Machine.execKpop xd a s
  | .kfirst xd a => Sys2Proof.Machine.execKfirst xd a s
  | .vcvt a => Sys2Proof.Machine.execVcvt a s
  | .vpack a => Sys2Proof.Machine.execVpack a s
  | .vunpack a => Sys2Proof.Machine.execVunpack a s
  | .vqnt a => Sys2Proof.Machine.execVqnt a s
  | .vdq a => Sys2Proof.Machine.execVdq a s
  | .vdot4 a => Sys2Proof.Machine.execVdot4 a s
  | .vred op a => Sys2Proof.Machine.execVred op a s
  | .vscan op a => Sys2Proof.Machine.execVscan op a s
  | .vperm a => Sys2Proof.Machine.execVperm a s
  | .vshuf a => Sys2Proof.Machine.execVshuf a s
  | .vslideUp a => Sys2Proof.Machine.execVslideUp a s
  | .vslideDown a => Sys2Proof.Machine.execVslideDown a s
  | .vbcast a => Sys2Proof.Machine.execVbcast a s
  | .vins a => Sys2Proof.Machine.execVins a s
  | .vextr a => Sys2Proof.Machine.execVextr a s
  | .vld a => Sys2Proof.Machine.execVld a s
  | .vst a => Sys2Proof.Machine.execVst a s
  | .vlds a => Sys2Proof.Machine.execVlds a s
  | .vsts a => Sys2Proof.Machine.execVsts a s
  | .vldx a => Sys2Proof.Machine.execVldx a s
  | .vstx a => Sys2Proof.Machine.execVstx a s
  | .vldb m a => Sys2Proof.Machine.execVldb m a s
  | .ldFe xd xb off => Sys2Proof.Machine.execLdFe xd xb off s
  | .ldFeTake xd xb off => Sys2Proof.Machine.execLdFeTake xd xb off s
  | .stFe xs xb off => Sys2Proof.Machine.execStFe xs xb off s
  | .stFeFill xs xb off => Sys2Proof.Machine.execStFeFill xs xb off s
  | .cpy r => Sys2Proof.Machine.execCpy r s
  | .cpyPlane r => Sys2Proof.Machine.execCpyPlane r s
  | .cpyStat xd => Sys2Proof.Machine.execCpyStat xd s
  | .pf sc xb off => Sys2Proof.Machine.execPf sc xb off s
  | .refLd ty xd hs xo => Sys2Proof.Machine.execRefLd ty xd hs xo s
  | .refSt ty xv hs xo => Sys2Proof.Machine.execRefSt ty xv hs xo s
  | .refLdf hd hs xo => Sys2Proof.Machine.execRefLdf hd hs xo s
  | .refStf hv hs xo => Sys2Proof.Machine.execRefStf hv hs xo s
  | .refAlloc hd xn xt xs => Sys2Proof.Machine.execRefAlloc hd xn xt xs s
  | .refPin xd hs xs => Sys2Proof.Machine.execRefPin xd hs xs s
  | .refUnpin xs hs => Sys2Proof.Machine.execRefUnpin xs hs s
  | .refEq xd ha hb => Sys2Proof.Machine.execRefEq xd ha hb s
  | .refMov toX d hs => Sys2Proof.Machine.execRefMov toX d hs s
  | .refNull hd => Sys2Proof.Machine.execRefNull hd s
  | .refChk hd xv xs xi => Sys2Proof.Machine.execRefChk hd xv xs xi s
  | .kilnGo r => Sys2Proof.Machine.execKilnGo r s
  | .kilnStat xd xk => Sys2Proof.Machine.execKilnStat xd xk s
  | .subAdd r => Sys2Proof.Machine.execSubAdd r s
  | .subDrop xd xe => Sys2Proof.Machine.execSubDrop xd xe s
  | .subFlush xd => Sys2Proof.Machine.execSubFlush xd s
  | .subStat xd xe => Sys2Proof.Machine.execSubStat xd xe s
  | .raceRd r => Sys2Proof.Machine.execRaceRd r s
  | .mxTile r => Sys2Proof.Machine.execMxTile r s
  | .mxTileAcc r => Sys2Proof.Machine.execMxTileAcc r s
  | .mxSort r => Sys2Proof.Machine.execMxSort r s
  | .mxTopk r => Sys2Proof.Machine.execMxTopk r s
  | .mxStat xd => Sys2Proof.Machine.execMxStat xd s
  | .grpForm xd xb => Sys2Proof.Machine.execGrpForm xd xb s
  | .grpDrop xd xh => Sys2Proof.Machine.execGrpDrop xd xh s
  | .collAllreduce ty r => Sys2Proof.Machine.execCollAllreduce ty r s
  | .collRedscatter ty r => Sys2Proof.Machine.execCollRedscatter ty r s
  | .collAllgather ty r => Sys2Proof.Machine.execCollAllgather ty r s
  | .collBcast ty r => Sys2Proof.Machine.execCollBcast ty r s
  | .collAlltoall ty r => Sys2Proof.Machine.execCollAlltoall ty r s
  | .collCancel xd xh => Sys2Proof.Machine.execCollCancel xd xh s
  | .elNop w => Sys2Proof.Machine.execElNop w s
  | .elMov w => Sys2Proof.Machine.execElMov w s
  | .elSel w => Sys2Proof.Machine.execElSel w s
  | .elSteer w => Sys2Proof.Machine.execElSteer w s
  | .elRepl w => Sys2Proof.Machine.execElRepl w s
  | .elAdd w => Sys2Proof.Machine.execElAdd w s
  | .elSub w => Sys2Proof.Machine.execElSub w s
  | .elMul w => Sys2Proof.Machine.execElMul w s
  | .elMulh w => Sys2Proof.Machine.execElMulh w s
  | .elMac w => Sys2Proof.Machine.execElMac w s
  | .elMin w => Sys2Proof.Machine.execElMin w s
  | .elMax w => Sys2Proof.Machine.execElMax w s
  | .elAbs w => Sys2Proof.Machine.execElAbs w s
  | .elNeg w => Sys2Proof.Machine.execElNeg w s
  | .elAnd w => Sys2Proof.Machine.execElAnd w s
  | .elOr w => Sys2Proof.Machine.execElOr w s
  | .elXor w => Sys2Proof.Machine.execElXor w s
  | .elAndn w => Sys2Proof.Machine.execElAndn w s
  | .elNot w => Sys2Proof.Machine.execElNot w s
  | .elSll w => Sys2Proof.Machine.execElSll w s
  | .elSrl w => Sys2Proof.Machine.execElSrl w s
  | .elSra w => Sys2Proof.Machine.execElSra w s
  | .elCmpEq w => Sys2Proof.Machine.execElCmpEq w s
  | .elCmpNe w => Sys2Proof.Machine.execElCmpNe w s
  | .elCmpLt w => Sys2Proof.Machine.execElCmpLt w s
  | .elCmpLe w => Sys2Proof.Machine.execElCmpLe w s
  | .elFadd w => Sys2Proof.Machine.execElFadd w s
  | .elFsub w => Sys2Proof.Machine.execElFsub w s
  | .elFmul w => Sys2Proof.Machine.execElFmul w s
  | .elFma w => Sys2Proof.Machine.execElFma w s
  | .elFmin w => Sys2Proof.Machine.execElFmin w s
  | .elFmax w => Sys2Proof.Machine.execElFmax w s
  | .elFcmpEq w => Sys2Proof.Machine.execElFcmpEq w s
  | .elFcmpLt w => Sys2Proof.Machine.execElFcmpLt w s
  | .elFcmpLe w => Sys2Proof.Machine.execElFcmpLe w s
  | .elFcmpUn w => Sys2Proof.Machine.execElFcmpUn w s
  | .elVredAdd w => Sys2Proof.Machine.execElVredAdd w s
  | .elVredMin w => Sys2Proof.Machine.execElVredMin w s
  | .elVredMax w => Sys2Proof.Machine.execElVredMax w s
  | .elVredFadd w => Sys2Proof.Machine.execElVredFadd w s
  | .elVredFmin w => Sys2Proof.Machine.execElVredFmin w s
  | .elVredFmax w => Sys2Proof.Machine.execElVredFmax w s
  | .elVextr w => Sys2Proof.Machine.execElVextr w s
  | .elVins w => Sys2Proof.Machine.execElVins w s
  | .elSettag w => Sys2Proof.Machine.execElSettag w s
  | .elEndtest w => Sys2Proof.Machine.execElEndtest w s
  | .elCsacc w => Sys2Proof.Machine.execElCsacc w s
  | .elCsadd w => Sys2Proof.Machine.execElCsadd w s
  | .scrub corrected => Sys2Proof.Machine.execScrub corrected s
  | .configReload error => Sys2Proof.Machine.execConfigReload error s
  | .streamWrite qp addr data => Sys2Proof.Machine.execStreamWrite qp addr data s
  | .streamResume port => Sys2Proof.Machine.execStreamResume port s
  | .rdmaWrite qp key addr data => Sys2Proof.Machine.execRdmaWrite qp key addr data s
  | .rdmaRead qp key addr len => Sys2Proof.Machine.execRdmaRead qp key addr len s
  | .cmMad qp m => Sys2Proof.Machine.execCmMad qp m s
  | .unsupportedRequest qp r => Sys2Proof.Machine.execUnsupportedRequest qp r s
  | .ecnMarkedPacket qp => Sys2Proof.Machine.execEcnMarkedPacket qp s
  | .pfcPause prio on => Sys2Proof.Machine.execPfcPause prio on s
  | .replicaCollapse va => Sys2Proof.Machine.execReplicaCollapse va s
  | .trapEntry loc cause tval => Sys2Proof.Machine.execTrapEntry loc cause tval s
  | .fabricTrapRaise cause va => Sys2Proof.Machine.execFabricTrapRaise cause va s
  | .pdrightsWrite c => Sys2Proof.Machine.execPdrightsWrite c s
  | .quantumWrite c => Sys2Proof.Machine.execQuantumWrite c s
  | .matrixCsrWrite c => Sys2Proof.Machine.execMatrixCsrWrite c s
  | .prridxWrite c => Sys2Proof.Machine.execPrridxWrite c s
  | .tcqWrite c => Sys2Proof.Machine.execTcqWrite c s
  | .csrWrite c => Sys2Proof.Machine.execCsrWrite c s
  | .selftestComplete pass => Sys2Proof.Machine.execSelftestComplete pass s
  | .thermalThrottle cluster level => Sys2Proof.Machine.execThermalThrottle cluster level s
  | .getStatus p => Sys2Proof.Machine.execGetStatus p s
  | .readLog p page => Sys2Proof.Machine.execReadLog p page s
  | .loadImage p image => Sys2Proof.Machine.execLoadImage p image s
  | .reset p => Sys2Proof.Machine.execReset p s
  | .getIdentity p => Sys2Proof.Machine.execGetIdentity p s
  | .attest p nonce => Sys2Proof.Machine.execAttest p nonce s
  | .setPowerCap p watts => Sys2Proof.Machine.execSetPowerCap p watts s
  | .podNumberAssign n => Sys2Proof.Machine.execPodNumberAssign n s
  | .linkFlitReplay link => Sys2Proof.Machine.execLinkFlitReplay link s
  | .linkDown link => Sys2Proof.Machine.execLinkDown link s
  | .tickSync t => Sys2Proof.Machine.execTickSync t s
  | .plainStore st => Sys2Proof.Machine.execPlainStore st s
  | .scalarLoad ld => Sys2Proof.Machine.execScalarLoad ld s
  | .rv64BaseInstruction r => Sys2Proof.Machine.execRv64BaseInstruction r s
  | .tokenArrival => Sys2Proof.Machine.execTokenArrival s
  | .creditReturn => Sys2Proof.Machine.execCreditReturn s
  | .phaseEnd => Sys2Proof.Machine.execPhaseEnd s
  | .streamWalkStart => Sys2Proof.Machine.execStreamWalkStart s
  | .streamPoint => Sys2Proof.Machine.execStreamPoint s
  | .memSkip => Sys2Proof.Machine.execMemSkip s
  | .memLoad => Sys2Proof.Machine.execMemLoad s
  | .memStore => Sys2Proof.Machine.execMemStore s
  | .memIndexedLoad => Sys2Proof.Machine.execMemIndexedLoad s
  | .memIndexedStore => Sys2Proof.Machine.execMemIndexedStore s
  | .memRmw => Sys2Proof.Machine.execMemRmw s
  | .memIndexedRmw => Sys2Proof.Machine.execMemIndexedRmw s
  | .orderedRequestPerform => Sys2Proof.Machine.execOrderedRequestPerform s
  | .memReply => Sys2Proof.Machine.execMemReply s
  | .joinFire => Sys2Proof.Machine.execJoinFire s
  | .loopStart => Sys2Proof.Machine.execLoopStart s
  | .loopDoneToken => Sys2Proof.Machine.execLoopDoneToken s
  | .loopExitToken => Sys2Proof.Machine.execLoopExitToken s
  | .iterationRetire => Sys2Proof.Machine.execIterationRetire s
  | .carryForward => Sys2Proof.Machine.execCarryForward s
  | .collectStep => Sys2Proof.Machine.execCollectStep s
  | .convFire => Sys2Proof.Machine.execConvFire s
  | .normFire => Sys2Proof.Machine.execNormFire s
  | .dsqEnter => Sys2Proof.Machine.execDsqEnter s
  | .dsqExit => Sys2Proof.Machine.execDsqExit s
  | .callNodeFire => Sys2Proof.Machine.execCallNodeFire s
  | .callNodeReturn => Sys2Proof.Machine.execCallNodeReturn s
  | .callbackEntry => Sys2Proof.Machine.execCallbackEntry s
  | .callbackPoolAssign => Sys2Proof.Machine.execCallbackPoolAssign s
  | .poolTimeout => Sys2Proof.Machine.execPoolTimeout s
  | .frameRead => Sys2Proof.Machine.execFrameRead s
  | .frameWrite => Sys2Proof.Machine.execFrameWrite s
  | .frameEnd => Sys2Proof.Machine.execFrameEnd s
  | .frameOpen => Sys2Proof.Machine.execFrameOpen s
  | .frameSlotFree => Sys2Proof.Machine.execFrameSlotFree s
  | .frameOrphaned => Sys2Proof.Machine.execFrameOrphaned s
  | .fabricStall => Sys2Proof.Machine.execFabricStall s
  | .ingressTake => Sys2Proof.Machine.execIngressTake s
  | .egressWrite => Sys2Proof.Machine.execEgressWrite s
  | .egressEndOfStream => Sys2Proof.Machine.execEgressEndOfStream s
  | .ringWaitExpiry => Sys2Proof.Machine.execRingWaitExpiry s
  | .sinkConsume => Sys2Proof.Machine.execSinkConsume s
  | .mxportFire => Sys2Proof.Machine.execMxportFire s
  | .mxportCompletion => Sys2Proof.Machine.execMxportCompletion s
  | .accUpdate => Sys2Proof.Machine.execAccUpdate s
  | .dispatchBind => Sys2Proof.Machine.execDispatchBind s
  | .poolTake => Sys2Proof.Machine.execPoolTake s
  | .threadAged => Sys2Proof.Machine.execThreadAged s
  | .threadExit => Sys2Proof.Machine.execThreadExit s
  | .jobComplete => Sys2Proof.Machine.execJobComplete s
  | .startTickReached => Sys2Proof.Machine.execStartTickReached s
  | .gangDecision => Sys2Proof.Machine.execGangDecision s
  | .gangStart => Sys2Proof.Machine.execGangStart s
  | .launchWaitExpiry => Sys2Proof.Machine.execLaunchWaitExpiry s
  | .entryDone => Sys2Proof.Machine.execEntryDone s
  | .configPlace => Sys2Proof.Machine.execConfigPlace s
  | .configRetry => Sys2Proof.Machine.execConfigRetry s
  | .regionLoad => Sys2Proof.Machine.execRegionLoad s
  | .uncorrectableError => Sys2Proof.Machine.execUncorrectableError s
  | .ptpMessage => Sys2Proof.Machine.execPtpMessage s
  | .completionRecord => Sys2Proof.Machine.execCompletionRecord s
  | .protectionRequest => Sys2Proof.Machine.execProtectionRequest s
  | .protectionReply => Sys2Proof.Machine.execProtectionReply s
  | .remoteTimeout => Sys2Proof.Machine.execRemoteTimeout s
  | .feTimeout => Sys2Proof.Machine.execFeTimeout s
  | .inboxMessageArrival => Sys2Proof.Machine.execInboxMessageArrival s
  | .calltReturn => Sys2Proof.Machine.execCalltReturn s
  | .graphCallTimeout => Sys2Proof.Machine.execGraphCallTimeout s
  | .waitlimExpiry => Sys2Proof.Machine.execWaitlimExpiry s
  | .copyCommandStart => Sys2Proof.Machine.execCopyCommandStart s
  | .copyCompletion => Sys2Proof.Machine.execCopyCompletion s
  | .mxuArbitrate => Sys2Proof.Machine.execMxuArbitrate s
  | .fillWaitTimeout => Sys2Proof.Machine.execFillWaitTimeout s
  | .tileCompletion => Sys2Proof.Machine.execTileCompletion s
  | .sortCompletion => Sys2Proof.Machine.execSortCompletion s
  | .mxuParityError => Sys2Proof.Machine.execMxuParityError s
  | .kilnInstall => Sys2Proof.Machine.execKilnInstall s
  | .kilnMove => Sys2Proof.Machine.execKilnMove s
  | .kilnFault => Sys2Proof.Machine.execKilnFault s
  | .kilnReport => Sys2Proof.Machine.execKilnReport s
  | .pinWaitTimeout => Sys2Proof.Machine.execPinWaitTimeout s
  | .subSyncCopy => Sys2Proof.Machine.execSubSyncCopy s
  | .packetFlush => Sys2Proof.Machine.execPacketFlush s
  | .packetTimerExpiry => Sys2Proof.Machine.execPacketTimerExpiry s
  | .packetApply => Sys2Proof.Machine.execPacketApply s
  | .subDrained => Sys2Proof.Machine.execSubDrained s
  | .barrierComplete => Sys2Proof.Machine.execBarrierComplete s
  | .groupDecision => Sys2Proof.Machine.execGroupDecision s
  | .collContribution => Sys2Proof.Machine.execCollContribution s
  | .collCommit => Sys2Proof.Machine.execCollCommit s
  | .collAbort => Sys2Proof.Machine.execCollAbort s
  | .collGroupTimeout => Sys2Proof.Machine.execCollGroupTimeout s
  | .collMemberLost => Sys2Proof.Machine.execCollMemberLost s
  | .userInterruptDelivery => Sys2Proof.Machine.execUserInterruptDelivery s
  | .quantumExpiry => Sys2Proof.Machine.execQuantumExpiry s
  | .parkedMessageAppend => Sys2Proof.Machine.execParkedMessageAppend s
  | .fabricTrapDelivery => Sys2Proof.Machine.execFabricTrapDelivery s
  | .shrinkPoint => Sys2Proof.Machine.execShrinkPoint s
  | .shrinkBudgetExpiry => Sys2Proof.Machine.execShrinkBudgetExpiry s
  | .scanOut => Sys2Proof.Machine.execScanOut s
  | .regionRestore => Sys2Proof.Machine.execRegionRestore s
  | .resumeInPlace => Sys2Proof.Machine.execResumeInPlace s
  | .regionQuantumExpiry => Sys2Proof.Machine.execRegionQuantumExpiry s
  | .occupancyRound => Sys2Proof.Machine.execOccupancyRound s
  | .drainQuiescence => Sys2Proof.Machine.execDrainQuiescence s
  | .plbInvComplete => Sys2Proof.Machine.execPlbInvComplete s
  | .spimgSave => Sys2Proof.Machine.execSpimgSave s
  | .spimgRestore => Sys2Proof.Machine.execSpimgRestore s
  | .standbyRailOn => Sys2Proof.Machine.execStandbyRailOn s
  | .standbyRailLost => Sys2Proof.Machine.execStandbyRailLost s
  | .firmwareVerify => Sys2Proof.Machine.execFirmwareVerify s
  | .thermalTrip => Sys2Proof.Machine.execThermalTrip s
  | .timerInterrupt => Sys2Proof.Machine.execTimerInterrupt s
  | .externalInterrupt => Sys2Proof.Machine.execExternalInterrupt s
  | .lostMemberReached => Sys2Proof.Machine.execLostMemberReached s

end Sys2Proof.Machine
end

