-- ==== Sys2Proof/Machine/Sched.lean ====
section
/-! DEFINITION. What one step is made of: the issue of a thread (R126 to R128), the lock-step of a gang (R140), the firing of an element (R185), the passing of a cycle, and the turn that is taken. The head of the agenda is the turn; with an empty
agenda the machine takes its turns by a policy of its own (log 8). In one cycle a core issues once, an element fires once and a
step happens once at its agent; before a cycle passes, every core with a ready thread has issued. -/

namespace Sys2Proof.Machine

/-! ### The instruction a thread executes -/

/-- The instruction in progress of a thread or its gang: that of a member which waits. -/
def State.inProgress (s : State) (loc : Nat) : Option Instr :=
  (s.fellows loc).findSome? (fun m => if (s.slot m).wait.isSome then (s.slot m).current else none)

/-- What a thread executes in its turn: the instruction in progress while it waits, or a member of its gang does, else the next one. -/
def State.nextInstr (s : State) (loc : Nat) : State × Instr :=
  match s.inProgress loc with
  | some i => (s, i)
  | none => s.fetchInstr loc

/-- The state in which a thread's instruction executes: it is in progress on every member of a gang. -/
def State.issuing (s : State) (loc : Nat) : State × Instr :=
  let r := ({ s with cur := loc } : State).nextInstr loc
  ((s.fellows loc).foldl (fun u l => u.modSlot l (fun t => { t with current := some r.2 })) r.1, r.2)

/-! ### Gangs (R140) -/

/-- The members of a thread's gang that execute: those still in a wait, or all of them. -/
def State.gangRunners (s : State) (loc : Nat) : List Nat :=
  let ms := s.fellows loc
  let ws := ms.filter (fun m => (s.slot m).wait.isSome)
  if ws.isEmpty then ms else ws

/-- A member's part of an instruction once the leader has executed it: branches and jumps go where the leader went. -/
def State.follow (s : State) (leader : Nat) (i : Instr) : Res :=
  let target := (s.slot leader).pc
  match i with
  | .jalr rd _ _ => Go.done (s.transfer target (·.setX rd (s.me.pc + 4)))
  | .rv64BaseInstruction (.jal rd _) => Go.done (s.transfer target (·.setX rd (s.me.pc + 4)))
  | .rv64BaseInstruction (.br _ _ _ _) => Go.done (s.transfer target id)
  | _ => exec i s

/-- Whether an execution ended in a trap of the member: its record is new, or it neither retired nor waits. The word that writes
`minstret` tells by its pc. -/
def trapped (i : Instr) (before after : Slot) : Bool :=
  before.trapRec != after.trapRec
    || (match i with
        | .emulationEntry _ _ => false
        | .csrWrite c => if c.csr == 0xB02 then after.pc != before.pc + 4 else before.instret == after.instret && after.wait.isNone
        | _ => before.instret == after.instret && after.wait.isNone)

/-- A trap of one member, taken by every member at the instruction it was raised at. -/
def State.gangTrap (s0 : State) (m : Nat) (after : Slot) : State :=
  match after.trapRec with
  | none => s0
  | some r =>
    (s0.drain m).trap m { cause := r.cause.toNat, tval := r.tval, elem := r.elem.toNat, amo := r.amo.toNat, frame := r.frame }

/-- The members execute in the order of their cores; a trap undoes what those before it did. -/
def State.gangRun (s0 : State) (leader : Nat) (i : Instr) : List Nat → State → Res
  | [], s => .next s
  | m :: ms, s =>
    let b : State := { s with cur := m }
    match (if m == leader then exec i b else b.follow leader i) with
    | .next t => if trapped i (b.slot m) (t.slot m) then .next (s0.gangTrap m (t.slot m)) else s0.gangRun leader i ms t
    | o => o

/-- What `recv` and `wfm` write when their wait expires; they complete on every member together. -/
def jointExpiry : Instr → Option Expiry
  | .recv rd => some { xs := [(pairLo rd, 0), (pairHi rd, noMessage .timeout)] }
  | .wfm rd => some { xs := [(rd, Status.timeout.word)] }
  | _ => none

/-- The barrier at which an instruction arrives. -/
def arrivesAt : Instr → Option (Scope × Nat)
  | .bar sc id _ | .barArr sc id _ => some (sc, id.toNat)
  | _ => none

/-- What comes before an arrival, on the members of a gang in turn: whether some of them still wait. A trap of one is a trap of all. -/
def State.gangGate (s0 : State) (sc : Scope) (id : Nat) : List Nat → State → Bool → Except State (State × Bool)
  | [], s, w => .ok (s, w)
  | m :: ms, s, w =>
    match ({ s with cur := m } : State).barGate sc id with
    | .ok p => s0.gangGate sc id ms p.1 w
    | .error t => if (t.slot m).wait.isSome then s0.gangGate sc id ms t true else .error (s0.gangTrap m (t.slot m))

/-- The members of a gang arrive at a barrier in one cycle (R353): while what comes before holds one of them, all wait. -/
def State.gangArrives (s : State) (loc : Nat) (i : Instr) (ms : List Nat) : Res :=
  match arrivesAt i with
  | none => s.gangRun loc i ms s
  | some (sc, id) =>
    if ms.any (fun m => (s.slot m).wait.any (fun w => w.kind == .barrier)) then s.gangRun loc i ms s
    else
      match s.gangGate sc id ms s false with
      | .error t => .next t
      | .ok (_, false) => s.gangRun loc i ms s
      | .ok (t, true) =>
        .next (ms.foldl (fun u m => if (u.slot m).wait.isSome then u else ({ u with cur := m } : State).waitOpen .transit) t)

/-- One turn of a gang. `recv` and `wfm` complete when every member has a message; otherwise all wait, under one limit, unless a
member traps. -/
def State.gangIssue (s : State) (loc : Nat) (i : Instr) : Res :=
  let ms := s.gangRunners loc
  match s.gangArrives loc i ms, jointExpiry i with
  | .next t, some e =>
    if (t.slot loc).trapRec != (s.slot loc).trapRec
        || ms.all (fun m => !(s.slot m).mail.isEmpty && (t.slot m).wait.isNone) then .next t
    else
      .next (ms.foldl (fun u m => ({ u with cur := m } : State).waitFor .inbox (s.slot loc).u.waitlim.toNat e)
        (ms.foldl State.drain s))
  | r, _ => r

/-- Whether an instruction of a gang's leader executes on every member. -/
def gangWide : Instr → Bool
  | .trapEntry _ _ _ | .threadExit => false
  | _ => true

/-! ### Readiness and choice (R126, R127, R150) -/

/-- The thread a core chooses among its ready ones (R127, R150). -/
def State.choose (s : State) (core : Nat) : Option Nat :=
  let ready := ((List.range 4).map (fun i => core * 4 + i)).filter s.ready
  let others := ready.filter (fun l => (s.core core).yielded != some (l % 4))
  let ts := if others.isEmpty then ready else others
  match ts.find? (fun l => (s.slot l).aged) with
  | some l => some l
  | none =>
    let top := ts.foldl (fun m l => max m (s.slot l).level) 0
    let ls := ts.filter (fun l => (s.slot l).level == top)
    let after := match assoc (s.core core).lastIssue top with
      | some i => ls.find? (fun l => i < l % 4)
      | none => none
    match after with
    | some l => some l
    | none => ls.head?

/-- The thread that issues on a core: the choice of the lowest core of its cluster, up to itself, whose choice takes in this core. A
gang's instruction comes in place of a member core's own choice (R140). -/
def State.issuer (s : State) (core : Nat) : Option Nat :=
  ((List.range (core % 8 + 1)).map (core / 8 * 8 + ·)).findSome? (fun c =>
    (s.choose c).filter (fun l => ((s.fellows l).map coreOf).contains core))

/-- The thread of a core that has still to issue in this cycle. -/
def State.owed (s : State) : Option Nat := ((s.slots.map (fun e => coreOf e.1)).eraseDups).findSome? s.issuer

/-! ### Issue -/

/-- Whether a thread's quantum has run out in a way that acts on it now (R375). -/
def State.quantumDue (s : State) (loc : Nat) : Bool :=
  let t := s.slot loc
  bitW t.sc.quantum 63 && t.quantumEff ≤ t.quantumUsed &&
    (if (s.fellows loc).any (fun l => !(s.slot l).held.isEmpty) then !s.servesHeld loc
     else !bitW t.sc.quantum 61 || s.interruptible loc 17)

/-- What a thread does at an instruction boundary in the place of its next instruction: a pending interrupt that it can
take, the end of its quantum, a user interrupt (R146, R369, R375, R377). -/
def State.dueAt (s : State) (loc : Nat) : Option Instr :=
  let t := s.slot loc
  let takes (c : Nat) : Bool := bitW t.rv.mip c && s.interruptible loc c
  if takes 9 || takes 1 then some .externalInterrupt
  else if takes 5 then some .timerInterrupt
  else if s.takesFabricTrap loc then some .fabricTrapDelivery
  else if s.quantumDue loc then some .quantumExpiry
  else if s.userInterruptible loc then some .userInterruptDelivery
  else none

/-- The first member of a thread's gang, or the thread, at which something else comes before the next instruction. -/
def State.dueHere (s : State) (loc : Nat) : Option (Nat × Instr) :=
  (s.fellows loc).findSome? (fun l => (s.dueAt l).map (fun i => (l, i)))

/-- A step taken from a state: what it lacks of another package is asked for first (R246). -/
def State.took (s : State) (r : Res) : Res :=
  match r with
  | .next t => .next (s.farStep t)
  | o => o

/-- Threads that do not wait yet wait for another package's answer, which a fetch asks for (R246). -/
def State.awaitAnswer (s : State) (locs : List Nat) : State :=
  locs.foldl (fun u l => if (u.slot l).wait.isSome then u else { ({ u with cur := l } : State).waitOpen .remote with cur := u.cur }) s

/-- Whether a thread waits for the word that it fetches from another package, with no instruction in progress. -/
def State.fetching (s : State) (loc : Nat) : Bool :=
  (s.inProgress loc).isNone && (s.slot loc).wait.any (fun w => w.kind == .remote)

/-- A thread executes an instruction, with its gang if it has one. Where a fetch of it lacks another package's answer, it is in progress
and waits. -/
def State.executes (s : State) (loc : Nat) (i : Instr) : Res :=
  let wide := (s.slot loc).gang.isSome && gangWide i
  match (if wide then s.gangIssue loc i else exec i s) with
  | .next t =>
    match t.miss with
    | none => .next (s.farStep t)
    | some a => .next ((s.sendAsk a).awaitAnswer (if wide then s.gangRunners loc else [loc]))
  | o => o

/-- A thread executes its next instruction or the one in progress, or what comes before it. A thread whose word comes from another
package waits for it, and is ready again when it has come. -/
def State.execute (s : State) (loc : Nat) : Res :=
  match s.dueHere loc with
  | some (l, i) => let b : State := { s with cur := l, sub := 0 }; b.took (exec i b)
  | none =>
    let r := s.issuing loc
    match r.1.miss with
    | some a => .next (((s.sendAsk a).modSlot loc (fun t => { t with current := none })).awaitAnswer [loc])
    | none => if s.fetching loc then .next (s.dropWait loc) else (s.farStep r.1).executes loc r.2

/-- Aging of a ready thread that another of its core's threads is chosen before (R127). -/
def State.passOver (s : State) (loc : Nat) (t : Slot) : Slot :=
  { t with issWait := t.issWait + 1, aged := t.aged || (60 ≤ t.issWait + 1 && !s.starved loc) }

/-- What an issue leaves in the counts of its core, and of no member core of a gang (R127, R128). A `yield` on a core of it has had its
cycle (R150). -/
def State.counted (s : State) (loc : Nat) : State :=
  let c := coreOf loc
  let cs := (s.fellows loc).map coreOf
  let count (e : Nat × Slot) : Nat × Slot :=
    if e.1 == loc then (e.1, { e.2 with issWait := 0, aged := false })
    else if coreOf e.1 == c && s.able e.1 then (e.1, s.passOver e.1 e.2)
    else e
  let s1 : State := { s with slots := s.slots.map count, issued := s.issued ++ cs }
  (cs.foldl (fun u k => u.modCore k (fun x => { x with yielded := none })) s1).modCore c (fun k =>
      { k with lastIssue := assocSet k.lastIssue (s.slot loc).level (loc % 4) })

/-- A thread issues in this cycle. -/
def State.issue (s : State) (loc : Nat) : Res := (s.counted loc).execute loc

/-! ### Firing (R185) -/

/-- The words in the instruction slots of a node's current phase, lowest first (R185). -/
def Fire.words (f : Fire) : List (ElOp × TWord) :=
  (f.n.instrs.getD (f.r.phase f.n f.fs - f.n.ctx0) []).filterMap (fun w =>
    (elOpOf w.toNat).map (fun o => (o, TWord.of w.toNat)))

/-- The candidates of an element in their rotating order: contexts ascending, then frame slots, from after the pair that fired last
(R185). -/
def Region.rotation (r : Region) (elem : Nat) : List (NodeRec × Nat) :=
  let start := match r.last.find? (fun l => l.1 == elem) with
    | some l => 4 * l.2.1 + l.2.2 + 1
    | none => 0
  (List.range 16).filterMap (fun k =>
    let p := (start + k) % 16
    (r.nodes.find? (fun n => n.elem == elem && n.ctx0 == p / 4)).map (fun n => (n, p % 4)))

/-- The instruction of a candidate's lowest-numbered eligible slot, with the candidate's site. -/
def State.eligible (s : State) (x : Site) : Option (Site × Instr) :=
  match ({ s with site := x } : State).candidate 0 with
  | none => none
  | some f => (f.words.find? (fun p => f.eligible p.2 (f.drives p.1 p.2))).map (fun p => (x, p.1.mk p.2))

/-- The steps of special nodes by which their elements fire (R220). -/
def nodeSteps : List Instr :=
  [.streamWalkStart, .streamPoint, .memSkip, .memLoad, .memStore, .memIndexedLoad, .memIndexedStore, .memRmw,
   .memIndexedRmw, .joinFire, .loopStart, .loopDoneToken, .loopExitToken, .iterationRetire, .carryForward, .collectStep,
   .convFire, .normFire, .dsqEnter, .dsqExit, .callNodeFire, .callNodeReturn, .frameRead, .frameWrite, .frameEnd, .ingressTake,
   .egressWrite, .egressEndOfStream, .sinkConsume, .mxportFire, .accUpdate]

/-- The step by which a special node fires at a site: one that is asked for, or the first of the table. -/
def State.nodeStep (s : State) (x : Site) (wish : List Instr) : Option (Site × Instr) :=
  let u : State := { s with site := x }
  ((wish ++ nodeSteps).find? (fun i => match exec i u with | .next t => t != u | _ => false)).map (fun i => (x, i))

/-- The turn of the element of the site's node: the first candidate of its rotation that fires does, an element node by an eligible
slot, a special node by a step (R185, R220). `wish` is the step asked for at the site. -/
def State.fireTurn (s : State) (wish : List Instr) : Res :=
  match s.siteNode with
  | none => .next s
  | some f =>
    match (f.r.rotation f.n.elem).findSome? (fun p =>
        let x : Site := ⟨f.r.num, p.1.id, p.2⟩
        if p.1.kind == 0 then s.eligible x else s.nodeStep x (if x == s.site then wish else [])) with
    | none => .next s
    | some (x, i) => let u : State := { s with site := x }; u.took (exec i u)

/-- Whether an instruction is a step of the table with no word, which a turn may name; the two that only a fetch leads to
are taken there, and a binding as a cycle passes. -/
def Instr.isStep (i : Instr) : Bool :=
  match i with
  | .trapEntry _ _ _ | .emulationEntry _ _ | .dispatchBind => false
  | _ => (encode32 i).isNone && (encodeX i).isNone && i.element.isNone

/-- The steps that happen outside RUNNING too: those of Colophon, of the rail and of the pod (R421 to R427). -/
def Instr.unpowered : Instr → Bool
  | .standbyRailOn | .standbyRailLost | .selftestComplete _ | .firmwareVerify | .getStatus _ | .readLog _ _ | .loadImage _ _
  | .reset _ | .getIdentity _ | .attest _ _ | .setPowerCap _ _ | .podNumberAssign _ | .linkDown _ | .tickSync _ => true
  | _ => false

/-- The state in which a step happens at its agent. -/
def State.atAgent (s : State) (cur sub : Nat) (x : Site) : State := { s with cur := cur, sub := sub, site := x }

/-- One turn. A poll of an instruction in progress, or an access, message or configuration from outside, is taken as it comes; a core
issues the thread that R127 chooses on it. -/
def State.takeTurn (s : State) (t : Turn) : Res :=
  match t with
  | .issue loc =>
    if s.polls loc then s.execute loc
    else match s.issuer (coreOf loc) with
      | some l => s.issue l
      | none => .next s
  | .fire rgn node fs => ({ s with site := ⟨rgn, node, fs⟩ } : State).fireTurn []
  | .event i cur sub x =>
    if !Instr.isStep i || !(s.col.power == .running || Instr.unpowered i) then .next s
    else if nodeSteps.contains i && x.fs < 4 then (s.atAgent cur sub x).fireTurn [i]
    else let u := s.atAgent cur sub x; u.took (exec i u)
  | .setup c => .next (if s.portUp then s.setUp c else s)
  | .arrive a => .next (if s.linked then s.serveFar a else s)
  | .reply r => .next (if s.linked then { s with remote := s.remote ++ [r] } else s)
  | .told m => .next (if s.linked then s.hear m else s)
  | .hostSend qp _ => .next (s.hostSend qp)

/-! ### The passing of a cycle -/

/-- The element that a turn fires, with its region. -/
def State.elementOf (s : State) (t : Turn) : Option (Nat × Nat) :=
  let at' (rgn node : Nat) : Option (Nat × Nat) := ((s.region rgn).bind (fun r => r.node? node)).map (fun n => (rgn, n.elem))
  match t with
  | .fire rgn node _ => at' rgn node
  | .event i _ _ x => if nodeSteps.contains i then at' x.rgn x.node else none
  | _ => none

/-- Whether a turn has to wait for the next cycle: its core has issued, its element has fired, or it has been taken. -/
def State.mustPass (s : State) (t : Turn) : Bool :=
  match t with
  | .issue loc => if s.polls loc then s.done.contains t else s.issued.contains (coreOf loc)
  | t => s.done.contains t || (s.elementOf t).any (fun e => s.done.any (fun d => s.elementOf d == some e))

/-- A turn is noted as taken in this cycle; an issue is noted by its core. -/
def State.note (s : State) (t : Turn) : State :=
  match t with
  | .issue loc => if s.polls loc then { s with done := s.done ++ [t] } else s
  | t => { s with done := s.done ++ [t] }

/-- Whether something is sent over the Wezil links. -/
def Out.onLink : Out → Bool
  | .farWrite _ _ _ | .farRead _ _ _ | .farAmo _ _ _ | .farRelease _ _ _ | .farProtect _ _ _ | .farReply _ _ | .pod _ _ => true
  | _ => false

/-- What is sent over links that are down is not delivered (R427). -/
def State.delivered (s t : State) : State :=
  if s.linked then t
  else { t with outs := t.outs.take s.outs.length ++ (t.outs.drop s.outs.length).filter (fun o => !o.onLink) }

/-- What a step comes to, with what the links deliver of it. -/
def State.carried (s : State) (r : Res) : Res :=
  match r with
  | .next t => .next (s.delivered t)
  | o => o

/-- A turn in this cycle. -/
def State.run (s : State) (t : Turn) : Res := s.carried ((s.note t).takeTurn t)

/-- The counts of one slot in a cycle: a thread that is not ready counts from zero again (R127), and a quantum advances (R375). -/
def State.passSlot (s : State) (loc : Nat) (x : Slot) : Slot :=
  let x1 := if x.occupied then { x with quantumUsed := x.quantumUsed + 1 } else x
  if s.ready loc then x1 else { x1 with issWait := 0, aged := false }

/-- Cycles in which a region does not fire count for no wait of its nodes (R123, R199). -/
def NSt.shifted : NSt → NSt
  | .call out e tag fr args ret since => .call out e tag fr args ret (since.map (· + 1))
  | .ring idx stopped since => .ring idx stopped (since.map (· + 1))
  | x => x

/-- The counts of a region in a cycle: its quantum where its die counts one, and how long each frame has been stalled (R199, R383). -/
def Region.passCycle (r : Region) (quanta : Bool) (cycle : Nat) : Region :=
  let stall (fs : Nat) (f : FSlot) : FSlot :=
    if !r.fires then { f with stallFrom := f.stallFrom.map (· + 1) }
    else if f.st == .running && (r.holder fs).isSome && !r.awaits fs then
      { f with stallFrom := some (f.stallFrom.getD cycle) }
    else { f with stallFrom := none }
  { r with quantum := if r.fires && quanta then r.quantum + 1 else r.quantum, slots := r.slots.mapIdx stall,
           nsts := if r.fires then r.nsts else r.nsts.map (fun n => { n with st := n.st.shifted }) }

/-- Ticks come at 1 GHz and cycles at 1.3 GHz (R1, R2, log 8). -/
def tickDue (cycle : Nat) : Bool := cycle * 10 / 13 != (cycle + 1) * 10 / 13

/-- A core on which nothing has issued in a cycle: a `yield` of the cycle before is over (R150). -/
def State.restCore (s : State) (c : Nat × Core) : Nat × Core :=
  if s.issued.contains c.1 then c else (c.1, { c.2 with yielded := none })

/-- One cycle passes. At its end the dispatcher's pools and bindings are made (R96, R108). -/
def State.pass (s0 : State) : State :=
  let s : State := { s0 with issued := [], done := [], cores := s0.cores.map s0.restCore }
  let quanta (r : Region) : Bool := bitW (s.die r.die).rquant 63
  let s1 := ({ s with
     cycle := s.cycle + 1, tick := if tickDue s.cycle then s.tick + 1 else s.tick,
     slots := s.slots.map (fun e => (e.1, s.passSlot e.1 e.2)),
     regions := s.regions.map (fun r => r.passCycle (quanta r) s.cycle),
     scanned := s.scanned.map (fun r => r.passCycle (quanta r) s.cycle) } : State).expirePackets
  if s1.col.power == .running then s1.delivered (s1.takePools.dispatch 4 []) else s1

/-! ### The machine's own order of turns (log 8) -/

def noSite : Site := ⟨0, 0, 0⟩

/-- The turns of threads whose instructions are in progress. -/
def State.threadTurns (s : State) : List Turn := ((s.slots.map Prod.fst).filter s.polls).map Turn.issue

/-- Steps of a thread outside its instructions. -/
def threadSteps : List Instr :=
  [.inboxMessageArrival, .protectionReply, .remoteTimeout, .waitlimExpiry, .feTimeout, .pinWaitTimeout, .calltReturn, .graphCallTimeout,
   .userInterruptDelivery, .timerInterrupt, .externalInterrupt, .fabricTrapDelivery, .quantumExpiry, .parkedMessageAppend]

/-- Steps of a core, and of each of its subscriptions. -/
def coreSteps : List Instr := [.copyCommandStart, .copyCompletion, .spimgSave, .spimgRestore]
def subSteps : List Instr := [.subSyncCopy, .packetFlush, .packetTimerExpiry, .packetApply, .subDrained]
/-- Steps of a matrix unit. -/
def matrixSteps : List Instr := [.mxuArbitrate, .fillWaitTimeout, .tileCompletion, .sortCompletion]
/-- Steps of a Kiln. -/
def kilnSteps : List Instr := [.kilnInstall, .kilnMove, .kilnFault, .kilnReport]
/-- Steps of a job. -/
def jobSteps : List Instr :=
  [.startTickReached, .gangDecision, .gangStart, .poolTake, .jobComplete]
/-- Steps of a region. -/
def regionSteps : List Instr :=
  [.regionLoad, .configReload false, .shrinkPoint, .shrinkBudgetExpiry, .scanOut, .regionRestore, .resumeInPlace, .regionQuantumExpiry,
   .occupancyRound, .drainQuiescence]
/-- Steps of a frame slot and of a request. -/
def frameSteps : List Instr := [.phaseEnd, .frameSlotFree, .frameOrphaned, .fabricStall]
def requestSteps : List Instr := [.orderedRequestPerform, .memReply]
/-- Steps at a special node by which its element does not fire. -/
def siteSteps : List Instr := [.callbackEntry, .callbackPoolAssign, .poolTimeout, .ringWaitExpiry, .mxportCompletion]
/-- Steps of the Imposer, of the die's messages and of Colophon. -/
def packageSteps : List Instr :=
  [.configPlace, .configRetry, .plbInvComplete, .firmwareVerify, .gangDecision, .barrierComplete, .groupDecision,
   .collContribution, .collCommit, .collAbort, .collMemberLost, .lostMemberReached]

def turnsAt (is : List Instr) (cur sub : Nat) (x : Site := noSite) : List Turn := is.map (fun i => .event i cur sub x)

/-- The turns of a region: elements, special nodes, tokens and credits, requests, frames. -/
def Region.turns (r : Region) : List Turn :=
  let at' (n fs : Nat) : Site := ⟨r.num, n, fs⟩
  turnsAt regionSteps 0 0 (at' 0 0)
    ++ (r.nodes.map NodeRec.elem).eraseDups.flatMap (fun e => (r.rotation e).flatMap (fun p =>
        if p.1.kind == 0 then [Turn.fire r.num p.1.id p.2] else turnsAt (nodeSteps ++ siteSteps) 0 0 (at' p.1.id p.2)))
    ++ r.flight.map (fun e => .event .tokenArrival 0 e.2.1 (at' e.1 (tagFs e.2.2.tag)))
    ++ r.owed.map (fun o => .event .creditReturn 0 o.2 (at' o.1 0))
    ++ (List.range r.reqs.length).flatMap (fun i => turnsAt requestSteps 0 i (at' 0 0))
    ++ (List.range 4).flatMap (fun fs => turnsAt frameSteps 0 0 (at' 0 fs))
    ++ (List.range r.spilled.length).flatMap (fun i =>
        (r.nodes.filter (fun n => n.kind == 9)).flatMap (fun n =>
          turnsAt [.callNodeReturn, .callbackEntry, .callbackPoolAssign] 0 0 (at' n.id (4 + i))))

/-- Every turn that something in the package may be due for. -/
def State.turns (s : State) : List Turn :=
  let idx {α : Type} (l : List α) : List Nat := List.range l.length
  s.threadTurns
    ++ s.slots.flatMap (fun e => turnsAt threadSteps e.1 0
        ++ (idx e.2.posted).map (fun i => .event .protectionRequest e.1 i noSite))
    ++ s.cores.flatMap (fun e => turnsAt coreSteps e.1 0 ++ turnsAt matrixSteps (cluOfCore e.1) 0
        ++ e.2.subs.flatMap (fun b => turnsAt subSteps e.1 b.1))
    ++ s.clus.flatMap (fun e => turnsAt matrixSteps e.1 0)
    ++ s.dies.flatMap (fun e => turnsAt kilnSteps e.1 0 ++ turnsAt kilnSteps e.1 1
        ++ e.2.deps.map (fun d => .event .entryDone e.1 d.1 noSite))
    ++ (idx s.jobs).flatMap (fun i => turnsAt jobSteps 0 i ++ [.event .launchWaitExpiry 1 i noSite])
    ++ s.ports.flatMap (fun e => [.event .launchWaitExpiry 0 e.1 noSite, .event (.streamResume e.1) 0 0 noSite])
    ++ (idx s.openings).flatMap (fun i => [.event .launchWaitExpiry 2 i noSite])
    ++ (List.range (s.openings.length + s.jobs.length)).map (fun i => .event .frameOpen 0 i noSite)
    ++ s.qps.map (fun e => .event .completionRecord e.1 0 noSite)
    ++ (idx s.bars).map (fun i => .event .barrierComplete i 0 noSite)
    ++ (idx s.forming).map (fun i => .event .groupDecision i 0 noSite)
    ++ s.insts.flatMap (fun i => turnsAt [.collCommit, .collAbort, .collGroupTimeout] i.id 0
        ++ i.contribs.map (fun c => .event .collContribution i.id c.rank noSite))
    ++ s.regions.flatMap Region.turns
    ++ s.rgnOps.map (fun o => .event .regionRestore 0 s.scanned.length ⟨o.rgn, 0, 0⟩)
    ++ (idx s.scanned).map (fun i => .event .regionRestore 0 i noSite)
    ++ turnsAt packageSteps 0 0

/-- Whether a turn can be taken in this cycle and changes anything. -/
def State.live (s : State) (t : Turn) : Bool :=
  !s.mustPass t && (match s.takeTurn t with
    | .next u => { u with cur := s.cur, sub := s.sub, site := s.site } != s
    | _ => true)

/-- The turn that is due with an empty agenda, counted from a place that moves on every cycle. -/
def State.dueTurn (s : State) : Option Turn :=
  let ts := s.turns
  let k := s.cycle % max ts.length 1
  (ts.drop k ++ ts.take k).find? s.live

/-- One step: the head of the agenda, or the turn that is due without one. A turn that must wait for the next cycle lets every core
with a ready thread issue first (R127, R128). -/
def State.oneStep (s : State) : Res :=
  match s.agenda with
  | t :: ts =>
    if !s.mustPass t then ({ s with agenda := ts } : State).run t
    else match s.owed with
      | some l => s.carried (s.issue l)
      | none => ({ s.pass with agenda := ts } : State).run t
  | [] =>
    match s.owed with
    | some l => s.carried (s.issue l)
    | none =>
      match s.dueTurn with
      | some t => s.run t
      | none => .next s.pass

/-! ### A program in place (log 10)

Nothing runs from reset until a launch comes in; a word is put where the next step fetches it in the stead of a loader. -/

/-- Every profile at the revision the part implements (R19). -/
def allProfiles : BitVec 48 := BitVec.ofNat 48 (Config.tbV + Config.tbM * 2 ^ 16 + Config.tbG * 2 ^ 32)

/-- A page at virtual and physical address 0 with every right, for thread slot 0. -/
def programPage : Plb :=
  { slot := 0, page := 0, size := 0, domain := 0, rights := 7, policy := 0, evac := false, managed := false, repl := false,
    fe := false, frame := 0 }

/-- Thread 0 is READY in machine mode before the bytes of a word at address 0, and issues next. -/
def State.placeWord (s : State) (w : Nat) : State :=
  let s1 := s.modSlot 0 (fun t => { t with
    st := .ready, priv := .m, pc := 0, wait := none, current := none, gang := none, aged := true, u := { t.u with profen := allProfiles } })
  let s2 := s1.modCore 0 (fun c => { c with
    plb := programPage :: c.plb.filter (fun e => !e.covers 0 0), icache := [], yielded := none })
  { s2 with mem := s2.mem.setBytes 0 (leBytes 8 w), agenda := [.issue 0], issued := [], col := { s2.col with power := .running } }

/-- A token that satisfies a word's tag test. -/
def placeTok (w : TWord) (p : Nat) : Token :=
  tokFor p 0 allLanes16 (mkTag (if w.test.toNat ≤ 4 then 15 else 0) (w.test.toNat == 9) 0 0)

/-- A running region of one element whose one instruction slot holds a word, with a frame, heads and predicates that make
it eligible; it fires next. -/
def placeRegion (w : BitVec 128) : Region :=
  let t := TWord.of w.toNat
  let ports := (List.range 10).filter (fun p =>
    bitOf t.req.toNat p || bitOf t.deq.toNat p || t.a.toNat == p || t.b.toNat == p || t.c.toNat == p)
  { num := 0, st := .running, rows := 1, cols := 1, fold := 1, desc := 0, code := 0, hash := 0, prio := 0, place := 0,
    rights := 0,
    nodes := [{ id := 0, kind := 0, ctxs := 1, instrs := [[w]], edges := [], params := [], arow := 0, acol := 0,
                repl := true, unord := false, row := 0, col := 0, ctx0 := 0, raw := [] }],
    sig := 0, faulted := [], resumable := [], spillSize := 0, retMask := 0,
    slots := [{ FSlot.free with st := .running, limit := 2 ^ 24 }, FSlot.free, FSlot.free, FSlot.free],
    chan := ports.map (fun p => (0, p, placeTok t p)), flight := [], owed := [],
    eregs := [{ node := 0, fs := 0, g := .replicate 8 0, gv := .replicate 4 0, p := t.value, phase := 0, lastWord := 0 }],
    nsts := [], reqs := [], waves := [], last := [], trap := none, reloads := 0, before := .running,
    quantum := 0, rounds := 0, loadEnd := 0, home := 0, area := none, spilled := [], boundary := none }

def State.placeElement (s : State) (w : Nat) : State :=
  { s with regions := placeRegion (BitVec.ofNat 128 w) :: s.regions.filter (fun r => r.num != 0), agenda := [.fire 0 0 0], done := [],
           col := { s.col with power := .running } }

end Sys2Proof.Machine
end

