-- ==== Sys2Proof/Machine/Step.lean ====
section
/-! DEFINITION. The step: one turn. -/

namespace Sys2Proof.Machine

/-- One step of the package: the turn that is due is taken. -/
def step (s : State) : Host.Outcome State Fault Refusal := s.oneStep

/-- The state with an instruction where the next step fetches it: a triggered word of 128 bits in an element, a word of
control-flow code before thread 0. -/
def State.withFetchWord (s : State) (nbits w : Nat) : State :=
  if nbits == 128 then s.placeElement w else s.placeWord w

end Sys2Proof.Machine
end

