-- ==== Sys2Proof/Safety.lean ====
section
/-! DEFINITION. What counts as a safe run: every step answers a next state, so the machine neither stops with a fault nor
refuses an instruction; the form that memory keeps; and the shapes in which claims say what a step changes and what it
leaves as it was. -/

namespace Sys2Proof

/-- A step goes on from a state. -/
def Goes (s : Machine.State) : Prop := ∃ t, Machine.step s = .next t

/-- A run of `k` steps from a state ends in a state. -/
def SafeFor (k : Nat) (s : Machine.State) : Prop := ∃ t, core.run k s = .next t

/-- No step of any run from a state stops. -/
def Safe (s : Machine.State) : Prop := ∀ k, SafeFor k s

/-- The invariant of memory: strictly rising addresses, and no entry equal to what an unlisted address reads as. -/
def MemoryInv (s : Machine.State) : Prop := s.mem.wf = true

namespace Machine

/-! ### Steps of one thread -/

/-- Only the slot of the thread that issues in `s` may differ: no byte and no presence bit of memory, no other thread, no
core, engine, region, job or port. -/
structure OnlyThread (s t : State) : Prop where
  rest : t = { s with slots := t.slots }
  memory : ∀ a, t.mem.byte a = s.mem.byte a
  presence : ∀ a, t.mem.isFull a = s.mem.isFull a
  others : ∀ l, l ≠ s.cur → t.slot l = s.slot l

/-- The issuing thread moves past its instruction of `len` bytes as `u`, whose every register, flag and CSR it then holds:
the wait is over with the replies it collected, one more instruction is retired, and nothing else of the machine differs. -/
structure ThreadStep (s t : State) (len : Nat) (u : Slot) : Prop where
  only : OnlyThread s t
  slot : t.me = { u with pc := s.me.pc + BitVec.ofNat 64 len, instret := s.me.instret + 1, wait := none, far := [], st := s.me.st.woken }

/-- Nothing is written. -/
def WritesNone (s t : State) (len : Nat) : Prop := ThreadStep s t len s.me

/-- Register xd takes a value, x0 discarding it, and no other register, flag or CSR differs. -/
structure WritesX (s t : State) (xd : BitVec 5) (v : Word) (len : Nat) : Prop where
  step : ThreadStep s t len { s.me with x := t.me.x }
  regs : ∀ r, t.x r = if r = 0 then 0 else if r = xd then v else s.x r

/-- Two x registers take values, the second written last. -/
structure WritesXX (s t : State) (xa : BitVec 5) (va : Word) (xb : BitVec 5) (vb : Word) (len : Nat) : Prop where
  step : ThreadStep s t len { s.me with x := t.me.x }
  regs : ∀ r, t.x r = if r = 0 then 0 else if r = xb then vb else if r = xa then va else s.x r

/-- Register fd takes a value and flags of `fcsr` accrue. -/
structure WritesF (s t : State) (fd : BitVec 5) (v : Word) (flags : Nat) (len : Nat) : Prop where
  step : ThreadStep s t len
    { s.me with f := t.me.f, rv := { s.me.rv with fcsr := s.me.rv.fcsr ||| BitVec.ofNat 8 (flags % 32) } }
  regs : ∀ r, t.me.fr r = if r = fd then v else s.me.fr r

/-- Mask register kd takes a value, k0 discarding it. -/
structure WritesK (s t : State) (kd : BitVec 3) (v : Half) (len : Nat) : Prop where
  step : ThreadStep s t len { s.me with k := t.me.k, dirty := t.me.dirty }
  dirty : t.me.dirty = if kd = 0 then s.me.dirty else s.me.dirty ||| dirtyK
  regs : ∀ r, t.me.kr r = if r = 0 then 0xFFFFFFFF else if r = kd then v else s.me.kr r

/-- Reference register hd takes a value. -/
structure WritesH (s t : State) (hd : BitVec 4) (v : Word) (len : Nat) : Prop where
  step : ThreadStep s t len { s.me with h := t.me.h, dirty := s.me.dirty ||| dirtyH }
  regs : ∀ r, t.h r = if r = hd then v else s.h r

/-- The issuing thread goes to `pc` as `u`. -/
structure ThreadJump (s t : State) (pc : Word) (u : Slot) : Prop where
  only : OnlyThread s t
  slot : t.me = { u with pc := pc, instret := s.me.instret + 1, wait := none, far := [], st := s.me.st.woken }

/-! ### Memory (R130, R245, R248) -/

/-- A place of this package. -/
def Place.near : Place → Prop
  | .far _ => False
  | _ => True

/-- Only PLBs and the count of free values may differ: a translation was asked for (R248). -/
structure Translated (s u : State) : Prop where
  rest : u = { s with cores := u.cores, fresh := u.fresh }
  cores : ∀ c, u.core c = { s.core c with plb := (u.core c).plb }

/-- The `n` bytes from a memory address on hold the low bytes of `v`; every other byte and every presence bit is as it was. -/
structure Stored (s t : State) (a n v : Nat) : Prop where
  bytes : ∀ i, i < n → (t.mem.byte (a + i)).toNat = v / 2 ^ (8 * i) % 256
  memory : ∀ b, (b < a ∨ a + n ≤ b) → t.mem.byte b = s.mem.byte b
  presence : ∀ b, t.mem.isFull b = s.mem.isFull b

/-- What a write by thread `loc` changes: its bytes; reservations of others on its block, those of other
packages with them (R130); and, in a scratchpad, the
packets of the subscriptions to it and the trace ring of its core (R297, R305). -/
structure Writes (s t : State) (loc : Nat) (p : Place) (n v : Nat) : Prop where
  stored : Stored s t (s.key p) n v
  rest : t = { s with mem := t.mem, slots := t.slots, cores := t.cores, farResv := t.farResv }
  slots : ∀ l, t.slot l = { s.slot l with resv := (t.slot l).resv }
  own : (t.slot loc).resv = (s.slot loc).resv
  cores : ∀ c, t.core c = { s.core c with subs := (t.core c).subs, pubs := (t.core c).pubs, ring := (t.core c).ring,
                                          ringCount := (t.core c).ringCount }
  dram : ∀ pa, p = .dram pa → t.cores = s.cores
  far : ∀ r, r ∈ t.farResv → r ∈ s.farResv

/-- The presence bit of one word takes a value, and nothing else of the machine differs (R256). -/
structure Presence (s t : State) (w : Nat) (full : Bool) : Prop where
  rest : t = { s with mem := t.mem }
  bytes : ∀ a, t.mem.byte a = s.mem.byte a
  bits : ∀ a, t.mem.isFull a = if a = w then full else s.mem.isFull a

/-! ### Vector results (R154 to R158) -/

/-- What a vector destination holds after an instruction whose element `j` is `f j` under mask `k`: an active element takes
its low bits, an inactive one keeps its own; every other vector register keeps all of them. -/
def VecDst (s t : State) (w : Nat) (d : Dst) (k : Nat) (f : Nat → Nat) : Prop :=
  match d with
  | .v n =>
    (∀ j, j < perReg w → elemOf w t.me.v[n].toNat j = if elemOn k w j then f j % 2 ^ w else elemOf w s.me.v[n].toNat j)
      ∧ (∀ i : Fin 48, i ≠ n → t.me.v[i] = s.me.v[i]) ∧ t.me.o = s.me.o ∧ t.me.x = s.me.x ∧ t.me.b[0] = t.me.v[n]
  | .o n =>
    (∀ j, j < perReg w → elemOf w t.me.o[n].toNat j = if elemOn k w j then f j % 2 ^ w else elemOf w s.me.o[n].toNat j)
      ∧ (∀ i : Fin 8, i ≠ n → t.me.o[i] = s.me.o[i]) ∧ t.me.v = s.me.v ∧ t.me.x = s.me.x ∧ t.me.b[0] = t.me.o[n]
  | .x _ =>
    (∀ j, j < perReg w → elemOf w t.me.b[0].toNat j = if elemOn k w j then f j % 2 ^ w else 0)
      ∧ t.me.v = s.me.v ∧ t.me.o = s.me.o

/-- A vector result: the destination by element, an x destination taking element 0 when lane 0 is active (of a block of type
SB48 it takes a mantissa, said where such a block is made), the result pushed into the last-result ring, and nothing else written
but dirty bits. -/
structure VecResult (s t : State) (ty : ElTy) (d : Dst) (k : Nat) (f : Nat → Nat) : Prop where
  step : ThreadStep s t 8
    { s.me with x := t.me.x, v := t.me.v, o := t.me.o, b := t.me.b, dirty := t.me.dirty }
  dst : VecDst s t ty.width d k f
  scalar : ty ≠ .sb48 → ∀ n, d = .x n → ∀ r, t.x r = if r = 0 then 0 else if r = n ∧ laneOn k 0 then extElem ty (f 0) else s.x r
  ring : t.me.b[1] = s.me.b[0] ∧ t.me.b[2] = s.me.b[1] ∧ t.me.b[3] = s.me.b[2]

/-! ### Elements (R185 to R187) -/

/-- An element has fired for its frame: the word's heads are consumed and owed as credits, its result leaves on every edge of
the ports it drives, the element's registers are written, and nothing else of the machine differs but the frame's stall count
and free values used up. -/
structure Fired (s t : State) (f : Fire) (o : ElOp) (w : TWord) (x : ElOut) : Prop where
  rest : t = { s with regions := t.regions, fresh := t.fresh }
  others : ∀ k, k ≠ s.site.rgn → t.region k = s.region k
  here : ∃ r, t.region s.site.rgn = some r
    ∧ r.chan = (f.r.takeAll f.n.id f.fs w.deqPorts).chan ∧ r.owed = (f.r.takeAll f.n.id f.fs w.deqPorts).owed
    ∧ r.flight = f.r.flight ++ (portsOf (f.drives o w)).flatMap (fun p =>
        (f.n.outs (f.r.phase f.n f.fs - f.n.ctx0) p).map (fun e =>
          (e.node, e.inPort, tokFor p x.val (x.mask.getD (f.outMask w)) (x.tag.getD (f.outTag w)))))
    ∧ (∀ e, f.r.ereg f.n.id f.fs = some e → r.ereg f.n.id f.fs = some (e.after o w x (x.mask.getD (f.outMask w))))
    ∧ (∀ n g, ¬(n = f.n.id ∧ g = f.fs) → r.ereg n g = f.r.ereg n g)
    ∧ r.nsts = f.r.nsts ∧ r.reqs = f.r.reqs ∧ r.nodes = f.r.nodes ∧ r.st = f.r.st

end Machine
end Sys2Proof
end

