-- ==== Sys2Proof/Certificates/Slice0/Obligations.lean ====
section
/-! DEFINITION. The statements of this model, one `Obligations.<Name>` each, with the rule of the manual it rests on. -/

open Sys2Proof Sys2Proof.Machine

/-- R24, R150, R266: a landing pad and a prefetch only move past themselves; `yield` clears the wait counter, names its
slot to its core as last, and uses up the quantum where `isspol` [4] is set, in a gang that of its leader's core. So lpad,
pf and yield complete. -/
def Obligations.HintsAndYield : Prop :=
  (∀ k s, ∃ t, exec (.lpad k) s = .next t ∧ WritesNone s t 4)
  ∧ (∀ sc xb off s, ∃ t, exec (.pf sc xb off) s = .next t ∧ WritesNone s t 8)
  ∧ (∀ s, ∃ t, exec .yield s = .next t
    ∧ t = { s with slots := t.slots, cores := t.cores }
    ∧ (∀ c, t.core c = if c = coreOf s.cur then { s.core c with yielded := some (s.cur % 4) } else s.core c)
    ∧ (∀ l, l ≠ s.cur → t.slot l = s.slot l)
    ∧ t.me = { s.me with pc := s.me.pc + 4, instret := s.me.instret + 1, wait := none, far := [], st := s.me.st.woken,
                         issWait := 0,
                         quantumUsed := if (s.core (coreOf (s.leaderOf s.cur))).isspol.getLsbD 4 then 2 ^ 41 else s.me.quantumUsed })

/-- R134: `tagp` takes E from bit 4 of its field, K from bits 3:0, zero, and the address; nothing is checked. So tagp
completes. -/
def Obligations.TagpBuildsTaggedPointer : Prop :=
  ∀ rd rs1 ek s, ∃ t v, exec (.tagp rd rs1 ek) s = .next t ∧ WritesX s t rd v 4
    ∧ v.extractLsb' 0 56 = (s.x rs1).extractLsb' 0 56 ∧ v.extractLsb' 56 3 = 0
    ∧ v.extractLsb' 59 4 = ek.extractLsb' 0 4 ∧ v.extractLsb' 63 1 = ek.extractLsb' 4 1

/-- R135: `tagx` reads back the tag, zero-extended; on a pointer that `tagp` built it gives the field back. So tagx
complete. -/
def Obligations.TagxExtractsTag : Prop :=
  (∀ rd rs1 s, ∃ t, exec (.tagx rd rs1) s = .next t ∧ WritesX s t rd (((s.x rs1).extractLsb' 59 5).zeroExtend 64) 4)
  ∧ ∀ rd rs1 ek s t, rd ≠ 0 → exec (.tagp rd rs1 ek) s = .next t →
      ∃ u, exec (.tagx rd rd) t = .next u ∧ u.x rd = ek.zeroExtend 64


/-- R149: `prio` sets the issue priority to the smaller of its operand, read as unsigned, and the ceiling; selection goes
by it from the next cycle on, and it never traps. So prio completes. -/
def Obligations.PrioSetsIssuePriority : Prop :=
  ∀ rs1 s, let p := BitVec.ofNat 2 (min (s.x rs1).toNat s.me.sc.prioceil.toNat)
    ∃ t, exec (.prio rs1) s = .next t ∧ ThreadStep s t 4 { s.me with u := { s.me.u with prio := p } }
      ∧ t.me.level = min (s.x rs1).toNat s.me.sc.prioceil.toNat

/-- R145: `wfm` waits until the inbox holds a message, and then writes OK, or TIMEOUT when `waitlim` expires first; it
neither dequeues nor acquires anything. So wfm completes. -/
def Obligations.WfmWaitsForMessage : Prop :=
  (∀ rd s m r, s.me.mail = m :: r → ∃ t, exec (.wfm rd) s = .next t ∧ WritesX s t rd Status.ok.word 4)
  ∧ (∀ rd s, s.me.mail = [] → s.me.wait = none → s.me.u.waitlim ≠ 0 → s.me.st = .ready →
      ∃ t, exec (.wfm rd) s = .next t ∧ OnlyThread s t
        ∧ t.me = { s.me with st := .wait, wait := some ⟨.inbox, some (s.cycle + s.me.u.waitlim.toNat), 0,
                                                        { xs := [(rd, Status.timeout.word)] }, none, none⟩ })
  ∧ (∀ rd s d n e b o, s.me.mail = [] → s.me.wait = some ⟨.inbox, some d, n, e, b, o⟩ → s.cycle < d →
      ∃ t, exec (.wfm rd) s = .next t ∧ OnlyThread s t ∧ t.me.pc = s.me.pc ∧ t.me.x = s.me.x ∧ t.me.inbox = s.me.inbox
        ∧ t.me.wait = some ⟨.inbox, some d, 0, { xs := [(rd, Status.timeout.word)], release := e.release }, none, none⟩)
  ∧ (∀ rd s, s.me.mail = [] → (s.me.wait = none ∧ s.me.u.waitlim = 0) ∨
        (∃ d n e b o, s.me.wait = some ⟨.inbox, some d, n, e, b, o⟩ ∧ e.release = false ∧ d ≤ s.cycle) →
      s.rgnOps = [] → s.invs = [] → s.feq = [] → (∀ p ∈ s.slots, p.2.st ≠ .member) →
      ∃ t, exec (.wfm rd) s = .next t ∧ WritesX s t rd Status.timeout.word 4)

/-- R144: the oldest message that is not a return message is read by `peek` and taken by `recv` into the register pair; an
empty inbox gives `peek` EMPTY, and `recv` waits at it: it then takes a message that has come, and when `waitlim` expires
first writes a zero and the status TIMEOUT. So peek and recv complete. -/
def Obligations.InboxWordsReadTheOldestMessage : Prop :=
  (∀ rd s, s.me.mail = [] → ∃ t, exec (.peek rd) s = .next t
    ∧ WritesXX s t (pairLo rd) 0 (pairHi rd) 0x0001000000000000 4)
  ∧ (∀ rd s m r, s.me.mail = m :: r → ∃ t, exec (.peek rd) s = .next t
    ∧ WritesXX s t (pairLo rd) m.value (pairHi rd) (m.kind ++ m.status ++ m.seq ++ m.tag) 4)
  ∧ (∀ rd s d m r, s.syncGate = .ok d → d.me.mail = m :: r →
      ∃ t, exec (.recv rd) s = .next t ∧ OnlyThread d t
        ∧ (∀ q, t.x q = if q = 0 then 0 else if q = pairHi rd then m.kind ++ m.status ++ m.seq ++ m.tag
            else if q = pairLo rd then m.value else d.x q)
        ∧ t.me.inbox = dropFirst (fun q => q.kind != 1) d.me.inbox
        ∧ t.me = { d.me with x := t.me.x, inbox := t.me.inbox, uiFresh := t.me.uiFresh, pc := d.me.pc + 4,
                             instret := d.me.instret + 1, wait := none, far := [], st := d.me.st.woken })
  ∧ (∀ rd s d, s.syncGate = .ok d → d.me.mail = [] → d.me.wait = none → d.me.u.waitlim ≠ 0 →
      ∃ t, exec (.recv rd) s = .next t ∧ OnlyThread d t
        ∧ t.me = { d.me with st := if d.me.st = .ready then .wait else d.me.st,
                             wait := some ⟨.inbox, some (d.cycle + d.me.u.waitlim.toNat), 0,
                                           { xs := [(pairLo rd, 0), (pairHi rd, 0x0004000000000000)] }, none, none⟩ })
  ∧ (∀ rd s d, s.syncGate = .ok d → d.me.mail = [] → (d.me.wait = none ∧ d.me.u.waitlim = 0) ∨
        (∃ l n e b o, d.me.wait = some ⟨.inbox, some l, n, e, b, o⟩ ∧ e.release = false ∧ l ≤ d.cycle) →
      d.rgnOps = [] → d.invs = [] → d.feq = [] → (∀ p ∈ d.slots, p.2.st ≠ .member) →
      ∃ t, exec (.recv rd) s = .next t ∧ WritesXX d t (pairLo rd) 0 (pairHi rd) 0x0004000000000000 4)

/-- R141: `split` leaves the gang: the thread goes on as an ordinary one, alone and READY, with its registers, its mode
and its work unit; outside a gang it only moves past itself. R139: `fuse` inside a gang, or on a core that its size does
not divide, writes RANGE. Where every member slot is FREE, each member starts with the leader's registers and user CSRs,
its own stack pointer and the leader's `pc` past the word, and every member reads OK; nothing else of the machine differs.
So split and fuse complete. The model's choices and readings: log 42. -/
def Obligations.GangWords : Prop :=
  (∀ s, s.me.st ≠ .member → ∃ t, exec .split s = .next t ∧ ThreadStep s t 4 { s.me with gang := none })
  ∧ (∀ s, s.me.st = .member → ∃ t, exec .split s = .next t ∧ OnlyThread s t
    ∧ t.me = { s.me with gang := none, st := .ready, pc := s.me.pc + 4, instret := s.me.instret + 1, wait := none, far := [] })
  ∧ (∀ rd n s, s.me.gang ≠ none ∨ coreOf s.cur % 2 ^ n.toNat ≠ 0 →
    ∃ t, exec (.fuse rd n) s = .next t ∧ WritesX s t rd Status.range.word 4)
  ∧ ∀ rd n s, s.me.gang = none → coreOf s.cur % 2 ^ n.toNat = 0 →
    (∀ i, 0 < i → i < 2 ^ n.toNat → (s.slot (s.cur + 4 * i)).st = .free) →
    ∃ t, exec (.fuse rd n) s = .next t ∧ t = { s with slots := t.slots }
      ∧ (∀ q, t.x q = if q = 0 then 0 else if q = rd then Status.ok.word else s.x q)
      ∧ t.me = { s.me with x := t.me.x, gang := some ⟨s.cur, 0, 2 ^ n.toNat⟩, pc := s.me.pc + 4,
                           instret := s.me.instret + 1, wait := none, far := [], st := s.me.st.woken }
      ∧ (∀ i, 0 < i → i < 2 ^ n.toNat →
          let m := t.slot (s.cur + 4 * i)
          let old := s.slot (s.cur + 4 * i)
          m.st = .member ∧ m.gang = some ⟨s.cur, i, 2 ^ n.toNat⟩ ∧ m.pc = s.me.pc + 4 ∧ m.priv = s.me.priv
          ∧ (∀ q, m.xr q = if q = 0 then 0 else if q = rd then Status.ok.word else if q = 2 then old.sc.stkinit else s.x q)
          ∧ m.f = s.me.f ∧ m.v = s.me.v ∧ m.o = s.me.o ∧ m.b = s.me.b ∧ m.k = s.me.k ∧ m.h = s.me.h ∧ m.cb = s.me.cb
          ∧ m.u = s.me.u ∧ m.sc = old.sc)
      ∧ (∀ l, l ≠ s.cur → (∀ i, i < 2 ^ n.toNat → l ≠ s.cur + 4 * i) → t.slot l = s.slot l)



/-- R70: an undefined word in user mode enters the emulation handler, with the word, the address past it and `emustat`
set, once the pad at `emuvec` has passed; a second one is NESTED_EMULATION (cause 26), and outside user mode the word is
an illegal instruction. R147: `uiret` ends the emulation handler first, else a user-interrupt handler, whose shadows come
back to x8 to x15; with neither it is a CONTROL_FLOW_FAULT (cause 24). So emulationEntry and uiret complete. The model's
choices and readings: log 18. -/
def Obligations.EmulationAndReturn : Prop :=
  (∀ w len s u, s.me.priv = .u → s.me.u.emustat = false → s.checkPad s.me.u.emuvec 5 = .ok u →
    ∃ t, exec (.emulationEntry w len) s = .next t ∧ OnlyThread u t
      ∧ t.me = { u.me with pc := ptrAddr u.me.u.emuvec,
                           u := { u.me.u with emuinst := w, emupc := u.me.pc + BitVec.ofNat 64 len, emustat := true } })
  ∧ (∀ w len s, s.me.priv = .u → s.me.u.emustat = true →
      exec (.emulationEntry w len) s = .next (s.trap s.cur { cause := 26, tval := w }))
  ∧ (∀ w len s, s.me.priv ≠ .u → exec (.emulationEntry w len) s = .next (s.trap s.cur { cause := 2, tval := w }))
  ∧ (∀ s, s.me.u.emustat = true → s.me.u.emupc ≠ exitAddr → ∃ t, exec .uiret s = .next t
    ∧ ThreadJump s t s.me.u.emupc { s.me with u := { s.me.u with emustat := false } })
  ∧ (∀ s, s.me.u.emustat = false → s.me.u.uiActive = true → s.me.u.uepc ≠ exitAddr → ∃ t, exec .uiret s = .next t
    ∧ ThreadJump s t s.me.u.uepc
        { s.me with x := t.me.x, shadow := t.me.shadow, u := { s.me.u with uiActive := false } }
    ∧ (∀ i : Fin 32, t.me.x[i] = if h : 8 ≤ i.val ∧ i.val < 16 then s.me.shadow[i.val - 8]'(by omega) else s.me.x[i])
    ∧ (∀ i : Fin 8, t.me.shadow[i] = s.me.x[i.val + 8]'(by have := i.isLt; omega)))
  ∧ (∀ s, s.me.u.emustat = false → s.me.u.uiActive = false →
      exec .uiret s = .next (s.trap s.cur { cause := 24, tval := 0 }))

/-- R129: the integer instructions of RV64IM, Zba and Zbb write `rd` and nothing else; division by zero and its overflow
give what the RISC-V specification gives them. So rv64BaseInstruction (these forms) completes. -/
def Obligations.IntegerInstructionsWriteRd : Prop :=
  (∀ op rd rs1 rs2 s, ∃ t, exec (.rv64BaseInstruction (.alu op rd rs1 rs2)) s = .next t
    ∧ WritesX s t rd (aluResult op (s.x rs1) (s.x rs2)) 4)
  ∧ (∀ op rd rs1 imm s, ∃ t, exec (.rv64BaseInstruction (.imm op rd rs1 imm)) s = .next t
    ∧ WritesX s t rd (immResult op (s.x rs1) imm) 4)
  ∧ (∀ op rd rs1 s, ∃ t, exec (.rv64BaseInstruction (.un op rd rs1)) s = .next t
    ∧ WritesX s t rd (unResult op (s.x rs1)) 4)
  ∧ (∀ rd imm s, ∃ t, exec (.rv64BaseInstruction (.lui rd imm)) s = .next t
    ∧ WritesX s t rd ((imm ++ 0#12).signExtend 64) 4)
  ∧ (∀ rd imm s, ∃ t, exec (.rv64BaseInstruction (.auipc rd imm)) s = .next t
    ∧ WritesX s t rd (s.me.pc + (imm ++ 0#12).signExtend 64) 4)
  ∧ (∀ a : Word, aluResult .div a 0 = BitVec.allOnes 64 ∧ aluResult .divu a 0 = BitVec.allOnes 64
    ∧ aluResult .rem a 0 = a ∧ aluResult .remu a 0 = a)
  ∧ aluResult .div (BitVec.intMin 64) (BitVec.allOnes 64) = BitVec.intMin 64
  ∧ aluResult .rem (BitVec.intMin 64) (BitVec.allOnes 64) = 0

/-- R129, R130: a direct jump and a taken branch go to their target, which must be word-aligned (else cause 0), `jal`
linking into `rd`; a branch not taken moves past itself. R24, R130: `jalr` checks the pad at its target before it goes
there and links; a target that is the exit address needs no pad and is first a release of the thread's accesses (R394). So
jalr and rv64BaseInstruction (jumps and branches) complete. -/
def Obligations.JumpsAndBranches : Prop :=
  (∀ rd off s, (s.me.pc + jalOffset off).toNat % 4 = 0 → s.me.pc + jalOffset off ≠ exitAddr →
    ∃ t, exec (.rv64BaseInstruction (.jal rd off)) s = .next t
      ∧ ThreadJump s t (s.me.pc + jalOffset off) { s.me with x := t.me.x }
      ∧ ∀ q, t.x q = if q = 0 then 0 else if q = rd then s.me.pc + 4 else s.x q)
  ∧ (∀ rd off s, (s.me.pc + jalOffset off).toNat % 4 ≠ 0 →
    exec (.rv64BaseInstruction (.jal rd off)) s = .next (s.trap s.cur { cause := 0, tval := s.me.pc + jalOffset off }))
  ∧ (∀ op rs1 rs2 off s, brTaken op (s.x rs1) (s.x rs2) = true → (s.me.pc + brOffset off).toNat % 4 = 0 →
    s.me.pc + brOffset off ≠ exitAddr →
    ∃ t, exec (.rv64BaseInstruction (.br op rs1 rs2 off)) s = .next t
      ∧ ThreadJump s t (s.me.pc + brOffset off) s.me)
  ∧ (∀ op rs1 rs2 off s, brTaken op (s.x rs1) (s.x rs2) = true → (s.me.pc + brOffset off).toNat % 4 ≠ 0 →
    exec (.rv64BaseInstruction (.br op rs1 rs2 off)) s
      = .next (s.trap s.cur { cause := 0, tval := s.me.pc + brOffset off }))
  ∧ (∀ op rs1 rs2 off s, brTaken op (s.x rs1) (s.x rs2) = false →
    ∃ t, exec (.rv64BaseInstruction (.br op rs1 rs2 off)) s = .next t ∧ WritesNone s t 4)
  ∧ (∀ rd rs1 off s u, let p := (s.x rs1 + off.signExtend 64) &&& ~~~(1 : Word)
    s.checkPad p (ptrK p) = .ok u → ptrAddr p ≠ exitAddr →
    ∃ t, exec (.jalr rd rs1 off) s = .next t ∧ ThreadJump u t (ptrAddr p) { u.me with x := t.me.x }
      ∧ ∀ q, t.x q = if q = 0 then 0 else if q = rd then s.me.pc + 4 else u.x q)
  ∧ (∀ rd rs1 off s u, (s.x rs1 + off.signExtend 64) &&& ~~~(1 : Word) = exitAddr → s.release .pkg = .ok u →
    ∃ t, exec (.jalr rd rs1 off) s = .next t ∧ ThreadJump u t exitAddr { u.me with x := t.me.x }
      ∧ ∀ q, t.x q = if q = 0 then 0 else if q = rd then s.me.pc + 4 else u.x q)
  ∧ (∀ rd rs1 off s, let p := (s.x rs1 + off.signExtend 64) &&& ~~~(1 : Word)
    p.getLsbD 63 = true → exec (.jalr rd rs1 off) s = .next (s.trap s.cur { cause := 24, tval := p }))
  ∧ (∀ rd rs1 off s u w, let p := (s.x rs1 + off.signExtend 64) &&& ~~~(1 : Word)
    p.getLsbD 63 = false → p.toNat / 2 ^ 56 % 8 = 0 → p.toNat % 4 = 0 → ptrAddr p ≠ exitAddr →
    s.fetch s.cur (ptrAddr p) = (u, .ok w) → w ≠ lpadWord (ptrK p) →
    exec (.jalr rd rs1 off) s = .next (u.trap u.cur { cause := 24, tval := p }))



/-- R129: an F or D instruction writes its destination and accrues its flags in `fcsr`; a rounding mode that RISC-V
reserves is an illegal instruction in each form with a rounding field. R129: comparisons, classification, conversions to an integer and moves to an x
register write `rd` and accrue their flags. So rv64BaseInstruction (these forms) completes. The model's choices and
readings: log 4. -/
def Obligations.FloatInstructions : Prop :=
  (∀ op f rm rd rs1 rs2 s r, s.me.rounding rm = some r →
    let p := fopResult op (fmtRec f) r (s.me.fop f rs1) (s.me.fop f rs2)
    ∃ t, exec (.rv64BaseInstruction (.fop op f rm rd rs1 rs2)) s = .next t ∧ WritesF s t rd (boxed f p.1) p.2 4)
  ∧ (∀ op f rm rd rs1 rs2 rs3 s r, s.me.rounding rm = some r →
    let p := fmaResult op (fmtRec f) r (s.me.fop f rs1) (s.me.fop f rs2) (s.me.fop f rs3)
    ∃ t, exec (.rv64BaseInstruction (.fma op f rm rd rs1 rs2 rs3)) s = .next t ∧ WritesF s t rd (boxed f p.1) p.2 4)
  ∧ (∀ w f rm rd rs1 s r, s.me.rounding rm = some r →
    let p := fromIntResult w (fmtRec f) r (s.x rs1)
    ∃ t, exec (.rv64BaseInstruction (.fcvtFromInt w f rm rd rs1)) s = .next t ∧ WritesF s t rd (boxed f p.1) p.2 4)
  ∧ (∀ rm rd rs1 s r, s.me.rounding rm = some r →
    let p := fmtResult fp32 fp64 r (s.me.fop .d rs1)
    ∃ t, exec (.rv64BaseInstruction (.fcvtFF .s rm rd rs1)) s = .next t ∧ WritesF s t rd (boxed .s p.1) p.2 4)
  ∧ (∀ rm rd rs1 s r, s.me.rounding rm = some r →
    let p := fmtResult fp64 fp32 r (s.me.fop .s rs1)
    ∃ t, exec (.rv64BaseInstruction (.fcvtFF .d rm rd rs1)) s = .next t ∧ WritesF s t rd (boxed .d p.1) p.2 4)
  ∧ (∀ f rd rs1 s, ∃ t, exec (.rv64BaseInstruction (.fmvFromX f rd rs1)) s = .next t
    ∧ WritesF s t rd (match f with | .s => 0xFFFFFFFF#32 ++ (s.x rs1).extractLsb' 0 32 | .d => s.x rs1) 0 4)
  ∧ (∀ op f rd rs1 rs2 s, op = .fsgnj ∨ op = .fsgnjn ∨ op = .fsgnjx ∨ op = .fmin ∨ op = .fmax →
    let p := fcmpResult op (fmtRec f) (s.me.fop f rs1) (s.me.fop f rs2)
    ∃ t, exec (.rv64BaseInstruction (.fcmp op f rd rs1 rs2)) s = .next t ∧ WritesF s t rd (boxed f p.1) p.2 4)
  ∧ (∀ i rm s, s.me.rounding rm = none →
    (∃ op f rd rs1 rs2, i = .fop op f rm rd rs1 rs2) ∨ (∃ op f rd rs1 rs2 rs3, i = .fma op f rm rd rs1 rs2 rs3)
      ∨ (∃ w f rd rs1, i = .fcvtToInt w f rm rd rs1) ∨ (∃ w f rd rs1, i = .fcvtFromInt w f rm rd rs1)
      ∨ (∃ f rd rs1, i = .fcvtFF f rm rd rs1) →
    exec (.rv64BaseInstruction i) s = .next (s.trap s.cur { cause := 2, tval := BitVec.ofNat 64 i.word }))
  ∧ (let writes (s t : State) (rd : BitVec 5) (v : Word) (flags : Nat) : Prop :=
    ThreadStep s t 4
      { s.me with x := t.me.x, rv := { s.me.rv with fcsr := s.me.rv.fcsr ||| BitVec.ofNat 8 (flags % 32) } }
    ∧ ∀ q, t.x q = if q = 0 then 0 else if q = rd then v else s.x q
  (∀ op f rd rs1 rs2 s, op = .feq ∨ op = .flt ∨ op = .fle →
    let p := fcmpResult op (fmtRec f) (s.me.fop f rs1) (s.me.fop f rs2)
    ∃ t, exec (.rv64BaseInstruction (.fcmp op f rd rs1 rs2)) s = .next t ∧ writes s t rd (BitVec.ofNat 64 p.1) p.2)
  ∧ (∀ f rd rs1 s, ∃ t, exec (.rv64BaseInstruction (.fclass f rd rs1)) s = .next t
    ∧ writes s t rd (BitVec.ofNat 64 (fclassMask (fmtRec f) (s.me.fop f rs1))) 0)
  ∧ (∀ w f rm rd rs1 s r, s.me.rounding rm = some r →
    let p := toIntResult w (fmtRec f) r (s.me.fop f rs1)
    ∃ t, exec (.rv64BaseInstruction (.fcvtToInt w f rm rd rs1)) s = .next t
      ∧ writes s t rd (if IWidth.bits w = 32 then (BitVec.ofNat 32 p.1).signExtend 64 else BitVec.ofNat 64 p.1) p.2)
  ∧ (∀ f rd rs1 s, ∃ t, exec (.rv64BaseInstruction (.fmvToX f rd rs1)) s = .next t
    ∧ writes s t rd
        (match f with | .s => ((s.me.fr rs1).extractLsb' 0 32).signExtend 64 | .d => s.me.fr rs1) 0))


/-- R368, R370: a trap on a thread saves `pc`, cause and value, stacks the interrupt enable and the mode, makes the slot
TRAP in the handler's mode at the handler's address, drops the reservation and what it had asked of other packages, and
writes the trap record. R125, R368: `sret`
and `mret` go back to the saved address in the saved mode with the stacked enable, where their mode lets them; elsewhere
they are illegal instructions. Held stores and the calls a supervisor abandons are other statements'. R130, R368: ECALL
and EBREAK take their exceptions; WFI goes on at once, and is an illegal instruction outside machine mode while `mstatus`
TW is set. So trapEntry, sret, mret and rv64BaseInstruction complete. The model's choices and readings: log 4, 17. -/
def Obligations.TrapsReturnsAndSystemWords : Prop :=
  (∀ loc cause tval s, (s.slot loc).st ≠ .free → (s.slot loc).st ≠ .pool → (s.slot loc).st ≠ .out →
    (s.slot loc).st ≠ .member → (s.slot loc).gang = none → (s.slot loc).wait = none →
    ∃ t, exec (.trapEntry loc cause tval) s = .next t
      ∧ t = { s with slots := t.slots, asks := s.asks.filter (fun a => a.who != tidNo (s.tidOf loc)) }
      ∧ (∀ l, l ≠ loc → t.slot l = s.slot l)
      ∧ let m := s.slot loc
        let n := t.slot loc
        n = { m with rv := n.rv, priv := n.priv, pc := n.pc, st := .trap, resv := none, far := [], trapRec := n.trapRec }
        ∧ n.trapRec = some { amo := 0, elem := 0, member := 0, cause := BitVec.ofNat 8 cause, pc := m.pc, tval := tval,
                             frame := 0, held := m.held, tick := s.tick }
        ∧ (m.priv ≠ .m ∧ m.rv.medeleg.getLsbD cause = true →
            n.priv = .s ∧ n.pc = m.rv.stvec &&& ~~~(3 : Word)
            ∧ n.rv = { m.rv with sepc := m.pc, scause := BitVec.ofNat 64 cause, stval := tval, mstatus := n.rv.mstatus }
            ∧ ∀ i, n.rv.mstatus.getLsbD i = if i = 8 then decide (m.priv = .s) else if i = 1 then false
                else if i = 5 then m.rv.mstatus.getLsbD 1 else m.rv.mstatus.getLsbD i)
        ∧ (m.priv = .m ∨ m.rv.medeleg.getLsbD cause = false →
            n.priv = .m ∧ n.pc = m.rv.mtvec &&& ~~~(3 : Word)
            ∧ n.rv = { m.rv with mepc := m.pc, mcause := BitVec.ofNat 64 cause, mtval := tval, mstatus := n.rv.mstatus }
            ∧ ∀ i, n.rv.mstatus.getLsbD i = if i = 12 then decide (m.priv = .m) else if i = 11 then decide (m.priv ≠ .u)
                else if i = 3 then false else if i = 7 then m.rv.mstatus.getLsbD 3 else m.rv.mstatus.getLsbD i))
  ∧ (∀ s, s.me.priv = .m ∨ (s.me.priv = .s ∧ s.me.rv.mstatus.getLsbD 22 = false) → s.me.rv.sepc ≠ exitAddr →
    s.me.held = [] → s.me.refHeld = [] → s.me.calls = [] →
    ∃ t, exec .sret s = .next t ∧ OnlyThread s t
      ∧ t.me = { s.me with pc := s.me.rv.sepc, priv := if s.me.rv.mstatus.getLsbD 8 then .s else .u, wait := none,
                           instret := s.me.instret + 1, st := t.me.st, rv := { s.me.rv with mstatus := t.me.rv.mstatus } }
      ∧ t.me.st = (if s.me.member = 0 then .ready else .member)
      ∧ ∀ i, t.me.rv.mstatus.getLsbD i = if i = 17 ∨ i = 8 then false else if i = 5 then true
          else if i = 1 then s.me.rv.mstatus.getLsbD 5 else s.me.rv.mstatus.getLsbD i)
  ∧ (∀ s, s.me.priv = .m → s.me.rv.mepc ≠ exitAddr → s.me.held = [] → s.me.refHeld = [] → s.me.calls = [] →
    ∃ t, exec .mret s = .next t ∧ OnlyThread s t
      ∧ t.me = { s.me with pc := s.me.rv.mepc, priv := t.me.priv, wait := none, instret := s.me.instret + 1,
                           st := t.me.st, rv := { s.me.rv with mstatus := t.me.rv.mstatus } }
      ∧ t.me.st = (if s.me.member = 0 then .ready else .member)
      ∧ t.me.priv = (if s.me.rv.mstatus.getLsbD 12 then .m else if s.me.rv.mstatus.getLsbD 11 then .s else .u)
      ∧ ∀ i, t.me.rv.mstatus.getLsbD i = if i = 12 ∨ i = 11 then false else if i = 7 then true
          else if i = 3 then s.me.rv.mstatus.getLsbD 7
          else if i = 17 then s.me.rv.mstatus.getLsbD 17 && s.me.rv.mstatus.getLsbD 12 else s.me.rv.mstatus.getLsbD i)
  ∧ (∀ s, s.me.priv = .u ∨ (s.me.priv = .s ∧ s.me.rv.mstatus.getLsbD 22 = true) →
    exec .sret s = .next (s.trap s.cur { cause := 2, tval := 0x10200073 }))
  ∧ (∀ s, s.me.priv ≠ .m → exec .mret s = .next (s.trap s.cur { cause := 2, tval := 0x30200073 }))
  ∧ (∀ s, exec (.rv64BaseInstruction .ecall) s
    = .next (s.trap s.cur { cause := match s.me.priv with | .u => 8 | .s => 9 | .m => 11 }))
  ∧ (∀ s, exec (.rv64BaseInstruction .ebreak) s = .next (s.trap s.cur { cause := 3, tval := s.me.pc }))
  ∧ (∀ s, s.me.priv = .m ∨ s.me.rv.mstatus.getLsbD 21 = false →
    ∃ t, exec (.rv64BaseInstruction .wfi) s = .next t ∧ WritesNone s t 4)
  ∧ (∀ s, s.me.priv ≠ .m → s.me.rv.mstatus.getLsbD 21 = true →
    exec (.rv64BaseInstruction .wfi) s = .next (s.trap s.cur { cause := 2, tval := 0x10500073 }))


/-- R131, R247, R120, R255, R316: a CSR instruction that writes and meets no fault leaves in the CSR the new value in the
bits the table gives it, `uistat` with the pending bit that it computes and the status and interrupt registers with the
bits that log 4 gives them, gives `rd` the old one, and changes no other CSR of the table, no other thread, and no memory.
Writing `pdrights` also removes the slot's PLB entries, those on their way to its posted stores among them (R248), and a
matrix CSR is written only once no tile command of the thread is queued. R371, R375: a write of `quantum` keeps enable,
policy and length as written, and bit 62 says whether the written length is below `swcost` + 1024, the least a quantum
that runs lasts; nothing else of the machine differs but `rd`. R131: a CSR instruction that writes nothing gives `rd` the
CSR's value and changes nothing else; in user mode an access to a supervisor CSR of the table, or a write of a read-only
one, is a PRIVILEGE_VIOLATION (cause 25) with the word as its value, and in another mode a write of a read-only one is an
illegal instruction. So csrWrite, pdrightsWrite, prridxWrite, tcqWrite, matrixCsrWrite, quantumWrite and
rv64BaseInstruction complete. The model's choices and readings: log 4, 42. -/
def Obligations.CsrInstructions : Prop :=
  (let all : Word := BitVec.allOnes 64
  let wrote (c : CsrOp) (old : Word) (s t : State) : Prop :=
    t = { s with slots := t.slots, cores := t.cores, clus := t.clus, dies := t.dies }
        ∧ (∀ l, l ≠ s.cur → t.slot l = s.slot l)
        ∧ (∀ b, skRange b = true → b ≠ c.csr.toNat → b ≠ 0x808 → t.csr s.cur b = s.csr s.cur b)
        ∧ (∀ q, t.x q = if q = 0 then 0 else if q = c.rd then old else s.x q)
        ∧ t.me = { s.me with x := t.me.x, u := t.me.u, sc := t.me.sc, rv := t.me.rv, instret := t.me.instret, posted := t.me.posted,
                             pc := s.me.pc + 4, wait := none, far := [], st := s.me.st.woken }
        ∧ (c.csr ≠ 0xB02 → t.me.instret = s.me.instret + 1)
        ∧ (c.csr ≠ 0x5CB → t.me.posted = s.me.posted)
        ∧ t.me.posted.map (fun p => { p with reply := none }) = s.me.posted.map (fun p => { p with reply := none })
        ∧ (c.csr = 0x5CB → (∀ e ∈ (t.core (coreOf s.cur)).plb, e.slot ≠ s.cur % 4)
            ∧ ∀ p ∈ t.me.posted, ∀ e, p.reply ≠ some (.entry e))
  let effect (i : CsrOp → Instr) (masks : List (Nat × Word)) (s : State) : Prop :=
    ∀ c old m, (c.csr.toNat, m) ∈ masks → s.csrFault c = none → c.writes = true → s.csr s.cur c.csr.toNat = some old →
      ∃ t, exec (i c) s = .next t ∧ wrote c old s t
        ∧ t.csr s.cur c.csr.toNat = some (csrNew c.kind old (s.csrOperand c) &&& m)
  let reads (a : Nat) (v : State → Word → Word → State → Word) : Prop :=
    ∀ c s old, c.csr.toNat = a → s.csrFault c = none → c.writes = true → s.csr s.cur a = some old →
      ∃ t, exec (.csrWrite c) s = .next t ∧ wrote c old s t
        ∧ t.csr s.cur a = some (v s old (csrNew c.kind old (s.csrOperand c)) t)
  (∀ s, effect .csrWrite
    [(0x800, 0xFFFFFFFFFF), (0x801, 3), (0x802, all), (0x803, all), (0x804, all), (0x805, 1), (0x806, all), (0x807, 0xFFFF),
     (0x809, all), (0x813, all), (0x814, all), (0x815, all), (0x5C1, 0x1F), (0x5C2, 3), (0x5C3, 0x3FF), (0x5C4, all), (0x5C5, 1),
     (0x5C6, 0x1FFFFFFFFFFFC0), (0x5C7, all), (0x5C9, 1), (0x5CA, 0x1FFFFFFFFF8000), (0x5CD, 0xFFF), (0x5CE, 0x1FFFFFFFFFF03F),
     (0x5D0, 0xFFFFFFFFF), (0x5D2, 0x80000000001FFFFF), (0x5D3, 0xFFFFFFFFFFFFF000), (0x5D4, 0xFFFFFFFFFFFFF000),
     (0x5D6, 0x800000FFFFFFFFFF), (0x5D7, 0xFFFFFFFFFFFFC1), (0x5D8, 0xFFFFFFFFFF),
     (0x001, 0x1F), (0x002, 7), (0x003, 0xFF), (0x106, 0xFFFFFFFF), (0x140, all), (0x141, 0xFFFFFFFFFFFFFFFC), (0x142, all),
     (0x143, all), (0x302, all), (0x303, 0x30222), (0x304, 0x30222), (0x306, 0xFFFFFFFF), (0x340, all),
     (0x341, 0xFFFFFFFFFFFFFFFC), (0x342, all), (0x343, all), (0xB00, all), (0xB02, all), (0x105, 0xFFFFFFFFFFFFFFFD),
     (0x305, 0xFFFFFFFFFFFFFFFD)] s)
  ∧ reads 0x808 (fun _ _ v t => (v &&& 3) ||| BitVec.ofNat 64 (4 * t.me.uiPending.toNat))
  ∧ reads 0x300 (fun _ old v _ =>
      ((if v.getLsbD 12 = true ∧ v.getLsbD 11 = false then (v &&& ~~~0x1800) ||| (old &&& 0x1800) else v) &&& 0x7E19AA)
        ||| 0x8000000A00006000)
  ∧ reads 0x100 (fun _ _ v _ => (v &&& 0xC0122) ||| 0x8000000200006000)
  ∧ reads 0x104 (fun s _ v _ => v &&& s.me.rv.mideleg &&& 0x30222)
  ∧ reads 0x144 (fun s old v _ => (old &&& ~~~2) ||| (v &&& s.me.rv.mideleg &&& 2))
  ∧ reads 0x344 (fun _ old v _ => (old &&& ~~~0x222) ||| (v &&& 0x222))
  ∧ (∀ s, effect .pdrightsWrite [(0x5CB, 0x1FFFFFFFFFF000)] s)
  ∧ (∀ s, effect .prridxWrite [(0x5C8, 0xFFFFFFFF000000FF)] s)
  ∧ (∀ s, effect .tcqWrite [(0x5CC, all)] s)
  ∧ (∀ s, s.tileQueued s.cur = false → effect .matrixCsrWrite [(0x810, 0x8F0FFF), (0x811, all), (0x812, all)] s))
  ∧ (∀ c s old, c.csr = 0x5C0 → s.csrFault c = none → c.writes = true → s.csr s.cur 0x5C0 = some old →
    let v := csrNew c.kind old (s.csrOperand c)
    ∃ t q, exec (.quantumWrite c) s = .next t ∧ OnlyThread s t
      ∧ (∀ i, i ≠ 62 → q.getLsbD i = v.getLsbD i)
      ∧ q.getLsbD 62 = decide (v.toNat % 2 ^ 40 < s.me.sc.swcost.toNat + 1024)
      ∧ t.me = { s.me with x := t.me.x, sc := { s.me.sc with quantum := q }, pc := s.me.pc + 4, instret := s.me.instret + 1,
                           wait := none, far := [], st := s.me.st.woken }
      ∧ (∀ r, t.x r = if r = 0 then 0 else if r = c.rd then old else s.x r)
      ∧ t.me.quantumEff = max (v.toNat % 2 ^ 40) (s.me.sc.swcost.toNat + 1024))
  ∧ (∀ c s old, s.csrFault c = none → c.writes = false → s.csr s.cur c.csr.toNat = some old →
    ∃ t, exec (.rv64BaseInstruction (.csrRead c)) s = .next t ∧ WritesX s t c.rd old 4)
  ∧ (∀ c s, skRange c.csr.toNat = true → s.me.priv = .u →
      (skSupervisor c.csr.toNat = true ∨ (c.writes = true ∧ skReadOnly c.csr.toNat = true)) →
      exec (.csrWrite c) s = .next (s.trap s.cur { cause := 25, tval := BitVec.ofNat 64 c.word })
      ∧ exec (.rv64BaseInstruction (.csrRead c)) s
          = .next (s.trap s.cur { cause := 25, tval := BitVec.ofNat 64 c.word }))
  ∧ (∀ c s, skRange c.csr.toNat = true → s.me.priv ≠ .u → c.writes = true → skReadOnly c.csr.toNat = true →
      exec (.csrWrite c) s = .next (s.trap s.cur { cause := 2, tval := BitVec.ofNat 64 c.word }))
  ∧ (∀ (s : State) loc, s.csr loc 0xCC0 = some (BitVec.ofNat 64 (s.pkg.toNat * 2 ^ 12 + loc)) ∧ s.csr loc 0xCC2 = some s.tick
      ∧ s.csr loc 0xCC6 = some (BitVec.ofNat 64 ((s.slot loc).inbox.length + (s.slot loc).ibReserved * 2 ^ 8)))



/-- R260, R338, R349: a synchronising instruction of a thread with no posted and no held store finds nothing to wait for,
and so does a release when no reference store is in transit, no subscription is held anywhere and the thread has written
to no other package since its last release; a held store makes a fence take DEFERRED_STORE_FAULT (cause 28) with the address of
the oldest. So fenceScope, fence and fenceI complete. The model's choices and readings: log 24. -/
def Obligations.ReleasesWaitForStores : Prop :=
  (∀ s : State, s.me.posted = [] → s.me.held = [] → ∃ d, s.syncGate = .ok d ∧ OnlyThread s d ∧ d.me = s.me)
  ∧ (∀ (s : State) sc, s.me.posted = [] → s.me.held = [] → s.me.refHeld = [] → (∀ c ∈ s.cores, c.2.subs = []) →
      (∀ e ∈ s.farTo, e.agent ≠ tidNo s.tid) →
      ∃ d, s.release sc = .ok d ∧ OnlyThread s d ∧ d.me = s.me)
  ∧ (∀ sc s u, s.release sc = .ok u → ∃ t, exec (.fenceScope sc) s = .next t ∧ WritesNone u t 4)
  ∧ (∀ fm pred succ s u, s.release .pkg = .ok u → ∃ t, exec (.fence fm pred succ) s = .next t ∧ WritesNone u t 4)
  ∧ (∀ s h r, s.me.posted = [] → s.me.held = h :: r → s.me.gang = none → s.me.wait = none →
      ∀ i, i = .fence 0 0xF 0xF ∨ (∃ sc, i = .fenceScope sc) →
      ∃ t, exec i s = .next t ∧ OnlyThread (s.dropAsks (tidNo s.tid)) t ∧ t.me = s.me.takeTrap s.tick { cause := 28, tval := h.addr })
  ∧ (∀ s, s.me.posted = [] → ∃ t, exec .fenceI s = .next t ∧ t = { s with slots := t.slots, cores := t.cores }
      ∧ (∀ l, l ≠ s.cur → t.slot l = s.slot l)
      ∧ (∀ c, t.core c = if c = coreOf s.cur then { s.core c with icache := [] } else s.core c)
      ∧ t.me = { s.me with pc := s.me.pc + 4, instret := s.me.instret + 1, wait := none, far := [], st := s.me.st.woken })

/-- R245, R248, R260: a load reads the bytes at the place its address reaches, little-endian, and changes only PLBs; the
thread's posted stores are served before it where one covers a byte of it (R336). A bit 63 in the address is
RAW_ACCESS_TO_MANAGED_PAGE (cause 48), another bit above 55 an access fault (5), a held store over its bytes
DEFERRED_STORE_FAULT. R129, R148, R350: the loads write what they read: a scalar load extended, boxed or as it is,
`ld.acq` sign-extended once the thread's earlier releases to other packages have been performed, `cbld` its whole bank or
nothing. A misaligned one takes cause 4 and reads nothing. So scalarLoad, ldAcq and cbld complete. The model's choices and
readings: log 24. -/
def Obligations.ScalarLoads : Prop :=
  (∀ (s u : State) va n p e, let d := s.drainOver s.cur va.toNat n
    ptrCheck .load va = none → d.me.heldOver va.toNat n = false → d.reach s.cur .load va n = (u, .ok (p, e)) → p.near →
    s.load va n = .ok (u, bytesNat (u.mem.bytes (u.key p) n)) ∧ Translated d u ∧ d.cur = s.cur)
  ∧ (∀ (s : State) va n, va.getLsbD 63 = true → s.load va n = .error (s.trap s.cur { cause := 48, tval := va }))
  ∧ (∀ (s : State) va n, va.getLsbD 63 = false → va.toNat / 2 ^ 56 ≠ 0 →
      s.load va n = .error (s.trap s.cur { cause := 5, tval := va }))
  ∧ (∀ (s u : State) va n c, let d := s.drainOver s.cur va.toNat n
    ptrCheck .load va = none → d.me.heldOver va.toNat n = false → d.reach s.cur .load va n = (u, .error c) →
    s.load va n = .error (u.trap s.cur { cause := c, tval := va }))
  ∧ (∀ (s : State) va n, ptrCheck .load va = none → (s.drainOver s.cur va.toNat n).me.heldOver va.toNat n = true →
      s.load va n = .error ((s.drainOver s.cur va.toNat n).raiseDeferred s.cur))
  ∧ (∀ (ld : LoadOp) s u v, let a := s.x ld.rs1 + ld.off.signExtend 64
    a.toNat % 2 ^ ld.w.toNat = 0 → s.load a (2 ^ ld.w.toNat) = .ok (u, v) → ld.fp = false →
    ∃ t, exec (.scalarLoad ld) s = .next t
      ∧ WritesX u t ld.rd (if ld.uns then BitVec.ofNat 64 v else sextW (8 * 2 ^ ld.w.toNat) v) 4)
  ∧ (∀ (ld : LoadOp) s u v, let a := s.x ld.rs1 + ld.off.signExtend 64
    a.toNat % 2 ^ ld.w.toNat = 0 → s.load a (2 ^ ld.w.toNat) = .ok (u, v) → ld.fp = true →
    ∃ t, exec (.scalarLoad ld) s = .next t
      ∧ WritesF u t ld.rd (if ld.w.toNat = 2 then boxed .s v else BitVec.ofNat 64 v) 0 4)
  ∧ (∀ (ld : LoadOp) s, let a := s.x ld.rs1 + ld.off.signExtend 64
    a.toNat % 2 ^ ld.w.toNat ≠ 0 → exec (.scalarLoad ld) s = .next (s.trap s.cur { cause := 4, tval := a }))
  ∧ (∀ sc w rd rs1 s s1 s2 u v, let n := if w then 8 else 4
    (s.x rs1).toNat % n = 0 → s.protect .load (s.x rs1) n = .ok s1 → s1.me.heldOver (s.x rs1).toNat n = false →
    (if sc = .thr then .ok s1 else s1.awaitReleases) = .ok s2 → s2.load (s.x rs1) n = .ok (u, v) →
    ∃ t, exec (.ldAcq sc w rd rs1) s = .next t
      ∧ WritesX u t rd (if w then BitVec.ofNat 64 v else (BitVec.ofNat 32 v).signExtend 64) 4)
  ∧ (∀ bank rs1 s u ws, (s.x rs1).toNat % 64 = 0 → s.loads (s.x rs1) 4 64 = .ok (u, ws) →
    ∃ t, exec (.cbld bank rs1) s = .next t
      ∧ ThreadStep u t 4 { u.me with cb := t.me.cb, dirty := u.me.dirty ||| dirtyCb }
      ∧ ∀ (b : Fin 4) (i : Fin 64), t.me.cb[b][i] = if b.val = bank.toNat then BitVec.ofNat 32 (ws.getD i.val 0) else u.me.cb[b][i])
  ∧ (∀ bank rs1 s, (s.x rs1).toNat % 64 ≠ 0 →
    exec (.cbld bank rs1) s = .next (s.trap s.cur { cause := 4, tval := s.x rs1 }))


/-- R246, R248, R260: a plain store with its translation at hand writes the low bytes of its register at the place it
reaches and nothing else; one with none is posted; one over a held store of its thread is held with it, in its place in
program order. R338, R351: `st.rel` is a release at its scope, then a store that is never deferred,
behind the thread's posted stores to the same bytes (R336). So plainStore and
stRel complete. The model's choices and readings: log 24. -/
def Obligations.ScalarStores : Prop :=
  (∀ (st : StoreOp) s u p e, let a := s.x st.rs1 + st.off.signExtend 64
    let n := 2 ^ st.w.toNat
    let v := (if st.fp then s.me.fr st.rs2 else s.x st.rs2)
    MemoryInv s → a.toNat % n = 0 → ptrCheck .store a = none → s.me.heldOver a.toNat n = false → s.atHand s.cur a = true →
    s.me.posted.any (fun q => overlaps a.toNat n q.addr.toNat q.width) = false → s.isFar a = false →
    s.reach s.cur .store a n = (u, .ok (p, e)) → p.near → (∀ x, e = some x → x.repl = false) →
    ∃ w t, exec (.plainStore st) s = .next t ∧ Translated s u ∧ Writes u w s.cur p n v.toNat ∧ WritesNone w t 4)
  ∧ (∀ (st : StoreOp) s, let a := s.x st.rs1 + st.off.signExtend 64
    let n := 2 ^ st.w.toNat
    let v := (if st.fp then s.me.fr st.rs2 else s.x st.rs2)
    a.toNat % n = 0 → ptrCheck .store a = none → s.me.heldOver a.toNat n = false → s.atHand s.cur a = false →
    s.me.held.length + s.me.posted.length < 8 →
    ∃ t, exec (.plainStore st) s = .next t ∧ OnlyThread s t
      ∧ t.me = { s.me with posted := s.me.posted ++ [⟨a, n, BitVec.ofNat 64 (v.toNat % 2 ^ (8 * n)), none, none, false, s.me.stSeq, s.me.sc.pdrights⟩],
                           stSeq := s.me.stSeq + 1, pc := s.me.pc + 4, instret := s.me.instret + 1, wait := none, far := [],
                           st := s.me.st.woken })
  ∧ (∀ (st : StoreOp) s, let a := s.x st.rs1 + st.off.signExtend 64
    let n := 2 ^ st.w.toNat
    let v := (if st.fp then s.me.fr st.rs2 else s.x st.rs2)
    a.toNat % n = 0 → ptrCheck .store a = none → s.me.heldOver a.toNat n = true →
    s.me.held.length + s.me.posted.length < 8 →
    ∃ t c, exec (.plainStore st) s = .next t ∧ OnlyThread s t
      ∧ t.me = { s.me.hold ⟨a, n, BitVec.ofNat 64 (v.toNat % 2 ^ (8 * n)), c, s.me.stSeq, false⟩ with
                 stSeq := s.me.stSeq + 1, pc := s.me.pc + 4, instret := s.me.instret + 1, wait := none, far := [],
                 st := s.me.st.woken })
  ∧ (∀ (st : StoreOp) s, let a := s.x st.rs1 + st.off.signExtend 64
    a.toNat % 2 ^ st.w.toNat ≠ 0 → exec (.plainStore st) s = .next (s.trap s.cur { cause := 6, tval := a }))
  ∧ (∀ sc w rs1 rs2 s s1 s2 u p e, let n := if w then 8 else 4
    let a := s.x rs1
    (∀ f ∈ s.me.far, f.1 ≠ a) →
    a.toNat % n = 0 → s.protect .store a n = .ok s1 → s1.release sc = .ok s2 → ptrCheck .store a = none →
    let d := s2.drainOver s.cur a.toNat n
    d.me.heldOver a.toNat n = false →
    d.reach s.cur .store a n = (u, .ok (p, e)) → MemoryInv d → p.near → (∀ x, e = some x → x.repl = false) →
    s2.isFar a = false →
    ∃ x t, exec (.stRel sc w rs1 rs2) s = .next t ∧ Translated d u ∧ Writes u x s.cur p n ((s.x rs2).toNat % 2 ^ (8 * n))
      ∧ WritesNone x t 4)
  ∧ (∀ sc w rs1 rs2 s, (∀ f ∈ s.me.far, f.1 ≠ s.x rs1) → (s.x rs1).toNat % (if w then 8 else 4) ≠ 0 →
    exec (.stRel sc w rs1 rs2) s = .next (s.trap s.cur { cause := 6, tval := s.x rs1 }))


/-- R340, R352: an atomic answers the value it found at its place and writes its new value there, or nothing where there
is none. R352: a scoped AMO is a release at its scope, then its atomic; `rd` takes the old value. The new value is that of
the operation: CAS writes only where it finds `rd`'s value, and the FP sums are of FP32 or two BF16 numbers. So amoI64,
amoI32, amoFaddF32, amoFadd2Bf16 and amoCas128 complete. The model's choices and readings: log 24. -/
def Obligations.ScopedAtomics : Prop :=
  (∀ (s u : State) va n o f p e, let d := s.drainOver s.cur va.toNat n
    let old := bytesNat (u.mem.bytes (u.key p) n)
    MemoryInv d → ptrCheck .amo va = none → d.me.heldOver va.toNat n = false → d.reach s.cur .amo va n = (u, .ok (p, e)) → p.near →
    (∀ x, e = some x → x.repl = false) →
    Translated d u
      ∧ (f old = none → s.atomic va n o f = .ok (u, old))
      ∧ (∀ v, f old = some v → ∃ w, s.atomic va n o f = .ok (w, old) ∧ Writes u w s.cur p n v))
  ∧ (let runs (i : Instr) (sc : Scope) (rd : BitVec 5) (n : Nat) (o : FarOp) (s : State) (a : Word) : Prop :=
    let done (u : State) (old : Nat) : Prop := ∃ t, exec i s = .next t
      ∧ WritesX u t rd (if n = 4 then (BitVec.ofNat 32 old).signExtend 64 else BitVec.ofNat 64 old) 4
    (∀ s1 s2 u old, (∀ f ∈ s.me.far, f.1 ≠ a) → a.toNat % n = 0 → s.protect .amo a n = .ok s1 →
      (if sc = .thr then .ok s1 else s1.release sc) = .ok s2 → s2.atomic a n o o.new = .ok (u, old) → done u old)
    ∧ (∀ u old, (∃ f ∈ s.me.far, f.1 = a) → s.atomic a n o o.new = .ok (u, old) → done u old)
    ∧ ((∀ f ∈ s.me.far, f.1 ≠ a) → a.toNat % n ≠ 0 → exec i s = .next (s.trap s.cur { cause := 6, tval := a }))
  (∀ op sc rd rs1 rs2 s, runs (.amoI64 op sc rd rs1 rs2) sc rd 8 (.int op true (s.x rs2) (s.x rd)) s (s.x rs1))
  ∧ (∀ op sc rd rs1 rs2 s, runs (.amoI32 op sc rd rs1 rs2) sc rd 4 (.int op false (s.x rs2) (s.x rd)) s (s.x rs1))
  ∧ (∀ sc rd rs1 rs2 s, runs (.amoFaddF32 sc rd rs1 rs2) sc rd 4 (.faddF32 ((s.x rs2).extractLsb' 0 32)) s (s.x rs1))
  ∧ (∀ sc rd rs1 rs2 s, runs (.amoFadd2Bf16 sc rd rs1 rs2) sc rd 4 (.fadd2Bf16 ((s.x rs2).extractLsb' 0 32)) s (s.x rs1))
  ∧ (∀ sc rd rs1 rs2 s s1 s2 u old, (∀ f ∈ s.me.far, f.1 ≠ s.x rs1) → (s.x rs1).toNat % 16 = 0 →
      s.protect .amo (s.x rs1) 16 = .ok s1 → (if sc = .thr then .ok s1 else s1.release sc) = .ok s2 →
      s2.atomic (s.x rs1) 16 (.cas128 (s.pair rd) (s.pair rs2))
        (fun old => if old = (s.pair rd).toNat then some (s.pair rs2).toNat else none) = .ok (u, old) →
      ∃ t, exec (.amoCas128 sc rd rs1 rs2) s = .next t
        ∧ WritesXX u t (pairLo rd) (BitVec.ofNat 64 old) (pairHi rd) (BitVec.ofNat 64 (old / 2 ^ 64)) 4)
  ∧ (∀ op dbl (src exp : Word) old, let w := if dbl then 64 else 32
      (FarOp.int op dbl src exp).new old = amoNew op w (src.toNat % 2 ^ w) (exp.toNat % 2 ^ w) old)
  ∧ (∀ (src : Half) old, (FarOp.faddF32 src).new old = some (addF32 old src.toNat)
      ∧ (FarOp.fadd2Bf16 src).new old = some (addBf16x2 old src.toNat))
  ∧ (∀ w src exp old, amoNew .add w src exp old = some ((old + src) % 2 ^ w) ∧ amoNew .swap w src exp old = some src
      ∧ amoNew .cas w src exp old = (if old = exp then some src else none)))


/-- R130: LR reads and takes the reservation of its 64-byte block; SC stores and writes 0 while the thread holds that
reservation, else writes 1 and stores nothing, and gives the reservation up either way; an A-extension AMO is an atomic at
`.pkg`; with rl it is first a release at `.pkg`, with aq alone it comes after the thread's earlier releases (R337). A
misaligned one takes cause 4 or 6. An access to another package is a request that its port performs (R246). So
lr, sc and rvAmo complete. -/
def Obligations.LoadReservedStoreConditional : Prop :=
  (∀ (s s0 s1 : State) k a n aq rl, (∀ f ∈ s.me.far, f.1 ≠ a) → a.toNat % n = 0 → s.notHeld a n = .ok s0 →
    s0.protect k a n = .ok s1 →
    s.rvGate k a n aq rl = if rl then s1.release .pkg else if aq then s1.awaitReleases else .ok s1)
  ∧ (∀ (s : State) k a n aq rl, (∃ f ∈ s.me.far, f.1 = a) → s.rvGate k a n aq rl = .ok s)
  ∧ (∀ dbl aq rl rd rs1 s s2 s3 p e u v, let n := if dbl then 8 else 4
    let a := s.x rs1
    let far (w : Word) : Except State (State × Nat) :=
      (s3.ask .load a 0 (fun id => .farAmo id w (.lr dbl))).map (fun r => (r.1, r.2.toNat % 2 ^ (8 * n)))
    s.rvGate .load a n aq rl = .ok s2 → s2.beforeAccess .load a n = .ok (s3, p, e) →
    (match p with
      | .far w => far w
      | _ => .ok (s3, s3.get p n)) = .ok (u, v) →
    ∃ t, exec (.lr dbl aq rl rd rs1) s = .next t
      ∧ ThreadStep u t 4 { u.me with x := t.me.x, resv := some (u.resvBlock a n) }
      ∧ ∀ q, t.x q = if q = 0 then 0 else if q = rd then (if dbl then BitVec.ofNat 64 v else (BitVec.ofNat 32 v).signExtend 64)
          else u.x q)
  ∧ (∀ dbl aq rl rd rs1 rs2 s s2 u p e, let n := if dbl then 8 else 4
    let a := s.x rs1
    s.rvGate .store a n aq rl = .ok s2 → s2.beforeAccess .store a n = .ok (u, p, e) →
    (u.me.resv ≠ some ((homePlace a p e).block 0) →
      ∃ t, exec (.sc dbl aq rl rd rs1 rs2) s = .next t ∧ ThreadStep u t 4 { u.me with x := t.me.x, resv := none }
        ∧ ∀ q, t.x q = if q = 0 then 0 else if q = rd then 1 else u.x q)
    ∧ (u.me.resv = some ((homePlace a p e).block 0) → MemoryInv u → p.near → (∀ x, e = some x → x.repl = false) →
      ∃ w t, exec (.sc dbl aq rl rd rs1 rs2) s = .next t
        ∧ Writes (u.setMe { u.me with resv := none }) w s.cur p n ((s.x rs2).toNat % 2 ^ (8 * n)) ∧ WritesX w t rd 0 4)
    ∧ (∀ w z d, p = .far w → u.me.resv = some ((homePlace a p e).block 0) →
      u.ask .store a 0 (fun id => .farAmo id w (.sc dbl (BitVec.ofNat 64 ((s.x rs2).toNat % 2 ^ (8 * n))))) = .ok (z, d) →
      ∃ t, exec (.sc dbl aq rl rd rs1 rs2) s = .next t ∧ ThreadStep z t 4 { z.me with x := t.me.x, resv := none }
        ∧ ∀ q, t.x q = if q = 0 then 0 else if q = rd then (if d = 0 then 0 else 1) else z.x q))
  ∧ (∀ op dbl aq rl rd rs1 rs2 s s2 u old, let n := if dbl then 8 else 4
    let a := s.x rs1
    let o : FarOp := .int (rvAmoOf op) dbl (s.x rs2) 0
    s.rvGate .amo a n aq rl = .ok s2 →
    s2.atomic a n o (amoNew (rvAmoOf op) (8 * n) ((s.x rs2).toNat % 2 ^ (8 * n)) 0) = .ok (u, old) →
    ∃ t, exec (.rvAmo op dbl aq rl rd rs1 rs2) s = .next t
      ∧ WritesX u t rd (if dbl then BitVec.ofNat 64 old else (BitVec.ofNat 32 old).signExtend 64) 4)
  ∧ (∀ dbl aq rl rd rs1 s, (∀ f ∈ s.me.far, f.1 ≠ s.x rs1) → (s.x rs1).toNat % (if dbl then 8 else 4) ≠ 0 →
    exec (.lr dbl aq rl rd rs1) s = .next (s.trap s.cur { cause := 4, tval := s.x rs1 }))
  ∧ (∀ dbl aq rl rd rs1 rs2 s, (∀ f ∈ s.me.far, f.1 ≠ s.x rs1) → (s.x rs1).toNat % (if dbl then 8 else 4) ≠ 0 →
    exec (.sc dbl aq rl rd rs1 rs2) s = .next (s.trap s.cur { cause := 6, tval := s.x rs1 }))

/-- R154 to R156, R158, R160, R161: an integer lane instruction gives each active element its exact result wrapped or
clamped to the type, the shifts taking their amount modulo the width; inactive elements, every other register and all of
memory stay, and the result enters the last-result ring. So vadd, vsub, vmul, vmulh, vmadd, vmin, vmax, vabs, vand, vor,
vxor, vandn, vsll, vsrl and vsra complete. -/
def Obligations.VectorIntegerLanes : Prop :=
  ∀ (a : VA) (s : State), a.ty ≠ .i64 →
    let w := a.ty.width
    let g := a.ty.signed
    let p (j : Nat) : Nat := elemOf w (s.me.src a.ty false a.s1) j
    let q (j : Nat) : Nat := elemOf w (s.me.src2 a.ty false a.s2) j
    let x (j : Nat) : Int := ival g w (p j)
    let y (j : Nat) : Int := ival g w (q j)
    let z (j : Nat) : Int := ival g w (elemOf w (s.me.src3 a.ty a.s3) j)
    let runs (i : Instr) (f : Nat → Nat) : Prop :=
      ∃ t, exec i s = .next t ∧ VecResult s t a.ty a.d (s.me.mask a.mask) f
    runs (.vadd a) (fun j => narrow g a.sat w (x j + y j))
    ∧ runs (.vsub a) (fun j => narrow g a.sat w (x j - y j))
    ∧ runs (.vmul a) (fun j => narrow g a.sat w (x j * y j))
    ∧ runs (.vmulh a) (fun j => narrow g false w (x j * y j / 2 ^ w))
    ∧ runs (.vmadd a) (fun j => narrow g a.sat w (x j * y j + z j))
    ∧ runs (.vmin a) (fun j => wrap w (min (x j) (y j)))
    ∧ runs (.vmax a) (fun j => wrap w (max (x j) (y j)))
    ∧ runs (.vabs a) (fun j => narrow g a.sat w (x j).natAbs)
    ∧ runs (.vand a) (fun j => p j &&& q j)
    ∧ runs (.vor a) (fun j => p j ||| q j)
    ∧ runs (.vxor a) (fun j => p j ^^^ q j)
    ∧ runs (.vandn a) (fun j => p j &&& (2 ^ w - 1 - q j))
    ∧ runs (.vsll a) (fun j => p j * 2 ^ (q j % w))
    ∧ runs (.vsrl a) (fun j => p j / 2 ^ (q j % w))
    ∧ runs (.vsra a) (fun j => wrap w (sval w (p j) / 2 ^ (q j % w)))

/-- R40 to R43, R162, R163: a floating-point lane instruction gives each active element its exact result rounded once by
the mode of the word, overflow saturating where the word says so. So vfadd, vfsub, vfmul, vfma, vfmin, vfmax, vfdiv,
vfsqrt, vfrcp, vfrsq, vfexp2 and vflog2 complete. The model's choices and readings: log 9, 12. -/
def Obligations.VectorFloatLanes : Prop :=
  ∀ (a : VA) (s : State), a.ty ≠ .i64 →
    let w := a.ty.width
    let m := a.ty.fmt
    let x (j : Nat) : FV := m.decode (elemOf w (s.me.src a.ty false a.s1) j)
    let y (j : Nat) : FV := m.decode (elemOf w (s.me.src2 a.ty false a.s2) j)
    let z (j : Nat) : FV := m.decode (elemOf w (s.me.src3 a.ty a.s3) j)
    let runs (i : Instr) (f : Nat → FV) : Prop :=
      ∃ t, exec i s = .next t ∧ VecResult s t a.ty a.d (s.me.mask a.mask) (fun j => m.encode a.rnd a.sat (f j))
    runs (.vfadd a) (fun j => (x j).add a.rnd (y j))
    ∧ runs (.vfsub a) (fun j => (x j).sub a.rnd (y j))
    ∧ runs (.vfmul a) (fun j => (x j).mul (y j))
    ∧ runs (.vfma a) (fun j => ((x j).mul (y j)).add a.rnd (z j))
    ∧ runs (.vfmin a) (fun j => (x j).minNum (y j))
    ∧ runs (.vfmax a) (fun j => (x j).maxNum (y j))
    ∧ runs (.vfdiv a) (fun j => (x j).div (y j))
    ∧ runs (.vfsqrt a) (fun j => (x j).sqrt)
    ∧ runs (.vfrcp a) (fun j => FV.one.div (x j))
    ∧ runs (.vfrsq a) (fun j => (x j).rsqrt)
    ∧ runs (.vfexp2 a) (fun j => (x j).exp2)
    ∧ runs (.vflog2 a) (fun j => (x j).log2)

/-- R165: `vsel` (opcode 0x21, F0, modifier Z, types 0x0 to 0x5 and 0x7 to 0x9) writes every lane, from source 1 where the
mask has the lane and from source 2 elsewhere; with k0 the result is source 1. So vsel completes. -/
def Obligations.VselSelectsLanes : Prop :=
  (∀ (a : VA) (s : State), a.ty ≠ .i64 → ∃ t, exec (.vsel a) s = .next t
    ∧ VecResult s t a.ty a.d (2 ^ 32 - 1) (fun j => if elemOn (s.me.mask a.mask) a.ty.width j
        then elemOf a.ty.width (s.me.src a.ty false a.s1) j else elemOf a.ty.width (s.me.src2 a.ty false a.s2) j)
    ∧ (a.mask = 0 → VecResult s t a.ty a.d (2 ^ 32 - 1) (fun j => elemOf a.ty.width (s.me.src a.ty false a.s1) j)))
  ∧ (∀ a : VA, (Instr.vsel a).wf = true →
      (a.ty.code ≤ 5 ∨ (7 ≤ a.ty.code ∧ a.ty.code ≤ 9))
      ∧ ∃ f, encodeX (.vsel a) = some f ∧ f.opc = 0x21 ∧ f.fmt = 0 ∧ f.mod = 0)

/-- R164 to R167: `vcmp` writes the bits of active lanes of its mask register, each the condition on every element of the
lane; the mask instructions work on whole mask registers, k0 discarding what it is given and reading all ones. So vcmp,
kand, kor, kxor, kandn, knot, kpop and kfirst complete. -/
def Obligations.VectorComparesAndMasks : Prop :=
  (∀ c kd ty mask s1 s2 s, ∃ t v, exec (.vcmp c kd ty mask s1 s2) s = .next t ∧ WritesK s t kd v 8
    ∧ ∀ i, i < 32 → v.getLsbD i = if (s.me.kr mask).getLsbD i
        then laneCond c ty (s.me.src ty false s1) (s.me.src2 ty false s2) i else (s.me.kr kd).getLsbD i)
  ∧ (∀ d a b s, ∃ t, exec (.kand d a b) s = .next t ∧ WritesK s t d (s.me.kr a &&& s.me.kr b) 8)
  ∧ (∀ d a b s, ∃ t, exec (.kor d a b) s = .next t ∧ WritesK s t d (s.me.kr a ||| s.me.kr b) 8)
  ∧ (∀ d a b s, ∃ t, exec (.kxor d a b) s = .next t ∧ WritesK s t d (s.me.kr a ^^^ s.me.kr b) 8)
  ∧ (∀ d a b s, ∃ t, exec (.kandn d a b) s = .next t ∧ WritesK s t d (s.me.kr a &&& ~~~(s.me.kr b)) 8)
  ∧ (∀ d a s, ∃ t, exec (.knot d a) s = .next t ∧ WritesK s t d (~~~(s.me.kr a)) 8)
  ∧ (∀ xd a s, ∃ t, exec (.kpop xd a) s = .next t
    ∧ WritesX s t xd (BitVec.ofNat 64 ((List.range 32).filter (fun i => (s.me.kr a).getLsbD i)).length) 8)
  ∧ (∀ xd a s, ∃ t n, exec (.kfirst xd a) s = .next t ∧ WritesX s t xd (BitVec.ofNat 64 n) 8
    ∧ n ≤ 32 ∧ (∀ i, i < n → (s.me.kr a).getLsbD i = false) ∧ (n < 32 → (s.me.kr a).getLsbD n = true))

/-- R168 to R171: the conversions give each element they write the source's value in the destination's type: narrowing
into the part of the register that the literal names, widening out of it, one block of 48 elements to and from SB48, of
which a scalar register takes or gives one mantissa (log 50), integers and codes packed and unpacked, and the affine codes
of `vqnt` and `vdq` by the scale word. So vcvt, vpack, vunpack, vqnt and vdq complete. The model's choices and readings:
log 11. -/
def Obligations.VectorConversions : Prop :=
  ∀ (a : VC) (s : State), a.dt ≠ .i64 →
    let k := s.me.mask a.mask
    let wd := a.dt.width
    let ws := a.st.width
    let x := s.me.src a.st false a.s1
    let y := s.me.src a.st false a.s2
    let j := litNum a.s2
    let c := s.me.scaleWord a.s2
    (a.dt ≠ .sb48 → a.st ≠ .sb48 → wd = ws → ∃ t, exec (.vcvt a) s = .next t
      ∧ VecResult s t a.dt a.d (k &&& (2 ^ 32 - 1)) (fun i => cvtElem a.dt a.st a.rnd a.sat (elemOf ws x i)))
    ∧ (a.dt ≠ .sb48 → a.st ≠ .sb48 → ws < wd → ∃ t, exec (.vcvt a) s = .next t
      ∧ VecResult s t a.dt a.d (k &&& (2 ^ 32 - 1))
          (fun i => cvtElem a.dt a.st a.rnd a.sat (elemOf ws x (j * perReg wd + i))))
    ∧ (a.dt ≠ .sb48 → a.st ≠ .sb48 → wd < ws → ∃ t, exec (.vcvt a) s = .next t
      ∧ VecResult s t a.dt a.d (k &&& (2 ^ ((j + 1) * 32 / (ws / wd)) - 2 ^ (j * 32 / (ws / wd))))
          (fun i => if j * perReg ws ≤ i ∧ i < (j + 1) * perReg ws
            then cvtElem a.dt a.st a.rnd a.sat (elemOf ws x (i - j * perReg ws)) else 0))
    ∧ (a.dt = .sb48 → ∃ t, exec (.vcvt a) s = .next t
      ∧ VecResult s t a.dt a.d (k &&& (2 ^ 32 - 1)) (elemOf wd (toBlock (sbWidth a.m) a.st a.rnd a.sat x y))
      ∧ ∀ n, a.d = .x n → ∀ r, t.x r = if r = 0 then 0 else if r = n ∧ elemOn k 32 0 then
          BitVec.ofNat 64 (toBlock (sbWidth a.m) a.st a.rnd a.sat x y % 2 ^ sbWidth a.m) else s.x r)
    ∧ (a.dt ≠ .sb48 → a.st = .sb48 → ∃ t, exec (.vcvt a) s = .next t
      ∧ VecResult s t a.dt a.d (k &&& (2 ^ 32 - 1)) (elemOf wd (ofBlock (sbWidth a.m) a.dt a.rnd a.sat (s.me.srcBlock (sbWidth a.m) a.s1) j)))
    ∧ (∃ t, exec (.vpack a) s = .next t
      ∧ VecResult s t a.dt a.d (k &&& (2 ^ 32 - 1)) (fun i => narrow a.dt.signed a.sat wd
          (ival a.st.signed ws (if i < perReg ws then elemOf ws x i else elemOf ws y (i - perReg ws)))))
    ∧ (∃ t, exec (.vunpack a) s = .next t
      ∧ VecResult s t a.dt a.d (k &&& (2 ^ 32 - 1))
          (fun i => wrap wd (ival a.st.signed ws (elemOf ws x (j * perReg wd + i)))))
    ∧ (∃ t, exec (.vqnt a) s = .next t
      ∧ VecResult s t .u32 a.d k (fun i => qaQuant (2 ^ wd - 1) (c % 2 ^ 16) (c / 2 ^ 16 % 256) a.rnd
          (fp32.decode (elemOf 32 (s.me.src .f32 false a.s1) i))))
    ∧ (a.dt = .f32 → ∃ t, exec (.vdq a) s = .next t
      ∧ VecResult s t .f32 a.d (k &&& (2 ^ 32 - 1)) (fun i => fp32.encode .rne false
          (qaValue (c % 2 ^ 16) (c / 2 ^ 16 % 256) (elemOf 32 (s.me.src .u32 false a.s1) i % 2 ^ ws))))

/-- R57, R172 to R174: `vdot4` adds four byte products to each 32-bit element; `vred` folds the active elements by the
tree of R57 with the identity in inactive places and adds its second source last; `vscan` gives every prefix. So vdot4,
vred and vscan complete. -/
def Obligations.VectorDotReduceScan : Prop :=
  ∀ (a : VA) (s : State), a.ty ≠ .i64 →
    let w := a.ty.width
    let g := a.ty.signed
    let k := s.me.mask a.mask
    let x := s.me.src a.ty false a.s1
    let y := s.me.src2 a.ty false a.s2
    (∃ t, exec (.vdot4 a) s = .next t
      ∧ VecResult s t .i32 a.d k (fun i => narrow true a.sat 32 (sval 32 (elemOf 32 (s.me.src3 .i32 a.s3) i)
          + ival g 8 (elemOf 8 x (4 * i)) * ival g 8 (elemOf 8 y (4 * i))
          + ival g 8 (elemOf 8 x (4 * i + 1)) * ival g 8 (elemOf 8 y (4 * i + 1))
          + ival g 8 (elemOf 8 x (4 * i + 2)) * ival g 8 (elemOf 8 y (4 * i + 2))
          + ival g 8 (elemOf 8 x (4 * i + 3)) * ival g 8 (elemOf 8 y (4 * i + 3)))))
    ∧ (∀ o, let es := (List.range (perReg w)).map (fun j => if elemOn k w j then elemOf w x j else redIdentity o a.ty)
      ∃ t, exec (.vred o a) s = .next t
        ∧ VecResult s t a.ty a.d (2 ^ 32 - 1)
            (elemOf w (redStep o a (treeReduce (redStep o a) (redIdentity o a.ty) es) (elemOf w y 0))))
    ∧ (∀ o, let es := (List.range (perReg w)).map (fun j => if elemOn k w j then elemOf w x j else redIdentity o a.ty)
      ∃ t, exec (.vscan o a) s = .next t
        ∧ VecResult s t a.ty a.d k (elemOf w (packElems w (scanRun (redStep o a) 8 1
            (match es with | [] => [] | h :: r => redStep o a (elemOf w y 0) h :: r)))))

/-- R175, R176: the permutes find each active element by its number: `vperm` by an index into two registers, `vshuf` by an
exclusive or, the slides by a distance with what lies beyond from source 3, `vbcast` one element everywhere; `vextr` takes
one element out, 0 beyond the register. R175: `vins` puts element 0 of its source at one place of its destination, if that
place exists and its lane is active, and leaves every other element; a scalar destination takes it only at place 0. So
vperm, vshuf, vslideUp, vslideDown, vbcast, vextr and vins complete. The model's choices and readings: log 11. -/
def Obligations.VectorPermutes : Prop :=
  (∀ (a : VA) (s : State), a.ty ≠ .i64 →
    let w := a.ty.width
    let n := perReg w
    let k := s.me.mask a.mask
    let x := s.me.src a.ty false a.s1
    let i := s.me.src2 a.ty true a.s2
    let z (e : Nat) : Nat := if e < n then elemOf w (s.me.src3 a.ty a.s3) e else 0
    let c := elemOf w i 0
    (∃ t, exec (.vperm a) s = .next t ∧ VecResult s t a.ty a.d k (fun j =>
      if elemOf w i j < n then elemOf w x (elemOf w i j) else z (elemOf w i j - n)))
    ∧ (∃ t, exec (.vshuf a) s = .next t ∧ VecResult s t a.ty a.d k (fun j => elemOf w x (j ^^^ (c % n))))
    ∧ (∃ t, exec (.vslideUp a) s = .next t ∧ VecResult s t a.ty a.d k (fun j =>
      if c ≤ j then elemOf w x (j - c) else if c ≤ n + j then z (n + j - c) else 0))
    ∧ (∃ t, exec (.vslideDown a) s = .next t ∧ VecResult s t a.ty a.d k (fun j =>
      if j + c < n then elemOf w x (j + c) else z (j + c - n)))
    ∧ (∃ t, exec (.vbcast a) s = .next t ∧ VecResult s t a.ty a.d k (fun _ => if c < n then elemOf w x c else 0))
    ∧ (∃ t, exec (.vextr a) s = .next t
      ∧ VecResult s t a.ty a.d (2 ^ 32 - 1) (elemOf w (if c < n then elemOf w x c else 0))))
  ∧ (∀ (a : VA) (s : State), a.ty ≠ .i64 →
    let w := a.ty.width
    let c := elemOf w (s.me.src2 a.ty true a.s2) 0
    let v := elemOf w (s.me.src a.ty false a.s1) 0
    let on := c < perReg w ∧ elemOn (s.me.mask a.mask) w c = true
    ((∀ n, a.d ≠ .x n) → ∃ t, exec (.vins a) s = .next t
        ∧ VecResult s t a.ty a.d (2 ^ 32 - 1) (fun j => if on ∧ j = c then v else elemOf w (s.me.dst a.d) j))
    ∧ ∀ n, a.d = .x n → ∃ t, exec (.vins a) s = .next t
        ∧ ThreadStep s t 8 { s.me with x := t.me.x, b := t.me.b, dirty := s.me.dirty ||| dirtyB }
        ∧ (∀ r, t.x r = if r = 0 then 0 else if r = n ∧ on ∧ c = 0 then extElem a.ty v else s.x r)
        ∧ (∀ j, j < perReg w → elemOf w t.me.b[0].toNat j = if on ∧ j = c then v else 0)
        ∧ t.me.b[1] = s.me.b[0] ∧ t.me.b[2] = s.me.b[1] ∧ t.me.b[3] = s.me.b[2])


/-- R177 to R181: a vector load whose every active element has passed its checks and been read puts each into its place;
one that stores performs its active elements in order and changes no register; with no active element neither touches
memory. An active element out of alignment is a precise trap (cause 4 or 6) that names it. So vld, vlds, vldx, vst, vsts,
vstx and vldb complete. The model's choices and readings: log 24. -/
def Obligations.VectorMemoryInstructions : Prop :=
  (∀ (a : VM) (s s1 u : State) vs i ea, a.ty ≠ .i64 →
    (i = .vld a ∧ ea = s.me.eaUnit a) ∨ (i = .vlds a ∧ ea = s.me.eaStride a) ∨ (i = .vldx a ∧ ea = s.me.eaIndex a) →
    s.checkLoads (s.me.active a ea) = .ok s1 → s1.readElems (s.me.active a ea) = .ok (u, vs) →
    ∃ t, exec i s = .next t
      ∧ VecResult u t a.ty (loadDst a.data) (u.me.mask a.mask) (fun j => (assoc vs j).getD 0))
  ∧ (∀ (a : VM) (s s0 s1 u : State) i ea,
    (i = .vst a ∧ ea = s.me.eaUnit a) ∨ (i = .vsts a ∧ ea = s.me.eaStride a) ∨ (i = .vstx a ∧ ea = s.me.eaIndex a) →
    let es := s.me.active a ea
    s0 = s.drain s.cur → s0.me.held = [] → (∀ e ∈ es, s0.atHand s.cur e.va = true) →
    es.foldlM (fun (v : State) e => v.checkElem .store e) s0 = .ok s1 →
    es.foldlM (fun (v : State) e => v.storePlain e.va e.n
      (BitVec.ofNat 64 (elemOf a.ty.width (s.me.src a.ty false a.data) e.elem)) e.elem) s1 = .ok u →
    ∃ t, exec i s = .next t ∧ WritesNone u t 8)
  ∧ (∀ m (a : VM) (s s1 u : State) vs, let es := s.me.blockAccs m a
    (∀ e ∈ es.head?, e.n = 4 → (s.x a.base + a.off.signExtend 64).toNat % 8 = 0) →
    s.checkLoads es = .ok s1 → s1.readElems es = .ok (u, vs) →
    ∃ t, exec (.vldb m a) s = .next t
      ∧ VecResult u t .u32 (loadDst a.data) (u.me.mask a.mask)
          (fun j => if j = 31 then (assoc vs 31).getD 0 * 2 ^ 24 else (assoc vs j).getD 0))
  ∧ (∀ (a : VM) (s : State) ea, (∀ j, elemOn (s.me.mask a.mask) a.ty.width j = false) → s.me.active a ea = []
      ∧ s.checkLoads [] = .ok s ∧ s.readElems [] = .ok (s, []))
  ∧ (∀ (s : State) k e, e.va.toNat % e.n ≠ 0 →
      s.checkElem k e = .error (s.trap s.cur { cause := k.misalignedCause, tval := e.va, elem := e.elem }))

/-- R256 to R258: on a full-empty word that no other token waits on, `ld.fe` reads a FULL word, `ld.fe.take` also empties it,
`st.fe` writes and empties it at once, and `st.fe.fill`, a release at `.die`, fills an EMPTY one. On a word in the other state
the waiting forms post a token and wait. An aligned address whose page is at hand, full-empty and within its rights is such a
word. Each of the four completes: ldFe, ldFeTake, stFe, stFeFill. -/
def Obligations.FullEmptyInstructions : Prop :=
  let alone (s u : State) (w : Nat) : Prop :=
    s.feq.any (fun q => q.loc == s.cur) = false ∧ (∀ q ∈ u.feq, q.word ≠ w) ∧ u.cur = s.cur ∧ MemoryInv u
  let waits (u t : State) (q : FeTok) (limit : Nat) (a : Word) : Prop :=
    t.feq = u.feq ++ [q] ∧ t.mem = u.mem
      ∧ t.me = { u.me with wait := some ⟨.fe, some (u.cycle + limit), 0, { trap := some (30, a) }, none, none⟩,
                           st := if u.me.st = .ready then .wait else u.me.st }
  (∀ (s : State) k a e, k = .load ∨ k = .store → a.toNat % 8 = 0 → a.toNat / 2 ^ 56 = 0 →
    aperture s.pkg.toNat (some (coreOf s.cur)) a.toNat = none → s.me.posted = [] → s.me.heldOver a.toNat 8 = false →
    (s.core (coreOf s.cur)).plb.find? (·.covers (s.cur % 4) a.toNat) = some e → granted e.rights k.rights = true →
    e.managed = false → e.repl = false → e.fe = true → s.feWord k a = .ok (s, e.frame + (a.toNat - e.page)))
  ∧ (∀ xd xb off s u w, s.feWord .load (feAddr s xb off) = .ok (u, w) → alone s u w → u.mem.isFull w = true →
    ∃ t, exec (.ldFe xd xb off) s = .next t ∧ WritesX u t xd (BitVec.ofNat 64 (u.mem.read w 8)) 8)
  ∧ (∀ xd xb off s u w, s.feWord .load (feAddr s xb off) = .ok (u, w) → alone s u w → u.mem.isFull w = true →
    ∃ p t, exec (.ldFeTake xd xb off) s = .next t ∧ Presence u p w false
      ∧ WritesX p t xd (BitVec.ofNat 64 (u.mem.read w 8)) 8)
  ∧ (∀ xs xb off s u w, s.feWord .store (feAddr s xb off) = .ok (u, w) → alone s u w →
    ∃ v p t, exec (.stFe xs xb off) s = .next t ∧ Writes u v s.cur (.dram w) 8 (s.x xs).toNat ∧ Presence v p w false
      ∧ WritesNone p t 8)
  ∧ (∀ xs xb off s d u w, s.release .die = .ok d → d.feWord .store (feAddr s xb off) = .ok (u, w) → alone s u w →
    u.mem.isFull w = false →
    ∃ v p t, exec (.stFeFill xs xb off) s = .next t ∧ Writes u v s.cur (.dram w) 8 (s.x xs).toNat ∧ Presence v p w true
      ∧ WritesNone p t 8)
  ∧ (∀ xd xb off s u w, s.feWord .load (feAddr s xb off) = .ok (u, w) → alone s u w → u.mem.isFull w = false →
    u.me.wait = none → 0 < s.waitlim →
    (∃ t, exec (.ldFe xd xb off) s = .next t ∧ waits u t ⟨w, s.cur, false, false, 0, xd⟩ s.waitlim (feAddr s xb off))
    ∧ ∃ t, exec (.ldFeTake xd xb off) s = .next t ∧ waits u t ⟨w, s.cur, true, false, 0, xd⟩ s.waitlim (feAddr s xb off))
  ∧ (∀ xs xb off s d u w, s.release .die = .ok d → d.feWord .store (feAddr s xb off) = .ok (u, w) → alone s u w →
    u.mem.isFull w = true → u.me.wait = none → 0 < s.waitlim →
    ∃ t, exec (.stFeFill xs xb off) s = .next t ∧ waits u t ⟨w, s.cur, false, true, s.x xs, 0⟩ s.waitlim (feAddr s xb off))

/-- R143, R262 to R264, R330: once its inbox entry is reserved and its block is read, a command word whose block passes
its check and whose queue holds fewer than two commands queues it and writes OK (cpy, cpyPlane, mxTile, mxTileAcc, mxSort,
mxTopk). A block that fails gives the entry back and writes RANGE; a block address out of alignment writes RANGE at once.
So cpy, cpyPlane, mxTile, mxTileAcc, mxSort and mxTopk complete. The model's choices and readings: log 13. -/
def Obligations.EngineWordsQueueTheirCommand : Prop :=
  (∀ (s s1 u : State) r b, (s.x r.s1).toNat % 64 = 0 → s.beginCommand r.d false = .ok s1 →
    s1.readBlock (s.x r.s1) 16 = .ok (u, b) → ∀ i plane, i = .cpy r ∧ plane = false ∨ i = .cpyPlane r ∧ plane = true →
    (((if plane then (CopyBlk.of b).planeOk else (CopyBlk.of b).cpyOk) = true → (u.core (coreOf s.cur)).copyQ.length < 2 →
      ∃ t, exec i s = .next t ∧ WritesX (u.modCore (coreOf s.cur) (fun k => { k with copyQ := k.copyQ ++
        [⟨BitVec.ofNat 1024 b, plane, (s.x r.s2).truncate 32, s.cur, s.tid.1, s.me.ctx, s.me.sc.pdrights⟩] })) t r.d Status.ok.word 8)
    ∧ ((if plane then (CopyBlk.of b).planeOk else (CopyBlk.of b).cpyOk) = false →
      ∃ t, exec i s = .next t ∧ WritesX u.unreserve t r.d Status.range.word 8)))
  ∧ (∀ (s s1 u : State) r b, (s.x r.s1).toNat % 64 = 0 → s.beginCommand r.d false = .ok s1 →
    s1.readBlock (s.x r.s1) 8 = .ok (u, b) → let m := s.me.u
    ∀ i form, i = .mxTile r ∧ form = .tile ∨ i = .mxTileAcc r ∧ form = .tileAcc ∨ i = .mxSort r ∧ form = .sort
        ∨ i = .mxTopk r ∧ form = .topk →
    ((mxBlockOk form b s.pkg.toNat (.core (coreOf s.cur)) m.mxfmt m.mxscale m.mxzero = true → u.mxCount (coreOf s.cur) < 2 →
      ∃ t, exec i s = .next t ∧ WritesX (u.modCore (coreOf s.cur) (fun k => { k with mxQ := k.mxQ ++
        [{ form := form, blk := BitVec.ofNat 512 b, fmt := m.mxfmt, scale := m.mxscale, zero := m.mxzero,
           who := .thread s.cur s.tid.1 s.me.ctx ((s.x r.s2).truncate 32), limit := s.waitlim, rights := s.me.sc.pdrights }] }))
        t r.d Status.ok.word 8)
    ∧ (mxBlockOk form b s.pkg.toNat (.core (coreOf s.cur)) m.mxfmt m.mxscale m.mxzero = false →
      ∃ t, exec i s = .next t ∧ WritesX u.unreserve t r.d Status.range.word 8)))
  ∧ (∀ (s d : State) r, (s.x r.s1).toNat % 64 ≠ 0 → s.syncGate = .ok d →
    ∀ i ∈ [Instr.cpy r, .cpyPlane r, .mxTile r, .mxTileAcc r, .mxSort r, .mxTopk r],
    ∃ t, exec i s = .next t ∧ WritesX d t r.d Status.range.word 8)
  ∧ (∀ (s : State) rd, s.me.posted = [] → s.me.held = [] → s.me.refHeld = [] → s.me.wait = none →
    s.me.inbox.length + s.me.ibReserved < 16 →
    ∃ d, s.beginCommand rd false = .ok d ∧ OnlyThread s d ∧ d.me = { s.me with ibReserved := s.me.ibReserved + 1 })

/-- R265: `cpy.stat` (opcode 0x63, F5, type Z, modifier Z, no mask, zero in [53:30]) writes the elements its oldest
command has performed and the commands queued or running, without waiting; it orders nothing and acquires nothing. So
cpyStat completes. -/
def Obligations.CopyStatusWord : Prop :=
  (∀ (s : State) xd, let c := s.core (coreOf s.cur)
    c.copyQ.length ≤ 2 →
    ∃ t v, exec (.cpyStat xd) s = .next t ∧ WritesX s t xd v 8
      ∧ v.toNat % 4 = c.copyQ.length ∧ v.toNat / 4 % 2 ^ 30 = 0
      ∧ v.toNat / 2 ^ 32 = if c.copyQ = [] then 0 else c.copyDone % 2 ^ 32)
  ∧ (∀ xd, encodeX (.cpyStat xd) = some
      { opc := 0x63, fmt := 5, ty := 0, mod := 0, mask := 0, minor := 0, d := xd.toNat, s1 := 0, s2 := 0, s3 := 0 })

/-- R293, R294: `kiln.go` starts its job on an idle Kiln of the die, behind a release at `.pkg`, and writes OK; that Kiln 0
is taken before Kiln 1 where both are idle is the model's choice (log 59). With both running it waits with the block it has read; `kiln.stat` reads a Kiln's word without
waiting. R310, R331: the status words of the matrix unit and of a subscription entry answer at once with the fields their
rules give, and write nothing but xd. So kilnGo, kilnStat, mxStat and subStat complete. The model's choices and readings:
log 13, 59. -/
def Obligations.KilnAndStatusWords : Prop :=
  (∀ (s s1 s2 u : State) r b, (s.x r.s1).toNat % 64 = 0 → s.beginCommand r.d false = .ok s1 →
    s1.readBlock (s.x r.s1) 8 = .ok (s2, b) → kilnJobOk b = true → s2.release .pkg = .ok u →
    let die := dieOf s.cur
    let job : Kiln := { Kiln.reset with running := true, job := BitVec.ofNat 512 b, loc := s.cur, home := s.tid.1, ctx := s.me.ctx,
                                        tag := (s.x r.s2).truncate 32, rights := s.me.sc.pdrights,
                                        d := BitVec.ofNat 64 (blkAt b 0x18 8) }
    ∀ i, (s2.kiln die 0).running = false ∧ i = 0 ∨ (s2.kiln die 0).running = true ∧ (s2.kiln die 1).running = false ∧ i = 1 →
    ∃ t, exec (.kilnGo r) s = .next t ∧ WritesX (u.setKiln die i job) t r.d Status.ok.word 8 ∧ t.kiln die i = job
      ∧ ∀ d j, (d ≠ die ∨ j % 2 ≠ i) → j < 2 → t.kiln d j = u.kiln d j)
  ∧ (∀ (s s1 s2 : State) r b, (s.x r.s1).toNat % 64 = 0 → s.beginCommand r.d false = .ok s1 →
    s1.readBlock (s.x r.s1) 8 = .ok (s2, b) → kilnJobOk b = false →
    ∃ t, exec (.kilnGo r) s = .next t ∧ WritesX s2.unreserve t r.d Status.range.word 8)
  ∧ (∀ (s s1 s2 : State) r b, (s.x r.s1).toNat % 64 = 0 → s.beginCommand r.d false = .ok s1 →
    s1.readBlock (s.x r.s1) 8 = .ok (s2, b) → kilnJobOk b = true → (∀ i, i < 2 → (s2.kiln (dieOf s.cur) i).running = true) →
    s2.me.wait = none → 0 < s2.waitlim →
    ∃ t, exec (.kilnGo r) s = .next t ∧ OnlyThread s2 t ∧ t.me = { s2.me with
      wait := some ⟨.kiln, some (s2.cycle + s2.waitlim), 0, { xs := [(r.d, Status.timeout.word)], release := true, len := 8 }, some b, none⟩,
      st := if s2.me.st = .ready then .wait else s2.me.st })
  ∧ (∀ (s : State) xd xk, let k := s.kiln (dieOf s.cur) ((s.x xk).toNat % 2)
    ∃ t, exec (.kilnStat xd xk) s = .next t
      ∧ WritesX s t xd (BitVec.ofNat 64 (min k.processed 0xFFFFFF * 2 ^ 40 + k.tag.toNat * 2 ^ 8 + k.running.toNat)) 8)
  ∧ (∀ (s : State) xd, let core := coreOf s.cur
    let u := s.clu (cluOfCore core)
    let own := u.run.isSome && u.runReq == core % 8
    s.mxCount core ≤ 2 →
    ∃ t v, exec (.mxStat xd) s = .next t ∧ WritesX s t xd v 8
      ∧ v.toNat / 2 ^ 32 = (if own then u.step % 2 ^ 32 else 0) ∧ v.toNat % 4 = s.mxCount core
      ∧ bitW v 2 = u.run.isSome ∧ bitW v 3 = u.run.any (fun c => c.ofThread s.tid)
      ∧ v.toNat / 2 ^ 4 % 2 ^ 28 = 0)
  ∧ (∀ (s : State) xd xe, 32 ≤ (s.x xe).toNat →
    ∃ t, exec (.subStat xd xe) s = .next t ∧ WritesX s t xd 0xFF00000000000000 8)
  ∧ (∀ (s : State) xd xe b, (s.x xe).toNat < 16 → s.subAt (coreOf s.cur) (s.x xe).toNat = some b → b.src < 2 ^ 20 →
    ∃ t v, exec (.subStat xd xe) s = .next t ∧ WritesX s t xd v 8 ∧ v.toNat / 2 ^ 56 = b.st.code
      ∧ bitW v 55 = (s.core (coreOf s.cur)).redirected ∧ v.toNat / 2 ^ 32 % 2 ^ 20 = b.src
      ∧ v.toNat % 2 ^ 32 = b.applied.toNat)
  ∧ (∀ (s : State) xd xe, (s.x xe).toNat < 16 → s.subAt (coreOf s.cur) (s.x xe).toNat = none →
    ∃ t v, exec (.subStat xd xe) s = .next t ∧ WritesX s t xd v 8
      ∧ v.toNat = (s.core (coreOf s.cur)).redirected.toNat * 2 ^ 55)


/-- R295, R302, R307 to R309, R311: `sub.add` claims a subscriber entry of its core and a publisher entry of the source
core, marks the snapshot of the window and writes the handle; `sub.drop` marks the end and waits until the entry is gone;
`sub.flush` closes and applies the packets, those at other packages too, once the thread's stores to other packages are
acknowledged; `race.rd` stores
ring entries and writes the record count. So subAdd, subDrop, subFlush and raceRd complete. The model's choices and
readings: log 13, 14. -/
def Obligations.SubscriptionWords : Prop :=
  (∀ (s s1 s2 u : State) r b q e p, let c := coreOf s.cur
    (s.x r.s1).toNat % 32 = 0 → s.syncGate = .ok s1 →
    s1.reserve { xs := [(r.d, subHandle .timeout 0)], len := 8 } = .ok s2 → s2.readBlock (s.x r.s1) 4 = .ok (u, b) →
    u.subReq c b = some q → freeOf (u.core c).subs = some e → freeOf (u.core q.pubCore).pubs = some p → u.subAllowed q = true →
    ∃ v t, exec (.subAdd r) s = .next t ∧ WritesX v t r.d (subHandle .ok e) 8 ∧ v = { u with cores := v.cores }
      ∧ v.subAt (coreOf u.cur) e = some
          { st := .syncing, owner := u.tid.1, ctx := u.me.ctx, tag := (s.x r.s2).truncate 32, pubCore := q.pubCore, pubIdx := p,
            src := q.src, dst := q.dst, len := q.len, snap := some (u.mem.bytes (u.spadKey q.pubCore q.src) q.len),
            opened := none, sent := [], ended := false, applied := 0 }
      ∧ assoc (v.core q.pubCore).pubs p = some ⟨coreOf u.cur, e, 0⟩)
  ∧ (∀ (s s1 s2 u : State) r b, (s.x r.s1).toNat % 32 = 0 → s.syncGate = .ok s1 →
    s1.reserve { xs := [(r.d, subHandle .timeout 0)], len := 8 } = .ok s2 → s2.readBlock (s.x r.s1) 4 = .ok (u, b) →
    u.subReq (coreOf s.cur) b = none →
    ∃ t, exec (.subAdd r) s = .next t ∧ WritesX u.unreserve t r.d (subHandle .range 0) 8)
  ∧ (∀ (s : State) xd xe b, let e := (s.x xe).toNat
    s.waiting .drain = false → e < 16 → s.subAt (coreOf s.cur) e = some b → (b.owner, b.ctx) = s.tid →
    b.st ≠ .draining → 0 < s.waitlim → s.me.wait = none →
    ∃ t, exec (.subDrop xd xe) s = .next t
      ∧ t.me = { s.me with wait := some ⟨.drain, some (s.cycle + s.waitlim), 0, { xs := [(xd, Status.timeout.word)], len := 8 }, none, none⟩,
                           st := if s.me.st = .ready then .wait else s.me.st }
      ∧ (∃ n, t.subAt (coreOf s.cur) e = some n ∧ n.st = .draining ∧ n.ended = true ∧ n.opened = none)
      ∧ t.mem = s.mem ∧ ∀ l, l ≠ s.cur → t.slot l = s.slot l)
  ∧ (∀ (s : State) xd xe, s.waiting .drain = true → s.subAt (coreOf s.cur) ((s.x xe).toNat % 16) = none →
    ∃ t, exec (.subDrop xd xe) s = .next t ∧ WritesX s t xd Status.ok.word 8)
  ∧ (∀ (s : State) xd xe, s.waiting .drain = false →
    (16 ≤ (s.x xe).toNat ∨ s.subAt (coreOf s.cur) (s.x xe).toNat = none) →
    ∃ t, exec (.subDrop xd xe) s = .next t ∧ WritesX s t xd Status.range.word 8)
  ∧ (∀ (s v u : State) xd, s.syncGate = .ok v → let d := (v.settleFar s.cur).serveReady s.cur
    let f := d.releaseSubs s.cur .pkg
    d.me.held = [] → d.me.refHeld = [] → d.farPending s.cur = false →
    ((f.releaseFar (tidNo s.tid) true f.waitlim).farReleased (tidNo s.tid) = some u →
      ∃ t, exec (.subFlush xd) s = .next t ∧ WritesX u t xd Status.ok.word 8)
    ∧ ((∀ e ∈ f.farTo, e.agent ≠ tidNo s.tid) → ∃ t, exec (.subFlush xd) s = .next t ∧ WritesX f t xd Status.ok.word 8))
  ∧ (∀ (s u : State) r, let i := (s.x r.s2).toNat
    let n := i / 2 ^ 16 % 128
    let c := s.core (coreOf s.cur)
    i < 2 ^ 23 → i / 2 ^ 12 % 16 = 0 → 1 ≤ n → n ≤ 64 → (s.x r.s1).toNat % 16 = 0 →
    granted (s.rightsByte s.me.sc.pdrights c.spdom.toNat) 1 = true →
    s.storeQuads (s.x r.s1) ((List.range n).map (fun j => (assoc c.ring ((i + j) % 4096)).getD 0)) = .ok u →
    ∃ t, exec (.raceRd r) s = .next t
      ∧ WritesX u t r.d (BitVec.ofNat 64 (c.ringCount % 2 ^ 32 * 2 ^ 24 + c.ringCount % 4096)) 8)


/-- R285, R289: where a field of an object is located. Through null, cause 49; out of alignment, cause 4 or 6 at the computed
address; on a page that is not managed, cause 50. A field of an object that is not in transit is reached at its header plus 16
plus the offset, and the located word is read little-endian; a moved object's base register is rewritten.
R275 to R277, R286, R287: refLd, refSt, refLdf and refStf complete: a reference load writes the field it located, extended by its type; a reference store writes the
low bytes of its register there, or is held at the slice while its object is in transit or behind the thread's own held store to
the same bytes; `ref.ldf` writes null, a reference in the format of R268, or the new place of a moved object,
healing the field, and takes cause 52 on anything else; `ref.stf` stores the reference, resolved if it moved. -/
def Obligations.ReferenceAccesses : Prop :=
  (∀ (s : State) k hs xo w, s.h hs = 0 → s.field k hs xo w = .error (s.trap s.cur { cause := 49 }))
  ∧ (∀ (s : State) k hs xo w, let o := (s.x xo).toNat
    s.h hs ≠ 0 → o % w ≠ 0 → s.field k hs xo w
      = .error (s.trap s.cur { cause := k.misalignedCause, tval := refAddr (s.h hs) + 16 + BitVec.ofNat 64 o }))
  ∧ (∀ (s : State) k a e, aperture s.pkg.toNat (some (coreOf s.cur)) a.toNat = none →
    (s.core (coreOf s.cur)).plb.find? (·.covers (s.cur % 4) a.toNat) = some e → granted e.rights (k.rights ||| rightRef) = true →
    s.refPage k a = .ok (s, some e))
  ∧ (∀ (s u : State) k hs xo w, s.h hs ≠ 0 → (s.x xo).toNat % w = 0 → (s.drain s.cur).refPage k (refAddr (s.h hs)) = .ok (u, none) →
    s.field k hs xo w = .error (u.trap u.cur { cause := 50, tval := refAddr (s.h hs) }))
  ∧ (∀ (s u : State) k hs xo w e, let a := refAddr (s.h hs)
    let ea := a + 16 + BitVec.ofNat 64 (s.x xo).toNat
    s.h hs ≠ 0 → (s.x xo).toNat % w = 0 → (s.drain s.cur).refPage k a = .ok (u, some e) → u.h hs = s.h hs → e.managed = true →
    u.forward e a = .normal →
    ((u.header e a).size < (s.x xo).toNat + w → s.field k hs xo w = .error (u.trap u.cur { cause := 51, tval := a }))
    ∧ ((s.x xo).toNat + w ≤ (u.header e a).size → ea.toNat / 2 ^ 12 = a.toNat / 2 ^ 12 →
        s.field k hs xo w = .ok (u, ⟨ea, e, none⟩)))
  ∧ (∀ (s u : State) k hs e a r, s.forward e (refAddr (s.h hs)) = .moved a →
    (s.setH hs (refAt (s.h hs) a)).refPage k a = .ok (u, r) →
    s.resolve k hs e = match r with
      | some e2 => .ok (u, e2, a, false)
      | none => .error (u.trap u.cur { cause := k.accessCause, tval := a }))
  ∧ (∀ (ty : ElTy) xd hs xo s u f v, s.refLoad hs xo (ty.width / 8) = .ok (u, f, v) →
    ∃ t, exec (.refLd ty xd hs xo) s = .next t
      ∧ WritesX u t xd (if ty.signed then sextW ty.width v else BitVec.ofNat 64 v) 8)
  ∧ (∀ (ty : ElTy) xv hs xo s u, s.refStore hs xo (ty.width / 8) (BitVec.ofNat 64 ((s.x xv).toNat % 2 ^ ty.width)) = .ok u →
    ∃ t, exec (.refSt ty xv hs xo) s = .next t ∧ WritesNone u t 8)
  ∧ (∀ (s u : State) hs xo w f, s.field .load hs xo w = .ok (u, f) → u.me.heldOver f.ea.toNat w = false →
    (∀ h ∈ u.me.refHeld, overlaps f.ea.toNat w h.at.toNat h.st.width = false) →
    s.refLoad hs xo w = .ok (u, f, u.mem.read (f.page.pa (dieOf s.cur) false f.ea.toNat) w))
  ∧ (∀ (s u : State) hs xo w v f, MemoryInv u → s.field .store hs xo w = .ok (u, f) → f.transit = none → f.page.repl = false →
    u.me.heldOver f.ea.toNat w = false → (∀ h ∈ u.me.refHeld, overlaps f.ea.toNat w h.at.toNat h.st.width = false) →
    ∃ t, s.refStore hs xo w v = .ok t ∧ Writes u t s.cur (.dram (f.page.at f.ea)) w v.toNat)
  ∧ (∀ (s u : State) hs xo w v f a, s.field .store hs xo w = .ok (u, f) →
    (f.transit = some a → ∃ t, s.refStore hs xo w v = .ok t ∧ OnlyThread u t ∧ t.me = { u.me with
        refHeld := u.me.refHeld ++ [⟨a, hs, none, ⟨f.ea, w, v, 0, u.me.stSeq, true⟩⟩], stSeq := u.me.stSeq + 1 })
    ∧ (f.transit = none → u.me.heldOver f.ea.toNat w = false →
        (∃ h ∈ u.me.refHeld, overlaps f.ea.toNat w h.at.toNat h.st.width = true) →
        ∃ t, s.refStore hs xo w v = .ok t ∧ OnlyThread u t ∧ t.me = { u.me with
          refHeld := u.me.refHeld ++ [⟨f.ea.toNat, hs, some f.ea, ⟨f.ea, w, v, 0, u.me.stSeq, true⟩⟩], stSeq := u.me.stSeq + 1 }))
  ∧ (∀ hd hs xo s u f n, s.refLoad hs xo 8 = .ok (u, f, n) → n < 2 ^ 64 →
    (n = 0 ∨ refOk (BitVec.ofNat 64 n) = true ∧ u.movedRef (BitVec.ofNat 64 n) = none) →
    ∃ t, exec (.refLdf hd hs xo) s = .next t ∧ WritesH u t hd (BitVec.ofNat 64 n) 8)
  ∧ (∀ hd hs xo s u f n r, s.refLoad hs xo 8 = .ok (u, f, n) → n < 2 ^ 64 → n ≠ 0 → refOk (BitVec.ofNat 64 n) = true →
    u.movedRef (BitVec.ofNat 64 n) = some r → MemoryInv u → f.page.repl = false →
    ∃ h t, exec (.refLdf hd hs xo) s = .next t ∧ Writes u h s.cur (.dram (f.page.at f.ea)) 8 r.toNat ∧ WritesH h t hd r 8)
  ∧ (∀ hd hs xo s u f n, s.refLoad hs xo 8 = .ok (u, f, n) → n < 2 ^ 64 → n ≠ 0 → refOk (BitVec.ofNat 64 n) = false →
    exec (.refLdf hd hs xo) s = .next (u.trap u.cur { cause := 52, tval := BitVec.ofNat 64 n }))
  ∧ (∀ hv hs xo s u, s.movedRef (s.h hv) = none → s.refStore hs xo 8 (s.h hv) = .ok u →
    ∃ t, exec (.refStf hv hs xo) s = .next t ∧ WritesNone u t 8)
  ∧ (∀ hv hs xo s u r, s.h hv ≠ 0 → s.movedRef (s.h hv) = some r → r ≠ s.h hv → s.refStore hs xo 8 r = .ok u →
    ∃ t, exec (.refStf hv hs xo) s = .next t ∧ WritesH u t hv r 8)


/-- R271, R272, R283, R288 to R292: `ref.null`, `ref.mov`, `ref.eq` and `ref.chk` write their registers alone, `ref.eq`
rewriting an operand whose object has moved; `ref.chk` answers by the rows of R292; `ref.alloc`
writes the header and zeros, moves the arena and answers the reference, or writes null and its status alone; `ref.pin` and `ref.unpin` change the count of the
header, and the directory when it leaves or reaches zero. So refNull, refMov, refEq, refChk, refAlloc, refPin and refUnpin
complete. -/
def Obligations.ReferenceObjectWords : Prop :=
  (∀ hd s, ∃ t, exec (.refNull hd) s = .next t ∧ WritesH s t hd 0 8)
  ∧ (∀ d hs s, ∃ t, exec (.refMov true d hs) s = .next t ∧ WritesX s t d (s.h hs) 8)
  ∧ (∀ d hs s, ∃ t, exec (.refMov false d hs) s = .next t ∧ WritesH s t (d.truncate 4) (s.h hs) 8)
  ∧ (let via (s : State) (h : BitVec 4) : State := if s.h h = 0 then s else match s.movedRef (s.h h) with
      | some r => s.setH h r
      | none => s
    ∀ xd ha hb (s : State), let u := via (via s ha) hb
    ∃ t, exec (.refEq xd ha hb) s = .next t ∧ WritesX u t xd
      (if (if u.h ha = 0 ∨ u.h hb = 0 then u.h ha = u.h hb else refAddr (u.h ha) = refAddr (u.h hb)) then 1 else 0) 8)
  ∧ (∀ hd xv xs xi (s : State), let d := s.drain s.cur
    let p := d.chkRef (d.x xv)
    ∃ t, exec (.refChk hd xv xs xi) s = .next t
      ∧ ThreadStep d t 8 { d.me with h := t.me.h, x := t.me.x, dirty := d.me.dirty ||| dirtyH }
      ∧ (∀ r, t.h r = if r = hd then p.1 else d.h r)
      ∧ (∀ r, t.x r = if r = 0 then 0 else if r = xi then p.2.2 else if r = xs then p.2.1.word else d.x r))
  ∧ (let seen (s : State) (a : Word) (e : Plb) : Prop := aperture s.pkg.toNat (some (coreOf s.cur)) a.toNat = none
      ∧ s.lookup (s.viewOf s.cur) a.toNat = .ok e ∧ granted e.rights 9 = true ∧ e.managed = true
    let at1 (s : State) (e : Plb) (v : Word) : Word := match s.forward e (refAddr v) with
      | .moved a => refAt v a
      | _ => v
    let bad (h : Header) (v : Word) : Prop := h.flags / 4 ≠ 0 ∨ h.state = 3 ∨ maxBody < h.size ∨ classOf h.size ≠ refClass v
    ∀ (s : State) (v : Word), (v = 0 → s.chkRef v = (0, .empty, 0))
      ∧ (v ≠ 0 → refOk v = false → s.chkRef v = (0, .range, 0))
      ∧ (v ≠ 0 → refOk v = true → (∀ e, ¬ seen s (refAddr v) e) → s.chkRef v = (0, .fault, 0))
      ∧ (∀ e, v ≠ 0 → refOk v = true → seen s (refAddr v) e →
        ((∀ e2, ¬ seen s (refAddr (at1 s e v)) e2) → s.chkRef v = (0, .fault, 0))
        ∧ ∀ e2, seen s (refAddr (at1 s e v)) e2 → let h := s.header e2 (refAddr (at1 s e v))
          (bad h v → s.chkRef v = (0, .refused, 0))
          ∧ (¬ bad h v → s.chkRef v = (at1 s e v, .ok, BitVec.ofNat 64 (h.type * 2 ^ 32 + h.size)))))
  ∧ (∀ hd xn xt xs (s : State) st, (maxBody < (s.x xn).toNat ∧ st = Status.range)
      ∨ ((s.x xn).toNat ≤ maxBody ∧ s.me.u.arcur.toNat % 32 = 0 ∧ (s.drain s.cur).me.u.arend.toNat
          < (s.drain s.cur).me.u.arcur.toNat + footprint (classOf (s.x xn).toNat)
        ∧ (s.drain s.cur).me.u.arlist = 0 ∧ st = Status.empty) →
    let d := if maxBody < (s.x xn).toNat then s else s.drain s.cur
    ∃ t, exec (.refAlloc hd xn xt xs) s = .next t
      ∧ ThreadStep d t 8 { d.me with h := t.me.h, x := t.me.x, dirty := d.me.dirty ||| dirtyH }
      ∧ (∀ q, t.h q = if q = hd then 0 else d.h q)
      ∧ ∀ q, t.x q = if q = 0 then 0 else if q = xs then st.word else d.x q)
  ∧ (∀ (s : State) ps bs, (∀ p ∈ ps, ∀ a, s.allocPlace p ≠ .far a) → s.allocFar ps bs = .ok s)
  ∧ (∀ hd xn xt xs (s r u z : State) ps, let n := (s.x xn).toNat
    let f := footprint (classOf n)
    let a := r.me.u.arcur
    n ≤ maxBody → s.me.u.arcur.toNat % 32 = 0 → (s.drain s.cur).arenaRoom hd xs f = .ok r →
    r.allocPages a ((a.toNat + f - 1) / 2 ^ 12 + 1 - a.toNat / 2 ^ 12) = .ok (u, ps) →
    let bs := natBytes f (Header.mk n (s.x xt).toNat 0 0).nat
    u.allocFar ps bs = .ok z →
    let w := z.allocWrite ps bs
    ∃ t, exec (.refAlloc hd xn xt xs) s = .next t
      ∧ ThreadStep w t 8 { w.me with h := t.me.h, x := t.me.x, dirty := w.me.dirty ||| dirtyH,
                                     u := { w.me.u with arcur := a + BitVec.ofNat 64 f } }
      ∧ t.h hd = BitVec.ofNat 64 (2 ^ 63 + classOf n * 2 ^ 59 + a.toNat % 2 ^ 56)
      ∧ (∀ q, q ≠ hd → t.h q = w.h q) ∧ ∀ q, t.x q = if q = 0 then 0 else if q = xs then Status.ok.word else w.x q)
  ∧ (∀ (s : State) hd xs f, s.me.u.arcur.toNat + f ≤ s.me.u.arend.toNat → s.arenaRoom hd xs f = .ok s)
  ∧ (∀ xd hs xs (s u : State) e a, s.pinHeader hs = .ok (u, e, a) → MemoryInv u → e.repl = false → let h := u.header e a
    h.pin ≠ 2 ^ 32 - 1 → (h.pin = 0 → (u.die e.home).pins.length < 4096) →
    ∃ w v t, exec (.refPin xd hs xs) s = .next t ∧ Writes u w u.cur (.dram (e.at (a + 8))) 4 (h.pin + 1)
      ∧ v = (if h.pin = 0 then w.modDie e.home (fun d => { d with pins := assocSet d.pins a.toNat h.size }) else w)
      ∧ WritesXX v t xd (a + 16) xs Status.ok.word 8)
  ∧ (∀ xs hs (s u : State) e a, s.pinHeader hs = .ok (u, e, a) → MemoryInv u → e.repl = false → let h := u.header e a
    h.pin ≠ 0 →
    ∃ w v t, exec (.refUnpin xs hs) s = .next t ∧ Writes u w u.cur (.dram (e.at (a + 8))) 4 (h.pin - 1)
      ∧ v = (if h.pin = 1 then w.modDie e.home (fun d => { d with pins := assocDel d.pins a.toNat }) else w)
      ∧ WritesX v t xs Status.ok.word 8)
  ∧ (∀ xs hs (s u : State) e a, s.pinHeader hs = .ok (u, e, a) → (u.header e a).pin = 0 →
    ∃ t, exec (.refUnpin xs hs) s = .next t ∧ WritesX u t xs Status.range.word 8)

/-- R353 to R358: `bar.arr` arrives, a release at its scope, and answers OK, or RANGE while the generation of its own arrival
has not completed; where that generation is complete, it arrives in the next. `bar.wait` and a waiting `bar` answer OK once
the generation of the arrival is over or complete and forget the arrival; they wait before that, and write TIMEOUT when
`waitlim` expires first. `bar` arrives and waits. A generation completes when every participant has arrived or ended, and
the held arrivals open the next. So bar, barArr, barWait and barrierComplete complete. -/
def Obligations.BarrierWords : Prop :=
  let gone (d t : State) (k : Nat) (rd : BitVec 5) : Prop :=
    ThreadStep d t 4 { d.me with arr := assocDel d.me.arr k, x := t.me.x }
      ∧ ∀ r, t.x r = if r = 0 then 0 else if r = rd then Status.ok.word else d.x r
  let waits (d t : State) (rd : BitVec 5) : Prop :=
    OnlyThread d t ∧ t.me = { d.me with
      wait := some ⟨.barrier, some (d.cycle + d.waitlim), 0, { xs := [(rd, Status.timeout.word)] }, none, none⟩,
      st := if d.me.st = .ready then .wait else d.me.st }
  (∀ (s : State) sc id, s.barDone (s.barrier sc id) = false → s.ripe sc id = s)
  ∧ (∀ (s : State) sc id, s.barDone (s.barrier sc id) = true → (s.barrier sc id).gen < ((s.ripe sc id).barrier sc id).gen)
  ∧ (∀ sc id (s d : State) g, s.syncGate = .ok d → d.me.arrival sc id = some g → (d.barrier sc id).gen ≤ g →
    d.barDone (d.barrier sc id) = false → s.barArrive sc id = .ok (d.releaseSubs s.cur .thr, false))
  ∧ (∀ sc id (s d u : State), s.syncGate = .ok d → (d.ripe sc id).release sc = .ok u →
    (∀ g, d.me.arrival sc id = some g → g < ((d.ripe sc id).barrier sc id).gen) →
    let r := u.ripe sc id
    let b := r.barrier sc id
    let parts := if b.isOpen then b.parts else r.participants b
    ∃ v, s.barArrive sc id = .ok (v, true) ∧ OnlyThread { r with bars := v.bars, outs := v.outs } v
      ∧ v.me = { r.me with arr := assocSet r.me.arr (arrKey sc id) (if parts.contains r.tid then b.gen else b.gen + 1) }
      ∧ (v.barrier sc id).gen = b.gen)
  ∧ (∀ sc (id : BitVec 4) rd s u ok, s.barArrive sc id.toNat = .ok (u, ok) →
    ∃ t, exec (.barArr sc id rd) s = .next t ∧ WritesX u t rd (if ok then Status.ok.word else Status.range.word) 4)
  ∧ (∀ sc (id : BitVec 4) rd (s d : State), s.waiting .barrier = false → s.syncGate = .ok d →
    let v := d.releaseSubs s.cur .thr
    (v.me.arrival sc id.toNat = none → ∃ t, exec (.barWait sc id rd) s = .next t ∧ WritesX v t rd Status.range.word 4)
    ∧ ∀ g, v.me.arrival sc id.toNat = some g → let r := v.ripe sc id.toNat
      (g < (r.barrier sc id.toNat).gen → ∃ t, exec (.barWait sc id rd) s = .next t ∧ gone r t (arrKey sc id.toNat) rd)
      ∧ ((r.barrier sc id.toNat).gen ≤ g → r.me.wait = none → 0 < r.waitlim →
        ∃ t, exec (.barWait sc id rd) s = .next t ∧ waits r t rd))
  ∧ (∀ sc (id : BitVec 4) rd (s u : State), s.waiting .barrier = false →
    (s.barArrive sc id.toNat = .ok (u, false) → ∃ t, exec (.bar sc id rd) s = .next t ∧ WritesX u t rd Status.range.word 4)
    ∧ ∀ g, s.barArrive sc id.toNat = .ok (u, true) → u.me.arrival sc id.toNat = some g → let r := u.ripe sc id.toNat
      (g < (r.barrier sc id.toNat).gen → ∃ t, exec (.bar sc id rd) s = .next t ∧ gone r t (arrKey sc id.toNat) rd)
      ∧ ((r.barrier sc id.toNat).gen ≤ g → r.me.wait = none → 0 < r.waitlim →
        ∃ t, exec (.bar sc id rd) s = .next t ∧ waits r t rd))
  ∧ (∀ sc (id : BitVec 4) rd (s : State) g i, s.waiting .barrier = true → s.me.arrival sc id.toNat = some g →
    i = .barWait sc id rd ∨ i = .bar sc id rd → let r := s.ripe sc id.toNat
    (g < (r.barrier sc id.toNat).gen → ∃ t, exec i s = .next t ∧ gone r t (arrKey sc id.toNat) rd)
    ∧ ∀ d n e b o, s.me.wait = some ⟨.barrier, some d, n, e, b, o⟩ → (r.barrier sc id.toNat).gen ≤ g →
      (s.cycle < d → ∃ t, exec i s = .next t ∧ OnlyThread r t ∧ t.me.pc = s.me.pc ∧ t.me.x = s.me.x ∧ t.me.arr = s.me.arr
        ∧ t.me.wait = some ⟨.barrier, some d, 0, { xs := [(rd, Status.timeout.word)], release := e.release }, none, none⟩)
      ∧ (d ≤ s.cycle → e.release = false → s.rgnOps = [] → s.invs = [] → s.feq = [] → (∀ p ∈ s.slots, p.2.st ≠ .member) →
        ∃ t, exec i s = .next t ∧ WritesX r t rd Status.timeout.word 4))
  ∧ (∀ (s : State) b, s.pod = [] → s.bars[s.cur]? = some b →
    (s.barDone b = true → s.barDone (s.nextGen b) = false → s.gangOthers b = [] →
      ∃ t n, exec .barrierComplete s = .next t
        ∧ t = { s with bars := s.bars.map (fun c => if c.same b.job b.lvl b.inst b.id then n else c) }
        ∧ n.gen = b.gen + 1 ∧ n.arrived = b.later ∧ n.later = [] ∧ n.isOpen = (!b.later.isEmpty || b.opens.contains (b.gen + 1)))
    ∧ (s.barLocal b = true → s.gangOthers b ≠ [] → (b.gen, s.pkg.toNat) ∉ b.heard →
      ∃ t n, exec .barrierComplete s = .next t
        ∧ t = { s with bars := s.bars.map (fun c => if c.same b.job b.lvl b.inst b.id then n else c),
                       outs := s.outs ++ (s.gangOthers b).map (fun p =>
                         .pod p (.barrier (s.launchKey b.job) b.id b.gen s.pkg.toNat)) }
        ∧ n = { b with heard := b.heard ++ [(b.gen, s.pkg.toNat)] }))
  ∧ (∀ (s : State) b, s.barDone b = true ↔ b.isOpen = true ∧ (∀ m ∈ b.parts, m ∈ b.arrived ∨ s.alive m = false)
      ∧ (s.gangOthers b = [] ∨ ∀ p ∈ s.pkg.toNat :: s.gangOthers b, (b.gen, p) ∈ b.heard))

/-- R359 to R362, R364, R365, R367: grpForm, grpDrop, the five collectives and collCancel complete: `grp.form` reads its
list, arrives at the attempt of its key, which is decided once every member has arrived, waits and takes its decision; `grp.drop` closes a group for its rank; a
collective with good parameters joins instance k of its rank and answers OK, with no live group or no membership REFUSED;
`coll.cancel` aborts the rank's oldest uncommitted instance. R362, R365, R366: the steps of a collective instance on the
coordinator's package: a member's engine reads its source; the instance commits as soon as every contribution is there with
equal parameters and nothing has failed, then writes its results; one that cannot commit aborts or times out, naming its ranks; a package lost
after commit ends with LOST. So groupDecision, collAllreduce, collRedscatter, collAllgather, collBcast, collAlltoall,
collContribution, collCommit, collAbort, collGroupTimeout, collMemberLost and lostMemberReached complete. The model's
choices and readings: log 9, 13, 36. -/
def Obligations.GroupsAndCollectives : Prop :=
  (∀ xd xb (s : State), s.waiting .group = false → s.waiting .reply = false → (s.x xb).toNat % 64 ≠ 0 →
    ∃ t, exec (.grpForm xd xb) s = .next t ∧ WritesX s t xd Status.range.handle 8)
  ∧ (∀ xd xb (s u : State) hdr ws, s.waiting .group = false → s.waiting .reply = false → (s.x xb).toNat % 64 = 0 →
    s.readList (s.x xb) = .ok (u, hdr, ws) →
    (memberList hdr ws (s.locid s.cur).toNat = none →
      ∃ t, exec (.grpForm xd xb) s = .next t ∧ WritesX u t xd Status.range.handle 8)
    ∧ ∀ list n, memberList hdr ws (s.locid s.cur).toNat = some (list, n) → pkgOf (list.headD 0) = s.pkg.toNat → s.cur < 4096 →
      (∀ f ∈ u.forming, u.arrivalAt f u.tid = none) → u.me.wait = none → 0 < u.waitlim →
      (∀ f ∈ u.forming, f.key = BitVec.ofNat 32 (hdr / 2 ^ 32) → f.decided ≠ none) →
      u.groupsFull = false → u.listOfJob (some (u.me.job.getD 0)) list = true → u.cur = s.cur → u.pkg = s.pkg →
      ((∃ l ∈ list, l ≠ (s.locid s.cur).toNat) →
        ∃ t, exec (.grpForm xd xb) s = .next t
        ∧ t = { u with slots := t.slots, forming := t.forming, nextInst := u.nextInst + 1 }
        ∧ t.forming = u.forming ++ [⟨BitVec.ofNat 32 (hdr / 2 ^ 32), list, n, false, some (u.me.job.getD 0),
                                     [u.asMember u.nextInst], none, [], false⟩]
        ∧ (∀ l, l ≠ u.cur → t.slot l = u.slot l)
        ∧ t.me = { u.me with
            wait := some ⟨.group, some (u.cycle + u.waitlim), 0, { xs := [(xd, Status.timeout.handle)], len := 8 }, none, none⟩,
            st := if u.me.st = .ready then .wait else u.me.st })
      ∧ (list = [(s.locid s.cur).toNat] →
        ∃ v t g, exec (.grpForm xd xb) s = .next t ∧ WritesX v t xd (formWord 0 0 g.handle) 8 ∧ g ∈ v.groups
          ∧ g.key = BitVec.ofNat 32 (hdr / 2 ^ 32) ∧ g.timeout = n ∧ g.members = [u.asMember u.nextInst] ∧ g.closed = false
          ∧ v.mem = u.mem ∧ v.slots = u.slots))
  ∧ (∀ xd xb (s : State) f d, s.waiting .group = true ∨ s.waiting .reply = true → s.myForm = some f → f.decided = some d →
    ∃ t, exec (.grpForm xd xb) s = .next t ∧ WritesX { s with forming := t.forming } t xd
      (if d.1 = 0 then formWord 0 (f.list.findIdx (· == ((s.arrivalAt f s.tid).map Member.locid).getD 0)) d.2
        else formWord d.1.toNat 0 0) 8)
  ∧ (∀ xd xh (s : State) g r, s.liveGroup ((s.x xh).toNat % 2 ^ 16) = some g → s.rankIn g s.tid = some r → r ∉ g.dropped →
    ∃ u t, exec (.grpDrop xd xh) s = .next t ∧ WritesX u t xd Status.ok.word 8
      ∧ u = { s with groups := u.groups, outs := u.outs }
      ∧ ∃ h, u.group g.handle = some h ∧ h.closed = true ∧ r ∈ h.dropped ∧ h.members = g.members)
  ∧ (∀ xd xh (s : State), (∀ g r, s.liveGroup ((s.x xh).toNat % 2 ^ 16) = some g → s.rankIn g s.tid = some r → r ∈ g.dropped) →
    (∃ t, exec (.grpDrop xd xh) s = .next t ∧ WritesX s t xd Status.range.word 8)
    ∧ (s.waiting .cancel = false → ∃ t, exec (.collCancel xd xh) s = .next t ∧ WritesX s t xd Status.range.word 8))
  ∧ (∀ (s : State) f, s.pod = [] → s.forming[s.cur]? = some f → f.decided = none →
    pkgOf (f.list.headD 0) = s.pkg.toNat → f.differs = false → s.listOfJob f.job f.list = true →
    s.groupsFull = false → (∀ l ∈ f.list, ∃ m ∈ f.arrived, m.locid = l) →
    ∃ t g, exec .groupDecision s = .next t ∧ t.groups = s.groups.filter (fun x => x.handle != g.handle) ++ [g] ∧ g.key = f.key
      ∧ g.timeout = f.timeout ∧ g.members.map Member.locid = f.list ∧ g.closed = false
      ∧ t.forming[s.cur]? = some { f with decided := some (0, g.handle) })
  ∧ (∀ kind i (ty : ElTy) (r : F5) (s s1 u : State) b,
    (i = .collAllreduce ty r ∧ kind = 0) ∨ (i = .collRedscatter ty r ∧ kind = 1) ∨ (i = .collAllgather ty r ∧ kind = 2)
      ∨ (i = .collBcast ty r ∧ kind = 3) ∨ (i = .collAlltoall ty r ∧ kind = 4) →
    (s.x r.s1).toNat % 64 = 0 → s.beginCommand r.d false = .ok s1 → s1.readBlock (s.x r.s1) 8 = .ok (u, b) →
    let c := CollBlk.of b
    (∀ g, u.liveGroup c.handle = some g → c.ok kind (ty.width / 8) (some g.members.length) = true →
      (∀ rank, u.rankIn g u.tid = some rank → g.closed = false →
        (u.insts.filter (fun i => i.group == c.handle && i.outstanding u.tid)).length < 4 →
        let k := (assoc g.seqs rank).getD 0
        ∃ t, exec i s = .next t ∧ WritesX ((u.setGroup { g with seqs := assocSet g.seqs rank (k + 1) }).collStart c.handle k
          { rank := rank, loc := s.cur, home := s.tid.1, ctx := s.me.ctx, tag := (s.x r.s2).truncate 32, src := c.src, dst := c.dst,
            rights := s.me.sc.pdrights, params := ⟨kind, ty.code, c.op, c.n, c.root⟩, sent := none, failed := false })
          t r.d Status.ok.word 8)
      ∧ (u.rankIn g u.tid = none ∨ g.closed = true →
        ∃ t, exec i s = .next t ∧ WritesX u.unreserve t r.d Status.refused.word 8))
    ∧ (u.liveGroup c.handle = none → c.ok kind (ty.width / 8) none = true →
      ∃ t, exec i s = .next t ∧ WritesX u.unreserve t r.d Status.refused.word 8)
    ∧ (c.ok kind (ty.width / 8) ((u.liveGroup c.handle).map (fun g => g.members.length)) = false →
      ∃ t, exec i s = .next t ∧ WritesX u.unreserve t r.d Status.range.word 8))
  ∧ (∀ xd xh (s : State) g r, let h := (s.x xh).toNat % 2 ^ 16
    let mine := s.insts.filter (fun i => i.group == h && i.result.isNone && i.outstanding s.tid)
    s.waiting .cancel = false → s.liveGroup h = some g → s.rankIn g s.tid = some r → r ∉ g.dropped →
    g.coordinator = s.pkg.toNat →
    (∀ n, mine.find? (fun i => !i.committed && mine.all (fun j => j.committed || i.k ≤ j.k)) = some n →
      ∃ t, exec (.collCancel xd xh) s = .next t ∧ WritesX (s.collStop n .abort [r]) t xd Status.ok.word 8)
    ∧ (mine ≠ [] → (∀ i ∈ mine, i.committed = true) →
      ∃ t, exec (.collCancel xd xh) s = .next t ∧ WritesX s t xd Status.late.word 8))
  ∧ (∀ (s u : State) i c d, s.pod = [] → s.inst s.cur = some i → i.result = none → i.id = s.cur →
    i.contribs.find? (fun c => c.rank == s.sub && c.sent.isNone && !c.failed) = some c → s.coordinates i = true →
    s.contribute (s.instSize i) c = (u, d) →
    exec .collContribution s = .next ((u.setInst { i with
      contribs := i.contribs.map (fun x => if x.rank = c.rank then { c with sent := d, failed := d.isNone } else x),
      firstAt := some (i.firstAt.getD s.cycle) }).commitNow i.group i.k))
  ∧ (∀ (s : State) i p srcs, s.pod = [] → s.inst s.cur = some i → i.result = none → s.coordinates i = true →
    i.ready (s.instSize i) = some (p, srcs) →
    (i.committed = false → s.failing i = [] → ∃ t, exec .collCommit s = .next t ∧ t = { s with insts := t.insts }
        ∧ t.inst s.cur = some { i with committed := true }
        ∧ ∀ (u : State), u.insts = s.insts → u.groups = s.groups → u.slots = s.slots → u.away = s.away → u.pkg = s.pkg →
          (u.commitNow i.group i.k).inst s.cur = some { i with committed := true })
    ∧ (i.committed = true → i.written = false → exec .collCommit s
        = .next (((s.writeResults i (fun _ r => collResult p srcs r)).sendResults i p srcs).collFinish i.id)))
  ∧ (∀ (s : State) i, s.pod = [] → s.inst s.cur = some i → i.result = none → i.committed = false → s.coordinates i = true →
    s.failing i ≠ [] → exec .collAbort s = .next (s.collStop i .abort (s.failing i)))
  ∧ (∀ (s : State) i g t0, s.inst s.cur = some i → s.group i.group = some g → i.firstAt = some t0 → i.result = none →
    i.committed = false → s.coordinates i = true → t0 + g.timeout ≤ s.cycle →
    exec .collGroupTimeout s
      = .next (s.collStop i .timeout ((List.range g.members.length).filter (fun r => (i.source r).isNone))))
  ∧ (∀ (s : State) h k r rest, s.pod = .lost h k r :: rest → s.insts = [] →
    exec .collMemberLost s = .next { s with pod := rest })
  ∧ (∀ (s : State) h k r rest i, s.pod = .lost h k r :: rest →
    s.insts.find? (fun x => x.group == h && x.k == k && x.result.isNone) = some i →
    (∀ x ∈ s.insts, x.id = i.id → x = i) → i.written = false → i.far = [] → r ∉ i.lost →
    ∃ t n, exec .collMemberLost s = .next t ∧ t = { s with pod := rest, insts := t.insts }
      ∧ t.insts.find? (fun x => x.group == h && x.k == k && x.result.isNone) = some n ∧ n.lost = i.lost ++ [r])
  ∧ (∀ (s : State) h k d rest i, s.pod = .reached h k d :: rest → s.insts.find? (fun x => x.group == h && x.k == k) = some i →
    (∀ x ∈ s.insts, x.id = i.id → x = i) → i.result = none →
    ∃ t n, exec .lostMemberReached s = .next t ∧ t.insts.find? (fun x => x.group == h && x.k == k) = some n
      ∧ n.committed = true ∧ n.result = some (Status.lost.byte, 0, 0))


/-- R24, R28 to R31, R136 to R138: `callt` through a control-flow pointer writes OK and the return address and goes to its
pad; through a graph pointer it reserves, writes the frame below sp, wakes the callee and blocks in CALL. The return
message resumes it, results copied under the return mask and rd written last; FAULT takes cause 53, the limit cause 54
with `thstat` set. `rett` outside a callback takes CONTROL_FLOW_FAULT; within one it answers the call node and the thread
is in CALL again. So callt, calltReturn, graphCallTimeout and rett complete. The model's choices and readings: log 43. -/
def Obligations.CallsAndReturns : Prop :=
  (∀ rd rs1 rs2 (s d u : State), s.me.gang = none → s.syncGate = .ok d → ptrE (s.x rs1) = false →
    d.checkPad (s.x rs1) 1 = .ok u →
    ∃ t, exec (.callt rd rs1 rs2) s = .next t ∧ ThreadJump u t (ptrAddr (s.x rs1)) { u.me with x := t.me.x }
      ∧ ∀ r, t.x r = if r = 0 then 0 else if r = 1 then s.me.pc + 4 else if r = rd then Status.ok.word else u.x r)
  ∧ (∀ rd rs1 rs2 (s : State), s.me.gang.isSome = true →
    exec (.callt rd rs1 rs2) s = .next (s.trap s.cur { cause := 27 }))
  ∧ (∀ rd rs1 rs2 (s d d' z s1 s2 s3 s5 : State) b, let p := s.x rs1
    let a := ptrAddr p
    let size := frameSize (b / 2 ^ (8 * 0x28) % 2 ^ 32)
    let f := d.x 2 - BitVec.ofNat 64 size
    s.me.gang = none → s.syncGate = .ok d → ptrE p = true → d.awaitRefs = .ok d' → d'.me.held = [] → d'.awaitReleases = .ok z →
    (d'.me.wait.bind Wait.blk = some b ∧ s2 = d'
      ∨ d'.me.wait.bind Wait.blk = none ∧ p.toNat / 2 ^ 56 % 8 = 0 ∧ ptrK p = 1 ∧ a.toNat % 64 = 0
        ∧ d'.load a 8 = .ok (s1, descMagic) ∧ s1.loadBlock a 8 = .ok (s2, b)) →
    s2.reserve { xs := [(rd, Status.timeout.word)] } (some b) = .ok s3 → s3.frameErr (d.viewOf d.cur) f size = none →
    let s4 := (s3.engPut (d.viewOf d.cur) (d.agentAt d.cur) f
      (frameImage (((s.x rs2).truncate 32 : Half).toNat * 2 ^ 32 + (d.locid d.cur).toNat) p s3.me.frameArgs)).1
    s4.release .pkg = .ok s5 →
    ∃ t o, exec (.callt rd rs1 rs2) s = .next t ∧ t.mem = s5.mem ∧ t.openings = s5.openings ++ [o] ∧ t.nextFrame = s5.nextFrame + 1
      ∧ o.desc = a ∧ o.act = f ∧ o.own = false ∧ o.caller = .thread d.tid.1 d.tid.2 ∧ o.limit = d.waitlim
      ∧ o.rights = s3.me.sc.pdrights
      ∧ t.me = { s5.me with st := .call, wait := none,
                            calls := ⟨s3.me.pc, s3.me.xr 2, f, rd, BitVec.ofNat 8 (b / 2 ^ (8 * 0x2F)), d.cycle + d.waitlim⟩
                              :: s5.me.calls })
  ∧ (∀ (s : State) c r m u, s.me.calls = c :: r → s.me.returnMsg = some m → s.me.st = .call → m.status = Status.ok.byte →
    (s.modMe (fun t => { t.takeMsg (fun q => q.isReturn && q.value == c.frame) with calls := r, st := .ready, pc := c.pc })).copyResults
      c.frame c.retMask = .ok u →
    ∃ t, exec .calltReturn s = .next t ∧ WritesX u t c.rd 0 4)
  ∧ (∀ (s : State) c r m, s.me.calls = c :: r → s.me.returnMsg = some m → s.me.st = .call → m.status ≠ Status.ok.byte →
    let u := s.modMe (fun t => { t.takeMsg (fun q => q.isReturn && q.value == c.frame) with calls := r, st := .ready, pc := c.pc })
    (m.status = Status.fault.byte →
      exec .calltReturn s = .next (u.trap s.cur { cause := 53, tval := c.frame, frame := c.frame }))
    ∧ (m.status ≠ Status.fault.byte → ∃ t, exec .calltReturn s = .next t ∧ WritesX u t c.rd (m.status.zeroExtend 64) 4))
  ∧ (∀ (s : State) c r, s.me.calls = c :: r → s.me.returnMsg = none → s.me.st = .call → c.deadline ≤ s.cycle →
    exec .graphCallTimeout s
      = .next ((s.modMe (fun t => { t with pc := c.pc, sc := { t.sc with thstat := true } })).trap s.cur
          { cause := 54, tval := c.frame, frame := c.frame }))
  ∧ (∀ s : State, s.me.cbDepth = 0 → exec .rett s = .next (s.trap s.cur { cause := causeControlFlow }))
  ∧ (∀ (s u : State) k q c r, s.me.cbDepth ≠ 0 → s.release .pkg = .ok u → u.me.poolOf = none → u.me.cbStack = k :: q →
    u.me.calls = c :: r →
    ∃ t, exec .rett s = .next t
      ∧ t.regions = u.regions.map (fun g => g.answerCall k.node k.frame Status.ok.byte u.me.callbackResults)
      ∧ t.me = { u.me.wx 2 c.sp with cbDepth := u.me.cbDepth - 1, cbStack := q, wait := none, instret := u.me.instret + 1,
                                     st := .call, pc := c.pc,
                                     calls := { c with deadline := s.cycle + u.me.u.waitlim.toNat } :: r })

/-- R31, R33 to R35, R236: a `call` node with every head suspends its frame, takes the idle pool thread where no thread
waits at the root, or holds its tokens while none is idle; a callback that has been called is entered by the thread blocked in
`callt` at the root, or by the pool thread its node took; a call that returned with OK sends its results and the frame runs on,
another status takes cause 0xA; a spilled frame comes back; and no pool thread within the limit is cause 0xC. So callNodeFire,
callNodeReturn, callbackEntry, callbackPoolAssign and poolTimeout complete. The model's choices and readings: log 43. -/
def Obligations.CallNodesAndCallbacks : Prop :=
  (∀ (s : State) f e tag fr args sn h hs, let heads := ((List.range 9).filter f.fed).filterMap (fun p => (f.head p).map (fun t => (p, t)))
    s.candidate 9 = some f → f.st = .call false e tag fr args none sn → heads = h :: hs →
    heads.length = ((List.range 9).filter f.fed).length → f.can [0, 1, 2, 3, 4, 5, 8] = true → f.speculative h.2.tag = false →
    (∀ x ∈ heads, tagErr x.2.tag = false) → s.targetErr f.view f.n.callTarget = none →
    ptrE f.n.callTarget = false →
    let u := (f.suspend h.2.tag 0 heads none).put s
    ((s.root f.slot).isSome = true → exec .callNodeFire s = .next (u.fired s.site))
    ∧ (∀ loc, s.root f.slot = none → s.idlePool f.slot.job = some loc →
        exec .callNodeFire s
          = .next ((u.modSlot loc (fun t => { t with cbStack := [⟨f.n.id, f.slot.id⟩] })).fired s.site))
    ∧ (s.root f.slot = none → s.idlePool f.slot.job = none → sn = none →
        exec .callNodeFire s
          = .next (((f.set (.call false false 0 0 [] none (some s.cycle))).put s).fired s.site)))
  ∧ (∀ (s : State) f e tag fr args ws sn, s.site.fs < 4 → s.candidate 9 = some f →
    f.st = .call true e tag fr args (some (Status.ok.byte, ws)) sn → f.can [0, 1, 2, 3, 4, 5, 8] = true →
    let g := (callOutputs tag ws).foldl (fun (x : Fire) o => x.send o.1 o.2) (f.set (.call false false 0 0 [] none none))
    exec .callNodeReturn s = .next ((g.put s).fired s.site))
  ∧ (∀ (s : State) f e tag fr args st ws sn, s.site.fs < 4 → s.candidate 9 = some f →
    f.st = .call true e tag fr args (some (st, ws)) sn → st ≠ Status.ok.byte →
    exec .callNodeReturn s = .next ((s.fabTrap f.r.num f.n.id f.fs { cause := 0xA, status := some st }).fired s.site))
  ∧ (∀ (s : State) r p a e tag fr args ws sn k, s.spilledCall = some (r, p, .call true e tag fr args (some (Status.ok.byte, ws)) sn) →
    r.freeSlot = some k → r.roomFor p k = a → exec .callNodeReturn s = .next (if a = true then s.restore r p k else s))
  ∧ (∀ (s : State) f tag fr args sn, s.site.fs < 4 → s.siteNode = some f → f.st = .call true false tag fr args none sn →
    f.r.fires = true → f.n.kind = 9 → f.slot.st = .suspended → f.r.elementOk f.n = true → ptrE f.n.callTarget = false →
    f.r.precedes f.fs (f.slot.extWave (tagSeq tag)) = false →
    s.callIn = some ⟨f.r, f.n, f.slot, f.fs, tag, args, (f.set (.call true true tag fr args none sn)).r⟩)
  ∧ (∀ (s : State) c loc, s.callIn = some c → (s.root c.slot).bind s.locOf = some loc → (s.slot loc).st = .call →
    (s.slot loc).returnMsg = none →
    ∃ t, exec .callbackEntry s = .next t ∧ (t.slot loc).pc = ptrAddr c.n.callTarget ∧ (t.slot loc).st = .ready
      ∧ (t.slot loc).cbDepth = ((c.entered s).slot loc).cbDepth + 1 ∧ (t.slot loc).xr 1 = 0
      ∧ (t.slot loc).xr 2 = BitVec.ofNat 64 (c.slot.act.toNat / 64 * 64)
      ∧ (t.slot loc).cbStack = ⟨c.n.id, c.slot.id⟩ :: ((c.entered s).slot loc).cbStack
      ∧ ∀ l, l ≠ loc → t.slot l = (c.entered s).slot l)
  ∧ (∀ (s : State) c j loc, s.callIn = some c → c.slot.job.bind s.job = some j → s.poolFor ⟨c.n.id, c.slot.id⟩ = some loc →
    ∃ t, exec .callbackPoolAssign s = .next t ∧ (t.slot loc).pc = ptrAddr c.n.callTarget ∧ (t.slot loc).st = .ready
      ∧ (t.slot loc).poolOf = some j.id ∧ (t.slot loc).cbDepth = 1 ∧ (t.slot loc).xr 1 = 0
      ∧ (t.slot loc).xr 2 = ((c.entered s).slot loc).sc.stkinit ∧ (t.slot loc).cbStack = [⟨c.n.id, c.slot.id⟩]
      ∧ ∀ l, l ≠ loc → t.slot l = (c.entered s).slot l)
  ∧ (∀ (s : State) f tag fr args since, s.siteNode = some f → f.st = .call false false tag fr args none (some since) →
    f.r.fires = true → f.slot.st = .running → since + f.slot.limit ≤ s.cycle → s.idlePool f.slot.job = none →
    exec .poolTimeout s = .next (s.fabTrap f.r.num f.n.id f.fs { cause := 0xC }))

/-- R97, R99, R103 to R105: `jlaunch` checks its block in order, releases at `.pkg` and submits a job; `glaunch` takes the
lowest FREE entry of the dependence table and answers its handle, the entry OPEN; `gdep` adds the entry to a predecessor's
list, and with a zero rs1 field starts it, LAUNCHED with no predecessor left, else WAITING. So jlaunch, glaunch and gdep
complete. The model's choices and readings: log 28, 37, 46. -/
def Obligations.LaunchWords : Prop :=
  (∀ rd rs1 (s d : State), s.syncGate = .ok d → (s.x rs1).toNat % 64 ≠ 0 →
    (∃ t, exec (.jlaunch rd rs1) s = .next t ∧ WritesX d t rd Status.range.word 4)
    ∧ ∃ t, exec (.glaunch rd rs1) s = .next t ∧ WritesX d t rd Status.range.handle 4)
  ∧ (∀ rd rs1 (s s0 s1 u w : State) b l, (s.x rs1).toNat % 64 = 0 → s.syncGate = .ok s0 → s0.me.refHeld = [] →
    s0.reserve { xs := [(rd, Status.timeout.word)] } = .ok s1 → s1.readBlock (s.x rs1) 8 = .ok (u, b) →
    u.check15 (LBlock.of b) (s.me.sc.lnchlim.zeroExtend 64) = .ok l → u.check67 (LBlock.of b) = none → u.release .pkg = .ok w →
    ∃ t, exec (.jlaunch rd rs1) s = .next t
      ∧ WritesX (w.submit (.thread s.cur s.tid.1 s.tid.2) l s.me.sc.pdrights) t rd Status.ok.word 4)
  ∧ (∀ rd rs1 (s s0 s1 u : State) b st, (s.x rs1).toNat % 64 = 0 → s.syncGate = .ok s0 → s0.me.refHeld = [] →
    s0.reserve { xs := [(rd, Status.timeout.word)] } = .ok s1 → s1.readBlock (s.x rs1) 8 = .ok (u, b) →
    (u.check15 (LBlock.of b) (s.me.sc.lnchlim.zeroExtend 64) = .error st
      ∨ (∃ l, u.check15 (LBlock.of b) (s.me.sc.lnchlim.zeroExtend 64) = .ok l) ∧ u.check67 (LBlock.of b) = some st) →
    ∃ t, exec (.jlaunch rd rs1) s = .next t ∧ WritesX u.unreserve t rd st.word 4)
  ∧ (∀ (s : State) b limit, LBlock.ok13 b limit = false → s.check15 b limit = .error .range)
  ∧ (∀ (s : State) b, (b.n = 0 → s.check67 b = some .empty)
      ∧ (b.n ≠ 0 → b.tick ≠ 0 → b.tick.toNat ≤ s.tick.toNat → s.check67 b = some .late)
      ∧ (b.n ≠ 0 → b.tick = 0 → s.check67 b = none))
  ∧ (∀ rd rs1 (s s0 s1 u w : State) b l i, (s.x rs1).toNat % 64 = 0 → s.syncGate = .ok s0 → s0.me.refHeld = [] →
    s0.reserve { xs := [(rd, Status.timeout.handle)] } = .ok s1 → s1.readBlock (s.x rs1) 8 = .ok (u, b) →
    u.check15 (LBlock.of b) (s.me.sc.lnchlim.zeroExtend 64) = .ok l → ptrE (LBlock.of b).entry = true →
    u.freeDep (dieOf s.cur) = some i → u.release .pkg = .ok w →
    let gen := (w.dep (dieOf s.cur) i).gen
    ∃ v t, exec (.glaunch rd rs1) s = .next t ∧ WritesX v t rd (depHandle (dieOf s.cur) i gen) 4 ∧ v = { w with dies := v.dies }
      ∧ (v.dep (dieOf s.cur) i).st = .open_ ∧ (v.dep (dieOf s.cur) i).count = 0 ∧ (v.dep (dieOf s.cur) i).block = LBlock.of b
      ∧ (v.dep (dieOf s.cur) i).gen = gen ∧ ∀ d j, (d, j) ≠ (dieOf s.cur, i) → v.dep d j = w.dep d j)
  ∧ (∀ rd rs1 rs2 (s : State), let h := s.x rs2
    let e := s.named h
    handleSt h ≠ 0 ∨ s.stale h = true ∨ e.st ≠ .open_ ∨ e.rights ≠ s.me.sc.pdrights →
    ∃ t, exec (.gdep rd rs1 rs2) s = .next t ∧ WritesX s t rd Status.range.word 4)
  ∧ (∀ rd rs2 (s : State), let h := s.x rs2
    let e := s.named h
    handleSt h = 0 → s.stale h = false → e.st = .open_ → e.rights = s.me.sc.pdrights →
    (e.count = 0 → ∃ t, exec (.gdep rd 0 rs2) s = .next t
      ∧ WritesX (s.launchEntry (handleDie h) (handleIdx h)) t rd Status.ok.word 4)
    ∧ (e.count ≠ 0 → ∃ t, exec (.gdep rd 0 rs2) s = .next t
      ∧ WritesX (s.setDep (handleDie h) (handleIdx h) { e with st := .waiting }) t rd Status.ok.word 4))
  ∧ (∀ rd rs1 rs2 (s : State), let h := s.x rs2
    let e := s.named h
    let p := s.x rs1
    let d := s.named p
    rs1 ≠ 0 → handleSt h = 0 → s.stale h = false → e.st = .open_ → e.rights = s.me.sc.pdrights → handleSt p = 0 → p ≠ h →
    (s.stale p = true → ∃ t, exec (.gdep rd rs1 rs2) s = .next t ∧ WritesX s t rd Status.ok.word 4)
    ∧ (s.stale p = false → d.rights = s.me.sc.pdrights → d.st ≠ .free → d.st ≠ .open_ → d.succ.length < 16 → e.count < 255 →
      ∃ t, exec (.gdep rd rs1 rs2) s = .next t ∧ WritesX
        ((s.setDep (handleDie h) (handleIdx h) { e with count := e.count + 1 }).modDep (handleDie p) (handleIdx p)
          (fun x => { x with succ := x.succ ++ [(handleDie h * 256 + handleIdx h, handleGen h)] })) t rd Status.ok.word 4))

/-- R96, R101, R106 to R109, R114, R394 to R399: a job whose start tick has come starts; the dispatcher binds the next unit
to the lowest free slot of its set, ready at the entry with the exit address in ra, or frees it with FAULT where its pad
fails; a pool takes the highest; a coordinator decides a gang 5,000 ticks before its start; a job that never starts in time
ends with TIMEOUT; a DONE entry posts its message; a thread at the exit address ends, and a complete job reports. So dispatchBind,
poolTake, startTickReached, gangDecision, gangStart, launchWaitExpiry, entryDone, threadExit and jobComplete complete. The
model's choices and readings: log 3, 25, 26, 28, 35, 37. -/
def Obligations.JobSteps : Prop :=
  (∀ (s u : State) j l r, s.jobs[s.sub]? = some j → j.wantsSlot = true → s.freeFor j = l :: r →
    let start (t : Slot) : Slot :=
      { ((((t.bound j j.next).wx 1 exitAddr).wx 10 j.block.args).wx 11 (BitVec.ofNat 64 j.block.n.toNat)) with
        pc := ptrAddr j.block.entry }
    ((s.modSlot l start).padAt l j.block.entry 1 = (u, none) →
      ∃ t, exec .dispatchBind s = .next t ∧ t = { u with jobs := t.jobs }
        ∧ t.jobs = u.jobs.map (fun x => if x.id = j.id then { x with next := x.next + 1, live := x.live ++ [(x.next, 0)] } else x))
    ∧ (∀ e, (s.modSlot l start).padAt l j.block.entry 1 = (u, some e) →
      ∃ t, exec .dispatchBind s = .next t ∧ (t.slot l) = (u.slot l).freed ∧ (∀ k, k ≠ l → t.slot k = u.slot k)
        ∧ t.jobs = u.jobs.map (fun x => if x.id = j.id then
            { x with next := x.next + 1, ended := x.ended ++ [(x.next, Status.fault.byte)] } else x)))
  ∧ (∀ (t : Slot) j n, (t.bound j n).st = .ready ∧ (t.bound j n).priv = .u ∧ (t.bound j n).u.waitlim.toNat = 2 ^ 24
      ∧ (t.bound j n).xr 2 = t.sc.stkinit ∧ (t.bound j n).ctx = t.ctxCounter ∧ (t.bound j n).job = some j.id
      ∧ (t.bound j n).inbox = [] ∧ (t.bound j n).held = [] ∧ (t.bound j n).rv.sepc = 0 ∧ (t.bound j n).rv.scause = 0
       ∧ (∀ r, (t.bound j n).hr r = 0) ∧ (t.bound j n).rv.fcsr = 0)
  ∧ (∀ (s : State) j l, s.jobs[s.sub]? = some j → j.wantsPool = true → (s.freeFor j).getLast? = some l →
    ∃ t, exec .poolTake s = .next t ∧ (t.slot l) = (s.slot l).pooled j.id ∧ (∀ k, k ≠ l → t.slot k = s.slot k)
      ∧ t.jobs = s.jobs.map (fun x => if x.id = j.id then { x with pool := x.pool ++ [l], poolLeft := x.poolLeft - 1 } else x))
  ∧ (∀ (s : State) j, s.jobs[s.sub]? = some j → j.held = true → j.gang = none → j.block.tick.toNat ≤ s.tick.toNat →
    exec .startTickReached s = .next (s.start j.id))
  ∧ (∀ (s : State) j, s.job j.id = some j → j.final = none → j.held = true → (∀ qp port tag h, j.src ≠ .stream qp port tag h) →
    ptrE j.block.entry = false → j.block.pool.toNat < j.block.slots.length →
    s.start j.id = s.modJob j.id (fun x => { x with held := false }))
  ∧ (∀ (s : State) j g, s.pod = [] → s.jobs[s.sub]? = some j → j.gang = some g → j.held = true → j.final = none → g.go = none →
    gangHead g.members = s.pkg.toNat → j.gangId.2.1.toNat ≤ s.tick.toNat + 5000 →
    let go := s.accepted j.gangId g.members && s.tick.toNat < j.gangId.2.1.toNat
    ∃ t, exec .gangDecision s = .next t
      ∧ t.outs = s.outs ++ (g.members.filter (fun p => p != s.pkg.toNat)).map (fun p => .pod p (.decision j.gangId go))
      ∧ t.jobs = s.jobs.map (fun x => if x.id = j.id then
          { x with gang := x.gang.map (fun q => { q with go := some go }),
                   final := if go then x.final else some Status.late.byte } else x))
  ∧ (∀ (s : State) j g, s.pod = [] → s.jobs[s.sub]? = some j → j.gang = some g → gangHead g.members ≠ s.pkg.toNat →
    j.block.tick.toNat ≤ s.tick.toNat → exec .gangDecision s = .next s)
  ∧ (∀ (s : State) j g, s.jobs[s.sub]? = some j → j.gang = some g → j.held = true → j.final = none →
    j.block.tick.toNat ≤ s.tick.toNat →
    (g.go = some true → exec .gangStart s = .next (s.start j.id))
    ∧ (g.go = none → gangHead g.members ≠ s.pkg.toNat →
        exec .gangStart s = .next (s.modJob j.id (fun x => { x with final := some Status.lost.byte }))))
  ∧ (∀ (s : State) j, s.cur = 1 → s.jobs[s.sub]? = some j → j.held = false → j.final = none → j.rest = none →
    j.next < j.block.n.toNat → s.launchOver (placeDie j.block.place) (max j.submitted.toNat j.block.tick.toNat) = true →
    ∃ t, exec .launchWaitExpiry s = .next t
      ∧ t.jobs = s.jobs.map (fun x => if x.id = j.id then { x with rest := some Status.timeout.byte } else x))
  ∧ (∀ (s : State), let d := s.dep s.cur s.sub
    d.st = .done → d.succ = [] →
    ∃ t, exec .entryDone s = .next t ∧ t.dep s.cur s.sub = { Dep.reset with gen := d.gen + 1 }
      ∧ t.arrivals = s.arrivals ++ [(d.home, d.ctx, ⟨2, d.status, 0, d.block.tag, depHandle s.cur s.sub d.gen⟩)])
  ∧ (∀ (s : State), s.me.pc = exitAddr → s.me.st = .ready → s.me.gang = none → s.me.posted = [] → s.me.refHeld = [] →
    s.me.poolOf = none → (∀ c ∈ s.cores, c.2.subs = []) → s.commandsOut s.tid = false → s.farTo = [] →
    exec .threadExit s = .next ((s.setMe { s.me with held := [] }).endThread s.cur (endStatus (s.me.xr 10))))
  ∧ (∀ (s : State) j loc home ctx, s.jobs[s.sub]? = some j → j.complete = true → j.src = .thread loc home ctx → j.pool = [] →
    ∃ t, exec .jobComplete s = .next t ∧ t.jobs = s.jobs.filter (fun x => x.id != j.id)
      ∧ t.arrivals = s.arrivals ++ [(home, ctx, ⟨2, j.report.1, 0, j.block.tag, BitVec.ofNat 64 j.report.2⟩)])

/-- R370, R388 to R393: the six words of the supervisor take PRIVILEGE_VIOLATION in user mode with the word in xtval and
change nothing else; elsewhere `ctx.save` writes the area of another READY, WAIT, CALL or TRAP slot of the core and leaves it
OUT, `ctx.load` fills a FREE or OUT slot from a well-formed area, `plb.inv`, `rgn.shrink` and `rgn.drain` post their request
and wait for its answer, and `trap.rec` stores the record it names. So ctxSave, ctxLoad, plbInv, rgnShrink, rgnDrain and
trapRec complete. The model's choices and readings: log 19, 39. -/
def Obligations.PrivilegedWords : Prop :=
  (∀ rd rs1 rs2 (s : State), s.me.priv = .u →
    ∀ i f7, i = .ctxSave rd rs1 rs2 ∧ f7 = 0 ∨ i = .ctxLoad rd rs1 rs2 ∧ f7 = 1 ∨ i = .plbInv rd rs1 rs2 ∧ f7 = 2
      ∨ i = .rgnShrink rd rs1 rs2 ∧ f7 = 3 ∨ i = .rgnDrain rd rs1 ∧ rs2 = 0 ∧ f7 = 4 ∨ i = .trapRec rd rs1 rs2 ∧ f7 = 5 →
    exec i s = .next (s.trap s.cur { cause := causePrivilege, tval := privWord f7 rd rs1 rs2 }))
  ∧ (∀ rd rs1 rs2 (s : State), s.me.priv ≠ .u → s.otherSlot (s.x rs1) (s.x rs2) = none →
    ∀ i, i = .ctxSave rd rs1 rs2 ∨ i = .ctxLoad rd rs1 rs2 →
    ∃ t, exec i s = .next t ∧ WritesX s t rd Status.range.word 4)
  ∧ (∀ rd rs1 rs2 (s u : State) l, let d := (s.drain l).settleFar l
    s.me.priv ≠ .u → s.otherSlot (s.x rs1) (s.x rs2) = some l →
    ((s.slot l).st = .ready ∨ (s.slot l).st = .wait ∨ (s.slot l).st = .call ∨ (s.slot l).st = .trap) →
    ((d.slot l).gang.isSome = true ∨ (d.slot l).held ≠ [] ∨ (d.slot l).needsPark = true ∧ 4 ≤ (d.slot l).parked.length →
      ∃ t, exec (.ctxSave rd rs1 rs2) s = .next t ∧ WritesX d t rd Status.refused.word 4)
    ∧ ((d.slot l).gang = none → (d.slot l).held = [] → ((d.slot l).needsPark = false ∨ (d.slot l).parked.length < 4) →
      d.farPending l = false → d.saveTo l (s.x rs1) = .ok u → ∃ t, exec (.ctxSave rd rs1 rs2) s = .next t ∧ WritesX u t rd Status.ok.word 4))
  ∧ (∀ (s w p : State) l a, s.areaPages a 4 = .ok p → p.writeArea a ((p.slot l).skips a) 0 (p.areaWords l) = .ok w →
    ∃ t, s.saveTo l a = .ok t ∧ (t.slot l).st = .out ∧ (∀ k, k ≠ l → t.slot k = w.slot k) ∧ t.mem = w.mem
      ∧ t.away = w.away ++ [⟨l, a, { w.slot l with resv := none, home := some ((w.slot l).tid l).1 }⟩]
      ∧ ((w.slot l).needsPark = true → (t.slot l).parked = (w.slot l).parked ++ [⟨((w.slot l).tid l).1, (w.slot l).ctx, a⟩]))
  ∧ (∀ rd rs1 rs2 (s u : State) l b, s.me.priv ≠ .u → s.otherSlot (s.x rs1) (s.x rs2) = some l →
    ((s.slot l).st = .free ∨ (s.slot l).st = .out) → s.loadBlock (s.x rs1) 2048 = .ok (u, b) →
    (areaOk b false = true → ∃ t, exec (.ctxLoad rd rs1 rs2) s = .next t ∧ WritesX (u.loadFrom l (s.x rs1) b) t rd Status.ok.word 4)
    ∧ (areaOk b false = false → ∃ t, exec (.ctxLoad rd rs1 rs2) s = .next t ∧ WritesX u t rd Status.refused.word 4))
  ∧ (∀ (s : State) l a b, let t := (s.loadFrom l a b).slot l
    (∀ w ∈ s.away, w.slot.moves = []) → SlotSt.ofArea (blkAt b 0xF 1) = some .ready →
      t.pc.toNat = blkAt b 0x10 8 ∧ t.st = .ready ∧ t.origin = some a ∧ t.dirty = 0
      ∧ (∀ r : BitVec 5, r ≠ 0 → (t.xr r).toNat = blkAt b (0x40 + 8 * r.toNat) 8)
      ∧ ∀ r : BitVec 4, (t.hr r).toNat = blkAt b (0x280 + 8 * r.toNat) 8)
  ∧ (∀ rd rs1 rs2 (s d u : State), let m := (s.x rs2).toNat
    s.me.priv ≠ .u → s.waiting .plbInv = false → s.syncGate = .ok d →
    (m % 4 = 3 ∨ 16 ≤ m ∨ m / 8 % 2 = 1 ∧ m % 4 ≠ 0 →
      ∃ t, exec (.plbInv rd rs1 rs2) s = .next t ∧ WritesX d t rd Status.range.word 4)
    ∧ (m % 4 ≠ 3 → m < 16 → (m / 8 % 2 = 0 ∨ m % 4 = 0) → d.release .pkg = .ok u → u.me.wait = none → 0 < u.waitlim →
      ∃ t, exec (.plbInv rd rs1 rs2) s = .next t ∧ t.invs = u.invs ++ [⟨some s.tid, m % 4, bitOf m 3, s.x rs1⟩]
        ∧ t.mem = u.mem ∧ t.me.wait = some ⟨.plbInv, some (u.cycle + u.waitlim), 0, { xs := [(rd, Status.timeout.word)] }, none, none⟩))
  ∧ (∀ rd rs1 rs2 (s : State), s.me.priv ≠ .u → s.waiting .plbInv = true → (∀ i ∈ s.invs, i.who ≠ some s.tid) →
    ∃ t, exec (.plbInv rd rs1 rs2) s = .next t ∧ WritesX s t rd Status.ok.word 4)
  ∧ (∀ rd rs1 rs2 (s : State) w, s.me.priv ≠ .u → s.rgnResults = [(s.tid, w)] →
    ∀ i, i = .rgnShrink rd rs1 rs2 ∨ i = .rgnDrain rd rs1 →
    ∃ t, exec i s = .next t ∧ WritesX { s with rgnResults := [] } t rd w 4)
  ∧ (∀ rd rs1 rs2 (s : State), let n := (s.x rs1).toNat
    let w := (s.x rs2).toNat
    s.me.priv ≠ .u → s.rgnResults = [] → s.rgnOps = [] →
    (128 ≤ n ∨ 2 ^ 56 ≤ w ∨ w / 4 % 4 = 3 ∨ w % 4 = 0 ∧ w / 4 % 4 = 0 →
      ∃ t, exec (.rgnShrink rd rs1 rs2) s = .next t ∧ WritesX s t rd Status.range.word 4)
    ∧ (n < 128 → w < 2 ^ 56 → w / 4 % 4 ≠ 3 → (w % 4 ≠ 0 ∨ w / 4 % 4 ≠ 0) → s.me.wait = none → 0 < s.waitlim →
      ∃ t o, exec (.rgnShrink rd rs1 rs2) s = .next t ∧ t.rgnOps = [o] ∧ o.rgn = n ∧ o.act = w % 4 ∧ o.fold = w / 4 % 4
        ∧ o.who = some s.tid ∧ o.image.toNat = w / 2 ^ 12 * 2 ^ 12
        ∧ t.me.wait = some ⟨.region, some (s.cycle + s.waitlim), 0, { xs := [(rd, Status.timeout.word)] }, none, none⟩))
  ∧ (∀ rd rs1 (s : State), let n := (s.x rs1).toNat % 128
    s.me.priv ≠ .u → s.rgnResults = [] → s.rgnOps = [] →
    (s.region n = none → ∃ t, exec (.rgnDrain rd rs1) s = .next t ∧ WritesX s t rd Status.range.word 4)
    ∧ ((s.region n).isSome = true → s.me.wait = none → 0 < s.waitlim →
      ∃ t o, exec (.rgnDrain rd rs1) s = .next t ∧ t.rgnOps = [o] ∧ o.rgn = n ∧ o.act = 4 ∧ o.who = some s.tid))
  ∧ (∀ rd rs1 rs2 (s : State), let sel := (s.x rs2).toNat
    s.me.priv ≠ .u →
    ((s.x rs1).toNat % 64 ≠ 0 ∨ 2 ^ 63 ≤ sel →
      ∃ t, exec (.trapRec rd rs1 rs2) s = .next t ∧ WritesX s t rd Status.range.word 4)
    ∧ ((s.x rs1).toNat % 64 = 0 → sel = 0 ∨ 2 ^ 62 ≤ sel ∧ sel < 2 ^ 62 + 128 →
      (s.record sel = none → ∃ t, exec (.trapRec rd rs1 rs2) s = .next t ∧ WritesX s t rd Status.empty.word 4)
      ∧ ∀ ws u, s.record sel = some ws → s.writeArea (s.x rs1) (fun _ => false) 0 ws = .ok u →
        ∃ t, exec (.trapRec rd rs1 rs2) s = .next t ∧ WritesX u t rd Status.ok.word 4))

/-- R379 to R385: the requests on a region. A resume in place lets a frozen region run, its faulting requests issued again; a
request on a region in the wrong state is REFUSED; a region is scanned out, restored, shrunk at its shrink point or scanned
out at the end of its budget; a drain ends every frame, and two rounds that count nothing make the region FREE; a quantum of
a region that no queued configuration could replace starts again. So resumeInPlace, scanOut, regionRestore, shrinkPoint,
shrinkBudgetExpiry, occupancyRound, drainQuiescence and regionQuantumExpiry complete. The model's choices and readings: log 29, 39, 40. -/
def Obligations.RegionRequests : Prop :=
  let gone (s t : State) (o : RgnOp) (st : Status) (outcome : Nat) : Prop :=
    t.rgnOps = dropFirst (fun x => x.rgn == o.rgn) s.rgnOps
      ∧ (∀ w, o.who = some w → t.rgnResults = s.rgnResults ++ [(w, BitVec.ofNat 64 (outcome * 2 ^ 8 + st.code))])
  (∀ (s : State) o r, s.opFor s.site.rgn 1 = some o → s.region o.rgn = some r →
    (r.st = .frozen → ∃ t, exec .resumeInPlace s = .next t ∧ gone s t o .ok 2
      ∧ t.regions = s.regions.map (fun x => if x.num = r.num then r.resumed else x) ∧ r.resumed.st = .running
      ∧ ∀ q ∈ r.resumed.reqs, q.st ≠ .faulting ∧ q.st ≠ .behind)
    ∧ (r.st ≠ .frozen → ∃ t, exec .resumeInPlace s = .next t ∧ gone s t o .refused 0 ∧ t.regions = s.regions))
  ∧ (∀ (s : State) o r, s.opFor s.site.rgn 2 = some o → s.region o.rgn = some r →
    (r.st = .running → ∃ t, exec .scanOut s = .next t
      ∧ t.regions = s.regions.map (fun x => if x.num = r.num then { r with st := .frozen } else x))
    ∧ (r.st = .frozen → o.sched = false → r.unsettled = false → exec .scanOut s = .next (s.scanOut r o)))
  ∧ (∀ (s t : State) o, s.opFor s.site.rgn 3 = some o → s.restoreAt o.view o.image o.rgn = some t →
    exec .regionRestore s = .next (t.opDone o .ok 3))
  ∧ (∀ (s : State) o, s.opFor s.site.rgn 3 = some o → s.restoreAt o.view o.image o.rgn = none →
    ∃ t, exec .regionRestore s = .next t ∧ gone s t o .refused 0 ∧ t.regions = s.regions)
  ∧ (∀ (s : State) o r g f, s.opFor s.site.rgn 0 = some o → s.region o.rgn = some r →
    (r.st = .shrinking → r.loadEnd ≤ s.cycle → ∃ t, exec .shrinkPoint s = .next t ∧ gone s t o .ok 0
      ∧ t.regions = s.regions.map (fun x => if x.num = r.num then r.resumed else x))
    ∧ (r.st = .running → s.smaller r o.fold = some (g, f) → r.atShrinkPoint (s.carryPoints r.die f) = true →
      s.unchanged r = true →
      let n := r.refolded g f o.fold
      ∃ t, exec .shrinkPoint s = .next t ∧ t.rgnOps = s.rgnOps ∧ t.regions = s.regions.map (fun x => if x.num = r.num then
        { n with st := .shrinking, loadEnd := s.cycle + loadCycles n.nodes } else x))
    ∧ (r.st = .running → o.deadline ≤ s.cycle → o.sched = false →
      exec .shrinkBudgetExpiry s = .next (s.modOp o.rgn (fun x => { x with act := 2 }))))
  ∧ (∀ (s : State) o r, s.opFor s.site.rgn 4 = some o → s.region o.rgn = some r →
    (r.st = .running ∨ r.st = .frozen → exec .occupancyRound s = .next (s.startDrain r))
    ∧ (r.st = .draining → ∃ t, exec .occupancyRound s = .next t ∧ t.regions = s.regions.map (fun x => if x.num = r.num then
        { r with rounds := if r.vacant then r.rounds + 1 else 0 } else x))
    ∧ (r.st = .draining → r.vacant = true → 2 ≤ r.rounds → ∃ t, exec .drainQuiescence s = .next t ∧ gone s t o .ok 0
      ∧ t.regions = s.regions.filter (fun x => x.num != r.num)))
  ∧ (∀ (s : State) r, let w := (s.die r.die).rquant
    s.region s.site.rgn = some r → bitW w 63 = true → r.st = .running → w.toNat % 2 ^ 40 ≤ r.quantum → r.live ≠ [] →
    s.rgnOps = [] → s.queued = [] →
    ∃ t, exec .regionQuantumExpiry s = .next t
      ∧ t.regions = s.regions.map (fun x => if x.num = r.num then { r with quantum := 0 } else x))

/-- R15, R125, R127, R142, R146, R246, R248, R249, R257, R272, R369, R374, R375, R377: what happens to a thread between its
instructions: a message enters its inbox with the next sequence number, a ready thread ages, a wait ends at its limit, an
enabled interrupt is taken, a user interrupt enters its pad, a posted store is served by its reply, an invalidation is
acknowledged. So inboxMessageArrival, threadAged, waitlimExpiry, feTimeout, pinWaitTimeout, timerInterrupt, externalInterrupt,
fabricTrapDelivery, userInterruptDelivery, protectionRequest, protectionReply, remoteTimeout, replicaCollapse, quantumExpiry,
parkedMessageAppend and plbInvComplete complete. The model's choices and readings: log 17, 36. -/
def Obligations.ThreadSteps : Prop :=
  (∀ (s : State) a l, let here := fun (b : Nat × BitVec 16 × Msg) => s.mailAt (b.1, b.2.1) == s.cur
    s.arrivals.find? here = some a → s.locOf (a.1, a.2.1) = some l → a.2.2.isReturn = false →
    ∃ t, exec .inboxMessageArrival s = .next t ∧ t.arrivals = dropFirst here s.arrivals
      ∧ (∀ k, k ≠ l → t.slot k = s.slot k)
      ∧ t.slot l = { s.slot l with inbox := (s.slot l).inbox ++ [{ a.2.2 with seq := (s.slot l).ibSeq }],
                                   ibSeq := (s.slot l).ibSeq + 1, ibReserved := (s.slot l).ibReserved - 1,
                                   uiFresh := (s.slot l).uiFresh + 1 })
  ∧ (∀ s : State, s.me.st = .ready → 60 ≤ s.me.issWait → s.starved s.cur = false →
    ∃ t, exec .threadAged s = .next t ∧ OnlyThread s t ∧ t.me = { s.me with aged := true })
  ∧ (∀ (s : State) e d b o, s.me.wait = some ⟨.reserve, some d, 0, e, b, o⟩ → d ≤ s.cycle → s.me.inboxFull = true →
    exec .waitlimExpiry s = .next (s.expire s.cur e))
  ∧ (∀ (s : State) d xd n b o, s.me.wait = some ⟨.reserve, some d, 0, { xs := [(xd, Status.timeout.word)], len := n }, b, o⟩ →
    d ≤ s.cycle → s.me.inboxFull = true → s.rgnOps = [] → s.invs = [] → s.feq = [] → (∀ p ∈ s.slots, p.2.st ≠ .member) →
    ∃ t, exec .waitlimExpiry s = .next t ∧ WritesX s t xd Status.timeout.word n)
  ∧ (∀ (s : State) e d b o, (s.me.wait = some ⟨.reserve, some d, 0, e, b, o⟩ ∧ s.me.inboxFull = false)
      ∨ (s.me.wait = some ⟨.inbox, some d, 0, e, b, o⟩ ∧ s.me.gang = none ∧ s.me.mail ≠ []) →
    exec .waitlimExpiry s = .next s)
  ∧ (∀ (s : State) d e b o, s.me.wait = some ⟨.fe, some d, 0, e, b, o⟩ → d ≤ s.cycle → (∃ q ∈ s.feq, q.loc = s.cur) →
    exec .feTimeout s = .next (s.expire s.cur e))
  ∧ (∀ (s : State) d e b o, s.me.wait = some ⟨.pinDir, some d, 0, e, b, o⟩ → d ≤ s.cycle →
    exec .pinWaitTimeout s = .next (s.expire s.cur e))
  ∧ (∀ (s : State) i code, (i = .timerInterrupt ∧ code = 5 ∨ i = .externalInterrupt ∧ code = 9) → s.sub = 1 → s.me.st = .ready →
    s.me.interruptEnabled code = true → s.me.gang = none → s.me.wait = none →
    ∃ t, exec i s = .next t ∧ OnlyThread (s.dropAsks (tidNo s.tid)) t
      ∧ t.me = ({ s.me with rv := { s.me.rv with mip := setBitW s.me.rv.mip code true } }).takeTrap s.tick
          { intr := true, cause := code })
  ∧ (∀ (s : State) d r, d ∈ s.dies → bitW d.2.ftsvc 63 = true → d.2.ftsvc.toNat % 2 ^ 21 = (s.locid s.cur).toNat →
    r ∈ d.2.ftPending → r ∈ s.ftFor s.cur)
  ∧ (∀ (s : State) r rs, s.ftFor s.cur = r :: rs → s.me.st = .ready → s.me.gang = none → s.me.wait = none →
    s.me.interruptEnabled 16 = true → let low := rs.foldl min r
    ∃ u : State, exec .fabricTrapDelivery s = .next (u.interrupt s.cur 16 (BitVec.ofNat 64 low))
      ∧ u = { s with regions := u.regions, dies := u.dies } ∧ (∀ n, n ≠ low → u.region n = s.region n)
      ∧ (∀ x, s.region low = some x →
          u.region low = some { x with trap := x.trap.map (fun t => { t with delivered := true }) })
      ∧ ∀ k, u.die k = if k = low / 32 then { s.die k with ftPending := (s.die k).ftPending.filter (· != low) } else s.die k)
  ∧ (∀ (s u : State), s.me.st = .ready → s.me.gang = none → s.me.wait = none → s.me.uiPending = true → s.me.u.uiActive = false →
    s.me.u.emustat = false → s.me.pc ≠ exitAddr → s.padAt s.cur s.me.u.uivec 4 = (u, none) → u.me = s.me → u.cur = s.cur →
    ∃ t, exec .userInterruptDelivery s = .next t ∧ OnlyThread u t
      ∧ t.me = { s.me.swapShadow with u := { s.me.u with uepc := s.me.pc, uiActive := true }, pc := ptrAddr s.me.u.uivec,
                                      uiFresh := 0 })
  ∧ (∀ (s : State) p e, s.me.posted[s.sub]? = some p → p.far = none → p.reply = none →
    s.lookup { s.viewOf s.cur with rights := p.rights } p.addr.toNat = .ok e →
    ∃ t, exec .protectionRequest s = .next t ∧ OnlyThread s t
      ∧ t.me = { s.me with posted := s.me.posted.set s.sub { p with reply := some (.entry { e with slot := s.cur % 4 }) } })
  ∧ (∀ (s : State) p r c, s.me.posted = p :: r → (∀ q ∈ s.me.posted, q.far = none) → p.reply = some (.fail c) →
    ∃ t, exec .protectionReply s = .next t ∧ OnlyThread s t
      ∧ t.me = ({ s.me with posted := s.me.posted.filter (fun q => q.seq != p.seq) }).hold ⟨p.addr, p.width, p.data, c, p.seq, false⟩)
  ∧ (∀ (s : State) p r f, s.me.posted = p :: r → p.far = some f → f.2 ≤ s.cycle → s.replyOf f.1 = none →
    ∃ t, exec .remoteTimeout s = .next t ∧ OnlyThread s t
      ∧ t.me = ({ s.me with posted := s.me.posted.filter (fun q => q.seq != p.seq) }).hold
          ⟨p.addr, p.width, p.data, causeRemote, p.seq, false⟩)
  ∧ (∀ (s : State) va, exec (.replicaCollapse va) s = .next (s.collapse (dieOf s.cur) va.toNat))
  ∧ (∀ (s : State), s.me.posted = [] → s.me.held = [] → s.me.gang = none → s.me.st = .ready → bitW s.me.sc.quantum 63 = true →
    s.me.quantumEff ≤ s.me.quantumUsed → bitW s.me.sc.quantum 61 = false → maskW s.me.sc.thnext 63 12 = 0 →
    ∃ t, exec .quantumExpiry s = .next t ∧ OnlyThread s t ∧ t.me = s.me.startQuantum)
  ∧ (∀ (s u : State) home ctx m p w, let here := fun (a : Nat × BitVec 16 × Msg) => s.mailAt (a.1, a.2.1) == s.cur
    s.parkedMsgs.find? here = some (home, ctx, m) →
    s.me.parked.find? (fun q => (q.home, q.ctx) == (home, ctx)) = some p → s.awayOf (home, ctx) = some w →
    s.appendMsg { s.engineView s.cur (home, ctx) w.slot.sc.pdrights with plb := none } (s.agentFor s.cur (home, ctx)) p.area { m with seq := w.slot.ibSeq } = .ok u →
    ∃ t, exec .parkedMessageAppend s = .next t ∧ t.mem = u.mem ∧ t.parkedMsgs = dropFirst here u.parkedMsgs)
  ∧ (∀ (s : State) i r, s.invs = i :: r →
    let clean (t : State) : Prop := t.mem = s.mem ∧ (∀ c ∈ t.cores, ∀ e ∈ c.2.plb, i.covers e = false)
      ∧ ∀ l, ∀ p ∈ (t.slot l).posted, ∀ e, p.reply = some (.entry e) → i.covers e = false
    (i.who.bind s.locOf = none → ∃ t, exec .plbInvComplete s = .next t ∧ clean t ∧ t.invs = r
      ∧ ∀ l, t.slot l = { s.slot l with posted := (t.slot l).posted })
    ∧ ∀ l d n rd b o, i.who.bind s.locOf = some l →
      (s.slot l).wait = some ⟨.plbInv, d, n, { xs := [(rd, Status.timeout.word)] }, b, o⟩ →
      ∃ t, exec .plbInvComplete s = .next t ∧ clean t ∧ t.invs.length = r.length ∧ (t.slot l).wait = none ∧ (t.slot l).pc = (s.slot l).pc + 4
        ∧ ∀ q, (t.slot l).xr q = if q = 0 then 0 else if q = rd then Status.ok.word else (s.slot l).xr q)

/-- R262, R265, R274, R278 to R281, R294, R297 to R304, R312, R313, R319 to R328: the engines take up their oldest command, make
progress in steps, and end with exactly one message; a Kiln checks its list, skips or installs a live object (its
forwarding entry IN_TRANSIT, its header in state 1), copies or rolls it back and reports; what goes to another package is acknowledged
before a command goes on; a subscription's copy and packets are applied in order, and a scratchpad is saved and restored whole. So
copyCommandStart, copyCompletion, kilnInstall, kilnMove, kilnFault, kilnReport, mxuArbitrate, tileCompletion, fillWaitTimeout,
sortCompletion, mxuParityError, subSyncCopy, packetFlush, packetTimerExpiry, packetApply, subDrained, spimgSave and
spimgRestore complete. The
model's choices and readings: log 9, 13, 14. -/
def Obligations.EngineSteps : Prop :=
  let following (s : State) : State := (s.dropWrites (s.clu s.cur).far).modClu s.cur (fun k =>
    { k with step := k.step + 1, waitFrom := none, parity := none, far := [] })
  let written (s u : State) : State :=
    if s.newWrites u = [] then following u else u.modClu s.cur (fun k => { k with far := s.newWrites u })
  (∀ (s : State) q r, let c := s.core s.cur
    c.copyRun = false → c.copyQ = q :: r →
    ∃ t, exec .copyCommandStart s = .next t ∧ t = { s with cores := t.cores }
      ∧ ∀ k, t.core k = if k = s.cur then { c with copyRun := true, copyDone := 0 } else s.core k)
  ∧ (∀ (s u : State) q r, let c := s.core s.cur
    c.copyRun = true → c.copyQ = q :: r → s.farFailed c.copyFar = none → c.copyDone < q.elems → s.copyFrom q c.copyDone = .ok u →
    let far := c.copyFar ++ s.newWrites u
    (c.copyDone + q.per < q.elems ∨ far ≠ [] → exec .copyCompletion s
      = .next (u.modCore s.cur (fun k => { k with copyDone := c.copyDone + q.per, copyFar := far })))
    ∧ (q.elems ≤ c.copyDone + q.per → far = [] → exec .copyCompletion s = .next (u.copyEnd q r .ok 0)))
  ∧ (∀ (s u : State) q r a, let c := s.core s.cur
    c.copyRun = true → c.copyQ = q :: r →
    (s.farFailed c.copyFar = some a → exec .copyCompletion s = .next (s.copyEnd q r .fault a))
    ∧ (s.farFailed c.copyFar = none → s.unacked c.copyFar = false →
      (c.copyDone < q.elems → s.copyFrom q c.copyDone = .error (u, a) → exec .copyCompletion s = .next (u.copyEnd q r .fault a))
      ∧ (q.elems ≤ c.copyDone → exec .copyCompletion s = .next (s.copyEnd q r .ok 0))))
  ∧ (∀ (s : State) q r st v, let t := s.copyEnd q r st v
    t.arrivals = s.arrivals ++ [(q.home, q.ctx, ⟨3, st.byte, 0, q.tag, v⟩)] ∧ t.mem = s.mem ∧ t.slots = s.slots
      ∧ t.core s.cur = { s.core s.cur with copyQ := r, copyRun := false, copyDone := 0, copyFar := [] })
  ∧ (∀ (s : State), let k := s.kiln s.cur s.sub
    k.running = true → k.cur = none → k.status = none →
    (k.checked = false → let p := s.regionsStatus k k.count 0
      exec .kilnInstall s = .next (p.1.setKiln s.cur s.sub
        { k with checked := true, status := if p.2 = .ok then none else some p.2.byte }))
    ∧ (k.checked = true → k.count ≤ k.region →
      exec .kilnInstall s = .next (s.setKiln s.cur s.sub { k with status := some Status.ok.byte }))
    ∧ ∀ s1 s2 base z o, let bits := 4 ^ z * 256
      k.checked = true → k.region < k.count → s.regionEntry k k.region = some (s1, base, z) →
      s1.nextLive k k.bitBase (bits - k.bit) k.bit = .ok (s2, o) →
      exec .kilnInstall s = .next (match o with
        | some b => s2.kilnObject s.cur s.sub { k with bit := b + 1 } (base + BitVec.ofNat 64 (16 * b))
        | none => s2.setKiln s.cur s.sub { k with region := k.region + 1, bit := 0, bitBase := k.bitBase + bits }))
  ∧ (∀ (s : State) die i k h, s.kilnPage k 1 h = none →
    s.kilnObject die i k h = s.setKiln die i { k with status := some Status.fault.byte })
  ∧ (∀ (s : State) die i k h e, s.kilnPage k 1 h = some e → let o := s.header e h
    let f := footprint (classOf o.size)
    let k1 := { k with processed := k.processed + 1 }
    let odd := o.state ≠ 0 ∨ maxBody < o.size ∨ o.flags / 4 ≠ 0
    (odd → s.kilnObject die i k h = s.setKiln die i { k1 with skOther := k.skOther + 1 })
    ∧ (¬ odd → o.pin ≠ 0 → s.kilnObject die i k h = s.setKiln die i { k1 with skPinned := k.skPinned + 1 })
    ∧ (¬ odd → o.pin = 0 → granted e.rights 3 = false →
        s.kilnObject die i k h = s.setKiln die i { k with status := some Status.fault.byte })
    ∧ (¬ odd → o.pin = 0 → granted e.rights 3 = true → k.stop < k.d.toNat + f →
        s.kilnObject die i k h = s.setKiln die i { k with status := some Status.range.byte })
    ∧ (¬ odd → o.pin = 0 → granted e.rights 3 = true → k.d.toNat + f ≤ k.stop →
      (s.freeFwd e.home h.toNat = none → s.kilnObject die i k h = s.setKiln die i { k1 with skFull := k.skFull + 1 })
      ∧ ∀ p, s.freeFwd e.home h.toNat = some p → e.repl = false → MemoryInv s → (e.at h + 16 ≤ p ∨ p + 32 ≤ e.at h) → i < 2 →
        let t := s.kilnObject die i k h
        t.kiln die i = { k1 with cur := some (h.toNat, k.d.toNat, f), hdrAt := e.at h, fwdAt := p }
        ∧ t.mem.read p 8 = 2 ^ 62 + h.toNat ∧ t.mem.read (p + 8) 8 = k.d.toNat ∧ t.mem.read (p + 16) 8 = f
        ∧ Header.of (t.mem.read (e.at h) 16) = { o with flags := 1 }
        ∧ ∀ a, (a < p ∨ p + 32 ≤ a) → (a < e.at h + 12 ∨ e.at h + 16 ≤ a) → t.mem.byte a = s.mem.byte a))
  ∧ (∀ (s : State) h d f, let k := s.kiln s.cur s.sub
    k.cur = some (h, d, f) →
    (∀ u, s.kilnCopied k h d f = some u → exec .kilnMove s = .next ((u.setKiln s.cur s.sub
      { k with cur := none, moved := k.moved + 1, bytes := k.bytes + f, d := k.d + BitVec.ofNat 64 f }).kilnLeave k h (some d)))
    ∧ (s.kilnCopied k h d f = none → exec .kilnFault s = .next ((s.setKiln s.cur s.sub
      { k with cur := none, status := some Status.fault.byte }).kilnLeave k h none)))
  ∧ (∀ (s : State) st, let k := s.kiln s.cur s.sub
    k.running = true → k.status = some st → let r := s.writeReport k st (k.words st)
    exec .kilnReport s = .next (((r.1.dropAsks (tidNo (k.home, k.ctx))).setKiln s.cur s.sub { k with running := false, status := none }).post k.home k.ctx 5
      (Status.ofByte r.2) k.tag (BitVec.ofNat 64 k.moved)))
  ∧ (∀ (s : State) r credit c q, (s.clu s.cur).run = none → s.mxPick s.cur = some (r, credit) → s.mxQueue s.cur r = c :: q →
    (c.isTile = true → s.mxRights s.cur c = none) →
    exec .mxuArbitrate s = .next ((s.mxPop s.cur r).modClu s.cur (fun u =>
      { u with run := some c, runReq := r, planes := s.mxPlanes s.cur c, step := 0, waitFrom := none, ptr := r, credit := credit, parity := none })))
  ∧ (∀ (s : State) c, let k := s.clu s.cur
    let b := TileBlk.of c.blk.toNat
    let r := s.mxTile c s.cur k.planes
    k.run = some c → c.isTile = true →
    (k.far = [] → (b.m ≤ k.step → exec .tileCompletion s = .next (s.mxEnd c .ok 0))
      ∧ (k.step < b.m → r.waits s k.step = false → (∀ u, r.vector s k.step = .ok u → exec .tileCompletion s = .next (written s u))
        ∧ ∀ u a, r.vector s k.step = .error (u, a) →
            exec .tileCompletion s = .next (s.mxEnd c .fault (mxValue k.step (faultPage a)))))
    ∧ (k.far ≠ [] → (∀ a, s.farFailed k.far = some a →
        exec .tileCompletion s = .next (s.mxEnd c .fault (mxValue k.step (faultPage a))))
      ∧ (s.farFailed k.far = none → s.unacked k.far = false → exec .tileCompletion s = .next (following s))))
  ∧ (∀ (s : State) c fr, let k := s.clu s.cur
    k.run = some c → k.waitFrom = some fr → c.isTile = true → (s.mxTile c s.cur k.planes).waits s k.step = true → fr + c.limit ≤ s.cycle →
    exec .fillWaitTimeout s = .next (s.mxEnd c .timeout (mxValue k.step 0)))
  ∧ (∀ (s : State) c, let k := s.clu s.cur
    let b := SortBlk.of c.blk.toNat
    k.run = some c → c.isTile = false →
    let seg := s.sortSegment (s.mxView c s.cur) (s.mxAgent c s.cur) b (c.form == .topk) k.step
    (k.far = [] → (b.segments ≤ k.step → exec .sortCompletion s = .next (s.mxEnd c .ok 0))
      ∧ (k.step < b.segments → (∀ u, seg = .ok u → exec .sortCompletion s = .next (written s u))
        ∧ ∀ u a, seg = .error (u, a) → exec .sortCompletion s = .next (s.mxEnd c .fault (faultPage a))))
    ∧ (k.far ≠ [] → (∀ a, s.farFailed k.far = some a → exec .sortCompletion s = .next (s.mxEnd c .fault (faultPage a)))
      ∧ (s.farFailed k.far = none → s.unacked k.far = false → exec .sortCompletion s = .next (following s))))
  ∧ (∀ (s : State) c, let k := s.clu s.cur
    k.run = some c → c.isTile = true → k.step < (TileBlk.of c.blk.toNat).m → k.parity ≠ some k.step →
    ∃ t, exec .mxuParityError s = .next t ∧ t = { s with clus := t.clus } ∧ ∀ j, t.clu j = if j = s.cur then
      { k with mxerr := if k.mxerr = BitVec.allOnes 32 then k.mxerr else k.mxerr + 1, planes := s.mxPlanes s.cur c,
               parity := some k.step } else s.clu j)
  ∧ (∀ (s : State) b bs, s.subAt s.cur s.sub = some b → b.snap = some bs → b.st = .syncing →
    ∃ t, exec .subSyncCopy s = .next t ∧ t.mem = (s.applyCopy s.cur b bs).mem
      ∧ (b.src % 64 = 0 → b.len % 64 = 0 → bs.length = b.len → t.mem = s.mem.setBytes (s.spadKey s.cur b.dst) bs)
      ∧ t.subAt s.cur s.sub = some { b with snap := none, st := .active }
      ∧ t.arrivals = s.arrivals ++ [(b.owner, b.ctx, ⟨7, Status.ok.byte, 0, b.tag, BitVec.ofNat 64 s.sub⟩)])
  ∧ (∀ (s : State) b p, s.subAt s.cur s.sub = some b → b.opened = some p →
    (p.full = true → exec .packetFlush s = .next (s.putSub s.cur s.sub b b.flush))
    ∧ (p.opened + 64 ≤ s.cycle → exec .packetTimerExpiry s = .next (s.putSub s.cur s.sub b b.flush)))
  ∧ (∀ (s : State) b p r, s.subAt s.cur s.sub = some b → b.snap = none → b.sent = p :: r →
    exec .packetApply s
      = .next ((s.applyPacket s.cur b p).setSub s.cur s.sub { b with sent := r, applied := b.applied + 1 }))
  ∧ (∀ (s : State) b, s.subAt s.cur s.sub = some b → b.st = .draining → b.snap = none → b.opened = none → b.sent = [] →
    ∃ t, exec .subDrained s = .next t ∧ t.subAt s.cur s.sub = none ∧ t.mem = s.mem ∧ t.slots = s.slots)
  ∧ (∀ (s : State) n, let c := s.core s.cur
    c.spCmd = some n → (∀ l, s.locOf c.spOwner = some l → (s.slot l).wait = none) →
    (n = 1 → ∃ t, exec .spimgSave s = .next t ∧ t.mem = s.mem.copyRange (spadBase s.cur) c.image (2 ^ 20)
      ∧ t.core s.cur = { c with redirected := true, spCmd := none }
      ∧ ∀ l, t.slot l = { s.slot l with resv := (t.slot l).resv })
    ∧ (n = 2 → ∃ t, exec .spimgRestore s = .next t ∧ t.mem = s.mem.copyRange c.image (spadBase s.cur) (2 ^ 20)
      ∧ t.core s.cur = { c with redirected := false, spCmd := none }
      ∧ ∀ l, t.slot l = { s.slot l with resv := (t.slot l).resv }))

/-- R185 to R187, R206 to R219: an element at the site whose frame and region fire and whose word is eligible consumes the
heads the word dequeues, sends its result on every edge of the ports it drives and writes its destination and predicates,
and changes nothing else. The result is given op by op, in exact arithmetic narrowed at the end. A word that is not
eligible does nothing. So every element op completes, from elNop to elCsadd. Named in full: elMov, elSel, elSteer, elRepl,
elAdd, elSub, elMul, elMulh, elMac, elMin, elMax, elAbs, elNeg, elAnd, elOr, elXor, elAndn, elNot, elSll, elSrl, elSra,
elCmpEq, elCmpNe, elCmpLt, elCmpLe, elFadd, elFsub, elFmul, elFma, elFmin, elFmax, elFcmpEq, elFcmpLt, elFcmpLe, elFcmpUn,
elVredAdd, elVredMin, elVredMax, elVredFadd, elVredFmin, elVredFmax, elVextr, vextr, elVins, vins, elSettag, elEndtest and
elCsacc. The model's choices and readings: log 9. -/
def Obligations.ElementsFire : Prop :=
  let fires (i : Instr) (o : ElOp) (w : TWord) (op : State → Fire → ElOut) : Prop :=
    (∀ s f, s.candidate 0 = some f → f.eligible w (f.drives o w) = true →
      ∃ t, exec i s = .next t ∧ Fired s t f o w (op s f))
    ∧ (∀ s f, s.candidate 0 = some f → f.eligible w (f.drives o w) = false → exec i s = .next s)
    ∧ ∀ s, s.candidate 0 = none → exec i s = .next s
  ∀ w : TWord,
    fires (.elNop w) .nop w (fun _ _ => ElOut.of w 0) ∧
    fires (.elMov w) .mov w (fun _ f => ElOut.of w (f.src w w.a)) ∧
    fires (.elSel w) .sel w (fun _ f => ElOut.of w (if w.vec then
      buildElems 32 16 (fun i => if elemOf 32 (f.src w w.c) i % 2 = 1 then elemOf 32 (f.src w w.a) i else elemOf 32 (f.src w w.b) i)
      else if f.src w w.c % 2 = 1 then f.src w w.a else f.src w w.b)) ∧
    fires (.elSteer w) .steer w (fun _ f => { ElOut.of w (f.src w w.a) with bit := some (f.src w w.b % 2 == 1) }) ∧
    fires (.elRepl w) .repl w (fun _ f => { ElOut.of w (splat16 (f.scalar w w.a.toNat)) with mask := some allLanes16 }) ∧
    fires (.elAdd w) .add w (fun _ f => f.arith w w.sat (fun a b _ => a + b)) ∧
    fires (.elSub w) .sub w (fun _ f => f.arith w w.sat (fun a b _ => a - b)) ∧
    fires (.elMul w) .mul w (fun _ f => f.arith w w.sat (fun a b _ => a * b)) ∧
    fires (.elMulh w) .mulh w (fun _ f => f.arith w false (fun a b _ => a * b / (2 ^ w.width : Int))) ∧
    fires (.elMac w) .mac w (fun _ f => f.arith w w.sat (fun a b c => a * b + c)) ∧
    fires (.elMin w) .min w (fun _ f => f.arith w false (fun a b _ => min a b)) ∧
    fires (.elMax w) .max w (fun _ f => f.arith w false (fun a b _ => max a b)) ∧
    fires (.elAbs w) .abs w (fun _ f => f.arith w w.sat (fun a _ _ => if a < 0 then -a else a)) ∧
    fires (.elNeg w) .neg w (fun _ f => f.arith w w.sat (fun a _ _ => -a)) ∧
    fires (.elAnd w) .and w (fun _ f => f.elements w (fun a b _ => a &&& b)) ∧
    fires (.elOr w) .or w (fun _ f => f.elements w (fun a b _ => a ||| b)) ∧
    fires (.elXor w) .xor w (fun _ f => f.elements w (fun a b _ => a ^^^ b)) ∧
    fires (.elAndn w) .andn w (fun _ f => f.elements w (fun a b _ => a &&& (2 ^ w.width - 1 - b))) ∧
    fires (.elNot w) .not w (fun _ f => f.elements w (fun a _ _ => 2 ^ w.width - 1 - a)) ∧
    fires (.elSll w) .sll w (fun _ f => f.elements w (fun a b _ => a * 2 ^ (b % w.width))) ∧
    fires (.elSrl w) .srl w (fun _ f => f.elements w (fun a b _ => a / 2 ^ (b % w.width))) ∧
    fires (.elSra w) .sra w (fun _ f => f.elements w (fun a b _ => wrap w.width (sval w.width a / (2 ^ (b % w.width) : Int)))) ∧
    fires (.elCmpEq w) .cmpEq w (fun _ f => f.compare w (fun a b => a == b)) ∧
    fires (.elCmpNe w) .cmpNe w (fun _ f => f.compare w (fun a b => a != b)) ∧
    fires (.elCmpLt w) .cmpLt w (fun _ f => f.compare w (fun a b => decide (a < b))) ∧
    fires (.elCmpLe w) .cmpLe w (fun _ f => f.compare w (fun a b => decide (a ≤ b))) ∧
    fires (.elFadd w) .fadd w (fun _ f => f.float w (fun a b _ => a.add w.rnd b)) ∧
    fires (.elFsub w) .fsub w (fun _ f => f.float w (fun a b _ => a.sub w.rnd b)) ∧
    fires (.elFmul w) .fmul w (fun _ f => f.float w (fun a b _ => a.mul b)) ∧
    fires (.elFma w) .fma w (fun _ f => f.float w (fun a b c => (a.mul b).add w.rnd c)) ∧
    fires (.elFmin w) .fmin w (fun _ f => f.float w (fun a b _ => a.minNum b)) ∧
    fires (.elFmax w) .fmax w (fun _ f => f.float w (fun a b _ => a.maxNum b)) ∧
    fires (.elFcmpEq w) .fcmpEq w (fun _ f => f.fcompare w FV.eq) ∧
    fires (.elFcmpLt w) .fcmpLt w (fun _ f => f.fcompare w FV.lt) ∧
    fires (.elFcmpLe w) .fcmpLe w (fun _ f => f.fcompare w FV.le) ∧
    fires (.elFcmpUn w) .fcmpUn w (fun _ f => f.fcompare w (fun a b => a.isNan || b.isNan)) ∧
    fires (.elVredAdd w) .vredAdd w (fun _ f => f.reduce w false .add) ∧
    fires (.elVredMin w) .vredMin w (fun _ f => f.reduce w false .min) ∧
    fires (.elVredMax w) .vredMax w (fun _ f => f.reduce w false .max) ∧
    fires (.elVredFadd w) .vredFadd w (fun _ f => f.reduce w true .add) ∧
    fires (.elVredFmin w) .vredFmin w (fun _ f => f.reduce w true .min) ∧
    fires (.elVredFmax w) .vredFmax w (fun _ f => f.reduce w true .max) ∧
    fires (.elVextr w) .vextr w (fun _ f => { val := elemOf 32 (f.vector w w.a.toNat) (f.vector w w.b.toNat % 16), vec := false }) ∧
    fires (.elVins w) .vins w (fun _ f => let i := f.vector w w.c.toNat % 16
      { val := buildElems 32 16 (fun j => if j = i then f.vector w w.b.toNat % 2 ^ 32 else elemOf 32 (f.vector w w.a.toNat) j),
        vec := true, mask := some (f.maskAt w.a.toNat ||| BitVec.ofNat 16 (2 ^ i)) }) ∧
    fires (.elSettag w) .settag w (fun _ f => { ElOut.of w (f.src w w.a) with
      tag := some (mkTag (w.imm.toNat / 2 ^ 11) (bitOf w.imm.toNat 10) (w.imm.toNat / 4 % 256 + f.src w w.b % 256) f.fs) }) ∧
    fires (.elEndtest w) .endtest w (fun _ f =>
      let y := (f.headAt w.a.toNat).any (fun h => tagDims h.tag &&& (w.imm.toNat % 16) == w.imm.toNat % 16)
      { ElOut.of w (if w.vec then splat16 y.toNat else y.toNat) with bit := some y }) ∧
    fires (.elCsacc w) .csacc w (fun s f => { csOut s.fresh (fun h => csCombine (csHalf (f.vector w w.b.toNat) h)
      (csSum ((((List.range 8).map (fun i => 8 * h + i)).filter (fun i => (f.maskAt w.a.toNat).getLsbD i)).map
        (fun i => fp32.decode (elemOf 32 (f.vector w w.a.toNat) i))))) with tag := some (f.bothErr w) }) ∧
    fires (.elCsadd w) .csadd w (fun s f => csOut s.fresh (fun h => csCombine (csHalf (f.vector w w.a.toNat) h) (csHalf (f.vector w w.b.toNat) h)))

/-- R200 to R202, R220, R225 to R229: a `stream` node starts a walk and makes one point at a time; a `mem` node issues its
request, consuming its heads, into the oldest sixteen waves; a request performs in chain and wave order, all of it or none,
and answers in the order requests were made; a `join` node passes its token when its place in the chain has come. So
streamWalkStart, streamPoint, memSkip, memLoad, memStore, memIndexedLoad, memIndexedStore, memRmw, memIndexedRmw,
orderedRequestPerform, memReply and joinFire complete. The model's
choices and readings: log 44. -/
def Obligations.MemoryNodesOfTheFabric : Prop :=
  (∀ (s : State) f o idx off c b tg, s.candidate 1 = some f → f.st = .stream false o idx off c b tg →
    (f.fed 8 = true ∧ (f.head 8).isSome = true ∨ f.fed 8 = false ∧ o = false) → f.fed 1 = false → f.head 1 = none → f.n.strFits 0 = true →
    exec .streamWalkStart s = .next ((((f.take 8).take 1).set (.stream true true [0, 0, 0, 0] 0 0 false
      (((f.head 8).map Token.tag).getD f.fresh))).put s |>.fired s.site))
  ∧ (∀ (s : State) f o idx off c tg, s.candidate 1 = some f → f.st = .stream true o idx off c false tg → f.n.strStore = false →
    f.n.strMode = 0 → f.can [f.n.strOut] = true →
    let a : Word := BitVec.ofInt 64 ((f.n.par 0 : Int) + off
      + intSum ((List.range f.n.strLevels).map (fun i => (idx.getD i 0 : Int) * f.n.strStride i)))
    exec .streamPoint s = .next ((((f.advance idx off c false tg).send 0 (scalarTok a.toNat (f.pointTag idx c))).put s).fired s.site))
  ∧ (∀ (s : State) f op i t, (i = .memSkip ∧ op = 0) ∨ (i = .memLoad ∧ op = 1) ∨ (i = .memStore ∧ op = 2)
      ∨ (i = .memIndexedLoad ∧ op = 3) ∨ (i = .memIndexedStore ∧ op = 4) ∨ (i = .memRmw ∧ op = 5)
      ∨ (i = .memIndexedRmw ∧ op = 6) →
    s.candidate 2 = some f → f.n.memOp = op → f.head f.n.memAddrPort = some t →
    (∀ p, f.n.memDataPort = some p → (f.head p).isSome = true) → f.can [0, 1, 4, 8] = true →
    (f.n.unord = true ∨ f.slot.extWave (tagSeq t.tag) < f.slot.wave + 16) →
    let wave := if f.n.unord = true then f.slot.nearWave (tagSeq t.tag) else f.slot.extWave (tagSeq t.tag)
    ∃ u r q, exec i s = .next u ∧ u.region s.site.rgn = some r ∧ r.reqs = f.r.reqs ++ [q] ∧ q.node = f.n.id ∧ q.fs = f.fs
      ∧ q.op = op ∧ q.wave = wave ∧ q.addr = t.data ∧ q.st = .waiting ∧ q.ord = f.n.memOrder
      ∧ q.pred = f.n.memPred ∧ q.succ = f.n.memSucc ∧ q.ordered = !f.n.unord
      ∧ r.chan = (match f.n.memDataPort with
          | some p => ((f.take f.n.memAddrPort).take p).r.chan
          | none => (f.take f.n.memAddrPort).r.chan)
      ∧ u.mem = s.mem)
  ∧ (∀ (s u : State) r q n q1, s.region s.site.rgn = some r → r.reqs[s.sub]? = some q → r.node? q.node = some n →
    r.interfaceOn = true → q.op ≠ 16 → q.op ≠ 17 → q.st = .waiting → r.mayPerform q = true →
    r.speculative q.node q.fs (tagSeq q.tag) = false → (r.fslot q.fs).st = .running → s.perform r n q = .ok (u, q1) →
    exec .orderedRequestPerform s = .next (u.modRegion r.num (fun t =>
      let w : Region := { t with reqs := t.reqs.set s.sub q1 }
      if q1.st = .sent then w else w.credited q1)))
  ∧ (∀ (s : State) r q n, s.region s.site.rgn = some r → r.reqs[s.sub]? = some q → r.node? q.node = some n →
    r.interfaceOn = true → q.op ≠ 17 → q.st = .sent → (r.fslot q.fs).st = .running →
    (s.unacked q.far = true → exec .orderedRequestPerform s = .next s)
    ∧ (s.unacked q.far = false → s.farFault q.far = none → exec .orderedRequestPerform s
      = .next ((s.dropWrites q.far).modRegion r.num (fun t =>
          let q1 := { q with st := .performed, far := [] }
          ({ t with reqs := t.reqs.set s.sub q1 } : Region).credited q1)))
    ∧ (∀ e, s.unacked q.far = false → s.farFault q.far = some e → r.st ≠ .draining → exec .orderedRequestPerform s
      = .next (((s.dropWrites q.far).modRegion r.num (fun t =>
          { t with reqs := t.reqs.set s.sub { q with st := .faulting, far := [] } })).fabTrap r.num q.node q.fs
            { cause := fabCause e.2, va := e.1, ord := q.ord, wave := q.wave })))
  ∧ (∀ (s : State) r q n e, s.region s.site.rgn = some r → r.reqs[s.sub]? = some q → r.node? q.node = some n →
    r.interfaceOn = true → r.st ≠ .draining → q.op ≠ 16 → q.op ≠ 17 → q.st = .waiting → r.mayPerform q = true →
    r.speculative q.node q.fs (tagSeq q.tag) = false → (r.fslot q.fs).st = .running → s.perform r n q = .error e →
    exec .orderedRequestPerform s
      = .next ((s.modRegion r.num (fun t => { t with reqs := t.reqs.set s.sub { q with st := .faulting } })).fabTrap r.num q.node q.fs
          { cause := fabCause e.2, va := e.1, ord := q.ord, wave := q.wave }))
  ∧ (∀ (s : State) r q n, s.region s.site.rgn = some r → r.reqs[s.sub]? = some q → r.node? q.node = some n →
    r.interfaceOn = true → q.op ≠ 16 → q.op ≠ 17 → q.st = .performed →
    (r.reqs.take s.sub).any (fun p => p.node == q.node && p.fs == q.fs) = false →
    ∃ t g, exec .memReply s = .next t ∧ t = { s with regions := t.regions } ∧ t.region s.site.rgn = some g
      ∧ g.reqs = r.reqs.eraseIdx s.sub ∧ g.chan = r.chan
      ∧ g.flight = r.flight ++ (q.tokens n).flatMap (fun p => (n.outs 0 p.1).map (fun e => (e.node, e.inPort, p.2))))
  ∧ (∀ (s : State) f t, s.candidate 3 = some f → f.head 8 = some t → f.can [8] = true →
    f.slot.extWave (tagSeq t.tag) = f.slot.wave → (f.r.waveSt f.fs f.slot.wave).ready f.n.joinOrder f.n.joinPred = true →
    f.joinWaits f.slot.wave = false → (f.n.joinScope = .sys → s.farUnacked = [] ∧ s.farTo = []) →
    let g := (f.take 8).send 8 (controlTok (t.data.toNat % 2) t.tag)
    exec .joinFire s = .next (((s.releaseFrame f.slot.id f.n.joinScope (f.r.clusterOf f.n * 8)).setRegion
      (g.r.performed f.fs f.slot.wave f.n.joinOrder f.n.joinSucc)).fired s.site))

/-- R191 to R195, R198, R230 to R235: a `loop` node starts its walk, counts done tokens, decides its exit, retires iterations
in order and forwards carries; `collect` sends the head whose sequence tag is due and parks another; `conv` and `norm` send
what they compute of their head; `dsq` takes at most twelve lanes of work into its pipeline and sends the oldest. So
loopStart, loopDoneToken, loopExitToken, iterationRetire, carryForward, collectStep, convFire, normFire, dsqEnter and
dsqExit complete. The model's
choices and readings: log 44. -/
def Obligations.FlowNodesOfTheFabric : Prop :=
  (∀ (s : State) f l, s.candidate 4 = some f → f.st = .loop l → l.active = false → f.fed 9 = true → (f.head 9).isSome = true →
    exec .loopStart s = .next ((f.startLoop l s).fired s.site))
  ∧ (∀ (s : State) (f : Fire) l, f.n.par 1 = 0 → f.startLoop l s = ((f.take 9).releases { LoopSt.zero with
      active := true, opened := true, carries := f.n.loopInit f.fs, walks := l.walks } 8).put s)
  ∧ (∀ (s : State) f l t, s.candidate 4 = some f → f.st = .loop l → f.head 8 = some t →
    (∀ i, l.active = true → l.iter (tagSeq t.tag) = some i → exec .loopDoneToken s
      = .next ((((f.take 8).set (.loop { l with dones := assocSet l.dones i (((assoc l.dones i).getD 0) + 1) })).put s).fired s.site))
    ∧ (l.active = false ∨ l.iter (tagSeq t.tag) = none →
      exec .loopDoneToken s = .next ((((f.take 8).set (.loop l)).put s).fired s.site)))
  ∧ (∀ (s : State) f l t i, s.candidate 4 = some f → f.st = .loop l → f.head 0 = some t → l.active = true → l.exitAt = none →
    l.iter (tagSeq t.tag) = some i → let l1 := { l with exits := l.exits ++ [(i, t.data.toNat % 2 == 1 || tagErr t.tag)] }
    (l1.decided = none → exec .loopExitToken s = .next ((((f.take 0).set (.loop l1)).put s).fired s.site))
    ∧ ∀ n, l1.decided = some n → exec .loopExitToken s = .next ((s.setRegion
        (((f.take 0).set (.loop (l1.exit n))).r.squash f.n.id f.n.loopBody f.fs (squashTags n l1.next) ((n + 1) % 256))).fired s.site))
  ∧ (∀ (s : State) f l, s.candidate 4 = some f → f.st = .loop l → l.active = true → l.oldest < l.next →
    f.n.loopD ≤ (assoc l.dones l.oldest).getD 0 → f.carryWaits l.oldest = false → f.n.loopFixed = true →
    (l.oldest + 1 = f.n.loopCount → f.can [0] = true → exec .iterationRetire s
      = .next ((((f.send 0 (l.exitToken l.oldest f.fs)).set (.loop { LoopSt.zero with opened := true, walks := l.walks + 1 })).put s).fired
          s.site))
    ∧ (l.oldest + 1 ≠ f.n.loopCount → exec .iterationRetire s = .next (((f.releases { l with
        oldest := l.oldest + 1, dones := assocDel l.dones l.oldest, exits := l.exits.filter (fun e => e.1 != l.oldest) } 8).put s).fired
          s.site)))
  ∧ (∀ (s : State) f l c cs, s.candidate 4 = some f → f.st = .loop l → l.carries = c :: cs → l.active = true → c.2.1 < l.next →
    f.can [carryPort c.1] = true →
    exec .carryForward s = .next ((((f.send (carryPort c.1)
      { c.2.2 with tag := mkTag (tagDims c.2.2.tag) (tagErr c.2.2.tag) c.2.1 f.fs }).set (.loop { l with carries := cs })).put s).fired
        s.site))
  ∧ (∀ (s : State) f ex a t, s.candidate 5 = some f → f.st = .collect ex [] →
    f.n.colArms.filterMap (fun a => (f.head (f.n.colPort a)).map (fun t => (a, t))) = [(a, t)] →
    (tagSeq t.tag = ex → f.can [f.n.colOut] = true → exec .collectStep s
      = .next (((((f.take (f.n.colPort a)).send f.n.colOut t).set (.collect ((ex + 1) % 256) [])).put s).fired s.site))
    ∧ (tagSeq t.tag ≠ ex → exec .collectStep s
      = .next ((((f.take (f.n.colPort a)).set (.collect ex [(a, t)])).put s).fired s.site)))
  ∧ (∀ (s : State) f t dt st rnd, let b := f.n.par 0
    s.candidate 6 = some f → bitOf b 12 = false → f.head 0 = some t → ElTy.ofCode (field b 4 4) = some dt →
    ElTy.ofCode (field b 0 4) = some st → Rnd.ofCode (field b 8 3) = some rnd → f.can [0] = true →
    exec .convFire s = .next ((((f.take 0).send 0 (tokFor 0
      (convPlace dt 64 (cvtElem dt st rnd (bitOf b 11) (t.data.toNat % 2 ^ st.width))) t.mask t.tag)).put s).fired s.site))
  ∧ (∀ (s : State) f t, s.candidate 7 = some f → bitOf (f.n.par 0) 1 = false → f.head 4 = some t → f.can [4] = true →
    exec .normFire s = .next ((((f.take 4).send 4 (vectorTok (packElems 32
      [csNorm (bitOf (f.n.par 0) 0) (csHalf t.data.toNat 0), csNorm (bitOf (f.n.par 0) 0) (csHalf t.data.toNat 1)]) 0x0003
      (orErr t.tag false))).put s).fired s.site))
  ∧ (∀ (s : State) f p a, s.candidate 8 = some f → f.st = .dsq p → f.head 4 = some a → f.n.dsqOp = 1 → f.can [4] = true →
    f.pipeUsed < 12 → exec .dsqEnter s = .next ((((f.take 4).set (.dsq (p ++ [(a, a)]))).put s).fired s.site))
  ∧ (∀ (s : State) f a b p, s.candidate 8 = some f → f.st = .dsq ((a, b) :: p) → f.can [4] = true →
    ∃ t r, exec .dsqExit s = .next t ∧ t = { s with regions := t.regions } ∧ t.region s.site.rgn = some r ∧ r.chan = f.r.chan
      ∧ ∃ k : Token, k.mask = (if f.n.dsqTwo then a.mask &&& b.mask else a.mask)
        ∧ r.flight = f.r.flight ++ (f.n.outs 0 4).map (fun e => (e.node, e.inPort, k)))

/-- R28, R30, R183 to R190, R199, R203 to R205, R237, R238, R377: tokens arrive and credits return in order; a phase ends
when every multi-phase element stands at it; a `frame` node reads or writes its slot or ends the frame; a frame opens in a
free slot and a slot of an ended frame becomes FREE; an orphaned or stalled frame, and a cause raised at a node, take a
fabric trap. So tokenArrival, creditReturn, phaseEnd, frameRead, frameWrite, frameEnd, frameOpen, frameSlotFree, frameOrphaned,
fabricStall and fabricTrapRaise complete. The model's choices and readings: log 21. -/
def Obligations.FramesTokensAndTraps : Prop :=
  (∀ (s : State) f e, s.siteNode = some f → f.r.flight.find? (atPort f.n.id s.sub f.fs) = some e →
    exec .tokenArrival s = .next (s.setRegion { f.r with
      flight := dropFirst (atPort f.n.id s.sub f.fs) f.r.flight, chan := f.r.chan ++ [e] }))
  ∧ (∀ (s : State) r, s.region s.site.rgn = some r →
    ∃ t g, exec .creditReturn s = .next t ∧ t = { s with regions := t.regions } ∧ t.region s.site.rgn = some g
      ∧ g = { r with owed := r.owed.erase (s.site.node, s.sub) })
  ∧ (∀ (s : State) r, s.region s.site.rgn = some r → r.fires = true → (r.fslot s.site.fs).st = .running →
    r.phaseEnd s.site.fs = true →
    (∀ n ∈ r.phased, ∀ e, r.ereg n.id s.site.fs = some e → e.nextPhase < n.ctxs) →
    exec .phaseEnd s = .next (s.setRegion { r with eregs := r.eregs.map (fun e =>
      match r.phased.find? (fun n => n.id == e.node) with
      | some n => if e.fs == s.site.fs then { e with phase := n.ctx0 + e.nextPhase, p := e.p &&& 0x1F } else e
      | none => e) }))
  ∧ (∀ (s u : State) f v, let out := if f.n.frameSlot < 16 then 0 else 4
    s.candidate 10 = some f → f.st = .frame false → f.n.frameOp = 0 → f.fed 8 = false → f.can [out] = true →
    s.frameGet f.view f.slot (slotOff f.n.frameSlot) (slotLen f.n.frameSlot) = .ok (u, v) →
    exec .frameRead s = .next (((((f.take 8).set (.frame true)).send out
      (tokFor out v allLanes16 (((f.head 8).map Token.tag).getD f.fresh))).put u).fired s.site))
  ∧ (∀ (s : State) f t, let port := if f.n.frameSlot < 16 then 0 else 4
    s.candidate 10 = some f → f.head port = some t → f.n.frameOp = 1 → f.can [8] = true → f.speculative t.tag = false →
    f.slot.own = true →
    exec .frameWrite s = .next ((((f.take port).send 8 (controlTok 0 t.tag)).put
      (s.put f.agent (.dram (f.slot.act.toNat + slotOff f.n.frameSlot)) (natBytes (slotLen f.n.frameSlot) t.data.toNat))).fired s.site))
  ∧ (∀ (s : State) f t, let st := t.data.toNat % 256
    s.candidate 10 = some f → f.head 0 = some t → f.n.frameOp = 2 → f.speculative t.tag = false → f.r.endWaits f.fs = false →
    (tagErr t.tag = false → finalStatus st = true →
      exec .frameEnd s = .next ((s.endFrame f.r.num f.fs (BitVec.ofNat 8 st)).fired s.site))
    ∧ (tagErr t.tag = true ∨ finalStatus st = false →
      exec .frameEnd s = .next ((s.fabTrap f.r.num f.n.id f.fs { cause := 0xB }).fired s.site)))
  ∧ (∀ (s : State) o r fs, s.openings[s.sub]? = some o → s.openAt o = some r → r.freeSlot = some fs →
    exec .frameOpen s = .next ((s.dropOpening o.id).openFrame r fs o))
  ∧ (∀ (s : State) r, let fs := s.site.fs
    s.region s.site.rgn = some r → (r.fslot fs).st = .ending → (∀ e ∈ r.chan, tagFs e.2.2.tag ≠ fs) →
    (∀ e ∈ r.flight, tagFs e.2.2.tag ≠ fs) → (∀ q ∈ r.reqs, q.fs ≠ fs) →
    ∃ g : Region, g.num = r.num ∧ g.slots = r.slots.set fs FSlot.free ∧ g.eregs = r.eregs.filter (fun e => e.fs != fs)
      ∧ g.chan = r.chan ∧ g.reqs = r.reqs
      ∧ exec .frameSlotFree s = .next (if (r.fslot fs).endWait = true
          then (s.setRegion g).frameReturn g (r.fslot fs) (r.fslot fs).endStatus else s.setRegion g))
  ∧ (∀ (s : State) r, s.region s.site.rgn = some r → r.fires = true → r.orphan s.site.fs = true →
    exec .frameOrphaned s
      = .next (s.fabTrap r.num ((r.nodes.head?.map NodeRec.id).getD 0) s.site.fs { cause := 0xF }))
  ∧ (∀ (s : State) r t n, let f := r.fslot s.site.fs
    s.region s.site.rgn = some r → f.stallFrom = some t → r.holder s.site.fs = some n → r.fires = true → f.st = .running →
    t + f.limit ≤ s.cycle → r.awaits s.site.fs = false →
    exec .fabricStall s = .next (s.fabTrap r.num n s.site.fs { cause := 5 }))
  ∧ (∀ (s : State) f c va, s.siteNode = some f → f.slot.st = .running → 1 ≤ c → c ≤ 15 →
    exec (.fabricTrapRaise c va) s = .next (s.fabTrap s.site.rgn s.site.node s.site.fs { cause := c, va := va }))
  ∧ (∀ (s : State) r node fs i, s.region r.num = some r → r.st = .running → i.cause = 1 → bitW (s.die r.die).ftsvc 63 = true →
    i.status = none → r.trap.any FTrap.delivered = false →
    ∃ g, (s.fabTrap r.num node fs i).region r.num = some g ∧ g.st = .frozen ∧ g.trap.isSome = true
      ∧ g.boundary = some (r.boundary.getD (fs, i.wave, i.ord))
      ∧ r.num ∈ ((s.fabTrap r.num node fs i).die r.die).ftPending)

/-- R239 to R244: an `ingress` node takes its full control word and sends its slot; an `egress` node fills its empty one
behind its slot; a `sink` consumes; an `mxport` node queues a command and sends its completion; an `acc` node updates its
entries; a wait at a ring ends the frame with TIMEOUT. So ingressTake, egressWrite, egressEndOfStream, ringWaitExpiry,
sinkConsume, mxportFire, mxportCompletion and accUpdate complete. The model's choices and readings: log 44. -/
def Obligations.NodesThatMeetTheOutside : Prop :=
  (∀ (s : State) f i sn pa, s.candidate 11 = some f → f.st = .ring i false sn → f.can [0, 4, 8] = true →
    s.ctlWord f.view .load (f.ringCtl i) = .ok pa → s.mem.isFull pa = true →
    s.mem.read pa 8 = 1 →
    exec .ingressTake s = .next ((((f.send 8 (controlTok 0 f.fresh)).set (.ring ((i + 1) % f.n.ringSlots) true none)).put
      (s.setPresence pa false)).fired s.site))
  ∧ (∀ (s : State) f i sn pa u bs, let w := s.mem.read pa 8
    s.candidate 11 = some f → f.st = .ring i false sn → f.can [0, 4, 8] = true →
    s.ctlWord f.view .load (f.ringCtl i) = .ok pa → s.mem.isFull pa = true →
    w % 256 = 0 → (f.ringData i).toNat % 64 = 0 → (s.setPresence pa false).engBytes f.view (f.ringData i) 64 = .ok (u, bs) →
    exec .ingressTake s = .next ((((f.send (if f.n.ringVec then 4 else 0) (ringToken f.n.ringVec w (bytesNat bs) f.fs)).set
      (.ring ((i + 1) % f.n.ringSlots) false none)).put u).fired s.site))
  ∧ (∀ (s : State) f i sn pa, s.candidate 11 = some f → f.st = .ring i false sn → f.can [0, 4, 8] = true →
    s.ctlWord f.view .load (f.ringCtl i) = .ok pa → s.mem.isFull pa = true → s.mem.read pa 8 % 256 = 0 →
    (f.ringData i).toNat % 64 ≠ 0 →
    exec .ingressTake s = .next ((s.nodeFault f AK.load.misalignedCause (f.ringData i)).fired s.site))
  ∧ (∀ (s u : State) f i st sn t pa, let port := if f.n.ringVec then 4 else 0
    s.candidate 12 = some f → f.st = .ring i st sn → f.head port = some t → f.speculative t.tag = false →
    s.ctlWord f.view .store (f.ringCtl i) = .ok pa → s.mem.isFull pa = false → f.sending = none → (f.ringData i).toNat % 64 = 0 →
    s.engPut f.view f.agent (f.ringData i) (natBytes 64 (if f.n.ringVec then t.data.toNat else t.data.toNat % 2 ^ 64)) = (u, none) →
    (s.newWrites u ≠ [] → exec .egressWrite s = .next (((f.sent s u).put u).fired s.site))
    ∧ (s.newWrites u = [] → exec .egressWrite s = .next ((((f.take port).set (.ring ((i + 1) % f.n.ringSlots) st none)).put
      (((u.releaseFrame f.slot.id .die (f.r.clusterOf f.n * 8)).putNat f.agent (.dram pa) 8
        (ctlTagBits t.tag + t.mask.toNat * 2 ^ 8)).setPresence pa true)).fired s.site)))
  ∧ (∀ (s : State) f i st sn t pa, s.candidate 12 = some f → f.st = .ring i st sn → f.head (if f.n.ringVec then 4 else 0) = none →
    f.head 8 = some t → f.speculative t.tag = false → s.ctlWord f.view .store (f.ringCtl i) = .ok pa → s.mem.isFull pa = false →
    f.sending = none → exec .egressEndOfStream s = .next ((((f.take 8).set (.ring ((i + 1) % f.n.ringSlots) st none)).put
      (((s.releaseFrame f.slot.id .die (f.r.clusterOf f.n * 8)).putNat f.agent (.dram pa) 8 1).setPresence pa true)).fired s.site))
  ∧ (∀ (s : State) f i st since, s.siteNode = some f → f.st = .ring i st (some since) → (f.n.kind = 11 ∨ f.n.kind = 12) →
    f.r.fires = true → f.slot.st = .running → since + f.n.ringLimit ≤ s.cycle →
    exec .ringWaitExpiry s = .next (s.endFrame f.r.num f.fs Status.timeout.byte))
  ∧ (∀ (s : State) f last p t, s.candidate 13 = some f → f.st = .sink last → f.n.par 0 = 0 →
    ((List.range 10).map (fun k => (last + 1 + k) % 10)).find? (fun p => (f.head p).isSome) = some p → f.head p = some t →
    tagErr t.tag = false → (f.speculative t.tag = false ∨ bitOf (f.n.par 1) 8 = false) → f.sending = none →
    exec .sinkConsume s = .next ((((f.take p).set (.sink p)).put s).fired s.site))
  ∧ (∀ (s u : State) f t bs, let form := mxFormOf (f.n.par 0 % 4)
    s.candidate 14 = some f → f.head 0 = some t → bitOf (f.n.par 0) 2 = false → bitOf (f.n.par 0) 3 = false →
    f.speculative t.tag = false → f.can [0] = true → s.portCount (f.r.clusterOf f.n) < 2 → tagErr t.tag = false →
    t.data.toNat < 2 ^ 64 → t.data.toNat % 64 = 0 → s.engBytes f.view (BitVec.ofNat 64 t.data.toNat) 64 = .ok (u, bs) →
    mxBlockOk form (bytesNat bs) s.pkg.toNat (.port (f.r.clusterOf f.n)) (BitVec.ofNat 64 (f.n.par 1)) (BitVec.ofNat 64 (f.n.par 2))
      (BitVec.ofNat 64 (f.n.par 3)) = true →
    exec .mxportFire s = .next (((((f.take 0).addReq (f.mxReq t.tag none)).put u).modClu (f.r.clusterOf f.n)
      (fun k => { k with portQ := k.portQ ++ [{ form := form, blk := BitVec.ofNat 512 (bytesNat bs), fmt := BitVec.ofNat 64 (f.n.par 1), scale := BitVec.ofNat 64 (f.n.par 2), zero := BitVec.ofNat 64 (f.n.par 3), who := .port f.r.num f.n.id f.fs t.tag, limit := 2 ^ 24, rights := f.slot.rights }] })).fired s.site))
  ∧ (∀ (s : State) f q, s.siteNode = some f →
    f.r.reqs.find? (fun q => q.node == f.n.id && q.op == opMxport) = some q → f.r.interfaceOn = true →
    q.st = .performed → q.fs = f.fs → f.slot.st = .running →
    exec .mxportCompletion s = .next (s.setRegion (({ f.r with
      reqs := dropFirst (fun q => q.node == f.n.id && q.op == opMxport) f.r.reqs } : Region).send f.n 0 0
        (scalarTok q.val.toNat q.tag))))
  ∧ (∀ (s u : State) f t y, let a := f.slot.based (f.n.par 0) (field (f.n.par 1) 24 8)
    let k := t.data.toNat % 2 ^ 64
    s.candidate 15 = some f → f.n.accVec = false → f.n.accOp = 6 → f.head 0 = some t → f.speculative t.tag = false →
    f.can [0, 1, 4] = true → tagErr t.tag = false → k < f.n.accT →
    s.firstFault f.view .amo f.n.accW [a + BitVec.ofNat 64 (f.n.accW * k)] = none →
    (∀ v, s.accumulate f a [(0, k, v)] = .ok (u, [(0, y)])) →
    exec .accUpdate s = .next ((((f.take 0).send 0 (tokFor 0 y 1 t.tag)).put u).fired s.site))

/-- R106, R113, R114, R116, R120 to R123, R205, R247, R398, R401: the Imposer checks and places the oldest entry that it has not
seen and whose start tick has come, in a region LOADING for the cycles of its load, over idle regions and off busy ones; an
entry that no folding could ever fit, that fails its checks, or a launch whose rights lack GraphCfg, is REFUSED; a load that is
complete runs; corrected errors are counted in the region's counter of its die; an uncorrectable error freezes a region and
reloads it, and a second one in succession or a wrong signature ends its frames with cause 8. So configPlace, configRetry, regionLoad, scrub,
uncorrectableError and configReload complete. The model's choices and readings: log 23, 37, 40. -/
def Obligations.ImposerSteps : Prop :=
  let seen (s : State) (q : Queued) : State :=
    { s with queued := s.queued.map (fun x => if x.who == q.who then { x with tried := true } else x) }
  let first (s : State) (q : Queued) : Prop := s.queued.find? (fun x => !x.tried && s.timely x) = some q
  let granted (s : State) (q : Queued) : Prop :=
    q.who.launches = false ∨ s.mayUse (placeDie q.place) q.desc.toNat q.rights = true
  (∀ (s : State) q c (f : Nat × Folding × Nat), first s q → granted s q → s.wantsRegion q = true →
    s.checkConfig (placeDie q.place) q.code.toNat q.desc.toNat q.rights q.race = some c → s.findPlace c q.place = some f → c.clash = [] →
    ∃ t r, exec .configPlace s = .next t
      ∧ t = { s with queued := (seen s q).queued, regions := t.regions, dies := t.dies }
      ∧ t.regions = s.regions.filter (fun x => x.rect &&& rectBits f.2.2 f.2.1.rows f.2.1.cols == 0) ++ [r]
      ∧ r.st = .loading ∧ r.reloads = 0 ∧ r.num = f.2.2 ∧ r.rows = f.2.1.rows ∧ r.cols = f.2.1.cols ∧ r.fold = f.1
      ∧ r.desc = q.desc ∧ r.hash = q.hash ∧ r.rights = q.rights ∧ r.place = q.place ∧ r.loadEnd = s.cycle + loadCycles r.nodes
      ∧ r.sig = signature r.nodes ∧ r.live = [] ∧ rectBits f.2.2 f.2.1.rows f.2.1.cols &&& s.busy = 0)
  ∧ (∀ (s : State) q, first s q → q.who.launches = true → s.mayUse (placeDie q.place) q.desc.toNat q.rights = false →
    exec .configPlace s = .next (s.refuse q .refused true))
  ∧ (∀ (s : State) q, first s q → granted s q → s.wantsRegion q = false → exec .configPlace s = .next (seen s q))
  ∧ (∀ (s : State) p x l, (s.port p).buf = x :: l → s.tick.toNat < x.block.tick.toNat → ∀ q, q.who = .stream p → s.timely q = false)
  ∧ (∀ (s : State) q, first s q → granted s q → s.wantsRegion q = true →
    s.checkConfig (placeDie q.place) q.code.toNat q.desc.toNat q.rights q.race = none → exec .configPlace s = .next (s.refuse q .refused))
  ∧ (∀ (s : State) q c, first s q → granted s q → s.wantsRegion q = true →
    s.checkConfig (placeDie q.place) q.code.toNat q.desc.toNat q.rights q.race = some c → s.findPlace c q.place = none →
    exec .configPlace s = .next (if c.everFits q.place then seen s q else s.refuse q .refused))
  ∧ (∀ (s : State) q l c f, s.queueOrder = q :: l → s.timely q = true → s.wantsRegion q = true →
    s.checkConfig (placeDie q.place) q.code.toNat q.desc.toNat q.rights q.race = some c → s.findPlace c q.place = some f →
    exec .configRetry s = .next (s.load1 q c f))
  ∧ (∀ s : State, (∀ q ∈ s.queueOrder, s.wantsRegion q = false ∨ s.timely q = false) → exec .configRetry s = .next s)
  ∧ (∀ (s : State) r, s.region s.site.rgn = some r → r.st = .loading → r.reloads = 0 →
    exec .regionLoad s = .next (if r.loadEnd ≤ s.cycle then s.setRegion { r with st := .running } else s))
  ∧ (∀ (s : State) r n, s.region s.site.rgn = some r → r.st = .running ∨ r.st = .frozen →
    ((s.die r.die).correctedOf r.num).toNat + n < 2 ^ 32 →
    ∃ t, exec (.scrub n) s = .next t ∧ t = { s with dies := t.dies }
      ∧ t.die r.die = { s.die r.die with corrected := (t.die r.die).corrected }
      ∧ (t.die r.die).correctedOf r.num = (s.die r.die).correctedOf r.num + BitVec.ofNat 32 n
      ∧ (∀ k, k ≠ r.num → (t.die r.die).correctedOf k = (s.die r.die).correctedOf k)
      ∧ ∀ k, k ≠ r.die → t.die k = s.die k)
  ∧ (∀ (s : State) r, s.region s.site.rgn = some r → r.st = .running ∨ r.st = .frozen →
    ∃ t, exec .uncorrectableError s = .next t ∧ t = { s with regions := t.regions }
      ∧ t.region s.site.rgn
        = some { r with st := .loading, before := r.st, reloads := 1, loadEnd := s.cycle + loadCycles r.nodes }
      ∧ ∀ k, k ≠ s.site.rgn → t.region k = s.region k)
  ∧ (∀ (s : State) r ns, s.region s.site.rgn = some r → r.st = .loading → r.reloads ≠ 0 → r.loadEnd ≤ s.cycle →
    (r.reloads < 2 → exec (.configReload true) s
      = .next (s.setRegion { r with reloads := r.reloads + 1, loadEnd := s.cycle + loadCycles r.nodes }))
    ∧ (s.reread r = some ns → signature ns = r.sig → ∃ t, exec (.configReload false) s = .next t
      ∧ t = { s with regions := t.regions } ∧ t.region s.site.rgn = some { r with st := r.before, reloads := 0 })
    ∧ ((s.reread r = some ns ∧ signature ns ≠ r.sig ∧ r.live = []) → ∃ t, exec (.configReload false) s = .next t
      ∧ t = { s with regions := t.regions } ∧ t.region s.site.rgn = some { r with st := .running, reloads := 0, boundary := none }))

/-- R87 to R95, R422, R423: the host port answers each request by its rule, in RUNNING only, and on a queue pair in error it
answers no request: connections, a NAK that puts a queue pair in error, congestion and pause, the tick, access through keys,
streams buffered whole or refused whole, and completion records sent as the host posts receives; a packet of a paused
priority is kept back; queue pair 2 is Colophon's: it is kept for it, and takes no access through a key and no stream. So
cmMad, unsupportedRequest, ecnMarkedPacket, pfcPause, ptpMessage, rdmaWrite, rdmaRead, streamWrite,
streamResume and completionRecord complete. The model's choices and readings: log 22, 27, 28, 46. -/
def Obligations.HostPortSteps : Prop :=
  (∀ s : State, s.col.power ≠ .running → (∀ qp m, exec (.cmMad qp m) s = .next s) ∧ (∀ p on, exec (.pfcPause p on) s = .next s)
    ∧ exec .ptpMessage s = .next s ∧ (∀ p, exec (.streamResume p) s = .next s) ∧ ∀ qp, s.qpUp qp = false)
  ∧ (∀ (s : State) qp, (s.qp qp).error = true ∨ (s.qp qp).connected = false → s.qpUp qp = false)
  ∧ (∀ (s : State) qp, s.qpUp qp = false → (∀ r, exec (.unsupportedRequest qp r) s = .next s) ∧ exec (.ecnMarkedPacket qp) s = .next s
    ∧ (∀ k a d, exec (.rdmaWrite qp k a d) s = .next s) ∧ (∀ k a n, exec (.rdmaRead qp k a n) s = .next s)
    ∧ (∀ a d, exec (.streamWrite qp a d) s = .next s))
  ∧ (∀ (s : State) qp o, s.transmit qp o = if priorityOf qp ∈ s.paused then { s with txWait := s.txWait ++ [(priorityOf qp, o)] }
      else { s with outs := s.outs ++ [o] })
  ∧ (∀ s qp, s.col.power = .running → rcNumber qp = true →
    let used := s.qps.countP (fun q => q.1 != qp && q.1 != mgmtQp && (q.2.connected || q.2.asked))
    (used < 1023 ∨ qp = 2 → ∃ u : State,
      exec (.cmMad qp .req) s = .next (u.transmit 1 (.mad qp .rep)) ∧ u = { s with qps := u.qps }
      ∧ u.qp qp = { s.qp qp with asked := true } ∧ ∀ k, k ≠ qp → u.qp k = s.qp k)
    ∧ (1023 ≤ used → qp ≠ 2 →
      exec (.cmMad qp .req) s = .next (s.transmit 1 (.mad qp .rej)))
    ∧ ((s.qp qp).asked = true → ∃ t, exec (.cmMad qp .rtu) s = .next t ∧ t = { s with qps := t.qps }
      ∧ t.qp qp = { s.qp qp with asked := false, connected := true, error := false } ∧ ∀ k, k ≠ qp → t.qp k = s.qp k)
    ∧ (∃ u : State, exec (.cmMad qp .dreq) s = .next (u.transmit 1 (.mad qp .drep)) ∧ u = { s with qps := u.qps }
      ∧ u.qp qp = { s.qp qp with asked := false, connected := false, error := false } ∧ ∀ k, k ≠ qp → u.qp k = s.qp k))
  ∧ (∀ s qp r, s.qpUp qp = true → ∃ u : State, exec (.unsupportedRequest qp r) s = .next (u.transmit qp (.nakInvalid qp))
      ∧ u = { s with qps := u.qps } ∧ u.qp qp = { s.qp qp with error := true } ∧ ∀ k, k ≠ qp → u.qp k = s.qp k)
  ∧ (∀ s qp, s.qpUp qp = true → exec (.ecnMarkedPacket qp) s = .next (s.transmit qp (.cnp qp)))
  ∧ (∀ (s : State) p on, s.col.power = .running → p < 8 → ∃ t, exec (.pfcPause p on) s = .next t
      ∧ t = { s with paused := t.paused, txWait := t.txWait, outs := t.outs }
      ∧ (∀ k, k ∈ t.paused ↔ if k = p then on = true else k ∈ s.paused)
      ∧ (on = true → t.txWait = s.txWait ∧ t.outs = s.outs)
      ∧ (on = false → t.txWait = s.txWait.filter (fun w => w.1 != p)
          ∧ t.outs = s.outs ++ (s.txWait.filter (fun w => w.1 == p)).map Prod.snd))
  ∧ (∀ s : State, s.col.power = .running → exec .ptpMessage s = .next { s with outs := s.outs ++ [.ptp s.tick] })
  ∧ (∀ s : State, s.qpUp 2 = true → (∀ k a d, k ≠ 0 → exec (.rdmaWrite 2 k a d) s = .next (s.badRequest 2))
    ∧ (∀ k a n, exec (.rdmaRead 2 k a n) s = .next (s.badRequest 2))
    ∧ (∀ a d, exec (.streamWrite 2 a d) s = .next (s.badRequest 2)))
  ∧ (∀ (s : State) qp k a d, s.qpUp qp = true → qp ≠ 2 → k ≠ 0 →
    (s.keyFor qp k .store a d.length = none → exec (.rdmaWrite qp k a d) s = .next (s.transmit qp (.nakAccess qp)))
    ∧ (∀ x, s.keyFor qp k .store a d.length = some x →
      exec (.rdmaWrite qp k a d) s = .next ((s.keyPut qp x a d).1.transmit qp (.ack qp))))
  ∧ (∀ (s : State) qp k a n, s.qpUp qp = true → qp ≠ 2 →
    (s.keyFor qp k .load a n = none → exec (.rdmaRead qp k a n) s = .next (s.transmit qp (.nakAccess qp)))
    ∧ (∀ x, s.keyFor qp k .load a n = some x →
      exec (.rdmaRead qp k a n) s = .next (s.transmit qp (.readResponse qp (s.keyGet x a n)))))
  ∧ (∀ (s : State) qp a d, let p := (s.qp qp).port.val
    let need := (s.port p).tokens + 2 + (streamOf qp d s.tick).args.length
    s.qpUp qp = true → qp ≠ 2 →
    (a ≠ 0 ∨ wholeStream d = false → exec (.streamWrite qp a d) s = .next (s.transmit qp (.nakInvalid qp)))
    ∧ (a = 0 → wholeStream d = true → 64 ≤ (s.qp qp).held.length ∨ 1024 < need →
      exec (.streamWrite qp a d) s = .next (s.transmit qp (.nakRnr qp)))
    ∧ (a = 0 → wholeStream d = true → (s.qp qp).held.length < 64 → need ≤ 1024 →
      ∃ u : State, exec (.streamWrite qp a d) s
          = .next (if (s.port p).buf = [] then (u.transmit qp (.ack qp)).portHead p else u.transmit qp (.ack qp))
        ∧ u = { s.releaseHost qp with ports := u.ports }
        ∧ u.port p = { s.port p with buf := (s.port p).buf ++ [streamOf qp d s.tick] } ∧ ∀ k, k ≠ p → u.port k = s.port k))
  ∧ (∀ (s : State) p x l, s.col.power = .running → p < 64 → (s.port p).buf = x :: l → x.checked = false →
    let ends (st : Status) : Prop := s.recordRoom x.qp = true → ∃ t, exec (.streamResume p) s = .next t
        ∧ t = { s with ports := t.ports, qps := t.qps, queued := s.queued.filter (fun q => q.who != .stream p) }
        ∧ t.port p = { s.port p with buf := l }
        ∧ t.qp x.qp = (s.qp x.qp).record ⟨x.hostTag, st.byte, 0xFFFFFF, 0, s.tick, x.hash⟩
    (s.dirFind (placeDie x.block.place) x.hash = none → ends .refused)
    ∧ (∀ code, s.dirFind (placeDie x.block.place) x.hash = some code → code < 2 ^ 56 → s.dirBad (placeDie x.block.place) = false →
      (x.block.ok13 (s.port p).limit = false → ends .range)
      ∧ (x.block.ok13 (s.port p).limit = true → ptrE x.block.entry = true →
        s.residentCfg (ptrAddr x.block.entry) x.hash = false → s.queued.any (fun q => q.who == .stream p) = false →
        ∃ q, exec (.streamResume p) s = .next { s with queued := s.queued ++ [q] } ∧ q.who = .stream p
          ∧ q.desc = ptrAddr x.block.entry ∧ q.hash = x.hash ∧ q.place = x.block.place ∧ q.tried = false)
      ∧ (∀ c pf, x.block.ok13 (s.port p).limit = true → ptrE x.block.entry = false →
        s.codeObj (placeDie x.block.place) code = some c →
        s.ok45 (placeDie x.block.place) c x.block = some pf → s.check67 x.block = none →
        s.queued = [] → exec (.streamResume p) s
          = .next ((s.modPort p (fun y => { y with buf := { x with checked := true } :: l })).submit
              (.stream x.qp p x.hostTag x.hash) ⟨x.block, BitVec.ofNat 64 code, x.hash, pf⟩ (s.port p).rights))))
  ∧ (∀ (s : State) r l, s.qpUp s.cur = true → (s.qp s.cur).held = r :: l → (s.qp s.cur).receives + s.sub ≠ 0 →
    ∃ u : State, exec .completionRecord s = .next (u.transmit s.cur (.send s.cur r.bytes)) ∧ u = { s with qps := u.qps }
      ∧ u.qp s.cur = { s.qp s.cur with held := l, receives := (s.qp s.cur).receives + s.sub - 1 }
      ∧ ∀ k, k ≠ s.cur → u.qp k = s.qp k)

/-- R421 to R428: Colophon's commands, its power states, its images, and what the pod does to a package. The contents of
memory after compute is reset, a sensor's reading, a log page and a signature are the model's free values; that LOAD_IMAGE
from RUNNING and RESET give compute the state of reset but for what Colophon, the pod and the clocks hold is its reading. An image
that verifies is written once what flash held has been erased, in a turn of its own. So
standbyRailOn, standbyRailLost, selftestComplete, thermalTrip, firmwareVerify, loadImage, reset, getStatus, readLog,
getIdentity, attest, setPowerCap, thermalThrottle, podNumberAssign, linkFlitReplay, linkDown and tickSync complete. The
model's choices and readings: log 20, 30, 41, 47. -/
def Obligations.ColophonSteps : Prop :=
  (∀ s : State, (s.col.power = .off → exec .standbyRailOn s = .next { s with col := { s.col with power := .standby } })
    ∧ exec .standbyRailLost s = .next { s.resetCompute with col := { s.col with power := .off, loading := none, wasRunning := false } }
    ∧ (∀ ok, s.col.power = .selftest → exec (.selftestComplete ok) s
        = .next { s with col := { s.col with power := if ok then .running else .bisque } })
    ∧ (s.col.power = .running → exec .thermalTrip s = .next (s.resetCompute.setPower .bisque)))
  ∧ (∀ s : State, (s.resetCompute).slots = [] ∧ s.resetCompute.regions = [] ∧ s.resetCompute.jobs = [] ∧ s.resetCompute.qps = []
    ∧ s.resetCompute.tick = s.tick ∧ s.resetCompute.pkg = s.pkg ∧ s.resetCompute.col = s.col)
  ∧ (∀ (s : State) p i, s.col.loading = some (p, i) →
    let ok := fwVerified s.col.fuseMin i
    ∃ t, exec .firmwareVerify s = .next t
      ∧ (ok = true → s.col.flash ≠ [] → t = { s with col := { s.col with flash := [] } })
      ∧ (ok = false ∨ s.col.flash = [] →
        t = { s with col := t.col, outs := s.outs ++ [.mgmt p (if ok then 0 else Status.refused.byte) []] }
        ∧ t.col = { s.col with loading := none, wasRunning := false, flash := t.col.flash, fuseMin := t.col.fuseMin, power := t.col.power }
        ∧ (ok = true → t.col.flash = i ∧ t.col.fuseMin = max s.col.fuseMin (fwVersion i))
        ∧ (ok = false → t.col.flash = s.col.flash ∧ t.col.fuseMin = s.col.fuseMin)
        ∧ t.col.power = (if s.col.wasRunning then .selftest else if ok then .standby else s.col.power)))
  ∧ (∀ s : State, s.col.loading = none → s.col.power = .standby → exec .firmwareVerify s
      = .next { s with col := { s.col with power := if fwVerified s.col.fuseMin s.col.flash then .selftest else .bisque } })
  ∧ (∀ n i, fwVerified n i = true ↔ bytesAt i 0 8 = 0x534B465700000001 ∧ (∀ b ∈ (i.drop 0x1263).take 29, b = 0)
      ∧ i.length = 0x1280 + bytesAt i 8 4 ∧ (i.drop 0x10).take 64 = sha3 ((i.drop 0x1280).take (bytesAt i 8 4)) ∧ n ≤ bytesAt i 0xC 4
      ∧ mlVerify (natBytes 2592 Config.firmwareKey.toNat) (i.take 0x50) ((i.drop 0x50).take 4627) = true)
  ∧ (∀ (s : State) p, s.col.power = .off ∨ (p = .mainPort ∧ s.qpUp 2 = false) →
    (∀ i, exec (.loadImage p i) s = .next s) ∧ exec (.reset p) s = .next s ∧ exec (.getStatus p) s = .next s
      ∧ (∀ n, exec (.readLog p n) s = .next s) ∧ exec (.getIdentity p) s = .next s ∧ (∀ n, exec (.attest p n) s = .next s)
      ∧ ∀ w, exec (.setPowerCap p w) s = .next s)
  ∧ (∀ (s : State) p, s.col.power ≠ .off → (p = .mainPort → s.qpUp 2 = true) →
    (∀ i, p ≠ .mainPort → s.col.power = .standby ∨ s.col.power = .bisque → s.col.loading = none →
      exec (.loadImage p i) s = .next { s with col := { s.col with loading := some (p, i), wasRunning := false } })
    ∧ (∀ i, p ≠ .mainPort → s.col.power = .running → s.col.loading = none →
      exec (.loadImage p i) s = .next { s.resetCompute with
        col := { s.col with power := .standby, loading := some (p, i), wasRunning := true } })
    ∧ (∀ i, p = .mainPort ∨ s.col.power = .selftest →
      exec (.loadImage p i) s = .next { s with outs := s.outs ++ [.mgmt p Status.refused.byte []] })
    ∧ (s.col.power = .running → s.col.loading = none → exec (.reset p) s = .next { s.resetCompute with
        col := { s.col with power := .selftest }, outs := s.outs ++ [.mgmt p 0 []] })
    ∧ (s.col.power = .standby ∨ s.col.power = .bisque → s.col.loading = none → exec (.reset p) s = .next { s.resetCompute with
        col := { s.col with power := .standby }, outs := s.outs ++ [.mgmt p 0 []] })
    ∧ (s.col.power = .selftest → exec (.reset p) s = .next { s with outs := s.outs ++ [.mgmt p Status.refused.byte []] })
    ∧ (∃ d, exec (.getStatus p) s = .next { s with fresh := s.fresh + 1, outs := s.outs ++ [.mgmt p 0 d] })
    ∧ (∀ n, ∃ d, d.length = 4096 ∧ exec (.readLog p n) s = .next { s with fresh := s.fresh + 1, outs := s.outs ++ [.mgmt p 0 d] })
    ∧ (∃ d, exec (.getIdentity p) s = .next { s with outs := s.outs ++ [.mgmt p 0 d] })
    ∧ (∀ n, ∃ d, exec (.attest p n) s = .next { s with fresh := s.fresh + 4, outs := s.outs ++ [.mgmt p 0 d] } ∧ bytesAt d 0 32 = n.toNat)
    ∧ (∀ w, s.col.power = .running → s.col.loading = none → exec (.setPowerCap p w) s
      = .next (if 1200 ≤ w ∧ w ≤ 2500
          then { s with col := { s.col with capWatts := w }, outs := s.outs ++ [.mgmt p 0 []] }
          else { s with outs := s.outs ++ [.mgmt p Status.range.byte []] })))
  ∧ (∀ (s : State) k n, s.col.power = .running → k < 128 → ∃ t, exec (.thermalThrottle k n) s = .next t
      ∧ t = { s with clus := t.clus } ∧ (t.clu k).throttle = n ∧ ∀ j, j ≠ k → t.clu j = s.clu j)
  ∧ (∀ (s : State) n, s.col.power = .standby ∨ s.col.power = .selftest ∨ s.col.power = .bisque →
      exec (.podNumberAssign n) s = .next { s with pkg := n })
  ∧ (∀ (s : State) l, l < 12 → l ∉ s.linksDown →
      exec (.linkFlitReplay l) s = .next (if s.col.power = .running then { s with outs := s.outs ++ [.replay l] } else s)
      ∧ exec (.linkDown l) s = .next { s with linksDown := s.linksDown ++ [l] })
  ∧ (∀ (s : State) v, s.col.power = .selftest ∨ (s.linked = true ∧ v.toNat ≤ s.tick.toNat + 4 ∧ s.tick.toNat ≤ v.toNat + 4) →
      exec (.tickSync v) s = .next { s with tick := v })
  ∧ (∀ (s : State) v, s.col.power ≠ .selftest → s.linked = false → exec (.tickSync v) s = .next s)

/-- R98, R100, R109, R273, R313, R371, R376: what reset leaves where the manual gives a value: a slot's launch limit, rights
table, quantum, next save area, switch cost and context counter, a die's forwarding table, the arbiter of a matrix unit,
a port's limit and rights table, every dependence entry FREE, and no region that holds a configuration. -/
def Obligations.ResetValues : Prop :=
  (∀ loc, let t := State.reset.slot loc
    t.sc.lnchlim = 0x3FF ∧ t.sc.pdrights = 0 ∧ t.sc.quantum = 0 ∧ t.sc.thnext = 0 ∧ t.sc.swcost = 4000 ∧ t.ctxCounter = 0)
  ∧ (∀ d, (State.reset.die d).fwdtab = 0)
  ∧ (∀ c, let m := State.reset.clu c
    m.mxwt = 0x111111111 ∧ m.ptr = 8 ∧ m.credit = 0)
  ∧ (∀ p, (State.reset.port p).limit = 0x3FF ∧ (State.reset.port p).rights = 0)
  ∧ (∀ d i, (State.reset.dep d i).st = .free)
  ∧ (∀ n, State.reset.region n = none)

/-- Memory has its canonical form at reset, and with an instruction placed where the next step fetches it. The model's
choices and readings: log 6, 10. -/
def Obligations.ResetMemoryIsCanonical : Prop :=
  MemoryInv State.reset ∧ ∀ n w, MemoryInv (State.reset.withFetchWord n w)

/-- R58, R61 to R68, R73: words written out field by field from the manual's encodings decode to what they stand for, and a
word that is undefined (R69) decodes to nothing. -/
def Obligations.SpecWordsDecode : Prop :=
  decodeTableWord 32 (0b0000010#7 ++ 0b11011#5 ++ 0b00101#5 ++ 0b001#3 ++ 0b00110#5 ++ 0b0001011#7).toNat = some (.tagp 6 5 0x1B)
  ∧ decodeTableWord 32 (0b0001011#7 ++ 0b00000#5 ++ 0b00111#5 ++ 0b001#3 ++ 0b00000#5 ++ 0b0001011#7).toNat = some (.prio 7)
  ∧ decodeTableWord 32 (0b0000001#7 ++ 0b00000#5 ++ 0b01010#5 ++ 0b001#3 ++ 0b01011#5 ++ 0b0101011#7).toNat
      = some (.glaunch 11 10)
  ∧ decodeTableWord 32 (0b000000000000#12 ++ 0b00000#5 ++ 0b001#3 ++ 0b00000#5 ++ 0b0001111#7).toNat = some .fenceI
  ∧ decodeTableWord 64 (0#4 ++ 0#3 ++ 0b011#3 ++ 0#8 ++ 0b00000010#8 ++ 0b00000001#8 ++ 0b00000011#8 ++ 0b0100#4 ++ 0#3
      ++ 0x01#8 ++ 0b0111111#7).toNat = some (.vadd ⟨.i32, false, .rne, 3, .v 3, .v 1, .op (.v 2), none⟩)
  ∧ decodeTableWord 64 (0#4 ++ 0#3 ++ 0#3 ++ 0b01000011#8 ++ 0b01000010#8 ++ 0b01000001#8 ++ 0b01000100#8 ++ 0#4 ++ 0b101#3
      ++ 0x62#8 ++ 0b0111111#7).toNat = none
  ∧ decodeTableWord 128 (0#1 ++ 0x05#7 ++ 0x03#8 ++ 0x01#8 ++ 0b11#10 ++ 0#4 ++ 0b11#10 ++ 0#6 ++ 1#6 ++ 0#6 ++ 0b1#10 ++ 0#4
      ++ 0#8 ++ 0#8 ++ 0#4 ++ 0#4 ++ 0#8 ++ 0#16).toNat
      = some (.elAdd { vec := false, care := 3, value := 1, req := 3, test := 0, deq := 3, a := 0, b := 1, c := 0, out := 1, rd := 0,
                       pset := 0, pclr := 0, pfr := 0, mod := 0, tact := 0, imm := 0 })
  ∧ decodeTableWord 32 0 = none

/-- R58, R69, R126, R130, R185, R220, R246: a step takes the turn at the head of its agenda, where that turn need not wait for the
next cycle. A step in which a thread issues executes, in the thread that its core has chosen, the instruction that its bytes decode
to: a declared one itself, an undefined or undeclared one through the emulation handler, a faulting fetch through its trap at
the first parcel; a step that polls a wait executes the instruction in progress; a fetch that misses the instruction cache
reads the bytes at the place of its address. A step whose turn is an element's executes, at the first candidate of its rotation that
fires, the word in the lowest eligible slot of an element node, or a step of a special node that changes something there; a step
whose turn is an event executes that event at its agent. Around exec a step adds what concerns other packages: it forgets the
answers that exec has used, it sends the request whose answer exec lacked in the place of exec's state (`farStep`, `sendAsk`), and
links that are down deliver nothing (`delivered`). The model's choices and readings: log 5, 8, 34. -/
def Obligations.StepRunsTheDecodedInstruction : Prop :=
  let fires (p : State) (f : Fire) (wish : List Instr) : Option (Site × Instr) :=
    (f.r.rotation f.n.elem).findSome? (fun q =>
      if q.1.kind = 0 then p.eligible ⟨f.r.num, q.1.id, q.2⟩
      else p.nodeStep ⟨f.r.num, q.1.id, q.2⟩ (if (⟨f.r.num, q.1.id, q.2⟩ : Site) = p.site then wish else []))
  (∀ (s p u : State) loc l, (∃ ts, s.agenda = .issue loc :: ts ∧ s.mustPass (.issue loc) = false ∧ p = { s with agenda := ts }
      ∧ p.polls loc = false ∧ p.issuer (coreOf loc) = some l) ∨ (s.agenda = [] ∧ s.owed = some l ∧ p = s) →
    u = p.counted l → u.dueHere l = none → (u.slot l).gang = none → (u.issuing l).1.miss = none → u.fetching l = false →
    ∀ v t, v = u.farStep (u.issuing l).1 → exec (u.issuing l).2 v = .next t →
      (t.miss = none → step s = .next (p.delivered (v.farStep t)))
      ∧ (∀ a, t.miss = some a → step s = .next (p.delivered ((v.sendAsk a).awaitAnswer [l]))))
  ∧ (∀ (s : State) loc ts i, s.agenda = .issue loc :: ts → s.mustPass (.issue loc) = false →
    let p := ({ s with agenda := ts } : State).note (.issue loc)
    p.polls loc = true → p.dueHere loc = none → (p.slot loc).gang = none → (p.slot loc).current = some i → s.miss = none →
    (∀ a ∈ s.asks, a.used = false) → ∀ v t, v = ({ p with cur := loc } : State).modSlot loc (fun t => { t with current := some i }) →
      exec i v = .next t → step s = .next (s.delivered (v.farStep t)))
  ∧ (∀ (s : State) loc, let c : State := { s with cur := loc }
    (s.slot loc).wait = none → (s.slot loc).gang = none →
    ((s.issuing loc).2 = (c.fetchInstr loc).2
      ∧ (s.issuing loc).1 = (c.fetchInstr loc).1.modSlot loc (fun t => { t with current := some (c.fetchInstr loc).2 })))
  ∧ (∀ (c u : State) loc w, (c.slot loc).pc ≠ exitAddr → (c.slot loc).pc.toNat % 4 = 0 → c.fetch loc (c.slot loc).pc = (u, .ok w) →
      (parcelLength w ≠ some 64 →
        c.fetchInstr loc = (u, match decodeWord 32 w with
          | .ok i => if i.declared (c.slot loc).u.profen then i else .emulationEntry (BitVec.ofNat 64 w) 4
          | .error _ => .emulationEntry (BitVec.ofNat 64 w) 4))
      ∧ (parcelLength w = some 64 → ∀ h v, u.fetch loc ((c.slot loc).pc + 4) = (v, .ok h) →
        c.fetchInstr loc = (v, match decodeWord 64 (w + h * 2 ^ 32) with
          | .ok i => if i.declared (c.slot loc).u.profen then i else .emulationEntry (BitVec.ofNat 64 (w + h * 2 ^ 32)) 8
          | .error _ => .emulationEntry (BitVec.ofNat 64 (w + h * 2 ^ 32)) 8))
      ∧ (parcelLength w = some 64 → ∀ e v, u.fetch loc ((c.slot loc).pc + 4) = (v, .error e) →
        c.fetchInstr loc = (v, .trapEntry loc e ((c.slot loc).pc + 4))))
  ∧ (∀ (c : State) loc, ((c.slot loc).pc = exitAddr → c.fetchInstr loc = (c, .threadExit))
    ∧ (∀ u e, (c.slot loc).pc ≠ exitAddr → (c.slot loc).pc.toNat % 4 = 0 → c.fetch loc (c.slot loc).pc = (u, .error e) →
      c.fetchInstr loc = (u, .trapEntry loc e (c.slot loc).pc)))
  ∧ (∀ (s u : State) loc va pa x, s.reach loc .fetch va 4 = (u, .ok (.dram pa, some x)) →
    (x.policy ≠ 2 → assoc (u.core (coreOf loc)).icache (va.toNat / 64) = none →
      (s.fetch loc va).2 = .ok (u.mem.read (x.pa (dieOf loc) false va.toNat / 64 * 64) 64 / 2 ^ (8 * (va.toNat % 64)) % 2 ^ 32))
    ∧ (x.policy = 2 → (s.fetch loc va).2 = .ok (u.mem.read (x.pa (dieOf loc) false va.toNat) 4)))
  ∧ (∀ (s : State) rgn node fs ts f x i, s.agenda = .fire rgn node fs :: ts → s.mustPass (.fire rgn node fs) = false →
    let p : State := { ({ s with agenda := ts } : State).note (.fire rgn node fs) with site := ⟨rgn, node, fs⟩ }
    p.siteNode = some f → fires p f [] = some (x, i) →
    ∀ t, exec i { p with site := x } = .next t → step s = .next (s.delivered (({ p with site := x } : State).farStep t)))
  ∧ (∀ (s : State) i cur sub y ts f x j, s.agenda = .event i cur sub y :: ts → s.mustPass (.event i cur sub y) = false →
    s.col.power = .running → nodeSteps.contains i = true → y.fs < 4 →
    let p : State := (({ s with agenda := ts } : State).note (.event i cur sub y)).atAgent cur sub y
    p.siteNode = some f → fires p f [i] = some (x, j) →
    ∀ t, exec j { p with site := x } = .next t → step s = .next (s.delivered (({ p with site := x } : State).farStep t)))
  ∧ (∀ (s : State) x wish, s.nodeStep x wish = none ↔
      ∀ i ∈ wish ++ nodeSteps, ∀ t, exec i { s with site := x } = .next t → t = { s with site := x })
  ∧ (∀ (s : State) x y wish i, s.nodeStep x wish = some (y, i) →
      y = x ∧ i ∈ wish ++ nodeSteps ∧ ∃ t, exec i { s with site := x } = .next t ∧ t ≠ { s with site := x })
  ∧ (∀ (s : State) x f o w, ({ s with site := x } : State).candidate 0 = some f →
    f.words.find? (fun q => f.eligible q.2 (f.drives q.1 q.2)) = some (o, w) → s.eligible x = some (x, o.mk w))
  ∧ (∀ (s : State) i cur sub x ts, s.agenda = .event i cur sub x :: ts → s.mustPass (.event i cur sub x) = false →
    Machine.Instr.isStep i = true → s.col.power = .running ∨ Machine.Instr.unpowered i = true →
    nodeSteps.contains i = false ∨ 4 ≤ x.fs →
    ∀ v t, v = (({ s with agenda := ts } : State).note (.event i cur sub x)).atAgent cur sub x → exec i v = .next t →
      step s = .next (s.delivered (v.farStep t)))

/-- R58, R67, R68, R129: of every well-formed instruction that has a 32-bit word, the word is below 2^32 and decodes to it. -/
def Obligations.RoundTrip32 : Prop :=
  ∀ i w, i.wf = true → encode32 i = some w → encode i = some (32, w) ∧ w < 2 ^ 32 ∧ decodeTableWord 32 w = some i

/-- R61 to R66: of every well-formed instruction that is an extension word, the word is below 2^64 and decodes to it. -/
def Obligations.RoundTrip64 : Prop :=
  ∀ i f, i.wf = true → encodeX i = some f →
    encode i = some (64, f.word) ∧ f.word < 2 ^ 64 ∧ decodeTableWord 64 f.word = some i

/-- R73 to R78: of every well-formed element instruction, the triggered word is below 2^128 and decodes to it. -/
def Obligations.RoundTrip128 : Prop :=
  ∀ i o t, i.wf = true → i.element = some (o, t) →
    encode i = some (128, TWord.word o t) ∧ TWord.word o t < 2 ^ 128 ∧ decodeTableWord 128 (TWord.word o t) = some i

/-- Every step of every state answers a next state, so no run stops: every trap, refusal status and absent address of the
manual is a next state of this model. -/
def Obligations.EveryStepGoes : Prop := (∀ s, Goes s) ∧ ∀ s, Safe s

/-- Every step keeps memory in its canonical form. -/
def Obligations.EveryStepKeepsMemoryCanonical : Prop := ∀ s t, MemoryInv s → step s = .next t → MemoryInv t
end

