-- ==== Sys2Proof/Laws/Memory.lean ====
section
/-! SUPPORT. Memory: every operation keeps the canonical form, and a read of one byte finds what was last written there. -/

namespace Sys2Proof.Machine

/-! ### The canonical form -/

/-- A lower bound that lies below an address. -/
def Below (lo : Option Nat) (a : Nat) : Prop := ∀ l, lo = some l → l < a

theorem below_none (a : Nat) : Below none a := by intro l h; cases h

theorem cellsOk_cons (lo : Option Nat) (k : Nat) (b : Byte) (r : List Host.Cell) :
    cellsOk lo ((k, b) :: r) = true ↔ Below lo k ∧ b ≠ unlisted ∧ cellsOk (some k) r = true := by
  cases lo with
  | none => simp [cellsOk, Below]
  | some l => simp [cellsOk, Below, and_assoc]

theorem cellsOk_mono {lo : Option Nat} {k : Nat} {cs : List Host.Cell} (h : cellsOk (some k) cs = true) (b : Below lo k) :
    cellsOk lo cs = true := by
  cases cs with
  | nil => rfl
  | cons p r =>
    obtain ⟨j, c⟩ := p
    rw [cellsOk_cons] at h ⊢
    exact ⟨fun l e => Nat.lt_trans (b l e) (h.1 k rfl), h.2⟩

theorem cellsOk_cellSet {lo : Option Nat} {cs : List Host.Cell} (a : Nat) (b : Byte) (h : cellsOk lo cs = true)
    (hb : Below lo a) : cellsOk lo (cellSet cs a b) = true := by
  induction cs generalizing lo with
  | nil =>
    simp only [cellSet]
    split
    · rfl
    · rw [cellsOk_cons]; exact ⟨hb, ‹_›, rfl⟩
  | cons p r ih =>
    obtain ⟨k, c⟩ := p
    have h' := (cellsOk_cons lo k c r).mp h
    simp only [cellSet]
    split
    · split
      · exact h
      · rw [cellsOk_cons]
        refine ⟨hb, ‹_›, ?_⟩
        rw [cellsOk_cons]
        exact ⟨fun l e => by cases e; assumption, h'.2⟩
    · split
      · split
        · exact cellsOk_mono h'.2.2 h'.1
        · rename_i e _
          subst e
          rw [cellsOk_cons]
          exact ⟨hb, ‹_›, h'.2.2⟩
      · rw [cellsOk_cons]
        refine ⟨h'.1, h'.2.1, ih h'.2.2 ?_⟩
        intro l e
        cases e
        omega

theorem flagsOk_cons (lo : Option Nat) (k : Nat) (r : List Nat) :
    flagsOk lo (k :: r) = true ↔ Below lo k ∧ flagsOk (some k) r = true := by
  cases lo with
  | none => simp [flagsOk, Below]
  | some l => simp [flagsOk, Below]

theorem flagsOk_mono {lo : Option Nat} {k : Nat} {fs : List Nat} (h : flagsOk (some k) fs = true) (b : Below lo k) :
    flagsOk lo fs = true := by
  cases fs with
  | nil => rfl
  | cons j r =>
    rw [flagsOk_cons] at h ⊢
    exact ⟨fun l e => Nat.lt_trans (b l e) (h.1 k rfl), h.2⟩

theorem flagsOk_flagSet {lo : Option Nat} {fs : List Nat} (a : Nat) (on : Bool) (h : flagsOk lo fs = true) (hb : Below lo a) :
    flagsOk lo (flagSet fs a on) = true := by
  induction fs generalizing lo with
  | nil =>
    simp only [flagSet]
    split
    · rw [flagsOk_cons]; exact ⟨hb, rfl⟩
    · rfl
  | cons k r ih =>
    have h' := (flagsOk_cons lo k r).mp h
    simp only [flagSet]
    split
    · split
      · rw [flagsOk_cons]
        refine ⟨hb, ?_⟩
        rw [flagsOk_cons]
        exact ⟨fun l e => by cases e; assumption, h'.2⟩
      · exact h
    · split
      · split
        · exact h
        · exact flagsOk_mono h'.2 h'.1
      · rw [flagsOk_cons]
        refine ⟨h'.1, ih h'.2 ?_⟩
        intro l e
        cases e
        omega

/-! ### Every operation keeps it -/

theorem wf_empty : (⟨[], []⟩ : Memory).wf = true := rfl

theorem wf_setByte (m : Memory) (a : Nat) (b : Byte) (h : m.wf = true) : (m.setByte a b).wf = true := by
  simp only [Memory.wf, Memory.setByte, Bool.and_eq_true] at h ⊢
  exact ⟨cellsOk_cellSet a b h.1 (below_none a), h.2⟩

theorem wf_setBytes (m : Memory) (a : Nat) (bs : List Byte) (h : m.wf = true) : (m.setBytes a bs).wf = true := by
  induction bs generalizing m a with
  | nil => exact h
  | cons b r ih => exact ih _ _ (wf_setByte m a b h)

theorem wf_write (m : Memory) (a n v : Nat) (h : m.wf = true) : (m.write a n v).wf = true := wf_setBytes m a _ h

theorem wf_setFull (m : Memory) (a : Nat) (on : Bool) (h : m.wf = true) : (m.setFull a on).wf = true := by
  simp only [Memory.wf, Memory.setFull, Bool.and_eq_true] at h ⊢
  exact ⟨h.1, flagsOk_flagSet a on h.2 (below_none a)⟩

theorem cellsOk_filter (p : Host.Cell → Bool) {lo : Option Nat} {cs : List Host.Cell} (h : cellsOk lo cs = true) :
    cellsOk lo (cs.filter p) = true := by
  induction cs generalizing lo with
  | nil => rfl
  | cons q r ih =>
    obtain ⟨k, c⟩ := q
    have h' := (cellsOk_cons lo k c r).mp h
    simp only [List.filter_cons]
    split
    · rw [cellsOk_cons]; exact ⟨h'.1, h'.2.1, ih h'.2.2⟩
    · exact cellsOk_mono (ih h'.2.2) h'.1

theorem cellsOk_foldl (cs l : List Host.Cell) (h : cellsOk none cs = true) :
    cellsOk none (l.foldl (fun cs c => cellSet cs c.1 c.2) cs) = true := by
  induction l generalizing cs with
  | nil => exact h
  | cons c r ih => exact ih _ (cellsOk_cellSet c.1 c.2 h (below_none c.1))

theorem wf_copyRange (m : Memory) (src dst n : Nat) (h : m.wf = true) : (m.copyRange src dst n).wf = true := by
  simp only [Memory.wf, Memory.copyRange, Bool.and_eq_true] at h ⊢
  exact ⟨cellsOk_foldl _ _ (cellsOk_filter _ h.1), h.2⟩

theorem wf_foldl_setByte (l : List Host.Cell) (m : Memory) (h : m.wf = true) :
    (l.foldl (fun m c => m.setByte c.1 c.2) m).wf = true := by
  induction l generalizing m with
  | nil => exact h
  | cons c r ih => exact ih _ (wf_setByte m c.1 c.2 h)

theorem wf_foldl_setFull (l : List Nat) (m : Memory) (h : m.wf = true) :
    (l.foldl (fun m a => m.setFull a true) m).wf = true := by
  induction l generalizing m with
  | nil => exact h
  | cons c r ih => exact ih _ (wf_setFull m c true h)

/-! ### Reading one byte -/

theorem cellGet_low {lo : Nat} {cs : List Host.Cell} {a : Nat} (h : cellsOk (some lo) cs = true) (ha : a ≤ lo) :
    cellGet cs a = unlisted := by
  induction cs generalizing lo with
  | nil => rfl
  | cons p r ih =>
    obtain ⟨k, c⟩ := p
    have h' := (cellsOk_cons _ k c r).mp h
    have hk := h'.1 lo rfl
    simp only [cellGet]
    rw [if_neg (by omega)]
    exact ih h'.2.2 (by omega)

theorem cellGet_cellSet {lo : Option Nat} {cs : List Host.Cell} (a c : Nat) (b : Byte) (h : cellsOk lo cs = true) :
    cellGet (cellSet cs a b) c = if c = a then b else cellGet cs c := by
  induction cs generalizing lo with
  | nil =>
    simp only [cellSet]
    split
    · rename_i e; subst e; simp [cellGet]
    · simp [cellGet]
  | cons p r ih =>
    obtain ⟨k, d⟩ := p
    have h' := (cellsOk_cons lo k d r).mp h
    simp only [cellSet]
    split
    · rename_i hlt
      split
      · rename_i e
        subst e
        by_cases hc : c = a
        · subst hc
          rw [if_pos rfl, cellGet, if_neg (by omega)]
          exact cellGet_low h'.2.2 (by omega)
        · rw [if_neg hc]
      · simp only [cellGet]
    · rename_i hge
      split
      · rename_i e
        subst e
        split
        · rename_i e
          subst e
          by_cases hc : c = a
          · subst hc; rw [if_pos rfl]; exact cellGet_low h'.2.2 (Nat.le_refl _)
          · rw [if_neg hc]; simp [cellGet, hc]
        · by_cases hc : c = a
          · simp [cellGet, hc]
          · simp [cellGet, hc]
      · rename_i hne
        simp only [cellGet]
        by_cases hk : c = k
        · have : ¬ c = a := by omega
          simp [hk]
          intro e
          omega
        · rw [if_neg hk, if_neg hk]
          exact ih h'.2.2

theorem byte_setByte (m : Memory) (a c : Nat) (b : Byte) (h : m.wf = true) :
    (m.setByte a b).byte c = if c = a then b else m.byte c := by
  simp only [Memory.wf, Bool.and_eq_true] at h
  exact cellGet_cellSet a c b h.1

theorem byte_setBytes (m : Memory) (a c : Nat) (bs : List Byte) (h : m.wf = true) :
    (m.setBytes a bs).byte c = if a ≤ c ∧ c < a + bs.length then bs.getD (c - a) unlisted else m.byte c := by
  induction bs generalizing m a with
  | nil => rw [if_neg (by simp)]; rfl
  | cons b r ih =>
    rw [Memory.setBytes, ih _ _ (wf_setByte m a b h)]
    simp only [List.length_cons]
    by_cases h1 : a + 1 ≤ c ∧ c < a + 1 + r.length
    · rw [if_pos h1, if_pos (by omega)]
      obtain ⟨d, hd⟩ : ∃ d, c - a = d + 1 := ⟨c - a - 1, by omega⟩
      rw [hd, show c - (a + 1) = d by omega]
      simp
    · rw [if_neg h1, byte_setByte m a c b h]
      by_cases h2 : c = a
      · subst h2; rw [if_pos rfl, if_pos (by omega)]; simp
      · rw [if_neg h2, if_neg (by omega)]

/-- A write leaves every byte outside it as it was. -/
theorem byte_write_outside (m : Memory) (a n v c : Nat) (h : m.wf = true) (hc : ¬ (a ≤ c ∧ c < a + (natBytes n v).length)) :
    (m.write a n v).byte c = m.byte c := by
  rw [Memory.write, byte_setBytes m a c _ h, if_neg hc]

@[simp] theorem byte_setFull (m : Memory) (a c : Nat) (on : Bool) : (m.setFull a on).byte c = m.byte c := rfl
@[simp] theorem isFull_setBytes (m : Memory) (a c : Nat) (bs : List Byte) : (m.setBytes a bs).isFull c = m.isFull c := by
  induction bs generalizing m a with
  | nil => rfl
  | cons b r ih => rw [Memory.setBytes, ih]; rfl
@[simp] theorem isFull_write (m : Memory) (a n v c : Nat) : (m.write a n v).isFull c = m.isFull c := isFull_setBytes m a c _

end Sys2Proof.Machine
end

