-- ==== Sys2Proof/Laws/State.lean ====
section
/-! SUPPORT. What each update of the state leaves as it was, one lemma for each field, so that no later proof unfolds a
record update; and what a read of a unit or a register finds after a write. -/

namespace Sys2Proof

/-! ### Association lists -/

@[simp] theorem assoc_assocSet_same {α : Type} (l : List (Nat × α)) (k : Nat) (a : α) : assoc (assocSet l k a) k = some a := by
  induction l with
  | nil => simp [assocSet, assoc]
  | cons p r ih =>
    obtain ⟨j, b⟩ := p
    simp only [assocSet]
    split
    · simp [assoc]
    · split
      · simp [assoc]
      · simp [assoc, *]

theorem assoc_assocSet_ne {α : Type} (l : List (Nat × α)) {k j : Nat} (a : α) (h : j ≠ k) :
    assoc (assocSet l k a) j = assoc l j := by
  induction l with
  | nil => simp [assocSet, assoc, Ne.symm h]
  | cons p r ih =>
    obtain ⟨i, b⟩ := p
    simp only [assocSet]
    split
    · rename_i e; subst e; simp [assoc, Ne.symm h]
    · split
      · simp [assoc, Ne.symm h]
      · simp [assoc, ih]

@[simp] theorem assocSet_assocSet {α : Type} (l : List (Nat × α)) (k : Nat) (a b : α) :
    assocSet (assocSet l k a) k b = assocSet l k b := by
  induction l with
  | nil => simp [assocSet]
  | cons p r ih =>
    obtain ⟨j, c⟩ := p
    simp only [assocSet]
    split
    · simp [assocSet]
    · split
      · simp [assocSet]
      · rename_i h1 h2
        simp [assocSet, h1, h2, ih]

namespace Machine

/-! ### Units -/

@[simp] theorem slot_setSlot_same (s : State) (k : Nat) (x) : (s.setSlot k x).slot k = x := by simp [State.setSlot, State.slot]
theorem slot_setSlot_ne (s : State) {k j : Nat} (x) (h : j ≠ k) : (s.setSlot k x).slot j = s.slot j := by
  simp [State.setSlot, State.slot, assoc_assocSet_ne _ _ h]
@[simp] theorem slot_modSlot_same (s : State) (k : Nat) (f) : (s.modSlot k f).slot k = f (s.slot k) := by simp [State.modSlot]
theorem slot_modSlot_ne (s : State) {k j : Nat} (f) (h : j ≠ k) : (s.modSlot k f).slot j = s.slot j := by
  simp [State.modSlot, slot_setSlot_ne _ _ h]

@[simp] theorem core_setCore_same (s : State) (k : Nat) (x) : (s.setCore k x).core k = x := by simp [State.setCore, State.core]
theorem core_setCore_ne (s : State) {k j : Nat} (x) (h : j ≠ k) : (s.setCore k x).core j = s.core j := by
  simp [State.setCore, State.core, assoc_assocSet_ne _ _ h]
@[simp] theorem core_modCore_same (s : State) (k : Nat) (f) : (s.modCore k f).core k = f (s.core k) := by simp [State.modCore]
theorem core_modCore_ne (s : State) {k j : Nat} (f) (h : j ≠ k) : (s.modCore k f).core j = s.core j := by
  simp [State.modCore, core_setCore_ne _ _ h]

@[simp] theorem clu_setClu_same (s : State) (k : Nat) (x) : (s.setClu k x).clu k = x := by simp [State.setClu, State.clu]
theorem clu_setClu_ne (s : State) {k j : Nat} (x) (h : j ≠ k) : (s.setClu k x).clu j = s.clu j := by
  simp [State.setClu, State.clu, assoc_assocSet_ne _ _ h]
@[simp] theorem clu_modClu_same (s : State) (k : Nat) (f) : (s.modClu k f).clu k = f (s.clu k) := by simp [State.modClu]
theorem clu_modClu_ne (s : State) {k j : Nat} (f) (h : j ≠ k) : (s.modClu k f).clu j = s.clu j := by
  simp [State.modClu, clu_setClu_ne _ _ h]

@[simp] theorem die_setDie_same (s : State) (k : Nat) (x) : (s.setDie k x).die k = x := by simp [State.setDie, State.die]
theorem die_setDie_ne (s : State) {k j : Nat} (x) (h : j ≠ k) : (s.setDie k x).die j = s.die j := by
  simp [State.setDie, State.die, assoc_assocSet_ne _ _ h]
@[simp] theorem die_modDie_same (s : State) (k : Nat) (f) : (s.modDie k f).die k = f (s.die k) := by simp [State.modDie]
theorem die_modDie_ne (s : State) {k j : Nat} (f) (h : j ≠ k) : (s.modDie k f).die j = s.die j := by
  simp [State.modDie, die_setDie_ne _ _ h]

/-! ### Every other field of the state stays -/

@[simp] theorem setSlot_cycle (s : State) (k : Nat) (x : Slot) : (s.setSlot k x).cycle = s.cycle := rfl
@[simp] theorem setSlot_tick (s : State) (k : Nat) (x : Slot) : (s.setSlot k x).tick = s.tick := rfl
@[simp] theorem setSlot_fresh (s : State) (k : Nat) (x : Slot) : (s.setSlot k x).fresh = s.fresh := rfl
@[simp] theorem setSlot_agenda (s : State) (k : Nat) (x : Slot) : (s.setSlot k x).agenda = s.agenda := rfl
@[simp] theorem setSlot_cur (s : State) (k : Nat) (x : Slot) : (s.setSlot k x).cur = s.cur := rfl
@[simp] theorem setSlot_sub (s : State) (k : Nat) (x : Slot) : (s.setSlot k x).sub = s.sub := rfl
@[simp] theorem setSlot_site (s : State) (k : Nat) (x : Slot) : (s.setSlot k x).site = s.site := rfl
@[simp] theorem setSlot_slotNo (s : State) (k : Nat) (x : Slot) : (s.setSlot k x).slotNo = s.slotNo := rfl
@[simp] theorem setSlot_issued (s : State) (k : Nat) (x : Slot) : (s.setSlot k x).issued = s.issued := rfl
@[simp] theorem setSlot_done (s : State) (k : Nat) (x : Slot) : (s.setSlot k x).done = s.done := rfl
@[simp] theorem setSlot_pkg (s : State) (k : Nat) (x : Slot) : (s.setSlot k x).pkg = s.pkg := rfl
@[simp] theorem setSlot_mem (s : State) (k : Nat) (x : Slot) : (s.setSlot k x).mem = s.mem := rfl
@[simp] theorem setSlot_cores (s : State) (k : Nat) (x : Slot) : (s.setSlot k x).cores = s.cores := rfl
@[simp] theorem setSlot_clus (s : State) (k : Nat) (x : Slot) : (s.setSlot k x).clus = s.clus := rfl
@[simp] theorem setSlot_dies (s : State) (k : Nat) (x : Slot) : (s.setSlot k x).dies = s.dies := rfl
@[simp] theorem setSlot_regions (s : State) (k : Nat) (x : Slot) : (s.setSlot k x).regions = s.regions := rfl
@[simp] theorem setSlot_scanned (s : State) (k : Nat) (x : Slot) : (s.setSlot k x).scanned = s.scanned := rfl
@[simp] theorem setSlot_rgnOps (s : State) (k : Nat) (x : Slot) : (s.setSlot k x).rgnOps = s.rgnOps := rfl
@[simp] theorem setSlot_rgnResults (s : State) (k : Nat) (x : Slot) : (s.setSlot k x).rgnResults = s.rgnResults := rfl
@[simp] theorem setSlot_feq (s : State) (k : Nat) (x : Slot) : (s.setSlot k x).feq = s.feq := rfl
@[simp] theorem setSlot_jobs (s : State) (k : Nat) (x : Slot) : (s.setSlot k x).jobs = s.jobs := rfl
@[simp] theorem setSlot_nextJob (s : State) (k : Nat) (x : Slot) : (s.setSlot k x).nextJob = s.nextJob := rfl
@[simp] theorem setSlot_queued (s : State) (k : Nat) (x : Slot) : (s.setSlot k x).queued = s.queued := rfl
@[simp] theorem setSlot_openings (s : State) (k : Nat) (x : Slot) : (s.setSlot k x).openings = s.openings := rfl
@[simp] theorem setSlot_bars (s : State) (k : Nat) (x : Slot) : (s.setSlot k x).bars = s.bars := rfl
@[simp] theorem setSlot_groups (s : State) (k : Nat) (x : Slot) : (s.setSlot k x).groups = s.groups := rfl
@[simp] theorem setSlot_forming (s : State) (k : Nat) (x : Slot) : (s.setSlot k x).forming = s.forming := rfl
@[simp] theorem setSlot_insts (s : State) (k : Nat) (x : Slot) : (s.setSlot k x).insts = s.insts := rfl
@[simp] theorem setSlot_nextInst (s : State) (k : Nat) (x : Slot) : (s.setSlot k x).nextInst = s.nextInst := rfl
@[simp] theorem setSlot_nextFrame (s : State) (k : Nat) (x : Slot) : (s.setSlot k x).nextFrame = s.nextFrame := rfl
@[simp] theorem setSlot_pod (s : State) (k : Nat) (x : Slot) : (s.setSlot k x).pod = s.pod := rfl
@[simp] theorem setSlot_gangMsgs (s : State) (k : Nat) (x : Slot) : (s.setSlot k x).gangMsgs = s.gangMsgs := rfl
@[simp] theorem setSlot_away (s : State) (k : Nat) (x : Slot) : (s.setSlot k x).away = s.away := rfl
@[simp] theorem setSlot_arrivals (s : State) (k : Nat) (x : Slot) : (s.setSlot k x).arrivals = s.arrivals := rfl
@[simp] theorem setSlot_parkedMsgs (s : State) (k : Nat) (x : Slot) : (s.setSlot k x).parkedMsgs = s.parkedMsgs := rfl
@[simp] theorem setSlot_invs (s : State) (k : Nat) (x : Slot) : (s.setSlot k x).invs = s.invs := rfl
@[simp] theorem setSlot_remote (s : State) (k : Nat) (x : Slot) : (s.setSlot k x).remote = s.remote := rfl
@[simp] theorem setSlot_nextFar (s : State) (k : Nat) (x : Slot) : (s.setSlot k x).nextFar = s.nextFar := rfl
@[simp] theorem setSlot_asks (s : State) (k : Nat) (x : Slot) : (s.setSlot k x).asks = s.asks := rfl
@[simp] theorem setSlot_miss (s : State) (k : Nat) (x : Slot) : (s.setSlot k x).miss = s.miss := rfl
@[simp] theorem setSlot_farOut (s : State) (k : Nat) (x : Slot) : (s.setSlot k x).farOut = s.farOut := rfl
@[simp] theorem setSlot_farTo (s : State) (k : Nat) (x : Slot) : (s.setSlot k x).farTo = s.farTo := rfl
@[simp] theorem setSlot_farResv (s : State) (k : Nat) (x : Slot) : (s.setSlot k x).farResv = s.farResv := rfl
@[simp] theorem setSlot_qps (s : State) (k : Nat) (x : Slot) : (s.setSlot k x).qps = s.qps := rfl
@[simp] theorem setSlot_ports (s : State) (k : Nat) (x : Slot) : (s.setSlot k x).ports = s.ports := rfl
@[simp] theorem setSlot_col (s : State) (k : Nat) (x : Slot) : (s.setSlot k x).col = s.col := rfl
@[simp] theorem setSlot_paused (s : State) (k : Nat) (x : Slot) : (s.setSlot k x).paused = s.paused := rfl
@[simp] theorem setSlot_txWait (s : State) (k : Nat) (x : Slot) : (s.setSlot k x).txWait = s.txWait := rfl
@[simp] theorem setSlot_linksDown (s : State) (k : Nat) (x : Slot) : (s.setSlot k x).linksDown = s.linksDown := rfl
@[simp] theorem setSlot_outs (s : State) (k : Nat) (x : Slot) : (s.setSlot k x).outs = s.outs := rfl

@[simp] theorem modSlot_cycle (s : State) (k : Nat) (f : Slot → Slot) : (s.modSlot k f).cycle = s.cycle := rfl
@[simp] theorem modSlot_tick (s : State) (k : Nat) (f : Slot → Slot) : (s.modSlot k f).tick = s.tick := rfl
@[simp] theorem modSlot_fresh (s : State) (k : Nat) (f : Slot → Slot) : (s.modSlot k f).fresh = s.fresh := rfl
@[simp] theorem modSlot_agenda (s : State) (k : Nat) (f : Slot → Slot) : (s.modSlot k f).agenda = s.agenda := rfl
@[simp] theorem modSlot_cur (s : State) (k : Nat) (f : Slot → Slot) : (s.modSlot k f).cur = s.cur := rfl
@[simp] theorem modSlot_sub (s : State) (k : Nat) (f : Slot → Slot) : (s.modSlot k f).sub = s.sub := rfl
@[simp] theorem modSlot_site (s : State) (k : Nat) (f : Slot → Slot) : (s.modSlot k f).site = s.site := rfl
@[simp] theorem modSlot_slotNo (s : State) (k : Nat) (f : Slot → Slot) : (s.modSlot k f).slotNo = s.slotNo := rfl
@[simp] theorem modSlot_issued (s : State) (k : Nat) (f : Slot → Slot) : (s.modSlot k f).issued = s.issued := rfl
@[simp] theorem modSlot_done (s : State) (k : Nat) (f : Slot → Slot) : (s.modSlot k f).done = s.done := rfl
@[simp] theorem modSlot_pkg (s : State) (k : Nat) (f : Slot → Slot) : (s.modSlot k f).pkg = s.pkg := rfl
@[simp] theorem modSlot_mem (s : State) (k : Nat) (f : Slot → Slot) : (s.modSlot k f).mem = s.mem := rfl
@[simp] theorem modSlot_cores (s : State) (k : Nat) (f : Slot → Slot) : (s.modSlot k f).cores = s.cores := rfl
@[simp] theorem modSlot_clus (s : State) (k : Nat) (f : Slot → Slot) : (s.modSlot k f).clus = s.clus := rfl
@[simp] theorem modSlot_dies (s : State) (k : Nat) (f : Slot → Slot) : (s.modSlot k f).dies = s.dies := rfl
@[simp] theorem modSlot_regions (s : State) (k : Nat) (f : Slot → Slot) : (s.modSlot k f).regions = s.regions := rfl
@[simp] theorem modSlot_scanned (s : State) (k : Nat) (f : Slot → Slot) : (s.modSlot k f).scanned = s.scanned := rfl
@[simp] theorem modSlot_rgnOps (s : State) (k : Nat) (f : Slot → Slot) : (s.modSlot k f).rgnOps = s.rgnOps := rfl
@[simp] theorem modSlot_rgnResults (s : State) (k : Nat) (f : Slot → Slot) : (s.modSlot k f).rgnResults = s.rgnResults := rfl
@[simp] theorem modSlot_feq (s : State) (k : Nat) (f : Slot → Slot) : (s.modSlot k f).feq = s.feq := rfl
@[simp] theorem modSlot_jobs (s : State) (k : Nat) (f : Slot → Slot) : (s.modSlot k f).jobs = s.jobs := rfl
@[simp] theorem modSlot_nextJob (s : State) (k : Nat) (f : Slot → Slot) : (s.modSlot k f).nextJob = s.nextJob := rfl
@[simp] theorem modSlot_queued (s : State) (k : Nat) (f : Slot → Slot) : (s.modSlot k f).queued = s.queued := rfl
@[simp] theorem modSlot_openings (s : State) (k : Nat) (f : Slot → Slot) : (s.modSlot k f).openings = s.openings := rfl
@[simp] theorem modSlot_bars (s : State) (k : Nat) (f : Slot → Slot) : (s.modSlot k f).bars = s.bars := rfl
@[simp] theorem modSlot_groups (s : State) (k : Nat) (f : Slot → Slot) : (s.modSlot k f).groups = s.groups := rfl
@[simp] theorem modSlot_forming (s : State) (k : Nat) (f : Slot → Slot) : (s.modSlot k f).forming = s.forming := rfl
@[simp] theorem modSlot_insts (s : State) (k : Nat) (f : Slot → Slot) : (s.modSlot k f).insts = s.insts := rfl
@[simp] theorem modSlot_nextInst (s : State) (k : Nat) (f : Slot → Slot) : (s.modSlot k f).nextInst = s.nextInst := rfl
@[simp] theorem modSlot_nextFrame (s : State) (k : Nat) (f : Slot → Slot) : (s.modSlot k f).nextFrame = s.nextFrame := rfl
@[simp] theorem modSlot_pod (s : State) (k : Nat) (f : Slot → Slot) : (s.modSlot k f).pod = s.pod := rfl
@[simp] theorem modSlot_gangMsgs (s : State) (k : Nat) (f : Slot → Slot) : (s.modSlot k f).gangMsgs = s.gangMsgs := rfl
@[simp] theorem modSlot_away (s : State) (k : Nat) (f : Slot → Slot) : (s.modSlot k f).away = s.away := rfl
@[simp] theorem modSlot_arrivals (s : State) (k : Nat) (f : Slot → Slot) : (s.modSlot k f).arrivals = s.arrivals := rfl
@[simp] theorem modSlot_parkedMsgs (s : State) (k : Nat) (f : Slot → Slot) : (s.modSlot k f).parkedMsgs = s.parkedMsgs := rfl
@[simp] theorem modSlot_invs (s : State) (k : Nat) (f : Slot → Slot) : (s.modSlot k f).invs = s.invs := rfl
@[simp] theorem modSlot_remote (s : State) (k : Nat) (f : Slot → Slot) : (s.modSlot k f).remote = s.remote := rfl
@[simp] theorem modSlot_nextFar (s : State) (k : Nat) (f : Slot → Slot) : (s.modSlot k f).nextFar = s.nextFar := rfl
@[simp] theorem modSlot_asks (s : State) (k : Nat) (f : Slot → Slot) : (s.modSlot k f).asks = s.asks := rfl
@[simp] theorem modSlot_miss (s : State) (k : Nat) (f : Slot → Slot) : (s.modSlot k f).miss = s.miss := rfl
@[simp] theorem modSlot_farOut (s : State) (k : Nat) (f : Slot → Slot) : (s.modSlot k f).farOut = s.farOut := rfl
@[simp] theorem modSlot_farTo (s : State) (k : Nat) (f : Slot → Slot) : (s.modSlot k f).farTo = s.farTo := rfl
@[simp] theorem modSlot_farResv (s : State) (k : Nat) (f : Slot → Slot) : (s.modSlot k f).farResv = s.farResv := rfl
@[simp] theorem modSlot_qps (s : State) (k : Nat) (f : Slot → Slot) : (s.modSlot k f).qps = s.qps := rfl
@[simp] theorem modSlot_ports (s : State) (k : Nat) (f : Slot → Slot) : (s.modSlot k f).ports = s.ports := rfl
@[simp] theorem modSlot_col (s : State) (k : Nat) (f : Slot → Slot) : (s.modSlot k f).col = s.col := rfl
@[simp] theorem modSlot_paused (s : State) (k : Nat) (f : Slot → Slot) : (s.modSlot k f).paused = s.paused := rfl
@[simp] theorem modSlot_txWait (s : State) (k : Nat) (f : Slot → Slot) : (s.modSlot k f).txWait = s.txWait := rfl
@[simp] theorem modSlot_linksDown (s : State) (k : Nat) (f : Slot → Slot) : (s.modSlot k f).linksDown = s.linksDown := rfl
@[simp] theorem modSlot_outs (s : State) (k : Nat) (f : Slot → Slot) : (s.modSlot k f).outs = s.outs := rfl

@[simp] theorem setCore_cycle (s : State) (k : Nat) (x : Core) : (s.setCore k x).cycle = s.cycle := rfl
@[simp] theorem setCore_tick (s : State) (k : Nat) (x : Core) : (s.setCore k x).tick = s.tick := rfl
@[simp] theorem setCore_fresh (s : State) (k : Nat) (x : Core) : (s.setCore k x).fresh = s.fresh := rfl
@[simp] theorem setCore_agenda (s : State) (k : Nat) (x : Core) : (s.setCore k x).agenda = s.agenda := rfl
@[simp] theorem setCore_cur (s : State) (k : Nat) (x : Core) : (s.setCore k x).cur = s.cur := rfl
@[simp] theorem setCore_sub (s : State) (k : Nat) (x : Core) : (s.setCore k x).sub = s.sub := rfl
@[simp] theorem setCore_site (s : State) (k : Nat) (x : Core) : (s.setCore k x).site = s.site := rfl
@[simp] theorem setCore_slotNo (s : State) (k : Nat) (x : Core) : (s.setCore k x).slotNo = s.slotNo := rfl
@[simp] theorem setCore_issued (s : State) (k : Nat) (x : Core) : (s.setCore k x).issued = s.issued := rfl
@[simp] theorem setCore_done (s : State) (k : Nat) (x : Core) : (s.setCore k x).done = s.done := rfl
@[simp] theorem setCore_pkg (s : State) (k : Nat) (x : Core) : (s.setCore k x).pkg = s.pkg := rfl
@[simp] theorem setCore_mem (s : State) (k : Nat) (x : Core) : (s.setCore k x).mem = s.mem := rfl
@[simp] theorem setCore_slots (s : State) (k : Nat) (x : Core) : (s.setCore k x).slots = s.slots := rfl
@[simp] theorem setCore_clus (s : State) (k : Nat) (x : Core) : (s.setCore k x).clus = s.clus := rfl
@[simp] theorem setCore_dies (s : State) (k : Nat) (x : Core) : (s.setCore k x).dies = s.dies := rfl
@[simp] theorem setCore_regions (s : State) (k : Nat) (x : Core) : (s.setCore k x).regions = s.regions := rfl
@[simp] theorem setCore_scanned (s : State) (k : Nat) (x : Core) : (s.setCore k x).scanned = s.scanned := rfl
@[simp] theorem setCore_rgnOps (s : State) (k : Nat) (x : Core) : (s.setCore k x).rgnOps = s.rgnOps := rfl
@[simp] theorem setCore_rgnResults (s : State) (k : Nat) (x : Core) : (s.setCore k x).rgnResults = s.rgnResults := rfl
@[simp] theorem setCore_feq (s : State) (k : Nat) (x : Core) : (s.setCore k x).feq = s.feq := rfl
@[simp] theorem setCore_jobs (s : State) (k : Nat) (x : Core) : (s.setCore k x).jobs = s.jobs := rfl
@[simp] theorem setCore_nextJob (s : State) (k : Nat) (x : Core) : (s.setCore k x).nextJob = s.nextJob := rfl
@[simp] theorem setCore_queued (s : State) (k : Nat) (x : Core) : (s.setCore k x).queued = s.queued := rfl
@[simp] theorem setCore_openings (s : State) (k : Nat) (x : Core) : (s.setCore k x).openings = s.openings := rfl
@[simp] theorem setCore_bars (s : State) (k : Nat) (x : Core) : (s.setCore k x).bars = s.bars := rfl
@[simp] theorem setCore_groups (s : State) (k : Nat) (x : Core) : (s.setCore k x).groups = s.groups := rfl
@[simp] theorem setCore_forming (s : State) (k : Nat) (x : Core) : (s.setCore k x).forming = s.forming := rfl
@[simp] theorem setCore_insts (s : State) (k : Nat) (x : Core) : (s.setCore k x).insts = s.insts := rfl
@[simp] theorem setCore_nextInst (s : State) (k : Nat) (x : Core) : (s.setCore k x).nextInst = s.nextInst := rfl
@[simp] theorem setCore_nextFrame (s : State) (k : Nat) (x : Core) : (s.setCore k x).nextFrame = s.nextFrame := rfl
@[simp] theorem setCore_pod (s : State) (k : Nat) (x : Core) : (s.setCore k x).pod = s.pod := rfl
@[simp] theorem setCore_gangMsgs (s : State) (k : Nat) (x : Core) : (s.setCore k x).gangMsgs = s.gangMsgs := rfl
@[simp] theorem setCore_away (s : State) (k : Nat) (x : Core) : (s.setCore k x).away = s.away := rfl
@[simp] theorem setCore_arrivals (s : State) (k : Nat) (x : Core) : (s.setCore k x).arrivals = s.arrivals := rfl
@[simp] theorem setCore_parkedMsgs (s : State) (k : Nat) (x : Core) : (s.setCore k x).parkedMsgs = s.parkedMsgs := rfl
@[simp] theorem setCore_invs (s : State) (k : Nat) (x : Core) : (s.setCore k x).invs = s.invs := rfl
@[simp] theorem setCore_remote (s : State) (k : Nat) (x : Core) : (s.setCore k x).remote = s.remote := rfl
@[simp] theorem setCore_nextFar (s : State) (k : Nat) (x : Core) : (s.setCore k x).nextFar = s.nextFar := rfl
@[simp] theorem setCore_asks (s : State) (k : Nat) (x : Core) : (s.setCore k x).asks = s.asks := rfl
@[simp] theorem setCore_miss (s : State) (k : Nat) (x : Core) : (s.setCore k x).miss = s.miss := rfl
@[simp] theorem setCore_farOut (s : State) (k : Nat) (x : Core) : (s.setCore k x).farOut = s.farOut := rfl
@[simp] theorem setCore_farTo (s : State) (k : Nat) (x : Core) : (s.setCore k x).farTo = s.farTo := rfl
@[simp] theorem setCore_farResv (s : State) (k : Nat) (x : Core) : (s.setCore k x).farResv = s.farResv := rfl
@[simp] theorem setCore_qps (s : State) (k : Nat) (x : Core) : (s.setCore k x).qps = s.qps := rfl
@[simp] theorem setCore_ports (s : State) (k : Nat) (x : Core) : (s.setCore k x).ports = s.ports := rfl
@[simp] theorem setCore_col (s : State) (k : Nat) (x : Core) : (s.setCore k x).col = s.col := rfl
@[simp] theorem setCore_paused (s : State) (k : Nat) (x : Core) : (s.setCore k x).paused = s.paused := rfl
@[simp] theorem setCore_txWait (s : State) (k : Nat) (x : Core) : (s.setCore k x).txWait = s.txWait := rfl
@[simp] theorem setCore_linksDown (s : State) (k : Nat) (x : Core) : (s.setCore k x).linksDown = s.linksDown := rfl
@[simp] theorem setCore_outs (s : State) (k : Nat) (x : Core) : (s.setCore k x).outs = s.outs := rfl

@[simp] theorem modCore_cycle (s : State) (k : Nat) (f : Core → Core) : (s.modCore k f).cycle = s.cycle := rfl
@[simp] theorem modCore_tick (s : State) (k : Nat) (f : Core → Core) : (s.modCore k f).tick = s.tick := rfl
@[simp] theorem modCore_fresh (s : State) (k : Nat) (f : Core → Core) : (s.modCore k f).fresh = s.fresh := rfl
@[simp] theorem modCore_agenda (s : State) (k : Nat) (f : Core → Core) : (s.modCore k f).agenda = s.agenda := rfl
@[simp] theorem modCore_cur (s : State) (k : Nat) (f : Core → Core) : (s.modCore k f).cur = s.cur := rfl
@[simp] theorem modCore_sub (s : State) (k : Nat) (f : Core → Core) : (s.modCore k f).sub = s.sub := rfl
@[simp] theorem modCore_site (s : State) (k : Nat) (f : Core → Core) : (s.modCore k f).site = s.site := rfl
@[simp] theorem modCore_slotNo (s : State) (k : Nat) (f : Core → Core) : (s.modCore k f).slotNo = s.slotNo := rfl
@[simp] theorem modCore_issued (s : State) (k : Nat) (f : Core → Core) : (s.modCore k f).issued = s.issued := rfl
@[simp] theorem modCore_done (s : State) (k : Nat) (f : Core → Core) : (s.modCore k f).done = s.done := rfl
@[simp] theorem modCore_pkg (s : State) (k : Nat) (f : Core → Core) : (s.modCore k f).pkg = s.pkg := rfl
@[simp] theorem modCore_mem (s : State) (k : Nat) (f : Core → Core) : (s.modCore k f).mem = s.mem := rfl
@[simp] theorem modCore_slots (s : State) (k : Nat) (f : Core → Core) : (s.modCore k f).slots = s.slots := rfl
@[simp] theorem modCore_clus (s : State) (k : Nat) (f : Core → Core) : (s.modCore k f).clus = s.clus := rfl
@[simp] theorem modCore_dies (s : State) (k : Nat) (f : Core → Core) : (s.modCore k f).dies = s.dies := rfl
@[simp] theorem modCore_regions (s : State) (k : Nat) (f : Core → Core) : (s.modCore k f).regions = s.regions := rfl
@[simp] theorem modCore_scanned (s : State) (k : Nat) (f : Core → Core) : (s.modCore k f).scanned = s.scanned := rfl
@[simp] theorem modCore_rgnOps (s : State) (k : Nat) (f : Core → Core) : (s.modCore k f).rgnOps = s.rgnOps := rfl
@[simp] theorem modCore_rgnResults (s : State) (k : Nat) (f : Core → Core) : (s.modCore k f).rgnResults = s.rgnResults := rfl
@[simp] theorem modCore_feq (s : State) (k : Nat) (f : Core → Core) : (s.modCore k f).feq = s.feq := rfl
@[simp] theorem modCore_jobs (s : State) (k : Nat) (f : Core → Core) : (s.modCore k f).jobs = s.jobs := rfl
@[simp] theorem modCore_nextJob (s : State) (k : Nat) (f : Core → Core) : (s.modCore k f).nextJob = s.nextJob := rfl
@[simp] theorem modCore_queued (s : State) (k : Nat) (f : Core → Core) : (s.modCore k f).queued = s.queued := rfl
@[simp] theorem modCore_openings (s : State) (k : Nat) (f : Core → Core) : (s.modCore k f).openings = s.openings := rfl
@[simp] theorem modCore_bars (s : State) (k : Nat) (f : Core → Core) : (s.modCore k f).bars = s.bars := rfl
@[simp] theorem modCore_groups (s : State) (k : Nat) (f : Core → Core) : (s.modCore k f).groups = s.groups := rfl
@[simp] theorem modCore_forming (s : State) (k : Nat) (f : Core → Core) : (s.modCore k f).forming = s.forming := rfl
@[simp] theorem modCore_insts (s : State) (k : Nat) (f : Core → Core) : (s.modCore k f).insts = s.insts := rfl
@[simp] theorem modCore_nextInst (s : State) (k : Nat) (f : Core → Core) : (s.modCore k f).nextInst = s.nextInst := rfl
@[simp] theorem modCore_nextFrame (s : State) (k : Nat) (f : Core → Core) : (s.modCore k f).nextFrame = s.nextFrame := rfl
@[simp] theorem modCore_pod (s : State) (k : Nat) (f : Core → Core) : (s.modCore k f).pod = s.pod := rfl
@[simp] theorem modCore_gangMsgs (s : State) (k : Nat) (f : Core → Core) : (s.modCore k f).gangMsgs = s.gangMsgs := rfl
@[simp] theorem modCore_away (s : State) (k : Nat) (f : Core → Core) : (s.modCore k f).away = s.away := rfl
@[simp] theorem modCore_arrivals (s : State) (k : Nat) (f : Core → Core) : (s.modCore k f).arrivals = s.arrivals := rfl
@[simp] theorem modCore_parkedMsgs (s : State) (k : Nat) (f : Core → Core) : (s.modCore k f).parkedMsgs = s.parkedMsgs := rfl
@[simp] theorem modCore_invs (s : State) (k : Nat) (f : Core → Core) : (s.modCore k f).invs = s.invs := rfl
@[simp] theorem modCore_remote (s : State) (k : Nat) (f : Core → Core) : (s.modCore k f).remote = s.remote := rfl
@[simp] theorem modCore_nextFar (s : State) (k : Nat) (f : Core → Core) : (s.modCore k f).nextFar = s.nextFar := rfl
@[simp] theorem modCore_asks (s : State) (k : Nat) (f : Core → Core) : (s.modCore k f).asks = s.asks := rfl
@[simp] theorem modCore_miss (s : State) (k : Nat) (f : Core → Core) : (s.modCore k f).miss = s.miss := rfl
@[simp] theorem modCore_farOut (s : State) (k : Nat) (f : Core → Core) : (s.modCore k f).farOut = s.farOut := rfl
@[simp] theorem modCore_farTo (s : State) (k : Nat) (f : Core → Core) : (s.modCore k f).farTo = s.farTo := rfl
@[simp] theorem modCore_farResv (s : State) (k : Nat) (f : Core → Core) : (s.modCore k f).farResv = s.farResv := rfl
@[simp] theorem modCore_qps (s : State) (k : Nat) (f : Core → Core) : (s.modCore k f).qps = s.qps := rfl
@[simp] theorem modCore_ports (s : State) (k : Nat) (f : Core → Core) : (s.modCore k f).ports = s.ports := rfl
@[simp] theorem modCore_col (s : State) (k : Nat) (f : Core → Core) : (s.modCore k f).col = s.col := rfl
@[simp] theorem modCore_paused (s : State) (k : Nat) (f : Core → Core) : (s.modCore k f).paused = s.paused := rfl
@[simp] theorem modCore_txWait (s : State) (k : Nat) (f : Core → Core) : (s.modCore k f).txWait = s.txWait := rfl
@[simp] theorem modCore_linksDown (s : State) (k : Nat) (f : Core → Core) : (s.modCore k f).linksDown = s.linksDown := rfl
@[simp] theorem modCore_outs (s : State) (k : Nat) (f : Core → Core) : (s.modCore k f).outs = s.outs := rfl

@[simp] theorem setClu_cycle (s : State) (k : Nat) (x : Clu) : (s.setClu k x).cycle = s.cycle := rfl
@[simp] theorem setClu_tick (s : State) (k : Nat) (x : Clu) : (s.setClu k x).tick = s.tick := rfl
@[simp] theorem setClu_fresh (s : State) (k : Nat) (x : Clu) : (s.setClu k x).fresh = s.fresh := rfl
@[simp] theorem setClu_agenda (s : State) (k : Nat) (x : Clu) : (s.setClu k x).agenda = s.agenda := rfl
@[simp] theorem setClu_cur (s : State) (k : Nat) (x : Clu) : (s.setClu k x).cur = s.cur := rfl
@[simp] theorem setClu_sub (s : State) (k : Nat) (x : Clu) : (s.setClu k x).sub = s.sub := rfl
@[simp] theorem setClu_site (s : State) (k : Nat) (x : Clu) : (s.setClu k x).site = s.site := rfl
@[simp] theorem setClu_slotNo (s : State) (k : Nat) (x : Clu) : (s.setClu k x).slotNo = s.slotNo := rfl
@[simp] theorem setClu_issued (s : State) (k : Nat) (x : Clu) : (s.setClu k x).issued = s.issued := rfl
@[simp] theorem setClu_done (s : State) (k : Nat) (x : Clu) : (s.setClu k x).done = s.done := rfl
@[simp] theorem setClu_pkg (s : State) (k : Nat) (x : Clu) : (s.setClu k x).pkg = s.pkg := rfl
@[simp] theorem setClu_mem (s : State) (k : Nat) (x : Clu) : (s.setClu k x).mem = s.mem := rfl
@[simp] theorem setClu_slots (s : State) (k : Nat) (x : Clu) : (s.setClu k x).slots = s.slots := rfl
@[simp] theorem setClu_cores (s : State) (k : Nat) (x : Clu) : (s.setClu k x).cores = s.cores := rfl
@[simp] theorem setClu_dies (s : State) (k : Nat) (x : Clu) : (s.setClu k x).dies = s.dies := rfl
@[simp] theorem setClu_regions (s : State) (k : Nat) (x : Clu) : (s.setClu k x).regions = s.regions := rfl
@[simp] theorem setClu_scanned (s : State) (k : Nat) (x : Clu) : (s.setClu k x).scanned = s.scanned := rfl
@[simp] theorem setClu_rgnOps (s : State) (k : Nat) (x : Clu) : (s.setClu k x).rgnOps = s.rgnOps := rfl
@[simp] theorem setClu_rgnResults (s : State) (k : Nat) (x : Clu) : (s.setClu k x).rgnResults = s.rgnResults := rfl
@[simp] theorem setClu_feq (s : State) (k : Nat) (x : Clu) : (s.setClu k x).feq = s.feq := rfl
@[simp] theorem setClu_jobs (s : State) (k : Nat) (x : Clu) : (s.setClu k x).jobs = s.jobs := rfl
@[simp] theorem setClu_nextJob (s : State) (k : Nat) (x : Clu) : (s.setClu k x).nextJob = s.nextJob := rfl
@[simp] theorem setClu_queued (s : State) (k : Nat) (x : Clu) : (s.setClu k x).queued = s.queued := rfl
@[simp] theorem setClu_openings (s : State) (k : Nat) (x : Clu) : (s.setClu k x).openings = s.openings := rfl
@[simp] theorem setClu_bars (s : State) (k : Nat) (x : Clu) : (s.setClu k x).bars = s.bars := rfl
@[simp] theorem setClu_groups (s : State) (k : Nat) (x : Clu) : (s.setClu k x).groups = s.groups := rfl
@[simp] theorem setClu_forming (s : State) (k : Nat) (x : Clu) : (s.setClu k x).forming = s.forming := rfl
@[simp] theorem setClu_insts (s : State) (k : Nat) (x : Clu) : (s.setClu k x).insts = s.insts := rfl
@[simp] theorem setClu_nextInst (s : State) (k : Nat) (x : Clu) : (s.setClu k x).nextInst = s.nextInst := rfl
@[simp] theorem setClu_nextFrame (s : State) (k : Nat) (x : Clu) : (s.setClu k x).nextFrame = s.nextFrame := rfl
@[simp] theorem setClu_pod (s : State) (k : Nat) (x : Clu) : (s.setClu k x).pod = s.pod := rfl
@[simp] theorem setClu_gangMsgs (s : State) (k : Nat) (x : Clu) : (s.setClu k x).gangMsgs = s.gangMsgs := rfl
@[simp] theorem setClu_away (s : State) (k : Nat) (x : Clu) : (s.setClu k x).away = s.away := rfl
@[simp] theorem setClu_arrivals (s : State) (k : Nat) (x : Clu) : (s.setClu k x).arrivals = s.arrivals := rfl
@[simp] theorem setClu_parkedMsgs (s : State) (k : Nat) (x : Clu) : (s.setClu k x).parkedMsgs = s.parkedMsgs := rfl
@[simp] theorem setClu_invs (s : State) (k : Nat) (x : Clu) : (s.setClu k x).invs = s.invs := rfl
@[simp] theorem setClu_remote (s : State) (k : Nat) (x : Clu) : (s.setClu k x).remote = s.remote := rfl
@[simp] theorem setClu_nextFar (s : State) (k : Nat) (x : Clu) : (s.setClu k x).nextFar = s.nextFar := rfl
@[simp] theorem setClu_asks (s : State) (k : Nat) (x : Clu) : (s.setClu k x).asks = s.asks := rfl
@[simp] theorem setClu_miss (s : State) (k : Nat) (x : Clu) : (s.setClu k x).miss = s.miss := rfl
@[simp] theorem setClu_farOut (s : State) (k : Nat) (x : Clu) : (s.setClu k x).farOut = s.farOut := rfl
@[simp] theorem setClu_farTo (s : State) (k : Nat) (x : Clu) : (s.setClu k x).farTo = s.farTo := rfl
@[simp] theorem setClu_farResv (s : State) (k : Nat) (x : Clu) : (s.setClu k x).farResv = s.farResv := rfl
@[simp] theorem setClu_qps (s : State) (k : Nat) (x : Clu) : (s.setClu k x).qps = s.qps := rfl
@[simp] theorem setClu_ports (s : State) (k : Nat) (x : Clu) : (s.setClu k x).ports = s.ports := rfl
@[simp] theorem setClu_col (s : State) (k : Nat) (x : Clu) : (s.setClu k x).col = s.col := rfl
@[simp] theorem setClu_paused (s : State) (k : Nat) (x : Clu) : (s.setClu k x).paused = s.paused := rfl
@[simp] theorem setClu_txWait (s : State) (k : Nat) (x : Clu) : (s.setClu k x).txWait = s.txWait := rfl
@[simp] theorem setClu_linksDown (s : State) (k : Nat) (x : Clu) : (s.setClu k x).linksDown = s.linksDown := rfl
@[simp] theorem setClu_outs (s : State) (k : Nat) (x : Clu) : (s.setClu k x).outs = s.outs := rfl

@[simp] theorem modClu_cycle (s : State) (k : Nat) (f : Clu → Clu) : (s.modClu k f).cycle = s.cycle := rfl
@[simp] theorem modClu_tick (s : State) (k : Nat) (f : Clu → Clu) : (s.modClu k f).tick = s.tick := rfl
@[simp] theorem modClu_fresh (s : State) (k : Nat) (f : Clu → Clu) : (s.modClu k f).fresh = s.fresh := rfl
@[simp] theorem modClu_agenda (s : State) (k : Nat) (f : Clu → Clu) : (s.modClu k f).agenda = s.agenda := rfl
@[simp] theorem modClu_cur (s : State) (k : Nat) (f : Clu → Clu) : (s.modClu k f).cur = s.cur := rfl
@[simp] theorem modClu_sub (s : State) (k : Nat) (f : Clu → Clu) : (s.modClu k f).sub = s.sub := rfl
@[simp] theorem modClu_site (s : State) (k : Nat) (f : Clu → Clu) : (s.modClu k f).site = s.site := rfl
@[simp] theorem modClu_slotNo (s : State) (k : Nat) (f : Clu → Clu) : (s.modClu k f).slotNo = s.slotNo := rfl
@[simp] theorem modClu_issued (s : State) (k : Nat) (f : Clu → Clu) : (s.modClu k f).issued = s.issued := rfl
@[simp] theorem modClu_done (s : State) (k : Nat) (f : Clu → Clu) : (s.modClu k f).done = s.done := rfl
@[simp] theorem modClu_pkg (s : State) (k : Nat) (f : Clu → Clu) : (s.modClu k f).pkg = s.pkg := rfl
@[simp] theorem modClu_mem (s : State) (k : Nat) (f : Clu → Clu) : (s.modClu k f).mem = s.mem := rfl
@[simp] theorem modClu_slots (s : State) (k : Nat) (f : Clu → Clu) : (s.modClu k f).slots = s.slots := rfl
@[simp] theorem modClu_cores (s : State) (k : Nat) (f : Clu → Clu) : (s.modClu k f).cores = s.cores := rfl
@[simp] theorem modClu_dies (s : State) (k : Nat) (f : Clu → Clu) : (s.modClu k f).dies = s.dies := rfl
@[simp] theorem modClu_regions (s : State) (k : Nat) (f : Clu → Clu) : (s.modClu k f).regions = s.regions := rfl
@[simp] theorem modClu_scanned (s : State) (k : Nat) (f : Clu → Clu) : (s.modClu k f).scanned = s.scanned := rfl
@[simp] theorem modClu_rgnOps (s : State) (k : Nat) (f : Clu → Clu) : (s.modClu k f).rgnOps = s.rgnOps := rfl
@[simp] theorem modClu_rgnResults (s : State) (k : Nat) (f : Clu → Clu) : (s.modClu k f).rgnResults = s.rgnResults := rfl
@[simp] theorem modClu_feq (s : State) (k : Nat) (f : Clu → Clu) : (s.modClu k f).feq = s.feq := rfl
@[simp] theorem modClu_jobs (s : State) (k : Nat) (f : Clu → Clu) : (s.modClu k f).jobs = s.jobs := rfl
@[simp] theorem modClu_nextJob (s : State) (k : Nat) (f : Clu → Clu) : (s.modClu k f).nextJob = s.nextJob := rfl
@[simp] theorem modClu_queued (s : State) (k : Nat) (f : Clu → Clu) : (s.modClu k f).queued = s.queued := rfl
@[simp] theorem modClu_openings (s : State) (k : Nat) (f : Clu → Clu) : (s.modClu k f).openings = s.openings := rfl
@[simp] theorem modClu_bars (s : State) (k : Nat) (f : Clu → Clu) : (s.modClu k f).bars = s.bars := rfl
@[simp] theorem modClu_groups (s : State) (k : Nat) (f : Clu → Clu) : (s.modClu k f).groups = s.groups := rfl
@[simp] theorem modClu_forming (s : State) (k : Nat) (f : Clu → Clu) : (s.modClu k f).forming = s.forming := rfl
@[simp] theorem modClu_insts (s : State) (k : Nat) (f : Clu → Clu) : (s.modClu k f).insts = s.insts := rfl
@[simp] theorem modClu_nextInst (s : State) (k : Nat) (f : Clu → Clu) : (s.modClu k f).nextInst = s.nextInst := rfl
@[simp] theorem modClu_nextFrame (s : State) (k : Nat) (f : Clu → Clu) : (s.modClu k f).nextFrame = s.nextFrame := rfl
@[simp] theorem modClu_pod (s : State) (k : Nat) (f : Clu → Clu) : (s.modClu k f).pod = s.pod := rfl
@[simp] theorem modClu_gangMsgs (s : State) (k : Nat) (f : Clu → Clu) : (s.modClu k f).gangMsgs = s.gangMsgs := rfl
@[simp] theorem modClu_away (s : State) (k : Nat) (f : Clu → Clu) : (s.modClu k f).away = s.away := rfl
@[simp] theorem modClu_arrivals (s : State) (k : Nat) (f : Clu → Clu) : (s.modClu k f).arrivals = s.arrivals := rfl
@[simp] theorem modClu_parkedMsgs (s : State) (k : Nat) (f : Clu → Clu) : (s.modClu k f).parkedMsgs = s.parkedMsgs := rfl
@[simp] theorem modClu_invs (s : State) (k : Nat) (f : Clu → Clu) : (s.modClu k f).invs = s.invs := rfl
@[simp] theorem modClu_remote (s : State) (k : Nat) (f : Clu → Clu) : (s.modClu k f).remote = s.remote := rfl
@[simp] theorem modClu_nextFar (s : State) (k : Nat) (f : Clu → Clu) : (s.modClu k f).nextFar = s.nextFar := rfl
@[simp] theorem modClu_asks (s : State) (k : Nat) (f : Clu → Clu) : (s.modClu k f).asks = s.asks := rfl
@[simp] theorem modClu_miss (s : State) (k : Nat) (f : Clu → Clu) : (s.modClu k f).miss = s.miss := rfl
@[simp] theorem modClu_farOut (s : State) (k : Nat) (f : Clu → Clu) : (s.modClu k f).farOut = s.farOut := rfl
@[simp] theorem modClu_farTo (s : State) (k : Nat) (f : Clu → Clu) : (s.modClu k f).farTo = s.farTo := rfl
@[simp] theorem modClu_farResv (s : State) (k : Nat) (f : Clu → Clu) : (s.modClu k f).farResv = s.farResv := rfl
@[simp] theorem modClu_qps (s : State) (k : Nat) (f : Clu → Clu) : (s.modClu k f).qps = s.qps := rfl
@[simp] theorem modClu_ports (s : State) (k : Nat) (f : Clu → Clu) : (s.modClu k f).ports = s.ports := rfl
@[simp] theorem modClu_col (s : State) (k : Nat) (f : Clu → Clu) : (s.modClu k f).col = s.col := rfl
@[simp] theorem modClu_paused (s : State) (k : Nat) (f : Clu → Clu) : (s.modClu k f).paused = s.paused := rfl
@[simp] theorem modClu_txWait (s : State) (k : Nat) (f : Clu → Clu) : (s.modClu k f).txWait = s.txWait := rfl
@[simp] theorem modClu_linksDown (s : State) (k : Nat) (f : Clu → Clu) : (s.modClu k f).linksDown = s.linksDown := rfl
@[simp] theorem modClu_outs (s : State) (k : Nat) (f : Clu → Clu) : (s.modClu k f).outs = s.outs := rfl

@[simp] theorem setDie_cycle (s : State) (k : Nat) (x : Die) : (s.setDie k x).cycle = s.cycle := rfl
@[simp] theorem setDie_tick (s : State) (k : Nat) (x : Die) : (s.setDie k x).tick = s.tick := rfl
@[simp] theorem setDie_fresh (s : State) (k : Nat) (x : Die) : (s.setDie k x).fresh = s.fresh := rfl
@[simp] theorem setDie_agenda (s : State) (k : Nat) (x : Die) : (s.setDie k x).agenda = s.agenda := rfl
@[simp] theorem setDie_cur (s : State) (k : Nat) (x : Die) : (s.setDie k x).cur = s.cur := rfl
@[simp] theorem setDie_sub (s : State) (k : Nat) (x : Die) : (s.setDie k x).sub = s.sub := rfl
@[simp] theorem setDie_site (s : State) (k : Nat) (x : Die) : (s.setDie k x).site = s.site := rfl
@[simp] theorem setDie_slotNo (s : State) (k : Nat) (x : Die) : (s.setDie k x).slotNo = s.slotNo := rfl
@[simp] theorem setDie_issued (s : State) (k : Nat) (x : Die) : (s.setDie k x).issued = s.issued := rfl
@[simp] theorem setDie_done (s : State) (k : Nat) (x : Die) : (s.setDie k x).done = s.done := rfl
@[simp] theorem setDie_pkg (s : State) (k : Nat) (x : Die) : (s.setDie k x).pkg = s.pkg := rfl
@[simp] theorem setDie_mem (s : State) (k : Nat) (x : Die) : (s.setDie k x).mem = s.mem := rfl
@[simp] theorem setDie_slots (s : State) (k : Nat) (x : Die) : (s.setDie k x).slots = s.slots := rfl
@[simp] theorem setDie_cores (s : State) (k : Nat) (x : Die) : (s.setDie k x).cores = s.cores := rfl
@[simp] theorem setDie_clus (s : State) (k : Nat) (x : Die) : (s.setDie k x).clus = s.clus := rfl
@[simp] theorem setDie_regions (s : State) (k : Nat) (x : Die) : (s.setDie k x).regions = s.regions := rfl
@[simp] theorem setDie_scanned (s : State) (k : Nat) (x : Die) : (s.setDie k x).scanned = s.scanned := rfl
@[simp] theorem setDie_rgnOps (s : State) (k : Nat) (x : Die) : (s.setDie k x).rgnOps = s.rgnOps := rfl
@[simp] theorem setDie_rgnResults (s : State) (k : Nat) (x : Die) : (s.setDie k x).rgnResults = s.rgnResults := rfl
@[simp] theorem setDie_feq (s : State) (k : Nat) (x : Die) : (s.setDie k x).feq = s.feq := rfl
@[simp] theorem setDie_jobs (s : State) (k : Nat) (x : Die) : (s.setDie k x).jobs = s.jobs := rfl
@[simp] theorem setDie_nextJob (s : State) (k : Nat) (x : Die) : (s.setDie k x).nextJob = s.nextJob := rfl
@[simp] theorem setDie_queued (s : State) (k : Nat) (x : Die) : (s.setDie k x).queued = s.queued := rfl
@[simp] theorem setDie_openings (s : State) (k : Nat) (x : Die) : (s.setDie k x).openings = s.openings := rfl
@[simp] theorem setDie_bars (s : State) (k : Nat) (x : Die) : (s.setDie k x).bars = s.bars := rfl
@[simp] theorem setDie_groups (s : State) (k : Nat) (x : Die) : (s.setDie k x).groups = s.groups := rfl
@[simp] theorem setDie_forming (s : State) (k : Nat) (x : Die) : (s.setDie k x).forming = s.forming := rfl
@[simp] theorem setDie_insts (s : State) (k : Nat) (x : Die) : (s.setDie k x).insts = s.insts := rfl
@[simp] theorem setDie_nextInst (s : State) (k : Nat) (x : Die) : (s.setDie k x).nextInst = s.nextInst := rfl
@[simp] theorem setDie_nextFrame (s : State) (k : Nat) (x : Die) : (s.setDie k x).nextFrame = s.nextFrame := rfl
@[simp] theorem setDie_pod (s : State) (k : Nat) (x : Die) : (s.setDie k x).pod = s.pod := rfl
@[simp] theorem setDie_gangMsgs (s : State) (k : Nat) (x : Die) : (s.setDie k x).gangMsgs = s.gangMsgs := rfl
@[simp] theorem setDie_away (s : State) (k : Nat) (x : Die) : (s.setDie k x).away = s.away := rfl
@[simp] theorem setDie_arrivals (s : State) (k : Nat) (x : Die) : (s.setDie k x).arrivals = s.arrivals := rfl
@[simp] theorem setDie_parkedMsgs (s : State) (k : Nat) (x : Die) : (s.setDie k x).parkedMsgs = s.parkedMsgs := rfl
@[simp] theorem setDie_invs (s : State) (k : Nat) (x : Die) : (s.setDie k x).invs = s.invs := rfl
@[simp] theorem setDie_remote (s : State) (k : Nat) (x : Die) : (s.setDie k x).remote = s.remote := rfl
@[simp] theorem setDie_nextFar (s : State) (k : Nat) (x : Die) : (s.setDie k x).nextFar = s.nextFar := rfl
@[simp] theorem setDie_asks (s : State) (k : Nat) (x : Die) : (s.setDie k x).asks = s.asks := rfl
@[simp] theorem setDie_miss (s : State) (k : Nat) (x : Die) : (s.setDie k x).miss = s.miss := rfl
@[simp] theorem setDie_farOut (s : State) (k : Nat) (x : Die) : (s.setDie k x).farOut = s.farOut := rfl
@[simp] theorem setDie_farTo (s : State) (k : Nat) (x : Die) : (s.setDie k x).farTo = s.farTo := rfl
@[simp] theorem setDie_farResv (s : State) (k : Nat) (x : Die) : (s.setDie k x).farResv = s.farResv := rfl
@[simp] theorem setDie_qps (s : State) (k : Nat) (x : Die) : (s.setDie k x).qps = s.qps := rfl
@[simp] theorem setDie_ports (s : State) (k : Nat) (x : Die) : (s.setDie k x).ports = s.ports := rfl
@[simp] theorem setDie_col (s : State) (k : Nat) (x : Die) : (s.setDie k x).col = s.col := rfl
@[simp] theorem setDie_paused (s : State) (k : Nat) (x : Die) : (s.setDie k x).paused = s.paused := rfl
@[simp] theorem setDie_txWait (s : State) (k : Nat) (x : Die) : (s.setDie k x).txWait = s.txWait := rfl
@[simp] theorem setDie_linksDown (s : State) (k : Nat) (x : Die) : (s.setDie k x).linksDown = s.linksDown := rfl
@[simp] theorem setDie_outs (s : State) (k : Nat) (x : Die) : (s.setDie k x).outs = s.outs := rfl

@[simp] theorem modDie_cycle (s : State) (k : Nat) (f : Die → Die) : (s.modDie k f).cycle = s.cycle := rfl
@[simp] theorem modDie_tick (s : State) (k : Nat) (f : Die → Die) : (s.modDie k f).tick = s.tick := rfl
@[simp] theorem modDie_fresh (s : State) (k : Nat) (f : Die → Die) : (s.modDie k f).fresh = s.fresh := rfl
@[simp] theorem modDie_agenda (s : State) (k : Nat) (f : Die → Die) : (s.modDie k f).agenda = s.agenda := rfl
@[simp] theorem modDie_cur (s : State) (k : Nat) (f : Die → Die) : (s.modDie k f).cur = s.cur := rfl
@[simp] theorem modDie_sub (s : State) (k : Nat) (f : Die → Die) : (s.modDie k f).sub = s.sub := rfl
@[simp] theorem modDie_site (s : State) (k : Nat) (f : Die → Die) : (s.modDie k f).site = s.site := rfl
@[simp] theorem modDie_slotNo (s : State) (k : Nat) (f : Die → Die) : (s.modDie k f).slotNo = s.slotNo := rfl
@[simp] theorem modDie_issued (s : State) (k : Nat) (f : Die → Die) : (s.modDie k f).issued = s.issued := rfl
@[simp] theorem modDie_done (s : State) (k : Nat) (f : Die → Die) : (s.modDie k f).done = s.done := rfl
@[simp] theorem modDie_pkg (s : State) (k : Nat) (f : Die → Die) : (s.modDie k f).pkg = s.pkg := rfl
@[simp] theorem modDie_mem (s : State) (k : Nat) (f : Die → Die) : (s.modDie k f).mem = s.mem := rfl
@[simp] theorem modDie_slots (s : State) (k : Nat) (f : Die → Die) : (s.modDie k f).slots = s.slots := rfl
@[simp] theorem modDie_cores (s : State) (k : Nat) (f : Die → Die) : (s.modDie k f).cores = s.cores := rfl
@[simp] theorem modDie_clus (s : State) (k : Nat) (f : Die → Die) : (s.modDie k f).clus = s.clus := rfl
@[simp] theorem modDie_regions (s : State) (k : Nat) (f : Die → Die) : (s.modDie k f).regions = s.regions := rfl
@[simp] theorem modDie_scanned (s : State) (k : Nat) (f : Die → Die) : (s.modDie k f).scanned = s.scanned := rfl
@[simp] theorem modDie_rgnOps (s : State) (k : Nat) (f : Die → Die) : (s.modDie k f).rgnOps = s.rgnOps := rfl
@[simp] theorem modDie_rgnResults (s : State) (k : Nat) (f : Die → Die) : (s.modDie k f).rgnResults = s.rgnResults := rfl
@[simp] theorem modDie_feq (s : State) (k : Nat) (f : Die → Die) : (s.modDie k f).feq = s.feq := rfl
@[simp] theorem modDie_jobs (s : State) (k : Nat) (f : Die → Die) : (s.modDie k f).jobs = s.jobs := rfl
@[simp] theorem modDie_nextJob (s : State) (k : Nat) (f : Die → Die) : (s.modDie k f).nextJob = s.nextJob := rfl
@[simp] theorem modDie_queued (s : State) (k : Nat) (f : Die → Die) : (s.modDie k f).queued = s.queued := rfl
@[simp] theorem modDie_openings (s : State) (k : Nat) (f : Die → Die) : (s.modDie k f).openings = s.openings := rfl
@[simp] theorem modDie_bars (s : State) (k : Nat) (f : Die → Die) : (s.modDie k f).bars = s.bars := rfl
@[simp] theorem modDie_groups (s : State) (k : Nat) (f : Die → Die) : (s.modDie k f).groups = s.groups := rfl
@[simp] theorem modDie_forming (s : State) (k : Nat) (f : Die → Die) : (s.modDie k f).forming = s.forming := rfl
@[simp] theorem modDie_insts (s : State) (k : Nat) (f : Die → Die) : (s.modDie k f).insts = s.insts := rfl
@[simp] theorem modDie_nextInst (s : State) (k : Nat) (f : Die → Die) : (s.modDie k f).nextInst = s.nextInst := rfl
@[simp] theorem modDie_nextFrame (s : State) (k : Nat) (f : Die → Die) : (s.modDie k f).nextFrame = s.nextFrame := rfl
@[simp] theorem modDie_pod (s : State) (k : Nat) (f : Die → Die) : (s.modDie k f).pod = s.pod := rfl
@[simp] theorem modDie_gangMsgs (s : State) (k : Nat) (f : Die → Die) : (s.modDie k f).gangMsgs = s.gangMsgs := rfl
@[simp] theorem modDie_away (s : State) (k : Nat) (f : Die → Die) : (s.modDie k f).away = s.away := rfl
@[simp] theorem modDie_arrivals (s : State) (k : Nat) (f : Die → Die) : (s.modDie k f).arrivals = s.arrivals := rfl
@[simp] theorem modDie_parkedMsgs (s : State) (k : Nat) (f : Die → Die) : (s.modDie k f).parkedMsgs = s.parkedMsgs := rfl
@[simp] theorem modDie_invs (s : State) (k : Nat) (f : Die → Die) : (s.modDie k f).invs = s.invs := rfl
@[simp] theorem modDie_remote (s : State) (k : Nat) (f : Die → Die) : (s.modDie k f).remote = s.remote := rfl
@[simp] theorem modDie_nextFar (s : State) (k : Nat) (f : Die → Die) : (s.modDie k f).nextFar = s.nextFar := rfl
@[simp] theorem modDie_asks (s : State) (k : Nat) (f : Die → Die) : (s.modDie k f).asks = s.asks := rfl
@[simp] theorem modDie_miss (s : State) (k : Nat) (f : Die → Die) : (s.modDie k f).miss = s.miss := rfl
@[simp] theorem modDie_farOut (s : State) (k : Nat) (f : Die → Die) : (s.modDie k f).farOut = s.farOut := rfl
@[simp] theorem modDie_farTo (s : State) (k : Nat) (f : Die → Die) : (s.modDie k f).farTo = s.farTo := rfl
@[simp] theorem modDie_farResv (s : State) (k : Nat) (f : Die → Die) : (s.modDie k f).farResv = s.farResv := rfl
@[simp] theorem modDie_qps (s : State) (k : Nat) (f : Die → Die) : (s.modDie k f).qps = s.qps := rfl
@[simp] theorem modDie_ports (s : State) (k : Nat) (f : Die → Die) : (s.modDie k f).ports = s.ports := rfl
@[simp] theorem modDie_col (s : State) (k : Nat) (f : Die → Die) : (s.modDie k f).col = s.col := rfl
@[simp] theorem modDie_paused (s : State) (k : Nat) (f : Die → Die) : (s.modDie k f).paused = s.paused := rfl
@[simp] theorem modDie_txWait (s : State) (k : Nat) (f : Die → Die) : (s.modDie k f).txWait = s.txWait := rfl
@[simp] theorem modDie_linksDown (s : State) (k : Nat) (f : Die → Die) : (s.modDie k f).linksDown = s.linksDown := rfl
@[simp] theorem modDie_outs (s : State) (k : Nat) (f : Die → Die) : (s.modDie k f).outs = s.outs := rfl

@[simp] theorem setMe_cycle (s : State) (t : Slot) : (s.setMe t).cycle = s.cycle := rfl
@[simp] theorem setMe_tick (s : State) (t : Slot) : (s.setMe t).tick = s.tick := rfl
@[simp] theorem setMe_fresh (s : State) (t : Slot) : (s.setMe t).fresh = s.fresh := rfl
@[simp] theorem setMe_agenda (s : State) (t : Slot) : (s.setMe t).agenda = s.agenda := rfl
@[simp] theorem setMe_cur (s : State) (t : Slot) : (s.setMe t).cur = s.cur := rfl
@[simp] theorem setMe_sub (s : State) (t : Slot) : (s.setMe t).sub = s.sub := rfl
@[simp] theorem setMe_site (s : State) (t : Slot) : (s.setMe t).site = s.site := rfl
@[simp] theorem setMe_slotNo (s : State) (t : Slot) : (s.setMe t).slotNo = s.slotNo := rfl
@[simp] theorem setMe_issued (s : State) (t : Slot) : (s.setMe t).issued = s.issued := rfl
@[simp] theorem setMe_done (s : State) (t : Slot) : (s.setMe t).done = s.done := rfl
@[simp] theorem setMe_pkg (s : State) (t : Slot) : (s.setMe t).pkg = s.pkg := rfl
@[simp] theorem setMe_mem (s : State) (t : Slot) : (s.setMe t).mem = s.mem := rfl
@[simp] theorem setMe_cores (s : State) (t : Slot) : (s.setMe t).cores = s.cores := rfl
@[simp] theorem setMe_clus (s : State) (t : Slot) : (s.setMe t).clus = s.clus := rfl
@[simp] theorem setMe_dies (s : State) (t : Slot) : (s.setMe t).dies = s.dies := rfl
@[simp] theorem setMe_regions (s : State) (t : Slot) : (s.setMe t).regions = s.regions := rfl
@[simp] theorem setMe_scanned (s : State) (t : Slot) : (s.setMe t).scanned = s.scanned := rfl
@[simp] theorem setMe_rgnOps (s : State) (t : Slot) : (s.setMe t).rgnOps = s.rgnOps := rfl
@[simp] theorem setMe_rgnResults (s : State) (t : Slot) : (s.setMe t).rgnResults = s.rgnResults := rfl
@[simp] theorem setMe_feq (s : State) (t : Slot) : (s.setMe t).feq = s.feq := rfl
@[simp] theorem setMe_jobs (s : State) (t : Slot) : (s.setMe t).jobs = s.jobs := rfl
@[simp] theorem setMe_nextJob (s : State) (t : Slot) : (s.setMe t).nextJob = s.nextJob := rfl
@[simp] theorem setMe_queued (s : State) (t : Slot) : (s.setMe t).queued = s.queued := rfl
@[simp] theorem setMe_openings (s : State) (t : Slot) : (s.setMe t).openings = s.openings := rfl
@[simp] theorem setMe_bars (s : State) (t : Slot) : (s.setMe t).bars = s.bars := rfl
@[simp] theorem setMe_groups (s : State) (t : Slot) : (s.setMe t).groups = s.groups := rfl
@[simp] theorem setMe_forming (s : State) (t : Slot) : (s.setMe t).forming = s.forming := rfl
@[simp] theorem setMe_insts (s : State) (t : Slot) : (s.setMe t).insts = s.insts := rfl
@[simp] theorem setMe_nextInst (s : State) (t : Slot) : (s.setMe t).nextInst = s.nextInst := rfl
@[simp] theorem setMe_nextFrame (s : State) (t : Slot) : (s.setMe t).nextFrame = s.nextFrame := rfl
@[simp] theorem setMe_pod (s : State) (t : Slot) : (s.setMe t).pod = s.pod := rfl
@[simp] theorem setMe_gangMsgs (s : State) (t : Slot) : (s.setMe t).gangMsgs = s.gangMsgs := rfl
@[simp] theorem setMe_away (s : State) (t : Slot) : (s.setMe t).away = s.away := rfl
@[simp] theorem setMe_arrivals (s : State) (t : Slot) : (s.setMe t).arrivals = s.arrivals := rfl
@[simp] theorem setMe_parkedMsgs (s : State) (t : Slot) : (s.setMe t).parkedMsgs = s.parkedMsgs := rfl
@[simp] theorem setMe_invs (s : State) (t : Slot) : (s.setMe t).invs = s.invs := rfl
@[simp] theorem setMe_remote (s : State) (t : Slot) : (s.setMe t).remote = s.remote := rfl
@[simp] theorem setMe_nextFar (s : State) (t : Slot) : (s.setMe t).nextFar = s.nextFar := rfl
@[simp] theorem setMe_asks (s : State) (t : Slot) : (s.setMe t).asks = s.asks := rfl
@[simp] theorem setMe_miss (s : State) (t : Slot) : (s.setMe t).miss = s.miss := rfl
@[simp] theorem setMe_farOut (s : State) (t : Slot) : (s.setMe t).farOut = s.farOut := rfl
@[simp] theorem setMe_farTo (s : State) (t : Slot) : (s.setMe t).farTo = s.farTo := rfl
@[simp] theorem setMe_farResv (s : State) (t : Slot) : (s.setMe t).farResv = s.farResv := rfl
@[simp] theorem setMe_qps (s : State) (t : Slot) : (s.setMe t).qps = s.qps := rfl
@[simp] theorem setMe_ports (s : State) (t : Slot) : (s.setMe t).ports = s.ports := rfl
@[simp] theorem setMe_col (s : State) (t : Slot) : (s.setMe t).col = s.col := rfl
@[simp] theorem setMe_paused (s : State) (t : Slot) : (s.setMe t).paused = s.paused := rfl
@[simp] theorem setMe_txWait (s : State) (t : Slot) : (s.setMe t).txWait = s.txWait := rfl
@[simp] theorem setMe_linksDown (s : State) (t : Slot) : (s.setMe t).linksDown = s.linksDown := rfl
@[simp] theorem setMe_outs (s : State) (t : Slot) : (s.setMe t).outs = s.outs := rfl

@[simp] theorem modMe_cycle (s : State) (f : Slot → Slot) : (s.modMe f).cycle = s.cycle := rfl
@[simp] theorem modMe_tick (s : State) (f : Slot → Slot) : (s.modMe f).tick = s.tick := rfl
@[simp] theorem modMe_fresh (s : State) (f : Slot → Slot) : (s.modMe f).fresh = s.fresh := rfl
@[simp] theorem modMe_agenda (s : State) (f : Slot → Slot) : (s.modMe f).agenda = s.agenda := rfl
@[simp] theorem modMe_cur (s : State) (f : Slot → Slot) : (s.modMe f).cur = s.cur := rfl
@[simp] theorem modMe_sub (s : State) (f : Slot → Slot) : (s.modMe f).sub = s.sub := rfl
@[simp] theorem modMe_site (s : State) (f : Slot → Slot) : (s.modMe f).site = s.site := rfl
@[simp] theorem modMe_slotNo (s : State) (f : Slot → Slot) : (s.modMe f).slotNo = s.slotNo := rfl
@[simp] theorem modMe_issued (s : State) (f : Slot → Slot) : (s.modMe f).issued = s.issued := rfl
@[simp] theorem modMe_done (s : State) (f : Slot → Slot) : (s.modMe f).done = s.done := rfl
@[simp] theorem modMe_pkg (s : State) (f : Slot → Slot) : (s.modMe f).pkg = s.pkg := rfl
@[simp] theorem modMe_mem (s : State) (f : Slot → Slot) : (s.modMe f).mem = s.mem := rfl
@[simp] theorem modMe_cores (s : State) (f : Slot → Slot) : (s.modMe f).cores = s.cores := rfl
@[simp] theorem modMe_clus (s : State) (f : Slot → Slot) : (s.modMe f).clus = s.clus := rfl
@[simp] theorem modMe_dies (s : State) (f : Slot → Slot) : (s.modMe f).dies = s.dies := rfl
@[simp] theorem modMe_regions (s : State) (f : Slot → Slot) : (s.modMe f).regions = s.regions := rfl
@[simp] theorem modMe_scanned (s : State) (f : Slot → Slot) : (s.modMe f).scanned = s.scanned := rfl
@[simp] theorem modMe_rgnOps (s : State) (f : Slot → Slot) : (s.modMe f).rgnOps = s.rgnOps := rfl
@[simp] theorem modMe_rgnResults (s : State) (f : Slot → Slot) : (s.modMe f).rgnResults = s.rgnResults := rfl
@[simp] theorem modMe_feq (s : State) (f : Slot → Slot) : (s.modMe f).feq = s.feq := rfl
@[simp] theorem modMe_jobs (s : State) (f : Slot → Slot) : (s.modMe f).jobs = s.jobs := rfl
@[simp] theorem modMe_nextJob (s : State) (f : Slot → Slot) : (s.modMe f).nextJob = s.nextJob := rfl
@[simp] theorem modMe_queued (s : State) (f : Slot → Slot) : (s.modMe f).queued = s.queued := rfl
@[simp] theorem modMe_openings (s : State) (f : Slot → Slot) : (s.modMe f).openings = s.openings := rfl
@[simp] theorem modMe_bars (s : State) (f : Slot → Slot) : (s.modMe f).bars = s.bars := rfl
@[simp] theorem modMe_groups (s : State) (f : Slot → Slot) : (s.modMe f).groups = s.groups := rfl
@[simp] theorem modMe_forming (s : State) (f : Slot → Slot) : (s.modMe f).forming = s.forming := rfl
@[simp] theorem modMe_insts (s : State) (f : Slot → Slot) : (s.modMe f).insts = s.insts := rfl
@[simp] theorem modMe_nextInst (s : State) (f : Slot → Slot) : (s.modMe f).nextInst = s.nextInst := rfl
@[simp] theorem modMe_nextFrame (s : State) (f : Slot → Slot) : (s.modMe f).nextFrame = s.nextFrame := rfl
@[simp] theorem modMe_pod (s : State) (f : Slot → Slot) : (s.modMe f).pod = s.pod := rfl
@[simp] theorem modMe_gangMsgs (s : State) (f : Slot → Slot) : (s.modMe f).gangMsgs = s.gangMsgs := rfl
@[simp] theorem modMe_away (s : State) (f : Slot → Slot) : (s.modMe f).away = s.away := rfl
@[simp] theorem modMe_arrivals (s : State) (f : Slot → Slot) : (s.modMe f).arrivals = s.arrivals := rfl
@[simp] theorem modMe_parkedMsgs (s : State) (f : Slot → Slot) : (s.modMe f).parkedMsgs = s.parkedMsgs := rfl
@[simp] theorem modMe_invs (s : State) (f : Slot → Slot) : (s.modMe f).invs = s.invs := rfl
@[simp] theorem modMe_remote (s : State) (f : Slot → Slot) : (s.modMe f).remote = s.remote := rfl
@[simp] theorem modMe_nextFar (s : State) (f : Slot → Slot) : (s.modMe f).nextFar = s.nextFar := rfl
@[simp] theorem modMe_asks (s : State) (f : Slot → Slot) : (s.modMe f).asks = s.asks := rfl
@[simp] theorem modMe_miss (s : State) (f : Slot → Slot) : (s.modMe f).miss = s.miss := rfl
@[simp] theorem modMe_farOut (s : State) (f : Slot → Slot) : (s.modMe f).farOut = s.farOut := rfl
@[simp] theorem modMe_farTo (s : State) (f : Slot → Slot) : (s.modMe f).farTo = s.farTo := rfl
@[simp] theorem modMe_farResv (s : State) (f : Slot → Slot) : (s.modMe f).farResv = s.farResv := rfl
@[simp] theorem modMe_qps (s : State) (f : Slot → Slot) : (s.modMe f).qps = s.qps := rfl
@[simp] theorem modMe_ports (s : State) (f : Slot → Slot) : (s.modMe f).ports = s.ports := rfl
@[simp] theorem modMe_col (s : State) (f : Slot → Slot) : (s.modMe f).col = s.col := rfl
@[simp] theorem modMe_paused (s : State) (f : Slot → Slot) : (s.modMe f).paused = s.paused := rfl
@[simp] theorem modMe_txWait (s : State) (f : Slot → Slot) : (s.modMe f).txWait = s.txWait := rfl
@[simp] theorem modMe_linksDown (s : State) (f : Slot → Slot) : (s.modMe f).linksDown = s.linksDown := rfl
@[simp] theorem modMe_outs (s : State) (f : Slot → Slot) : (s.modMe f).outs = s.outs := rfl

@[simp] theorem setX_cycle (s : State) (r : BitVec 5) (v : Word) : (s.setX r v).cycle = s.cycle := rfl
@[simp] theorem setX_tick (s : State) (r : BitVec 5) (v : Word) : (s.setX r v).tick = s.tick := rfl
@[simp] theorem setX_fresh (s : State) (r : BitVec 5) (v : Word) : (s.setX r v).fresh = s.fresh := rfl
@[simp] theorem setX_agenda (s : State) (r : BitVec 5) (v : Word) : (s.setX r v).agenda = s.agenda := rfl
@[simp] theorem setX_cur (s : State) (r : BitVec 5) (v : Word) : (s.setX r v).cur = s.cur := rfl
@[simp] theorem setX_sub (s : State) (r : BitVec 5) (v : Word) : (s.setX r v).sub = s.sub := rfl
@[simp] theorem setX_site (s : State) (r : BitVec 5) (v : Word) : (s.setX r v).site = s.site := rfl
@[simp] theorem setX_slotNo (s : State) (r : BitVec 5) (v : Word) : (s.setX r v).slotNo = s.slotNo := rfl
@[simp] theorem setX_issued (s : State) (r : BitVec 5) (v : Word) : (s.setX r v).issued = s.issued := rfl
@[simp] theorem setX_done (s : State) (r : BitVec 5) (v : Word) : (s.setX r v).done = s.done := rfl
@[simp] theorem setX_pkg (s : State) (r : BitVec 5) (v : Word) : (s.setX r v).pkg = s.pkg := rfl
@[simp] theorem setX_mem (s : State) (r : BitVec 5) (v : Word) : (s.setX r v).mem = s.mem := rfl
@[simp] theorem setX_cores (s : State) (r : BitVec 5) (v : Word) : (s.setX r v).cores = s.cores := rfl
@[simp] theorem setX_clus (s : State) (r : BitVec 5) (v : Word) : (s.setX r v).clus = s.clus := rfl
@[simp] theorem setX_dies (s : State) (r : BitVec 5) (v : Word) : (s.setX r v).dies = s.dies := rfl
@[simp] theorem setX_regions (s : State) (r : BitVec 5) (v : Word) : (s.setX r v).regions = s.regions := rfl
@[simp] theorem setX_scanned (s : State) (r : BitVec 5) (v : Word) : (s.setX r v).scanned = s.scanned := rfl
@[simp] theorem setX_rgnOps (s : State) (r : BitVec 5) (v : Word) : (s.setX r v).rgnOps = s.rgnOps := rfl
@[simp] theorem setX_rgnResults (s : State) (r : BitVec 5) (v : Word) : (s.setX r v).rgnResults = s.rgnResults := rfl
@[simp] theorem setX_feq (s : State) (r : BitVec 5) (v : Word) : (s.setX r v).feq = s.feq := rfl
@[simp] theorem setX_jobs (s : State) (r : BitVec 5) (v : Word) : (s.setX r v).jobs = s.jobs := rfl
@[simp] theorem setX_nextJob (s : State) (r : BitVec 5) (v : Word) : (s.setX r v).nextJob = s.nextJob := rfl
@[simp] theorem setX_queued (s : State) (r : BitVec 5) (v : Word) : (s.setX r v).queued = s.queued := rfl
@[simp] theorem setX_openings (s : State) (r : BitVec 5) (v : Word) : (s.setX r v).openings = s.openings := rfl
@[simp] theorem setX_bars (s : State) (r : BitVec 5) (v : Word) : (s.setX r v).bars = s.bars := rfl
@[simp] theorem setX_groups (s : State) (r : BitVec 5) (v : Word) : (s.setX r v).groups = s.groups := rfl
@[simp] theorem setX_forming (s : State) (r : BitVec 5) (v : Word) : (s.setX r v).forming = s.forming := rfl
@[simp] theorem setX_insts (s : State) (r : BitVec 5) (v : Word) : (s.setX r v).insts = s.insts := rfl
@[simp] theorem setX_nextInst (s : State) (r : BitVec 5) (v : Word) : (s.setX r v).nextInst = s.nextInst := rfl
@[simp] theorem setX_nextFrame (s : State) (r : BitVec 5) (v : Word) : (s.setX r v).nextFrame = s.nextFrame := rfl
@[simp] theorem setX_pod (s : State) (r : BitVec 5) (v : Word) : (s.setX r v).pod = s.pod := rfl
@[simp] theorem setX_gangMsgs (s : State) (r : BitVec 5) (v : Word) : (s.setX r v).gangMsgs = s.gangMsgs := rfl
@[simp] theorem setX_away (s : State) (r : BitVec 5) (v : Word) : (s.setX r v).away = s.away := rfl
@[simp] theorem setX_arrivals (s : State) (r : BitVec 5) (v : Word) : (s.setX r v).arrivals = s.arrivals := rfl
@[simp] theorem setX_parkedMsgs (s : State) (r : BitVec 5) (v : Word) : (s.setX r v).parkedMsgs = s.parkedMsgs := rfl
@[simp] theorem setX_invs (s : State) (r : BitVec 5) (v : Word) : (s.setX r v).invs = s.invs := rfl
@[simp] theorem setX_remote (s : State) (r : BitVec 5) (v : Word) : (s.setX r v).remote = s.remote := rfl
@[simp] theorem setX_nextFar (s : State) (r : BitVec 5) (v : Word) : (s.setX r v).nextFar = s.nextFar := rfl
@[simp] theorem setX_asks (s : State) (r : BitVec 5) (v : Word) : (s.setX r v).asks = s.asks := rfl
@[simp] theorem setX_miss (s : State) (r : BitVec 5) (v : Word) : (s.setX r v).miss = s.miss := rfl
@[simp] theorem setX_farOut (s : State) (r : BitVec 5) (v : Word) : (s.setX r v).farOut = s.farOut := rfl
@[simp] theorem setX_farTo (s : State) (r : BitVec 5) (v : Word) : (s.setX r v).farTo = s.farTo := rfl
@[simp] theorem setX_farResv (s : State) (r : BitVec 5) (v : Word) : (s.setX r v).farResv = s.farResv := rfl
@[simp] theorem setX_qps (s : State) (r : BitVec 5) (v : Word) : (s.setX r v).qps = s.qps := rfl
@[simp] theorem setX_ports (s : State) (r : BitVec 5) (v : Word) : (s.setX r v).ports = s.ports := rfl
@[simp] theorem setX_col (s : State) (r : BitVec 5) (v : Word) : (s.setX r v).col = s.col := rfl
@[simp] theorem setX_paused (s : State) (r : BitVec 5) (v : Word) : (s.setX r v).paused = s.paused := rfl
@[simp] theorem setX_txWait (s : State) (r : BitVec 5) (v : Word) : (s.setX r v).txWait = s.txWait := rfl
@[simp] theorem setX_linksDown (s : State) (r : BitVec 5) (v : Word) : (s.setX r v).linksDown = s.linksDown := rfl
@[simp] theorem setX_outs (s : State) (r : BitVec 5) (v : Word) : (s.setX r v).outs = s.outs := rfl

@[simp] theorem setH_cycle (s : State) (r : BitVec 4) (v : Word) : (s.setH r v).cycle = s.cycle := rfl
@[simp] theorem setH_tick (s : State) (r : BitVec 4) (v : Word) : (s.setH r v).tick = s.tick := rfl
@[simp] theorem setH_fresh (s : State) (r : BitVec 4) (v : Word) : (s.setH r v).fresh = s.fresh := rfl
@[simp] theorem setH_agenda (s : State) (r : BitVec 4) (v : Word) : (s.setH r v).agenda = s.agenda := rfl
@[simp] theorem setH_cur (s : State) (r : BitVec 4) (v : Word) : (s.setH r v).cur = s.cur := rfl
@[simp] theorem setH_sub (s : State) (r : BitVec 4) (v : Word) : (s.setH r v).sub = s.sub := rfl
@[simp] theorem setH_site (s : State) (r : BitVec 4) (v : Word) : (s.setH r v).site = s.site := rfl
@[simp] theorem setH_slotNo (s : State) (r : BitVec 4) (v : Word) : (s.setH r v).slotNo = s.slotNo := rfl
@[simp] theorem setH_issued (s : State) (r : BitVec 4) (v : Word) : (s.setH r v).issued = s.issued := rfl
@[simp] theorem setH_done (s : State) (r : BitVec 4) (v : Word) : (s.setH r v).done = s.done := rfl
@[simp] theorem setH_pkg (s : State) (r : BitVec 4) (v : Word) : (s.setH r v).pkg = s.pkg := rfl
@[simp] theorem setH_mem (s : State) (r : BitVec 4) (v : Word) : (s.setH r v).mem = s.mem := rfl
@[simp] theorem setH_cores (s : State) (r : BitVec 4) (v : Word) : (s.setH r v).cores = s.cores := rfl
@[simp] theorem setH_clus (s : State) (r : BitVec 4) (v : Word) : (s.setH r v).clus = s.clus := rfl
@[simp] theorem setH_dies (s : State) (r : BitVec 4) (v : Word) : (s.setH r v).dies = s.dies := rfl
@[simp] theorem setH_regions (s : State) (r : BitVec 4) (v : Word) : (s.setH r v).regions = s.regions := rfl
@[simp] theorem setH_scanned (s : State) (r : BitVec 4) (v : Word) : (s.setH r v).scanned = s.scanned := rfl
@[simp] theorem setH_rgnOps (s : State) (r : BitVec 4) (v : Word) : (s.setH r v).rgnOps = s.rgnOps := rfl
@[simp] theorem setH_rgnResults (s : State) (r : BitVec 4) (v : Word) : (s.setH r v).rgnResults = s.rgnResults := rfl
@[simp] theorem setH_feq (s : State) (r : BitVec 4) (v : Word) : (s.setH r v).feq = s.feq := rfl
@[simp] theorem setH_jobs (s : State) (r : BitVec 4) (v : Word) : (s.setH r v).jobs = s.jobs := rfl
@[simp] theorem setH_nextJob (s : State) (r : BitVec 4) (v : Word) : (s.setH r v).nextJob = s.nextJob := rfl
@[simp] theorem setH_queued (s : State) (r : BitVec 4) (v : Word) : (s.setH r v).queued = s.queued := rfl
@[simp] theorem setH_openings (s : State) (r : BitVec 4) (v : Word) : (s.setH r v).openings = s.openings := rfl
@[simp] theorem setH_bars (s : State) (r : BitVec 4) (v : Word) : (s.setH r v).bars = s.bars := rfl
@[simp] theorem setH_groups (s : State) (r : BitVec 4) (v : Word) : (s.setH r v).groups = s.groups := rfl
@[simp] theorem setH_forming (s : State) (r : BitVec 4) (v : Word) : (s.setH r v).forming = s.forming := rfl
@[simp] theorem setH_insts (s : State) (r : BitVec 4) (v : Word) : (s.setH r v).insts = s.insts := rfl
@[simp] theorem setH_nextInst (s : State) (r : BitVec 4) (v : Word) : (s.setH r v).nextInst = s.nextInst := rfl
@[simp] theorem setH_nextFrame (s : State) (r : BitVec 4) (v : Word) : (s.setH r v).nextFrame = s.nextFrame := rfl
@[simp] theorem setH_pod (s : State) (r : BitVec 4) (v : Word) : (s.setH r v).pod = s.pod := rfl
@[simp] theorem setH_gangMsgs (s : State) (r : BitVec 4) (v : Word) : (s.setH r v).gangMsgs = s.gangMsgs := rfl
@[simp] theorem setH_away (s : State) (r : BitVec 4) (v : Word) : (s.setH r v).away = s.away := rfl
@[simp] theorem setH_arrivals (s : State) (r : BitVec 4) (v : Word) : (s.setH r v).arrivals = s.arrivals := rfl
@[simp] theorem setH_parkedMsgs (s : State) (r : BitVec 4) (v : Word) : (s.setH r v).parkedMsgs = s.parkedMsgs := rfl
@[simp] theorem setH_invs (s : State) (r : BitVec 4) (v : Word) : (s.setH r v).invs = s.invs := rfl
@[simp] theorem setH_remote (s : State) (r : BitVec 4) (v : Word) : (s.setH r v).remote = s.remote := rfl
@[simp] theorem setH_nextFar (s : State) (r : BitVec 4) (v : Word) : (s.setH r v).nextFar = s.nextFar := rfl
@[simp] theorem setH_asks (s : State) (r : BitVec 4) (v : Word) : (s.setH r v).asks = s.asks := rfl
@[simp] theorem setH_miss (s : State) (r : BitVec 4) (v : Word) : (s.setH r v).miss = s.miss := rfl
@[simp] theorem setH_farOut (s : State) (r : BitVec 4) (v : Word) : (s.setH r v).farOut = s.farOut := rfl
@[simp] theorem setH_farTo (s : State) (r : BitVec 4) (v : Word) : (s.setH r v).farTo = s.farTo := rfl
@[simp] theorem setH_farResv (s : State) (r : BitVec 4) (v : Word) : (s.setH r v).farResv = s.farResv := rfl
@[simp] theorem setH_qps (s : State) (r : BitVec 4) (v : Word) : (s.setH r v).qps = s.qps := rfl
@[simp] theorem setH_ports (s : State) (r : BitVec 4) (v : Word) : (s.setH r v).ports = s.ports := rfl
@[simp] theorem setH_col (s : State) (r : BitVec 4) (v : Word) : (s.setH r v).col = s.col := rfl
@[simp] theorem setH_paused (s : State) (r : BitVec 4) (v : Word) : (s.setH r v).paused = s.paused := rfl
@[simp] theorem setH_txWait (s : State) (r : BitVec 4) (v : Word) : (s.setH r v).txWait = s.txWait := rfl
@[simp] theorem setH_linksDown (s : State) (r : BitVec 4) (v : Word) : (s.setH r v).linksDown = s.linksDown := rfl
@[simp] theorem setH_outs (s : State) (r : BitVec 4) (v : Word) : (s.setH r v).outs = s.outs := rfl

@[simp] theorem retire_cycle (s : State) (n : Nat) : (s.retire n).cycle = s.cycle := rfl
@[simp] theorem retire_tick (s : State) (n : Nat) : (s.retire n).tick = s.tick := rfl
@[simp] theorem retire_fresh (s : State) (n : Nat) : (s.retire n).fresh = s.fresh := rfl
@[simp] theorem retire_agenda (s : State) (n : Nat) : (s.retire n).agenda = s.agenda := rfl
@[simp] theorem retire_cur (s : State) (n : Nat) : (s.retire n).cur = s.cur := rfl
@[simp] theorem retire_sub (s : State) (n : Nat) : (s.retire n).sub = s.sub := rfl
@[simp] theorem retire_site (s : State) (n : Nat) : (s.retire n).site = s.site := rfl
@[simp] theorem retire_slotNo (s : State) (n : Nat) : (s.retire n).slotNo = s.slotNo := rfl
@[simp] theorem retire_issued (s : State) (n : Nat) : (s.retire n).issued = s.issued := rfl
@[simp] theorem retire_done (s : State) (n : Nat) : (s.retire n).done = s.done := rfl
@[simp] theorem retire_pkg (s : State) (n : Nat) : (s.retire n).pkg = s.pkg := rfl
@[simp] theorem retire_mem (s : State) (n : Nat) : (s.retire n).mem = s.mem := rfl
@[simp] theorem retire_cores (s : State) (n : Nat) : (s.retire n).cores = s.cores := rfl
@[simp] theorem retire_clus (s : State) (n : Nat) : (s.retire n).clus = s.clus := rfl
@[simp] theorem retire_dies (s : State) (n : Nat) : (s.retire n).dies = s.dies := rfl
@[simp] theorem retire_regions (s : State) (n : Nat) : (s.retire n).regions = s.regions := rfl
@[simp] theorem retire_scanned (s : State) (n : Nat) : (s.retire n).scanned = s.scanned := rfl
@[simp] theorem retire_rgnOps (s : State) (n : Nat) : (s.retire n).rgnOps = s.rgnOps := rfl
@[simp] theorem retire_rgnResults (s : State) (n : Nat) : (s.retire n).rgnResults = s.rgnResults := rfl
@[simp] theorem retire_feq (s : State) (n : Nat) : (s.retire n).feq = s.feq := rfl
@[simp] theorem retire_jobs (s : State) (n : Nat) : (s.retire n).jobs = s.jobs := rfl
@[simp] theorem retire_nextJob (s : State) (n : Nat) : (s.retire n).nextJob = s.nextJob := rfl
@[simp] theorem retire_queued (s : State) (n : Nat) : (s.retire n).queued = s.queued := rfl
@[simp] theorem retire_openings (s : State) (n : Nat) : (s.retire n).openings = s.openings := rfl
@[simp] theorem retire_bars (s : State) (n : Nat) : (s.retire n).bars = s.bars := rfl
@[simp] theorem retire_groups (s : State) (n : Nat) : (s.retire n).groups = s.groups := rfl
@[simp] theorem retire_forming (s : State) (n : Nat) : (s.retire n).forming = s.forming := rfl
@[simp] theorem retire_insts (s : State) (n : Nat) : (s.retire n).insts = s.insts := rfl
@[simp] theorem retire_nextInst (s : State) (n : Nat) : (s.retire n).nextInst = s.nextInst := rfl
@[simp] theorem retire_nextFrame (s : State) (n : Nat) : (s.retire n).nextFrame = s.nextFrame := rfl
@[simp] theorem retire_pod (s : State) (n : Nat) : (s.retire n).pod = s.pod := rfl
@[simp] theorem retire_gangMsgs (s : State) (n : Nat) : (s.retire n).gangMsgs = s.gangMsgs := rfl
@[simp] theorem retire_away (s : State) (n : Nat) : (s.retire n).away = s.away := rfl
@[simp] theorem retire_arrivals (s : State) (n : Nat) : (s.retire n).arrivals = s.arrivals := rfl
@[simp] theorem retire_parkedMsgs (s : State) (n : Nat) : (s.retire n).parkedMsgs = s.parkedMsgs := rfl
@[simp] theorem retire_invs (s : State) (n : Nat) : (s.retire n).invs = s.invs := rfl
@[simp] theorem retire_remote (s : State) (n : Nat) : (s.retire n).remote = s.remote := rfl
@[simp] theorem retire_nextFar (s : State) (n : Nat) : (s.retire n).nextFar = s.nextFar := rfl
@[simp] theorem retire_asks (s : State) (n : Nat) : (s.retire n).asks = s.asks := rfl
@[simp] theorem retire_miss (s : State) (n : Nat) : (s.retire n).miss = s.miss := rfl
@[simp] theorem retire_farOut (s : State) (n : Nat) : (s.retire n).farOut = s.farOut := rfl
@[simp] theorem retire_farTo (s : State) (n : Nat) : (s.retire n).farTo = s.farTo := rfl
@[simp] theorem retire_farResv (s : State) (n : Nat) : (s.retire n).farResv = s.farResv := rfl
@[simp] theorem retire_qps (s : State) (n : Nat) : (s.retire n).qps = s.qps := rfl
@[simp] theorem retire_ports (s : State) (n : Nat) : (s.retire n).ports = s.ports := rfl
@[simp] theorem retire_col (s : State) (n : Nat) : (s.retire n).col = s.col := rfl
@[simp] theorem retire_paused (s : State) (n : Nat) : (s.retire n).paused = s.paused := rfl
@[simp] theorem retire_txWait (s : State) (n : Nat) : (s.retire n).txWait = s.txWait := rfl
@[simp] theorem retire_linksDown (s : State) (n : Nat) : (s.retire n).linksDown = s.linksDown := rfl
@[simp] theorem retire_outs (s : State) (n : Nat) : (s.retire n).outs = s.outs := rfl

@[simp] theorem jump_cycle (s : State) (pc : Word) : (s.jump pc).cycle = s.cycle := rfl
@[simp] theorem jump_tick (s : State) (pc : Word) : (s.jump pc).tick = s.tick := rfl
@[simp] theorem jump_fresh (s : State) (pc : Word) : (s.jump pc).fresh = s.fresh := rfl
@[simp] theorem jump_agenda (s : State) (pc : Word) : (s.jump pc).agenda = s.agenda := rfl
@[simp] theorem jump_cur (s : State) (pc : Word) : (s.jump pc).cur = s.cur := rfl
@[simp] theorem jump_sub (s : State) (pc : Word) : (s.jump pc).sub = s.sub := rfl
@[simp] theorem jump_site (s : State) (pc : Word) : (s.jump pc).site = s.site := rfl
@[simp] theorem jump_slotNo (s : State) (pc : Word) : (s.jump pc).slotNo = s.slotNo := rfl
@[simp] theorem jump_issued (s : State) (pc : Word) : (s.jump pc).issued = s.issued := rfl
@[simp] theorem jump_done (s : State) (pc : Word) : (s.jump pc).done = s.done := rfl
@[simp] theorem jump_pkg (s : State) (pc : Word) : (s.jump pc).pkg = s.pkg := rfl
@[simp] theorem jump_mem (s : State) (pc : Word) : (s.jump pc).mem = s.mem := rfl
@[simp] theorem jump_cores (s : State) (pc : Word) : (s.jump pc).cores = s.cores := rfl
@[simp] theorem jump_clus (s : State) (pc : Word) : (s.jump pc).clus = s.clus := rfl
@[simp] theorem jump_dies (s : State) (pc : Word) : (s.jump pc).dies = s.dies := rfl
@[simp] theorem jump_regions (s : State) (pc : Word) : (s.jump pc).regions = s.regions := rfl
@[simp] theorem jump_scanned (s : State) (pc : Word) : (s.jump pc).scanned = s.scanned := rfl
@[simp] theorem jump_rgnOps (s : State) (pc : Word) : (s.jump pc).rgnOps = s.rgnOps := rfl
@[simp] theorem jump_rgnResults (s : State) (pc : Word) : (s.jump pc).rgnResults = s.rgnResults := rfl
@[simp] theorem jump_feq (s : State) (pc : Word) : (s.jump pc).feq = s.feq := rfl
@[simp] theorem jump_jobs (s : State) (pc : Word) : (s.jump pc).jobs = s.jobs := rfl
@[simp] theorem jump_nextJob (s : State) (pc : Word) : (s.jump pc).nextJob = s.nextJob := rfl
@[simp] theorem jump_queued (s : State) (pc : Word) : (s.jump pc).queued = s.queued := rfl
@[simp] theorem jump_openings (s : State) (pc : Word) : (s.jump pc).openings = s.openings := rfl
@[simp] theorem jump_bars (s : State) (pc : Word) : (s.jump pc).bars = s.bars := rfl
@[simp] theorem jump_groups (s : State) (pc : Word) : (s.jump pc).groups = s.groups := rfl
@[simp] theorem jump_forming (s : State) (pc : Word) : (s.jump pc).forming = s.forming := rfl
@[simp] theorem jump_insts (s : State) (pc : Word) : (s.jump pc).insts = s.insts := rfl
@[simp] theorem jump_nextInst (s : State) (pc : Word) : (s.jump pc).nextInst = s.nextInst := rfl
@[simp] theorem jump_nextFrame (s : State) (pc : Word) : (s.jump pc).nextFrame = s.nextFrame := rfl
@[simp] theorem jump_pod (s : State) (pc : Word) : (s.jump pc).pod = s.pod := rfl
@[simp] theorem jump_gangMsgs (s : State) (pc : Word) : (s.jump pc).gangMsgs = s.gangMsgs := rfl
@[simp] theorem jump_away (s : State) (pc : Word) : (s.jump pc).away = s.away := rfl
@[simp] theorem jump_arrivals (s : State) (pc : Word) : (s.jump pc).arrivals = s.arrivals := rfl
@[simp] theorem jump_parkedMsgs (s : State) (pc : Word) : (s.jump pc).parkedMsgs = s.parkedMsgs := rfl
@[simp] theorem jump_invs (s : State) (pc : Word) : (s.jump pc).invs = s.invs := rfl
@[simp] theorem jump_remote (s : State) (pc : Word) : (s.jump pc).remote = s.remote := rfl
@[simp] theorem jump_nextFar (s : State) (pc : Word) : (s.jump pc).nextFar = s.nextFar := rfl
@[simp] theorem jump_asks (s : State) (pc : Word) : (s.jump pc).asks = s.asks := rfl
@[simp] theorem jump_miss (s : State) (pc : Word) : (s.jump pc).miss = s.miss := rfl
@[simp] theorem jump_farOut (s : State) (pc : Word) : (s.jump pc).farOut = s.farOut := rfl
@[simp] theorem jump_farTo (s : State) (pc : Word) : (s.jump pc).farTo = s.farTo := rfl
@[simp] theorem jump_farResv (s : State) (pc : Word) : (s.jump pc).farResv = s.farResv := rfl
@[simp] theorem jump_qps (s : State) (pc : Word) : (s.jump pc).qps = s.qps := rfl
@[simp] theorem jump_ports (s : State) (pc : Word) : (s.jump pc).ports = s.ports := rfl
@[simp] theorem jump_col (s : State) (pc : Word) : (s.jump pc).col = s.col := rfl
@[simp] theorem jump_paused (s : State) (pc : Word) : (s.jump pc).paused = s.paused := rfl
@[simp] theorem jump_txWait (s : State) (pc : Word) : (s.jump pc).txWait = s.txWait := rfl
@[simp] theorem jump_linksDown (s : State) (pc : Word) : (s.jump pc).linksDown = s.linksDown := rfl
@[simp] theorem jump_outs (s : State) (pc : Word) : (s.jump pc).outs = s.outs := rfl

/-! ### The issuing thread -/

@[simp] theorem me_setMe (s : State) (t : Slot) : (s.setMe t).me = t := by simp [State.setMe, State.me]
@[simp] theorem me_modMe (s : State) (f : Slot → Slot) : (s.modMe f).me = f s.me := by simp [State.modMe]
@[simp] theorem me_setX (s : State) (r : BitVec 5) (v : Word) : (s.setX r v).me = s.me.wx r v := by simp [State.setX]
@[simp] theorem me_setH (s : State) (r : BitVec 4) (v : Word) : (s.setH r v).me = s.me.wh r v := by simp [State.setH]
@[simp] theorem me_retire (s : State) (n : Nat) : (s.retire n).me = s.me.retire n := by simp [State.retire]
@[simp] theorem me_jump (s : State) (pc : Word) : (s.jump pc).me = s.me.jump pc := by simp [State.jump]

theorem slot_setMe_ne (s : State) (t : Slot) {l : Nat} (h : l ≠ s.cur) : (s.setMe t).slot l = s.slot l := slot_setSlot_ne s t h
theorem slot_modMe_ne (s : State) (f : Slot → Slot) {l : Nat} (h : l ≠ s.cur) : (s.modMe f).slot l = s.slot l :=
  slot_setMe_ne s _ h
theorem slot_setX_ne (s : State) (r : BitVec 5) (v : Word) {l : Nat} (h : l ≠ s.cur) : (s.setX r v).slot l = s.slot l :=
  slot_modMe_ne s _ h
theorem slot_setH_ne (s : State) (r : BitVec 4) (v : Word) {l : Nat} (h : l ≠ s.cur) : (s.setH r v).slot l = s.slot l :=
  slot_modMe_ne s _ h
theorem slot_retire_ne (s : State) (n : Nat) {l : Nat} (h : l ≠ s.cur) : (s.retire n).slot l = s.slot l :=
  slot_modMe_ne s _ h
theorem slot_jump_ne (s : State) (pc : Word) {l : Nat} (h : l ≠ s.cur) : (s.jump pc).slot l = s.slot l :=
  slot_modMe_ne s _ h

@[simp] theorem setMe_setMe (s : State) (t u : Slot) : (s.setMe t).setMe u = s.setMe u := by
  simp only [State.setMe, State.setSlot, assocSet_assocSet]
@[simp] theorem modMe_setMe (s : State) (t : Slot) (f : Slot → Slot) : (s.setMe t).modMe f = s.setMe (f t) := by
  simp only [State.modMe, me_setMe, setMe_setMe]
@[simp] theorem modMe_modMe (s : State) (f g : Slot → Slot) : (s.modMe f).modMe g = s.modMe (fun t => g (f t)) := by
  simp only [State.modMe, me_setMe, setMe_setMe]

theorem setMe_eq (s : State) (t : Slot) : s.setMe t = { s with slots := (s.setMe t).slots } := rfl
theorem modMe_eq (s : State) (f : Slot → Slot) : s.modMe f = { s with slots := (s.modMe f).slots } := rfl

/-! ### Every other field of a slot stays -/

@[simp] theorem wx_st (t : Slot) (r : BitVec 5) (v : Word) : (t.wx r v).st = t.st := by unfold Slot.wx; split <;> rfl
@[simp] theorem wx_priv (t : Slot) (r : BitVec 5) (v : Word) : (t.wx r v).priv = t.priv := by unfold Slot.wx; split <;> rfl
@[simp] theorem wx_pc (t : Slot) (r : BitVec 5) (v : Word) : (t.wx r v).pc = t.pc := by unfold Slot.wx; split <;> rfl
@[simp] theorem wx_f (t : Slot) (r : BitVec 5) (v : Word) : (t.wx r v).f = t.f := by unfold Slot.wx; split <;> rfl
@[simp] theorem wx_v (t : Slot) (r : BitVec 5) (v : Word) : (t.wx r v).v = t.v := by unfold Slot.wx; split <;> rfl
@[simp] theorem wx_o (t : Slot) (r : BitVec 5) (v : Word) : (t.wx r v).o = t.o := by unfold Slot.wx; split <;> rfl
@[simp] theorem wx_b (t : Slot) (r : BitVec 5) (v : Word) : (t.wx r v).b = t.b := by unfold Slot.wx; split <;> rfl
@[simp] theorem wx_k (t : Slot) (r : BitVec 5) (v : Word) : (t.wx r v).k = t.k := by unfold Slot.wx; split <;> rfl
@[simp] theorem wx_h (t : Slot) (r : BitVec 5) (v : Word) : (t.wx r v).h = t.h := by unfold Slot.wx; split <;> rfl
@[simp] theorem wx_cb (t : Slot) (r : BitVec 5) (v : Word) : (t.wx r v).cb = t.cb := by unfold Slot.wx; split <;> rfl
@[simp] theorem wx_shadow (t : Slot) (r : BitVec 5) (v : Word) : (t.wx r v).shadow = t.shadow := by unfold Slot.wx; split <;> rfl
@[simp] theorem wx_u (t : Slot) (r : BitVec 5) (v : Word) : (t.wx r v).u = t.u := by unfold Slot.wx; split <;> rfl
@[simp] theorem wx_sc (t : Slot) (r : BitVec 5) (v : Word) : (t.wx r v).sc = t.sc := by unfold Slot.wx; split <;> rfl
@[simp] theorem wx_rv (t : Slot) (r : BitVec 5) (v : Word) : (t.wx r v).rv = t.rv := by unfold Slot.wx; split <;> rfl
@[simp] theorem wx_inbox (t : Slot) (r : BitVec 5) (v : Word) : (t.wx r v).inbox = t.inbox := by unfold Slot.wx; split <;> rfl
@[simp] theorem wx_ibReserved (t : Slot) (r : BitVec 5) (v : Word) : (t.wx r v).ibReserved = t.ibReserved := by unfold Slot.wx; split <;> rfl
@[simp] theorem wx_ibSeq (t : Slot) (r : BitVec 5) (v : Word) : (t.wx r v).ibSeq = t.ibSeq := by unfold Slot.wx; split <;> rfl
@[simp] theorem wx_uiFresh (t : Slot) (r : BitVec 5) (v : Word) : (t.wx r v).uiFresh = t.uiFresh := by unfold Slot.wx; split <;> rfl
@[simp] theorem wx_cbDepth (t : Slot) (r : BitVec 5) (v : Word) : (t.wx r v).cbDepth = t.cbDepth := by unfold Slot.wx; split <;> rfl
@[simp] theorem wx_cbStack (t : Slot) (r : BitVec 5) (v : Word) : (t.wx r v).cbStack = t.cbStack := by unfold Slot.wx; split <;> rfl
@[simp] theorem wx_poolOf (t : Slot) (r : BitVec 5) (v : Word) : (t.wx r v).poolOf = t.poolOf := by unfold Slot.wx; split <;> rfl
@[simp] theorem wx_job (t : Slot) (r : BitVec 5) (v : Word) : (t.wx r v).job = t.job := by unfold Slot.wx; split <;> rfl
@[simp] theorem wx_ctx (t : Slot) (r : BitVec 5) (v : Word) : (t.wx r v).ctx = t.ctx := by unfold Slot.wx; split <;> rfl
@[simp] theorem wx_home (t : Slot) (r : BitVec 5) (v : Word) : (t.wx r v).home = t.home := by unfold Slot.wx; split <;> rfl
@[simp] theorem wx_ctxCounter (t : Slot) (r : BitVec 5) (v : Word) : (t.wx r v).ctxCounter = t.ctxCounter := by unfold Slot.wx; split <;> rfl
@[simp] theorem wx_wait (t : Slot) (r : BitVec 5) (v : Word) : (t.wx r v).wait = t.wait := by unfold Slot.wx; split <;> rfl
@[simp] theorem wx_resv (t : Slot) (r : BitVec 5) (v : Word) : (t.wx r v).resv = t.resv := by unfold Slot.wx; split <;> rfl
@[simp] theorem wx_posted (t : Slot) (r : BitVec 5) (v : Word) : (t.wx r v).posted = t.posted := by unfold Slot.wx; split <;> rfl
@[simp] theorem wx_held (t : Slot) (r : BitVec 5) (v : Word) : (t.wx r v).held = t.held := by unfold Slot.wx; split <;> rfl
@[simp] theorem wx_stSeq (t : Slot) (r : BitVec 5) (v : Word) : (t.wx r v).stSeq = t.stSeq := by unfold Slot.wx; split <;> rfl
@[simp] theorem wx_far (t : Slot) (r : BitVec 5) (v : Word) : (t.wx r v).far = t.far := by unfold Slot.wx; split <;> rfl
@[simp] theorem wx_refHeld (t : Slot) (r : BitVec 5) (v : Word) : (t.wx r v).refHeld = t.refHeld := by unfold Slot.wx; split <;> rfl
@[simp] theorem wx_moves (t : Slot) (r : BitVec 5) (v : Word) : (t.wx r v).moves = t.moves := by unfold Slot.wx; split <;> rfl
@[simp] theorem wx_trapRec (t : Slot) (r : BitVec 5) (v : Word) : (t.wx r v).trapRec = t.trapRec := by unfold Slot.wx; split <;> rfl
@[simp] theorem wx_arr (t : Slot) (r : BitVec 5) (v : Word) : (t.wx r v).arr = t.arr := by unfold Slot.wx; split <;> rfl
@[simp] theorem wx_calls (t : Slot) (r : BitVec 5) (v : Word) : (t.wx r v).calls = t.calls := by unfold Slot.wx; split <;> rfl
@[simp] theorem wx_gang (t : Slot) (r : BitVec 5) (v : Word) : (t.wx r v).gang = t.gang := by unfold Slot.wx; split <;> rfl
@[simp] theorem wx_issWait (t : Slot) (r : BitVec 5) (v : Word) : (t.wx r v).issWait = t.issWait := by unfold Slot.wx; split <;> rfl
@[simp] theorem wx_aged (t : Slot) (r : BitVec 5) (v : Word) : (t.wx r v).aged = t.aged := by unfold Slot.wx; split <;> rfl
@[simp] theorem wx_quantumUsed (t : Slot) (r : BitVec 5) (v : Word) : (t.wx r v).quantumUsed = t.quantumUsed := by unfold Slot.wx; split <;> rfl
@[simp] theorem wx_dirty (t : Slot) (r : BitVec 5) (v : Word) : (t.wx r v).dirty = t.dirty := by unfold Slot.wx; split <;> rfl
@[simp] theorem wx_origin (t : Slot) (r : BitVec 5) (v : Word) : (t.wx r v).origin = t.origin := by unfold Slot.wx; split <;> rfl
@[simp] theorem wx_parked (t : Slot) (r : BitVec 5) (v : Word) : (t.wx r v).parked = t.parked := by unfold Slot.wx; split <;> rfl
@[simp] theorem wx_instret (t : Slot) (r : BitVec 5) (v : Word) : (t.wx r v).instret = t.instret := by unfold Slot.wx; split <;> rfl
@[simp] theorem wx_current (t : Slot) (r : BitVec 5) (v : Word) : (t.wx r v).current = t.current := by unfold Slot.wx; split <;> rfl

@[simp] theorem wf_st (t : Slot) (r : BitVec 5) (v : Word) : (t.wf r v).st = t.st := rfl
@[simp] theorem wf_priv (t : Slot) (r : BitVec 5) (v : Word) : (t.wf r v).priv = t.priv := rfl
@[simp] theorem wf_pc (t : Slot) (r : BitVec 5) (v : Word) : (t.wf r v).pc = t.pc := rfl
@[simp] theorem wf_x (t : Slot) (r : BitVec 5) (v : Word) : (t.wf r v).x = t.x := rfl
@[simp] theorem wf_v (t : Slot) (r : BitVec 5) (v : Word) : (t.wf r v).v = t.v := rfl
@[simp] theorem wf_o (t : Slot) (r : BitVec 5) (v : Word) : (t.wf r v).o = t.o := rfl
@[simp] theorem wf_b (t : Slot) (r : BitVec 5) (v : Word) : (t.wf r v).b = t.b := rfl
@[simp] theorem wf_k (t : Slot) (r : BitVec 5) (v : Word) : (t.wf r v).k = t.k := rfl
@[simp] theorem wf_h (t : Slot) (r : BitVec 5) (v : Word) : (t.wf r v).h = t.h := rfl
@[simp] theorem wf_cb (t : Slot) (r : BitVec 5) (v : Word) : (t.wf r v).cb = t.cb := rfl
@[simp] theorem wf_shadow (t : Slot) (r : BitVec 5) (v : Word) : (t.wf r v).shadow = t.shadow := rfl
@[simp] theorem wf_u (t : Slot) (r : BitVec 5) (v : Word) : (t.wf r v).u = t.u := rfl
@[simp] theorem wf_sc (t : Slot) (r : BitVec 5) (v : Word) : (t.wf r v).sc = t.sc := rfl
@[simp] theorem wf_rv (t : Slot) (r : BitVec 5) (v : Word) : (t.wf r v).rv = t.rv := rfl
@[simp] theorem wf_inbox (t : Slot) (r : BitVec 5) (v : Word) : (t.wf r v).inbox = t.inbox := rfl
@[simp] theorem wf_ibReserved (t : Slot) (r : BitVec 5) (v : Word) : (t.wf r v).ibReserved = t.ibReserved := rfl
@[simp] theorem wf_ibSeq (t : Slot) (r : BitVec 5) (v : Word) : (t.wf r v).ibSeq = t.ibSeq := rfl
@[simp] theorem wf_uiFresh (t : Slot) (r : BitVec 5) (v : Word) : (t.wf r v).uiFresh = t.uiFresh := rfl
@[simp] theorem wf_cbDepth (t : Slot) (r : BitVec 5) (v : Word) : (t.wf r v).cbDepth = t.cbDepth := rfl
@[simp] theorem wf_cbStack (t : Slot) (r : BitVec 5) (v : Word) : (t.wf r v).cbStack = t.cbStack := rfl
@[simp] theorem wf_poolOf (t : Slot) (r : BitVec 5) (v : Word) : (t.wf r v).poolOf = t.poolOf := rfl
@[simp] theorem wf_job (t : Slot) (r : BitVec 5) (v : Word) : (t.wf r v).job = t.job := rfl
@[simp] theorem wf_ctx (t : Slot) (r : BitVec 5) (v : Word) : (t.wf r v).ctx = t.ctx := rfl
@[simp] theorem wf_home (t : Slot) (r : BitVec 5) (v : Word) : (t.wf r v).home = t.home := rfl
@[simp] theorem wf_ctxCounter (t : Slot) (r : BitVec 5) (v : Word) : (t.wf r v).ctxCounter = t.ctxCounter := rfl
@[simp] theorem wf_wait (t : Slot) (r : BitVec 5) (v : Word) : (t.wf r v).wait = t.wait := rfl
@[simp] theorem wf_resv (t : Slot) (r : BitVec 5) (v : Word) : (t.wf r v).resv = t.resv := rfl
@[simp] theorem wf_posted (t : Slot) (r : BitVec 5) (v : Word) : (t.wf r v).posted = t.posted := rfl
@[simp] theorem wf_held (t : Slot) (r : BitVec 5) (v : Word) : (t.wf r v).held = t.held := rfl
@[simp] theorem wf_stSeq (t : Slot) (r : BitVec 5) (v : Word) : (t.wf r v).stSeq = t.stSeq := rfl
@[simp] theorem wf_far (t : Slot) (r : BitVec 5) (v : Word) : (t.wf r v).far = t.far := rfl
@[simp] theorem wf_refHeld (t : Slot) (r : BitVec 5) (v : Word) : (t.wf r v).refHeld = t.refHeld := rfl
@[simp] theorem wf_moves (t : Slot) (r : BitVec 5) (v : Word) : (t.wf r v).moves = t.moves := rfl
@[simp] theorem wf_trapRec (t : Slot) (r : BitVec 5) (v : Word) : (t.wf r v).trapRec = t.trapRec := rfl
@[simp] theorem wf_arr (t : Slot) (r : BitVec 5) (v : Word) : (t.wf r v).arr = t.arr := rfl
@[simp] theorem wf_calls (t : Slot) (r : BitVec 5) (v : Word) : (t.wf r v).calls = t.calls := rfl
@[simp] theorem wf_gang (t : Slot) (r : BitVec 5) (v : Word) : (t.wf r v).gang = t.gang := rfl
@[simp] theorem wf_issWait (t : Slot) (r : BitVec 5) (v : Word) : (t.wf r v).issWait = t.issWait := rfl
@[simp] theorem wf_aged (t : Slot) (r : BitVec 5) (v : Word) : (t.wf r v).aged = t.aged := rfl
@[simp] theorem wf_quantumUsed (t : Slot) (r : BitVec 5) (v : Word) : (t.wf r v).quantumUsed = t.quantumUsed := rfl
@[simp] theorem wf_dirty (t : Slot) (r : BitVec 5) (v : Word) : (t.wf r v).dirty = t.dirty := rfl
@[simp] theorem wf_origin (t : Slot) (r : BitVec 5) (v : Word) : (t.wf r v).origin = t.origin := rfl
@[simp] theorem wf_parked (t : Slot) (r : BitVec 5) (v : Word) : (t.wf r v).parked = t.parked := rfl
@[simp] theorem wf_instret (t : Slot) (r : BitVec 5) (v : Word) : (t.wf r v).instret = t.instret := rfl
@[simp] theorem wf_current (t : Slot) (r : BitVec 5) (v : Word) : (t.wf r v).current = t.current := rfl

@[simp] theorem wk_st (t : Slot) (r : BitVec 3) (v : Half) : (t.wk r v).st = t.st := by unfold Slot.wk; split <;> rfl
@[simp] theorem wk_priv (t : Slot) (r : BitVec 3) (v : Half) : (t.wk r v).priv = t.priv := by unfold Slot.wk; split <;> rfl
@[simp] theorem wk_pc (t : Slot) (r : BitVec 3) (v : Half) : (t.wk r v).pc = t.pc := by unfold Slot.wk; split <;> rfl
@[simp] theorem wk_x (t : Slot) (r : BitVec 3) (v : Half) : (t.wk r v).x = t.x := by unfold Slot.wk; split <;> rfl
@[simp] theorem wk_f (t : Slot) (r : BitVec 3) (v : Half) : (t.wk r v).f = t.f := by unfold Slot.wk; split <;> rfl
@[simp] theorem wk_v (t : Slot) (r : BitVec 3) (v : Half) : (t.wk r v).v = t.v := by unfold Slot.wk; split <;> rfl
@[simp] theorem wk_o (t : Slot) (r : BitVec 3) (v : Half) : (t.wk r v).o = t.o := by unfold Slot.wk; split <;> rfl
@[simp] theorem wk_b (t : Slot) (r : BitVec 3) (v : Half) : (t.wk r v).b = t.b := by unfold Slot.wk; split <;> rfl
@[simp] theorem wk_h (t : Slot) (r : BitVec 3) (v : Half) : (t.wk r v).h = t.h := by unfold Slot.wk; split <;> rfl
@[simp] theorem wk_cb (t : Slot) (r : BitVec 3) (v : Half) : (t.wk r v).cb = t.cb := by unfold Slot.wk; split <;> rfl
@[simp] theorem wk_shadow (t : Slot) (r : BitVec 3) (v : Half) : (t.wk r v).shadow = t.shadow := by unfold Slot.wk; split <;> rfl
@[simp] theorem wk_u (t : Slot) (r : BitVec 3) (v : Half) : (t.wk r v).u = t.u := by unfold Slot.wk; split <;> rfl
@[simp] theorem wk_sc (t : Slot) (r : BitVec 3) (v : Half) : (t.wk r v).sc = t.sc := by unfold Slot.wk; split <;> rfl
@[simp] theorem wk_rv (t : Slot) (r : BitVec 3) (v : Half) : (t.wk r v).rv = t.rv := by unfold Slot.wk; split <;> rfl
@[simp] theorem wk_inbox (t : Slot) (r : BitVec 3) (v : Half) : (t.wk r v).inbox = t.inbox := by unfold Slot.wk; split <;> rfl
@[simp] theorem wk_ibReserved (t : Slot) (r : BitVec 3) (v : Half) : (t.wk r v).ibReserved = t.ibReserved := by unfold Slot.wk; split <;> rfl
@[simp] theorem wk_ibSeq (t : Slot) (r : BitVec 3) (v : Half) : (t.wk r v).ibSeq = t.ibSeq := by unfold Slot.wk; split <;> rfl
@[simp] theorem wk_uiFresh (t : Slot) (r : BitVec 3) (v : Half) : (t.wk r v).uiFresh = t.uiFresh := by unfold Slot.wk; split <;> rfl
@[simp] theorem wk_cbDepth (t : Slot) (r : BitVec 3) (v : Half) : (t.wk r v).cbDepth = t.cbDepth := by unfold Slot.wk; split <;> rfl
@[simp] theorem wk_cbStack (t : Slot) (r : BitVec 3) (v : Half) : (t.wk r v).cbStack = t.cbStack := by unfold Slot.wk; split <;> rfl
@[simp] theorem wk_poolOf (t : Slot) (r : BitVec 3) (v : Half) : (t.wk r v).poolOf = t.poolOf := by unfold Slot.wk; split <;> rfl
@[simp] theorem wk_job (t : Slot) (r : BitVec 3) (v : Half) : (t.wk r v).job = t.job := by unfold Slot.wk; split <;> rfl
@[simp] theorem wk_ctx (t : Slot) (r : BitVec 3) (v : Half) : (t.wk r v).ctx = t.ctx := by unfold Slot.wk; split <;> rfl
@[simp] theorem wk_home (t : Slot) (r : BitVec 3) (v : Half) : (t.wk r v).home = t.home := by unfold Slot.wk; split <;> rfl
@[simp] theorem wk_ctxCounter (t : Slot) (r : BitVec 3) (v : Half) : (t.wk r v).ctxCounter = t.ctxCounter := by unfold Slot.wk; split <;> rfl
@[simp] theorem wk_wait (t : Slot) (r : BitVec 3) (v : Half) : (t.wk r v).wait = t.wait := by unfold Slot.wk; split <;> rfl
@[simp] theorem wk_resv (t : Slot) (r : BitVec 3) (v : Half) : (t.wk r v).resv = t.resv := by unfold Slot.wk; split <;> rfl
@[simp] theorem wk_posted (t : Slot) (r : BitVec 3) (v : Half) : (t.wk r v).posted = t.posted := by unfold Slot.wk; split <;> rfl
@[simp] theorem wk_held (t : Slot) (r : BitVec 3) (v : Half) : (t.wk r v).held = t.held := by unfold Slot.wk; split <;> rfl
@[simp] theorem wk_stSeq (t : Slot) (r : BitVec 3) (v : Half) : (t.wk r v).stSeq = t.stSeq := by unfold Slot.wk; split <;> rfl
@[simp] theorem wk_far (t : Slot) (r : BitVec 3) (v : Half) : (t.wk r v).far = t.far := by unfold Slot.wk; split <;> rfl
@[simp] theorem wk_refHeld (t : Slot) (r : BitVec 3) (v : Half) : (t.wk r v).refHeld = t.refHeld := by unfold Slot.wk; split <;> rfl
@[simp] theorem wk_moves (t : Slot) (r : BitVec 3) (v : Half) : (t.wk r v).moves = t.moves := by unfold Slot.wk; split <;> rfl
@[simp] theorem wk_trapRec (t : Slot) (r : BitVec 3) (v : Half) : (t.wk r v).trapRec = t.trapRec := by unfold Slot.wk; split <;> rfl
@[simp] theorem wk_arr (t : Slot) (r : BitVec 3) (v : Half) : (t.wk r v).arr = t.arr := by unfold Slot.wk; split <;> rfl
@[simp] theorem wk_calls (t : Slot) (r : BitVec 3) (v : Half) : (t.wk r v).calls = t.calls := by unfold Slot.wk; split <;> rfl
@[simp] theorem wk_gang (t : Slot) (r : BitVec 3) (v : Half) : (t.wk r v).gang = t.gang := by unfold Slot.wk; split <;> rfl
@[simp] theorem wk_issWait (t : Slot) (r : BitVec 3) (v : Half) : (t.wk r v).issWait = t.issWait := by unfold Slot.wk; split <;> rfl
@[simp] theorem wk_aged (t : Slot) (r : BitVec 3) (v : Half) : (t.wk r v).aged = t.aged := by unfold Slot.wk; split <;> rfl
@[simp] theorem wk_quantumUsed (t : Slot) (r : BitVec 3) (v : Half) : (t.wk r v).quantumUsed = t.quantumUsed := by unfold Slot.wk; split <;> rfl
@[simp] theorem wk_origin (t : Slot) (r : BitVec 3) (v : Half) : (t.wk r v).origin = t.origin := by unfold Slot.wk; split <;> rfl
@[simp] theorem wk_parked (t : Slot) (r : BitVec 3) (v : Half) : (t.wk r v).parked = t.parked := by unfold Slot.wk; split <;> rfl
@[simp] theorem wk_instret (t : Slot) (r : BitVec 3) (v : Half) : (t.wk r v).instret = t.instret := by unfold Slot.wk; split <;> rfl
@[simp] theorem wk_current (t : Slot) (r : BitVec 3) (v : Half) : (t.wk r v).current = t.current := by unfold Slot.wk; split <;> rfl

@[simp] theorem wh_st (t : Slot) (r : BitVec 4) (v : Word) : (t.wh r v).st = t.st := rfl
@[simp] theorem wh_priv (t : Slot) (r : BitVec 4) (v : Word) : (t.wh r v).priv = t.priv := rfl
@[simp] theorem wh_pc (t : Slot) (r : BitVec 4) (v : Word) : (t.wh r v).pc = t.pc := rfl
@[simp] theorem wh_x (t : Slot) (r : BitVec 4) (v : Word) : (t.wh r v).x = t.x := rfl
@[simp] theorem wh_f (t : Slot) (r : BitVec 4) (v : Word) : (t.wh r v).f = t.f := rfl
@[simp] theorem wh_v (t : Slot) (r : BitVec 4) (v : Word) : (t.wh r v).v = t.v := rfl
@[simp] theorem wh_o (t : Slot) (r : BitVec 4) (v : Word) : (t.wh r v).o = t.o := rfl
@[simp] theorem wh_b (t : Slot) (r : BitVec 4) (v : Word) : (t.wh r v).b = t.b := rfl
@[simp] theorem wh_k (t : Slot) (r : BitVec 4) (v : Word) : (t.wh r v).k = t.k := rfl
@[simp] theorem wh_cb (t : Slot) (r : BitVec 4) (v : Word) : (t.wh r v).cb = t.cb := rfl
@[simp] theorem wh_shadow (t : Slot) (r : BitVec 4) (v : Word) : (t.wh r v).shadow = t.shadow := rfl
@[simp] theorem wh_u (t : Slot) (r : BitVec 4) (v : Word) : (t.wh r v).u = t.u := rfl
@[simp] theorem wh_sc (t : Slot) (r : BitVec 4) (v : Word) : (t.wh r v).sc = t.sc := rfl
@[simp] theorem wh_rv (t : Slot) (r : BitVec 4) (v : Word) : (t.wh r v).rv = t.rv := rfl
@[simp] theorem wh_inbox (t : Slot) (r : BitVec 4) (v : Word) : (t.wh r v).inbox = t.inbox := rfl
@[simp] theorem wh_ibReserved (t : Slot) (r : BitVec 4) (v : Word) : (t.wh r v).ibReserved = t.ibReserved := rfl
@[simp] theorem wh_ibSeq (t : Slot) (r : BitVec 4) (v : Word) : (t.wh r v).ibSeq = t.ibSeq := rfl
@[simp] theorem wh_uiFresh (t : Slot) (r : BitVec 4) (v : Word) : (t.wh r v).uiFresh = t.uiFresh := rfl
@[simp] theorem wh_cbDepth (t : Slot) (r : BitVec 4) (v : Word) : (t.wh r v).cbDepth = t.cbDepth := rfl
@[simp] theorem wh_cbStack (t : Slot) (r : BitVec 4) (v : Word) : (t.wh r v).cbStack = t.cbStack := rfl
@[simp] theorem wh_poolOf (t : Slot) (r : BitVec 4) (v : Word) : (t.wh r v).poolOf = t.poolOf := rfl
@[simp] theorem wh_job (t : Slot) (r : BitVec 4) (v : Word) : (t.wh r v).job = t.job := rfl
@[simp] theorem wh_ctx (t : Slot) (r : BitVec 4) (v : Word) : (t.wh r v).ctx = t.ctx := rfl
@[simp] theorem wh_home (t : Slot) (r : BitVec 4) (v : Word) : (t.wh r v).home = t.home := rfl
@[simp] theorem wh_ctxCounter (t : Slot) (r : BitVec 4) (v : Word) : (t.wh r v).ctxCounter = t.ctxCounter := rfl
@[simp] theorem wh_wait (t : Slot) (r : BitVec 4) (v : Word) : (t.wh r v).wait = t.wait := rfl
@[simp] theorem wh_resv (t : Slot) (r : BitVec 4) (v : Word) : (t.wh r v).resv = t.resv := rfl
@[simp] theorem wh_posted (t : Slot) (r : BitVec 4) (v : Word) : (t.wh r v).posted = t.posted := rfl
@[simp] theorem wh_held (t : Slot) (r : BitVec 4) (v : Word) : (t.wh r v).held = t.held := rfl
@[simp] theorem wh_stSeq (t : Slot) (r : BitVec 4) (v : Word) : (t.wh r v).stSeq = t.stSeq := rfl
@[simp] theorem wh_far (t : Slot) (r : BitVec 4) (v : Word) : (t.wh r v).far = t.far := rfl
@[simp] theorem wh_refHeld (t : Slot) (r : BitVec 4) (v : Word) : (t.wh r v).refHeld = t.refHeld := rfl
@[simp] theorem wh_moves (t : Slot) (r : BitVec 4) (v : Word) : (t.wh r v).moves = t.moves := rfl
@[simp] theorem wh_trapRec (t : Slot) (r : BitVec 4) (v : Word) : (t.wh r v).trapRec = t.trapRec := rfl
@[simp] theorem wh_arr (t : Slot) (r : BitVec 4) (v : Word) : (t.wh r v).arr = t.arr := rfl
@[simp] theorem wh_calls (t : Slot) (r : BitVec 4) (v : Word) : (t.wh r v).calls = t.calls := rfl
@[simp] theorem wh_gang (t : Slot) (r : BitVec 4) (v : Word) : (t.wh r v).gang = t.gang := rfl
@[simp] theorem wh_issWait (t : Slot) (r : BitVec 4) (v : Word) : (t.wh r v).issWait = t.issWait := rfl
@[simp] theorem wh_aged (t : Slot) (r : BitVec 4) (v : Word) : (t.wh r v).aged = t.aged := rfl
@[simp] theorem wh_quantumUsed (t : Slot) (r : BitVec 4) (v : Word) : (t.wh r v).quantumUsed = t.quantumUsed := rfl
@[simp] theorem wh_origin (t : Slot) (r : BitVec 4) (v : Word) : (t.wh r v).origin = t.origin := rfl
@[simp] theorem wh_parked (t : Slot) (r : BitVec 4) (v : Word) : (t.wh r v).parked = t.parked := rfl
@[simp] theorem wh_instret (t : Slot) (r : BitVec 4) (v : Word) : (t.wh r v).instret = t.instret := rfl
@[simp] theorem wh_current (t : Slot) (r : BitVec 4) (v : Word) : (t.wh r v).current = t.current := rfl

@[simp] theorem wv_st (t : Slot) (n : Fin 48) (v : Vec) : (t.wv n v).st = t.st := rfl
@[simp] theorem wv_priv (t : Slot) (n : Fin 48) (v : Vec) : (t.wv n v).priv = t.priv := rfl
@[simp] theorem wv_pc (t : Slot) (n : Fin 48) (v : Vec) : (t.wv n v).pc = t.pc := rfl
@[simp] theorem wv_x (t : Slot) (n : Fin 48) (v : Vec) : (t.wv n v).x = t.x := rfl
@[simp] theorem wv_f (t : Slot) (n : Fin 48) (v : Vec) : (t.wv n v).f = t.f := rfl
@[simp] theorem wv_o (t : Slot) (n : Fin 48) (v : Vec) : (t.wv n v).o = t.o := rfl
@[simp] theorem wv_b (t : Slot) (n : Fin 48) (v : Vec) : (t.wv n v).b = t.b := rfl
@[simp] theorem wv_k (t : Slot) (n : Fin 48) (v : Vec) : (t.wv n v).k = t.k := rfl
@[simp] theorem wv_h (t : Slot) (n : Fin 48) (v : Vec) : (t.wv n v).h = t.h := rfl
@[simp] theorem wv_cb (t : Slot) (n : Fin 48) (v : Vec) : (t.wv n v).cb = t.cb := rfl
@[simp] theorem wv_shadow (t : Slot) (n : Fin 48) (v : Vec) : (t.wv n v).shadow = t.shadow := rfl
@[simp] theorem wv_u (t : Slot) (n : Fin 48) (v : Vec) : (t.wv n v).u = t.u := rfl
@[simp] theorem wv_sc (t : Slot) (n : Fin 48) (v : Vec) : (t.wv n v).sc = t.sc := rfl
@[simp] theorem wv_rv (t : Slot) (n : Fin 48) (v : Vec) : (t.wv n v).rv = t.rv := rfl
@[simp] theorem wv_inbox (t : Slot) (n : Fin 48) (v : Vec) : (t.wv n v).inbox = t.inbox := rfl
@[simp] theorem wv_ibReserved (t : Slot) (n : Fin 48) (v : Vec) : (t.wv n v).ibReserved = t.ibReserved := rfl
@[simp] theorem wv_ibSeq (t : Slot) (n : Fin 48) (v : Vec) : (t.wv n v).ibSeq = t.ibSeq := rfl
@[simp] theorem wv_uiFresh (t : Slot) (n : Fin 48) (v : Vec) : (t.wv n v).uiFresh = t.uiFresh := rfl
@[simp] theorem wv_cbDepth (t : Slot) (n : Fin 48) (v : Vec) : (t.wv n v).cbDepth = t.cbDepth := rfl
@[simp] theorem wv_cbStack (t : Slot) (n : Fin 48) (v : Vec) : (t.wv n v).cbStack = t.cbStack := rfl
@[simp] theorem wv_poolOf (t : Slot) (n : Fin 48) (v : Vec) : (t.wv n v).poolOf = t.poolOf := rfl
@[simp] theorem wv_job (t : Slot) (n : Fin 48) (v : Vec) : (t.wv n v).job = t.job := rfl
@[simp] theorem wv_ctx (t : Slot) (n : Fin 48) (v : Vec) : (t.wv n v).ctx = t.ctx := rfl
@[simp] theorem wv_home (t : Slot) (n : Fin 48) (v : Vec) : (t.wv n v).home = t.home := rfl
@[simp] theorem wv_ctxCounter (t : Slot) (n : Fin 48) (v : Vec) : (t.wv n v).ctxCounter = t.ctxCounter := rfl
@[simp] theorem wv_wait (t : Slot) (n : Fin 48) (v : Vec) : (t.wv n v).wait = t.wait := rfl
@[simp] theorem wv_resv (t : Slot) (n : Fin 48) (v : Vec) : (t.wv n v).resv = t.resv := rfl
@[simp] theorem wv_posted (t : Slot) (n : Fin 48) (v : Vec) : (t.wv n v).posted = t.posted := rfl
@[simp] theorem wv_held (t : Slot) (n : Fin 48) (v : Vec) : (t.wv n v).held = t.held := rfl
@[simp] theorem wv_stSeq (t : Slot) (n : Fin 48) (v : Vec) : (t.wv n v).stSeq = t.stSeq := rfl
@[simp] theorem wv_far (t : Slot) (n : Fin 48) (v : Vec) : (t.wv n v).far = t.far := rfl
@[simp] theorem wv_refHeld (t : Slot) (n : Fin 48) (v : Vec) : (t.wv n v).refHeld = t.refHeld := rfl
@[simp] theorem wv_moves (t : Slot) (n : Fin 48) (v : Vec) : (t.wv n v).moves = t.moves := rfl
@[simp] theorem wv_trapRec (t : Slot) (n : Fin 48) (v : Vec) : (t.wv n v).trapRec = t.trapRec := rfl
@[simp] theorem wv_arr (t : Slot) (n : Fin 48) (v : Vec) : (t.wv n v).arr = t.arr := rfl
@[simp] theorem wv_calls (t : Slot) (n : Fin 48) (v : Vec) : (t.wv n v).calls = t.calls := rfl
@[simp] theorem wv_gang (t : Slot) (n : Fin 48) (v : Vec) : (t.wv n v).gang = t.gang := rfl
@[simp] theorem wv_issWait (t : Slot) (n : Fin 48) (v : Vec) : (t.wv n v).issWait = t.issWait := rfl
@[simp] theorem wv_aged (t : Slot) (n : Fin 48) (v : Vec) : (t.wv n v).aged = t.aged := rfl
@[simp] theorem wv_quantumUsed (t : Slot) (n : Fin 48) (v : Vec) : (t.wv n v).quantumUsed = t.quantumUsed := rfl
@[simp] theorem wv_origin (t : Slot) (n : Fin 48) (v : Vec) : (t.wv n v).origin = t.origin := rfl
@[simp] theorem wv_parked (t : Slot) (n : Fin 48) (v : Vec) : (t.wv n v).parked = t.parked := rfl
@[simp] theorem wv_instret (t : Slot) (n : Fin 48) (v : Vec) : (t.wv n v).instret = t.instret := rfl
@[simp] theorem wv_current (t : Slot) (n : Fin 48) (v : Vec) : (t.wv n v).current = t.current := rfl

@[simp] theorem wo_st (t : Slot) (n : Fin 8) (v : Vec) : (t.wo n v).st = t.st := rfl
@[simp] theorem wo_priv (t : Slot) (n : Fin 8) (v : Vec) : (t.wo n v).priv = t.priv := rfl
@[simp] theorem wo_pc (t : Slot) (n : Fin 8) (v : Vec) : (t.wo n v).pc = t.pc := rfl
@[simp] theorem wo_x (t : Slot) (n : Fin 8) (v : Vec) : (t.wo n v).x = t.x := rfl
@[simp] theorem wo_f (t : Slot) (n : Fin 8) (v : Vec) : (t.wo n v).f = t.f := rfl
@[simp] theorem wo_v (t : Slot) (n : Fin 8) (v : Vec) : (t.wo n v).v = t.v := rfl
@[simp] theorem wo_b (t : Slot) (n : Fin 8) (v : Vec) : (t.wo n v).b = t.b := rfl
@[simp] theorem wo_k (t : Slot) (n : Fin 8) (v : Vec) : (t.wo n v).k = t.k := rfl
@[simp] theorem wo_h (t : Slot) (n : Fin 8) (v : Vec) : (t.wo n v).h = t.h := rfl
@[simp] theorem wo_cb (t : Slot) (n : Fin 8) (v : Vec) : (t.wo n v).cb = t.cb := rfl
@[simp] theorem wo_shadow (t : Slot) (n : Fin 8) (v : Vec) : (t.wo n v).shadow = t.shadow := rfl
@[simp] theorem wo_u (t : Slot) (n : Fin 8) (v : Vec) : (t.wo n v).u = t.u := rfl
@[simp] theorem wo_sc (t : Slot) (n : Fin 8) (v : Vec) : (t.wo n v).sc = t.sc := rfl
@[simp] theorem wo_rv (t : Slot) (n : Fin 8) (v : Vec) : (t.wo n v).rv = t.rv := rfl
@[simp] theorem wo_inbox (t : Slot) (n : Fin 8) (v : Vec) : (t.wo n v).inbox = t.inbox := rfl
@[simp] theorem wo_ibReserved (t : Slot) (n : Fin 8) (v : Vec) : (t.wo n v).ibReserved = t.ibReserved := rfl
@[simp] theorem wo_ibSeq (t : Slot) (n : Fin 8) (v : Vec) : (t.wo n v).ibSeq = t.ibSeq := rfl
@[simp] theorem wo_uiFresh (t : Slot) (n : Fin 8) (v : Vec) : (t.wo n v).uiFresh = t.uiFresh := rfl
@[simp] theorem wo_cbDepth (t : Slot) (n : Fin 8) (v : Vec) : (t.wo n v).cbDepth = t.cbDepth := rfl
@[simp] theorem wo_cbStack (t : Slot) (n : Fin 8) (v : Vec) : (t.wo n v).cbStack = t.cbStack := rfl
@[simp] theorem wo_poolOf (t : Slot) (n : Fin 8) (v : Vec) : (t.wo n v).poolOf = t.poolOf := rfl
@[simp] theorem wo_job (t : Slot) (n : Fin 8) (v : Vec) : (t.wo n v).job = t.job := rfl
@[simp] theorem wo_ctx (t : Slot) (n : Fin 8) (v : Vec) : (t.wo n v).ctx = t.ctx := rfl
@[simp] theorem wo_home (t : Slot) (n : Fin 8) (v : Vec) : (t.wo n v).home = t.home := rfl
@[simp] theorem wo_ctxCounter (t : Slot) (n : Fin 8) (v : Vec) : (t.wo n v).ctxCounter = t.ctxCounter := rfl
@[simp] theorem wo_wait (t : Slot) (n : Fin 8) (v : Vec) : (t.wo n v).wait = t.wait := rfl
@[simp] theorem wo_resv (t : Slot) (n : Fin 8) (v : Vec) : (t.wo n v).resv = t.resv := rfl
@[simp] theorem wo_posted (t : Slot) (n : Fin 8) (v : Vec) : (t.wo n v).posted = t.posted := rfl
@[simp] theorem wo_held (t : Slot) (n : Fin 8) (v : Vec) : (t.wo n v).held = t.held := rfl
@[simp] theorem wo_stSeq (t : Slot) (n : Fin 8) (v : Vec) : (t.wo n v).stSeq = t.stSeq := rfl
@[simp] theorem wo_far (t : Slot) (n : Fin 8) (v : Vec) : (t.wo n v).far = t.far := rfl
@[simp] theorem wo_refHeld (t : Slot) (n : Fin 8) (v : Vec) : (t.wo n v).refHeld = t.refHeld := rfl
@[simp] theorem wo_moves (t : Slot) (n : Fin 8) (v : Vec) : (t.wo n v).moves = t.moves := rfl
@[simp] theorem wo_trapRec (t : Slot) (n : Fin 8) (v : Vec) : (t.wo n v).trapRec = t.trapRec := rfl
@[simp] theorem wo_arr (t : Slot) (n : Fin 8) (v : Vec) : (t.wo n v).arr = t.arr := rfl
@[simp] theorem wo_calls (t : Slot) (n : Fin 8) (v : Vec) : (t.wo n v).calls = t.calls := rfl
@[simp] theorem wo_gang (t : Slot) (n : Fin 8) (v : Vec) : (t.wo n v).gang = t.gang := rfl
@[simp] theorem wo_issWait (t : Slot) (n : Fin 8) (v : Vec) : (t.wo n v).issWait = t.issWait := rfl
@[simp] theorem wo_aged (t : Slot) (n : Fin 8) (v : Vec) : (t.wo n v).aged = t.aged := rfl
@[simp] theorem wo_quantumUsed (t : Slot) (n : Fin 8) (v : Vec) : (t.wo n v).quantumUsed = t.quantumUsed := rfl
@[simp] theorem wo_origin (t : Slot) (n : Fin 8) (v : Vec) : (t.wo n v).origin = t.origin := rfl
@[simp] theorem wo_parked (t : Slot) (n : Fin 8) (v : Vec) : (t.wo n v).parked = t.parked := rfl
@[simp] theorem wo_instret (t : Slot) (n : Fin 8) (v : Vec) : (t.wo n v).instret = t.instret := rfl
@[simp] theorem wo_current (t : Slot) (n : Fin 8) (v : Vec) : (t.wo n v).current = t.current := rfl

@[simp] theorem push_st (t : Slot) (v : Vec) : (t.push v).st = t.st := rfl
@[simp] theorem push_priv (t : Slot) (v : Vec) : (t.push v).priv = t.priv := rfl
@[simp] theorem push_pc (t : Slot) (v : Vec) : (t.push v).pc = t.pc := rfl
@[simp] theorem push_x (t : Slot) (v : Vec) : (t.push v).x = t.x := rfl
@[simp] theorem push_f (t : Slot) (v : Vec) : (t.push v).f = t.f := rfl
@[simp] theorem push_v (t : Slot) (v : Vec) : (t.push v).v = t.v := rfl
@[simp] theorem push_o (t : Slot) (v : Vec) : (t.push v).o = t.o := rfl
@[simp] theorem push_k (t : Slot) (v : Vec) : (t.push v).k = t.k := rfl
@[simp] theorem push_h (t : Slot) (v : Vec) : (t.push v).h = t.h := rfl
@[simp] theorem push_cb (t : Slot) (v : Vec) : (t.push v).cb = t.cb := rfl
@[simp] theorem push_shadow (t : Slot) (v : Vec) : (t.push v).shadow = t.shadow := rfl
@[simp] theorem push_u (t : Slot) (v : Vec) : (t.push v).u = t.u := rfl
@[simp] theorem push_sc (t : Slot) (v : Vec) : (t.push v).sc = t.sc := rfl
@[simp] theorem push_rv (t : Slot) (v : Vec) : (t.push v).rv = t.rv := rfl
@[simp] theorem push_inbox (t : Slot) (v : Vec) : (t.push v).inbox = t.inbox := rfl
@[simp] theorem push_ibReserved (t : Slot) (v : Vec) : (t.push v).ibReserved = t.ibReserved := rfl
@[simp] theorem push_ibSeq (t : Slot) (v : Vec) : (t.push v).ibSeq = t.ibSeq := rfl
@[simp] theorem push_uiFresh (t : Slot) (v : Vec) : (t.push v).uiFresh = t.uiFresh := rfl
@[simp] theorem push_cbDepth (t : Slot) (v : Vec) : (t.push v).cbDepth = t.cbDepth := rfl
@[simp] theorem push_cbStack (t : Slot) (v : Vec) : (t.push v).cbStack = t.cbStack := rfl
@[simp] theorem push_poolOf (t : Slot) (v : Vec) : (t.push v).poolOf = t.poolOf := rfl
@[simp] theorem push_job (t : Slot) (v : Vec) : (t.push v).job = t.job := rfl
@[simp] theorem push_ctx (t : Slot) (v : Vec) : (t.push v).ctx = t.ctx := rfl
@[simp] theorem push_home (t : Slot) (v : Vec) : (t.push v).home = t.home := rfl
@[simp] theorem push_ctxCounter (t : Slot) (v : Vec) : (t.push v).ctxCounter = t.ctxCounter := rfl
@[simp] theorem push_wait (t : Slot) (v : Vec) : (t.push v).wait = t.wait := rfl
@[simp] theorem push_resv (t : Slot) (v : Vec) : (t.push v).resv = t.resv := rfl
@[simp] theorem push_posted (t : Slot) (v : Vec) : (t.push v).posted = t.posted := rfl
@[simp] theorem push_held (t : Slot) (v : Vec) : (t.push v).held = t.held := rfl
@[simp] theorem push_stSeq (t : Slot) (v : Vec) : (t.push v).stSeq = t.stSeq := rfl
@[simp] theorem push_far (t : Slot) (v : Vec) : (t.push v).far = t.far := rfl
@[simp] theorem push_refHeld (t : Slot) (v : Vec) : (t.push v).refHeld = t.refHeld := rfl
@[simp] theorem push_moves (t : Slot) (v : Vec) : (t.push v).moves = t.moves := rfl
@[simp] theorem push_trapRec (t : Slot) (v : Vec) : (t.push v).trapRec = t.trapRec := rfl
@[simp] theorem push_arr (t : Slot) (v : Vec) : (t.push v).arr = t.arr := rfl
@[simp] theorem push_calls (t : Slot) (v : Vec) : (t.push v).calls = t.calls := rfl
@[simp] theorem push_gang (t : Slot) (v : Vec) : (t.push v).gang = t.gang := rfl
@[simp] theorem push_issWait (t : Slot) (v : Vec) : (t.push v).issWait = t.issWait := rfl
@[simp] theorem push_aged (t : Slot) (v : Vec) : (t.push v).aged = t.aged := rfl
@[simp] theorem push_quantumUsed (t : Slot) (v : Vec) : (t.push v).quantumUsed = t.quantumUsed := rfl
@[simp] theorem push_origin (t : Slot) (v : Vec) : (t.push v).origin = t.origin := rfl
@[simp] theorem push_parked (t : Slot) (v : Vec) : (t.push v).parked = t.parked := rfl
@[simp] theorem push_instret (t : Slot) (v : Vec) : (t.push v).instret = t.instret := rfl
@[simp] theorem push_current (t : Slot) (v : Vec) : (t.push v).current = t.current := rfl

@[simp] theorem retire_priv (t : Slot) (n : Nat) : (t.retire n).priv = t.priv := rfl
@[simp] theorem retire_x (t : Slot) (n : Nat) : (t.retire n).x = t.x := rfl
@[simp] theorem retire_f (t : Slot) (n : Nat) : (t.retire n).f = t.f := rfl
@[simp] theorem retire_v (t : Slot) (n : Nat) : (t.retire n).v = t.v := rfl
@[simp] theorem retire_o (t : Slot) (n : Nat) : (t.retire n).o = t.o := rfl
@[simp] theorem retire_b (t : Slot) (n : Nat) : (t.retire n).b = t.b := rfl
@[simp] theorem retire_k (t : Slot) (n : Nat) : (t.retire n).k = t.k := rfl
@[simp] theorem retire_h (t : Slot) (n : Nat) : (t.retire n).h = t.h := rfl
@[simp] theorem retire_cb (t : Slot) (n : Nat) : (t.retire n).cb = t.cb := rfl
@[simp] theorem retire_shadow (t : Slot) (n : Nat) : (t.retire n).shadow = t.shadow := rfl
@[simp] theorem retire_u (t : Slot) (n : Nat) : (t.retire n).u = t.u := rfl
@[simp] theorem retire_sc (t : Slot) (n : Nat) : (t.retire n).sc = t.sc := rfl
@[simp] theorem retire_rv (t : Slot) (n : Nat) : (t.retire n).rv = t.rv := rfl
@[simp] theorem retire_inbox (t : Slot) (n : Nat) : (t.retire n).inbox = t.inbox := rfl
@[simp] theorem retire_ibReserved (t : Slot) (n : Nat) : (t.retire n).ibReserved = t.ibReserved := rfl
@[simp] theorem retire_ibSeq (t : Slot) (n : Nat) : (t.retire n).ibSeq = t.ibSeq := rfl
@[simp] theorem retire_uiFresh (t : Slot) (n : Nat) : (t.retire n).uiFresh = t.uiFresh := rfl
@[simp] theorem retire_cbDepth (t : Slot) (n : Nat) : (t.retire n).cbDepth = t.cbDepth := rfl
@[simp] theorem retire_cbStack (t : Slot) (n : Nat) : (t.retire n).cbStack = t.cbStack := rfl
@[simp] theorem retire_poolOf (t : Slot) (n : Nat) : (t.retire n).poolOf = t.poolOf := rfl
@[simp] theorem retire_job (t : Slot) (n : Nat) : (t.retire n).job = t.job := rfl
@[simp] theorem retire_ctx (t : Slot) (n : Nat) : (t.retire n).ctx = t.ctx := rfl
@[simp] theorem retire_home (t : Slot) (n : Nat) : (t.retire n).home = t.home := rfl
@[simp] theorem retire_ctxCounter (t : Slot) (n : Nat) : (t.retire n).ctxCounter = t.ctxCounter := rfl
@[simp] theorem retire_resv (t : Slot) (n : Nat) : (t.retire n).resv = t.resv := rfl
@[simp] theorem retire_posted (t : Slot) (n : Nat) : (t.retire n).posted = t.posted := rfl
@[simp] theorem retire_held (t : Slot) (n : Nat) : (t.retire n).held = t.held := rfl
@[simp] theorem retire_stSeq (t : Slot) (n : Nat) : (t.retire n).stSeq = t.stSeq := rfl
@[simp] theorem retire_refHeld (t : Slot) (n : Nat) : (t.retire n).refHeld = t.refHeld := rfl
@[simp] theorem retire_moves (t : Slot) (n : Nat) : (t.retire n).moves = t.moves := rfl
@[simp] theorem retire_trapRec (t : Slot) (n : Nat) : (t.retire n).trapRec = t.trapRec := rfl
@[simp] theorem retire_arr (t : Slot) (n : Nat) : (t.retire n).arr = t.arr := rfl
@[simp] theorem retire_calls (t : Slot) (n : Nat) : (t.retire n).calls = t.calls := rfl
@[simp] theorem retire_gang (t : Slot) (n : Nat) : (t.retire n).gang = t.gang := rfl
@[simp] theorem retire_issWait (t : Slot) (n : Nat) : (t.retire n).issWait = t.issWait := rfl
@[simp] theorem retire_aged (t : Slot) (n : Nat) : (t.retire n).aged = t.aged := rfl
@[simp] theorem retire_quantumUsed (t : Slot) (n : Nat) : (t.retire n).quantumUsed = t.quantumUsed := rfl
@[simp] theorem retire_dirty (t : Slot) (n : Nat) : (t.retire n).dirty = t.dirty := rfl
@[simp] theorem retire_origin (t : Slot) (n : Nat) : (t.retire n).origin = t.origin := rfl
@[simp] theorem retire_parked (t : Slot) (n : Nat) : (t.retire n).parked = t.parked := rfl
@[simp] theorem retire_current (t : Slot) (n : Nat) : (t.retire n).current = t.current := rfl

@[simp] theorem jump_priv (t : Slot) (a : Word) : (t.jump a).priv = t.priv := rfl
@[simp] theorem jump_x (t : Slot) (a : Word) : (t.jump a).x = t.x := rfl
@[simp] theorem jump_f (t : Slot) (a : Word) : (t.jump a).f = t.f := rfl
@[simp] theorem jump_v (t : Slot) (a : Word) : (t.jump a).v = t.v := rfl
@[simp] theorem jump_o (t : Slot) (a : Word) : (t.jump a).o = t.o := rfl
@[simp] theorem jump_b (t : Slot) (a : Word) : (t.jump a).b = t.b := rfl
@[simp] theorem jump_k (t : Slot) (a : Word) : (t.jump a).k = t.k := rfl
@[simp] theorem jump_h (t : Slot) (a : Word) : (t.jump a).h = t.h := rfl
@[simp] theorem jump_cb (t : Slot) (a : Word) : (t.jump a).cb = t.cb := rfl
@[simp] theorem jump_shadow (t : Slot) (a : Word) : (t.jump a).shadow = t.shadow := rfl
@[simp] theorem jump_u (t : Slot) (a : Word) : (t.jump a).u = t.u := rfl
@[simp] theorem jump_sc (t : Slot) (a : Word) : (t.jump a).sc = t.sc := rfl
@[simp] theorem jump_rv (t : Slot) (a : Word) : (t.jump a).rv = t.rv := rfl
@[simp] theorem jump_inbox (t : Slot) (a : Word) : (t.jump a).inbox = t.inbox := rfl
@[simp] theorem jump_ibReserved (t : Slot) (a : Word) : (t.jump a).ibReserved = t.ibReserved := rfl
@[simp] theorem jump_ibSeq (t : Slot) (a : Word) : (t.jump a).ibSeq = t.ibSeq := rfl
@[simp] theorem jump_uiFresh (t : Slot) (a : Word) : (t.jump a).uiFresh = t.uiFresh := rfl
@[simp] theorem jump_cbDepth (t : Slot) (a : Word) : (t.jump a).cbDepth = t.cbDepth := rfl
@[simp] theorem jump_cbStack (t : Slot) (a : Word) : (t.jump a).cbStack = t.cbStack := rfl
@[simp] theorem jump_poolOf (t : Slot) (a : Word) : (t.jump a).poolOf = t.poolOf := rfl
@[simp] theorem jump_job (t : Slot) (a : Word) : (t.jump a).job = t.job := rfl
@[simp] theorem jump_ctx (t : Slot) (a : Word) : (t.jump a).ctx = t.ctx := rfl
@[simp] theorem jump_home (t : Slot) (a : Word) : (t.jump a).home = t.home := rfl
@[simp] theorem jump_ctxCounter (t : Slot) (a : Word) : (t.jump a).ctxCounter = t.ctxCounter := rfl
@[simp] theorem jump_resv (t : Slot) (a : Word) : (t.jump a).resv = t.resv := rfl
@[simp] theorem jump_posted (t : Slot) (a : Word) : (t.jump a).posted = t.posted := rfl
@[simp] theorem jump_held (t : Slot) (a : Word) : (t.jump a).held = t.held := rfl
@[simp] theorem jump_stSeq (t : Slot) (a : Word) : (t.jump a).stSeq = t.stSeq := rfl
@[simp] theorem jump_refHeld (t : Slot) (a : Word) : (t.jump a).refHeld = t.refHeld := rfl
@[simp] theorem jump_moves (t : Slot) (a : Word) : (t.jump a).moves = t.moves := rfl
@[simp] theorem jump_trapRec (t : Slot) (a : Word) : (t.jump a).trapRec = t.trapRec := rfl
@[simp] theorem jump_arr (t : Slot) (a : Word) : (t.jump a).arr = t.arr := rfl
@[simp] theorem jump_calls (t : Slot) (a : Word) : (t.jump a).calls = t.calls := rfl
@[simp] theorem jump_gang (t : Slot) (a : Word) : (t.jump a).gang = t.gang := rfl
@[simp] theorem jump_issWait (t : Slot) (a : Word) : (t.jump a).issWait = t.issWait := rfl
@[simp] theorem jump_aged (t : Slot) (a : Word) : (t.jump a).aged = t.aged := rfl
@[simp] theorem jump_quantumUsed (t : Slot) (a : Word) : (t.jump a).quantumUsed = t.quantumUsed := rfl
@[simp] theorem jump_dirty (t : Slot) (a : Word) : (t.jump a).dirty = t.dirty := rfl
@[simp] theorem jump_origin (t : Slot) (a : Word) : (t.jump a).origin = t.origin := rfl
@[simp] theorem jump_parked (t : Slot) (a : Word) : (t.jump a).parked = t.parked := rfl
@[simp] theorem jump_current (t : Slot) (a : Word) : (t.jump a).current = t.current := rfl

@[simp] theorem retire_pc (t : Slot) (n : Nat) : (t.retire n).pc = t.pc + BitVec.ofNat 64 n := rfl
@[simp] theorem retire_instret (t : Slot) (n : Nat) : (t.retire n).instret = t.instret + 1 := rfl
@[simp] theorem retire_wait (t : Slot) (n : Nat) : (t.retire n).wait = none := rfl
@[simp] theorem retire_far (t : Slot) (n : Nat) : (t.retire n).far = [] := rfl
@[simp] theorem retire_st (t : Slot) (n : Nat) : (t.retire n).st = t.st.woken := rfl
@[simp] theorem jump_far (t : Slot) (a : Word) : (t.jump a).far = [] := rfl
@[simp] theorem jump_pc (t : Slot) (a : Word) : (t.jump a).pc = a := rfl
@[simp] theorem jump_instret (t : Slot) (a : Word) : (t.jump a).instret = t.instret + 1 := rfl

/-! ### Registers -/

@[simp] theorem xr_zero (t : Slot) : t.xr 0#5 = 0#64 := if_pos rfl
@[simp] theorem wx_zero (t : Slot) (v : Word) : t.wx 0#5 v = t := if_pos rfl
theorem xr_wx (t : Slot) (r q : BitVec 5) (v : Word) : (t.wx r v).xr q = if q = 0 then 0 else if q = r then v else t.xr q := by
  by_cases hq : q = 0
  · subst hq; simp
  · rw [if_neg hq]
    by_cases hr : r = 0
    · subst hr; simp; exact fun h => absurd h hq
    · simp only [Slot.wx, Slot.xr, if_neg hr, if_neg hq]
      by_cases e : q = r
      · subst e; simp
      · have : ¬ r.toNat = q.toNat := fun h => e (BitVec.eq_of_toNat_eq h.symm)
        simp [e, this]
theorem xr_wx_same (t : Slot) (r : BitVec 5) (v : Word) (h : r ≠ 0) : (t.wx r v).xr r = v := by
  rw [xr_wx, if_neg h, if_pos rfl]
theorem xr_wx_ne (t : Slot) {r q : BitVec 5} (v : Word) (h : q ≠ r) : (t.wx r v).xr q = t.xr q := by
  rw [xr_wx]
  by_cases e : q = 0
  · subst e; simp
  · rw [if_neg e, if_neg h]
@[simp] theorem xr_retire (t : Slot) (n : Nat) (r : BitVec 5) : (t.retire n).xr r = t.xr r := rfl
@[simp] theorem xr_jump (t : Slot) (a : Word) (r : BitVec 5) : (t.jump a).xr r = t.xr r := rfl
@[simp] theorem hr_retire (t : Slot) (n : Nat) (r : BitVec 4) : (t.retire n).hr r = t.hr r := rfl
@[simp] theorem kr_retire (t : Slot) (n : Nat) (r : BitVec 3) : (t.retire n).kr r = t.kr r := rfl
@[simp] theorem fr_retire (t : Slot) (n : Nat) (r : BitVec 5) : (t.retire n).fr r = t.fr r := rfl
@[simp] theorem kr_zero (t : Slot) : t.kr 0#3 = 0xFFFFFFFF#32 := if_pos rfl
@[simp] theorem wk_zero (t : Slot) (v : Half) : t.wk 0#3 v = t := if_pos rfl
theorem kr_wk (t : Slot) (r q : BitVec 3) (v : Half) :
    (t.wk r v).kr q = if q = 0 then 0xFFFFFFFF else if q = r then v else t.kr q := by
  by_cases hq : q = 0
  · subst hq; simp
  · rw [if_neg hq]
    by_cases hr : r = 0
    · subst hr; simp; exact fun h => absurd h hq
    · simp only [Slot.wk, Slot.kr, if_neg hr, if_neg hq]
      by_cases e : q = r
      · subst e; simp
      · have : ¬ r.toNat = q.toNat := fun h => e (BitVec.eq_of_toNat_eq h.symm)
        simp [e, this]
theorem hr_wh (t : Slot) (r q : BitVec 4) (v : Word) : (t.wh r v).hr q = if q = r then v else t.hr q := by
  unfold Slot.wh Slot.hr
  by_cases e : q = r
  · subst e; simp
  · have : ¬ r.toNat = q.toNat := fun h => e (BitVec.eq_of_toNat_eq h.symm)
    simp [e, this]
theorem fr_wf (t : Slot) (r q : BitVec 5) (v : Word) : (t.wf r v).fr q = if q = r then v else t.fr q := by
  unfold Slot.wf Slot.fr
  by_cases e : q = r
  · subst e; simp
  · have : ¬ r.toNat = q.toNat := fun h => e (BitVec.eq_of_toNat_eq h.symm)
    simp [e, this]

theorem x_setX (s : State) (r q : BitVec 5) (v : Word) : (s.setX r v).x q = if q = 0 then 0 else if q = r then v else s.x q := by
  simp only [State.x, me_setX, xr_wx]

end Machine
end Sys2Proof
end

