-- ==== Sys2Proof/Laws/Bits.lean ====
section
/-! SUPPORT. The elements of packed strings, and what writing a vector destination does to each of them. -/

namespace Sys2Proof

/-! ### Packed elements -/

theorem elemOf_testBit (w v j i : Nat) : (elemOf w v j).testBit i = (decide (i < w) && v.testBit (w * j + i)) := by
  simp [elemOf, Nat.testBit_mod_two_pow, Nat.testBit_div_two_pow, Nat.add_comm]

theorem elemOf_packElems (w : Nat) (l : List Nat) (j : Nat) : elemOf w (packElems w l) j = l.getD j 0 % 2 ^ w := by
  induction l generalizing j with
  | nil => simp [packElems, elemOf]
  | cons x xs ih =>
    cases j with
    | zero => simp [packElems, elemOf, Nat.add_mod]
    | succ j =>
      have h : (x % 2 ^ w + 2 ^ w * packElems w xs) / 2 ^ w = packElems w xs := by
        rw [Nat.add_mul_div_left _ _ (Nat.two_pow_pos w), Nat.div_eq_of_lt (Nat.mod_lt _ (Nat.two_pow_pos w)), Nat.zero_add]
      simp only [packElems, elemOf, List.getD_cons_succ]
      rw [Nat.mul_succ, Nat.add_comm (w * j), Nat.pow_add, ← Nat.div_div_eq_div_mul, h]
      exact ih j

theorem elemOf_buildElems (w n : Nat) (f : Nat → Nat) (j : Nat) :
    elemOf w (buildElems w n f) j = if j < n then f j % 2 ^ w else 0 := by
  rw [buildElems, elemOf_packElems]
  by_cases h : j < n
  · simp [h]
  · simp [h]

theorem packElems_lt (w : Nat) (l : List Nat) : packElems w l < 2 ^ (w * l.length) := by
  induction l with
  | nil => simp [packElems]
  | cons x xs ih =>
    simp only [packElems, List.length_cons, Nat.mul_succ]
    rw [Nat.add_comm (w * xs.length), Nat.pow_add]
    have h1 := Nat.mod_lt x (Nat.two_pow_pos w)
    have h2 : 2 ^ w * (packElems w xs + 1) ≤ 2 ^ w * 2 ^ (w * xs.length) := Nat.mul_le_mul_left _ ih
    rw [Nat.mul_add, Nat.mul_one] at h2
    omega

theorem buildElems_lt (w n : Nat) (f : Nat → Nat) : buildElems w n f < 2 ^ (w * n) := by
  have h := packElems_lt w ((List.range n).map f)
  simpa [buildElems] using h

/-- An element lies in one 32-bit lane. -/
theorem elemOf_lane (w m v j : Nat) (h : w * m = 32) : elemOf w (elemOf 32 v (j / m)) (j % m) = elemOf w v j := by
  have hm : 0 < m := by
    rcases Nat.eq_zero_or_pos m with e | e
    · subst e; omega
    · exact e
  apply Nat.eq_of_testBit_eq
  intro i
  rw [elemOf_testBit, elemOf_testBit, elemOf_testBit]
  by_cases hi : i < w
  · have h1 : j % m < m := Nat.mod_lt _ hm
    have h2 : w * (j % m) + i < 32 := by
      have : w * (j % m) + w ≤ w * m := by
        rw [← Nat.mul_succ]; exact Nat.mul_le_mul_left _ h1
      omega
    have h3 : 32 * (j / m) + (w * (j % m) + i) = w * j + i := by
      have := Nat.div_add_mod j m
      have h4 : w * j = w * (m * (j / m)) + w * (j % m) := by rw [← Nat.mul_add, this]
      rw [← Nat.mul_assoc, h] at h4
      omega
    simp [hi, h2, h3]
  · simp [hi]

namespace Machine

/-! ### Vector destinations -/

/-- The widths that divide a lane. -/
theorem width_lane (ty : ElTy) (h : ty ≠ .i64) : ∃ m, ty.width * m = 32 ∧ 0 < ty.width := by
  refine ⟨32 / ty.width, ?_⟩
  cases ty <;> first | exact absurd rfl h | decide

theorem elemOf_blend (w m k a b j : Nat) (h : w * m = 32) (hw : 0 < w) (hj : j < perReg w) :
    elemOf w (blend k a b) j = if elemOn k w j then elemOf w a j else elemOf w b j := by
  have hm : 0 < m := by
    rcases Nat.eq_zero_or_pos m with e | e
    · subst e; omega
    · exact e
  have hp : perReg w = 32 * m := by
    unfold perReg
    have : 1024 = w * (32 * m) := by rw [Nat.mul_left_comm, h]
    rw [this, Nat.mul_div_cancel_left _ hw]
  have hl : j / m < 32 := by rw [Nat.div_lt_iff_lt_mul hm]; omega
  have hk : w * j / 32 = j / m := by rw [← h, Nat.mul_div_mul_left _ _ hw]
  rw [← elemOf_lane w m _ j h, blend, elemOf_buildElems, if_pos (by simpa [lanes] using hl), elemOn, hk]
  have fit : ∀ v, elemOf 32 v (j / m) % 2 ^ 32 = elemOf 32 v (j / m) := fun v => by simp [elemOf]
  split
  · rw [fit, elemOf_lane w m a j h]
  · rw [fit, elemOf_lane w m b j h]

theorem blend_toNat (k a b : Nat) : (BitVec.ofNat 1024 (blend k a b)).toNat = blend k a b := by
  have h : blend k a b < 2 ^ 1024 := buildElems_lt 32 32 _
  simp [Nat.mod_eq_of_lt h]

theorem elemOf_buildReg (w : Nat) (f : Nat → Nat) (j : Nat) (hj : j < perReg w) : elemOf w (buildReg w f) j = f j % 2 ^ w := by
  rw [buildReg, elemOf_buildElems, if_pos hj]

end Machine
end Sys2Proof
end

