-- ==== Sys2Proof/Laws/Thread.lean ====
section
/-! SUPPORT. What a step of one thread does, said once for each shape: a register written, a jump, a vector result. -/

namespace Sys2Proof.Machine

theorem onlyThread_setMe (s : State) (u : Slot) : OnlyThread s (s.setMe u) :=
  ⟨rfl, fun _ => rfl, fun _ => rfl, fun _ h => slot_setMe_ne s u h⟩

theorem onlyThread_trans {s t u : State} (h : OnlyThread s t) (k : OnlyThread t u) : OnlyThread s u := by
  have hc : t.cur = s.cur := by rw [h.rest]
  refine ⟨?_, fun a => (k.memory a).trans (h.memory a), fun a => (k.presence a).trans (h.presence a), ?_⟩
  · have h1 := h.rest
    have k1 := k.rest
    rw [k1, h1]
  · intro l hl
    rw [k.others l (by rw [hc]; exact hl), h.others l hl]

theorem onlyThread_retire (s : State) (u : Slot) (n : Nat) : OnlyThread s ((s.setMe u).retire n) :=
  onlyThread_trans (onlyThread_setMe s u) (onlyThread_setMe _ _)

/-- A slot written and then retired. -/
theorem threadStep_retire (s : State) (u v : Slot) (n : Nat) (hp : u.pc = s.me.pc) (hi : u.instret = s.me.instret)
    (hs : u.st = s.me.st) (hv : u = { v with pc := u.pc, instret := u.instret, wait := u.wait, far := u.far, st := u.st }) :
    ThreadStep s ((s.setMe u).retire n) n v := by
  refine ⟨onlyThread_retire s u n, ?_⟩
  rw [me_retire, me_setMe, Slot.retire, hp, hi, hs]
  rw [hv]

theorem writesNone_retire (s : State) (n : Nat) : WritesNone s (s.retire n) n :=
  ⟨onlyThread_setMe s _, by rw [me_retire]; rfl⟩

theorem writesX_retire (s : State) (r : BitVec 5) (v : Word) (n : Nat) : WritesX s ((s.setX r v).retire n) r v n := by
  refine ⟨threadStep_retire s (s.me.wx r v) _ n (by simp) (by simp) (by simp) ?_, ?_⟩
  · simp only [me_retire, me_setX]
    unfold Slot.wx
    split <;> rfl
  · intro q
    show ((s.setX r v).retire n).me.xr q = _
    rw [me_retire, xr_retire, me_setX, xr_wx]
    rfl

theorem writesXX_retire (s : State) (p q : BitVec 5) (v w : Word) (n : Nat) :
    WritesXX s (((s.setX p v).setX q w).retire n) p v q w n := by
  have e : ((s.setX p v).setX q w).retire n = (s.setMe ((s.me.wx p v).wx q w)).retire n := by
    simp only [State.setX, State.modMe, me_setMe, setMe_setMe]
  rw [e]
  refine ⟨threadStep_retire s _ _ n (by simp) (by simp) (by simp) ?_, ?_⟩
  · simp only [me_retire, me_setMe]
    unfold Slot.wx
    split <;> split <;> rfl
  · intro r
    show ((s.setMe _).retire n).me.xr r = _
    rw [me_retire, xr_retire, me_setMe, xr_wx, xr_wx]
    by_cases h : r = 0
    · simp [h]
    · rw [if_neg h, if_neg h, if_neg h]
      rfl

theorem writesK_retire (s : State) (d : BitVec 3) (v : Half) (n : Nat) : WritesK s ((s.modMe (·.wk d v)).retire n) d v n := by
  refine ⟨threadStep_retire s (s.me.wk d v) _ n (by simp) (by simp) (by simp) ?_, ?_, ?_⟩
  · simp only [me_retire, me_modMe]
    unfold Slot.wk
    split <;> rfl
  · simp only [me_retire, me_modMe, retire_dirty]
    unfold Slot.wk
    split <;> rfl
  · intro q
    rw [me_retire, kr_retire, me_modMe, kr_wk]

theorem writesH_retire (s : State) (d : BitVec 4) (v : Word) (n : Nat) : WritesH s ((s.setH d v).retire n) d v n := by
  refine ⟨threadStep_retire s (s.me.wh d v) _ n rfl rfl rfl (by simp only [me_retire, me_setH, retire_h]; rfl), ?_⟩
  intro q
  show ((s.setH d v).retire n).me.hr q = _
  rw [me_retire, hr_retire, me_setH, hr_wh]
  rfl

theorem writesF_retire (s : State) (d : BitVec 5) (v : Word) (fl n : Nat) :
    WritesF s ((s.modMe (fun t => (t.wf d v).flag fl)).retire n) d v fl n := by
  refine ⟨threadStep_retire s ((s.me.wf d v).flag fl) _ n rfl rfl rfl (by simp only [me_retire, me_modMe, retire_f]; rfl), ?_⟩
  intro q
  rw [me_retire, fr_retire, me_modMe]
  exact fr_wf s.me d q v

theorem threadJump_jump (s : State) (u v : Slot) (a : Word) (hi : u.instret = s.me.instret)
    (hs : u.st = s.me.st) (hv : u = { v with pc := u.pc, instret := u.instret, wait := u.wait, far := u.far, st := u.st }) :
    ThreadJump s ((s.setMe u).jump a) a v := by
  refine ⟨onlyThread_trans (onlyThread_setMe s u) (onlyThread_setMe _ _), ?_⟩
  rw [me_jump, me_setMe, Slot.jump, hi, hs]
  rw [hv]

/-! ### Vector results -/

theorem extElem_mod (ty : ElTy) (v : Nat) : extElem ty (v % 2 ^ ty.width) = extElem ty v := by
  unfold extElem sextW sval
  simp

/-- Writing a vector destination under a mask, the result given by element. -/
theorem vecResult_writeDst (s : State) (ty : ElTy) (d : Dst) (k r : Nat) (f : Nat → Nat) (m : Nat) (hty : ty ≠ .i64)
    (hr : ∀ j, j < perReg ty.width → elemOf ty.width r j = f j % 2 ^ ty.width) :
    VecResult s ((s.setMe (s.me.writeDst ty d k r m)).retire 8) ty d k f := by
  obtain ⟨q, hm, hw⟩ := width_lane ty hty
  have hpos : 0 < perReg ty.width := by
    have hle : ty.width ≤ 1024 := by cases ty <;> decide
    exact Nat.div_pos hle hw
  have el (b : Nat) (j : Nat) (hj : j < perReg ty.width) :
      elemOf ty.width (BitVec.ofNat 1024 (blend k r b)).toNat j
        = if elemOn k ty.width j then f j % 2 ^ ty.width else elemOf ty.width b j := by
    rw [blend_toNat, elemOf_blend ty.width q k r b j hm hw hj, hr j hj]
  cases d with
  | v n =>
    refine ⟨threadStep_retire s _ _ 8 rfl rfl rfl (by simp only [me_retire, me_setMe, retire_x, retire_v, retire_o, retire_b, retire_dirty]; rfl), ?_, ?_, ?_⟩
    · refine ⟨?_, ?_, ?_, ?_, ?_⟩
      · intro j hj
        simp only [me_retire, me_setMe, retire_v, Slot.writeDst, push_v, Slot.wv]
        simp only [Fin.getElem_fin, Vector.getElem_set_self]
        exact el _ j hj
      · intro i hi
        simp only [me_retire, me_setMe, retire_v, Slot.writeDst, push_v, Slot.wv]
        simp only [Fin.getElem_fin]
        rw [Vector.getElem_set_ne]
        exact fun e => hi (Fin.ext e.symm)
      · rw [me_retire, me_setMe]; rfl
      · rw [me_retire, me_setMe]; rfl
      · simp [me_retire, me_setMe, Slot.writeDst, Slot.push, Slot.wv]
    · intro _ x h; cases h
    · rw [me_retire, me_setMe]; exact ⟨rfl, rfl, rfl⟩
  | o n =>
    refine ⟨threadStep_retire s _ _ 8 rfl rfl rfl (by simp only [me_retire, me_setMe, retire_x, retire_v, retire_o, retire_b, retire_dirty]; rfl), ?_, ?_, ?_⟩
    · refine ⟨?_, ?_, ?_, ?_, ?_⟩
      · intro j hj
        simp only [me_retire, me_setMe, retire_o, Slot.writeDst, push_o, Slot.wo]
        simp only [Fin.getElem_fin, Vector.getElem_set_self]
        exact el _ j hj
      · intro i hi
        simp only [me_retire, me_setMe, retire_o, Slot.writeDst, push_o, Slot.wo]
        simp only [Fin.getElem_fin]
        rw [Vector.getElem_set_ne]
        exact fun e => hi (Fin.ext e.symm)
      · rw [me_retire, me_setMe]; rfl
      · rw [me_retire, me_setMe]; rfl
      · simp [me_retire, me_setMe, Slot.writeDst, Slot.push, Slot.wo]
    · intro _ x h; cases h
    · rw [me_retire, me_setMe]; exact ⟨rfl, rfl, rfl⟩
  | x n =>
    have e0 : extElem ty (elemOf ty.width r 0) = extElem ty (f 0) := by rw [hr 0 hpos, extElem_mod]
    refine ⟨?_, ⟨?_, ?_, ?_⟩, ?_, ?_⟩
    · refine threadStep_retire s _ _ 8 ?_ ?_ ?_ ?_
      · simp only [Slot.writeDst, push_pc]; split <;> simp
      · simp only [Slot.writeDst, push_instret]; split <;> simp
      · simp only [Slot.writeDst, push_st]; split <;> simp
      · simp only [Slot.writeDst, me_retire, me_setMe]
        split
        · unfold Slot.wx; split <;> rfl
        · rfl
    · intro j hj
      simp only [me_retire, me_setMe, retire_b, Slot.writeDst, Slot.push]
      have := el 0 j hj
      simpa [Slot.dst, elemOf] using this
    · simp only [me_retire, me_setMe, retire_v, Slot.writeDst, push_v]; split <;> simp
    · simp only [me_retire, me_setMe, retire_o, Slot.writeDst, push_o]; split <;> simp
    · intro hsb q hq p
      cases hq
      show ((s.setMe _).retire 8).me.xr p = _
      rw [me_retire, xr_retire, me_setMe]
      have hx : scalarOf ty m r = extElem ty (elemOf ty.width r 0) := by
        unfold scalarOf
        rw [if_neg (by simpa using hsb)]
      show (if laneOn k 0 then s.me.wx n (scalarOf ty m r) else s.me).xr p = _
      rw [hx]
      by_cases hl : laneOn k 0 = true
      · simp only [hl, if_true, and_true]
        rw [xr_wx, e0]
        rfl
      · have hf : laneOn k 0 = false := by simpa using hl
        simp only [hf, Bool.false_eq_true, if_false, and_false]
        by_cases h0 : p = 0
        · subst h0; simp
        · rw [if_neg h0]; rfl
    · simp only [me_retire, me_setMe, retire_b, Slot.writeDst, Slot.push]
      refine ⟨?_, ?_, ?_⟩ <;> (split <;> simp)

end Sys2Proof.Machine
end

