-- ==== Sys2Proof/Laws/Units.lean ====
section
/-! SUPPORT. Units by number after an update, in one form for every number, and a thread's update that only it sees. -/

namespace Sys2Proof.Machine

theorem slot_setSlot (s : State) (k j : Nat) (x : Slot) : (s.setSlot k x).slot j = if j = k then x else s.slot j := by
  by_cases h : j = k
  · subst h; simp
  · rw [if_neg h, slot_setSlot_ne _ _ h]
theorem slot_modSlot (s : State) (k j : Nat) (f : Slot → Slot) :
    (s.modSlot k f).slot j = if j = k then f (s.slot k) else s.slot j := slot_setSlot _ _ _ _
theorem slot_setMe (s : State) (j : Nat) (x : Slot) : (s.setMe x).slot j = if j = s.cur then x else s.slot j :=
  slot_setSlot _ _ _ _
theorem slot_modMe (s : State) (j : Nat) (f : Slot → Slot) :
    (s.modMe f).slot j = if j = s.cur then f s.me else s.slot j := slot_setSlot _ _ _ _
theorem core_setCore (s : State) (k j : Nat) (x : Core) : (s.setCore k x).core j = if j = k then x else s.core j := by
  by_cases h : j = k
  · subst h; simp
  · rw [if_neg h, core_setCore_ne _ _ h]
theorem core_modCore (s : State) (k j : Nat) (f : Core → Core) :
    (s.modCore k f).core j = if j = k then f (s.core k) else s.core j := core_setCore _ _ _ _
theorem clu_setClu (s : State) (k j : Nat) (x : Clu) : (s.setClu k x).clu j = if j = k then x else s.clu j := by
  by_cases h : j = k
  · subst h; simp
  · rw [if_neg h, clu_setClu_ne _ _ h]
theorem clu_modClu (s : State) (k j : Nat) (f : Clu → Clu) :
    (s.modClu k f).clu j = if j = k then f (s.clu k) else s.clu j := clu_setClu _ _ _ _
theorem die_setDie (s : State) (k j : Nat) (x : Die) : (s.setDie k x).die j = if j = k then x else s.die j := by
  by_cases h : j = k
  · subst h; simp
  · rw [if_neg h, die_setDie_ne _ _ h]
theorem die_modDie (s : State) (k j : Nat) (f : Die → Die) :
    (s.modDie k f).die j = if j = k then f (s.die k) else s.die j := die_setDie _ _ _ _

@[simp] theorem slot_setCore (s : State) (k j : Nat) (x : Core) : (s.setCore k x).slot j = s.slot j := rfl
@[simp] theorem slot_modCore (s : State) (k j : Nat) (f : Core → Core) : (s.modCore k f).slot j = s.slot j := rfl
@[simp] theorem slot_setClu (s : State) (k j : Nat) (x : Clu) : (s.setClu k x).slot j = s.slot j := rfl
@[simp] theorem slot_modClu (s : State) (k j : Nat) (f : Clu → Clu) : (s.modClu k f).slot j = s.slot j := rfl
@[simp] theorem slot_setDie (s : State) (k j : Nat) (x : Die) : (s.setDie k x).slot j = s.slot j := rfl
@[simp] theorem slot_modDie (s : State) (k j : Nat) (f : Die → Die) : (s.modDie k f).slot j = s.slot j := rfl
@[simp] theorem me_modCore (s : State) (k : Nat) (f : Core → Core) : (s.modCore k f).me = s.me := rfl
@[simp] theorem me_setCore (s : State) (k : Nat) (x : Core) : (s.setCore k x).me = s.me := rfl
@[simp] theorem me_modDie (s : State) (k : Nat) (f : Die → Die) : (s.modDie k f).me = s.me := rfl
@[simp] theorem me_setDie (s : State) (k : Nat) (x : Die) : (s.setDie k x).me = s.me := rfl
@[simp] theorem me_modClu (s : State) (k : Nat) (f : Clu → Clu) : (s.modClu k f).me = s.me := rfl
@[simp] theorem me_setClu (s : State) (k : Nat) (x : Clu) : (s.setClu k x).me = s.me := rfl
@[simp] theorem core_setSlot (s : State) (k j : Nat) (x : Slot) : (s.setSlot k x).core j = s.core j := rfl
@[simp] theorem core_modSlot (s : State) (k j : Nat) (f : Slot → Slot) : (s.modSlot k f).core j = s.core j := rfl
@[simp] theorem core_setMe (s : State) (j : Nat) (x : Slot) : (s.setMe x).core j = s.core j := rfl
@[simp] theorem core_modMe (s : State) (j : Nat) (f : Slot → Slot) : (s.modMe f).core j = s.core j := rfl
@[simp] theorem core_retire (s : State) (j n : Nat) : (s.retire n).core j = s.core j := rfl
@[simp] theorem core_setX (s : State) (j : Nat) (r : BitVec 5) (v : Word) : (s.setX r v).core j = s.core j := rfl
@[simp] theorem die_setMe (s : State) (j : Nat) (x : Slot) : (s.setMe x).die j = s.die j := rfl
@[simp] theorem die_modMe (s : State) (j : Nat) (f : Slot → Slot) : (s.modMe f).die j = s.die j := rfl
@[simp] theorem die_retire (s : State) (j n : Nat) : (s.retire n).die j = s.die j := rfl
@[simp] theorem die_setX (s : State) (j : Nat) (r : BitVec 5) (v : Word) : (s.setX r v).die j = s.die j := rfl
@[simp] theorem clu_setMe (s : State) (j : Nat) (x : Slot) : (s.setMe x).clu j = s.clu j := rfl
@[simp] theorem clu_modMe (s : State) (j : Nat) (f : Slot → Slot) : (s.modMe f).clu j = s.clu j := rfl

theorem slot_retire (s : State) (j n : Nat) : (s.retire n).slot j = if j = s.cur then s.me.retire n else s.slot j := slot_modMe _ _ _
theorem slot_setX (s : State) (j : Nat) (r : BitVec 5) (v : Word) :
    (s.setX r v).slot j = if j = s.cur then s.me.wx r v else s.slot j := slot_modMe _ _ _

theorem finish_eq (s : State) (rd : BitVec 5) (st : Status) (n : Nat) : s.finish rd st n = (s.setX rd st.word).retire n := rfl

theorem writesX_finish (s : State) (rd : BitVec 5) (st : Status) (n : Nat) : WritesX s (s.finish rd st n) rd st.word n :=
  writesX_retire s rd st.word n

theorem onlyThread_modMe (s : State) (f : Slot → Slot) : OnlyThread s (s.modMe f) := onlyThread_setMe s _

theorem wx_eta (t : Slot) (r : BitVec 5) (v : Word) : t.wx r v = { t with x := (t.wx r v).x } := by
  unfold Slot.wx; split <;> rfl

end Sys2Proof.Machine
end

