-- ==== Sys2Proof/Laws/Access.lean ====
section
/-! SUPPORT. What a thread's accesses can change: translation, posting, holding, serving and writing stores, releases. -/

namespace Sys2Proof.Machine

/-- Only the parts that a thread's accesses touch may differ: memory, slots, cores, free values, and what goes to and
comes from other packages and the message network. -/
structure Touches (s t : State) : Prop where
  eq : t = { s with mem := t.mem, slots := t.slots, cores := t.cores, fresh := t.fresh, remote := t.remote, outs := t.outs,
                    nextFar := t.nextFar, farOut := t.farOut, farTo := t.farTo, farResv := t.farResv, arrivals := t.arrivals }

theorem Touches.refl (s : State) : Touches s s := ⟨rfl⟩

theorem Touches.trans {s t u : State} (h : Touches s t) (k : Touches t u) : Touches s u := by
  constructor
  have h1 := h.eq
  have k1 := k.eq
  rw [k1, h1]

theorem Touches.cur {s t : State} (h : Touches s t) : t.cur = s.cur := by rw [h.eq]
theorem Touches.pkg {s t : State} (h : Touches s t) : t.pkg = s.pkg := by rw [h.eq]
theorem Touches.dies {s t : State} (h : Touches s t) : t.dies = s.dies := by rw [h.eq]
theorem Touches.cycle {s t : State} (h : Touches s t) : t.cycle = s.cycle := by rw [h.eq]

theorem touches_foldl {α : Type} (f : State → α → State) (h : ∀ s a, Touches s (f s a)) (l : List α) (s : State) :
    Touches s (l.foldl f s) := by
  induction l generalizing s with
  | nil => exact .refl s
  | cons a r ih => exact (h s a).trans (ih _)

theorem touches_setSlot (s : State) (l : Nat) (x : Slot) : Touches s (s.setSlot l x) := ⟨rfl⟩
theorem touches_modSlot (s : State) (l : Nat) (f : Slot → Slot) : Touches s (s.modSlot l f) := ⟨rfl⟩
theorem touches_setCore (s : State) (l : Nat) (x : Core) : Touches s (s.setCore l x) := ⟨rfl⟩
theorem touches_modCore (s : State) (l : Nat) (f : Core → Core) : Touches s (s.modCore l f) := ⟨rfl⟩

/-! ### Translation (R248) -/

theorem Translated.refl (s : State) : Translated s s := ⟨rfl, fun _ => rfl⟩

theorem Translated.touches {s u : State} (h : Translated s u) : Touches s u := by
  constructor
  rw [h.rest]

theorem Translated.mem {s u : State} (h : Translated s u) : u.mem = s.mem := by rw [h.rest]
theorem Translated.slots {s u : State} (h : Translated s u) : u.slots = s.slots := by rw [h.rest]
theorem Translated.slot {s u : State} (h : Translated s u) (l : Nat) : u.slot l = s.slot l := by
  simp only [State.slot, h.slots]

theorem translated_plbFill (s : State) (c : Nat) (e : Plb) : Translated s (s.plbFill c e) := by
  unfold State.plbFill
  simp only
  split
  · refine ⟨rfl, fun j => ?_⟩
    rw [core_setCore]
    by_cases h : j = c
    · subst h; simp
    · simp [h]
  · refine ⟨rfl, fun j => ?_⟩
    have e (u : State) (n : Nat) : ({ u with fresh := n } : State).core j = u.core j := rfl
    rw [e, core_setCore]
    by_cases h : j = c
    · subst h; simp
    · simp [h]

theorem translated_plbEntry (s : State) (loc va : Nat) : Translated s (s.plbEntry loc va).1 := by
  unfold State.plbEntry
  split
  · exact .refl s
  · split
    · exact .refl s
    · exact translated_plbFill _ _ _

theorem translated_reach (s : State) (loc : Nat) (k : AK) (va : Word) (n : Nat) (raw : Bool) :
    Translated s (s.reach loc k va n raw).1 := by
  unfold State.reach
  split
  · exact .refl s
  · split
    · exact .refl s
    · have h := translated_plbEntry s loc va.toNat
      simp only
      split <;> exact h

theorem translated_reachUnder (s : State) (loc : Nat) (va : Word) (n : Nat) (rights : Word) :
    Translated s (s.reachUnder loc va n rights).1 := by
  unfold State.reachUnder
  split
  · exact translated_reach _ _ _ _ _ _
  · exact .refl s

/-! ### Writes -/

theorem touches_breakResv (s : State) (t : Option Nat) (p : Place) (n : Nat) : Touches s (s.breakResv t p n) := ⟨rfl⟩
theorem touches_ringAdd (s : State) (c o n : Nat) (ag : Agent) : Touches s (s.ringAdd c o n ag) := by
  unfold State.ringAdd; split
  · exact .refl s
  · exact touches_modCore _ _ _
theorem touches_putSub (s : State) (c e : Nat) (a b : Sub) : Touches s (s.putSub c e a b) := by
  unfold State.putSub
  refine Touches.trans (t := s.setSub c e b) ?_ ?_ <;> exact touches_modCore _ _ _
theorem touches_capture (s : State) (c o : Nat) (bs : List Byte) (w : Nat) : Touches s (s.capture c o bs w) := by
  unfold State.capture
  refine touches_foldl _ (fun u p => ?_) _ s
  split
  · exact .refl u
  · split
    · exact touches_putSub _ _ _ _ _
    · exact .refl u
theorem touches_put (s : State) (ag : Agent) (p : Place) (bs : List Byte) : Touches s (s.put ag p bs) := by
  cases p with
  | dram pa => exact ⟨rfl⟩
  | spad c o =>
    exact ((Touches.mk (s := s) (t := ({ s with mem := s.mem.setBytes (s.spadKey c o) bs } : State)) rfl).trans
      (touches_breakResv _ _ _ _)).trans ((touches_capture _ _ _ _ _).trans (touches_ringAdd _ _ _ _ _))
  | far va => exact ⟨rfl⟩
theorem touches_collapse (s : State) (d va : Nat) : Touches s (s.collapse d va) := by
  unfold State.collapse
  split
  · exact .refl s
  · split
    · exact .refl s
    · exact (touches_foldl _ (fun u i => ⟨rfl⟩) _ s).trans ⟨rfl⟩
theorem touches_beforeWrite (s : State) (d va : Nat) (e : Option Plb) : Touches s (s.beforeWrite d va e) := by
  unfold State.beforeWrite
  split
  · split
    · exact touches_collapse _ _ _
    · exact .refl s
  · exact .refl s
theorem touches_writeAt (s : State) (l : Nat) (va : Word) (p : Place × Option Plb) (n v kind : Nat) :
    Touches s (s.writeAt l va p n v kind) := by
  unfold State.writeAt
  split
  · split
    · exact (touches_beforeWrite _ _ _ _).trans (touches_put _ _ _ _)
    · exact touches_put _ _ _ _
  · exact touches_put _ _ _ _

/-! ### Posted and held stores (R248, R260) -/

theorem touches_hold (s : State) (l : Nat) (va : Word) (n : Nat) (v : Word) (c q : Nat) : Touches s (s.hold l va n v c q) := ⟨rfl⟩
theorem touches_postFarAt (s : State) (l : Nat) (va : Word) (n : Nat) (v : Word) (rel : Bool) (q : Nat) :
    Touches s (s.postFarAt l va n v rel q) := ⟨rfl⟩
theorem touches_serveStore (s : State) (l : Nat) (va : Word) (n : Nat) (v : Word) (q : Nat) (rights : Word) :
    Touches s (s.serveStore l va n v q rights) := by
  unfold State.serveStore
  split
  · exact touches_hold _ _ _ _ _ _ _
  · have h := (translated_reachUnder s l va n rights).touches
    simp only
    split
    · have w (p : Place × Option Plb) := h.trans (touches_writeAt (s.reachUnder l va n rights).1 l va p n v.toNat 0)
      split
      · exact (w _).trans (touches_postFarAt _ _ _ _ _ _ _)
      · exact w _
    · exact h.trans (touches_hold _ _ _ _ _ _ _)
theorem touches_servePosted (s : State) (l : Nat) (p : Posted) : Touches s (s.servePosted l p) := by
  unfold State.servePosted
  split
  · exact touches_hold _ _ _ _ _ _ _
  · exact touches_serveStore _ _ _ _ _ _ _
theorem touches_drain (s : State) (l : Nat) : Touches s (s.drain l) :=
  (touches_modSlot s _ _).trans (touches_foldl _ (fun u p => touches_servePosted u l p) _ _)
theorem touches_drainOver (s : State) (l va n : Nat) : Touches s (s.drainOver l va n) := by
  unfold State.drainOver
  split
  · exact touches_drain _ _
  · exact .refl s

/-! ### Other packages (R246) -/

theorem touches_dropReply (s : State) (id : Nat) : Touches s (s.dropReply id) := ⟨rfl⟩
theorem touches_settle (s : State) (l : Nat) (p : Posted) : Touches s (s.settle l p) := by
  unfold State.settle
  split
  · exact .refl s
  · rename_i r _
    have h (f : Slot → Slot) : Touches s ((s.dropReply r.id).modSlot l f) :=
      (touches_dropReply s r.id).trans (touches_modSlot _ _ _)
    simp only
    split
    · exact (h _).trans (touches_hold _ _ _ _ _ _ _)
    · split
      · exact h _
      · exact (h _).trans (touches_hold _ _ _ _ _ _ _)
theorem touches_settleFar (s : State) (l : Nat) : Touches s (s.settleFar l) :=
  touches_foldl _ (fun u p => touches_settle u l p) _ _

/-! ### Releases -/

theorem touches_applyPacket (s : State) (c : Nat) (b : Sub) (p : Packet) : Touches s (s.applyPacket c b p) :=
  (touches_foldl _ (fun _ _ => ⟨rfl⟩) _ s).trans (touches_ringAdd _ _ _ _ _)
theorem touches_setSub (s : State) (c e : Nat) (b : Sub) : Touches s (s.setSub c e b) := touches_modCore _ _ _
theorem touches_post (s : State) (l : Nat) (x : BitVec 16) (k : Nat) (st : Status) (g : Half) (v : Word) :
    Touches s (s.post l x k st g v) := ⟨rfl⟩
theorem touches_applyCopy (s : State) (c : Nat) (b : Sub) (bs : List Byte) : Touches s (s.applyCopy c b bs) :=
  touches_foldl _ (fun u _ => touches_applyPacket u c b _) _ s
theorem touches_syncCopy (s : State) (c e : Nat) (b : Sub) : Touches s (s.syncCopy c e b) := by
  unfold State.syncCopy
  split
  · exact .refl s
  · exact ((touches_applyCopy s c b _).trans (touches_setSub _ _ _ _)).trans (touches_post _ _ _ _ _ _ _)
theorem touches_applySent (s : State) (c e : Nat) : Touches s (s.applySent c e) := by
  unfold State.applySent
  split
  · exact .refl s
  · rename_i b _
    have h := (touches_syncCopy s c e b).trans (touches_foldl _ (fun u p => touches_applyPacket u c b p) b.sent _)
    simp only
    split
    · exact h
    · exact h.trans (touches_setSub _ _ _ _)
theorem touches_flushSubs (s : State) (own : Sub → Bool) (inside : Nat → Bool) : Touches s (s.flushSubs own inside) := by
  unfold State.flushSubs
  refine touches_foldl _ (fun t c => touches_foldl _ (fun u p => ?_) _ t) _ s
  split
  · exact .refl u
  · have h : Touches u (match u.subAt c.1 p.1 with
      | some b => u.putSub c.1 p.1 b b.flush
      | none => u) := by
      split
      · exact touches_putSub _ _ _ _ _
      · exact .refl u
    simp only
    split
    · exact h.trans (touches_applySent _ _ _)
    · exact h
theorem touches_releaseSubs (s : State) (l : Nat) (sc : Scope) : Touches s (s.releaseSubs l sc) := touches_flushSubs _ _ _

theorem touches_releaseFar (s : State) (a : Nat) (sys : Bool) (limit : Nat) : Touches s (s.releaseFar a sys limit) := by
  unfold State.releaseFar
  refine Touches.trans (t := { s with farTo := [] }) ⟨rfl⟩ (touches_foldl _ (fun u e => ?_) _ _)
  cases sys <;> simp only [if_true, Bool.false_eq_true, if_false] <;> split <;> exact ⟨rfl⟩
theorem touches_farReleased {s t : State} {a : Nat} (h : s.farReleased a = some t) : Touches s t := by
  unfold State.farReleased at h
  simp only at h
  split at h
  · cases h
  · cases h
    exact ⟨rfl⟩
theorem touches_awaitReleased {s d : State} {sys : Bool} (h : s.awaitReleased sys = .ok d) : Touches s d := by
  unfold State.awaitReleased at h
  simp only at h
  split at h
  · cases h
    exact touches_releaseFar _ _ _ _
  · split at h
    · rename_i k
      cases h
      exact (touches_releaseFar _ _ _ _).trans (touches_farReleased k)
    · cases h

theorem touches_syncGate {s d : State} (h : s.syncGate = .ok d) : Touches s d := by
  simp only [State.syncGate] at h
  split at h
  · cases h; exact touches_drain _ _
  · cases h

theorem touches_awaitFar {s d : State} (h : s.awaitFar = .ok d) : Touches s d := by
  simp only [State.awaitFar] at h
  split at h
  · cases h
  · split at h
    · cases h
    · cases h; exact touches_settleFar _ _

theorem touches_awaitReleases {s d : State} (h : s.awaitReleases = .ok d) : Touches s d := by
  simp only [State.awaitReleases] at h
  split at h
  · cases h
  · cases h; exact touches_settleFar _ _

theorem touches_serveRefAt (s : State) (ag : Agent) (l : Nat) (t : Slot) (h : Held) : Touches s (s.serveRefAt ag l t h).1 := by
  unfold State.serveRefAt
  simp only
  split
  · exact .refl s
  · split
    · exact .refl s
    · split
      · exact (touches_beforeWrite s (dieOf l) h.addr.toNat _).trans (touches_put (s.beforeWrite _ _ _) ag (.dram _) (natBytes _ _))
      · exact .refl s

theorem touches_serveList (s : State) (ag : Agent) (l : Nat) (t : Slot) (fuel : Nat) : Touches s (s.serveList ag l t fuel).1 := by
  induction fuel generalizing s t with
  | zero => exact .refl s
  | succ n ih =>
    unfold State.serveList
    split
    · exact .refl s
    · split
      · exact .refl s
      · simp only
        split <;> split
        · exact .refl s
        · exact (touches_serveRefAt _ _ _ _ _).trans (ih _ _)
        · exact .refl s
        · exact (touches_serveRefAt _ _ _ _ _).trans (ih _ _)

theorem touches_serveReady (s : State) (l : Nat) : Touches s (s.serveReady l) := by
  unfold State.serveReady
  exact (touches_serveList _ _ _ _ _).trans (touches_modSlot _ _ _)

theorem touches_release {s d : State} {sc : Scope} (h : s.release sc = .ok d) : Touches s d := by
  simp only [State.release, bind, Except.bind] at h
  split at h
  · split at h
    · exact (touches_releaseSubs _ _ _).trans (touches_awaitReleased h)
    · cases h
  · split at h
    · cases h
    · rename_i s1 h1
      have k : Touches s (s1.serveReady s.cur) := (touches_syncGate h1).trans (touches_serveReady _ _)
      split at h
      · cases h
      · split at h
        · cases h
        · have r := k.trans (touches_releaseSubs (s1.serveReady s.cur) s.cur sc)
          have last {u v : State} (w : Touches s u) (q : (if u.me.held.isEmpty = true then u.awaitReleased (sc == .sys)
              else .error (u.raiseDeferred s.cur)) = Except.ok v) : Touches s v := by
            split at q
            · exact w.trans (touches_awaitReleased q)
            · cases q
          split at h <;> split at h
          · cases h
          · rename_i h4
            exact last (r.trans (touches_awaitFar h4)) h
          · cases h
          · rename_i h4
            exact last (r.trans (touches_awaitReleases h4)) h

/-! ### One write of a thread -/

/-- Only what subscriptions and the trace ring keep in cores may differ. -/
structure Notes (s t : State) : Prop where
  rest : t = { s with cores := t.cores }
  cores : ∀ c, t.core c = { s.core c with subs := (t.core c).subs, pubs := (t.core c).pubs, ring := (t.core c).ring,
                                          ringCount := (t.core c).ringCount }

theorem Notes.refl (s : State) : Notes s s := ⟨rfl, fun _ => rfl⟩
theorem Notes.trans {s t u : State} (h : Notes s t) (k : Notes t u) : Notes s u := by
  refine ⟨?_, fun c => ?_⟩
  · have h1 := h.rest
    have k1 := k.rest
    rw [k1, h1]
  · rw [k.cores c, h.cores c]

theorem notes_foldl {α : Type} (f : State → α → State) (h : ∀ s a, Notes s (f s a)) (l : List α) (s : State) :
    Notes s (l.foldl f s) := by
  induction l generalizing s with
  | nil => exact .refl s
  | cons a r ih => exact (h s a).trans (ih _)

theorem notes_modCore (s : State) (k : Nat) (f : Core → Core)
    (h : ∀ c, f c = { c with subs := (f c).subs, pubs := (f c).pubs, ring := (f c).ring, ringCount := (f c).ringCount }) :
    Notes s (s.modCore k f) := by
  refine ⟨rfl, fun c => ?_⟩
  rw [core_modCore]
  by_cases e : c = k
  · subst e; simp only [if_true]; exact h _
  · simp [e]

theorem notes_setSub (s : State) (c e : Nat) (b : Sub) : Notes s (s.setSub c e b) := notes_modCore _ _ _ (fun _ => rfl)
theorem notes_countSent (s : State) (c e n : Nat) : Notes s (s.countSent c e n) := by
  refine notes_modCore _ _ _ (fun k => ?_)
  cases assoc k.pubs e <;> rfl
theorem notes_putSub (s : State) (c e : Nat) (a b : Sub) : Notes s (s.putSub c e a b) := by
  unfold State.putSub
  exact (notes_setSub _ _ _ _).trans (notes_countSent _ _ _ _)
theorem notes_capture (s : State) (c o : Nat) (bs : List Byte) (w : Nat) : Notes s (s.capture c o bs w) := by
  unfold State.capture
  refine notes_foldl _ (fun u p => ?_) _ s
  split
  · exact .refl u
  · split
    · exact notes_putSub _ _ _ _ _
    · exact .refl u
theorem notes_ringAdd (s : State) (c o n : Nat) (ag : Agent) : Notes s (s.ringAdd c o n ag) := by
  unfold State.ringAdd; split
  · exact .refl s
  · exact notes_modCore _ _ _ (fun _ => rfl)

theorem assoc_map {α : Type} (f : Nat × α → Nat × α) (hf : ∀ e, (f e).1 = e.1) (l : List (Nat × α)) (k : Nat) :
    assoc (l.map f) k = (assoc l k).map (fun a => (f (k, a)).2) := by
  induction l with
  | nil => rfl
  | cons e r ih =>
    obtain ⟨j, a⟩ := e
    have h := hf (j, a)
    simp only [List.map_cons]
    rw [show f (j, a) = (j, (f (j, a)).2) from Prod.ext h rfl]
    simp only [assoc]
    split
    · rename_i e; simp_all
    · exact ih

theorem slot_breakResv (s : State) (th : Option Nat) (p : Place) (n l : Nat) :
    (s.breakResv th p n).slot l = { s.slot l with resv := ((s.breakResv th p n).slot l).resv } := by
  unfold State.breakResv State.slot
  simp only
  rw [assoc_map _ (by intro e; split <;> (try split) <;> rfl)]
  cases assoc s.slots l with
  | none => rfl
  | some a =>
    simp only [Option.map_some, Option.getD_some]
    split
    · split <;> rfl
    · rfl

theorem resv_breakResv (s : State) (p : Place) (n l : Nat) :
    ((s.breakResv (some l) p n).slot l).resv = (s.slot l).resv := by
  unfold State.breakResv State.slot
  simp only
  rw [assoc_map _ (by intro e; split <;> (try split) <;> rfl)]
  cases assoc s.slots l with
  | none => rfl
  | some a =>
    simp only [Option.map_some, Option.getD_some]
    split <;> simp_all


theorem length_natBytes (n v : Nat) : (natBytes n v).length = n := by
  induction n generalizing v with
  | zero => rfl
  | succ n ih => simp [natBytes, ih]

theorem getD_natBytes (n v i : Nat) (h : i < n) : ((natBytes n v).getD i 0).toNat = v / 2 ^ (8 * i) % 256 := by
  induction n generalizing v i with
  | zero => omega
  | succ n ih =>
    cases i with
    | zero => simp [natBytes]
    | succ i =>
      have e : natBytes (n + 1) v = BitVec.ofNat 8 v :: natBytes n (v / 256) := rfl
      rw [e, List.getD_cons_succ, ih _ _ (by omega), Nat.div_div_eq_div_mul, show 8 * (i + 1) = 8 + 8 * i by omega, Nat.pow_add]

theorem far_breakResv (s : State) (th : Option Nat) (p : Place) (n : Nat) (r : Nat × Nat × Nat)
    (h : r ∈ (s.breakResv th p n).farResv) : r ∈ s.farResv := (List.mem_filter.mp h).1

theorem writes_putNat (s : State) (loc kind : Nat) (p : Place) (n v : Nat) (hm : s.mem.wf = true) (hp : p.near) :
    Writes s (s.putNat (s.agentAt loc kind) p n v) loc p n v := by
  have st (a : Nat) (t : State) (h : t.mem = s.mem.setBytes a (natBytes n v)) : Stored s t a n v := by
    refine ⟨fun i hi => ?_, fun b hb => ?_, fun b => ?_⟩
    · rw [h, byte_setBytes _ _ _ _ hm, length_natBytes, if_pos (by omega), show a + i - a = i by omega]
      exact getD_natBytes n v i hi
    · rw [h, byte_setBytes _ _ _ _ hm, length_natBytes, if_neg (by omega)]
    · rw [h, isFull_setBytes]
  cases p with
  | dram pa =>
    refine ⟨st pa _ rfl, rfl, fun l => ?_, ?_, fun _ => rfl, fun _ _ => rfl, fun r h => ?_⟩
    · exact slot_breakResv ({ s with mem := s.mem.setBytes pa (natBytes n v) } : State) (some loc) _ _ l
    · exact resv_breakResv ({ s with mem := s.mem.setBytes pa (natBytes n v) } : State) _ _ loc
    · exact far_breakResv ({ s with mem := s.mem.setBytes pa (natBytes n v) } : State) (some loc) _ _ r h
  | spad c o =>
    let s1 : State := { s with mem := s.mem.setBytes (s.spadKey c o) (natBytes n v) }
    let s2 := s1.breakResv (some loc) (.spad c o) (natBytes n v).length
    have k : Notes s2 (s.putNat (s.agentAt loc kind) (.spad c o) n v) :=
      (notes_capture _ _ _ _ _).trans (notes_ringAdd _ _ _ _ _)
    have e := k.rest
    refine ⟨st _ _ (by rw [e]; rfl), by rw [e]; rfl, fun l => ?_, ?_, k.cores, (fun _ h => by cases h), fun r h => ?_⟩
    · rw [e]; exact slot_breakResv s1 (some loc) _ _ l
    · rw [e]; exact resv_breakResv s1 _ _ loc
    · rw [e] at h; exact far_breakResv s1 (some loc) _ _ r h
  | far va => exact hp.elim

theorem writes_writeAt (s : State) (loc kind : Nat) (va : Word) (p : Place) (e : Option Plb) (n v : Nat) (hm : s.mem.wf = true)
    (hp : p.near) (he : ∀ x, e = some x → x.repl = false) : Writes s (s.writeAt loc va (p, e) n v kind) loc p n v := by
  have h : s.writeAt loc va (p, e) n v kind = s.putNat (s.agentAt loc kind) p n v := by
    unfold State.writeAt
    split
    · rename_i x hx
      rw [if_neg (by simp [he x hx])]
    · rfl
  rw [h]
  exact writes_putNat s loc kind p n v hm hp

end Sys2Proof.Machine
end

