-- ==== Sys2Proof/Laws/PerInstr.lean ====
section
/-! SUPPORT. Statements about every instruction, one lemma per constructor. `OneForm`: an instruction has at most one of the
three encodings (R58, R73), so that `encode` reads off the length from the first one that is there. -/

namespace Sys2Proof.Laws.OneForm

/-- No instruction with an extension word has a 32-bit one, and no element instruction has either. -/
def Statement (i : Instr) : Prop :=
  (encodeX i ≠ none → encode32 i = none) ∧ (i.element ≠ none → encode32 i = none ∧ encodeX i = none)

theorem of32 {i : Instr} (hx : encodeX i = none) (he : i.element = none) : Statement i :=
  ⟨fun h => absurd hx h, fun h => absurd he h⟩

theorem ofX {i : Instr} (h32 : encode32 i = none) (he : i.element = none) : Statement i :=
  ⟨fun _ => h32, fun h => absurd he h⟩

theorem ofElement {i : Instr} (h32 : encode32 i = none) (hx : encodeX i = none) : Statement i :=
  ⟨fun _ => h32, fun _ => ⟨h32, hx⟩⟩

theorem lpad : ∀ a0, Statement (.lpad a0) := fun _ => of32 rfl rfl
theorem callt : ∀ a0 a1 a2, Statement (.callt a0 a1 a2) := fun _ _ _ => of32 rfl rfl
theorem rett : Statement .rett := of32 rfl rfl
theorem tagp : ∀ a0 a1 a2, Statement (.tagp a0 a1 a2) := fun _ _ _ => of32 rfl rfl
theorem tagx : ∀ a0 a1, Statement (.tagx a0 a1) := fun _ _ => of32 rfl rfl
theorem fuse : ∀ a0 a1, Statement (.fuse a0 a1) := fun _ _ => of32 rfl rfl
theorem split : Statement .split := of32 rfl rfl
theorem recv : ∀ a0, Statement (.recv a0) := fun _ => of32 rfl rfl
theorem peek : ∀ a0, Statement (.peek a0) := fun _ => of32 rfl rfl
theorem wfm : ∀ a0, Statement (.wfm a0) := fun _ => of32 rfl rfl
theorem uiret : Statement .uiret := of32 rfl rfl
theorem yield : Statement .yield := of32 rfl rfl
theorem prio : ∀ a0, Statement (.prio a0) := fun _ => of32 rfl rfl
theorem cbld : ∀ a0 a1, Statement (.cbld a0 a1) := fun _ _ => of32 rfl rfl
theorem fenceScope : ∀ a0, Statement (.fenceScope a0) := fun _ => of32 rfl rfl
theorem ldAcq : ∀ a0 a1 a2 a3, Statement (.ldAcq a0 a1 a2 a3) := fun _ _ _ _ => of32 rfl rfl
theorem stRel : ∀ a0 a1 a2 a3, Statement (.stRel a0 a1 a2 a3) := fun _ _ _ _ => of32 rfl rfl
theorem amoI64 : ∀ a0 a1 a2 a3 a4, Statement (.amoI64 a0 a1 a2 a3 a4) := fun _ _ _ _ _ => of32 rfl rfl
theorem amoI32 : ∀ a0 a1 a2 a3 a4, Statement (.amoI32 a0 a1 a2 a3 a4) := fun _ _ _ _ _ => of32 rfl rfl
theorem amoCas128 : ∀ a0 a1 a2 a3, Statement (.amoCas128 a0 a1 a2 a3) := fun _ _ _ _ => of32 rfl rfl
theorem amoFaddF32 : ∀ a0 a1 a2 a3, Statement (.amoFaddF32 a0 a1 a2 a3) := fun _ _ _ _ => of32 rfl rfl
theorem amoFadd2Bf16 : ∀ a0 a1 a2 a3, Statement (.amoFadd2Bf16 a0 a1 a2 a3) := fun _ _ _ _ => of32 rfl rfl
theorem bar : ∀ a0 a1 a2, Statement (.bar a0 a1 a2) := fun _ _ _ => of32 rfl rfl
theorem barArr : ∀ a0 a1 a2, Statement (.barArr a0 a1 a2) := fun _ _ _ => of32 rfl rfl
theorem barWait : ∀ a0 a1 a2, Statement (.barWait a0 a1 a2) := fun _ _ _ => of32 rfl rfl
theorem jlaunch : ∀ a0 a1, Statement (.jlaunch a0 a1) := fun _ _ => of32 rfl rfl
theorem glaunch : ∀ a0 a1, Statement (.glaunch a0 a1) := fun _ _ => of32 rfl rfl
theorem gdep : ∀ a0 a1 a2, Statement (.gdep a0 a1 a2) := fun _ _ _ => of32 rfl rfl
theorem ctxSave : ∀ a0 a1 a2, Statement (.ctxSave a0 a1 a2) := fun _ _ _ => of32 rfl rfl
theorem ctxLoad : ∀ a0 a1 a2, Statement (.ctxLoad a0 a1 a2) := fun _ _ _ => of32 rfl rfl
theorem plbInv : ∀ a0 a1 a2, Statement (.plbInv a0 a1 a2) := fun _ _ _ => of32 rfl rfl
theorem rgnShrink : ∀ a0 a1 a2, Statement (.rgnShrink a0 a1 a2) := fun _ _ _ => of32 rfl rfl
theorem rgnDrain : ∀ a0 a1, Statement (.rgnDrain a0 a1) := fun _ _ => of32 rfl rfl
theorem trapRec : ∀ a0 a1 a2, Statement (.trapRec a0 a1 a2) := fun _ _ _ => of32 rfl rfl
theorem jalr : ∀ a0 a1 a2, Statement (.jalr a0 a1 a2) := fun _ _ _ => of32 rfl rfl
theorem fence : ∀ a0 a1 a2, Statement (.fence a0 a1 a2) := fun _ _ _ => of32 rfl rfl
theorem fenceI : Statement .fenceI := of32 rfl rfl
theorem lr : ∀ a0 a1 a2 a3 a4, Statement (.lr a0 a1 a2 a3 a4) := fun _ _ _ _ _ => of32 rfl rfl
theorem sc : ∀ a0 a1 a2 a3 a4 a5, Statement (.sc a0 a1 a2 a3 a4 a5) := fun _ _ _ _ _ _ => of32 rfl rfl
theorem rvAmo : ∀ a0 a1 a2 a3 a4 a5 a6, Statement (.rvAmo a0 a1 a2 a3 a4 a5 a6) := fun _ _ _ _ _ _ _ => of32 rfl rfl
theorem sret : Statement .sret := of32 rfl rfl
theorem mret : Statement .mret := of32 rfl rfl
theorem emulationEntry : ∀ a0 a1, Statement (.emulationEntry a0 a1) := fun _ _ => of32 rfl rfl
theorem vadd : ∀ a0, Statement (.vadd a0) := fun _ => ofX rfl rfl
theorem vsub : ∀ a0, Statement (.vsub a0) := fun _ => ofX rfl rfl
theorem vmul : ∀ a0, Statement (.vmul a0) := fun _ => ofX rfl rfl
theorem vmulh : ∀ a0, Statement (.vmulh a0) := fun _ => ofX rfl rfl
theorem vmadd : ∀ a0, Statement (.vmadd a0) := fun _ => ofX rfl rfl
theorem vmin : ∀ a0, Statement (.vmin a0) := fun _ => ofX rfl rfl
theorem vmax : ∀ a0, Statement (.vmax a0) := fun _ => ofX rfl rfl
theorem vabs : ∀ a0, Statement (.vabs a0) := fun _ => ofX rfl rfl
theorem vand : ∀ a0, Statement (.vand a0) := fun _ => ofX rfl rfl
theorem vor : ∀ a0, Statement (.vor a0) := fun _ => ofX rfl rfl
theorem vxor : ∀ a0, Statement (.vxor a0) := fun _ => ofX rfl rfl
theorem vandn : ∀ a0, Statement (.vandn a0) := fun _ => ofX rfl rfl
theorem vsll : ∀ a0, Statement (.vsll a0) := fun _ => ofX rfl rfl
theorem vsrl : ∀ a0, Statement (.vsrl a0) := fun _ => ofX rfl rfl
theorem vsra : ∀ a0, Statement (.vsra a0) := fun _ => ofX rfl rfl
theorem vfadd : ∀ a0, Statement (.vfadd a0) := fun _ => ofX rfl rfl
theorem vfsub : ∀ a0, Statement (.vfsub a0) := fun _ => ofX rfl rfl
theorem vfmul : ∀ a0, Statement (.vfmul a0) := fun _ => ofX rfl rfl
theorem vfma : ∀ a0, Statement (.vfma a0) := fun _ => ofX rfl rfl
theorem vfmin : ∀ a0, Statement (.vfmin a0) := fun _ => ofX rfl rfl
theorem vfmax : ∀ a0, Statement (.vfmax a0) := fun _ => ofX rfl rfl
theorem vfdiv : ∀ a0, Statement (.vfdiv a0) := fun _ => ofX rfl rfl
theorem vfsqrt : ∀ a0, Statement (.vfsqrt a0) := fun _ => ofX rfl rfl
theorem vfrcp : ∀ a0, Statement (.vfrcp a0) := fun _ => ofX rfl rfl
theorem vfrsq : ∀ a0, Statement (.vfrsq a0) := fun _ => ofX rfl rfl
theorem vfexp2 : ∀ a0, Statement (.vfexp2 a0) := fun _ => ofX rfl rfl
theorem vflog2 : ∀ a0, Statement (.vflog2 a0) := fun _ => ofX rfl rfl
theorem vcmp : ∀ a0 a1 a2 a3 a4 a5, Statement (.vcmp a0 a1 a2 a3 a4 a5) := fun _ _ _ _ _ _ => ofX rfl rfl
theorem vsel : ∀ a0, Statement (.vsel a0) := fun _ => ofX rfl rfl
theorem kand : ∀ a0 a1 a2, Statement (.kand a0 a1 a2) := fun _ _ _ => ofX rfl rfl
theorem kor : ∀ a0 a1 a2, Statement (.kor a0 a1 a2) := fun _ _ _ => ofX rfl rfl
theorem kxor : ∀ a0 a1 a2, Statement (.kxor a0 a1 a2) := fun _ _ _ => ofX rfl rfl
theorem kandn : ∀ a0 a1 a2, Statement (.kandn a0 a1 a2) := fun _ _ _ => ofX rfl rfl
theorem knot : ∀ a0 a1, Statement (.knot a0 a1) := fun _ _ => ofX rfl rfl
theorem kpop : ∀ a0 a1, Statement (.kpop a0 a1) := fun _ _ => ofX rfl rfl
theorem kfirst : ∀ a0 a1, Statement (.kfirst a0 a1) := fun _ _ => ofX rfl rfl
theorem vcvt : ∀ a0, Statement (.vcvt a0) := fun _ => ofX rfl rfl
theorem vpack : ∀ a0, Statement (.vpack a0) := fun _ => ofX rfl rfl
theorem vunpack : ∀ a0, Statement (.vunpack a0) := fun _ => ofX rfl rfl
theorem vqnt : ∀ a0, Statement (.vqnt a0) := fun _ => ofX rfl rfl
theorem vdq : ∀ a0, Statement (.vdq a0) := fun _ => ofX rfl rfl
theorem vdot4 : ∀ a0, Statement (.vdot4 a0) := fun _ => ofX rfl rfl
theorem vred : ∀ a0 a1, Statement (.vred a0 a1) := fun _ _ => ofX rfl rfl
theorem vscan : ∀ a0 a1, Statement (.vscan a0 a1) := fun _ _ => ofX rfl rfl
theorem vperm : ∀ a0, Statement (.vperm a0) := fun _ => ofX rfl rfl
theorem vshuf : ∀ a0, Statement (.vshuf a0) := fun _ => ofX rfl rfl
theorem vslideUp : ∀ a0, Statement (.vslideUp a0) := fun _ => ofX rfl rfl
theorem vslideDown : ∀ a0, Statement (.vslideDown a0) := fun _ => ofX rfl rfl
theorem vbcast : ∀ a0, Statement (.vbcast a0) := fun _ => ofX rfl rfl
theorem vins : ∀ a0, Statement (.vins a0) := fun _ => ofX rfl rfl
theorem vextr : ∀ a0, Statement (.vextr a0) := fun _ => ofX rfl rfl
theorem vld : ∀ a0, Statement (.vld a0) := fun _ => ofX rfl rfl
theorem vst : ∀ a0, Statement (.vst a0) := fun _ => ofX rfl rfl
theorem vlds : ∀ a0, Statement (.vlds a0) := fun _ => ofX rfl rfl
theorem vsts : ∀ a0, Statement (.vsts a0) := fun _ => ofX rfl rfl
theorem vldx : ∀ a0, Statement (.vldx a0) := fun _ => ofX rfl rfl
theorem vstx : ∀ a0, Statement (.vstx a0) := fun _ => ofX rfl rfl
theorem vldb : ∀ a0 a1, Statement (.vldb a0 a1) := fun _ _ => ofX rfl rfl
theorem ldFe : ∀ a0 a1 a2, Statement (.ldFe a0 a1 a2) := fun _ _ _ => ofX rfl rfl
theorem ldFeTake : ∀ a0 a1 a2, Statement (.ldFeTake a0 a1 a2) := fun _ _ _ => ofX rfl rfl
theorem stFe : ∀ a0 a1 a2, Statement (.stFe a0 a1 a2) := fun _ _ _ => ofX rfl rfl
theorem stFeFill : ∀ a0 a1 a2, Statement (.stFeFill a0 a1 a2) := fun _ _ _ => ofX rfl rfl
theorem cpy : ∀ a0, Statement (.cpy a0) := fun _ => ofX rfl rfl
theorem cpyPlane : ∀ a0, Statement (.cpyPlane a0) := fun _ => ofX rfl rfl
theorem cpyStat : ∀ a0, Statement (.cpyStat a0) := fun _ => ofX rfl rfl
theorem pf : ∀ a0 a1 a2, Statement (.pf a0 a1 a2) := fun _ _ _ => ofX rfl rfl
theorem refLd : ∀ a0 a1 a2 a3, Statement (.refLd a0 a1 a2 a3) := fun _ _ _ _ => ofX rfl rfl
theorem refSt : ∀ a0 a1 a2 a3, Statement (.refSt a0 a1 a2 a3) := fun _ _ _ _ => ofX rfl rfl
theorem refLdf : ∀ a0 a1 a2, Statement (.refLdf a0 a1 a2) := fun _ _ _ => ofX rfl rfl
theorem refStf : ∀ a0 a1 a2, Statement (.refStf a0 a1 a2) := fun _ _ _ => ofX rfl rfl
theorem refAlloc : ∀ a0 a1 a2 a3, Statement (.refAlloc a0 a1 a2 a3) := fun _ _ _ _ => ofX rfl rfl
theorem refPin : ∀ a0 a1 a2, Statement (.refPin a0 a1 a2) := fun _ _ _ => ofX rfl rfl
theorem refUnpin : ∀ a0 a1, Statement (.refUnpin a0 a1) := fun _ _ => ofX rfl rfl
theorem refEq : ∀ a0 a1 a2, Statement (.refEq a0 a1 a2) := fun _ _ _ => ofX rfl rfl
theorem refMov : ∀ a0 a1 a2, Statement (.refMov a0 a1 a2) := fun _ _ _ => ofX rfl rfl
theorem refNull : ∀ a0, Statement (.refNull a0) := fun _ => ofX rfl rfl
theorem refChk : ∀ a0 a1 a2 a3, Statement (.refChk a0 a1 a2 a3) := fun _ _ _ _ => ofX rfl rfl
theorem kilnGo : ∀ a0, Statement (.kilnGo a0) := fun _ => ofX rfl rfl
theorem kilnStat : ∀ a0 a1, Statement (.kilnStat a0 a1) := fun _ _ => ofX rfl rfl
theorem subAdd : ∀ a0, Statement (.subAdd a0) := fun _ => ofX rfl rfl
theorem subDrop : ∀ a0 a1, Statement (.subDrop a0 a1) := fun _ _ => ofX rfl rfl
theorem subFlush : ∀ a0, Statement (.subFlush a0) := fun _ => ofX rfl rfl
theorem subStat : ∀ a0 a1, Statement (.subStat a0 a1) := fun _ _ => ofX rfl rfl
theorem raceRd : ∀ a0, Statement (.raceRd a0) := fun _ => ofX rfl rfl
theorem mxTile : ∀ a0, Statement (.mxTile a0) := fun _ => ofX rfl rfl
theorem mxTileAcc : ∀ a0, Statement (.mxTileAcc a0) := fun _ => ofX rfl rfl
theorem mxSort : ∀ a0, Statement (.mxSort a0) := fun _ => ofX rfl rfl
theorem mxTopk : ∀ a0, Statement (.mxTopk a0) := fun _ => ofX rfl rfl
theorem mxStat : ∀ a0, Statement (.mxStat a0) := fun _ => ofX rfl rfl
theorem grpForm : ∀ a0 a1, Statement (.grpForm a0 a1) := fun _ _ => ofX rfl rfl
theorem grpDrop : ∀ a0 a1, Statement (.grpDrop a0 a1) := fun _ _ => ofX rfl rfl
theorem collAllreduce : ∀ a0 a1, Statement (.collAllreduce a0 a1) := fun _ _ => ofX rfl rfl
theorem collRedscatter : ∀ a0 a1, Statement (.collRedscatter a0 a1) := fun _ _ => ofX rfl rfl
theorem collAllgather : ∀ a0 a1, Statement (.collAllgather a0 a1) := fun _ _ => ofX rfl rfl
theorem collBcast : ∀ a0 a1, Statement (.collBcast a0 a1) := fun _ _ => ofX rfl rfl
theorem collAlltoall : ∀ a0 a1, Statement (.collAlltoall a0 a1) := fun _ _ => ofX rfl rfl
theorem collCancel : ∀ a0 a1, Statement (.collCancel a0 a1) := fun _ _ => ofX rfl rfl
theorem elNop : ∀ a0, Statement (.elNop a0) := fun _ => ofElement rfl rfl
theorem elMov : ∀ a0, Statement (.elMov a0) := fun _ => ofElement rfl rfl
theorem elSel : ∀ a0, Statement (.elSel a0) := fun _ => ofElement rfl rfl
theorem elSteer : ∀ a0, Statement (.elSteer a0) := fun _ => ofElement rfl rfl
theorem elRepl : ∀ a0, Statement (.elRepl a0) := fun _ => ofElement rfl rfl
theorem elAdd : ∀ a0, Statement (.elAdd a0) := fun _ => ofElement rfl rfl
theorem elSub : ∀ a0, Statement (.elSub a0) := fun _ => ofElement rfl rfl
theorem elMul : ∀ a0, Statement (.elMul a0) := fun _ => ofElement rfl rfl
theorem elMulh : ∀ a0, Statement (.elMulh a0) := fun _ => ofElement rfl rfl
theorem elMac : ∀ a0, Statement (.elMac a0) := fun _ => ofElement rfl rfl
theorem elMin : ∀ a0, Statement (.elMin a0) := fun _ => ofElement rfl rfl
theorem elMax : ∀ a0, Statement (.elMax a0) := fun _ => ofElement rfl rfl
theorem elAbs : ∀ a0, Statement (.elAbs a0) := fun _ => ofElement rfl rfl
theorem elNeg : ∀ a0, Statement (.elNeg a0) := fun _ => ofElement rfl rfl
theorem elAnd : ∀ a0, Statement (.elAnd a0) := fun _ => ofElement rfl rfl
theorem elOr : ∀ a0, Statement (.elOr a0) := fun _ => ofElement rfl rfl
theorem elXor : ∀ a0, Statement (.elXor a0) := fun _ => ofElement rfl rfl
theorem elAndn : ∀ a0, Statement (.elAndn a0) := fun _ => ofElement rfl rfl
theorem elNot : ∀ a0, Statement (.elNot a0) := fun _ => ofElement rfl rfl
theorem elSll : ∀ a0, Statement (.elSll a0) := fun _ => ofElement rfl rfl
theorem elSrl : ∀ a0, Statement (.elSrl a0) := fun _ => ofElement rfl rfl
theorem elSra : ∀ a0, Statement (.elSra a0) := fun _ => ofElement rfl rfl
theorem elCmpEq : ∀ a0, Statement (.elCmpEq a0) := fun _ => ofElement rfl rfl
theorem elCmpNe : ∀ a0, Statement (.elCmpNe a0) := fun _ => ofElement rfl rfl
theorem elCmpLt : ∀ a0, Statement (.elCmpLt a0) := fun _ => ofElement rfl rfl
theorem elCmpLe : ∀ a0, Statement (.elCmpLe a0) := fun _ => ofElement rfl rfl
theorem elFadd : ∀ a0, Statement (.elFadd a0) := fun _ => ofElement rfl rfl
theorem elFsub : ∀ a0, Statement (.elFsub a0) := fun _ => ofElement rfl rfl
theorem elFmul : ∀ a0, Statement (.elFmul a0) := fun _ => ofElement rfl rfl
theorem elFma : ∀ a0, Statement (.elFma a0) := fun _ => ofElement rfl rfl
theorem elFmin : ∀ a0, Statement (.elFmin a0) := fun _ => ofElement rfl rfl
theorem elFmax : ∀ a0, Statement (.elFmax a0) := fun _ => ofElement rfl rfl
theorem elFcmpEq : ∀ a0, Statement (.elFcmpEq a0) := fun _ => ofElement rfl rfl
theorem elFcmpLt : ∀ a0, Statement (.elFcmpLt a0) := fun _ => ofElement rfl rfl
theorem elFcmpLe : ∀ a0, Statement (.elFcmpLe a0) := fun _ => ofElement rfl rfl
theorem elFcmpUn : ∀ a0, Statement (.elFcmpUn a0) := fun _ => ofElement rfl rfl
theorem elVredAdd : ∀ a0, Statement (.elVredAdd a0) := fun _ => ofElement rfl rfl
theorem elVredMin : ∀ a0, Statement (.elVredMin a0) := fun _ => ofElement rfl rfl
theorem elVredMax : ∀ a0, Statement (.elVredMax a0) := fun _ => ofElement rfl rfl
theorem elVredFadd : ∀ a0, Statement (.elVredFadd a0) := fun _ => ofElement rfl rfl
theorem elVredFmin : ∀ a0, Statement (.elVredFmin a0) := fun _ => ofElement rfl rfl
theorem elVredFmax : ∀ a0, Statement (.elVredFmax a0) := fun _ => ofElement rfl rfl
theorem elVextr : ∀ a0, Statement (.elVextr a0) := fun _ => ofElement rfl rfl
theorem elVins : ∀ a0, Statement (.elVins a0) := fun _ => ofElement rfl rfl
theorem elSettag : ∀ a0, Statement (.elSettag a0) := fun _ => ofElement rfl rfl
theorem elEndtest : ∀ a0, Statement (.elEndtest a0) := fun _ => ofElement rfl rfl
theorem elCsacc : ∀ a0, Statement (.elCsacc a0) := fun _ => ofElement rfl rfl
theorem elCsadd : ∀ a0, Statement (.elCsadd a0) := fun _ => ofElement rfl rfl
theorem scrub : ∀ a0, Statement (.scrub a0) := fun _ => of32 rfl rfl
theorem configReload : ∀ a0, Statement (.configReload a0) := fun _ => of32 rfl rfl
theorem streamWrite : ∀ a0 a1 a2, Statement (.streamWrite a0 a1 a2) := fun _ _ _ => of32 rfl rfl
theorem streamResume : ∀ a0, Statement (.streamResume a0) := fun _ => of32 rfl rfl
theorem rdmaWrite : ∀ a0 a1 a2 a3, Statement (.rdmaWrite a0 a1 a2 a3) := fun _ _ _ _ => of32 rfl rfl
theorem rdmaRead : ∀ a0 a1 a2 a3, Statement (.rdmaRead a0 a1 a2 a3) := fun _ _ _ _ => of32 rfl rfl
theorem cmMad : ∀ a0 a1, Statement (.cmMad a0 a1) := fun _ _ => of32 rfl rfl
theorem unsupportedRequest : ∀ a0 a1, Statement (.unsupportedRequest a0 a1) := fun _ _ => of32 rfl rfl
theorem ecnMarkedPacket : ∀ a0, Statement (.ecnMarkedPacket a0) := fun _ => of32 rfl rfl
theorem pfcPause : ∀ a0 a1, Statement (.pfcPause a0 a1) := fun _ _ => of32 rfl rfl
theorem replicaCollapse : ∀ a0, Statement (.replicaCollapse a0) := fun _ => of32 rfl rfl
theorem trapEntry : ∀ a0 a1 a2, Statement (.trapEntry a0 a1 a2) := fun _ _ _ => of32 rfl rfl
theorem fabricTrapRaise : ∀ a0 a1, Statement (.fabricTrapRaise a0 a1) := fun _ _ => of32 rfl rfl
theorem pdrightsWrite : ∀ a0, Statement (.pdrightsWrite a0) := fun _ => of32 rfl rfl
theorem quantumWrite : ∀ a0, Statement (.quantumWrite a0) := fun _ => of32 rfl rfl
theorem matrixCsrWrite : ∀ a0, Statement (.matrixCsrWrite a0) := fun _ => of32 rfl rfl
theorem prridxWrite : ∀ a0, Statement (.prridxWrite a0) := fun _ => of32 rfl rfl
theorem tcqWrite : ∀ a0, Statement (.tcqWrite a0) := fun _ => of32 rfl rfl
theorem csrWrite : ∀ a0, Statement (.csrWrite a0) := fun _ => of32 rfl rfl
theorem selftestComplete : ∀ a0, Statement (.selftestComplete a0) := fun _ => of32 rfl rfl
theorem thermalThrottle : ∀ a0 a1, Statement (.thermalThrottle a0 a1) := fun _ _ => of32 rfl rfl
theorem getStatus : ∀ a0, Statement (.getStatus a0) := fun _ => of32 rfl rfl
theorem readLog : ∀ a0 a1, Statement (.readLog a0 a1) := fun _ _ => of32 rfl rfl
theorem loadImage : ∀ a0 a1, Statement (.loadImage a0 a1) := fun _ _ => of32 rfl rfl
theorem reset : ∀ a0, Statement (.reset a0) := fun _ => of32 rfl rfl
theorem getIdentity : ∀ a0, Statement (.getIdentity a0) := fun _ => of32 rfl rfl
theorem attest : ∀ a0 a1, Statement (.attest a0 a1) := fun _ _ => of32 rfl rfl
theorem setPowerCap : ∀ a0 a1, Statement (.setPowerCap a0 a1) := fun _ _ => of32 rfl rfl
theorem podNumberAssign : ∀ a0, Statement (.podNumberAssign a0) := fun _ => of32 rfl rfl
theorem linkFlitReplay : ∀ a0, Statement (.linkFlitReplay a0) := fun _ => of32 rfl rfl
theorem linkDown : ∀ a0, Statement (.linkDown a0) := fun _ => of32 rfl rfl
theorem tickSync : ∀ a0, Statement (.tickSync a0) := fun _ => of32 rfl rfl
theorem plainStore : ∀ a0, Statement (.plainStore a0) := fun _ => of32 rfl rfl
theorem scalarLoad : ∀ a0, Statement (.scalarLoad a0) := fun _ => of32 rfl rfl
theorem rv64BaseInstruction : ∀ a0, Statement (.rv64BaseInstruction a0) := fun _ => of32 rfl rfl
theorem tokenArrival : Statement .tokenArrival := of32 rfl rfl
theorem creditReturn : Statement .creditReturn := of32 rfl rfl
theorem phaseEnd : Statement .phaseEnd := of32 rfl rfl
theorem streamWalkStart : Statement .streamWalkStart := of32 rfl rfl
theorem streamPoint : Statement .streamPoint := of32 rfl rfl
theorem memSkip : Statement .memSkip := of32 rfl rfl
theorem memLoad : Statement .memLoad := of32 rfl rfl
theorem memStore : Statement .memStore := of32 rfl rfl
theorem memIndexedLoad : Statement .memIndexedLoad := of32 rfl rfl
theorem memIndexedStore : Statement .memIndexedStore := of32 rfl rfl
theorem memRmw : Statement .memRmw := of32 rfl rfl
theorem memIndexedRmw : Statement .memIndexedRmw := of32 rfl rfl
theorem orderedRequestPerform : Statement .orderedRequestPerform := of32 rfl rfl
theorem memReply : Statement .memReply := of32 rfl rfl
theorem joinFire : Statement .joinFire := of32 rfl rfl
theorem loopStart : Statement .loopStart := of32 rfl rfl
theorem loopDoneToken : Statement .loopDoneToken := of32 rfl rfl
theorem loopExitToken : Statement .loopExitToken := of32 rfl rfl
theorem iterationRetire : Statement .iterationRetire := of32 rfl rfl
theorem carryForward : Statement .carryForward := of32 rfl rfl
theorem collectStep : Statement .collectStep := of32 rfl rfl
theorem convFire : Statement .convFire := of32 rfl rfl
theorem normFire : Statement .normFire := of32 rfl rfl
theorem dsqEnter : Statement .dsqEnter := of32 rfl rfl
theorem dsqExit : Statement .dsqExit := of32 rfl rfl
theorem callNodeFire : Statement .callNodeFire := of32 rfl rfl
theorem callNodeReturn : Statement .callNodeReturn := of32 rfl rfl
theorem callbackEntry : Statement .callbackEntry := of32 rfl rfl
theorem callbackPoolAssign : Statement .callbackPoolAssign := of32 rfl rfl
theorem poolTimeout : Statement .poolTimeout := of32 rfl rfl
theorem frameRead : Statement .frameRead := of32 rfl rfl
theorem frameWrite : Statement .frameWrite := of32 rfl rfl
theorem frameEnd : Statement .frameEnd := of32 rfl rfl
theorem frameOpen : Statement .frameOpen := of32 rfl rfl
theorem frameSlotFree : Statement .frameSlotFree := of32 rfl rfl
theorem frameOrphaned : Statement .frameOrphaned := of32 rfl rfl
theorem fabricStall : Statement .fabricStall := of32 rfl rfl
theorem ingressTake : Statement .ingressTake := of32 rfl rfl
theorem egressWrite : Statement .egressWrite := of32 rfl rfl
theorem egressEndOfStream : Statement .egressEndOfStream := of32 rfl rfl
theorem ringWaitExpiry : Statement .ringWaitExpiry := of32 rfl rfl
theorem sinkConsume : Statement .sinkConsume := of32 rfl rfl
theorem mxportFire : Statement .mxportFire := of32 rfl rfl
theorem mxportCompletion : Statement .mxportCompletion := of32 rfl rfl
theorem accUpdate : Statement .accUpdate := of32 rfl rfl
theorem dispatchBind : Statement .dispatchBind := of32 rfl rfl
theorem poolTake : Statement .poolTake := of32 rfl rfl
theorem threadAged : Statement .threadAged := of32 rfl rfl
theorem threadExit : Statement .threadExit := of32 rfl rfl
theorem jobComplete : Statement .jobComplete := of32 rfl rfl
theorem startTickReached : Statement .startTickReached := of32 rfl rfl
theorem gangDecision : Statement .gangDecision := of32 rfl rfl
theorem gangStart : Statement .gangStart := of32 rfl rfl
theorem launchWaitExpiry : Statement .launchWaitExpiry := of32 rfl rfl
theorem entryDone : Statement .entryDone := of32 rfl rfl
theorem configPlace : Statement .configPlace := of32 rfl rfl
theorem configRetry : Statement .configRetry := of32 rfl rfl
theorem regionLoad : Statement .regionLoad := of32 rfl rfl
theorem uncorrectableError : Statement .uncorrectableError := of32 rfl rfl
theorem ptpMessage : Statement .ptpMessage := of32 rfl rfl
theorem completionRecord : Statement .completionRecord := of32 rfl rfl
theorem protectionRequest : Statement .protectionRequest := of32 rfl rfl
theorem protectionReply : Statement .protectionReply := of32 rfl rfl
theorem remoteTimeout : Statement .remoteTimeout := of32 rfl rfl
theorem feTimeout : Statement .feTimeout := of32 rfl rfl
theorem inboxMessageArrival : Statement .inboxMessageArrival := of32 rfl rfl
theorem calltReturn : Statement .calltReturn := of32 rfl rfl
theorem graphCallTimeout : Statement .graphCallTimeout := of32 rfl rfl
theorem waitlimExpiry : Statement .waitlimExpiry := of32 rfl rfl
theorem copyCommandStart : Statement .copyCommandStart := of32 rfl rfl
theorem copyCompletion : Statement .copyCompletion := of32 rfl rfl
theorem mxuArbitrate : Statement .mxuArbitrate := of32 rfl rfl
theorem fillWaitTimeout : Statement .fillWaitTimeout := of32 rfl rfl
theorem tileCompletion : Statement .tileCompletion := of32 rfl rfl
theorem sortCompletion : Statement .sortCompletion := of32 rfl rfl
theorem mxuParityError : Statement .mxuParityError := of32 rfl rfl
theorem kilnInstall : Statement .kilnInstall := of32 rfl rfl
theorem kilnMove : Statement .kilnMove := of32 rfl rfl
theorem kilnFault : Statement .kilnFault := of32 rfl rfl
theorem kilnReport : Statement .kilnReport := of32 rfl rfl
theorem pinWaitTimeout : Statement .pinWaitTimeout := of32 rfl rfl
theorem subSyncCopy : Statement .subSyncCopy := of32 rfl rfl
theorem packetFlush : Statement .packetFlush := of32 rfl rfl
theorem packetTimerExpiry : Statement .packetTimerExpiry := of32 rfl rfl
theorem packetApply : Statement .packetApply := of32 rfl rfl
theorem subDrained : Statement .subDrained := of32 rfl rfl
theorem barrierComplete : Statement .barrierComplete := of32 rfl rfl
theorem groupDecision : Statement .groupDecision := of32 rfl rfl
theorem collContribution : Statement .collContribution := of32 rfl rfl
theorem collCommit : Statement .collCommit := of32 rfl rfl
theorem collAbort : Statement .collAbort := of32 rfl rfl
theorem collGroupTimeout : Statement .collGroupTimeout := of32 rfl rfl
theorem collMemberLost : Statement .collMemberLost := of32 rfl rfl
theorem userInterruptDelivery : Statement .userInterruptDelivery := of32 rfl rfl
theorem quantumExpiry : Statement .quantumExpiry := of32 rfl rfl
theorem parkedMessageAppend : Statement .parkedMessageAppend := of32 rfl rfl
theorem fabricTrapDelivery : Statement .fabricTrapDelivery := of32 rfl rfl
theorem shrinkPoint : Statement .shrinkPoint := of32 rfl rfl
theorem shrinkBudgetExpiry : Statement .shrinkBudgetExpiry := of32 rfl rfl
theorem scanOut : Statement .scanOut := of32 rfl rfl
theorem regionRestore : Statement .regionRestore := of32 rfl rfl
theorem resumeInPlace : Statement .resumeInPlace := of32 rfl rfl
theorem regionQuantumExpiry : Statement .regionQuantumExpiry := of32 rfl rfl
theorem occupancyRound : Statement .occupancyRound := of32 rfl rfl
theorem drainQuiescence : Statement .drainQuiescence := of32 rfl rfl
theorem plbInvComplete : Statement .plbInvComplete := of32 rfl rfl
theorem spimgSave : Statement .spimgSave := of32 rfl rfl
theorem spimgRestore : Statement .spimgRestore := of32 rfl rfl
theorem standbyRailOn : Statement .standbyRailOn := of32 rfl rfl
theorem standbyRailLost : Statement .standbyRailLost := of32 rfl rfl
theorem firmwareVerify : Statement .firmwareVerify := of32 rfl rfl
theorem thermalTrip : Statement .thermalTrip := of32 rfl rfl
theorem timerInterrupt : Statement .timerInterrupt := of32 rfl rfl
theorem externalInterrupt : Statement .externalInterrupt := of32 rfl rfl
theorem lostMemberReached : Statement .lostMemberReached := of32 rfl rfl

end Sys2Proof.Laws.OneForm
end

