-- ==== Sys2Proof/Laws/Regions.lean ====
section
/-! SUPPORT. Regions by number after an update, and what consuming and sending tokens leave as they were (R185, R188). -/

namespace Sys2Proof.Machine

theorem region_modRegion (s : State) (n k : Nat) (f : Region → Region) (hf : ∀ r, (f r).num = r.num) :
    (s.modRegion n f).region k = (s.region k).map (fun r => if k = n then f r else r) := by
  simp only [State.region, State.modRegion]
  induction s.regions with
  | nil => simp
  | cons a l ih =>
    have e : ((if (a.num == n) = true then f a else a).num == k) = (a.num == k) := by split <;> simp [hf]
    rw [List.map_cons, List.find?_cons, List.find?_cons, e]
    by_cases hk : a.num = k
    · subst hk; simp
    · rw [show (a.num == k) = false by simpa using hk]; exact ih

theorem region_setRegion (s : State) (r : Region) (k : Nat) :
    (s.setRegion r).region k = if k = r.num then (s.region k).map (fun _ => r) else s.region k := by
  simp only [State.region, State.setRegion, State.modRegion]
  induction s.regions with
  | nil => simp
  | cons a l ih =>
    rw [List.map_cons, List.find?_cons, List.find?_cons]
    by_cases ha : a.num = r.num
    · by_cases hk : k = r.num
      · subst hk; simp [ha]
      · have h1 : (r.num == k) = false := by simpa using Ne.symm hk
        have h2 : (a.num == k) = false := by rw [ha]; exact h1
        simp only [show (a.num == r.num) = true by simpa using ha, if_true, h1, h2]
        exact ih
    · have h1 : (a.num == r.num) = false := by simpa using ha
      simp only [h1, Bool.false_eq_true, if_false]
      by_cases hk : a.num = k
      · subst hk; simp [ha]
      · simp only [show (a.num == k) = false by simpa using hk]; exact ih

theorem region_fired (s : State) (x : Site) (k : Nat) :
    (s.fired x).region k = (s.region k).map (fun r => if k = x.rgn then { r with
      slots := r.slots.mapIdx (fun i f => if i == x.fs then { f with stallFrom := none } else f),
      last := match r.node? x.node with
        | some n => (r.last.filter (fun l => l.1 != n.elem)) ++ [(n.elem, n.ctx0, x.fs)]
        | none => r.last } else r) :=
  region_modRegion s _ _ _ (fun _ => rfl)

theorem num_of_region (s : State) (k : Nat) (r : Region) (h : s.region k = some r) : r.num = k := by
  have := List.find?_some h
  simpa using this

/-- A candidate is the node of the site, in the region of the site, for the frame of the site. -/
theorem candidate_eq (s : State) (k : Nat) (f : Fire) (h : s.candidate k = some f) :
    s.region s.site.rgn = some f.r ∧ f.r.num = s.site.rgn ∧ f.r.node? s.site.node = some f.n ∧ f.fs = s.site.fs := by
  simp only [State.candidate, State.siteNode] at h
  cases hr : s.region s.site.rgn with
  | none => simp [hr] at h
  | some r =>
    simp only [hr] at h
    cases hn : r.node? s.site.node with
    | none => simp [hn] at h
    | some n =>
      simp only [hn, Option.map_some, Option.ite_none_right_eq_some, Option.some.injEq] at h
      obtain ⟨_, rfl⟩ := h
      exact ⟨rfl, num_of_region _ _ _ hr, hn, rfl⟩

/-- What taking heads leaves as it was: all but the channels and the credits owed. -/
theorem takeAll_rest (q : Region) (n fs : Nat) (ps : List Nat) :
    q.takeAll n fs ps = { q with chan := (q.takeAll n fs ps).chan, owed := (q.takeAll n fs ps).owed } := by
  unfold Region.takeAll
  induction ps generalizing q with
  | nil => rfl
  | cons a l ih =>
    rw [List.foldl_cons, ih]
    unfold Region.take; split <;> rfl

/-- Tokens sent on several ports join the flight in order. -/
theorem sends_eq (q : Region) (n : NodeRec) (ctx : Nat) (g : Nat → Token) (ps : List Nat) :
    ps.foldl (fun q p => q.send n ctx p (g p)) q
      = { q with flight := q.flight ++ ps.flatMap (fun p => (n.outs ctx p).map (fun e => (e.node, e.inPort, g p))) } := by
  induction ps generalizing q with
  | nil => simp
  | cons a l ih => rw [List.foldl_cons, ih]; simp [Region.send]

end Sys2Proof.Machine
end

