-- ==== Sys2Proof/Tests/Setup.lean ====
section
/-! SUPPORT. Small states for the witnesses: thread 0 READY in machine mode at address 0 of a page with every right. -/

namespace Sys2Proof.Tests

open Sys2Proof.Machine

/-- Thread 0 before address 0, with nothing of the agenda left. -/
def mach : State := { State.reset.withFetchWord 32 0x13 with agenda := [] }

/-- Thread 0 changed. -/
def thr (f : Slot → Slot) : State := mach.modSlot 0 f

/-- x registers of a thread. -/
def xs (l : List (BitVec 5 × Word)) (t : Slot) : Slot := l.foldl (fun t p => t.wx p.1 p.2) t

/-- Bytes at an address of the page. -/
def put (s : State) (a n v : Nat) : State := { s with mem := s.mem.write a n v }

/-- A pointer with E = 0 and a pad kind. -/
def code (k : Nat) (a : Nat) : Word := BitVec.ofNat 64 (k * 2 ^ 59 + a)

/-- The word of a landing pad of kind `k`. -/
def lpadAt (s : State) (a k : Nat) : State := put s a 4 (0x0B + k * 2 ^ 20)

def isOk {ε α : Type} (e : Except ε α) : Bool := match e with | .ok _ => true | .error _ => false

/-- What a computation answers meets a test. -/
def okAnd {ε α : Type} (e : Except ε α) (p : α → Bool) : Bool := match e with | .ok a => p a | .error _ => false

def goes (r : Res) : Bool := match r with | .next _ => true | _ => false

/-- The page changed. -/
def page (s : State) (f : Plb → Plb) : State := s.modCore 0 (fun c => { c with plb := c.plb.map f })

def isNear (p : Place) : Bool := match p with | .far _ => false | _ => true

/-- Where an access goes meets a test. -/
def reaches (r : State × Except Nat (Place × Option Plb)) (p : State → Place → Option Plb → Bool) : Bool :=
  okAnd r.2 (fun q => p r.1 q.1 q.2)

/-- No replicated page. -/
def single (e : Option Plb) : Bool := e.all (fun x => !x.repl)

/-- The first 64 GiB mapped onto themselves by one leaf with some flags (R252: full-empty 32, replicated 64, managed 128,
evacuating 256), every right in a rights table, and an empty PLB. -/
def mapped (s : State) (flags : Nat) : State :=
  let s1 := put (put (put s 0x8000 8 0x8801) 0x8800 8 (25 + flags)) 0xA000 1 0xFF
  ((s1.modDie 0 (fun d => { d with ttroot := 0x8000 })).modSlot 0 (fun t => { t with sc := { t.sc with pdrights := 0xA000 } })).modCore
    0 (fun c => { c with plb := [] })

/-- A block of fields: offset and value. -/
def blk (l : List (Nat × Nat)) : Nat := l.foldl (fun b p => b + p.2 * 2 ^ (8 * p.1)) 0

/-- Memory that holds some values, given as address, bytes and value in rising order. -/
def image (l : List (Nat × Nat × Nat)) : Memory :=
  ⟨l.flatMap (fun p => ((natBytes p.2.1 p.2.2).zipIdx.filter (fun b => b.1 != 0)).map (fun b => (p.1 + b.2, b.1))), []⟩

/-- A scratchpad address of core 0. -/
def spad (off : Nat) : Nat := 0xF * 2 ^ 52 + off

/-- A message that is no return message. -/
def note : Msg := ⟨2, 0, 3, 7, 0x55⟩

end Sys2Proof.Tests
end

