-- ==== Sys2Proof/Tests/Slice0.lean ====
section
/-! SUPPORT. Tests of decoding, on words written out from the fields the manual gives them, and of well-formedness, on an
ill-formed term for each check. -/

namespace Sys2Proof.Tests

-- One theorem at a time: each is a kernel computation, and many at once hold a thread each.
set_option Elab.async false

/-- An R-type word by its fields (R67). -/
def rWord (f7 : BitVec 7) (rs2 rs1 : BitVec 5) (f3 : BitVec 3) (rd : BitVec 5) (opc : BitVec 7) : Nat :=
  (f7 ++ rs2 ++ rs1 ++ f3 ++ rd ++ opc).toNat

/-- An I-type word by its fields (R67). -/
def iWord (imm : BitVec 12) (rs1 : BitVec 5) (f3 : BitVec 3) (rd : BitVec 5) (opc : BitVec 7) : Nat :=
  (imm ++ rs1 ++ f3 ++ rd ++ opc).toNat

/-- An extension word by its fields (R61). -/
def xWord (minor : BitVec 4) (mod mask : BitVec 3) (s3 s2 s1 d : BitVec 8) (ty : BitVec 4) (fmt : BitVec 3) (opc : BitVec 8) : Nat :=
  (minor ++ mod ++ mask ++ s3 ++ s2 ++ s1 ++ d ++ ty ++ fmt ++ opc ++ 0b0111111#7).toNat

/-- A triggered word by its fields (R73). -/
def elWord (cls : BitVec 1) (op : BitVec 7) (care value : BitVec 8) (req : BitVec 10) (test : BitVec 4) (deq : BitVec 10)
    (a b c : BitVec 6) (out : BitVec 10) (rd : BitVec 4) (pset pclr : BitVec 8) (pfr mod : BitVec 4) (tact : BitVec 8)
    (imm : BitVec 16) : Nat :=
  (cls ++ op ++ care ++ value ++ req ++ test ++ deq ++ a ++ b ++ c ++ out ++ rd ++ pset ++ pclr ++ pfr ++ mod ++ tact ++ imm).toNat

/-- Every word decodes to its instruction. -/
def decodes (n : Nat) (l : List (Nat × Instr)) : Bool := l.all (fun p => decodeTableWord n p.1 == some p.2)

/-- Custom-0 words (R67), with the two worked words of R68. -/
theorem test_decode_custom0 : decodes 32 [
    (0x0020000B, .lpad 2),
    (rWord 0b0000000 12 11 0b001 10 0b0001011, .callt 10 11 12),
    (rWord 0b0000001 0 0 0b001 0 0b0001011, .rett),
    (rWord 0b0000010 17 5 0b001 6 0b0001011, .tagp 6 5 17),
    (rWord 0b0000011 0 5 0b001 6 0b0001011, .tagx 6 5),
    (rWord 0b0000100 3 0 0b001 6 0b0001011, .fuse 6 3),
    (rWord 0b0000101 0 0 0b001 0 0b0001011, .split),
    (rWord 0b0000110 0 0 0b001 30 0b0001011, .recv 15),
    (rWord 0b0000111 0 0 0b001 10 0b0001011, .peek 5),
    (rWord 0b0001000 0 0 0b001 7 0b0001011, .wfm 7),
    (rWord 0b0001001 0 0 0b001 0 0b0001011, .uiret),
    (rWord 0b0001010 0 0 0b001 0 0b0001011, .yield),
    (rWord 0b0001011 0 9 0b001 0 0b0001011, .prio 9),
    (iWord 3 9 0b010 0 0b0001011, .cbld 3 9),
    (iWord 4 0 0b011 0 0b0001011, .fenceScope .pkg),
    (rWord 0b0111100 0 9 0b100 8 0b0001011, .ldAcq .die true 8 9),
    (rWord 0b1011000 8 9 0b101 0 0b0001011, .stRel .sys false 9 8),
    (0x04C5E50B, .amoI64 .add .clu 10 11 12),
    (rWord 0b1001000 12 11 0b111 10 0b0001011, .amoI32 .cas .thr 10 11 12),
    (rWord 0b1010100 12 11 0b110 10 0b0001011, .amoCas128 .pkg 5 11 6),
    (rWord 0b1011101 12 11 0b111 10 0b0001011, .amoFaddF32 .sys 10 11 12),
    (rWord 0b1100001 12 11 0b111 10 0b0001011, .amoFadd2Bf16 .core 10 11 12)] = true := by decide +kernel

/-- Custom-1 words (R68). -/
theorem test_decode_custom1 : decodes 32 [
    (rWord 0b0000001 15 0 0b000 7 0b0101011, .bar .core 15 7),
    (rWord 0b0001010 3 0 0b000 7 0b0101011, .barArr .clu 3 7),
    (rWord 0b0010101 3 0 0b000 7 0b0101011, .barWait .sys 3 7),
    (rWord 0b0000000 0 11 0b001 10 0b0101011, .jlaunch 10 11),
    (rWord 0b0000001 0 11 0b001 10 0b0101011, .glaunch 10 11),
    (rWord 0b0000010 12 11 0b001 10 0b0101011, .gdep 10 11 12),
    (rWord 0b0000000 12 11 0b010 10 0b0101011, .ctxSave 10 11 12),
    (rWord 0b0000001 12 11 0b010 10 0b0101011, .ctxLoad 10 11 12),
    (rWord 0b0000010 12 11 0b010 10 0b0101011, .plbInv 10 11 12),
    (rWord 0b0000011 12 11 0b010 10 0b0101011, .rgnShrink 10 11 12),
    (rWord 0b0000100 0 11 0b010 10 0b0101011, .rgnDrain 10 11),
    (rWord 0b0000101 12 11 0b010 10 0b0101011, .trapRec 10 11 12)] = true := by decide +kernel

/-- Words of the RV64 base (R129), from the RISC-V specification's encodings. -/
theorem test_decode_rv64 : decodes 32 [
    (iWord 4095 11 0b000 10 0b1100111, .jalr 10 11 0xFFF),
    (0x0FF0000F, .fence 0 0xF 0xF),
    (0x0000100F, .fenceI),
    (0x1000252F, .lr false false false 10 0),
    (rWord 0b0001111 12 11 0b011 10 0b0101111, .sc true true true 10 11 12),
    (rWord 0b0000110 12 11 0b010 10 0b0101111, .rvAmo .swap false true false 10 11 12),
    (0x10200073, .sret),
    (0x30200073, .mret),
    (rWord 0b1111111 12 11 0b011 28 0b0100011, .plainStore ⟨3, false, 11, 12, 0xFFC⟩),
    (rWord 0b0000000 12 11 0b010 4 0b0100111, .plainStore ⟨2, true, 11, 12, 4⟩),
    (iWord 8 11 0b100 10 0b0000011, .scalarLoad ⟨0, true, false, 10, 11, 8⟩),
    (iWord 8 11 0b011 10 0b0000111, .scalarLoad ⟨3, false, true, 10, 11, 8⟩),
    (0x00B50533, .rv64BaseInstruction (.alu .add 10 10 11)),
    (0xFF1FF0EF, .rv64BaseInstruction (.jal 1 0xFFFF8)),
    (0xFE0518E3, .rv64BaseInstruction (.br .bne 10 0 0xFF8)),
    (0x123450B7, .rv64BaseInstruction (.lui 1 0x12345)),
    (iWord 3074 0 0b010 10 0b1110011, .rv64BaseInstruction (.csrRead ⟨.rs, 10, 0, 0xC02⟩)),
    (rWord 0b0000001 12 11 0b111 10 0b1010011, .rv64BaseInstruction (.fop .fadd .d 7 10 11 12))] = true := by decide +kernel

/-- Writes of CSRs with a row of their own (R131). -/
theorem test_decode_csr : decodes 32 [
    (iWord 1483 11 0b001 0 0b1110011, .pdrightsWrite ⟨.rw, 0, 11, 0x5CB⟩),
    (iWord 1472 11 0b001 10 0b1110011, .quantumWrite ⟨.rw, 10, 11, 0x5C0⟩),
    (iWord 2064 11 0b010 10 0b1110011, .matrixCsrWrite ⟨.rs, 10, 11, 0x810⟩),
    (iWord 1480 11 0b011 10 0b1110011, .prridxWrite ⟨.rc, 10, 11, 0x5C8⟩),
    (iWord 1484 11 0b101 10 0b1110011, .tcqWrite ⟨.rwi, 10, 11, 0x5CC⟩),
    (iWord 2048 11 0b110 10 0b1110011, .csrWrite ⟨.rsi, 10, 11, 0x800⟩)] = true := by decide +kernel

/-- Lane words (R61, R66), with the worked word of R65. -/
theorem test_decode_lanes : decodes 64 [
    (xWord 0 1 3 0x00 0x31 0x01 0x03 4 0 0x01, .vadd ⟨.i32, true, .rne, 3, .v 3, .v 1, .op (.o 1), none⟩),
    (xWord 0 1 3 0x00 0x31 0x01 0x03 4 0 0x02, .vsub ⟨.i32, true, .rne, 3, .v 3, .v 1, .op (.o 1), none⟩),
    (xWord 0 1 3 0x00 0x31 0x01 0x03 4 0 0x03, .vmul ⟨.i32, true, .rne, 3, .v 3, .v 1, .op (.o 1), none⟩),
    (xWord 0 1 3 0x00 0x31 0x01 0x03 4 0 0x04, .vmulh ⟨.i32, true, .rne, 3, .v 3, .v 1, .op (.o 1), none⟩),
    (xWord 0 1 3 0x38 0x31 0x01 0x03 4 0 0x05, .vmadd ⟨.i32, true, .rne, 3, .v 3, .v 1, .op (.o 1), some (.b 0)⟩),
    (xWord 0 1 3 0x00 0x31 0x01 0x03 4 0 0x06, .vmin ⟨.i32, true, .rne, 3, .v 3, .v 1, .op (.o 1), none⟩),
    (xWord 0 1 3 0x00 0x31 0x01 0x03 4 0 0x07, .vmax ⟨.i32, true, .rne, 3, .v 3, .v 1, .op (.o 1), none⟩),
    (xWord 0 1 3 0x00 0x00 0x01 0x03 4 0 0x08, .vabs ⟨.i32, true, .rne, 3, .v 3, .v 1, .none, none⟩),
    (xWord 0 0 0 0x00 0xFF 0x49 0x42 1 0 0x09, .vand ⟨.u8, false, .rne, 0, .x 2, .x 9, .op (.lit 0x3F), none⟩),
    (xWord 1 0 0 0x00 0xFF 0x49 0x42 1 0 0x09, .vor ⟨.u8, false, .rne, 0, .x 2, .x 9, .op (.lit 0x3F), none⟩),
    (xWord 2 0 0 0x00 0xFF 0x49 0x42 1 0 0x09, .vxor ⟨.u8, false, .rne, 0, .x 2, .x 9, .op (.lit 0x3F), none⟩),
    (xWord 3 0 0 0x00 0xFF 0x49 0x42 1 0 0x09, .vandn ⟨.u8, false, .rne, 0, .x 2, .x 9, .op (.lit 0x3F), none⟩),
    (xWord 0 0 0 0x12 0x34 0x01 0x03 2 1 0x0A, .vsll ⟨.i16, false, .rne, 0, .v 3, .v 1, .imm 0x1234, none⟩),
    (xWord 1 0 0 0x12 0x34 0x01 0x03 2 1 0x0A, .vsrl ⟨.i16, false, .rne, 0, .v 3, .v 1, .imm 0x1234, none⟩),
    (xWord 2 0 0 0x12 0x34 0x01 0x03 2 1 0x0A, .vsra ⟨.i16, false, .rne, 0, .v 3, .v 1, .imm 0x1234, none⟩),
    (xWord 1 2 0 0x00 0x85 0x31 0x04 7 0 0x10, .vfadd ⟨.f32, true, .rdn, 0, .v 4, .o 1, .op (.cb 5), none⟩),
    (xWord 1 2 0 0x00 0x85 0x31 0x04 7 0 0x11, .vfsub ⟨.f32, true, .rdn, 0, .v 4, .o 1, .op (.cb 5), none⟩),
    (xWord 1 2 0 0x00 0x85 0x31 0x04 7 0 0x12, .vfmul ⟨.f32, true, .rdn, 0, .v 4, .o 1, .op (.cb 5), none⟩),
    (0x06CE214C411C09BF, .vfma ⟨.f32, false, .rup, 3, .v 4, .o 1, .op (.cb 5), some (.b 0)⟩),
    (xWord 1 2 0 0x00 0x85 0x31 0x04 7 0 0x14, .vfmin ⟨.f32, true, .rdn, 0, .v 4, .o 1, .op (.cb 5), none⟩),
    (xWord 1 2 0 0x00 0x85 0x31 0x04 7 0 0x15, .vfmax ⟨.f32, true, .rdn, 0, .v 4, .o 1, .op (.cb 5), none⟩),
    (xWord 1 2 0 0x00 0x85 0x31 0x04 7 0 0x16, .vfdiv ⟨.f32, true, .rdn, 0, .v 4, .o 1, .op (.cb 5), none⟩),
    (xWord 1 2 0 0x00 0x00 0x31 0x04 7 0 0x17, .vfsqrt ⟨.f32, true, .rdn, 0, .v 4, .o 1, .none, none⟩),
    (xWord 1 2 0 0x00 0x00 0x31 0x04 7 0 0x18, .vfrcp ⟨.f32, true, .rdn, 0, .v 4, .o 1, .none, none⟩),
    (xWord 1 2 0 0x00 0x00 0x31 0x04 7 0 0x19, .vfrsq ⟨.f32, true, .rdn, 0, .v 4, .o 1, .none, none⟩),
    (xWord 1 2 0 0x00 0x00 0x31 0x04 7 0 0x1A, .vfexp2 ⟨.f32, true, .rdn, 0, .v 4, .o 1, .none, none⟩),
    (xWord 1 2 0 0x00 0x00 0x31 0x04 7 0 0x1B, .vflog2 ⟨.f32, true, .rdn, 0, .v 4, .o 1, .none, none⟩),
    (xWord 4 0 2 0x00 0x01 0x02 0x07 7 0 0x20, .vcmp .gt 7 .f32 2 (.v 2) (.op (.v 1))),
    (xWord 0 0 2 0x00 0x01 0x02 0x07 9 0 0x21, .vsel ⟨.bf16, false, .rne, 2, .v 7, .v 2, .op (.v 1), none⟩)] = true := by decide +kernel

/-- Mask words (R66). -/
theorem test_decode_masks : decodes 64 [
    (xWord 0 0 0 0x00 0x03 0x02 0x01 0 5 0x22, .kand 1 2 3),
    (xWord 1 0 0 0x00 0x03 0x02 0x01 0 5 0x22, .kor 1 2 3),
    (xWord 2 0 0 0x00 0x03 0x02 0x01 0 5 0x22, .kxor 1 2 3),
    (xWord 3 0 0 0x00 0x03 0x02 0x01 0 5 0x22, .kandn 1 2 3),
    (xWord 4 0 0 0x00 0x00 0x02 0x01 0 5 0x22, .knot 1 2),
    (xWord 0 0 0 0x00 0x00 0x02 0x09 0 5 0x23, .kpop 9 2),
    (xWord 0 0 0 0x00 0x00 0x02 0x09 0 5 0x24, .kfirst 9 2)] = true := by decide +kernel

/-- Conversions, dot products, reductions, scans and permutes (R66). -/
theorem test_decode_lanes2 : decodes 64 [
    (xWord 4 3 1 0x80 0xC1 0x01 0x02 0 4 0x28, .vcvt ⟨.i8, .i32, .rup, 1, true, 0, .v 2, .v 1, .lit 1⟩),
    (xWord 4 0 1 0x00 0x02 0x01 0x02 2 4 0x29, .vpack ⟨.i16, .i32, .rne, 1, false, 0, .v 2, .v 1, .v 2⟩),
    (xWord 2 0 1 0x00 0xC1 0x01 0x02 4 4 0x2A, .vunpack ⟨.i32, .i16, .rne, 1, false, 0, .v 2, .v 1, .lit 1⟩),
    (xWord 7 0 1 0x00 0x85 0x01 0x02 13 4 0x2B, .vqnt ⟨.qa8, .f32, .rne, 1, false, 0, .v 2, .v 1, .cb 5⟩),
    (xWord 13 0 1 0x00 0x49 0x01 0x02 7 4 0x2C, .vdq ⟨.f32, .qa8, .rne, 1, false, 0, .v 2, .v 1, .x 9⟩),
    (xWord 0 0 0 0x38 0x01 0x02 0x03 1 0 0x2D, .vdot4 ⟨.u8, false, .rne, 0, .v 3, .v 2, .op (.v 1), some (.b 0)⟩),
    (xWord 5 1 0 0x00 0x01 0x02 0x03 4 0 0x2E, .vred .xor ⟨.i32, true, .rne, 0, .v 3, .v 2, .op (.v 1), none⟩),
    (xWord 2 3 0 0x00 0x01 0x02 0x03 8 0 0x2F, .vscan .max ⟨.f16, false, .rup, 0, .v 3, .v 2, .op (.v 1), none⟩),
    (xWord 0 0 0 0x03 0x01 0x02 0x03 5 0 0x30, .vperm ⟨.u32, false, .rne, 0, .v 3, .v 2, .op (.v 1), some (.v 3)⟩),
    (xWord 0 0 0 0x00 0x01 0x02 0x03 5 0 0x31, .vshuf ⟨.u32, false, .rne, 0, .v 3, .v 2, .op (.v 1), none⟩),
    (xWord 0 0 0 0x00 0x01 0x02 0x03 5 0 0x33, .vbcast ⟨.u32, false, .rne, 0, .v 3, .v 2, .op (.v 1), none⟩),
    (xWord 0 0 0 0x00 0x01 0x02 0x43 5 0 0x34, .vextr ⟨.u32, false, .rne, 0, .x 3, .v 2, .op (.v 1), none⟩),
    (xWord 0 0 0 0x00 0x01 0x02 0x03 5 0 0x35, .vins ⟨.u32, false, .rne, 0, .v 3, .v 2, .op (.v 1), none⟩),
    (xWord 0 0 0 0x38 0x01 0x02 0x03 5 0 0x32, .vslideUp ⟨.u32, false, .rne, 0, .v 3, .v 2, .op (.v 1), some (.b 0)⟩),
    (xWord 1 0 0 0x38 0x01 0x02 0x03 5 0 0x32, .vslideDown ⟨.u32, false, .rne, 0, .v 3, .v 2, .op (.v 1), some (.b 0)⟩)] = true := by decide +kernel

/-- Memory words of F2 and F3 (R62, R66). -/
theorem test_decode_vmem : decodes 64 [
    (xWord 0 0 5 0xFF 0x80 0x49 0x03 7 2 0x38, .vld ⟨.f32, 5, 9, 0xFF80, .x 0, .v 3⟩),
    (xWord 0 0 5 0xFF 0x80 0x49 0x31 7 2 0x39, .vst ⟨.f32, 5, 9, 0xFF80, .x 0, .o 1⟩),
    (xWord 0 0 5 0x45 0x00 0x49 0x03 7 3 0x3A, .vlds ⟨.f32, 5, 9, 0, .x 5, .v 3⟩),
    (xWord 0 0 5 0x45 0x00 0x49 0x03 7 3 0x3B, .vsts ⟨.f32, 5, 9, 0, .x 5, .v 3⟩),
    (xWord 0 0 5 0x07 0x00 0x49 0x03 7 3 0x3C, .vldx ⟨.f32, 5, 9, 0, .v 7, .v 3⟩),
    (xWord 0 0 5 0x07 0x00 0x49 0x03 7 3 0x3D, .vstx ⟨.f32, 5, 9, 0, .v 7, .v 3⟩),
    (xWord 3 0 0 0x00 0x40 0x4A 0x03 14 2 0x3E, .vldb 3 ⟨.sb48, 0, 10, 0x40, .x 0, .v 3⟩),
    (xWord 0 0 0 0x00 0x08 0x49 0x43 6 2 0x60, .ldFe 3 9 8),
    (xWord 1 0 0 0x00 0x08 0x49 0x43 6 2 0x60, .ldFeTake 3 9 8),
    (xWord 0 0 0 0x00 0x08 0x49 0x43 6 2 0x61, .stFe 3 9 8),
    (xWord 1 0 0 0x00 0x08 0x49 0x43 6 2 0x61, .stFeFill 3 9 8),
    (xWord 0 3 0 0x00 0x08 0x49 0x40 0 2 0x64, .pf .die 9 8)] = true := by decide +kernel

/-- Engine, group and collective words of F5 (R66). -/
theorem test_decode_engines : decodes 64 [
    (xWord 0 0 0 0x00 0x06 0x05 0x04 0 5 0x62, .cpy ⟨4, 5, 6, 0⟩),
    (xWord 1 0 0 0x00 0x06 0x05 0x04 0 5 0x62, .cpyPlane ⟨4, 5, 6, 0⟩),
    (xWord 0 0 0 0x00 0x00 0x00 0x04 0 5 0x63, .cpyStat 4),
    (xWord 0 0 0 0x00 0x06 0x05 0x04 0 5 0x7B, .kilnGo ⟨4, 5, 6, 0⟩),
    (xWord 0 0 0 0x00 0x00 0x05 0x04 0 5 0x7C, .kilnStat 4 5),
    (xWord 0 0 0 0x00 0x06 0x05 0x04 0 5 0x80, .subAdd ⟨4, 5, 6, 0⟩),
    (xWord 0 0 0 0x00 0x00 0x05 0x04 0 5 0x81, .subDrop 4 5),
    (xWord 0 0 0 0x00 0x00 0x00 0x04 0 5 0x82, .subFlush 4),
    (xWord 0 0 0 0x00 0x00 0x05 0x04 0 5 0x83, .subStat 4 5),
    (xWord 0 0 0 0x00 0x06 0x05 0x04 0 5 0x84, .raceRd ⟨4, 5, 6, 0⟩),
    (xWord 0 0 0 0x00 0x06 0x05 0x04 0 5 0x90, .mxTile ⟨4, 5, 6, 0⟩),
    (xWord 1 0 0 0x00 0x06 0x05 0x04 0 5 0x90, .mxTileAcc ⟨4, 5, 6, 0⟩),
    (xWord 0 0 0 0x00 0x06 0x05 0x04 0 5 0x91, .mxSort ⟨4, 5, 6, 0⟩),
    (xWord 0 0 0 0x00 0x06 0x05 0x04 0 5 0x92, .mxTopk ⟨4, 5, 6, 0⟩),
    (xWord 0 0 0 0x00 0x00 0x00 0x04 0 5 0x93, .mxStat 4),
    (xWord 0 0 0 0x00 0x00 0x05 0x04 0 5 0xA0, .grpForm 4 5),
    (xWord 0 0 0 0x00 0x00 0x05 0x04 0 5 0xA1, .grpDrop 4 5),
    (xWord 0 0 0 0x00 0x06 0x05 0x04 7 5 0xA2, .collAllreduce .f32 ⟨4, 5, 6, 0⟩),
    (xWord 1 0 0 0x00 0x06 0x05 0x04 9 5 0xA2, .collRedscatter .bf16 ⟨4, 5, 6, 0⟩),
    (xWord 2 0 0 0x00 0x06 0x05 0x04 1 5 0xA2, .collAllgather .u8 ⟨4, 5, 6, 0⟩),
    (xWord 3 0 0 0x00 0x06 0x05 0x04 1 5 0xA2, .collBcast .u8 ⟨4, 5, 6, 0⟩),
    (xWord 4 0 0 0x00 0x06 0x05 0x04 1 5 0xA2, .collAlltoall .u8 ⟨4, 5, 6, 0⟩),
    (xWord 0 0 0 0x00 0x00 0x05 0x04 0 5 0xA3, .collCancel 4 5)] = true := by decide +kernel

/-- Reference words (R66). -/
theorem test_decode_refs : decodes 64 [
    (xWord 0 0 0 0x00 0x06 0x05 0x04 6 5 0x70, .refLd .i64 4 5 6),
    (xWord 0 0 0 0x00 0x06 0x05 0x04 1 5 0x71, .refSt .u8 4 5 6),
    (xWord 0 0 0 0x00 0x06 0x05 0x04 0 5 0x72, .refLdf 4 5 6),
    (xWord 0 0 0 0x00 0x06 0x05 0x04 0 5 0x73, .refStf 4 5 6),
    (xWord 0 0 0 0x07 0x06 0x05 0x04 0 5 0x74, .refAlloc 4 5 6 7),
    (xWord 0 0 0 0x00 0x06 0x05 0x04 0 5 0x75, .refPin 4 5 6),
    (xWord 0 0 0 0x00 0x00 0x05 0x04 0 5 0x76, .refUnpin 4 5),
    (xWord 0 0 0 0x00 0x06 0x05 0x04 0 5 0x77, .refEq 4 5 6),
    (xWord 0 0 0 0x00 0x01 0x05 0x14 0 5 0x78, .refMov true 20 5),
    (xWord 0 0 0 0x00 0x00 0x00 0x04 0 5 0x79, .refNull 4),
    (xWord 0 0 0 0x07 0x06 0x05 0x04 0 5 0x7A, .refChk 4 5 6 7)] = true := by decide +kernel

/-- Triggered words (R73 to R78). -/
theorem test_decode_elements : decodes 128 [
    (elWord 0 0x00 0x81 0x80 1 0 1 0x00 0x00 0x00 0 0 1 2 0 0 0x91 0, .elNop ⟨false, 0x81, 0x80, 1, 0, 1, 0x00, 0x00, 0x00, 0, 0, 1, 2, 0, 0, 0x91, 0⟩),
    (elWord 0 0x01 0x81 0x80 1 0 1 0x00 0x00 0x00 1 0 1 2 10 0 0x91 0, .elMov ⟨false, 0x81, 0x80, 1, 0, 1, 0x00, 0x00, 0x00, 1, 0, 1, 2, 10, 0, 0x91, 0⟩),
    (elWord 0 0x02 0x81 0x80 1 0 1 0x00 0x10 0x17 1 0 1 2 10 0 0x91 0, .elSel ⟨false, 0x81, 0x80, 1, 0, 1, 0x00, 0x10, 0x17, 1, 0, 1, 2, 10, 0, 0x91, 0⟩),
    (elWord 0 0x03 0x81 0x80 1 0 1 0x00 0x10 0x00 1 0 1 2 10 0 0x91 2, .elSteer ⟨false, 0x81, 0x80, 1, 0, 1, 0x00, 0x10, 0x00, 1, 0, 1, 2, 10, 0, 0x91, 2⟩),
    (elWord 1 0x04 0x81 0x80 1 0 1 0x00 0x00 0x00 32 0 1 2 10 0 0x91 0, .elRepl ⟨true, 0x81, 0x80, 1, 0, 1, 0x00, 0x00, 0x00, 32, 0, 1, 2, 10, 0, 0x91, 0⟩),
    (elWord 0 0x05 0x81 0x80 1 0 1 0x00 0x10 0x00 1 0 1 2 10 0 0x91 0, .elAdd ⟨false, 0x81, 0x80, 1, 0, 1, 0x00, 0x10, 0x00, 1, 0, 1, 2, 10, 0, 0x91, 0⟩),
    (elWord 0 0x06 0x81 0x80 1 0 1 0x00 0x10 0x00 1 0 1 2 10 0 0x91 0, .elSub ⟨false, 0x81, 0x80, 1, 0, 1, 0x00, 0x10, 0x00, 1, 0, 1, 2, 10, 0, 0x91, 0⟩),
    (elWord 0 0x07 0x81 0x80 1 0 1 0x00 0x10 0x00 1 0 1 2 10 0 0x91 0, .elMul ⟨false, 0x81, 0x80, 1, 0, 1, 0x00, 0x10, 0x00, 1, 0, 1, 2, 10, 0, 0x91, 0⟩),
    (elWord 0 0x08 0x81 0x80 1 0 1 0x00 0x10 0x00 1 0 1 2 10 0 0x91 0, .elMulh ⟨false, 0x81, 0x80, 1, 0, 1, 0x00, 0x10, 0x00, 1, 0, 1, 2, 10, 0, 0x91, 0⟩),
    (elWord 0 0x09 0x81 0x80 1 0 1 0x00 0x10 0x17 1 0 1 2 10 0 0x91 0, .elMac ⟨false, 0x81, 0x80, 1, 0, 1, 0x00, 0x10, 0x17, 1, 0, 1, 2, 10, 0, 0x91, 0⟩),
    (elWord 0 0x0A 0x81 0x80 1 0 1 0x00 0x10 0x00 1 0 1 2 10 0 0x91 0, .elMin ⟨false, 0x81, 0x80, 1, 0, 1, 0x00, 0x10, 0x00, 1, 0, 1, 2, 10, 0, 0x91, 0⟩),
    (elWord 0 0x0B 0x81 0x80 1 0 1 0x00 0x10 0x00 1 0 1 2 10 0 0x91 0, .elMax ⟨false, 0x81, 0x80, 1, 0, 1, 0x00, 0x10, 0x00, 1, 0, 1, 2, 10, 0, 0x91, 0⟩),
    (elWord 0 0x0C 0x81 0x80 1 0 1 0x00 0x00 0x00 1 0 1 2 10 0 0x91 0, .elAbs ⟨false, 0x81, 0x80, 1, 0, 1, 0x00, 0x00, 0x00, 1, 0, 1, 2, 10, 0, 0x91, 0⟩),
    (elWord 0 0x0D 0x81 0x80 1 0 1 0x00 0x00 0x00 1 0 1 2 10 0 0x91 0, .elNeg ⟨false, 0x81, 0x80, 1, 0, 1, 0x00, 0x00, 0x00, 1, 0, 1, 2, 10, 0, 0x91, 0⟩),
    (elWord 0 0x10 0x81 0x80 1 0 1 0x00 0x10 0x00 1 0 1 2 10 0 0x91 0, .elAnd ⟨false, 0x81, 0x80, 1, 0, 1, 0x00, 0x10, 0x00, 1, 0, 1, 2, 10, 0, 0x91, 0⟩),
    (elWord 0 0x11 0x81 0x80 1 0 1 0x00 0x10 0x00 1 0 1 2 10 0 0x91 0, .elOr ⟨false, 0x81, 0x80, 1, 0, 1, 0x00, 0x10, 0x00, 1, 0, 1, 2, 10, 0, 0x91, 0⟩),
    (elWord 0 0x12 0x81 0x80 1 0 1 0x00 0x10 0x00 1 0 1 2 10 0 0x91 0, .elXor ⟨false, 0x81, 0x80, 1, 0, 1, 0x00, 0x10, 0x00, 1, 0, 1, 2, 10, 0, 0x91, 0⟩),
    (elWord 0 0x13 0x81 0x80 1 0 1 0x00 0x10 0x00 1 0 1 2 10 0 0x91 0, .elAndn ⟨false, 0x81, 0x80, 1, 0, 1, 0x00, 0x10, 0x00, 1, 0, 1, 2, 10, 0, 0x91, 0⟩),
    (elWord 0 0x14 0x81 0x80 1 0 1 0x00 0x00 0x00 1 0 1 2 10 0 0x91 0, .elNot ⟨false, 0x81, 0x80, 1, 0, 1, 0x00, 0x00, 0x00, 1, 0, 1, 2, 10, 0, 0x91, 0⟩),
    (elWord 0 0x15 0x81 0x80 1 0 1 0x00 0x10 0x00 1 0 1 2 10 0 0x91 0, .elSll ⟨false, 0x81, 0x80, 1, 0, 1, 0x00, 0x10, 0x00, 1, 0, 1, 2, 10, 0, 0x91, 0⟩),
    (elWord 0 0x16 0x81 0x80 1 0 1 0x00 0x10 0x00 1 0 1 2 10 0 0x91 0, .elSrl ⟨false, 0x81, 0x80, 1, 0, 1, 0x00, 0x10, 0x00, 1, 0, 1, 2, 10, 0, 0x91, 0⟩),
    (elWord 0 0x17 0x81 0x80 1 0 1 0x00 0x10 0x00 1 0 1 2 10 0 0x91 0, .elSra ⟨false, 0x81, 0x80, 1, 0, 1, 0x00, 0x10, 0x00, 1, 0, 1, 2, 10, 0, 0x91, 0⟩)] = true := by decide +kernel

/-- Triggered words, further ops. -/
theorem test_decode_elements2 : decodes 128 [
    (elWord 0 0x18 0x81 0x80 1 0 1 0x00 0x10 0x00 1 0 1 2 10 0 0x91 0, .elCmpEq ⟨false, 0x81, 0x80, 1, 0, 1, 0x00, 0x10, 0x00, 1, 0, 1, 2, 10, 0, 0x91, 0⟩),
    (elWord 0 0x19 0x81 0x80 1 0 1 0x00 0x10 0x00 1 0 1 2 10 0 0x91 0, .elCmpNe ⟨false, 0x81, 0x80, 1, 0, 1, 0x00, 0x10, 0x00, 1, 0, 1, 2, 10, 0, 0x91, 0⟩),
    (elWord 0 0x1A 0x81 0x80 1 0 1 0x00 0x10 0x00 1 0 1 2 10 0 0x91 0, .elCmpLt ⟨false, 0x81, 0x80, 1, 0, 1, 0x00, 0x10, 0x00, 1, 0, 1, 2, 10, 0, 0x91, 0⟩),
    (elWord 0 0x1B 0x81 0x80 1 0 1 0x00 0x10 0x00 1 0 1 2 10 0 0x91 0, .elCmpLe ⟨false, 0x81, 0x80, 1, 0, 1, 0x00, 0x10, 0x00, 1, 0, 1, 2, 10, 0, 0x91, 0⟩),
    (elWord 0 0x20 0x81 0x80 1 0 1 0x00 0x10 0x00 1 0 1 2 10 0 0x91 0, .elFadd ⟨false, 0x81, 0x80, 1, 0, 1, 0x00, 0x10, 0x00, 1, 0, 1, 2, 10, 0, 0x91, 0⟩),
    (elWord 0 0x21 0x81 0x80 1 0 1 0x00 0x10 0x00 1 0 1 2 10 0 0x91 0, .elFsub ⟨false, 0x81, 0x80, 1, 0, 1, 0x00, 0x10, 0x00, 1, 0, 1, 2, 10, 0, 0x91, 0⟩),
    (elWord 0 0x22 0x81 0x80 1 0 1 0x00 0x10 0x00 1 0 1 2 10 0 0x91 0, .elFmul ⟨false, 0x81, 0x80, 1, 0, 1, 0x00, 0x10, 0x00, 1, 0, 1, 2, 10, 0, 0x91, 0⟩),
    (elWord 0 0x23 0x81 0x80 1 0 1 0x00 0x10 0x17 1 0 1 2 10 0 0x91 0, .elFma ⟨false, 0x81, 0x80, 1, 0, 1, 0x00, 0x10, 0x17, 1, 0, 1, 2, 10, 0, 0x91, 0⟩),
    (elWord 0 0x24 0x81 0x80 1 0 1 0x00 0x10 0x00 1 0 1 2 10 0 0x91 0, .elFmin ⟨false, 0x81, 0x80, 1, 0, 1, 0x00, 0x10, 0x00, 1, 0, 1, 2, 10, 0, 0x91, 0⟩),
    (elWord 0 0x25 0x81 0x80 1 0 1 0x00 0x10 0x00 1 0 1 2 10 0 0x91 0, .elFmax ⟨false, 0x81, 0x80, 1, 0, 1, 0x00, 0x10, 0x00, 1, 0, 1, 2, 10, 0, 0x91, 0⟩),
    (elWord 0 0x26 0x81 0x80 1 0 1 0x00 0x10 0x00 1 0 1 2 10 0 0x91 0, .elFcmpEq ⟨false, 0x81, 0x80, 1, 0, 1, 0x00, 0x10, 0x00, 1, 0, 1, 2, 10, 0, 0x91, 0⟩),
    (elWord 0 0x27 0x81 0x80 1 0 1 0x00 0x10 0x00 1 0 1 2 10 0 0x91 0, .elFcmpLt ⟨false, 0x81, 0x80, 1, 0, 1, 0x00, 0x10, 0x00, 1, 0, 1, 2, 10, 0, 0x91, 0⟩),
    (elWord 0 0x28 0x81 0x80 1 0 1 0x00 0x10 0x00 1 0 1 2 10 0 0x91 0, .elFcmpLe ⟨false, 0x81, 0x80, 1, 0, 1, 0x00, 0x10, 0x00, 1, 0, 1, 2, 10, 0, 0x91, 0⟩),
    (elWord 0 0x29 0x81 0x80 1 0 1 0x00 0x10 0x00 1 0 1 2 10 0 0x91 0, .elFcmpUn ⟨false, 0x81, 0x80, 1, 0, 1, 0x00, 0x10, 0x00, 1, 0, 1, 2, 10, 0, 0x91, 0⟩),
    (elWord 1 0x30 0x81 0x80 16 0 16 0x04 0x18 0x00 1 0 1 2 10 0 0x91 0, .elVredAdd ⟨true, 0x81, 0x80, 16, 0, 16, 0x04, 0x18, 0x00, 1, 0, 1, 2, 10, 0, 0x91, 0⟩),
    (elWord 1 0x31 0x81 0x80 16 0 16 0x04 0x18 0x00 1 0 1 2 10 0 0x91 0, .elVredMin ⟨true, 0x81, 0x80, 16, 0, 16, 0x04, 0x18, 0x00, 1, 0, 1, 2, 10, 0, 0x91, 0⟩),
    (elWord 1 0x32 0x81 0x80 16 0 16 0x04 0x18 0x00 1 0 1 2 10 0 0x91 0, .elVredMax ⟨true, 0x81, 0x80, 16, 0, 16, 0x04, 0x18, 0x00, 1, 0, 1, 2, 10, 0, 0x91, 0⟩),
    (elWord 1 0x33 0x81 0x80 16 0 16 0x04 0x18 0x00 1 0 1 2 10 0 0x91 0, .elVredFadd ⟨true, 0x81, 0x80, 16, 0, 16, 0x04, 0x18, 0x00, 1, 0, 1, 2, 10, 0, 0x91, 0⟩),
    (elWord 1 0x34 0x81 0x80 16 0 16 0x04 0x18 0x00 1 0 1 2 10 0 0x91 0, .elVredFmin ⟨true, 0x81, 0x80, 16, 0, 16, 0x04, 0x18, 0x00, 1, 0, 1, 2, 10, 0, 0x91, 0⟩),
    (elWord 1 0x35 0x81 0x80 16 0 16 0x04 0x18 0x00 1 0 1 2 10 0 0x91 0, .elVredFmax ⟨true, 0x81, 0x80, 16, 0, 16, 0x04, 0x18, 0x00, 1, 0, 1, 2, 10, 0, 0x91, 0⟩),
    (elWord 1 0x36 0x81 0x80 16 0 16 0x04 0x18 0x00 1 0 1 2 10 0 0x91 0, .elVextr ⟨true, 0x81, 0x80, 16, 0, 16, 0x04, 0x18, 0x00, 1, 0, 1, 2, 10, 0, 0x91, 0⟩),
    (elWord 1 0x37 0x81 0x80 16 0 16 0x04 0x18 0x19 32 0 1 2 10 0 0x91 0, .elVins ⟨true, 0x81, 0x80, 16, 0, 16, 0x04, 0x18, 0x19, 32, 0, 1, 2, 10, 0, 0x91, 0⟩),
    (elWord 0 0x38 0x81 0x80 1 0 1 0x00 0x10 0x00 1 0 1 2 10 0 0x00 0, .elSettag ⟨false, 0x81, 0x80, 1, 0, 1, 0x00, 0x10, 0x00, 1, 0, 1, 2, 10, 0, 0x00, 0⟩),
    (elWord 0 0x39 0x81 0x80 1 0 1 0x00 0x00 0x00 1 0 1 2 10 0 0x91 9, .elEndtest ⟨false, 0x81, 0x80, 1, 0, 1, 0x00, 0x00, 0x00, 1, 0, 1, 2, 10, 0, 0x91, 9⟩),
    (elWord 1 0x3A 0x81 0x80 16 0 16 0x04 0x18 0x00 32 0 1 2 10 0 0x91 0, .elCsacc ⟨true, 0x81, 0x80, 16, 0, 16, 0x04, 0x18, 0x00, 32, 0, 1, 2, 10, 0, 0x91, 0⟩),
    (elWord 1 0x3B 0x81 0x80 16 0 16 0x04 0x18 0x00 32 0 1 2 10 0 0x91 0, .elCsadd ⟨true, 0x81, 0x80, 16, 0, 16, 0x04, 0x18, 0x00, 32, 0, 1, 2, 10, 0, 0x91, 0⟩)] = true := by decide +kernel

/-- Every term is refused. -/
def refused (l : List Instr) : Bool := l.all (fun i => !i.wf)

/-- An ill-formed term for each check of the control-flow words (R62 to R68, R129, R131). -/
theorem test_wf_words : refused [
    .fuse 1 0,
    .recv 0,
    .peek 0,
    .amoCas128 .clu 0 5 6,
    .amoCas128 .clu 5 5 0,
    .bar .thr 0 1,
    .barArr .thr 0 1,
    .barWait .thr 0 1,
    .vadd ⟨.f32, false, .rne, 0, .v 0, .v 0, .op (.v 0), none⟩,
    .vadd ⟨.i32, false, .rup, 0, .v 0, .v 0, .op (.v 0), none⟩,
    .vand ⟨.i32, true, .rne, 0, .v 0, .v 0, .op (.v 0), none⟩,
    .vmadd ⟨.i32, false, .rne, 0, .v 0, .v 0, .op (.v 0), none⟩,
    .vabs ⟨.i32, false, .rne, 0, .v 0, .v 0, .imm 1, none⟩,
    .vfadd ⟨.i32, false, .rne, 0, .v 0, .v 0, .op (.v 0), none⟩,
    .vsel ⟨.i32, false, .rne, 0, .v 0, .v 0, .imm 1, none⟩,
    .vscan .xor ⟨.i32, false, .rne, 0, .v 0, .v 0, .op (.v 0), none⟩,
    .vred .and ⟨.f32, false, .rne, 0, .v 0, .v 0, .op (.v 0), none⟩,
    .vextr ⟨.i32, false, .rne, 0, .v 0, .v 0, .op (.v 0), none⟩,
    .vcmp .eq 0 .i32 0 (.v 0) (.op (.v 0)),
    .vcmp .un 1 .i32 0 (.v 0) (.op (.v 0)),
    .vcmp .eq 1 .i32 0 (.v 0) .none,
    .kand 0 1 1,
    .knot 0 1,
    .vcvt ⟨.i8, .i32, .rne, 0, false, 0, .v 0, .v 0, .lit 4⟩,
    .vpack ⟨.i32, .i8, .rne, 0, false, 0, .v 0, .v 0, .v 0⟩,
    .vunpack ⟨.i32, .i16, .rne, 0, false, 0, .v 0, .v 0, .lit 2⟩,
    .vqnt ⟨.qa8, .f32, .rne, 0, false, 0, .v 0, .v 0, .v 0⟩,
    .vdq ⟨.f32, .i8, .rne, 0, false, 0, .v 0, .v 0, .x 0⟩,
    .vld ⟨.f32, 0, 0, 0, .x 0, .x 1⟩,
    .vst ⟨.i64, 0, 0, 0, .x 0, .v 0⟩,
    .vlds ⟨.f32, 0, 0, 0, .v 0, .v 0⟩,
    .vstx ⟨.i8, 0, 0, 0, .v 0, .v 0⟩,
    .vldb 0 ⟨.sb48, 0, 1, 0, .x 0, .v 0⟩,
    .vldb 0 ⟨.f32, 0, 2, 0, .x 0, .v 0⟩,
    .pf .pkg 0 0,
    .cpy ⟨1, 2, 3, 4⟩,
    .refLd .f16 1 1 1,
    .refMov false 16 1,
    .collAllreduce .u8 ⟨1, 2, 3, 0⟩,
    .collAllgather .e4m3 ⟨1, 2, 3, 0⟩,
    .csrWrite ⟨.rw, 0, 1, 0x5C0⟩,
    .csrWrite ⟨.rs, 1, 0, 0x800⟩,
    .rv64BaseInstruction (.csrRead ⟨.rw, 1, 2, 0x800⟩),
    .rv64BaseInstruction (.csrRead ⟨.rs, 1, 0, 0x8FF⟩),
    .plainStore ⟨1, true, 1, 2, 0⟩,
    .scalarLoad ⟨3, true, false, 1, 2, 0⟩,
    .scalarLoad ⟨1, false, true, 1, 2, 0⟩,
    .rv64BaseInstruction (.imm .slli 1 1 64),
    .rv64BaseInstruction (.imm .sraiw 1 1 32),
    .rv64BaseInstruction (.alu .zexth 1 1 1),
    .rv64BaseInstruction (.fop .fadd .d 5 1 1 1),
    .rv64BaseInstruction (.fop .fsqrt .s 0 1 1 1)] = true := by decide +kernel

/-- An ill-formed term for each check of the triggered words (R73 to R78, R209). -/
theorem test_wf_elements : refused [
    .elRepl ⟨false, 0, 0, 1, 0, 0, 0, 0, 0, 1, 0, 0, 0, 0, 0, 0, 0⟩,
    .elAdd ⟨false, 0, 0, 0, 0, 0, 0, 16, 0, 1, 0, 0, 0, 0, 0, 0, 0⟩,
    .elMov ⟨false, 0, 0, 1, 0, 0, 0, 16, 0, 1, 0, 0, 0, 0, 0, 0, 0⟩,
    .elAdd ⟨false, 0, 0, 1, 0, 2, 0, 16, 0, 1, 0, 0, 0, 0, 0, 0, 0⟩,
    .elAdd ⟨false, 0, 0, 1, 0, 0, 0, 16, 0, 16, 0, 0, 0, 0, 0, 0, 0⟩,
    .elAdd ⟨false, 0, 0, 1, 0, 0, 0, 16, 0, 1, 9, 0, 0, 0, 0, 0, 0⟩,
    .elAnd ⟨false, 0, 0, 1, 0, 0, 0, 16, 0, 1, 0, 0, 0, 0, 1, 0, 0⟩,
    .elAdd ⟨false, 0, 0, 1, 12, 0, 0, 16, 0, 1, 0, 0, 0, 0, 0, 0, 0⟩,
    .elSettag ⟨false, 0, 0, 1, 0, 0, 0, 16, 0, 1, 0, 0, 0, 0, 0, 1, 0⟩,
    .elAdd ⟨false, 0, 0, 1, 0, 0, 0, 16, 0, 1, 0, 0, 0, 1, 0, 0, 0⟩,
    .elAdd ⟨false, 0, 0, 1, 0, 0, 0, 16, 0, 1, 0, 0, 0, 0, 0, 0, 1⟩,
    .elSteer ⟨false, 0, 0, 1, 0, 0, 0, 16, 0, 1, 0, 0, 0, 0, 0, 0, 1⟩,
    .elSteer ⟨true, 0, 0, 1, 0, 0, 0, 16, 0, 1, 0, 0, 0, 0, 0, 0, 2⟩,
    .elNop ⟨false, 0, 0, 0, 1, 0, 0, 0, 0, 0, 0, 0, 0, 0, 0, 0, 0⟩,
    .elEndtest ⟨false, 0, 0, 1, 0, 0, 0, 0, 0, 1, 0, 0, 0, 0, 0, 0, 0⟩] = true := by decide +kernel

/-- Undefined words (R69): a length that R58 does not implement, an unassigned opcode, a reserved scope, a register number
outside its file, a nonzero field that must be zero. -/
theorem test_undefined :
    [(32, 0x00000000), (32, 0x0000007F), (32, 0x0000007B), (32, iWord 6 0 0b011 0 0b0001011), (32, rWord 0b0001000 1 0 0b001 7 0b0001011),
     (64, xWord 0 0 0 0 0 0 32 0 5 0x63), (64, xWord 0 0 0 0 0 0 4 0 5 0x94)].all
      (fun p => decodeTableWord p.1 p.2 == none) = true := by decide +kernel

end Sys2Proof.Tests
end

