-- ==== Sys2Proof/Tests/WitnessControl.lean ====
section
/-! SUPPORT. Witnesses: for each statement about control flow, interruption and CSRs, a state and operands that meet the
hypotheses of each of its clauses together. -/

namespace Sys2Proof.Tests

-- One theorem at a time: each is a kernel computation, and many at once hold a thread each.
set_option Elab.async false

open Sys2Proof.Machine

/-- The pointer that `tagp` built is in a register other than x0. -/
theorem witness_TagxExtractsTag : [(5 : BitVec 5) != 0 && goes (exec (.tagp 5 6 0x1F) (thr (xs [(6, 0x1000)])))].all id = true := by decide +kernel

/-- A message; an empty inbox before a wait, in a wait, at its limit, and with no limit. -/
theorem witness_WfmWaitsForMessage : [
    (thr (fun t => { t with inbox := [note] })).me.mail == [note],
    (let s := thr (fun t => { t with u := { t.u with waitlim := 8 } });
      s.me.mail == [] && s.me.wait == none && s.me.u.waitlim != 0 && s.me.st == .ready),
    (let s := thr (fun t => { t with wait := some ⟨.inbox, some 1, 0, {}, none, none⟩ });
      s.me.mail == [] && s.cycle < 1),
    (mach.me.mail == [] && mach.me.wait == none && mach.me.u.waitlim == 0 && mach.rgnOps == [] && mach.invs == [] && mach.feq == []
      && mach.slots.all (fun p => p.2.st != .member)),
    (let s := thr (fun t => { t with wait := some ⟨.inbox, some 0, 0, {}, none, none⟩ });
      s.me.mail == [] && s.me.wait == some ⟨.inbox, some 0, 0, {}, none, none⟩ && s.rgnOps == [] && s.invs == [] && s.feq == [] && s.slots.all (fun p => p.2.st != .member))].all id = true := by decide +kernel

/-- Both an empty inbox and one with a message; `recv` with nothing outstanding, with a message, before a wait, with no limit and
at the end of its wait. -/
theorem witness_InboxWordsReadTheOldestMessage : [
    mach.me.mail == [],
    (thr (fun t => { t with inbox := [{ note with kind := 1 }, note] })).me.mail == [note],
    okAnd (thr (fun t => { t with inbox := [note] })).syncGate (fun d => d.me.mail == [note]),
    okAnd (thr (fun t => { t with u := { t.u with waitlim := 8 } })).syncGate (fun d =>
      d.me.mail == [] && d.me.wait == none && d.me.u.waitlim != 0),
    [none, some ⟨.inbox, some 0, 0, {}, none, none⟩].all (fun w =>
      okAnd (thr (fun t => { t with wait := w })).syncGate (fun d => d.me.mail == [] && d.me.wait == w && d.me.u.waitlim == 0
        && d.rgnOps == [] && d.invs == [] && d.feq == [] && d.slots.all (fun p => p.2.st != .member)))].all id = true := by decide +kernel

/-- Outside a gang; a member; a leader; a core that 2^3 does not divide; member slots that are FREE. -/
theorem witness_GangWords : [
    mach.me.st != .member,
    (thr (fun t => { t with st := .member })).me.st == .member,
    (thr (fun t => { t with gang := some ⟨0, 0, 2⟩ })).me.gang != none,
    coreOf ({ mach with cur := 4 } : State).cur % 2 ^ (3 : BitVec 5).toNat != 0,
    mach.me.gang == none && coreOf mach.cur % 2 ^ (3 : BitVec 5).toNat == 0
      && (List.range 8).all (fun i => i == 0 || (mach.slot (mach.cur + 4 * i)).st == .free)].all id = true := by decide +kernel

/-- A pad at `emuvec` in user mode; a nested entry; another mode; `uiret` from each of its three places. -/
theorem witness_EmulationAndReturn : [
    (let s := lpadAt (thr (fun t => { t with priv := .u, u := { t.u with emuvec := code 5 0x40 } })) 0x40 5;
      s.me.priv == .u && !s.me.u.emustat && isOk (s.checkPad s.me.u.emuvec 5)),
    (let s := thr (fun t => { t with priv := .u, u := { t.u with emustat := true } });
      s.me.priv == .u && s.me.u.emustat),
    mach.me.priv != .u,
    (let s := thr (fun t => { t with u := { t.u with emustat := true, emupc := 0x44 } });
      s.me.u.emustat && s.me.u.emupc != exitAddr),
    (let s := thr (fun t => { t with u := { t.u with uiActive := true, uepc := 0x44 } });
      !s.me.u.emustat && s.me.u.uiActive && s.me.u.uepc != exitAddr),
    !mach.me.u.emustat && !mach.me.u.uiActive].all id = true := by decide +kernel

/-- Aligned and misaligned targets of `jal` and of a branch, taken and not; `jalr` to a pad, to the exit address, through a
reference, and to a word that is no pad. -/
theorem witness_JumpsAndBranches : [
    (let off : BitVec 20 := 4;
      (mach.me.pc + jalOffset off).toNat % 4 == 0 && mach.me.pc + jalOffset off != exitAddr),
    (mach.me.pc + jalOffset 1).toNat % 4 != 0,
    brTaken .beq (mach.x 1) (mach.x 2) && (mach.me.pc + brOffset 4).toNat % 4 == 0 && mach.me.pc + brOffset 4 != exitAddr,
    brTaken .bge (mach.x 1) (mach.x 2) && (mach.me.pc + brOffset 1).toNat % 4 != 0,
    !brTaken .bne (mach.x 1) (mach.x 2),
    (let s := lpadAt (thr (xs [(5, code 1 0x40)])) 0x40 1;
      let p := (s.x 5 + (0 : BitVec 12).signExtend 64) &&& ~~~(1 : Word);
      isOk (s.checkPad p (ptrK p)) && ptrAddr p != exitAddr),
    (let s := thr (xs [(1, exitAddr)]);
      (s.x 1 + (0 : BitVec 12).signExtend 64) &&& ~~~(1 : Word) == exitAddr && isOk (s.release .pkg)),
    (let s := thr (xs [(5, 0x8000000000000000)]);
      ((s.x 5 + (0 : BitVec 12).signExtend 64) &&& ~~~(1 : Word)).getLsbD 63),
    (let s := thr (xs [(5, 0x40)]);
      let p := (s.x 5 + (0 : BitVec 12).signExtend 64) &&& ~~~(1 : Word);
      !p.getLsbD 63 && p.toNat / 2 ^ 56 % 8 == 0 && p.toNat % 4 == 0 && ptrAddr p != exitAddr
        && okAnd (s.fetch s.cur (ptrAddr p)).2 (fun w => w != lpadWord (ptrK p)))].all id = true := by decide +kernel

/-- A rounding mode of the word, one of `fcsr`, and a reserved one. -/
theorem witness_FloatInstructions : [
    mach.me.rounding 1 == some .rtz, mach.me.rounding 7 == some .rne, mach.me.rounding 5 == none].all id = true := by decide +kernel

/-- A trap into each mode; returns in each mode that may, and in one that may not; WFI with and without TW. -/
theorem witness_TrapsReturnsAndSystemWords : [
    mach.me.st != .free && mach.me.st != .pool && mach.me.st != .out && mach.me.st != .member && mach.me.gang == none && mach.me.wait == none
      && mach.me.priv == .m,
    (let t := (thr (fun t => { t with priv := .u, rv := { t.rv with medeleg := 4 } })).me;
      t.st == .ready && t.gang == none && t.wait == none && t.priv != .m && t.rv.medeleg.getLsbD 2),
    mach.me.priv == .m && mach.me.rv.sepc != exitAddr && mach.me.held == [] && mach.me.refHeld == [] && mach.me.calls == [],
    (let t := (thr (fun t => { t with priv := .s })).me;
      t.priv == .s && !t.rv.mstatus.getLsbD 22 && t.rv.sepc != exitAddr && t.held == [] && t.refHeld == [] && t.calls == []),
    mach.me.rv.mepc != exitAddr,
    (let t := (thr (fun t => { t with priv := .s, rv := { t.rv with mstatus := 0x400000 } })).me;
      t.priv == .s && t.rv.mstatus.getLsbD 22),
    (let t := (thr (fun t => { t with priv := .u, rv := { t.rv with mstatus := 0x200000 } })).me;
      t.priv != .m && t.rv.mstatus.getLsbD 21),
    (let t := (thr (fun t => { t with priv := .u })).me;
      t.priv != .m && !t.rv.mstatus.getLsbD 21)].all id = true := by decide +kernel

/-- Writes of a CSR of each row, a read, and each fault of the table. -/
theorem witness_CsrInstructions : [
    [(⟨.rw, 1, 2, 0x800⟩ : CsrOp), ⟨.rs, 1, 2, 0x5CB⟩, ⟨.rc, 1, 2, 0x5C8⟩, ⟨.rwi, 1, 0, 0x5CC⟩, ⟨.rsi, 1, 1, 0x810⟩,
      ⟨.rw, 0, 2, 0x5D8⟩, ⟨.rw, 0, 2, 0xB02⟩, ⟨.rw, 0, 2, 0x001⟩, ⟨.rw, 1, 2, 0x5C0⟩].all (fun c =>
        (mach.csrFault c).isNone && c.writes && (mach.csr mach.cur c.csr.toNat).isSome),
    [0x808, 0x300, 0x100, 0x104, 0x144, 0x344].all (fun a =>
      let c : CsrOp := ⟨.rs, 1, 2, a⟩;
      (mach.csrFault c).isNone && c.writes && (mach.csr mach.cur a.toNat).isSome),
    !mach.tileQueued mach.cur,
    (let c : CsrOp := ⟨.rs, 1, 0, 0xCC0⟩;
      (mach.csrFault c).isNone && !c.writes && (mach.csr mach.cur c.csr.toNat).isSome),
    (let s := thr (fun t => { t with priv := .u });
      let c : CsrOp := ⟨.rs, 1, 0, 0x5C0⟩;
      let d : CsrOp := ⟨.rw, 1, 0, 0xCC0⟩;
      skRange c.csr.toNat && s.me.priv == .u && skSupervisor c.csr.toNat && skRange d.csr.toNat && d.writes
        && skReadOnly d.csr.toNat),
    (let d : CsrOp := ⟨.rw, 1, 0, 0xCC0⟩;
      skRange d.csr.toNat && mach.me.priv != .u && d.writes && skReadOnly d.csr.toNat)].all id = true := by decide +kernel

end Sys2Proof.Tests
end

