-- ==== Sys2Proof/Tests/WitnessData.lean ====
section
/-! SUPPORT. Witnesses: for each statement about memory and vectors, a state and operands that meet the hypotheses of each of
its clauses together. -/

namespace Sys2Proof.Tests

-- One theorem at a time: each is a kernel computation, and many at once hold a thread each.
set_option Elab.async false

open Sys2Proof.Machine

/-- Thread 0 with an address in x5 and a value in x6. -/
def at5 (a v : Word) : State := thr (xs [(5, a), (6, v)])

/-- A thread that holds a store at an address. -/
def holding (a : Word) : State := thr (fun t => { xs [(5, a)] t with held := [⟨a, 4, 0, 13, 0, false⟩] })

/-- A scratchpad address of another package, and a thread that has the answer to its access there. -/
def farAt : Word := BitVec.ofNat 64 (spad (2 ^ 30))

def answered : State := thr (fun t => { xs [(5, farAt), (6, 9)] t with
  resv := some ((Place.far farAt).block 0), far := [(farAt, 0, some ⟨0, true, false, 0, 0⟩)] })

/-- Stores of a thread that count against its eight (R260). -/
def stores (s : State) : Nat := s.me.held.length + s.me.posted.length

/-- Nothing outstanding; a release; a held store; nothing posted. -/
theorem witness_ReleasesWaitForStores : [
    mach.me.posted == [] && mach.me.held == [] && mach.me.refHeld == [] && mach.cores.all (fun c => c.2.subs.isEmpty)
      && mach.farTo == [],
    isOk (mach.release .pkg), isOk (mach.release .sys),
    (let s := holding 0x100;
      s.me.posted == [] && s.me.held.length == 1 && s.me.gang == none && s.me.wait == none)].all id = true := by decide +kernel

/-- A load that reaches its page, at its last word; bits 63 and 56; a page with no right; a held store over the bytes; loads of
each kind, aligned and not. -/
theorem witness_ScalarLoads : [
    (let s := at5 0xFF8 0;
      let d := s.drainOver s.cur 0xFF8 8;
      ptrCheck .load 0xFF8 == none && !d.me.heldOver 0xFF8 8
        && reaches (d.reach s.cur .load 0xFF8 8) (fun _ p _ => isNear p)),
    (0x8000000000000000 : Word).getLsbD 63,
    !(0x0100000000000000 : Word).getLsbD 63 && (0x0100000000000000 : Word).toNat / 2 ^ 56 != 0,
    (let s := page (at5 0x100 0) (fun e => { e with rights := 0 });
      let d := s.drainOver s.cur 0x100 8;
      ptrCheck .load 0x100 == none && !d.me.heldOver 0x100 8 && !isOk (d.reach s.cur .load 0x100 8).2),
    (let s := holding 0x100;
      ptrCheck .load 0x100 == none && (s.drainOver s.cur 0x100 8).me.heldOver 0x100 8),
    (let ld : LoadOp := ⟨3, false, false, 7, 5, 0⟩;
      let s := at5 0x100 0;
      let a := s.x ld.rs1 + ld.off.signExtend 64;
      a.toNat % 2 ^ ld.w.toNat == 0 && isOk (s.load a (2 ^ ld.w.toNat)) && !ld.fp),
    (let ld : LoadOp := ⟨2, false, true, 7, 5, 0xFFC⟩;
      let s := at5 0x100 0;
      let a := s.x ld.rs1 + ld.off.signExtend 64;
      a.toNat % 2 ^ ld.w.toNat == 0 && isOk (s.load a (2 ^ ld.w.toNat)) && ld.fp),
    (let ld : LoadOp := ⟨1, true, false, 7, 5, 0⟩;
      (let s := at5 0x101 0; (s.x ld.rs1 + ld.off.signExtend 64).toNat % 2 ^ ld.w.toNat != 0)),
    [true, false].all (fun w =>
      let s := at5 0x100 0;
      let n := if w then 8 else 4;
      (s.x 5).toNat % n == 0 && okAnd (s.protect .load (s.x 5) n) (fun s1 => !s1.me.heldOver (s.x 5).toNat n
        && okAnd (if w then s1.awaitReleases else .ok s1) (fun s2 => isOk (s2.load (s.x 5) n)))),
    (let s := at5 0x100 0; (s.x 5).toNat % 64 == 0 && isOk (s.loads (s.x 5) 4 64)),
    (let s := at5 0x104 0; (s.x 5).toNat % 64 != 0)].all id = true := by decide +kernel

/-- A plain store that writes at once, one that is posted, one behind a held store, a misaligned one; `st.rel` of each width. -/
theorem witness_ScalarStores : [
    (let st : StoreOp := ⟨3, false, 5, 6, 0⟩;
      let s := at5 0x100 9;
      let a := s.x st.rs1 + st.off.signExtend 64;
      s.mem.wf && a.toNat % 8 == 0 && ptrCheck .store a == none && !s.me.heldOver a.toNat 8 && s.atHand s.cur a
        && !s.me.posted.any (fun q => overlaps a.toNat 8 q.addr.toNat q.width) && !s.isFar a
        && reaches (s.reach s.cur .store a 8) (fun _ p e => isNear p && single e)),
    (let s := at5 0x5000 9;
      ptrCheck .store 0x5000 == none && !s.me.heldOver 0x5000 8 && !s.atHand s.cur 0x5000
        && stores s < 8),
    (let s := holding 0x100;
      ptrCheck .store 0x100 == none && s.me.heldOver 0x100 8 && stores s < 8),
    (at5 0x101 0).x 5 == 0x101 && (at5 0x101 0).me.far == [],
    [(true, Scope.sys), (false, Scope.thr)].all (fun q =>
      let s := at5 0x100 9;
      let n := if q.1 then 8 else 4;
      s.me.far.all (fun f => f.1 != s.x 5) && (s.x 5).toNat % n == 0 && okAnd (s.protect .store (s.x 5) n) (fun s1 => okAnd (s1.release q.2) (fun s2 =>
        let d := s2.drainOver s.cur (s.x 5).toNat n;
        ptrCheck .store (s.x 5) == none && d.mem.wf && !d.me.heldOver (s.x 5).toNat n && !s2.isFar (s.x 5)
          && reaches (d.reach s.cur .store (s.x 5) n) (fun _ p e => isNear p && single e))))].all id = true := by decide +kernel

/-- The atomic's own hypotheses, with and without a write; each scoped AMO, at scopes that release and not, and with the answer
of another package; a misaligned one. -/
theorem witness_ScopedAtomics : [
    (let s := at5 0x100 9;
      let d := s.drainOver s.cur 0x100 8;
      d.mem.wf && ptrCheck .amo 0x100 == none && !d.me.heldOver 0x100 8
        && reaches (d.reach s.cur .amo 0x100 8) (fun u p e => isNear p && single e
          && amoNew .cas 64 1 5 (bytesNat (u.mem.bytes (u.key p) 8)) == none
          && (amoNew .swap 64 1 5 (bytesNat (u.mem.bytes (u.key p) 8))).isSome)),
    [(8, Scope.thr, FarOp.int .add true 9 0), (4, .sys, .int .add false 9 0), (4, .thr, .faddF32 9),
        (4, .pkg, .fadd2Bf16 9)].all (fun q =>
      let s := at5 0x100 9;
      s.me.far.all (fun f => f.1 != s.x 5) && (s.x 5).toNat % q.1 == 0 && okAnd (s.protect .amo (s.x 5) q.1) (fun s1 =>
        okAnd (if q.2.1 = .thr then .ok s1 else s1.release q.2.1) (fun s2 =>
          isOk (s2.atomic (s.x 5) q.1 q.2.2 q.2.2.new)))),
    [(8, FarOp.int .add true 9 0), (4, .int .add false 9 0), (4, .faddF32 9), (4, .fadd2Bf16 9)].all (fun q =>
      answered.me.far.any (fun f => f.1 == answered.x 5) && isOk (answered.atomic (answered.x 5) q.1 q.2 q.2.new)),
    (let s := at5 0x100 9;
      s.me.far == [] && (s.x 5).toNat % 16 == 0 && okAnd (s.protect .amo (s.x 5) 16) (fun s1 => okAnd (s1.release .pkg) (fun s2 =>
        isOk (s2.atomic (s.x 5) 16 (.cas128 (s.pair 4) (s.pair 6))
          (fun old => if old = (s.pair 4).toNat then some (s.pair 6).toNat else none))))),
    (at5 0x102 0).me.far == [] && ((at5 0x102 0).x 5).toNat % 4 != 0].all id = true := by decide +kernel

/-- The gate with the protection reply, with and without a release, and with an answer; LR here and on another package; SC with
the reservation and without, and on another package; an AMO of the base; misaligned ones. -/
theorem witness_LoadReservedStoreConditional : [
    (let s := at5 0x100 9;
      s.me.far == [] && okAnd (s.notHeld 0x100 4) (fun s0 => okAnd (s0.protect .load 0x100 4) (fun s1 =>
        isOk (s1.release .pkg) && isOk s1.awaitReleases))),
    answered.me.far.any (fun f => f.1 == farAt),
    [(4, true), (8, false)].all (fun q =>
      let s := at5 0x100 9;
      okAnd (s.rvGate .load 0x100 q.1 true q.2) (fun s2 => okAnd (s2.beforeAccess .load 0x100 q.1) (fun r => isNear r.2.1))),
    okAnd (answered.rvGate .load farAt 8 true false) (fun s2 => okAnd (s2.beforeAccess .load farAt 8) (fun r =>
      r.2.1 == .far farAt && isOk (r.1.ask .load farAt 0 (fun id => .farAmo id farAt (.lr true))))),
    [none, some 0x100, some 4].all (fun r =>
      let s := thr (fun t => { xs [(5, 0x100), (6, 9)] t with resv := r });
      okAnd (s.rvGate .store 0x100 8 false true) (fun s2 => okAnd (s2.beforeAccess .store 0x100 8) (fun q =>
        q.1.mem.wf && isNear q.2.1 && single q.2.2
          && ((q.1.me.resv == some ((homePlace 0x100 q.2.1 q.2.2).block 0)) == (r == some 4))))),
    okAnd (answered.rvGate .store farAt 8 false false) (fun s2 => okAnd (s2.beforeAccess .store farAt 8) (fun q =>
      q.2.1 == .far farAt && q.1.me.resv == some ((homePlace farAt q.2.1 q.2.2).block 0)
        && isOk (q.1.ask .store farAt 0 (fun id => .farAmo id farAt (.sc true 9))))),
    (let s := at5 0x100 9;
      okAnd (s.rvGate .amo 0x100 8 true true) (fun s2 =>
        isOk (s2.atomic 0x100 8 (.int (rvAmoOf .add) true 9 0) (amoNew (rvAmoOf .add) 64 9 0)))),
    (at5 0x102 0).me.far == [] && ((at5 0x102 0).x 5).toNat % 4 != 0].all id = true := by decide +kernel

/-- Element types at both ends of each class. -/
theorem witness_VectorLanes : [ElTy.i8, .u32, .f32, .bf16, .e4m3, .sb48, .cs80].all (fun t => t != .i64) = true := by decide +kernel

/-- A word of `vsel` that is well-formed, unmasked. -/
theorem witness_VselSelectsLanes : [
    (let a : VA := ⟨.bf16, false, .rne, 0, .v 1, .v 2, .op (.v 3), none⟩;
      a.ty != .i64 && a.mask == 0 && (Instr.vsel a).wf)].all id = true := by decide +kernel

/-- Conversions of equal width, widening, narrowing, to and from SB48, and to FP32. -/
theorem witness_VectorConversions : [
    ElTy.i32.width == ElTy.f32.width, ElTy.i8.width < ElTy.f32.width, ElTy.bf16.width < ElTy.i32.width,
    ElTy.sb48 != .i64, ElTy.f32 != .sb48, ElTy.f32 != .i64].all id = true := by decide +kernel

/-- Every kind of destination. -/
theorem witness_VectorPermutes : [
    (match (Dst.v 47) with | .x _ => false | _ => true), (match (Dst.o 7) with | .x _ => false | _ => true),
    Dst.x 31 == .x 31, ElTy.u8 != .i64].all id = true := by decide +kernel

/-- Loads and stores of each addressing mode; a block load; an all-inactive mask; a misaligned element. -/
theorem witness_VectorMemoryInstructions : [
    (let s := at5 0x100 4;
      let a : VM := ⟨.i32, 0, 5, 0, .x 6, .v 1⟩;
      [s.me.eaUnit a, s.me.eaStride a, s.me.eaIndex { a with idx := .v 0 }].all (fun ea =>
        okAnd (s.checkLoads (s.me.active a ea)) (fun s1 => isOk (s1.readElems (s.me.active a ea))))),
    (let s := at5 0x100 4;
      let a : VM := ⟨.i32, 0, 5, 0, .x 6, .v 1⟩;
      let s0 := s.drain s.cur;
      let es := s.me.active a (s.me.eaUnit a);
      s0.me.held == [] && es.all (fun e => s0.atHand s.cur e.va)
        && okAnd (es.foldlM (fun (v : State) e => v.checkElem .store e) s0) (fun s1 =>
          isOk (es.foldlM (fun (v : State) e => v.storePlain e.va e.n
            (BitVec.ofNat 64 (elemOf a.ty.width (s.me.src a.ty false a.data) e.elem)) e.elem) s1))),
    (let s := at5 0x100 4;
      let a : VM := ⟨.sb48, 0, 5, 0, .x 0, .v 1⟩;
      let es := s.me.blockAccs 1 a;
      es.head?.all (fun e => e.n != 4 || (s.x a.base + a.off.signExtend 64).toNat % 8 == 0)
        && okAnd (s.checkLoads es) (fun s1 => isOk (s1.readElems es))),
    (let s := mach;
      (List.range 32).all (fun j => !elemOn (s.me.mask 1) 32 j)),
    (0x102 : Nat) % 4 != 0].all id = true := by decide +kernel

/-- A full-empty page at hand; a word of it that is FULL and one that is EMPTY, with no other token and a wait limit. -/
theorem witness_FullEmptyInstructions : [
    (let s := page (at5 0x100 9) (fun e => { e with fe := true });
      aperture s.pkg.toNat (some (coreOf s.cur)) 0x100 == none && s.me.posted == [] && !s.me.heldOver 0x100 8
        && ((s.core (coreOf s.cur)).plb.find? (·.covers (s.cur % 4) 0x100)).any (fun e =>
          granted e.rights (AK.rights .load) && granted e.rights (AK.rights .store) && !e.managed && !e.repl && e.fe)),
    [true, false].all (fun full =>
      let s0 := page (thr (fun t => { xs [(5, 0x100)] t with u := { t.u with waitlim := 9 } })) (fun e => { e with fe := true });
      let s : State := { s0 with mem := s0.mem.setFull 0x100 full };
      let word (d : State) (k : AK) := okAnd (d.feWord k (feAddr s 5 0)) (fun q =>
        q.1.feq == [] && q.1.cur == s.cur && q.1.mem.wf && q.1.mem.isFull q.2 == full && q.1.me.wait == none);
      0 < s.waitlim && s.feq == [] && word s .load && word s .store
        && okAnd (s.release .die) (fun d => word d .store))].all id = true := by decide +kernel

end Sys2Proof.Tests
end

