-- ==== Sys2Proof/Tests/WitnessEngines.lean ====
section
/-! SUPPORT. Witnesses: for each statement about engines and the managed heap, a state and operands that meet the hypotheses of
each of its clauses together. -/

namespace Sys2Proof.Tests

-- One theorem at a time: each is a kernel computation, and many at once hold a thread each.
set_option Elab.async false

open Sys2Proof.Machine

/-- Thread 0 with a block at 0x200 named by x5. -/
def withBlock (n b : Nat) : State := put (mapped (thr (xs [(5, 0x200)])) 0) 0x200 n b

def cpyBlk : Nat := blk [(0, 0x1000), (8, 0x2000), (0x10, 1), (0x14, 1), (0x18, 1), (0x1C, 1)]
def planeBlk : Nat := blk [(0, 0x1000), (8, 0x2000), (0x10, 48), (0x14, 1), (0x18, 1), (0x1C, 1)]
def tileBlk : Nat :=
  blk [(0, spad 0), (8, spad 0x1000), (0x10, 0x3000), (0x18, 0x4000), (0x20, 64), (0x24, 4), (0x28, 1), (0x2C, 1)]
def sortBlk : Nat := blk [(0, 0x1000), (8, 0x2000), (0x10, 0x3000), (0x18, 1)]
def regs5 : F5 := ⟨4, 5, 6, 0⟩

/-- Blocks that pass and fail each check, with the queue empty, and a block out of alignment. -/
theorem witness_EngineWordsQueueTheirCommand : [
    [cpyBlk, planeBlk, 0].all (fun b =>
      let s := withBlock 128 b;
      (s.x regs5.s1).toNat % 64 == 0 && okAnd (s.beginCommand regs5.d false) (fun s1 =>
        okAnd (s1.readBlock (s.x regs5.s1) 16) (fun q => (q.1.core 0).copyQ.length < 2
          && (CopyBlk.of q.2).cpyOk == (b != 0) && (CopyBlk.of q.2).planeOk == (b == planeBlk)))),
    [(tileBlk, MxForm.tile), (tileBlk, .tileAcc), (sortBlk, .sort), (sortBlk, .topk)].all (fun f =>
      let s := withBlock 64 f.1;
      let m := s.me.u;
      okAnd (s.beginCommand regs5.d false) (fun s1 => okAnd (s1.readBlock (s.x regs5.s1) 8) (fun q =>
        q.1.mxCount 0 < 2 && mxBlockOk f.2 q.2 s.pkg.toNat (.core 0) m.mxfmt m.mxscale m.mxzero
          && !mxBlockOk f.2 0 s.pkg.toNat (.core 0) m.mxfmt m.mxscale m.mxzero))),
    (let s := thr (xs [(5, 0x204)]);
      (s.x regs5.s1).toNat % 64 != 0 && isOk s.syncGate),
    (mach.me.posted == [] && mach.me.held == [] && mach.me.refHeld == [] && mach.me.wait == none
      && mach.me.inbox.length + mach.me.ibReserved < 16)].all id = true := by decide +kernel

/-- An empty queue and a full one. -/
theorem witness_CopyStatusWord : [
    decide ((mach.core 0).copyQ.length ≤ 2),
    decide (((mach.modCore 0 (fun c => { c with copyQ := [⟨0, false, 0, 0, 0, 0, 0⟩, ⟨0, false, 0, 0, 0, 0, 0⟩] })).core 0).copyQ.length ≤ 2)].all id = true := by decide +kernel

def kilnBlk : Nat := blk [(8, 1)]

/-- A subscription of thread 0. -/
def sub0 : Sub :=
  { st := .active, owner := 0, ctx := 0, tag := 0, pubCore := 1, pubIdx := 0, src := 0, dst := 0x40, len := 64, snap := none,
    opened := none, sent := [], ended := false, applied := 0 }

def subscribed (n : Nat) : State :=
  ((thr (fun t => { xs [(5, BitVec.ofNat 64 n)] t with u := { t.u with waitlim := 9 } })).setSub 0 n sub0)

/-- A Kiln job with both Kilns idle, with the first busy, and with both busy; one that fails; an entry, and places without one. -/
theorem witness_KilnAndStatusWords : [
    [(kilnBlk, 0), (kilnBlk, 1), (kilnBlk, 2), (0, 0)].all (fun p =>
      let s0 := (withBlock 64 p.1).modDie 0 (fun d => { d with kiln0 := { d.kiln0 with running := decide (0 < p.2) },
                                                               kiln1 := { d.kiln1 with running := decide (1 < p.2) } });
      let s := s0.modSlot 0 (fun t => { t with u := { t.u with waitlim := 9 } });
      (s.x regs5.s1).toNat % 64 == 0 && okAnd (s.beginCommand regs5.d false) (fun s1 =>
        okAnd (s1.readBlock (s.x regs5.s1) 8) (fun q => kilnJobOk q.2 == (p.1 != 0) && q.1.me.wait == none && 0 < q.1.waitlim
          && (q.1.kiln 0 0).running == decide (0 < p.2) && (q.1.kiln 0 1).running == decide (1 < p.2)
          && isOk (q.1.release .pkg)))),
    mach.mxCount 0 ≤ 2,
    32 ≤ ((thr (xs [(5, 32)])).x 5).toNat,
    (let s := subscribed 15; (s.x 5).toNat < 16 && s.subAt 0 15 == some sub0 && sub0.src < 2 ^ 20),
    (mach.subAt 0 15).isNone].all id = true := by decide +kernel

def subBlk : Nat := blk [(0, spad (2 ^ 20)), (8, 0x40), (0x10, 64)]

/-- A request that is accepted and one that is not; drops of an own entry, in a wait, and of no entry; a flush; ring entries. -/
theorem witness_SubscriptionWords : [
    [subBlk, 0].all (fun b =>
      let s := withBlock 32 b;
      (s.x regs5.s1).toNat % 32 == 0 && okAnd s.syncGate (fun s1 =>
        okAnd (s1.reserve { xs := [(regs5.d, subHandle .timeout 0)], len := 8 }) (fun s2 =>
          okAnd (s2.readBlock (s.x regs5.s1) 4) (fun q =>
            match q.1.subReq 0 q.2 with
            | some r => b != 0 && freeOf (q.1.core 0).subs == some 0 && freeOf (q.1.core r.pubCore).pubs == some 0 && q.1.subAllowed r
            | none => b == 0)))),
    [0, 15].all (fun n =>
      let s := subscribed n;
      !s.waiting .drain && (s.x 5).toNat < 16 && s.subAt 0 n == some sub0 && (sub0.owner, sub0.ctx) == s.tid
        && sub0.st != .draining && 0 < s.waitlim && s.me.wait == none),
    (let s := thr (fun t => { t with wait := some ⟨.drain, some 9, 0, {}, none, none⟩ });
      s.waiting .drain && (s.subAt 0 ((s.x 5).toNat % 16)).isNone),
    16 ≤ ((thr (xs [(5, 16)])).x 5).toNat,
    !mach.waiting .drain && (mach.subAt 0 0).isNone,
    okAnd mach.syncGate (fun v => let d := (v.settleFar mach.cur).serveReady mach.cur;
      let f := d.releaseSubs mach.cur .pkg;
      d.me.held == [] && d.me.refHeld == [] && !d.farPending mach.cur && f.farTo.all (fun e => e.agent != tidNo mach.tid)
        && ((f.releaseFar (tidNo mach.tid) true f.waitlim).farReleased (tidNo mach.tid)).isSome),
    [1, 64].all (fun n =>
      let s := mapped (thr (xs [(5, 0x400), (6, BitVec.ofNat 64 (n * 2 ^ 16))])) 0;
      let i := (s.x 6).toNat;
      i < 2 ^ 23 && i / 2 ^ 12 % 16 == 0 && i / 2 ^ 16 % 128 == n && (s.x 5).toNat % 16 == 0
        && granted (s.rightsByte s.me.sc.pdrights (s.core 0).spdom.toNat) 1
        && isOk (s.storeQuads (s.x 5) ((List.range n).map (fun j => (assoc (s.core 0).ring ((i + j) % 4096)).getD 0))))].all id = true := by decide +kernel

/-- A reference of class 2 to the header at an address. -/
def ref2 (a : Nat) : Word := BitVec.ofNat 64 (2 ^ 63 + 2 * 2 ^ 59 + a)

/-- An object of 64 bytes at 0x100, h1 naming it, its second word a given value; managed pages. -/
def object (flags v : Nat) : State :=
  let s := mapped (thr (fun t => (xs [(5, 8)] t).wh 1 (ref2 0x100))) (128 + flags)
  put (put s 0x100 16 (Header.mk 64 9 0 0).nat) 0x118 8 v

/-- The object's pages are being evacuated, and a forwarding table entry names its state and new header. -/
def forwarded (st v : Nat) : State :=
  let s := (object 256 v).modDie 0 (fun d => { d with fwdtab := 0x1000A })
  put (put (put s 0x10200 8 (st * 2 ^ 62 + 0x100)) 0x10208 8 0x180) 0x180 16 (Header.mk 64 9 0 0).nat

/-- Null; misalignment; a page that is not managed; an object beyond and within its bounds; one that moved; loads and stores
of each width; a store in transit; fields with null, a reference, a moved one, and none; a moved and a null value stored. -/
theorem witness_ReferenceAccesses : [
    mach.h 1 == 0,
    (let s := page mach (fun e => { e with rights := 0xFF });
      aperture s.pkg.toNat (some (coreOf s.cur)) 0x100 == none
        && ((s.core (coreOf s.cur)).plb.find? (·.covers (s.cur % 4) 0x100)).any (fun e =>
          [AK.load, AK.store].all (fun k => granted e.rights (k.rights ||| rightRef)))),
    (let s := thr (fun t => (xs [(5, 4)] t).wh 1 (ref2 0x100)); s.h 1 != 0 && (s.x 5).toNat % 8 != 0),
    (let s := thr (fun t => { t.wh 1 (BitVec.ofNat 64 (2 ^ 63 + spad 0x100)) with sc := { t.sc with pdrights := 0xA000 } });
      let s1 := put s 0xA000 1 0xFF;
      s1.h 1 != 0 && okAnd ((s1.drain s1.cur).refPage .load (refAddr (s1.h 1))) (fun q => q.2.isNone)),
    [8, 64].all (fun off =>
      let s := (object 0 7).modSlot 0 (xs [(5, BitVec.ofNat 64 off)]);
      let a := refAddr (s.h 1);
      s.h 1 != 0 && (s.x 5).toNat % 8 == 0 && okAnd ((s.drain s.cur).refPage .load a) (fun q => q.2.any (fun e =>
        q.1.h 1 == s.h 1 && e.managed && q.1.forward e a == .normal
          && ((q.1.header e a).size < (s.x 5).toNat + 8) == (off == 64)
          && (a + 16 + BitVec.ofNat 64 (s.x 5).toNat).toNat / 2 ^ 12 == a.toNat / 2 ^ 12))),
    (let s := forwarded 2 7;
      okAnd (s.refPage .load (refAddr (s.h 1))) (fun q => q.2.any (fun e =>
        s.forward e (refAddr (s.h 1)) == .moved 0x180 && okAnd ((s.setH 1 (refAt (s.h 1) 0x180)).refPage .load 0x180)
          (fun r => r.2.isSome)))),
    [1, 8].all (fun w => let s := object 0 7; isOk (s.refLoad 1 5 w) && isOk (s.refStore 1 5 w 3)),
    (let s := object 0 7;
      [AK.load, AK.store].all (fun k => okAnd (s.field k 1 5 8) (fun q => q.1.mem.wf && q.2.transit.isNone && !q.2.page.repl
        && !q.1.me.heldOver q.2.ea.toNat 8 && q.1.me.refHeld == []))),
    okAnd ((forwarded 1 7).field .store 1 5 8) (fun q => q.2.transit.isSome),
    (let s := object 0 7;
      okAnd (s.field .store 1 5 8) (fun q =>
        let s1 := s.modSlot 0 (fun t => { t with refHeld := [⟨q.2.ea.toNat, 1, some q.2.ea, ⟨q.2.ea, 8, 3, 0, 0, true⟩⟩] });
        okAnd (s1.field .store 1 5 8) (fun p => p.2.transit.isNone && !p.1.me.heldOver p.2.ea.toNat 8
          && p.1.me.refHeld.any (fun h => overlaps p.2.ea.toNat 8 h.at.toNat h.st.width)))),
    [(0 : Nat), (ref2 0x140).toNat].all (fun v =>
      okAnd ((object 0 v).refLoad 1 5 8) (fun q => q.2.2 == v && q.2.2 < 2 ^ 64
        && (v == 0 || refOk (BitVec.ofNat 64 v) && (q.1.movedRef (BitVec.ofNat 64 v)).isNone))),
    (let v := (ref2 0x100).toNat;
      let s := forwarded 2 7;
      let s1 := put s 0x198 8 v;
      okAnd (s1.refLoad 1 5 8) (fun q => q.2.2 == v && refOk (BitVec.ofNat 64 v) && (q.1.movedRef (BitVec.ofNat 64 v)).isSome
        && q.1.mem.wf && !q.2.1.page.repl)),
    okAnd ((object 0 7).refLoad 1 5 8) (fun q => q.2.2 == 7 && !refOk 7),
    (let s := object 0 7; (s.movedRef (s.h 2)).isNone && isOk (s.refStore 1 5 8 (s.h 2))),
    (let s := (forwarded 2 7).modSlot 0 (fun t => t.wh 2 (ref2 0x100));
      s.h 2 != 0 && (s.movedRef (s.h 2)).any (fun r => r != s.h 2 && isOk (s.refStore 1 5 8 r)))].all id = true := by decide +kernel

/-- What `ref.chk` sees at an address. -/
def chkSees (s : State) (a : Word) : Option Plb :=
  match s.lookup (s.viewOf s.cur) a.toNat with
  | .ok e => if aperture s.pkg.toNat (some (coreOf s.cur)) a.toNat == none && granted e.rights 9 && e.managed then some e else none
  | .error _ => none

/-- An operand that moved; the rows of `ref.chk`: null, no reference, no page, a page whose object moved to none, a header with a
reserved flag, and a good one; an allocation too large, one without an arena, and one with room; pins. -/
theorem witness_ReferenceObjectWords : [
    (let s := forwarded 2 7; s.h 1 != 0 && (s.movedRef (s.h 1)).isSome),
    !refOk 5 && refOk (ref2 0x100) && (chkSees mach 0x100).isNone,
    (let s := put (forwarded 2 7) 0x10208 8 (2 ^ 40);
      (chkSees s 0x100).any (fun e => s.forward e 0x100 == .moved (BitVec.ofNat 64 (2 ^ 40)))
        && (chkSees s (BitVec.ofNat 64 (2 ^ 40))).isNone),
    [0, 4].all (fun f =>
      let s := put (object 0 7) 0x100 16 (Header.mk 64 9 0 f).nat;
      (chkSees s 0x100).any (fun e => s.forward e 0x100 == .normal && ((s.header e 0x100).flags / 4 != 0) == (f == 4)
        && (s.header e 0x100).size ≤ maxBody && (s.header e 0x100).state != 3
        && classOf (s.header e 0x100).size == refClass (ref2 0x100))),
    (let s := thr (xs [(7, 524273)]); maxBody < (s.x 7).toNat),
    (let s := mach; let d := s.drain s.cur;
      (s.x 7).toNat ≤ maxBody && s.me.u.arcur.toNat % 32 == 0
        && d.me.u.arend.toNat < d.me.u.arcur.toNat + footprint (classOf (s.x 7).toNat) && d.me.u.arlist == 0),
    [0, 48].all (fun n =>
      let s := (object 0 0).modSlot 0 (fun t => { xs [(7, BitVec.ofNat 64 n)] t with u := { t.u with arcur := 0x400, arend := 0x1000 } });
      let f := footprint (classOf n);
      n ≤ maxBody && s.me.u.arcur.toNat % 32 == 0 && s.me.u.arcur.toNat + f ≤ s.me.u.arend.toNat
        && okAnd ((s.drain s.cur).arenaRoom 3 8 f) (fun r =>
          okAnd (r.allocPages r.me.u.arcur ((r.me.u.arcur.toNat + f - 1) / 2 ^ 12 + 1 - r.me.u.arcur.toNat / 2 ^ 12)) (fun q =>
            isOk (q.1.allocFar q.2 (natBytes f (Header.mk n (s.x 6).toNat 0 0).nat))
              && q.2.all (fun p => match q.1.allocPlace p with | .far _ => false | _ => true)))),
    [0, 1].all (fun p =>
      let s := put (object 0 0) 0x108 4 p;
      okAnd (s.pinHeader 1) (fun q => q.1.mem.wf && !q.2.1.repl && (q.1.header q.2.1 q.2.2).pin == p
        && (q.1.die q.2.1.home).pins.length < 4096))].all id = true := by decide +kernel

end Sys2Proof.Tests
end

