-- ==== Sys2Proof/Tests/WitnessSync.lean ====
section
/-! SUPPORT. Witnesses: for each statement about barriers, groups, collectives and calls, a state and operands that meet the
hypotheses of each of its clauses together. -/

namespace Sys2Proof.Tests

-- One theorem at a time: each is a kernel computation, and many at once hold a thread each.
set_option Elab.async false

open Sys2Proof.Machine

/-- Barrier ID 3 of core 0: its open generation is `gen`, thread 0 takes part in it. -/
def coreBar (gen : Nat) (opn : Bool) : State := { mach with bars := [⟨0, 1, 0, 3, gen, opn, [(0, 0)], [(0, 0)], [], [], []⟩] }

/-- The same with thread 1 as a participant that has not arrived. -/
def pendingBar : State :=
  { (thr (fun t => { t with u := { t.u with waitlim := 9 } })).modSlot 1 (fun t => { t with st := .ready, home := some 1 }) with
    bars := [⟨0, 1, 0, 3, 0, true, [(0, 0), (1, 0)], [(0, 0)], [], [], []⟩] }

/-- A thread that has arrived there. -/
def heldThere : State := pendingBar.modSlot 0 (fun t => { t with arr := [(arrKey .core 3, 0)] })

/-- The package-wide barrier of a job that is one part of a gang launch. -/
def gangBar : State :=
  { mach with
    jobs := [{ id := 4, src := .thread 0 0 0, block := LBlock.zero, code := 0, hash := 0, profen := 0, rights := 0, submitted := 0,
               held := false, next := 0, live := [], bad := [], ended := [], rest := none, pool := [], poolLeft := 0,
               gang := some ⟨[0, 1], some true, false⟩, final := none }],
    bars := [⟨4, 5, 0, 3, 0, true, [], [], [], [], []⟩] }

/-- A thread whose arrival at that barrier belongs to a generation. -/
def arrivedAt (g gen : Nat) : State := (coreBar gen true).modSlot 0 (fun t =>
  { t with arr := [(arrKey .core 3, g)], u := { t.u with waitlim := 9 } })

/-- Waiting at a barrier. -/
def atBarrier (s : State) : State := s.modSlot 0 (fun t => { t with wait := some ⟨.barrier, some 9, 0, {}, none, none⟩ })

/-- An open generation that is complete and one that is not; an arrival whose generation has not completed, no arrival, and one
whose generation is complete; no record at a wait; a generation that is over, at once and in a wait; one that is not, before a
wait, in it and at its limit; `bar` with each outcome; a complete generation, and one that a package has still to report. -/
theorem witness_BarrierWords : [
    (let s := coreBar 0 true; s.barDone (s.barrier .core 3)) && !mach.barDone (mach.barrier .core 3),
    okAnd heldThere.syncGate (fun d => (d.me.arrival .core 3).any (fun g => (d.barrier .core 3).gen ≤ g)
      && !d.barDone (d.barrier .core 3)),
    [mach, arrivedAt 0 0].all (fun s => okAnd s.syncGate (fun d => let r := d.ripe .core 3;
      isOk (r.release .core) && (d.me.arrival .core 3).all (fun g => g < (r.barrier .core 3).gen))),
    [(heldThere, false), (mach, true)].all (fun p => okAnd (p.1.barArrive .core 3) (fun q => q.2 == p.2)),
    !mach.waiting .barrier && okAnd mach.syncGate (fun d => (d.releaseSubs mach.cur .thr).me.arrival .core 3 == none),
    [(arrivedAt 0 1, true), (arrivedAt 0 0, true), (heldThere, false)].all (fun p => !p.1.waiting .barrier && okAnd p.1.syncGate (fun d =>
      let v := d.releaseSubs p.1.cur .thr;
      let r := v.ripe .core 3;
      (v.me.arrival .core 3).any (fun g => (g < (r.barrier .core 3).gen) == p.2) && r.me.wait == none && (p.2 || 0 < r.waitlim))),
    !heldThere.waiting .barrier && okAnd (heldThere.barArrive .core 3) (fun q => !q.2),
    (let other := { pendingBar with bars := [⟨0, 1, 0, 3, 0, true, [(0, 0), (1, 0)], [], [], [], []⟩] };
      [(mach, true), (other, false)].all (fun p => !p.1.waiting .barrier && okAnd (p.1.barArrive .core 3) (fun q => q.2
        && (q.1.me.arrival .core 3).any (fun g => let r := q.1.ripe .core 3;
          (g < (r.barrier .core 3).gen) == p.2 && r.me.wait == none && (p.2 || 0 < r.waitlim))))),
    [(arrivedAt 0 1, true), (heldThere, false)].all (fun p => let s := atBarrier p.1;
      s.waiting .barrier && s.cycle < 9 && (s.me.arrival .core 3).any (fun g => (g < ((s.ripe .core 3).barrier .core 3).gen) == p.2)),
    (let s : State := { atBarrier heldThere with cycle := 9, slots := (atBarrier heldThere).slots };
      s.waiting .barrier && 9 ≤ s.cycle && s.rgnOps == [] && s.invs == [] && s.feq == [] && s.slots.all (fun p => p.2.st != .member)),
    (let s := coreBar 0 true;
      s.pod == [] && (s.bars[s.cur]?).any (fun b => s.barDone b && !s.barDone (s.nextGen b) && s.gangOthers b == [])),
    (let s := gangBar;
      s.pod == [] && (s.bars[s.cur]?).any (fun b => s.barLocal b && s.gangOthers b != [] && !b.heard.contains (b.gen, s.pkg.toNat)))].all id
      = true := by decide +kernel

/-- Thread 0 as a member, and a group of it alone. -/
def member0 : Member := mach.asMember 0
def group1 : Group := { handle := 5, key := 9, members := [member0], timeout := 100, closed := false, dropped := [], ended := [], seqs := [] }
def form1 (d : Option (BitVec 8 × Nat)) : Forming :=
  { key := 9, list := [member0.locid], timeout := 100, differs := false, job := some 0, arrived := [member0], decided := d, taken := [],
    asked := false }
def lstBlk (n : Nat) : Nat := blk [(0, n), (4, 9), (0x10, member0.locid), (0x14, member0.locid + 4)]
def collBlk (h : Nat) : Nat := blk [(0, 0x1000), (8, 0x2000), (0x10, 4), (0x14, h)]
def contrib1 (src : Word) : Contrib :=
  { rank := 0, loc := 0, home := 0, ctx := 0, tag := 7, src := src, dst := 0x2000, rights := 0xA000, params := ⟨0, 10, 0, 4, 0⟩,
    sent := none, failed := false }
def inst1 (c : Contrib) : Inst := Inst.start 0 5 0 [c]
/-- One instance of the group's first collective. -/
def withInst (i : Inst) : State := { mapped mach 0 with groups := [group1], insts := [i], pod := [] }
def sent1 : Inst := inst1 { contrib1 0x1000 with sent := some (List.replicate 16 0) }

/-- A list out of alignment, one with a bad count and a good one; a decision taken; a member and none; an attempt that is complete;
a collective of a live group, of none, and with bad parameters; a cancellation; a contribution; a commit and its results; a
failed member; a timeout; a lost member with no instance, before and after the results. -/
theorem witness_GroupsAndCollectives : [
    (let s := thr (xs [(5, 0x204)]); !s.waiting .group && !s.waiting .reply && (s.x 5).toNat % 64 != 0),
    [0, 1, 2].all (fun n =>
      let s0 := put (mapped (thr (fun t => { xs [(5, 0x200)] t with u := { t.u with waitlim := 9 } })) 0) 0x200 32 (lstBlk n);
      let s := s0.modSlot 4 (fun t => { t with st := .ready, home := some 4 });
      !s.waiting .group && !s.waiting .reply && okAnd (s.readList (s.x 5)) (fun q =>
        match memberList q.2.1 q.2.2 (s.locid s.cur).toNat with
        | none => n == 0
        | some l => n != 0 && pkgOf (l.1.headD 0) == s.pkg.toNat && s.cur < 4096 && q.1.forming == [] && q.1.me.wait == none
            && 0 < q.1.waitlim && !q.1.groupsFull && q.1.listOfJob (some (q.1.me.job.getD 0)) l.1 && q.1.cur == s.cur
            && q.1.pkg == s.pkg && (l.1 == [(s.locid s.cur).toNat]) == (n == 1))),
    [((0 : BitVec 8), 5), (4, 0)].all (fun d =>
      let s := { thr (fun t => { t with wait := some ⟨.group, none, 0, {}, none, none⟩ }) with forming := [form1 (some d)] };
      s.waiting .group && s.myForm == some (form1 (some d))),
    (let s := { thr (xs [(5, 5)]) with groups := [group1] };
      (s.liveGroup ((s.x 5).toNat % 2 ^ 16)).any (fun g => s.rankIn g s.tid == some 0 && !g.dropped.contains 0)),
    (let s := { thr (xs [(5, 6)]) with groups := [group1] };
      (s.liveGroup ((s.x 5).toNat % 2 ^ 16)).isNone && !s.waiting .cancel),
    (let s : State := { mach with forming := [form1 none] };
      s.pod == [] && s.forming[s.cur]? == some (form1 none) && pkgOf ((form1 none).list.headD 0) == s.pkg.toNat
        && s.listOfJob (form1 none).job (form1 none).list && !s.groupsFull
        && (form1 none).list.all (fun l => (form1 none).arrived.any (fun m => m.locid == l))),
    [(5, false), (5, true), (6, false), (0, false)].all (fun h =>
      let s := { put (mapped (thr (xs [(5, 0x200)])) 0) 0x200 64 (if h.1 == 0 then 0 else collBlk h.1) with groups := [{ group1 with closed := h.2 }] };
      (s.x 5).toNat % 64 == 0 && okAnd (s.beginCommand 4 false) (fun s1 => okAnd (s1.readBlock (s.x 5) 8) (fun q =>
          let c := CollBlk.of q.2;
          if h.1 == 5 then (q.1.liveGroup c.handle).any (fun g => q.1.rankIn g q.1.tid == some 0 && c.ok 0 4 (some g.members.length)
            && g.closed == h.2 && (q.1.insts.filter (fun i => i.group == c.handle && i.outstanding q.1.tid)).length < 4)
          else (q.1.liveGroup c.handle).isNone && c.ok 0 4 none == (h.1 == 6)))),
    [false, true].all (fun c =>
      let i := { inst1 (contrib1 0x1000) with committed := c };
      let s := (withInst i).modSlot 0 (xs [(5, 5)]);
      let h := (s.x 5).toNat % 2 ^ 16;
      let mine := s.insts.filter (fun i => i.group == h && i.result.isNone && i.outstanding s.tid);
      !s.waiting .cancel && (s.liveGroup h).any (fun g => s.rankIn g s.tid == some 0 && !g.dropped.contains 0
          && g.coordinator == s.pkg.toNat)
        && mine == [i] && (mine.find? (fun i => !i.committed && mine.all (fun j => j.committed || i.k ≤ j.k))).isSome == !c),
    [(0x1000 : Word), 0x1001].all (fun a =>
      let s := withInst (inst1 (contrib1 a));
      let i := inst1 (contrib1 a);
      s.pod == [] && s.inst s.cur == some i && i.result.isNone && i.id == s.cur && s.coordinates i
        && i.contribs.find? (fun c => c.rank == s.sub && c.sent.isNone && !c.failed) == some (contrib1 a)),
    [false, true].all (fun c =>
      let i := { sent1 with committed := c };
      let s := withInst i;
      s.pod == [] && s.inst s.cur == some i && i.result.isNone && s.coordinates i && (i.ready (s.instSize i)).isSome && !i.written
        && (c || s.failing i == [])),
    (let i := inst1 { contrib1 0 with failed := true };
      let s := withInst i;
      s.pod == [] && s.inst s.cur == some i && i.result.isNone && !i.committed && s.coordinates i && s.failing i != []),
    (let i := { inst1 (contrib1 0) with firstAt := some 0 };
      let s : State := { withInst i with cycle := 100 };
      s.inst s.cur == some i && i.result.isNone && !i.committed && s.coordinates i
        && (s.group i.group).any (fun g => 0 + g.timeout ≤ s.cycle)),
    [[], [sent1]].all (fun l =>
      let s : State := { mach with pod := [.lost 5 0 0], insts := l };
      s.pod == [.lost 5 0 0] && s.insts.find? (fun x => x.group == 5 && x.k == 0 && x.result.isNone) == l.head?
        && l.all (fun i => !i.written && i.lost == [] && i.far == [])),
    (let s : State := { mach with pod := [.reached 5 0 []], insts := [sent1] };
      s.insts.find? (fun x => x.group == 5 && x.k == 0) == some sent1 && sent1.result.isNone)
  ].all id = true := by decide +kernel

/-- A graph pointer to a descriptor at 0x200, and sp 0x3000. -/
def graphPtr : Word := BitVec.ofNat 64 (2 ^ 63 + 2 ^ 59 + 0x200)
def graphCaller (spill : Nat) : State :=
  put (mapped (thr (xs [(5, graphPtr), (2, 0x3000)])) 0) 0x200 64 (blk [(0, descMagic), (0x28, spill)])

/-- A thread in CALL with a return message of a status, a return mask, and its frame at 0x1000. -/
def calling (mask st : BitVec 8) : State :=
  mapped (thr (fun t => { t with st := .call, calls := [⟨0x40, 0x3000, 0x1000, 10, mask, 50⟩], inbox := [⟨1, st, 0, 0, 0x1000⟩] })) 0

/-- A callback on top of a `callt`. -/
def inCallback : State :=
  thr (fun t => { t with cbDepth := 1, cbStack := [⟨3, 0⟩], calls := [⟨0x40, 0x3000, 0x1000, 10, 0, 50⟩] })

/-- A control-flow target; a gang leader; a graph target with the smallest and a large spill area; a return with OK and each mask
bit, with FAULT, and with another status; the limit; `rett` outside a callback and within one. -/
theorem witness_CallsAndReturns : [
    (let p := code 1 0x100;
      let s := lpadAt (thr (xs [(5, p)])) 0x100 1;
      s.me.gang.isNone && okAnd s.syncGate (fun d => !ptrE (s.x 5) && isOk (d.checkPad (s.x 5) 1))),
    (thr (fun t => { t with gang := some ⟨0, 0, 2⟩ })).me.gang.isSome,
    [0, 4096].all (fun n =>
      let s := graphCaller n;
      let p := s.x 5;
      let a := ptrAddr p;
      let go (d s2 : State) (b : Nat) :=
        let size := frameSize (b / 2 ^ (8 * 0x28) % 2 ^ 32);
        let f := d.x 2 - BitVec.ofNat 64 size;
        okAnd (s2.reserve { xs := [(10, Status.timeout.word)] } (some b)) (fun s3 =>
          (s3.frameErr (d.viewOf d.cur) f size).isNone
            && isOk ((s3.engPut (d.viewOf d.cur) (d.agentAt d.cur) f
              (frameImage (((s.x 6).truncate 32 : Half).toNat * 2 ^ 32 + (d.locid d.cur).toNat) p s3.me.frameArgs)).1.release .pkg));
      s.me.gang.isNone && okAnd s.syncGate (fun d => ptrE p && okAnd d.awaitRefs (fun e => e.me.held == [] && isOk e.awaitReleases) && p.toNat / 2 ^ 56 % 8 == 0 && ptrK p == 1
        && okAnd d.awaitRefs (fun e => (e.me.wait.bind Wait.blk).isNone && a.toNat % 64 == 0 && okAnd (e.load a 8) (fun q => q.2 == descMagic
          && okAnd (q.1.loadBlock a 8) (fun q2 => go d q2.1 q2.2))))
      && (let w := s.modSlot 0 (fun t => { t with wait := some ⟨.reserve, some 9, 0, {}, some 0, none⟩ });
        okAnd w.syncGate (fun d => okAnd d.awaitRefs (fun e => e.me.wait.bind Wait.blk == some 0 && e.me.held == [] && isOk e.awaitReleases && go d e 0)))),
    [(0 : BitVec 8), 1, 0x3F].all (fun k =>
      let s := calling k 0;
      s.me.st == .call && s.me.returnMsg.any (fun m => m.status == Status.ok.byte)
        && s.me.calls.any (fun c => isOk ((s.modMe (fun t => { t.takeMsg (fun q => q.isReturn && q.value == c.frame) with
          calls := [], st := .ready, pc := c.pc })).copyResults c.frame c.retMask))),
    [Status.fault, .refused].all (fun st => (calling 0 st.byte).me.returnMsg.any (fun m => m.status == st.byte)),
    (let s : State := { (calling 0 0).modSlot 0 (fun t => { t with inbox := [] }) with cycle := 50 };
      s.me.st == .call && s.me.returnMsg.isNone && s.me.calls.any (fun c => c.deadline ≤ s.cycle)),
    mach.me.cbDepth == 0,
    (inCallback.me.cbDepth != 0 && okAnd (inCallback.release .pkg) (fun u =>
      u.me.poolOf.isNone && u.me.cbStack.length == 1 && u.me.calls.length == 1))].all id = true := by decide +kernel

/-- A `call` node 3 of region 0 with an address, its frame in slot 0, and a node state; every edge into its port 0. -/
def callNode (target : Word) : NodeRec :=
  { id := 3, kind := 9, ctxs := 1, instrs := [], edges := [], params := natBytes 8 target.toNat ++ natBytes 8 0, arow := 0, acol := 0,
    repl := false, unord := false, row := 0, col := 0, ctx0 := 0, raw := [] }
def feeder (port : Nat) : NodeRec :=
  { callNode 0 with id := 2, kind := 0, edges := [⟨0, 0, 3, port, 0⟩] }

/-- A region of some nodes with one frame, its tokens and node states. -/
def rgn0 (nodes : List NodeRec) (st : FSt) (caller : Caller) (job : Option Nat) (chan : List (Nat × Nat × Token))
    (nsts : List NodeSt) : Region :=
  { num := 0, st := .running, rows := 1, cols := 1, fold := 0, desc := 0x200, code := 0, hash := 0, prio := 0, place := 0,
    rights := 0xA000, nodes := nodes, sig := 0, faulted := [], resumable := [], spillSize := 0, retMask := 0,
    slots := [{ FSlot.free with st := st, caller := caller, job := job, act := 0x1000, limit := 10, rights := 0xA000 },
              FSlot.free, FSlot.free, FSlot.free],
    chan := chan, flight := [], owed := [], eregs := [], nsts := nsts, reqs := [], waves := [], last := [], trap := none,
    reloads := 0, before := .running, quantum := 0, rounds := 0, loadEnd := 0, home := 0, area := none, spilled := [],
    boundary := none }

/-- A state whose site is node 3 of such a region. -/
def atSite (s : State) (r : Region) : State := { s with site := ⟨0, 3, 0⟩, regions := [r], nextFrame := 1 }

def cbTarget : Word := code 2 0x100
def callSite (st : FSt) (caller : Caller) (job : Option Nat) (ns : NSt) : State :=
  atSite (lpadAt (mapped (thr (fun t => { t with st := .call })) 0) 0x100 2)
    (rgn0 [callNode cbTarget, feeder 0] st caller job [(3, 0, scalarTok 7 0)] [⟨3, 0, ns⟩])

def job0 : Job :=
  { id := 4, src := .thread 0 0 0, block := LBlock.zero, code := 0, hash := 0, profen := 0, rights := 0, submitted := 0, held := false,
    next := 0, live := [], bad := [], ended := [], rest := none, pool := [9], poolLeft := 0, gang := none, final := none }

def pooled9 (s : State) : State :=
  { s.modSlot 9 (fun t => { t with st := .pool, poolOf := some 4 }) with jobs := [job0] }

/-- A node whose call is out, not entered. -/
def called : NSt := .call true false 0 0 [(0, scalarTok 7 0)] none none

/-- The frame of such a node spilled, its call returned. -/
def spilledSite (ns : NSt) : State :=
  let r := rgn0 [callNode cbTarget, feeder 0] .free .none none [] []
  { atSite (mapped mach 0) { r with spilled :=
      [⟨{ FSlot.free with st := .suspended, act := 0x1000, rights := 0xA000 }, 0, [], [⟨3, 0, ns⟩], [], [], []⟩] } with
    site := ⟨0, 3, 4⟩ }

/-- A call of a control-flow target with a head, under a thread, with an idle pool thread, and with none; a return with OK and with
FAULT, resident and spilled; a callback on the thread at the root and on the pool thread that has it; a wait for a pool thread
that has run out. -/
theorem witness_CallNodesAndCallbacks : [
    (let fresh : NSt := .call false false 0 0 [] none none;
      let launched := callSite .running (.launch 4 0) (some 4) fresh;
      [(callSite .running (.thread 0 0) none fresh, true, none), (pooled9 launched, false, some 9),
          (launched, false, none)].all (fun p => (p.1.candidate 9).any (fun f =>
        let hs := ((List.range 9).filter f.fed).filterMap (fun q => (f.head q).map (fun t => (q, t)));
        f.st == fresh && hs.length == 1 && hs.length == ((List.range 9).filter f.fed).length
          && f.can [0, 1, 2, 3, 4, 5, 8] && hs.all (fun h => !f.speculative h.2.tag && !tagErr h.2.tag)
          && p.1.targetErr f.view f.n.callTarget == none && !ptrE f.n.callTarget
          && (p.1.root f.slot).isSome == p.2.1 && (p.2.1 || p.1.idlePool f.slot.job == p.2.2)))),
    [Status.ok, .fault].all (fun st =>
      let ns : NSt := .call true true 0 0 [] (some (st.byte, [1, 2])) none;
      let s := callSite .running (.thread 0 0) none ns;
      s.site.fs < 4 && (s.candidate 9).any (fun f => f.st == ns && f.can [0, 1, 2, 3, 4, 5, 8])),
    (let ns : NSt := .call true true 0 0 [] (some (Status.ok.byte, [1, 2])) none;
      (spilledSite ns).spilledCall.any (fun q => q.2.2 == ns && q.1.freeSlot.any (fun k => q.1.roomFor q.2.1 k))),
    (let s := callSite .suspended (.thread 0 0) none called;
      s.site.fs < 4 && s.siteNode.any (fun f => f.st == called && f.r.fires && f.n.kind == 9 && f.slot.st == .suspended
          && f.r.elementOk f.n && !ptrE f.n.callTarget && !f.r.precedes f.fs (f.slot.extWave 0))
        && s.callIn.any (fun c => (s.root c.slot).bind s.locOf == some 0)
        && (s.slot 0).st == .call && (s.slot 0).returnMsg.isNone),
    (let s := (pooled9 (callSite .suspended (.launch 4 0) (some 4) called)).modSlot 9 (fun t => { t with cbStack := [⟨3, 0⟩] });
      s.callIn.any (fun c => (c.slot.job.bind s.job).isSome && (s.poolFor ⟨c.n.id, c.slot.id⟩) == some 9)),
    (let ns : NSt := .call false false 0 0 [(0, scalarTok 7 0)] none (some 0);
      let s : State := { callSite .running (.launch 4 0) (some 4) ns with cycle := 10 };
      s.siteNode.any (fun f => f.st == ns && f.r.fires && f.slot.st == .running && 0 + f.slot.limit ≤ s.cycle
        && s.idlePool f.slot.job == none))].all id = true := by decide +kernel

end Sys2Proof.Tests
end

