-- ==== Sys2Proof/Tests/WitnessFabric.lean ====
section
/-! SUPPORT. Witnesses: for each statement about elements and nodes of the fabric, a state whose site meets the hypotheses of each
of its clauses together. -/

namespace Sys2Proof.Tests

-- One theorem at a time: each is a kernel computation, and many at once hold a thread each.
set_option Elab.async false

open Sys2Proof.Machine

/-- Node 3 of a kind with parameter words, one outgoing edge, and node 2 feeding some of its ports. -/
def special (kind : Nat) (ps : List Nat) : NodeRec :=
  { callNode 0 with kind := kind, params := (ps.map (natBytes 8)).flatten, edges := [⟨0, 0, 2, 0, 0⟩] }
def feeds (ports : List Nat) : NodeRec := { feeder 0 with edges := ports.map (fun p => ⟨0, 0, 3, p, 0⟩) }

/-- A running frame at such a node, with a node state, tokens at its ports and edges into them. -/
def nodeAt (kind : Nat) (ps : List Nat) (st : NSt) (toks : List (Nat × Token)) : State :=
  atSite (mapped mach 32) (rgn0 [special kind ps, feeds (toks.map Prod.fst)] .running .none none
    (toks.map (fun t => (3, t.1, t.2))) [⟨3, 0, st⟩])

def inRgn (s : State) (f : Region → Region) : State := s.modRegion 0 f
def tag0 (seq : Nat) : BitVec 15 := mkTag 0 false seq 0

/-- A word that fires with nothing, and one that needs a head at port 0. -/
def wordReq (q : BitVec 10) : TWord := { TWord.of 0 with req := q }

/-- An element whose word is eligible and one whose word waits for a head, and no element. -/
theorem witness_ElementsFire : [
    [(0 : BitVec 10), 1].all (fun q =>
      let s := nodeAt 0 [] .none [];
      (s.candidate 0).any (fun f => f.eligible (wordReq q) (f.drives .add (wordReq q)) == (q == 0))),
    (mach.candidate 0).isNone].all id = true := by decide +kernel

/-- A store request of node 3 in a state. -/
def req0 (op : Nat) (addr : Nat) (st : ReqSt) : MReq :=
  { node := 3, fs := 0, wave := 0, ord := 1, pred := 0, succ := 0, ordered := true, op := op, addr := BitVec.ofNat _ addr, data := 7,
    mask := allLanes16, vec := false, width := 8, tag := 0, st := st, val := 0, err := false, bad := none }
def withReq (kind op : Nat) (a : Nat) (st : ReqSt) : State :=
  inRgn (nodeAt kind [op + 3 * 2 ^ 8 + 2 ^ 12] .none []) (fun r => { r with reqs := [req0 op a st] })

/-- A stream that starts with and without a trigger, and one with a point to make; each `mem` op with its heads; a request that
performs, one that faults, and a reply; a join. -/
theorem witness_MemoryNodesOfTheFabric : [
    [[], [(8, controlTok 0 0)]].all (fun l =>
      let s := nodeAt 1 [0x1000, 0, 0x2000, 8 * 2 ^ 32 + 4, 1, 1, 1, 8 * 2 ^ 8] (.stream false false [] 0 0 false 0) l;
      (s.candidate 1).any (fun f => (if l == [] then !f.fed 8 else f.fed 8 && (f.head 8).isSome) && !f.fed 1 && (f.head 1).isNone && f.n.strFits 0)),
    (let s := nodeAt 1 [0x1000, 0, 0x2000, 8 * 2 ^ 32 + 4, 1, 1, 1, 8 * 2 ^ 8] (.stream true true [3, 0, 0, 0] 0 3 false 0) [];
      (s.candidate 1).any (fun f => !f.n.strStore && f.n.strMode == 0 && f.can [f.n.strOut])),
    (List.range 7).all (fun op =>
      let s := nodeAt 2 [op] .none [(0, scalarTok 0x1000 0), (1, scalarTok 7 0), (8, controlTok 0 0)];
      (s.candidate 2).any (fun f => f.n.memOp == op && f.n.memDataPort.all (fun p => (f.head p).isSome) && f.can [0, 1, 4, 8]
        && (f.head f.n.memAddrPort).any (fun t => f.slot.extWave (tagSeq t.tag) < f.slot.wave + 16))),
    (let s := nodeAt 2 [1] .none [(0, scalarTok 0x1000 (tag0 15))];
      (s.candidate 2).any (fun f => (f.head 0).any (fun t => f.slot.extWave (tagSeq t.tag) == 15))),
    [0x1000, 0x1001].all (fun a =>
      let s := withReq 2 1 a .waiting;
      (s.region 0).any (fun r => r.interfaceOn && r.st != .draining && (r.fslot 0).st == .running
        && (r.reqs[s.sub]?).any (fun q => (r.node? q.node).any (fun n =>
          q.op != 16 && q.st == .waiting && r.mayPerform q && !r.speculative q.node q.fs (tagSeq q.tag)
            && isOk (s.perform r n q) == (a == 0x1000))))),
    [(2, false), (0, true), (0, false)].all (fun k =>
      let s0 := inRgn (withReq 2 2 0x1000 .sent) (fun r => { r with reqs := r.reqs.map (fun q => { q with far := [5] }) });
      let s : State := { s0 with farOut := [⟨5, 0, 0x1000, 9⟩],
                                 remote := if k.1 == 2 then [] else [⟨5, k.2, !k.2, 0, 0⟩] };
      (s.region 0).any (fun r => r.interfaceOn && r.st != .draining && (r.fslot 0).st == .running
        && (r.reqs[s.sub]?).any (fun q => (r.node? q.node).isSome && q.op != 17 && q.st == .sent
          && s.unacked q.far == (k.1 == 2) && (s.farFault q.far).isSome == (k.1 == 0 && !k.2)))),
    (let s := withReq 2 1 0x1000 .performed;
      (s.region 0).any (fun r => r.interfaceOn && (r.reqs[s.sub]?).any (fun q => (r.node? q.node).isSome && q.op != 16
        && q.st == .performed && !(r.reqs.take s.sub).any (fun p => p.node == q.node && p.fs == q.fs)))),
    (let s := nodeAt 3 [1] .none [(8, controlTok 1 0)];
      (s.candidate 3).any (fun f => (f.head 8).any (fun t => f.can [8] && f.slot.extWave (tagSeq t.tag) == f.slot.wave
        && (f.r.waveSt f.fs f.slot.wave).ready f.n.joinOrder f.n.joinPred && !f.joinWaits f.slot.wave)) && s.farUnacked == [] && s.farTo == [])].all id = true := by decide +kernel

def loop0 : LoopSt := { LoopSt.zero with active := true, next := 2, opened := true }
def loopAt (l : LoopSt) (fixed count : Nat) (toks : List (Nat × Token)) : State :=
  nodeAt 4 [4 + fixed * 2 ^ 12 + count * 2 ^ 32] (.loop l) toks

/-- A loop that starts; a done token of an iteration in flight and of none; an exit token of 0 and of 1; a retirement, the last and
not; a carry; a head that `collect` sends and one it parks; `conv`, `norm`; a `dsq` with room and with a result. -/
theorem witness_FlowNodesOfTheFabric : [
    (let s := loopAt LoopSt.zero 1 2 [(9, controlTok 0 0)];
      (s.candidate 4).any (fun f => f.st == .loop LoopSt.zero && f.fed 9 && (f.head 9).isSome && f.n.par 1 == 0)),
    [1, 2].all (fun q =>
      let s := loopAt loop0 1 4 [(8, controlTok 0 (tag0 q))];
      (s.candidate 4).any (fun f => f.st == .loop loop0 && loop0.active && (f.head 8).any (fun t => (loop0.iter (tagSeq t.tag)).isSome == (q == 1)))),
    [0, 1].all (fun v =>
      let s := loopAt loop0 0 4 [(0, scalarTok v (tag0 0))];
      (s.candidate 4).any (fun f => f.st == .loop loop0 && loop0.active && loop0.exitAt.isNone && (f.head 0).any (fun t =>
        loop0.iter (tagSeq t.tag) == some 0
          && ({ loop0 with exits := [(0, t.data.toNat % 2 == 1 || tagErr t.tag)] } : LoopSt).decided.isSome == (v == 1)))),
    [1, 2].all (fun c =>
      let s := loopAt loop0 1 c [];
      (s.candidate 4).any (fun f => f.st == .loop loop0 && loop0.oldest < loop0.next && f.n.loopFixed && f.can [0]
        && f.n.loopD ≤ (assoc loop0.dones loop0.oldest).getD 0 && !f.carryWaits loop0.oldest && (loop0.oldest + 1 == f.n.loopCount) == (c == 1))),
    (let l := { loop0 with carries := [(0, 1, scalarTok 7 0)] };
      ((loopAt l 1 4 []).candidate 4).any (fun f => f.st == .loop l && 1 < l.next && f.can [carryPort 0])),
    [0, 1].all (fun q =>
      let s := nodeAt 5 [2 ^ 48] (.collect 0 []) [(0, scalarTok 7 (tag0 q))];
      (s.candidate 5).any (fun f => f.st == .collect 0 [] && f.can [f.n.colOut]
        && f.n.colArms.filterMap (fun a => (f.head (f.n.colPort a)).map (fun t => (a, t))) == [(0, scalarTok 7 (tag0 q))])),
    (let s := nodeAt 6 [0x74] .none [(0, scalarTok 7 0)];
      (s.candidate 6).any (fun f => let b := f.n.par 0;
        !bitOf b 12 && (f.head 0).isSome && (ElTy.ofCode (field b 4 4)).isSome && (ElTy.ofCode (field b 0 4)).isSome
          && (Rnd.ofCode (field b 8 3)).isSome && f.can [0])),
    (let s := nodeAt 7 [0] .none [(4, vectorTok 0 allLanes16 0)];
      (s.candidate 7).any (fun f => !bitOf (f.n.par 0) 1 && (f.head 4).isSome && f.can [4])),
    (let s := nodeAt 8 [1] (.dsq []) [(4, vectorTok 0 allLanes16 0)];
      (s.candidate 8).any (fun f => f.st == .dsq [] && (f.head 4).isSome && f.n.dsqOp == 1 && f.can [4] && f.pipeUsed < 12)),
    (let a := vectorTok 0 allLanes16 0;
      ((nodeAt 8 [1] (.dsq [(a, a)]) []).candidate 8).any (fun f => f.st == .dsq [(a, a)] && f.can [4]))].all id = true := by decide +kernel

/-- An element of two phases whose predicates name one. -/
def phases (p : BitVec 8) : State :=
  inRgn (atSite mach (rgn0 [{ special 0 [] with ctxs := 2 }] .running .none none [] [])) (fun r =>
    { r with eregs := [⟨3, 0, .replicate 8 0, .replicate 4 0, p, 0, 0⟩] })

def opening0 : Opening :=
  { id := 0, desc := 0x200, hash := 0, same := false, act := 0x1000, own := true, buf := FrameBuf.zero, caller := .none, depth := 0,
    parent := 0, limit := 10, rights := 0, job := none, wuid := 0, since := 0 }

/-- A token on the way; a phase end; `frame` nodes that read, write, end well and end badly; an opening; a slot that becomes free;
an orphaned and a stalled frame; a page fault that is served. -/
theorem witness_FramesTokensAndTraps : [
    (let s := inRgn (nodeAt 0 [] .none []) (fun r => { r with flight := [(3, 0, scalarTok 7 0)], owed := [(3, 0)] });
      s.siteNode.any (fun f => (f.r.flight.find? (atPort f.n.id s.sub f.fs)).isSome)),
    (let s := phases 0xA0;
      (s.region 0).any (fun r => r.fires && (r.fslot 0).st == .running && r.phaseEnd 0
        && r.phased.all (fun n => (r.ereg n.id 0).all (fun e => e.nextPhase < n.ctxs)))),
    [0, 16].all (fun k =>
      let s := nodeAt 10 [4 * k] (.frame false) [];
      (s.candidate 10).any (fun f => f.n.frameOp == 0 && f.n.frameSlot == k && !f.fed 8 && f.can [if k < 16 then 0 else 4]
        && isOk (s.frameGet f.view f.slot (slotOff k) (slotLen k)))),
    (let s := inRgn (nodeAt 10 [1] (.frame false) [(0, scalarTok 7 0)]) (fun r => r.modFslot 0 (fun x => { x with own := true }));
      (s.candidate 10).any (fun f => (f.head 0).any (fun t => f.n.frameOp == 1 && f.can [8] && !f.speculative t.tag && f.slot.own))),
    [(scalarTok 0 0, true), (scalarTok 11 0, true), (scalarTok 8 0, false), (scalarTok 0 (mkTag 0 true 0 0), false)].all (fun p =>
      let s := nodeAt 10 [2] (.frame false) [(0, p.1)];
      (s.candidate 10).any (fun f => (f.head 0).any (fun t => f.n.frameOp == 2 && !f.speculative t.tag && !f.r.endWaits f.fs
        && (!tagErr t.tag && finalStatus (t.data.toNat % 256)) == p.2))),
    (let s : State := { nodeAt 0 [] .none [] with openings := [opening0] };
      (s.openAt opening0).any (fun r => r.freeSlot.isSome)),
    [true, false].all (fun w =>
      let s := inRgn (atSite mach (rgn0 [special 0 []] .ending .none none [] [])) (fun r => r.modFslot 0 (fun f => { f with endWait := w }));
      (s.region 0).any (fun r => (r.fslot 0).st == .ending && r.chan == [] && r.flight == [] && r.reqs == [] && (r.fslot 0).endWait == w)),
    ((nodeAt 0 [] .none []).region 0).any (fun r => r.fires && r.orphan 0),
    (let s0 := inRgn (nodeAt 0 [] .none [(0, scalarTok 7 0)]) (fun r => r.modFslot 0 (fun x => { x with stallFrom := some 0 }));
      let s : State := { s0 with cycle := 10 };
      (s.region 0).any (fun r => (r.fslot 0).stallFrom == some 0 && r.holder 0 == some 3 && r.fires && (r.fslot 0).st == .running
        && 0 + (r.fslot 0).limit ≤ s.cycle && !r.awaits 0)),
    (nodeAt 0 [] .none []).siteNode.any (fun f => f.slot.st == .running),
    (let s := (nodeAt 0 [] .none []).modDie 0 (fun d => { d with ftsvc := BitVec.ofNat 64 (2 ^ 63) });
      (s.region 0).any (fun r => s.region r.num == some r && r.st == .running && bitW (s.die r.die).ftsvc 63))].all id = true := by decide +kernel

/-- A ring node with its slot at 0x1000 and its control word at 0x2000, FULL or EMPTY with a word. -/
def ringAt (kind : Nat) (full : Bool) (w : Nat) (toks : List (Nat × Token)) : State :=
  (put (nodeAt kind [0x1000, 0x2000, 4] (.ring 3 false (some 0)) toks) 0x2018 8 w).setPresence 0x2018 full

def tileBlk' : Nat :=
  blk [(0, spad 0), (8, spad 0x1000), (0x10, 0x3000), (0x18, 0x4000), (0x20, 64), (0x24, 4), (0x28, 1), (0x2C, 1)]

/-- A slot taken, the end of a stream, a slot out of alignment, a slot filled and an end of stream written, a wait that ends; a token consumed; a matrix
command queued and completed; an entry of `acc` counted at the top of its table. -/
theorem witness_NodesThatMeetTheOutside : [
    [0, 1].all (fun w =>
      let s := ringAt 11 true w [];
      (s.candidate 11).any (fun f => f.st == .ring 3 false (some 0) && f.can [0, 4, 8] && f.ringCtl 3 == 0x2018
        && okAnd (s.ctlWord f.view .load (f.ringCtl 3)) (fun pa => s.mem.isFull pa && s.mem.read pa 8 == w
          && (f.ringData 3).toNat % 64 == 0 && isOk ((s.setPresence pa false).engBytes f.view (f.ringData 3) 64)))),
    (let s := (put (nodeAt 11 [0x1008, 0x2000, 4] (.ring 3 false (some 0)) []) 0x2018 8 0).setPresence 0x2018 true;
      (s.candidate 11).any (fun f => f.st == .ring 3 false (some 0) && f.can [0, 4, 8]
        && okAnd (s.ctlWord f.view .load (f.ringCtl 3)) (fun pa => s.mem.isFull pa && s.mem.read pa 8 % 256 == 0)
        && (f.ringData 3).toNat % 64 != 0)),
    (let s := ringAt 12 false 0 [(0, scalarTok 7 0)];
      (s.candidate 12).any (fun f => (f.head 0).any (fun t => !f.speculative t.tag
        && okAnd (s.ctlWord f.view .store (f.ringCtl 3)) (fun pa => !s.mem.isFull pa)
        && f.sending.isNone && (f.ringData 3).toNat % 64 == 0
        && (let p := s.engPut f.view f.agent (f.ringData 3) (natBytes 64 (t.data.toNat % 2 ^ 64)); p.2.isNone && s.newWrites p.1 == [])))),
    (let s := ringAt 12 false 0 [(8, controlTok 0 0)];
      (s.candidate 12).any (fun f => (f.head 0).isNone && f.sending.isNone && (f.head 8).any (fun t => !f.speculative t.tag)
        && okAnd (s.ctlWord f.view .store (f.ringCtl 3)) (fun pa => !s.mem.isFull pa))),
    (let s : State := { nodeAt 11 [0x1000, 0x2000, 4 + 2 ^ 40] (.ring 3 false (some 0)) [] with cycle := 256 };
      s.siteNode.any (fun f => f.n.kind == 11 && f.r.fires && f.slot.st == .running && 0 + f.n.ringLimit ≤ s.cycle)),
    (let s := nodeAt 13 [0] (.sink 9) [(9, controlTok 0 0)];
      (s.candidate 13).any (fun f => f.st == .sink 9 && f.n.par 0 == 0 && f.sending.isNone && (f.head 9).any (fun t => !tagErr t.tag)
        && ((List.range 10).map (fun k => (9 + 1 + k) % 10)).find? (fun p => (f.head p).isSome) == some 9)),
    (let s := put (nodeAt 14 [0, 0, 0, 0] .none [(0, scalarTok 0x200 0)]) 0x200 64 tileBlk';
      (s.candidate 14).any (fun f => (f.head 0).any (fun t => !bitOf (f.n.par 0) 2 && !bitOf (f.n.par 0) 3
        && !f.speculative t.tag && f.can [0] && s.portCount (f.r.clusterOf f.n) < 2 && !tagErr t.tag && t.data.toNat < 2 ^ 64
        && t.data.toNat % 64 == 0 && okAnd (s.engBytes f.view (BitVec.ofNat 64 t.data.toNat) 64) (fun q =>
          mxBlockOk (mxFormOf (f.n.par 0 % 4)) (bytesNat q.2) s.pkg.toNat (.port (f.r.clusterOf f.n)) (BitVec.ofNat 64 (f.n.par 1))
            (BitVec.ofNat 64 (f.n.par 2)) (BitVec.ofNat 64 (f.n.par 3)))))),
    (let s := inRgn (nodeAt 14 [0, 0, 0, 0] .none []) (fun r => { r with reqs := [req0 opMxport 0 .performed] });
      s.siteNode.any (fun f => f.r.interfaceOn && f.slot.st == .running
        && (f.r.reqs.find? (fun q => q.node == f.n.id && q.op == opMxport)).any (fun q => q.st == .performed && q.fs == f.fs))),
    (let s := nodeAt 15 [0x1000, 6 * 2 ^ 13 + 4] .none [(0, scalarTok 3 0)];
      (s.candidate 15).any (fun f => (f.head 0).any (fun t =>
        let a := f.slot.based (f.n.par 0) (field (f.n.par 1) 24 8);
        let k := t.data.toNat % 2 ^ 64;
        !f.n.accVec && f.n.accOp == 6 && !f.speculative t.tag && f.can [0, 1, 4] && !tagErr t.tag && k < f.n.accT
          && (s.firstFault f.view .amo f.n.accW [a + BitVec.ofNat 64 (f.n.accW * k)]).isNone
          && okAnd (s.accumulate f a [(0, k, 0)]) (fun q => q.2.map Prod.fst == [0]))))].all id = true := by decide +kernel

end Sys2Proof.Tests
end

