-- ==== Sys2Proof/Tests/WitnessThreads.lean ====
section
/-! SUPPORT. Witnesses: for each statement about privileged words, requests on regions, and the steps of threads and engines, a
state and operands that meet the hypotheses of each of its clauses together. -/

namespace Sys2Proof.Tests

-- One theorem at a time: each is a kernel computation, and many at once hold a thread each.
set_option Elab.async false

open Sys2Proof.Machine

/-- Slot 1 changed, x5 naming an area at 0x4000 and x6 slot 1. -/
def beside (f : Slot → Slot) : State := (mapped (thr (xs [(5, 0x4000), (6, 1)])) 0).modSlot 1 f

/-- An area of a READY thread. -/
def area1 : Nat := blk [(0, areaMagic), (0xF, 2), (0x10, 0x40)]

/-- x5 and x6 given values. -/
def two (a b : Nat) : State := mapped (thr (xs [(5, BitVec.ofNat 64 a), (6, BitVec.ofNat 64 b)])) 0

/-- A record of a trap of no cause. -/
def rec0 : TrapRec := { amo := 0, elem := 0, member := 0, cause := 0, pc := 0, tval := 0, frame := 0, held := [], tick := 0 }

/-- A READY slot that was loaded from an area at 0x4000. -/
def loaded1 : State := beside (fun t => { t with st := .ready, origin := some 0x4000 })

/-- What a save of slot 1 writes can be written. -/
def writesArea (d : State) (a : Word) : Bool :=
  okAnd (d.areaPages a 4) (fun p => isOk (p.writeArea a ((p.slot 1).skips a) 0 (p.areaWords 1)))

theorem witness_PrivilegedWords_area : [writesArea loaded1 0x4000].all id = true := by decide +kernel

/-- A user-mode thread; operands that name no other slot; slots to save and one of a gang; the state code of an area;
invalidations; requests on regions; records. -/
theorem witness_PrivilegedWords : [
    (thr (fun t => { t with priv := .u })).me.priv == .u,
    (let s := two 0x4000 0; s.me.priv != .u && (s.otherSlot (s.x 5) (s.x 6)).isNone),
    [SlotSt.ready, .wait, .call, .trap].all (fun st =>
      let s := beside (fun t => { t with st := st });
      s.otherSlot (s.x 5) (s.x 6) == some 1 && (s.slot 1).st == st && (s.slot 1).refHeld == []),
    (let s := beside (fun t => { t with st := .ready, gang := some ⟨0, 1, 2⟩ });
      (((s.drain 1).settleFar 1).slot 1).gang.isSome),
    mach.away == [],
    (let s := thr (fun t => { t with wait := some ⟨.plbInv, some 9, 0, {}, none, none⟩ });
      s.me.priv != .u && s.waiting .plbInv && s.invs == []),
    SlotSt.ofArea (blkAt area1 0xF 1) == some .ready,
    [3, 16, 9].all (fun m =>
      let s := two 0x4000 m; !s.waiting .plbInv && isOk s.syncGate && (m % 4 == 3 || 16 ≤ m || m / 8 % 2 == 1 && m % 4 != 0)),
    [0, 2, 6, 8, 12].all (fun m =>
      let s := (two 0x4000 m).modSlot 0 (fun t => { t with u := { t.u with waitlim := 9 } });
      !s.waiting .plbInv && m % 4 != 3 && m < 16 && (m / 8 % 2 == 0 || m % 4 == 0)
        && okAnd s.syncGate (fun d => okAnd (d.release .pkg) (fun u => u.me.wait.isNone && 0 < u.waitlim))),
    (let s : State := { mach with rgnResults := [((0, 0), 7)] };
      s.me.priv != .u && s.rgnResults == [(s.tid, 7)]),
    [(128, 1), (0, 2 ^ 56), (0, 13), (0, 0)].all (fun p =>
      let s := two p.1 p.2;
      s.rgnResults == [] && s.rgnOps == []
        && (128 ≤ p.1 || 2 ^ 56 ≤ p.2 || p.2 / 4 % 4 == 3 || p.2 % 4 == 0 && p.2 / 4 % 4 == 0)),
    [(127, 1), (0, 2 ^ 56 - 5), (0, 4)].all (fun p =>
      let s := (two p.1 p.2).modSlot 0 (fun t => { t with u := { t.u with waitlim := 9 } });
      p.1 < 128 && p.2 < 2 ^ 56 && p.2 / 4 % 4 != 3 && (p.2 % 4 != 0 || p.2 / 4 % 4 != 0) && s.me.wait.isNone && 0 < s.waitlim),
    [[], [rgn0 [] .free .none none [] []]].all (fun rs =>
      let s : State := { thr (fun t => { t with u := { t.u with waitlim := 9 } }) with regions := rs };
      s.rgnResults == [] && s.rgnOps == [] && (s.region 0).isSome == !rs.isEmpty && 0 < s.waitlim),
    [(0x4004, 0), (0x4000, 2 ^ 63)].all (fun p =>
      let s := two p.1 p.2; (s.x 5).toNat % 64 != 0 || 2 ^ 63 ≤ (s.x 6).toNat),
    [0, 2 ^ 62, 2 ^ 62 + 127].all (fun sel =>
      let s := two 0x4000 sel; (s.x 5).toNat % 64 == 0 && (s.record sel).isNone),
    (let s := (two 0x4000 0).modSlot 0 (fun t => { t with trapRec := some rec0 });
      (s.record 0).any (fun ws => isOk (s.writeArea (s.x 5) (fun _ => false) 0 ws)))].all id = true := by decide +kernel

/-- A READY slot whose context is saved. -/
theorem witness_PrivilegedWords_save :
    (let s := beside (fun t => { t with st := .ready, origin := some 0x4000 });
      let d := (s.drain 1).settleFar 1;
      (d.slot 1).gang.isNone && (d.slot 1).held == [] && !(d.slot 1).needsPark && !d.farPending 1
        && isOk (d.saveTo 1 (s.x 5))) = true := by decide +kernel

/-- An area at 0x4000 on a page at hand, with slot 1 named, can be read. -/
def withArea (b : Nat) : State := put (page (thr (xs [(5, 0x4000), (6, 1)])) (fun e => { e with size := 13 })) 0x4000 32 b
def readsArea (b : Nat) : Bool :=
  let s := withArea b
  s.otherSlot (s.x 5) (s.x 6) == some 1 && (s.slot 1).st == .free && okAnd (s.loadBlock (s.x 5) 2048) (fun q => q.2 == b)

/-- An area that loads. -/
theorem witness_PrivilegedWords_load : [areaOk area1 false, readsArea area1].all id = true := by decide +kernel

/-- An area with no magic number. -/
theorem witness_PrivilegedWords_noArea : [!areaOk 0 false, readsArea 0].all id = true := by decide +kernel

def op0 (act : Nat) : RgnOp :=
  { rgn := 0, act := act, image := 0x4000, deadline := 0, fold := 1, who := some (0, 0), rights := 0xA000, sched := false, area := none,
    froze := false }

/-- Region 0 in a state, with one frame or none, and a request on it; its function is one element of no instruction, with two
foldings. -/
def elem0 : NodeRec := { callNode 0 with id := 0, kind := 0, params := [], raw := List.replicate 32 0 }
def requested (act : Nat) (st : RgnSt) (fst : FSt) : State :=
  let s := put (mapped mach 0) 0x200 64 (blk [(0, descMagic), (8, 1), (0x10, 0x300), (0x18, 0x400)])
  let fold (t : State) (a size : Nat) : State :=
    put t a 72 (blk [(0, foldMagic), (8, 0x200), (0x10, size), (0x11, 1), (0x12, 1), (0x13, 1), (0x14, 1)])
  let r := rgn0 [elem0] fst .none none [] []
  { fold (fold s 0x300 0) 0x400 1 with
    site := ⟨0, 0, 0⟩, rgnOps := [op0 act], regions := [{ r with st := st, place := 1, sig := signature [elem0] }] }

/-- Requests of every action on a region in each state that an arm names: a resume, a scan-out, a restore of no image, a
shrink in progress, a drain; a quantum with no rival. -/
theorem witness_RegionRequests : [
    [RgnSt.frozen, .running].all (fun st =>
      let s := requested 1 st .running;
      s.opFor s.site.rgn 1 == some (op0 1) && (s.region 0).any (fun r => r.st == st && !(op0 1).sched)),
    [RgnSt.running, .frozen].all (fun st =>
      let s := requested 2 st .running;
      s.opFor s.site.rgn 2 == some (op0 2) && (s.region 0).any (fun r => r.st == st && !r.unsettled)),
    (let o : RgnOp := { op0 3 with image := BitVec.ofNat 64 (2 ^ 40) };
      let s : State := { requested 3 .running .running with rgnOps := [o] };
      s.opFor s.site.rgn 3 == some o && (s.restoreAt o.view o.image o.rgn).isNone),
    (let s := requested 0 .shrinking .running;
      s.opFor s.site.rgn 0 == some (op0 0) && (s.region 0).any (fun r => r.st == .shrinking && r.loadEnd ≤ s.cycle)),
    [RgnSt.running, .frozen, .draining].all (fun st =>
      let s := requested 4 st .running;
      s.opFor s.site.rgn 4 == some (op0 4) && (s.region 0).any (fun r => r.st == st)),
    (let s := requested 4 .draining .free;
      let t := s.modRegion 0 (fun r => { r with rounds := 2 });
      (t.region 0).any (fun r => r.vacant && 2 ≤ r.rounds)),
    (let s : State := { requested 4 .running .running with rgnOps := [] };
      let t := s.modDie 0 (fun d => { d with rquant := BitVec.ofNat 64 (2 ^ 63) });
      (t.region t.site.rgn).any (fun r => bitW (t.die r.die).rquant 63 && (t.die r.die).rquant.toNat % 2 ^ 40 ≤ r.quantum
        && r.live != []) && t.rgnOps == [] && t.queued == [])].all id = true := by decide +kernel

/-- An image that is restored. -/
theorem witness_RegionRequests_restore :
    (let s := requested 3 .running .free;
      let o := { op0 3 with sched := true };
      (s.region 0).any (fun r =>
        let t : State := { put s 0x4000 256 (packElems 64 r.imageWords) with
          rgnOps := [o], regions := [], scanned := [{ r with st := .scanned, home := 0x4000 }] };
        t.opFor t.site.rgn 3 == some o && (t.restoreAt o.view o.image o.rgn).isSome)) = true := by decide +kernel

/-- A region at a shrink point of a smaller folding. -/
theorem witness_RegionRequests_shrink :
    (let s := requested 0 .running .running;
      (s.region 0).any (fun r => r.st == .running && (op0 0).deadline ≤ s.cycle && !(op0 0).sched
        && s.unchanged r && (s.smaller r (op0 0).fold).any (fun p => r.atShrinkPoint (s.carryPoints r.die p.2)))) = true := by decide +kernel

def waits (k : WaitKind) (e : Expiry) : State := thr (fun t => { t with wait := some ⟨k, some 0, 0, e, none, none⟩ })
/-- A posted store of thread 0. -/
def posts (far : Option (Nat × Nat)) (r : Option Reply) : State :=
  mapped (thr (fun t => { t with posted := [⟨0x1000, 8, 7, r, far, false, 0, 0xA000⟩] })) 0

/-- A message for thread 0; an aging thread; limits reached, for a result register, a full-empty word and a pin directory;
the two interrupts; a fabric trap to deliver; a user interrupt; a store's request, failing reply and lost acknowledgement; a
quantum with no successor; a parked context; an invalidation. -/
theorem witness_ThreadSteps : [
    (let s : State := { mach with arrivals := [(0, 0, note)] };
      s.arrivals.find? (fun b => s.mailAt (b.1, b.2.1) == s.cur) == some (0, 0, note) && s.locOf (0, 0) == some 0 && !note.isReturn),
    (let s := thr (fun t => { t with issWait := 60 }); s.me.st == .ready && 60 ≤ s.me.issWait && !s.starved s.cur),
    (let s := (waits .reserve { xs := [(4, Status.timeout.word)] }).modSlot 0 (fun t => { t with ibReserved := 16 });
      s.me.inboxFull && s.rgnOps == [] && s.invs == [] && s.feq == [] && s.slots.all (fun p => p.2.st != .member)),
    !(waits .reserve {}).me.inboxFull,
    (let s := (waits .inbox {}).modSlot 0 (fun t => { t with inbox := [note] });
      s.me.wait == some ⟨.inbox, some 0, 0, {}, none, none⟩ && s.me.gang.isNone && s.me.mail != []),
    (let s : State := { waits .fe {} with feq := [⟨0, 0, true, false, 0, 4⟩] }; s.feq.any (fun q => q.loc == s.cur)),
    (waits .pinDir {}).me.wait == some ⟨.pinDir, some 0, 0, {}, none, none⟩,
    [5, 9].all (fun code =>
      let s : State := { thr (fun t => { t with rv := { t.rv with mie := BitVec.ofNat 64 (2 ^ code), mstatus := 8 } }) with sub := 1 };
      s.me.st == .ready && s.me.interruptEnabled code && s.me.gang.isNone && s.me.wait.isNone),
    (let s := (thr (fun t => { t with rv := { t.rv with mie := BitVec.ofNat 64 (2 ^ 16), mstatus := 8 } })).modDie 0
        (fun d => { d with ftsvc := BitVec.ofNat 64 (2 ^ 63), ftPending := [3, 1] });
      s.dies.any (fun d => bitW d.2.ftsvc 63 && d.2.ftsvc.toNat % 2 ^ 21 == (s.locid s.cur).toNat && d.2.ftPending == [3, 1])
        && s.ftFor s.cur == [3, 1] && s.me.interruptEnabled 16
        && s.me.st == .ready && s.me.gang.isNone && s.me.wait.isNone),
    (let u := { mach.me.u with uivec := code 4 0x100, uimask := 4, uiEnable := true };
      let s := lpadAt (thr (fun t => { t with priv := .u, inbox := [note], uiFresh := 1, u := u })) 0x100 4;
      s.me.st == .ready && s.me.gang.isNone && s.me.wait.isNone && s.me.uiPending && !s.me.u.uiActive && !s.me.u.emustat && s.me.pc != exitAddr
        && (let p := s.padAt s.cur s.me.u.uivec 4; p.2.isNone && p.1.me == s.me && p.1.cur == s.cur)),
    (let s := posts none none;
      (s.me.posted[s.sub]?).any (fun p => p.far.isNone && p.reply.isNone && isOk (s.lookup { s.viewOf s.cur with rights := p.rights } p.addr.toNat))),
    (posts none (some (.fail 7))).me.posted.all (fun p => p.far.isNone && p.reply == some (.fail 7)),
    (let s := posts (some (3, 0)) none;
      s.me.posted.all (fun p => p.far.any (fun f => f.2 ≤ s.cycle && (s.replyOf f.1).isNone))),
    (let s := thr (fun t => { t with sc := { t.sc with quantum := BitVec.ofNat 64 (2 ^ 63) }, quantumUsed := 5024 });
      s.me.posted == [] && s.me.held == [] && s.me.gang.isNone && s.me.st == .ready && bitW s.me.sc.quantum 63 && s.me.quantumEff ≤ s.me.quantumUsed
        && !bitW s.me.sc.quantum 61 && maskW s.me.sc.thnext 63 12 == 0),
    (let s0 := mapped (thr (fun t => { t with parked := [⟨0, 7, 0x4000⟩] })) 0;
      let s : State := { s0 with parkedMsgs := [(0, 7, note)], away := [⟨0, 0x4000, { s0.me with ctx := 7 }⟩] };
      s.parkedMsgs.find? (fun x => s.mailAt (x.1, x.2.1) == s.cur) == some (0, 7, note)
        && s.me.parked.find? (fun q => (q.home, q.ctx) == (0, 7)) == some ⟨0, 7, 0x4000⟩
        && (s.awayOf (0, 7)).any (fun w =>
          isOk (s.appendMsg { s.engineView s.cur (0, 7) w.slot.sc.pdrights with plb := none } (s.agentFor s.cur (0, 7)) 0x4000
            { note with seq := w.slot.ibSeq }))),
    [0, 9].all (fun l =>
      let s : State := { waits .plbInv { xs := [(4, Status.timeout.word)] } with invs := [⟨some (l, 0), 2, false, 0⟩] };
      s.locOf (l, 0) == (if l == 0 then some 0 else none)
        && (s.slot 0).wait == some ⟨.plbInv, some 0, 0, { xs := [(4, Status.timeout.word)] }, none, none⟩)
  ].all id = true := by decide +kernel

/-- A copy command of thread 0 whose rights table stands at an address. -/
def copies (run : Bool) (done : Nat) (rights : Word) : State :=
  (mapped mach 0).modCore 0 (fun c =>
    { c with copyRun := run, copyDone := done, copyQ := [⟨BitVec.ofNat 1024 twoBytes, false, 7, 0, 0, 0, rights⟩] })
where twoBytes : Nat := blk [(0, 0x1000), (8, 0x2000), (0x10, 2), (0x14, 1), (0x18, 1), (0x1C, 1)]

/-- Kiln 0 of die 0 running a job of one region. -/
def kilnRun (f : Kiln → Kiln) : State :=
  (mapped mach 0).modDie 0 (fun d => { d with kiln0 := f { d.kiln0 with
    running := true, rights := 0xA000, job := BitVec.ofNat 512 (blk [(0, 0x5000), (8, 1), (0x28, 0x5100)]) } })

def mxCmd (form : MxForm) (b : Nat) : MxCmd :=
  { form := form, blk := BitVec.ofNat 512 b, fmt := 0, scale := 0, zero := 0, who := .thread 0 0 0 7, limit := 5, rights := 0xA000 }
def tileB : Nat :=
  blk [(0, spad 0), (8, spad 0x1000), (0x10, 0x3000), (0x18, 0x4000), (0x20, 64), (0x24, 4), (0x28, 1), (0x2C, 1)]
def sortB : Nat := blk [(0, 0x1000), (8, 0x2000), (0x10, 0x3000), (0x18, 1)]
def mxRun (c : MxCmd) (step : Nat) (w : Option Nat) : State :=
  (mapped mach 0).modClu 0 (fun k => { k with run := some c, step := step, waitFrom := w,
                                              planes := (mapped mach 0).mxPlanes 0 c })

def subOf (st : SubSt) (snap : Option (List Byte)) (opened : Option Packet) (sent : List Packet) : Sub :=
  { st := st, owner := 0, ctx := 0, tag := 7, pubCore := 1, pubIdx := 0, src := 0, dst := 0x40, len := 64, snap := snap,
    opened := opened, sent := sent, ended := false, applied := 0 }
def pkt (mask : BitVec 64) : Packet := ⟨0, mask, 5, 0, []⟩
def subbed (b : Sub) : State := { mach.setSub 0 0 b with cycle := 64 }

/-- A copy that starts, completes and faults; a Kiln that checks, is through, moves, meets a fault and reports; a matrix unit that
takes a command, completes, waits, sorts and meets a parity error; a subscription's copy, packets and end; a scratchpad saved and
restored. -/
theorem witness_EngineSteps : [
    (let c := (copies false 0 0).core 0; !c.copyRun && c.copyQ.length == 1),
    [(0, (0xA000 : Word)), (1, 0xA000), (0, 0xB000)].all (fun q =>
      let s := copies true q.1 q.2;
      (s.core 0).copyRun && (s.core 0).copyQ.all (fun c => decide (q.1 + c.per < c.elems) == (q.1 == 0)
        && isOk (s.copyFrom c q.1) == (q.2 == 0xA000))),
    [false, true].all (fun c =>
      let k := (kilnRun (fun k => { k with checked := c, region := 1 })).kiln 0 0;
      k.running && k.cur.isNone && k.status.isNone && k.checked == c && k.count ≤ k.region),
    [(0xA000 : Word), 0xB000].all (fun a =>
      let s := kilnRun (fun k => { k with cur := some (0x1000, 0x2000, 32), rights := a });
      let k := s.kiln 0 0;
      k.cur == some (0x1000, 0x2000, 32) && (s.kilnCopied k 0x1000 0x2000 32).isSome == (a == 0xA000)),
    (let k := (kilnRun (fun k => { k with status := some 0 })).kiln 0 0; k.running && k.status == some 0),
    [mxCmd .sort sortB, mxCmd .tile tileB].all (fun m =>
      let s := (mapped mach 0).modCore 0 (fun c => { c with mxQ := [m] });
      (s.clu 0).run.isNone && (s.mxPick 0).any (fun p => (s.mxQueue 0 p.1).any (fun c =>
        c == m && (!c.isTile || (s.mxRights 0 c).isNone)))),
    [0, 1].all (fun n =>
      let s := mxRun (mxCmd .tile tileB) n none;
      let k := s.clu 0;
      k.run.any (fun c => c.isTile && ((TileBlk.of c.blk.toNat).m ≤ k.step) == (n == 1)
        && (n == 1 || !(s.mxTile c 0 k.planes).waits s k.step && isOk ((s.mxTile c 0 k.planes).vector s k.step)))),
    (let s : State := { mxRun (mxCmd .tile (tileB + spad 0x800 * 2 ^ (8 * 0x30))) 0 (some 0) with cycle := 5 };
      (s.clu 0).run.any (fun c => c.isTile && (s.mxTile c 0 (s.clu 0).planes).waits s 0 && 0 + c.limit ≤ s.cycle)),
    [0, 1].all (fun n =>
      let s := mxRun (mxCmd .sort sortB) n none;
      (s.clu 0).run.any (fun c => let b := SortBlk.of c.blk.toNat;
        !c.isTile && (b.segments ≤ n) == (n == 1)
          && (n == 1 || isOk (s.sortSegment (s.mxView c 0) (s.mxAgent c 0) b (c.form == .topk) n)))),
    (let k := (mxRun (mxCmd .tile tileB) 0 none).clu 0;
      k.run.any (fun c => c.isTile && k.step < (TileBlk.of c.blk.toNat).m) && k.parity != some k.step),
    (let b := subOf .syncing (some (List.replicate 64 0)) none [];
      (subbed b).subAt 0 0 == some b && b.snap.any (fun l => l.length == b.len) && b.st == .syncing && b.src % 64 == 0 && b.len % 64 == 0),
    [pkt (BitVec.allOnes 64), pkt 1].all (fun p =>
      let b := subOf .active none (some p) [];
      let s := subbed b; s.subAt 0 0 == some b && (p.full == (p.mask != 1)) && p.opened + 64 ≤ s.cycle),
    (let b := subOf .active none none [pkt 1]; (subbed b).subAt 0 0 == some b && b.snap.isNone && b.sent.length == 1),
    (let b := subOf .draining none none []; (subbed b).subAt 0 0 == some b && b.st == .draining && b.opened.isNone && b.sent == []),
    [(1 : BitVec 2), 2].all (fun n =>
      let s := mach.modCore 0 (fun c => { c with spCmd := some n }); (s.core 0).spCmd == some n && (s.locOf (s.core 0).spOwner).all (fun l => (s.slot l).wait.isNone))
  ].all id = true := by decide +kernel

/-- A Kiln's job over memory whose pages are managed, with an object's header at 0x100; `b` is its bitmap's first byte. -/
def kilnOver (flags pin rights fwd b : Nat) : State :=
  let s0 := put (put (mapped mach 128) 0x100 16 (Header.mk 64 9 pin flags).nat) 0xA000 1 rights
  ((put (put s0 0x5000 8 0x100000) 0x5200 1 b).modDie 0 (fun d => { d with fwdtab := BitVec.ofNat 64 fwd, kiln0 := { d.kiln0 with
    running := true, checked := true, rights := 0xA000, d := 0x2000, job := BitVec.ofNat 512
      (blk [(0, 0x5000), (8, 1), (0x10, 0x5200), (0x18, 0x2000), (0x20, 0x3000), (0x28, 0x5100)]) } }))

/-- A region with and without a live object; an object that cannot be read, one of another state, a pinned one, one that cannot be
written, one beyond the arena, one with no free entry, and one that is installed. -/
theorem witness_EngineSteps_kiln : [
    [0, 1].all (fun b =>
      let s := kilnOver 0 0 0xFF 0 b;
      let k := s.kiln s.cur s.sub;
      k.running && k.cur.isNone && k.status.isNone && k.checked && k.region < k.count && (s.regionEntry k k.region).any (fun q =>
        okAnd (q.1.nextLive k k.bitBase (4 ^ q.2.2 * 256 - k.bit) k.bit) (fun o => o.2 == (if b == 1 then some 0 else none)))),
    (let s := kilnOver 0 0 0 0 1; (s.kilnPage (s.kiln 0 0) 1 0x100).isNone),
    [(4, 0, 0xFF), (0, 1, 0xFF), (0, 0, 1), (0, 0, 0xFF)].all (fun p =>
      let s := kilnOver p.1 p.2.1 p.2.2 0x1000A 1;
      let k := s.kiln 0 0;
      (s.kilnPage k 1 0x100).any (fun e =>
        let o := s.header e 0x100;
        (o.flags / 4 != 0) == (p.1 == 4) && o.state == 0 && o.size ≤ maxBody && (o.pin != 0) == (p.2.1 == 1)
          && granted e.rights 3 == (p.2.2 == 0xFF) && k.d.toNat + footprint (classOf o.size) ≤ k.stop
          && !e.repl && s.mem.wf && (s.freeFwd e.home 0x100).any (fun q => e.at 0x100 + 16 ≤ q || q + 32 ≤ e.at 0x100))),
    (let s := kilnOver 0 0 0xFF 0 1;
      let k : Kiln := { s.kiln 0 0 with d := 0x3000 };
      (s.kilnPage k 1 0x100).any (fun e => let o := s.header e 0x100;
        o.state == 0 && o.pin == 0 && granted e.rights 3 && k.stop < k.d.toNat + footprint (classOf o.size)
          && (s.freeFwd e.home 0x100).isNone))].all id = true := by decide +kernel

/-- A write to another package that has failed, that waits, and whose answer has come. -/
def farWrites (s : State) (deadline : Nat) (answered : Bool) : State :=
  { s with cycle := 9, farOut := if answered then [] else [⟨5, 0, 0x1000, deadline⟩] }

/-- A copy, a tile and a sort that have written to another package: all acknowledged, and one that failed. -/
theorem witness_EngineSteps_far : [
    [true, false].all (fun a =>
      let s := farWrites ((copies true 2 0xA000).modCore 0 (fun c => { c with copyFar := [5] })) 9 a;
      (s.farFailed (s.core 0).copyFar).isSome == !a && (!a || !s.unacked (s.core 0).copyFar)
        && (s.core 0).copyRun && (s.core 0).copyQ.all (fun q => q.elems ≤ (s.core 0).copyDone)),
    [mxCmd .tile tileB, mxCmd .sort sortB].all (fun m => [true, false].all (fun a =>
      let s := farWrites ((mxRun m 0 none).modClu 0 (fun k => { k with far := [5] })) 9 a;
      (s.clu 0).run == some m && (s.clu 0).far != [] && (s.farFailed (s.clu 0).far).isSome == !a && (!a || !s.unacked (s.clu 0).far)))
  ].all id = true := by decide +kernel

end Sys2Proof.Tests
end

