-- ==== Sys2Proof/Tests/WitnessUnits.lean ====
section
/-! SUPPORT. Witnesses: for each statement about launches, the Imposer, the host port, Colophon and whole steps, a state and
operands that meet the hypotheses of each of its clauses together. -/

namespace Sys2Proof.Tests

-- One theorem at a time: each is a kernel computation, and many at once hold a thread each.
set_option Elab.async false

open Sys2Proof.Machine

/-- A code object at 0x16000 in the directory of die 0 under hash 9: one allocated section of 4 KiB at 0x10000, and the profile
TB-G revision 1. What else lies in memory stands at 0x10000 to 0x15FFF. -/
def codeMem (mid : List (Nat × Nat × Nat)) : Memory :=
  image ([(0, 4, 0x13), (0x8000, 2, 0x8801), (0x8800, 1, 25), (0xA000, 1, 0xFF)] ++ mid ++
    [(0x16000, 4, 0x464C457F), (0x16004, 2, 0x102), (0x16010, 4, 0xB9D40002), (0x16028, 1, 64), (0x1603A, 1, 64), (0x1603C, 1, 2),
     (0x16044, 1, 1), (0x16048, 1, 2), (0x16050, 4, 0x10000), (0x16060, 2, 0x1000),
     (0x16084, 4, sectProf), (0x16098, 2, 0x100), (0x160A0, 1, 8), (0x16100, 8, 3 * 2 ^ 48 + 2 ^ 32),
     (0x17000, 1, 1), (0x17040, 1, 9), (0x17048, 3, 0x16000)])
def coded (s : State) (mid : List (Nat × Nat × Nat)) : State :=
  { s.modDie 0 (fun d => { d with codir := 0x17000 }) with mem := codeMem mid }

/-- A launch block at 0x10200 that x5 names: an entry, N units, start tick, in the first cluster. -/
def blockOf (e : Word) (n : Nat) : Nat := blk [(0, e.toNat), (8, n), (0x18, 1), (0x34, 7)]
def blockMem (e : Word) (n t : Nat) : List (Nat × Nat × Nat) :=
  [(0x10200, 8, e.toNat), (0x10208, 4, n), (0x10218, 1, 1), (0x10228, 8, t), (0x10234, 1, 7)]
def padMem : List (Nat × Nat × Nat) := [(0x10100, 4, 0x10000B)]
def launcher (mid : List (Nat × Nat × Nat)) : State := coded (mapped (thr (xs [(5, 0x10200)])) 0) mid
def entryP : Word := code 1 0x10100
/-- A graph entry at 0x10300. -/
def graphP : Word := BitVec.ofNat 64 (2 ^ 63 + 2 ^ 59 + 0x10300)

/-- The words of a launch are read, and it passes the checks. -/
def passes (s : State) (rd : Word) (b : Nat) (p : State → LBlock → Bool) : Bool :=
  (s.x 5).toNat % 64 == 0 && okAnd s.syncGate (fun s0 => s0.me.refHeld == [] && okAnd (s0.reserve { xs := [(4, rd)] }) (fun s1 =>
    okAnd (s1.readBlock (s.x 5) 8) (fun q => q.2 == b && isOk (q.1.check15 (LBlock.of b) (s.me.sc.lnchlim.zeroExtend 64))
      && isOk (q.1.release .pkg) && p q.1 (LBlock.of b))))

/-- A launch that passes. -/
theorem witness_LaunchWords_ok : passes (launcher (padMem ++ blockMem entryP 1 0)) Status.timeout.word (blockOf entryP 1)
    (fun u b => (u.check67 b).isNone) = true := by decide +kernel

/-- A launch with no unit. -/
theorem witness_LaunchWords_empty : passes (launcher (padMem ++ blockMem entryP 0 0)) Status.timeout.word (blockOf entryP 0)
    (fun u b => u.check67 b == some .empty) = true := by decide +kernel

/-- A launch of a graph function with a FREE dependence entry. -/
theorem witness_LaunchWords_graph : passes (launcher (blockMem graphP 1 0 ++ [(0x10300, 8, descMagic)])) Status.timeout.handle
    (blockOf graphP 1)
    (fun u b => ptrE b.entry && u.freeDep (dieOf u.cur) == some 0) = true := by decide +kernel

/-- Entry `i` of die 0's dependence table changed. -/
def depped (f0 f1 : Dep → Dep) : State :=
  (mach.setDep 0 0 (f0 { Dep.reset with st := .open_ })).setDep 0 1 (f1 { Dep.reset with st := .waiting })
def handles (p h : Nat) (s : State) : State := s.modSlot 0 (xs [(5, BitVec.ofNat 64 p), (6, BitVec.ofNat 64 h)])

/-- A block out of alignment; a launch refused for its fields, and one whose tick is over; handles with a status, stale, of an entry that is not OPEN, and of an OPEN one with
and without predecessors; predecessors that are stale and live. -/
theorem witness_LaunchWords : [
    (let s := thr (xs [(5, 0x204)]); isOk s.syncGate && (s.x 5).toNat % 64 != 0),
    (let s := launcher [];
      !LBlock.ok13 (LBlock.of 0) (s.me.sc.lnchlim.zeroExtend 64) && (s.x 5).toNat % 64 == 0
        && okAnd s.syncGate (fun s0 => s0.me.refHeld == [] && okAnd (s0.reserve { xs := [(4, Status.timeout.word)] }) (fun s1 =>
          okAnd (s1.readBlock (s.x 5) 8) (fun q => q.2 == 0
            && !isOk (q.1.check15 (LBlock.of 0) (s.me.sc.lnchlim.zeroExtend 64)))))),
    (let b : LBlock := { LBlock.zero with n := 1, tick := 1 };
      let s : State := { mach with tick := 1 };
      b.n != 0 && b.tick != 0 && b.tick.toNat ≤ s.tick.toNat),
    [2 ^ 56, 2 ^ 40, 1].all (fun h =>
      let s := handles 0 h (depped id id);
      handleSt (s.x 6) != 0 || s.stale (s.x 6) || (s.named (s.x 6)).st != .open_),
    [0, 1].all (fun c =>
      let s := handles 0 0 (depped (fun e => { e with count := c }) id);
      let e := s.named (s.x 6);
      handleSt (s.x 6) == 0 && !s.stale (s.x 6) && e.st == .open_ && e.rights == s.me.sc.pdrights && e.count == c),
    [2 ^ 40 + 1, 1].all (fun p =>
      let s := handles p 0 (depped (fun e => { e with count := 254 }) (fun d => { d with succ := List.replicate 15 (9, 0) }));
      let e := s.named (s.x 6);
      let d := s.named (s.x 5);
      e.st == .open_ && e.rights == s.me.sc.pdrights && handleSt (s.x 5) == 0 && s.x 5 != s.x 6 && s.stale (s.x 5) == (p != 1)
        && d.rights == s.me.sc.pdrights && d.st != .free && d.st != .open_ && d.succ.length < 16 && e.count < 255)
  ].all id = true := by decide +kernel

/-- A job of one unit of a control-flow entry in the first cluster. -/
def job1 : Job :=
  { job0 with block := { LBlock.zero with entry := entryP, n := 1, place := 1 }, pool := [], poolLeft := 0 }
def jobbed (j : Job) : State :=
  { (lpadAt (mapped mach 0) 0x10100 1).modSlot 1 (fun t => { t with sc := { t.sc with pdrights := 0xA000 } }) with jobs := [j] }
def ganged (go : Option Bool) (ms : List Nat) : Job := { job1 with held := true, gang := some ⟨ms, go, false⟩ }

/-- A unit to bind whose pad passes and fails; a pool to fill; held jobs whose tick has come; a gang to decide, to start and with no
decision; a launch that waited too long; a DONE entry; a thread at the exit address; a complete job. -/
theorem witness_JobSteps : [
    [entryP, code 1 0x10104].all (fun e =>
      let j := { job1 with block := { job1.block with entry := e } };
      let s := jobbed j;
      s.jobs[s.sub]? == some j && j.wantsSlot && (match s.freeFor j with
        | [] => false
        | l :: _ => ((s.modSlot l (fun t =>
            { ((((t.bound j j.next).wx 1 exitAddr).wx 10 j.block.args).wx 11 (BitVec.ofNat 64 j.block.n.toNat)) with
              pc := ptrAddr j.block.entry })).padAt l j.block.entry 1).2.isNone == (e == entryP))),
    (let j := { job1 with poolLeft := 1 };
      j.wantsPool && ((jobbed j).freeFor j).getLast?.isSome),
    (let j := { job1 with held := true };
      let s := jobbed j;
      j.gang.isNone && j.block.tick.toNat ≤ s.tick.toNat && s.job j.id == some j && j.final.isNone && !ptrE j.block.entry
        && j.block.pool.toNat < j.block.slots.length),
    (let j := ganged none [0, 1];
      let s := jobbed j;
      s.pod == [] && j.final.isNone && gangHead [0, 1] == s.pkg.toNat && j.gangId.2.1.toNat ≤ s.tick.toNat + 5000),
    [some true, none].all (fun go =>
      let j := ganged go [1, 2]; (jobbed j).pod == [] && j.held && j.final.isNone && gangHead [1, 2] != (jobbed j).pkg.toNat && j.block.tick.toNat ≤ (jobbed j).tick.toNat
        && j.gang.any (fun g => g.go == go)),
    (let s : State := { jobbed job1 with cur := 1, tick := BitVec.ofNat 64 (2 ^ 63) };
      !job1.held && job1.final.isNone && job1.rest.isNone && job1.next < job1.block.n.toNat
        && s.launchOver (placeDie job1.block.place) (max job1.submitted.toNat job1.block.tick.toNat)),
    (let s := mach.setDep 0 0 { Dep.reset with st := .done }; (s.dep s.cur s.sub).st == .done && (s.dep s.cur s.sub).succ == []),
    (let s := thr (fun t => { t with pc := exitAddr });
      s.me.pc == exitAddr && s.me.st == .ready && s.me.gang.isNone && s.me.posted == [] && s.me.refHeld == [] && s.me.poolOf.isNone
        && s.cores.all (fun c => c.2.subs == []) && !s.commandsOut s.tid && s.farTo == []),
    (let j := { job1 with next := 1, ended := [(0, 0)] }; j.complete && j.src == .thread 0 0 0 && j.pool == [])
  ].all id = true := by decide +kernel

/-- What the configuration is placed for: its start tick has come, and its rights hold GraphCfg. -/
def granted (s : State) (q : Queued) : Bool :=
  s.queued.find? (fun x => !x.tried && s.timely x) == some q && q.who.launches && s.mayUse (placeDie q.place) q.desc.toNat q.rights

/-- A configuration that waits for port 0, its function at 0x10200 with its full folding at 0x10300. -/
def queued0 : Queued :=
  { who := .stream 0, desc := 0x10200, code := 0x16000, hash := 9, place := 1, prio := 0, rights := 0xA000, race := false, tried := false }
def graphMem : List (Nat × Nat × Nat) :=
  [(0x10200, 8, descMagic), (0x10208, 1, 1), (0x10210, 3, 0x10300), (0x10300, 8, foldMagic), (0x10308, 3, 0x10200), (0x10311, 3, 0x10101),
   (0x10314, 1, 1)]
def configs (tried busy : Bool) : State :=
  { coded (mapped mach 0) graphMem with queued := [{ queued0 with tried := tried }],
                                        regions := if busy then [rgn0 [elem0] .running .none none [] []] else [] }
def checked (s : State) (p : Checked → Bool) : Bool := (s.checkConfig 0 0x16000 0x10200 0xA000 false).any p

/-- A configuration that is placed. -/
theorem witness_ImposerSteps_place :
    (let s := configs false false;
      granted s queued0 && s.wantsRegion queued0
        && checked s (fun c => (s.findPlace c 1).isSome && c.clash == [])) = true := by decide +kernel

/-- A configuration that is kept until a busy region makes room, and one that could never fit. -/
theorem witness_ImposerSteps_wait :
    (let s := configs false true;
      granted s queued0 && s.wantsRegion queued0 && checked s (fun c => (s.findPlace c 1).isNone && c.everFits 1 && !c.everFits 0)) = true := by
  decide +kernel

/-- A retry with a place. -/
theorem witness_ImposerSteps_retry :
    (let s := configs true false;
      s.queueOrder == [{ queued0 with tried := true }] && s.timely queued0 && s.wantsRegion { queued0 with tried := true } && checked s (fun c => (s.findPlace c 1).isSome)) = true := by decide +kernel

def inState (st : RgnSt) (reloads : Nat) (sig : Word) : State :=
  inRgn1 (requested 1 st .free) (fun r => { r with reloads := reloads, sig := sig })
where inRgn1 (s : State) (f : Region → Region) : State := s.modRegion 0 f

/-- One whose function is resident; one whose rights lack GraphCfg; one whose stream starts later. -/
theorem witness_ImposerSteps_rights : [
    (let s0 := configs false true;
      let s : State := { s0 with regions := s0.regions.map (fun r => { r with desc := 0x10200, hash := 9 }) };
      granted s queued0 && !s.wantsRegion queued0),
    (let q := { queued0 with rights := 0xB000 };
      let s : State := { configs false false with queued := [q] };
      s.queued.find? (fun x => !x.tried && s.timely x) == some q && q.who.launches && !s.mayUse (placeDie q.place) q.desc.toNat q.rights),
    (let s := (configs false false).modPort 0 (fun p =>
        { p with buf := [streamOf 5 (List.replicate 64 0 ++ natBytes 64 (blk [(0x28, 9)])) 0] });
      (s.port 0).buf.any (fun x => s.tick.toNat < x.block.tick.toNat) && !s.timely queued0)].all id = true := by decide +kernel

/-- A configuration that is refused; an empty queue; a load that is complete; a region that is scrubbed, struck, and reloaded with the right and a wrong signature. -/
theorem witness_ImposerSteps : [
    (let s : State := { mapped mach 0 with queued := [queued0] };
      granted s queued0 && s.wantsRegion queued0 && !checked s (fun _ => true)),
    mach.queueOrder == [],
    ((inState .loading 0 0).region 0).any (fun r => r.st == .loading && r.reloads == 0),
    [RgnSt.running, .frozen].all (fun st => ((inState st 0 0).region 0).any (fun r => r.st == st && (((inState st 0 0).die r.die).correctedOf r.num).toNat + 1 < 2 ^ 32)),
    [0, 1].all (fun x =>
      let s := inState .loading 1 (signature [elem0] ^^^ BitVec.ofNat 64 x);
      (s.region 0).any (fun r => r.st == .loading && r.reloads != 0 && r.loadEnd ≤ s.cycle && r.reloads < 2 && r.live == []
        && (s.reread r).any (fun ns => (signature ns == r.sig) == (x == 0))))].all id = true := by decide +kernel

/-- Queue pair 5, connected, with a key for the first page. -/
def qp5 (f : Qp → Qp) : State :=
  (mapped mach 0).modQp 5 (fun q => f { q with connected := true, keys := [⟨3, 0, 0x1000, 0, true, true⟩] })
/-- The bytes of a stream with a launch of an entry. -/
def streamBytes (e : Word) : List Byte :=
  natBytes 8 1 ++ natBytes 8 9 ++ List.replicate 48 0 ++ natBytes 64 (blk [(0, e.toNat), (8, 1), (0x18, 1)])
def buffered (s : State) (n : Nat) (e : Word) : State :=
  s.modPort 0 (fun p => { p with buf := List.replicate n (streamOf 5 (streamBytes e) 0) })

/-- The head stream of port 0 has a code object that holds its entry. -/
def headOf (e : Word) (mid : List (Nat × Nat × Nat)) : Bool :=
  let s := buffered (coded (qp5 id) mid) 1 e
  (s.port 0).buf.any (fun x => !x.checked && s.dirFind 0 x.hash == some 0x16000 && placeDie x.block.place == 0 && !s.dirBad 0
    && x.block.ok13 (s.port 0).limit && x.block.entry == e && (s.check67 x.block).isNone && s.queued == []
    && (s.codeObj 0 0x16000).any (fun c => c.holds (ptrAddr x.block.entry).toNat
      && (ptrE e || (s.ok45 0 c x.block).isSome) && !s.residentCfg (ptrAddr x.block.entry) x.hash))

/-- A head stream of threads. -/
theorem witness_HostPortSteps_threads : headOf entryP padMem = true := by decide +kernel

/-- A head stream that a port may not launch. -/
theorem witness_HostPortSteps_range :
    (let s := (buffered (coded (qp5 id) []) 1 entryP).modPort 0 (fun p => { p with limit := 0 })
     (s.port 0).buf.any (fun x => !x.checked && s.recordRoom x.qp && s.dirFind 0 x.hash == some 0x16000
       && placeDie x.block.place == 0 && !s.dirBad 0 && !x.block.ok13 (s.port 0).limit)) = true := by decide +kernel

/-- A head stream of a graph. -/
theorem witness_HostPortSteps_graph : headOf graphP [(0x10300, 8, descMagic)] = true := by decide +kernel

/-- A port that is down, a queue pair in error and one up; connections with room; keys that hold and do not hold an access; writes
that are no stream, held back by records, by tokens, and buffered; a head stream with no code object; a record to send. -/
theorem witness_HostPortSteps : [
    { mach with col := { mach.col with power := .standby } }.col.power != .running,
    ((qp5 (fun q => { q with error := true })).qp 5).error,
    (let s := qp5 id; s.col.power == .running && s.qpUp 5 && rcNumber 5 && rcNumber 2
      && s.qps.countP (fun q => q.1 != 5 && q.1 != mgmtQp && (q.2.connected || q.2.asked)) < 1023),
    (let s : State := { mach with qps := (List.range 1023).map (fun k => (k + 6, { Qp.reset with connected := true })) };
      s.col.power == .running && rcNumber 5 && 1023 ≤ s.qps.countP (fun q => q.1 != 5 && q.1 != mgmtQp && (q.2.connected || q.2.asked))),
    ((mapped mach 0).modQp 2 (fun q => { q with connected := true })).qpUp 2,
    ((qp5 (fun q => { q with asked := true })).qp 5).asked,
    [(0xFFF : Word), 0x1000].all (fun a =>
      let s := qp5 id;
      (s.keyFor 5 3 .store a 1).isSome == (a == 0xFFF) && (s.keyFor 5 3 .load a 1).isSome == (a == 0xFFF)),
    !wholeStream [] && wholeStream (streamBytes entryP),
    (let s := qp5 (fun q => { q with held := List.replicate 64 ⟨0, 0, 0, 0, 0, 0⟩ }); 64 ≤ (s.qp 5).held.length),
    [253, 254].all (fun n =>
      let x := streamOf 5 (streamBytes entryP) 0;
      let big := { x with args := List.replicate 254 0 };
      let s := (qp5 id).modPort 0 (fun p => { p with buf := [big, big, big, { x with args := List.replicate (n - 1) 0 }] });
      s.qpUp 5 && (s.qp 5).held.length < 64 && (s.port 0).buf != [] && (1024 < (s.port 0).tokens + 2 + x.args.length) == (n == 254)),
    (let s := buffered (qp5 id) 1 entryP;
      s.col.power == .running && (s.port 0).buf.any (fun x => !x.checked && s.recordRoom x.qp && (s.dirFind (placeDie x.block.place) x.hash).isNone)),
    (let s : State := { qp5 (fun q => { q with held := [⟨0, 0, 0, 0, 0, 0⟩], receives := 1 }) with cur := 5 };
      s.qpUp s.cur && (s.qp s.cur).held.length == 1 && (s.qp s.cur).receives + s.sub != 0)].all id = true := by decide +kernel

def powered (p : Power) (l : Option (MPort × List Byte)) : State := { mach with col := { mach.col with power := p, loading := l } }

/-- Every power state, with and without an image in progress; a port that is up and the main port that is down; a link that is up;
a tick 4 ns away. -/
theorem witness_ColophonSteps : [
    [Power.off, .standby, .selftest, .running, .bisque].all (fun p => (powered p none).col.power == p),
    (powered .running (some (.i3c, []))).col.loading == some (.i3c, []),
    fwVerified 0 [] == false,
    [Power.standby, .bisque, .running].all (fun p =>
      let s := powered p none; s.col.loading.isNone && s.col.power != .off && MPort.i3c != .mainPort),
    mach.linksDown == [] && mach.col.power == .running,
    !(powered .running none).qpUp 2 && !(powered .bisque none).qpUp 2,
    ((powered .running none).modQp 2 (fun q => { q with connected := true })).qpUp 2,
    (let s : State := { mach with tick := 4 }; (0 : Word).toNat ≤ s.tick.toNat + 4 && s.tick.toNat ≤ (0 : Word).toNat + 4)
  ].all id = true := by decide +kernel

/-- The first candidate of the element's rotation that fires meets a test. -/
def firesAt (p : State) (wish : List Instr) (test : Site → Instr → Bool) : Bool :=
  p.siteNode.any (fun f => ((f.r.rotation f.n.elem).findSome? (fun q =>
    if q.1.kind == 0 then p.eligible ⟨f.r.num, q.1.id, q.2⟩
    else p.nodeStep ⟨f.r.num, q.1.id, q.2⟩ (if (⟨f.r.num, q.1.id, q.2⟩ : Site) == p.site then wish else []))).any (fun x => test x.1 x.2))
def goesAnd (r : Res) (p : State → Bool) : Bool := match r with | .next t => p t | _ => false

/-- A special node whose turn it is, by its element's turn and by an event's; a node with no step to take; a gang launch whose mask lies in another package. -/
theorem witness_StepRuns_nodes : [
    (let s0 := nodeAt 10 [0] (.frame false) [];
      let t := Turn.fire s0.site.rgn s0.site.node s0.site.fs;
      let p : State := { s0.note t with site := s0.site };
      !({ s0 with agenda := [t] } : State).mustPass t && firesAt p [] (fun x i => i == .frameRead && goes (exec i { p with site := x }))),
    (let s0 := nodeAt 10 [0] (.frame false) [];
      let t := Turn.event .frameRead 0 0 s0.site;
      let p : State := (s0.note t).atAgent 0 0 s0.site;
      !({ s0 with agenda := [t] } : State).mustPass t && p.col.power == .running && nodeSteps.contains .frameRead && s0.site.fs < 4
        && firesAt p [.frameRead] (fun x i => i == .frameRead && goes (exec i { p with site := x }))),
    (let s := nodeAt 10 [0] (.frame true) []; (s.nodeStep s.site []).isNone),
    (let s0 := (launcher (padMem ++ [(0x10200, 8, entryP.toNat), (0x10208, 4, 1), (0x1020E, 1, 1), (0x10218, 1, 1), (0x10228, 8, 9),
        (0x10238, 8, spad (2 ^ 30)), (0x10400, 4, (encode32 (.jlaunch 6 5)).getD 0)])).modSlot 0 (fun t => { t with pc := 0x10400 });
      let s : State := { s0 with agenda := [.issue 0] };
      let u := ({ s with agenda := [] } : State).counted 0;
      !s.mustPass (.issue 0) && !u.polls 0 && ({ s with agenda := [] } : State).issuer 0 == some 0 && (u.dueHere 0).isNone
        && (u.slot 0).gang.isNone && (u.issuing 0).1.miss.isNone && !u.fetching 0
        && goesAnd (exec (u.issuing 0).2 (u.farStep (u.issuing 0).1)) (fun t => t.miss.isSome))].all id = true := by decide +kernel

/-- A turn of thread 0, of a thread that waits, and of an element, an event's turn, a fetch through a page of DRAM that the instruction cache misses, and
a faulting one; the exit address. -/
theorem witness_StepRunsTheDecodedInstruction : [
    (let s : State := { mach with agenda := [.issue 0] };
      let u := mach.counted 0;
      !s.mustPass (.issue 0) && !mach.polls 0 && mach.issuer (coreOf 0) == some 0 && mach.owed == some 0
        && (u.dueHere 0).isNone && (u.slot 0).gang.isNone
        && (u.issuing 0).1.miss.isNone && !u.fetching 0 && goesAnd (exec (u.issuing 0).2 (u.farStep (u.issuing 0).1)) (fun t => t.miss.isNone)),
    (let i := Instr.wfm 5;
      let s := thr (fun t => { t with st := .wait, wait := some ⟨.inbox, some 9, 0, {}, none, none⟩, current := some i });
      let p := s.note (.issue 0);
      !s.mustPass (.issue 0) && p.polls 0 && (p.dueHere 0).isNone && (p.slot 0).gang.isNone && (p.slot 0).current == some i && s.miss.isNone && s.asks == []),
    (mach.slot 0).wait.isNone && (mach.slot 0).gang.isNone,
    (let r := mach.fetch 0 (mach.slot 0).pc;
      (mach.slot 0).pc != exitAddr && (mach.slot 0).pc.toNat % 4 == 0 && okAnd r.2 (fun w => parcelLength w != some 64)),
    (let s := put (thr (fun t => { t with pc := 60 })) 60 8 0x3F;
      okAnd (s.fetch 0 60).2 (fun w => parcelLength w == some 64 && isOk ((s.fetch 0 60).1.fetch 0 64).2)),
    (let s := thr (fun t => { t with pc := 0x1000 }); !isOk (s.fetch 0 (s.slot 0).pc).2),
    (let s := thr (fun t => { t with pc := exitAddr }); (s.slot 0).pc == exitAddr),
    [(0 : BitVec 2), 2].all (fun k =>
      let q := (page mach (fun e => { e with policy := k })).reach 0 .fetch 0 4;
      okAnd q.2 (fun p => p.1 == .dram 0 && p.2.any (fun e => e.policy == k)) && (assoc (q.1.core 0).icache 0).isNone),
    (let s := State.reset.withFetchWord 128 0;
      let p : State := { ({ s with agenda := [] } : State).note (.fire 0 0 0) with site := ⟨0, 0, 0⟩ };
      s.agenda == [.fire 0 0 0] && !s.mustPass (.fire 0 0 0) && firesAt p [] (fun _ i => !nodeSteps.contains i)
      && (p.candidate 0).any (fun f => (f.words.find? (fun q => f.eligible q.2 (f.drives q.1 q.2))).isSome)),
    (let t := Turn.event .threadAged 0 0 ⟨0, 0, 0⟩;
      !({ mach with agenda := [t] } : State).mustPass t && Machine.Instr.isStep .threadAged && !nodeSteps.contains .threadAged)].all id = true := by decide +kernel

/-- Adds the heads of ports 0 and 1. -/
def addWord : TWord := { TWord.of 0 with req := 3, deq := 3, b := 1, out := 1 }

/-- Well-formed instructions of 32, 64 and 128 bits. -/
theorem witness_RoundTrips : [
    (Instr.tagp 6 5 0x1B).wf && (encode32 (.tagp 6 5 0x1B)).isSome,
    (Instr.vadd ⟨.i32, false, .rne, 3, .v 3, .v 1, .op (.v 2), none⟩).wf
      && (encodeX (.vadd ⟨.i32, false, .rne, 3, .v 3, .v 1, .op (.v 2), none⟩)).isSome,
    (Instr.elAdd addWord).wf && (Instr.elAdd addWord).element.isSome].all id = true := by decide +kernel

/-- A state with canonical memory that steps. -/
theorem witness_EveryStepKeepsMemoryCanonical : [
    mach.mem.wf, goes (Machine.step (State.reset.withFetchWord 32 0x13))].all id = true := by decide +kernel

end Sys2Proof.Tests
end

section
/-! PROOFS. What happens to a thread between its instructions (O42): each step of a thread on its own, given as the state that it
leads to, and from these the statement. -/

namespace Sys2Proof.Machine

/-! ### A thread outside a gang -/

theorem fellows_of_no_gang {s : State} {l : Nat} (h : (s.slot l).gang = none) : s.fellows l = [l] := by
  simp [State.fellows, h]

theorem lead_of_no_gang {s : State} {l : Nat} (h : (s.slot l).gang = none) : s.lead l = s.slot l := by
  simp [State.lead, State.leaderOf, h]

theorem atBoundary_of_no_wait {s : State} {l : Nat} (hg : (s.slot l).gang = none) (hw : (s.slot l).wait = none) :
    s.atBoundary l = true := by
  simp [State.atBoundary, fellows_of_no_gang hg, hw]

theorem dropWait_of_no_wait {s : State} {l : Nat} (h : (s.slot l).wait = none) : s.dropWait l = s := by
  simp [State.dropWait, h]

/-- A trap on a thread that is in no gang and does not wait. -/
theorem trap_of_no_gang {s : State} {l : Nat} (i : TrapInfo) (hg : (s.slot l).gang = none) (hw : (s.slot l).wait = none)
    (hi : i.member = 0) : s.trap l i = (s.dropAsks (tidNo (s.tidOf l))).modSlot l (·.takeTrap s.tick i) := by
  have hm : ({ i with member := (s.slot l).member } : TrapInfo) = i := by
    rw [Slot.member, hg, ← hi]
  unfold State.trap
  rw [fellows_of_no_gang hg, hm, List.foldl_cons, List.foldl_nil, dropWait_of_no_wait hw]
  rfl

/-! ### Messages and aging (R127, R142) -/

/-- Whether a message on its way comes to the location at which the step acts. -/
def State.comesHere (s : State) (b : Nat × BitVec 16 × Msg) : Bool := s.mailAt (b.1, b.2.1) == s.cur

theorem inboxMessageArrival_receives {s : State} {a : Nat × BitVec 16 × Msg} {l : Nat} (ha : s.arrivals.find? s.comesHere = some a)
    (hl : s.locOf (a.1, a.2.1) = some l) (hr : a.2.2.isReturn = false) :
    exec .inboxMessageArrival s
      = .next (({ s with arrivals := dropFirst s.comesHere s.arrivals } : State).modSlot l (·.receive a.2.2)) := by
  have hd (u : State) (hu : u.locOf (a.1, a.2.1) = some l) : u.deliverMsg (a.1, a.2.1) a.2.2 = u.modSlot l (·.receive a.2.2) := by
    simp [State.deliverMsg, hu, hr]
  show execInboxMessageArrival s = _
  unfold execInboxMessageArrival
  change (match s.arrivals.find? s.comesHere with | none => _ | some a => _) = _
  rw [ha]
  exact congrArg _ (hd { s with arrivals := dropFirst s.comesHere s.arrivals } hl)

theorem threadAged_ages {s : State} (hs : s.me.st = .ready) (hw : 60 ≤ s.me.issWait) (hn : s.starved s.cur = false) :
    exec .threadAged s = .next (s.modMe (fun t => { t with aged := true })) := by
  show execThreadAged s = _
  simp [execThreadAged, hs, hw, hn]

/-- A message for a parked context. -/
theorem parkedMessageAppend_appends {s u : State} {home : Nat} {ctx : BitVec 16} {m : Msg} {p : Parked} {w : Away}
    (hm : s.parkedMsgs.find? s.comesHere = some (home, ctx, m))
    (hp : s.me.parked.find? (fun q => (q.home, q.ctx) == (home, ctx)) = some p) (hw : s.awayOf (home, ctx) = some w)
    (hu : s.appendMsg { s.engineView s.cur (home, ctx) w.slot.sc.pdrights with plb := none } (s.agentFor s.cur (home, ctx)) p.area
      { m with seq := w.slot.ibSeq } = .ok u) :
    exec .parkedMessageAppend s = .next { u with
      parkedMsgs := dropFirst s.comesHere u.parkedMsgs,
      away := u.away.map (fun x => if x.slot.tid x.loc == (home, ctx) then
        { x with slot := { x.slot with ibSeq := x.slot.ibSeq + 1, uiFresh := x.slot.uiFresh + 1 } } else x) } := by
  show execParkedMessageAppend s = _
  unfold execParkedMessageAppend
  change (match s.parkedMsgs.find? s.comesHere with | none => _ | some (home, ctx, m) => _) = _
  rw [hm]
  simp only [hp, hw, hu]
  rfl

/-! ### Waits that end at their limit (R15, R143, R257, R272) -/

theorem waitlimExpiry_of_met {s : State} {w : Wait} (hw : s.me.wait = some w) (hm : s.waitMet w.kind = true) :
    exec .waitlimExpiry s = .next s := by
  show execWaitlimExpiry s = _
  simp [execWaitlimExpiry, hw, hm]

theorem expireAll_self {s : State} {w : Wait} (hw : s.me.wait = some w) : s.expireAll [s.cur] w.kind = s.expire s.cur w.exp := by
  have h : (s.slot s.cur).wait = some w := hw
  simp [State.expireAll, h]

/-- A reservation that finds the inbox full to its limit. -/
theorem waitlimExpiry_reserve {s : State} {d n : Nat} {e : Expiry} {b o : Option Nat}
    (hw : s.me.wait = some ⟨.reserve, some d, n, e, b, o⟩) (hd : d ≤ s.cycle) (hf : s.me.inboxFull = true) :
    exec .waitlimExpiry s = .next (s.expire s.cur e) := by
  have hm : s.waitMet .reserve = false := by simp [State.waitMet, hf]
  show execWaitlimExpiry s = _
  simp [execWaitlimExpiry, hw, hd, hm, expireAll_self hw]

theorem feTimeout_expires {s : State} {d n : Nat} {e : Expiry} {b o : Option Nat}
    (hw : s.me.wait = some ⟨.fe, some d, n, e, b, o⟩) (hd : d ≤ s.cycle) (hq : ∃ q ∈ s.feq, q.loc = s.cur) :
    exec .feTimeout s = .next (s.expire s.cur e) := by
  show execFeTimeout s = _
  simp [execFeTimeout, hw, hd, hq]

theorem pinWaitTimeout_expires {s : State} {d n : Nat} {e : Expiry} {b o : Option Nat}
    (hw : s.me.wait = some ⟨.pinDir, some d, n, e, b, o⟩) (hd : d ≤ s.cycle) :
    exec .pinWaitTimeout s = .next (s.expire s.cur e) := by
  show execPinWaitTimeout s = _
  simp [execPinWaitTimeout, hw, hd]

/-! ### What an expiry takes back -/

/-- The state in which a thread's wait has nothing outstanding any more: its region operation and its invalidation go on without it,
its token is withdrawn, and slots that its `fuse` has reserved are free. -/
def State.withdrawn (s : State) (l : Nat) : State :=
  ({ s.dropRegionWait l with feq := s.feq.filter (fun q => q.loc != l) } : State).freeReserved l

/-- The expiry that writes one register. -/
theorem expire_writes (s : State) (l : Nat) (rd : BitVec 5) (v : Word) (n : Nat) :
    s.expire l { xs := [(rd, v)], len := n } = (s.withdrawn l).modSlot l (fun t => (t.wx rd v).retire n) := rfl

theorem freeReserved_rest (s : State) (l : Nat) : s.freeReserved l = { s with slots := (s.freeReserved l).slots } := by
  unfold State.freeReserved
  split <;> rfl

theorem withdrawn_rest (s : State) (l : Nat) :
    s.withdrawn l = { s.dropRegionWait l with feq := s.feq.filter (fun q => q.loc != l), slots := (s.withdrawn l).slots } :=
  freeReserved_rest _ l

theorem withdrawn_mem (s : State) (l : Nat) : (s.withdrawn l).mem = s.mem := by rw [withdrawn_rest]; rfl
theorem withdrawn_cores (s : State) (l : Nat) : (s.withdrawn l).cores = s.cores := by rw [withdrawn_rest]; rfl
theorem length_withdrawn_invs (s : State) (l : Nat) : (s.withdrawn l).invs.length = s.invs.length := by
  rw [withdrawn_rest]
  exact List.length_map _

/-- Freeing what a `fuse` of a thread has reserved touches members only: never the thread itself. -/
theorem slot_freeReserved (s : State) (l k : Nat) : (s.freeReserved l).slot k = s.slot k
    ∨ k ≠ l ∧ (s.freeReserved l).slot k = (s.slot k).freed := by
  unfold State.freeReserved
  split
  · exact .inl rfl
  next hg =>
    unfold State.slot at hg ⊢
    simp only
    rw [assoc_map _ (by intro e; split <;> (try split) <;> rfl)]
    cases hk : assoc s.slots k with
    | none => exact .inl rfl
    | some t =>
      cases ht : t.gang with
      | none => simp [ht]
      | some g =>
        by_cases hm : g.leader = l ∧ t.st = .member
        · refine .inr ⟨?_, by simp [ht, hm]⟩
          rintro rfl
          simp [hk, ht] at hg
        · simp [ht, if_neg hm]

theorem slot_withdrawn (s : State) (l k : Nat) : (s.withdrawn l).slot k = s.slot k
    ∨ k ≠ l ∧ (s.withdrawn l).slot k = (s.slot k).freed :=
  slot_freeReserved ({ s.dropRegionWait l with feq := s.feq.filter (fun q => q.loc != l) } : State) l k

theorem slot_withdrawn_self (s : State) (l : Nat) : (s.withdrawn l).slot l = s.slot l :=
  (slot_withdrawn s l l).resolve_right (fun h => h.1 rfl)

theorem posted_withdrawn {s : State} {l k : Nat} {p : Posted} (hp : p ∈ ((s.withdrawn l).slot k).posted) : p ∈ (s.slot k).posted := by
  rcases slot_withdrawn s l k with h | ⟨-, h⟩
  · rwa [h] at hp
  · rw [h] at hp
    cases hp

theorem freeReserved_of_no_member {s : State} (l : Nat) (h : ∀ p ∈ s.slots, p.2.st ≠ .member) : s.freeReserved l = s := by
  unfold State.freeReserved
  split
  · rfl
  · have hid : ∀ p ∈ s.slots, (match p.2.gang with
        | some g => if g.leader == l && p.2.st == .member then (p.1, p.2.freed) else p
        | none => p) = p := by
      intro p hp
      cases p.2.gang <;> simp [h p hp]
    exact congrArg (fun l => ({ s with slots := l } : State)) ((List.map_congr_left hid).trans (List.map_id _))

theorem withdrawn_of_nothing_out {s : State} (l : Nat) (ho : s.rgnOps = []) (hi : s.invs = []) (hf : s.feq = [])
    (hm : ∀ p ∈ s.slots, p.2.st ≠ .member) : s.withdrawn l = s := by
  have h : ({ s.dropRegionWait l with feq := s.feq.filter (fun q => q.loc != l) } : State) = s := by
    simp only [State.dropRegionWait, ho, hi, hf, List.map_nil, List.filter_nil]
    rw [← ho, ← hi, ← hf]
  rw [State.withdrawn, h, freeReserved_of_no_member l hm]

/-! ### Interrupts (R369, R377) -/

theorem bitW_setBitW_same (w : Word) {i : Nat} (h : i < 64) : bitW (setBitW w i true) i = true := by
  rw [bitW, setBitW, if_pos rfl, BitVec.getLsbD_or, BitVec.getLsbD_ofNat, Nat.testBit_two_pow_self]
  simp [h]

theorem interruptible_of_ready {s : State} {l code : Nat} (hs : (s.slot l).st = .ready) (hg : (s.slot l).gang = none)
    (hw : (s.slot l).wait = none) (he : (s.slot l).interruptEnabled code = true) : s.interruptible l code = true := by
  simp [State.interruptible, atBoundary_of_no_wait hg hw, lead_of_no_gang hg, hs, he]

/-- The thread with interrupt `code` pending. -/
def Slot.pend (t : Slot) (code : Nat) : Slot := { t with rv := { t.rv with mip := setBitW t.rv.mip code true } }

theorem raised_of_sub {s : State} (code : Nat) (h : s.sub = 1) : s.raised code = s.modMe (·.pend code) := by
  rw [State.raised, if_pos (by simp [h])]
  rfl

/-- A source raises an interrupt, and the thread takes it at once. -/
theorem deliver_raised {s : State} {code : Nat} (cs : List Nat) (hc : code < 64) (h1 : s.sub = 1) (hs : s.me.st = .ready)
    (he : s.me.interruptEnabled code = true) (hg : s.me.gang = none) (hw : s.me.wait = none) :
    (s.raised code).deliver (code :: cs) = ((s.dropAsks (tidNo s.tid)).modMe (·.pend code)).modMe
      (·.takeTrap s.tick { intr := true, cause := code }) := by
  have hme : (s.modMe (·.pend code)).slot s.cur = s.me.pend code := me_modMe s _
  have hi : (s.modMe (·.pend code)).interruptible s.cur code = true :=
    interruptible_of_ready (by rw [hme]; exact hs) (by rw [hme]; exact hg) (by rw [hme]; exact hw) (by rw [hme]; exact he)
  have hp : bitW (s.modMe (·.pend code)).me.rv.mip code = true := by
    rw [me_modMe]
    exact bitW_setBitW_same _ hc
  have ht : (s.modMe (·.pend code)).tidOf s.cur = s.tid := by
    rw [State.tidOf, hme]
    rfl
  rw [raised_of_sub code h1, State.deliver, List.find?_cons_of_pos (by simp only [hp, Bool.true_and]; exact hi)]
  show (s.modMe (·.pend code)).trap s.cur { intr := true, cause := code } = _
  rw [trap_of_no_gang _ (by rw [hme]; exact hg) (by rw [hme]; exact hw) rfl, ht]
  rfl

theorem occupied_of_ready {t : Slot} (h : t.st = .ready) : t.occupied = true := by
  simp [Slot.occupied, h]

theorem interrupt_taken {s : State} {i : Instr} {code : Nat}
    (hi : i = .timerInterrupt ∧ code = 5 ∨ i = .externalInterrupt ∧ code = 9) (h1 : s.sub = 1) (hs : s.me.st = .ready)
    (he : s.me.interruptEnabled code = true) (hg : s.me.gang = none) (hw : s.me.wait = none) :
    exec i s = .next (((s.dropAsks (tidNo s.tid)).modMe (·.pend code)).modMe (·.takeTrap s.tick { intr := true, cause := code })) := by
  rcases hi with ⟨rfl, rfl⟩ | ⟨rfl, rfl⟩
  · show execTimerInterrupt s = _
    rw [execTimerInterrupt, if_pos (occupied_of_ready hs), deliver_raised [] (by decide) h1 hs he hg hw]
  · show execExternalInterrupt s = _
    rw [execExternalInterrupt, if_pos (occupied_of_ready hs), deliver_raised [1] (by decide) h1 hs he hg hw]

theorem mem_ftFor {s : State} {l r : Nat} {d : Nat × Die} (hd : d ∈ s.dies) (h63 : bitW d.2.ftsvc 63 = true)
    (hl : d.2.ftsvc.toNat % 2 ^ 21 = (s.locid l).toNat) (hr : r ∈ d.2.ftPending) : r ∈ s.ftFor l := by
  refine List.mem_flatMap.mpr ⟨d, hd, ?_⟩
  rw [if_pos (by rw [h63, hl]; simp)]
  exact hr

/-- The trap record of a region has been delivered. -/
def Region.told (r : Region) : Region := { r with trap := r.trap.map (fun t => { t with delivered := true }) }

/-- The record of region `n` is delivered, and its trap no longer pending. -/
def State.tellTrap (s : State) (n : Nat) : State :=
  (s.modRegion n Region.told).modDie (n / 32) (fun d => { d with ftPending := d.ftPending.filter (· != n) })

theorem region_tellTrap (s : State) (n k : Nat) :
    (s.tellTrap n).region k = (s.region k).map (fun r => if k = n then r.told else r) :=
  region_modRegion s n k Region.told (fun _ => rfl)

theorem die_tellTrap (s : State) (n k : Nat) : (s.tellTrap n).die k
    = if k = n / 32 then { s.die k with ftPending := (s.die k).ftPending.filter (· != n) } else s.die k := by
  rw [State.tellTrap, die_modDie]
  split
  next h => rw [h]; rfl
  next => rfl

theorem fabricTrapDelivery_takes {s : State} {r : Nat} {rs : List Nat} (hf : s.ftFor s.cur = r :: rs) (hs : s.me.st = .ready)
    (hg : s.me.gang = none) (hw : s.me.wait = none) (he : s.me.interruptEnabled 16 = true) :
    exec .fabricTrapDelivery s
      = .next ((s.tellTrap (rs.foldl min r)).interrupt s.cur 16 (BitVec.ofNat 64 (rs.foldl min r))) := by
  have ht : s.takesFabricTrap s.cur = true := by
    have hst : (s.slot s.cur).st = .ready := hs
    have hen : (s.slot s.cur).interruptEnabled 16 = true := he
    simp [State.takesFabricTrap, hf, lead_of_no_gang hg, atBoundary_of_no_wait hg hw, hst, hen]
  show execFabricTrapDelivery s = _
  simp only [execFabricTrapDelivery, hf, ht, if_true]
  rfl

/-! ### User interrupts (R146) -/

theorem userInterruptDelivery_enters {s u : State} (hs : s.me.st = .ready) (hg : s.me.gang = none) (hw : s.me.wait = none)
    (hp : s.me.uiPending = true) (ha : s.me.u.uiActive = false) (he : s.me.u.emustat = false) (hx : s.me.pc ≠ exitAddr)
    (hpad : s.padAt s.cur s.me.u.uivec 4 = (u, none)) (hme : u.me = s.me) (hcur : u.cur = s.cur) :
    exec .userInterruptDelivery s = .next (u.modMe Slot.takeUser) := by
  have hi : s.userInterruptible s.cur = true := by
    simp only [State.me] at hs hg hw hp ha he hx
    simp [State.userInterruptible, atBoundary_of_no_wait hg hw, lead_of_no_gang hg, fellows_of_no_gang hg, hs, hp, ha, he, hx]
  have hu : (u.slot s.cur).wait = none := by
    rw [← hcur]
    show u.me.wait = none
    rw [hme, hw]
  show execUserInterruptDelivery s = _
  rw [execUserInterruptDelivery, if_pos hi, State.userInterrupt, show (s.slot s.cur).u.uivec = s.me.u.uivec from rfl, hpad]
  simp only [fellows_of_no_gang (show (s.slot s.cur).gang = none from hg), List.foldl_cons, List.foldl_nil, dropWait_of_no_wait hu]
  rw [← hcur]
  rfl

/-! ### Posted stores (R246, R248, R260) -/

theorem protectionRequest_answers {s : State} {p : Posted} {e : Plb} (hp : s.me.posted[s.sub]? = some p) (hf : p.far = none)
    (hr : p.reply = none) (hl : s.lookup { s.viewOf s.cur with rights := p.rights } p.addr.toNat = .ok e) :
    exec .protectionRequest s = .next (s.modMe (fun t =>
      { t with posted := t.posted.set s.sub { p with reply := some (.entry { e with slot := s.cur % 4 }) } })) := by
  show execProtectionRequest s = _
  simp [execProtectionRequest, hp, Posted.isFar, hf, hr, hl]

/-- A posted store becomes a held one, in the place it has in program order. -/
def Slot.holdPosted (t : Slot) (p : Posted) (cause : Nat) : Slot :=
  ({ t with posted := t.posted.filter (fun q => q.seq != p.seq) } : Slot).hold ⟨p.addr, p.width, p.data, cause, p.seq, false⟩

theorem unpost_hold (s : State) (p : Posted) (cause : Nat) :
    (s.unpost p).hold s.cur p.addr p.width p.data cause p.seq = s.modMe (·.holdPosted p cause) := by
  show (s.unpost p).modMe (·.hold _) = _
  rw [State.unpost, modMe_modMe]
  rfl

theorem settle_of_near {s : State} {l : Nat} {p : Posted} (h : p.far = none) : s.settle l p = s := by
  simp [State.settle, h]

theorem settleFar_of_near {s : State} {l : Nat} (h : ∀ p ∈ (s.slot l).posted, p.far = none) : s.settleFar l = s := by
  unfold State.settleFar
  generalize (s.slot l).posted = ps at h
  induction ps with
  | nil => rfl
  | cons p r ih =>
    rw [List.foldl_cons, settle_of_near (h p (by simp))]
    exact ih (fun q hq => h q (by simp [hq]))

theorem protectionReply_holds {s : State} {p : Posted} {r : List Posted} {c : Nat} (hp : s.me.posted = p :: r)
    (hf : ∀ q ∈ s.me.posted, q.far = none) (hr : p.reply = some (.fail c)) :
    exec .protectionReply s = .next (s.modMe (·.holdPosted p c)) := by
  have hfind : s.me.posted.find? (fun q => !q.isFar) = some p := by
    rw [hp, List.find?_cons_of_pos]
    simp [Posted.isFar, hf p (by simp [hp])]
  show execProtectionReply s = _
  rw [execProtectionReply, settleFar_of_near hf]
  simp only [Nat.lt_irrefl, if_false, hfind, hr, State.servePosted, unpost_hold]

theorem remoteTimeout_holds {s : State} {p : Posted} {r : List Posted} {f : Nat × Nat} (hp : s.me.posted = p :: r)
    (hf : p.far = some f) (hd : f.2 ≤ s.cycle) (hn : s.replyOf f.1 = none) :
    exec .remoteTimeout s = .next (s.modMe (·.holdPosted p causeRemote)) := by
  show execRemoteTimeout s = _
  simp only [execRemoteTimeout, hp]
  rw [List.find?_cons_of_pos (by simp [hf, hd, hn])]
  simp only [unpost_hold]

/-! ### The end of a quantum (R375) -/

/-- With no store posted there is nothing to serve and nothing to answer. -/
theorem drain_settleFar_of_none_posted {s : State} (h : s.me.posted = []) : (s.drain s.cur).settleFar s.cur = s.setMe s.me := by
  have hd : s.drain s.cur = s.setMe s.me := by
    have hs : (s.slot s.cur).posted = [] := h
    have ht : ({ s.slot s.cur with posted := [] } : Slot) = s.me := by rw [← hs]; rfl
    simp only [State.drain, State.modSlot, hs, List.filter_nil, List.foldl_nil, ht]
    rfl
  rw [hd, settleFar_of_near]
  intro p hp
  rw [show (s.setMe s.me).slot s.cur = s.me from me_setMe s _, h] at hp
  cases hp

/-- A quantum that ends with no successor starts again. -/
theorem quantumExpiry_restarts {s : State} (hp : s.me.posted = []) (hh : s.me.held = []) (hg : s.me.gang = none)
    (hs : s.me.st = .ready) (h63 : bitW s.me.sc.quantum 63 = true) (hq : s.me.quantumEff ≤ s.me.quantumUsed)
    (h61 : bitW s.me.sc.quantum 61 = false) (hn : maskW s.me.sc.thnext 63 12 = 0) :
    exec .quantumExpiry s = .next (s.setMe s.me.startQuantum) := by
  have hslot : (s.setMe s.me).slot s.cur = s.me := me_setMe s _
  have hfar : (s.setMe s.me).farPending s.cur = false := by rw [State.farPending, hslot, hp]; rfl
  have hstart : (s.setMe s.me).restartQuantum [s.cur] = s.setMe s.me.startQuantum := modMe_setMe s s.me Slot.startQuantum
  show execQuantumExpiry s = _
  rw [execQuantumExpiry]
  simp only [fellows_of_no_gang (show (s.slot s.cur).gang = none from hg), List.foldl_cons, List.foldl_nil,
    drain_settleFar_of_none_posted hp, me_setMe]
  simp [h63, hq, occupied_of_ready hs, hslot, hh, hfar, h61, hn, hstart]

/-! ### Invalidation (R249, R390) -/

/-- Forgetting replies changes the posted stores of a thread and nothing else of it; no reply that is to be forgotten is left. -/
theorem slot_forgetReplies (s : State) (gone : Nat → Plb → Bool) (l : Nat) :
    (s.forgetReplies gone).slot l = { s.slot l with posted := ((s.forgetReplies gone).slot l).posted } := by
  unfold State.forgetReplies State.slot
  simp only
  rw [assoc_map _ (by intro e; rfl)]
  cases assoc s.slots l <;> rfl

theorem entry_forgetReplies {s : State} {gone : Nat → Plb → Bool} {l : Nat} {p : Posted} {e : Plb}
    (hp : p ∈ ((s.forgetReplies gone).slot l).posted) (he : p.reply = some (.entry e)) : gone l e = false := by
  unfold State.forgetReplies State.slot at hp
  simp only at hp
  rw [assoc_map _ (by intro e; rfl)] at hp
  cases hs : assoc s.slots l with
  | none => rw [hs] at hp; cases hp
  | some t =>
    rw [hs] at hp
    obtain ⟨q, -, hq⟩ := List.mem_map.mp hp
    split at hq
    next x hx =>
      split at hq
      · rw [← hq] at he
        cases he
      next hg =>
        rw [← hq, hx] at he
        cases he
        simpa using hg
    next hx =>
      rw [← hq] at he
      exact absurd he (hx e)

theorem locOf_forgetReplies (s : State) (gone : Nat → Plb → Bool) : (s.forgetReplies gone).locOf = s.locOf := by
  funext t
  simp only [State.locOf, State.forgetReplies, List.find?_map, Option.map_map]
  rfl

/-- The state in which the oldest invalidation has been carried out and those after it wait. -/
def State.invalidated (s : State) (i : Inv) (r : List Inv) : State := ({ s with invs := r } : State).invalidate i

theorem slot_invalidated (s : State) (i : Inv) (r : List Inv) (l : Nat) :
    (s.invalidated i r).slot l = { s.slot l with posted := ((s.invalidated i r).slot l).posted } :=
  slot_forgetReplies { s with invs := r } (fun _ e => i.covers e) l

theorem entry_invalidated {s : State} {i : Inv} {r : List Inv} {l : Nat} {p : Posted} {e : Plb}
    (hp : p ∈ ((s.invalidated i r).slot l).posted) (he : p.reply = some (.entry e)) : i.covers e = false :=
  entry_forgetReplies (s := { s with invs := r }) (gone := fun _ e => i.covers e) hp he

theorem plb_invalidated {s : State} {i : Inv} {r : List Inv} {c : Nat × Core} (hc : c ∈ (s.invalidated i r).cores) {e : Plb}
    (he : e ∈ c.2.plb) : i.covers e = false := by
  obtain ⟨k, -, rfl⟩ := List.mem_map.mp hc
  simpa using (List.mem_filter.mp he).2

theorem locOf_invalidated (s : State) (i : Inv) (r : List Inv) : (s.invalidated i r).locOf = s.locOf :=
  locOf_forgetReplies { s with invs := r } (fun _ e => i.covers e)

theorem plbInvComplete_alone {s : State} {i : Inv} {r : List Inv} (hi : s.invs = i :: r) (hw : i.who.bind s.locOf = none) :
    exec .plbInvComplete s = .next (s.invalidated i r) := by
  have hw' : i.who.bind (s.invalidated i r).locOf = none := by rw [locOf_invalidated, hw]
  show execPlbInvComplete s = _
  rw [execPlbInvComplete, hi]
  simp only [State.invalidated] at hw' ⊢
  simp only [hw']

theorem plbInvComplete_answers {s : State} {i : Inv} {r : List Inv} {l n : Nat} {d b o : Option Nat} {rd : BitVec 5} {v : Word}
    (hi : s.invs = i :: r) (hw : i.who.bind s.locOf = some l)
    (hl : (s.slot l).wait = some ⟨.plbInv, d, n, { xs := [(rd, v)] }, b, o⟩) :
    exec .plbInvComplete s
      = .next (((s.invalidated i r).withdrawn l).modSlot l (fun t => (t.wx rd Status.ok.word).retire 4)) := by
  have hw' : i.who.bind (s.invalidated i r).locOf = some l := by rw [locOf_invalidated, hw]
  have hl' : ((s.invalidated i r).slot l).wait = some ⟨.plbInv, d, n, { xs := [(rd, v)] }, b, o⟩ := by
    rw [slot_invalidated]
    exact hl
  rw [← expire_writes]
  show execPlbInvComplete s = _
  rw [execPlbInvComplete, hi]
  simp only [State.invalidated] at hw' hl' ⊢
  simp only [hw', hl']
  rfl

/-- Carrying out an invalidation leaves memory as it was, and no PLB and no reply on its way to one holds an entry that it covers. -/
structure Purged (s t : State) (i : Inv) : Prop where
  memory : t.mem = s.mem
  plbs : ∀ c ∈ t.cores, ∀ e ∈ c.2.plb, i.covers e = false
  replies : ∀ l, ∀ p ∈ (t.slot l).posted, ∀ e, p.reply = some (.entry e) → i.covers e = false

theorem purged_invalidated (s : State) (i : Inv) (r : List Inv) : Purged s (s.invalidated i r) i :=
  ⟨rfl, fun _ hc _ he => plb_invalidated hc he, fun _ _ hp _ he => entry_invalidated hp he⟩

/-- Ending the wait of the thread that asked for the invalidation brings no entry back. -/
theorem purged_answered {s u : State} {i : Inv} (h : Purged s u i) (l : Nat) (rd : BitVec 5) (v : Word) (n : Nat) :
    Purged s ((u.withdrawn l).modSlot l (fun t => (t.wx rd v).retire n)) i := by
  refine ⟨(withdrawn_mem u l).trans h.memory, ?_, fun k p hp => ?_⟩
  · show ∀ c ∈ (u.withdrawn l).cores, _
    rw [withdrawn_cores]
    exact h.plbs
  · rw [slot_modSlot] at hp
    split at hp
    next hk =>
      rw [retire_posted, wx_posted] at hp
      exact h.replies l p (posted_withdrawn hp)
    next => exact h.replies k p (posted_withdrawn hp)

/-- The thread that asked for the invalidation has its wait behind it, past the instruction, with the status in `rd`. -/
theorem slot_answered {s : State} {i : Inv} {r : List Inv} (l : Nat) (rd : BitVec 5) (v : Word) (n : Nat) :
    let t := ((s.invalidated i r).withdrawn l).modSlot l (fun t => (t.wx rd v).retire n)
    (t.slot l).wait = none ∧ (t.slot l).pc = (s.slot l).pc + BitVec.ofNat 64 n
      ∧ ∀ q, (t.slot l).xr q = if q = 0 then 0 else if q = rd then v else (s.slot l).xr q := by
  intro t
  have ht : t.slot l = (((s.invalidated i r).slot l).wx rd v).retire n := by
    rw [slot_modSlot_same, slot_withdrawn_self]
  refine ⟨by rw [ht]; rfl, ?_, fun q => ?_⟩
  · rw [ht, slot_invalidated]
    show (Slot.wx _ rd v).pc + _ = _
    rw [wx_pc]
  · rw [ht, xr_retire, xr_wx, slot_invalidated]
    rfl

/-! ### The statement -/

/-- Settles O42: each clause is the equation of its step above, with what that state shares with the one before. -/
theorem threadSteps_complete : Obligations.ThreadSteps := by
  unfold Obligations.ThreadSteps
  refine ⟨?message, ?aged, ?reserve, ?reserveWrites, ?met, ?fe, ?pin, ?interrupts, ?pending, ?fabric, ?user, ?request, ?reply,
    ?remote, ?collapse, ?quantum, ?parked, ?invalidation⟩
  case message =>
    intro s a l here ha hl hr
    refine ⟨_, inboxMessageArrival_receives ha hl hr, rfl, fun k hk => ?_, ?_⟩
    · exact slot_modSlot_ne _ _ hk
    · exact slot_modSlot_same _ _ _
  case aged => exact fun s hs hw hn => ⟨_, threadAged_ages hs hw hn, onlyThread_modMe _ _, me_modMe _ _⟩
  case reserve => exact fun s e d b o hw hd hf => waitlimExpiry_reserve hw hd hf
  case reserveWrites =>
    intro s d xd n b o hw hd hf ho hi hq hm
    refine ⟨_, waitlimExpiry_reserve hw hd hf, ?_⟩
    rw [expire_writes, withdrawn_of_nothing_out s.cur ho hi hq hm]
    have h := writesX_retire s xd Status.timeout.word n
    rwa [State.setX, State.retire, modMe_modMe] at h
  case met =>
    rintro s e d b o (⟨hw, hf⟩ | ⟨hw, hg, hm⟩)
    · exact waitlimExpiry_of_met hw (by simp [State.waitMet, hf])
    · have hmail : (s.slot s.cur).mail ≠ [] := hm
      exact waitlimExpiry_of_met hw (by simp [State.waitMet, fellows_of_no_gang hg, hmail])
  case fe => exact fun s d e b o hw hd hq => feTimeout_expires hw hd hq
  case pin => exact fun s d e b o hw hd => pinWaitTimeout_expires hw hd
  case interrupts =>
    intro s i code hi h1 hs he hg hw
    refine ⟨_, interrupt_taken hi h1 hs he hg hw, onlyThread_trans (onlyThread_modMe _ _) (onlyThread_modMe _ _), ?_⟩
    rw [me_modMe, me_modMe]
    rfl
  case pending => exact fun s d r hd h63 hl hr => mem_ftFor hd h63 hl hr
  case fabric =>
    intro s r rs hf hs hg hw he low
    refine ⟨s.tellTrap low, fabricTrapDelivery_takes hf hs hg hw he, rfl, fun n hn => ?_, fun x hx => ?_, die_tellTrap s low⟩
    · simp [region_tellTrap, hn]
    · rw [region_tellTrap, hx, Option.map_some, if_pos rfl]
      rfl
  case user =>
    intro s u hs hg hw hp ha he hx hpad hme hcur
    refine ⟨_, userInterruptDelivery_enters hs hg hw hp ha he hx hpad hme hcur, onlyThread_modMe _ _, ?_⟩
    rw [me_modMe, hme]
    rfl
  case request => exact fun s p e hp hf hr hl => ⟨_, protectionRequest_answers hp hf hr hl, onlyThread_modMe _ _, me_modMe _ _⟩
  case reply => exact fun s p r c hp hf hr => ⟨_, protectionReply_holds hp hf hr, onlyThread_modMe _ _, me_modMe _ _⟩
  case remote => exact fun s p r f hp hf hd hn => ⟨_, remoteTimeout_holds hp hf hd hn, onlyThread_modMe _ _, me_modMe _ _⟩
  case collapse => exact fun s va => rfl
  case quantum =>
    exact fun s hp hh hg hs h63 hq h61 hn =>
      ⟨_, quantumExpiry_restarts hp hh hg hs h63 hq h61 hn, onlyThread_setMe _ _, me_setMe _ _⟩
  case parked =>
    intro s u home ctx m p w here hm hp hw hu
    exact ⟨_, parkedMessageAppend_appends hm hp hw hu, rfl, rfl⟩
  case invalidation =>
    intro s i r hi clean
    have hclean (t : State) (h : Purged s t i) : clean t := ⟨h.memory, h.plbs, h.replies⟩
    refine ⟨fun hw => ?_, fun l d n rd b o hw hl => ?_⟩
    · exact ⟨_, plbInvComplete_alone hi hw, hclean _ (purged_invalidated s i r), rfl, slot_invalidated s i r⟩
    · exact ⟨_, plbInvComplete_answers hi hw hl, hclean _ (purged_answered (purged_invalidated s i r) l rd _ 4),
        length_withdrawn_invs _ l, slot_answered l rd _ 4⟩

end Sys2Proof.Machine
end

section
/-! PROOFS. Jumps, landing pads and hints (O1, O10): what a meaning answers, the shapes of a jump, and the check of a pad. -/

namespace Sys2Proof.Machine

/-! ### What a meaning answers -/

@[simp] theorem done_ok (s : State) : Go.done (.ok s) = .next s := rfl

/-- A precise trap of the issuing thread. -/
@[simp] theorem done_raise (s : State) (cause : Nat) (tval : Word) :
    Go.done (s.raise cause tval) = .next (s.trap s.cur { cause := cause, tval := tval }) := rfl

@[simp] theorem ok_bind {α β : Type} (a : α) (f : α → Except State β) : (Except.ok a >>= f) = f a := rfl

@[simp] theorem raise_bind {α β : Type} (s : State) (cause : Nat) (tval : Word) (f : α → Except State β) :
    (s.raise cause tval >>= f) = s.raise cause tval := rfl

/-! ### Hints and `yield` (R24, R150, R266) -/

/-- Bit 4 of the five bits of `isspol`, as `yield` tests it. -/
theorem getLsbD_four_of_five (v : BitVec 5) : (v.toNat / 16 == 1) = v.getLsbD 4 := by
  have hv := v.isLt
  have h : v.toNat / 2 ^ 4 < 2 := by omega
  rw [BitVec.getLsbD, Nat.testBit_eq_decide_div_mod_eq, Nat.mod_eq_of_lt h]
  rfl

/-- Settles O1: each word is the update of the issuing thread that moves past it, and `yield` marks its core besides. -/
theorem hintsAndYield : Obligations.HintsAndYield := by
  unfold Obligations.HintsAndYield
  refine ⟨?pad, ?prefetch, ?yield⟩
  case pad => exact fun k s => ⟨_, rfl, writesNone_retire s 4⟩
  case prefetch => exact fun sc xb off s => ⟨_, rfl, writesNone_retire s 8⟩
  case yield =>
    intro s
    refine ⟨_, rfl, rfl, fun c => ?core, fun l hl => ?others, ?me⟩
    case core =>
      rw [core_retire, core_modMe, core_modCore]
      split
      next h => rw [h]
      next => rfl
    case others => rw [slot_retire_ne _ _ (by exact hl), slot_modMe_ne _ _ (by exact hl), slot_modCore]
    case me =>
      rw [me_retire, me_modMe, me_modCore, getLsbD_four_of_five]
      rfl

/-! ### Jumps of the issuing thread -/

@[simp] theorem x_jump (s : State) (pc : Word) (q : BitVec 5) : (s.jump pc).x q = s.x q := by
  simp only [State.x, me_jump, xr_jump]

/-- A jump that writes x registers. -/
theorem threadJump_modMe {s : State} {f : Slot → Slot} (a : Word) (hf : f s.me = { s.me with x := (f s.me).x }) :
    ThreadJump s ((s.modMe f).jump a) a { s.me with x := ((s.modMe f).jump a).me.x } := by
  have hx : ((s.modMe f).jump a).me.x = (f s.me).x := by rw [me_jump, me_modMe]; rfl
  rw [hx]
  refine threadJump_jump s (f s.me) _ a ?_ ?_ ?_ <;> rw [hf]

theorem threadJump_setX (s : State) (r : BitVec 5) (v a : Word) :
    ThreadJump s ((s.setX r v).jump a) a { s.me with x := ((s.setX r v).jump a).me.x } :=
  threadJump_modMe a (wx_eta s.me r v)

theorem threadJump_setX_zero (s : State) (v a : Word) : ThreadJump s ((s.setX 0 v).jump a) a s.me :=
  threadJump_jump s s.me s.me a rfl rfl rfl

theorem transfer_of_ne_exit {s : State} {pc : Word} (f : State → State) (h : pc ≠ exitAddr) :
    s.transfer pc f = .ok ((f s).jump pc) := by
  simp [State.transfer, h]

/-- A transfer to the exit address is a release first (R394). -/
theorem transfer_exit {s u : State} (f : State → State) (h : s.release .pkg = .ok u) :
    s.transfer exitAddr f = .ok ((f u).jump exitAddr) := by
  simp [State.transfer, h]

theorem directJump_aligned {s : State} {pc : Word} (rd : BitVec 5) (ha : pc.toNat % 4 = 0) (he : pc ≠ exitAddr) :
    s.directJump rd pc = .ok ((s.setX rd (s.me.pc + 4)).jump pc) := by
  rw [State.directJump, if_neg (by simp [ha]), transfer_of_ne_exit _ he]

theorem directJump_misaligned {s : State} {pc : Word} (rd : BitVec 5) (ha : pc.toNat % 4 ≠ 0) :
    s.directJump rd pc = s.raise 0 pc := by
  rw [State.directJump, if_pos (by simp [ha])]

/-! ### The check of a pad (R24) -/

theorem padAt_ptrE {s : State} {p : Word} (loc k : Nat) (h : ptrE p = true) :
    s.padAt loc p k = (s, some (causeControlFlow, p)) := by
  simp [State.padAt, h]

/-- The exit address passes as a pad of K 0 (R394). -/
theorem padAt_exit (s : State) (loc : Nat) : s.padAt loc exitAddr 0 = (s, none) := rfl

theorem padAt_fetch {s u : State} {loc w : Nat} {p : Word} (h63 : ptrE p = false) (h56 : p.toNat / 2 ^ 56 % 8 = 0)
    (ha : p.toNat % 4 = 0) (he : ptrAddr p ≠ exitAddr) (hf : s.fetch loc (ptrAddr p) = (u, .ok w)) :
    s.padAt loc p (ptrK p) = (u, if w == lpadWord (ptrK p) then none else some (causeControlFlow, p)) := by
  unfold State.padAt
  rw [if_neg (by rw [h63, h56]; simp), if_neg (by simpa using he), if_neg (by simp [ha])]
  simp only [hf]

theorem checkPad_ptrE {s : State} {p : Word} (k : Nat) (h : ptrE p = true) : s.checkPad p k = s.raise causeControlFlow p := by
  rw [State.checkPad, padAt_ptrE _ _ h]

theorem checkPad_exit (s : State) : s.checkPad exitAddr (ptrK exitAddr) = .ok s := by
  rw [State.checkPad, show ptrK exitAddr = 0 from rfl, padAt_exit]

theorem checkPad_no_pad {s u : State} {w : Nat} {p : Word} (h63 : ptrE p = false) (h56 : p.toNat / 2 ^ 56 % 8 = 0)
    (ha : p.toNat % 4 = 0) (he : ptrAddr p ≠ exitAddr) (hf : s.fetch s.cur (ptrAddr p) = (u, .ok w))
    (hw : w ≠ lpadWord (ptrK p)) : s.checkPad p (ptrK p) = u.raise causeControlFlow p := by
  rw [State.checkPad, padAt_fetch h63 h56 ha he hf, if_neg (by simpa using hw)]

/-- The pointer that `jalr` goes to. -/
def State.jalrPtr (s : State) (rs1 : BitVec 5) (off : BitVec 12) : Word := (s.x rs1 + off.signExtend 64) &&& ~~~(1 : Word)

theorem exec_jalr (rd rs1 : BitVec 5) (off : BitVec 12) (s : State) :
    exec (.jalr rd rs1 off) s = Go.done (s.checkPad (s.jalrPtr rs1 off) (ptrK (s.jalrPtr rs1 off)) >>= fun u =>
      u.transfer (ptrAddr (s.jalrPtr rs1 off)) (·.setX rd (s.me.pc + 4))) := rfl

theorem exec_jal (rd : BitVec 5) (off : BitVec 20) (s : State) :
    exec (.rv64BaseInstruction (.jal rd off)) s = Go.done (s.directJump rd (s.me.pc + jalOffset off)) := rfl

theorem exec_br (op : BrOp) (rs1 rs2 : BitVec 5) (off : BitVec 12) (s : State) :
    exec (.rv64BaseInstruction (.br op rs1 rs2 off)) s
      = Go.done (if brTaken op (s.x rs1) (s.x rs2) then s.directJump 0 (s.me.pc + brOffset off) else .ok (s.retire 4)) := rfl

/-- Settles O10: each clause is a transfer, a trap before it, or a move past the instruction. -/
theorem jumpsAndBranches : Obligations.JumpsAndBranches := by
  unfold Obligations.JumpsAndBranches
  refine ⟨?jal, ?jalMisaligned, ?taken, ?takenMisaligned, ?notTaken, ?jalr, ?exit, ?graph, ?noPad⟩
  case jal =>
    intro rd off s ha he
    refine ⟨_, by rw [exec_jal, directJump_aligned rd ha he, done_ok], threadJump_setX _ _ _ _, fun q => ?_⟩
    rw [x_jump, x_setX]
  case jalMisaligned =>
    intro rd off s ha
    rw [exec_jal, directJump_misaligned rd ha, done_raise]
  case taken =>
    intro op rs1 rs2 off s ht ha he
    exact ⟨_, by rw [exec_br, if_pos ht, directJump_aligned 0 ha he, done_ok], threadJump_setX_zero _ _ _⟩
  case takenMisaligned =>
    intro op rs1 rs2 off s ht ha
    rw [exec_br, if_pos ht, directJump_misaligned 0 ha, done_raise]
  case notTaken =>
    intro op rs1 rs2 off s ht
    exact ⟨_, by rw [exec_br, if_neg (by simp [ht]), done_ok], writesNone_retire s 4⟩
  case jalr =>
    intro rd rs1 off s u p hp he
    refine ⟨_, ?_, threadJump_setX u rd (s.me.pc + 4) (ptrAddr p), fun q => ?_⟩
    · rw [exec_jalr, show s.jalrPtr rs1 off = p from rfl, hp, ok_bind, transfer_of_ne_exit _ he, done_ok]
    · rw [x_jump, x_setX]
  case exit =>
    intro rd rs1 off s u hp hr
    refine ⟨_, ?_, threadJump_setX u rd (s.me.pc + 4) exitAddr, fun q => ?_⟩
    · rw [exec_jalr, show s.jalrPtr rs1 off = exitAddr from hp, checkPad_exit, ok_bind,
        show ptrAddr exitAddr = exitAddr from rfl, transfer_exit _ hr, done_ok]
    · rw [x_jump, x_setX]
  case graph =>
    intro rd rs1 off s p h63
    rw [exec_jalr, show s.jalrPtr rs1 off = p from rfl, checkPad_ptrE _ h63, raise_bind, done_raise]
    rfl
  case noPad =>
    intro rd rs1 off s u w p h63 h56 ha he hf hw
    rw [exec_jalr, show s.jalrPtr rs1 off = p from rfl, checkPad_no_pad h63 h56 ha he hf hw, raise_bind, done_raise]
    rfl

end Sys2Proof.Machine
end

section
/-! PROOFS. `callt`, the return to its thread, and `rett` (O36). -/

namespace Sys2Proof.Machine

/-! ### `callt` through a control-flow pointer (R24, R136) -/

theorem callt_gang {s : State} (rd rs1 rs2 : BitVec 5) (h : s.me.gang.isSome = true) :
    exec (.callt rd rs1 rs2) s = .next (s.trap s.cur { cause := 27 }) := by
  show execCallt rd rs1 rs2 s = _
  rw [execCallt, if_pos h, done_raise]

theorem callt_code {s d u : State} {rd rs1 rs2 : BitVec 5} (hg : s.me.gang = none) (hd : s.syncGate = .ok d)
    (hp : ptrE (s.x rs1) = false) (hu : d.checkPad (s.x rs1) 1 = .ok u) :
    exec (.callt rd rs1 rs2) s = .next (((u.setX rd Status.ok.word).setX 1 (s.me.pc + 4)).jump (ptrAddr (s.x rs1))) := by
  show execCallt rd rs1 rs2 s = _
  rw [execCallt, if_neg (by simp [hg]), hd, ok_bind, if_neg (by simp [hp]), hu, ok_bind, done_ok]

theorem callt_graph {s d : State} {rd rs1 rs2 : BitVec 5} (hg : s.me.gang = none) (hd : s.syncGate = .ok d)
    (hp : ptrE (s.x rs1) = true) :
    exec (.callt rd rs1 rs2) s = Go.done (d.callGraph rd (s.x rs1) ((s.x rs2).truncate 32)) := by
  show execCallt rd rs1 rs2 s = _
  rw [execCallt, if_neg (by simp [hg]), hd, ok_bind, if_pos hp]

theorem threadJump_setX_setX (s : State) (p q : BitVec 5) (v w a : Word) :
    ThreadJump s (((s.setX p v).setX q w).jump a) a { s.me with x := (((s.setX p v).setX q w).jump a).me.x } := by
  have e : (s.setX p v).setX q w = s.modMe (fun t => (t.wx p v).wx q w) := modMe_modMe s _ _
  rw [e]
  exact threadJump_modMe a (by rw [wx_eta (s.me.wx p v) q w, wx_eta s.me p v])

/-! ### `callt` through a graph pointer (R28, R29, R136) -/

/-- Where `callt` finds the descriptor of its callee: in its own wait, where it has read it before, or in memory. -/
inductive Described (s : State) (p : Word) (u : State) (b : Nat) : Prop where
  | kept (h : s.me.wait.bind Wait.blk = some b) (hu : u = s)
  | read (h : s.me.wait.bind Wait.blk = none) (h56 : p.toNat / 2 ^ 56 % 8 = 0) (hk : ptrK p = 1) (ha : (ptrAddr p).toNat % 64 = 0)
      (v : State) (hv : s.load (ptrAddr p) 8 = .ok (v, descMagic)) (hu : v.loadBlock (ptrAddr p) 8 = .ok (u, b))

/-- The size of a callee's frame, by its descriptor. -/
def calleeSize (b : Nat) : Nat := frameSize (b / 2 ^ (8 * 0x28) % 2 ^ 32)

/-- The callee's frame lies below the stack pointer. -/
def State.calleeFrame (s : State) (b : Nat) : Word := s.x 2 - BitVec.ofNat 64 (calleeSize b)

/-- The callee's frame is written, with the argument registers of `u`. -/
def State.writeCallee (s u : State) (p : Word) (tag : Half) (b : Nat) : State :=
  (u.engPut (s.viewOf s.cur) (s.agentAt s.cur) (s.calleeFrame b)
    (frameImage (tag.toNat * 2 ^ 32 + (s.locid s.cur).toNat) p u.me.frameArgs)).1

/-- How the callee's frame is to open: `s` is the state in which the thread calls, `t` the thread that has its inbox entry. -/
def State.calleeOpening (s : State) (t : Slot) (p : Word) (b : Nat) : Opening :=
  { id := s.nextFrame, desc := ptrAddr p, hash := ((s.codeAt (dieOf s.cur) (ptrAddr p).toNat).map Prod.fst).getD 0, same := false,
    act := s.calleeFrame b, own := false, buf := t.frameArgs, caller := .thread s.tid.1 s.tid.2, depth := (s.parentOf t).2,
    parent := (s.parentOf t).1, limit := s.waitlim, rights := t.sc.pdrights, job := t.job, wuid := t.u.wuid.toNat,
    since := s.tick }

/-- What the thread keeps of the call. -/
def State.callRecord (s : State) (t : Slot) (rd : BitVec 5) (b : Nat) : CallRec :=
  ⟨t.pc, t.xr 2, s.calleeFrame b, rd, BitVec.ofNat 8 (b / 2 ^ (8 * 0x2F)), s.cycle + s.waitlim⟩

/-- The thread is blocked in CALL, and the callee's frame waits to open: `v` is the state after the release. -/
def State.blocked (v : State) (o : Opening) (code : Word) (c : CallRec) : State :=
  (({ v with nextFrame := v.nextFrame + 1 } : State).wake o code).modMe (fun u =>
    { u with st := .call, wait := none, calls := c :: u.calls })

theorem callGraph_blocks {s d z u v w : State} {rd : BitVec 5} {p : Word} {tag : Half} {b : Nat} (hr : s.awaitRefs = .ok d)
    (hh : d.me.held = []) (hz : d.awaitReleases = .ok z) (hb : Described d p u b)
    (hv : u.reserve { xs := [(rd, Status.timeout.word)] } (some b) = .ok v)
    (he : v.frameErr (s.viewOf s.cur) (s.calleeFrame b) (calleeSize b) = none)
    (hw : (s.writeCallee v p tag b).release .pkg = .ok w) :
    s.callGraph rd p tag = .ok (w.blocked (s.calleeOpening v.me p b)
      (BitVec.ofNat 64 (((s.codeAt (dieOf s.cur) (ptrAddr p).toNat).map (fun x => x.2.base)).getD 0))
      (s.callRecord v.me rd b)) := by
  simp only [State.writeCallee, State.calleeFrame, calleeSize] at he hw
  unfold State.callGraph
  simp only [hr, ok_bind, hh, hz, List.isEmpty_nil, Bool.not_true, Bool.false_eq_true, if_false]
  cases hb with
  | kept h hu =>
    subst hu
    simp only [h, ok_bind, hv, he, hw, State.reserved]
    rfl
  | read h h56 hk ha x hx hu =>
    simp only [h, h56, hk, ha, bne_self_eq_false, Bool.or_self, Bool.false_eq_true, if_false, hx, ok_bind, hu, hv, he, hw,
      State.reserved]
    rfl

theorem me_blocked (v : State) (o : Opening) (code : Word) (c : CallRec) :
    (v.blocked o code c).me = { v.me with st := .call, wait := none, calls := c :: v.me.calls } := by
  rw [State.blocked, me_modMe]
  rfl

/-! ### The return of a graph call (R29, R30, R137) -/

/-- The thread takes the return message of its innermost call, and is at its `callt` again. -/
def State.resumed (s : State) (c : CallRec) (r : List CallRec) : State :=
  s.modMe (fun t => { t.takeMsg (fun q => q.isReturn && q.value == c.frame) with calls := r, st := .ready, pc := c.pc })

theorem calltReturn_fault {s : State} {c : CallRec} {r : List CallRec} {m : Msg} (hc : s.me.calls = c :: r)
    (hm : s.me.returnMsg = some m) (hs : s.me.st = .call) (hf : m.status = Status.fault.byte) :
    exec .calltReturn s = .next ((s.resumed c r).trap s.cur { cause := 53, tval := c.frame, frame := c.frame }) := by
  show execCalltReturn s = _
  simp only [execCalltReturn, hc, hm]
  rw [if_neg (by simp [hs]), if_pos (by simp [hf])]
  rfl

/-- A call that did not fault: its results are copied if it returned with OK, and its status is written. -/
theorem calltReturn_resumes {s u : State} {c : CallRec} {r : List CallRec} {m : Msg} (hc : s.me.calls = c :: r)
    (hm : s.me.returnMsg = some m) (hs : s.me.st = .call) (hf : m.status ≠ Status.fault.byte)
    (hu : (if m.status == Status.ok.byte then (s.resumed c r).copyResults c.frame c.retMask else .ok (s.resumed c r)) = .ok u) :
    exec .calltReturn s = .next ((u.setX c.rd (m.status.zeroExtend 64)).retire 4) := by
  unfold State.resumed at hu
  show execCalltReturn s = _
  simp only [execCalltReturn, hc, hm]
  rw [if_neg (by simp [hs]), if_neg (by simpa using hf), hu]

theorem calltReturn_ok {s u : State} {c : CallRec} {r : List CallRec} {m : Msg} (hc : s.me.calls = c :: r)
    (hm : s.me.returnMsg = some m) (hs : s.me.st = .call) (ho : m.status = Status.ok.byte)
    (hu : (s.resumed c r).copyResults c.frame c.retMask = .ok u) :
    exec .calltReturn s = .next ((u.setX c.rd 0).retire 4) := by
  rw [calltReturn_resumes hc hm hs (by rw [ho]; decide) (by rw [if_pos (by simp [ho]), hu]), ho]
  rfl

theorem calltReturn_other {s : State} {c : CallRec} {r : List CallRec} {m : Msg} (hc : s.me.calls = c :: r)
    (hm : s.me.returnMsg = some m) (hs : s.me.st = .call) (hf : m.status ≠ Status.fault.byte)
    (ho : m.status ≠ Status.ok.byte) :
    exec .calltReturn s = .next (((s.resumed c r).setX c.rd (m.status.zeroExtend 64)).retire 4) :=
  calltReturn_resumes hc hm hs hf (by rw [if_neg (by simpa using ho)])

theorem graphCallTimeout_traps {s : State} {c : CallRec} {r : List CallRec} (hc : s.me.calls = c :: r)
    (hm : s.me.returnMsg = none) (hs : s.me.st = .call) (hd : c.deadline ≤ s.cycle) :
    exec .graphCallTimeout s
      = .next ((s.modMe (fun t => { t with pc := c.pc, sc := { t.sc with thstat := true } })).trap s.cur
          { cause := 54, tval := c.frame, frame := c.frame }) := by
  show execGraphCallTimeout s = _
  simp [execGraphCallTimeout, hc, hm, hs, hd]

/-! ### `rett` (R138) -/

theorem rett_outside {s : State} (h : s.me.cbDepth = 0) : exec .rett s = .next (s.trap s.cur { cause := causeControlFlow }) := by
  show execRett s = _
  rw [execRett, if_pos (by simp [h]), done_raise]

theorem afterCallback_blocked {t : Slot} {c : CallRec} {r : List CallRec} (lives : Bool) (cycle : Nat) (hp : t.poolOf = none)
    (hc : t.calls = c :: r) :
    t.afterCallback lives cycle
      = { t.wx 2 c.sp with cbDepth := t.cbDepth - 1, cbStack := t.cbStack.drop 1, wait := none, instret := t.instret + 1,
                           st := .call, pc := c.pc, calls := { c with deadline := cycle + t.u.waitlim.toNat } :: r } := by
  unfold Slot.afterCallback
  rw [if_neg (by simp [hp]), hc]
  rfl

/-- A callback on a thread of no pool answers its node, and the thread is blocked in its `callt` again. -/
theorem rett_answers {s u : State} {k : CbRef} {q : List CbRef} (hd : s.me.cbDepth ≠ 0) (hr : s.release .pkg = .ok u)
    (hp : u.me.poolOf = none) (hk : u.me.cbStack = k :: q) :
    exec .rett s = .next ((u.answerCall k.node k.frame Status.ok.byte u.me.callbackResults).modMe
      (fun t => t.afterCallback false s.cycle)) := by
  show execRett s = _
  rw [execRett, if_neg (by simpa using hd), hr, ok_bind]
  simp [hp, hk]

/-- Settles O36: each clause is the equation of its word or step above, with what that state holds. -/
theorem callsAndReturns : Obligations.CallsAndReturns := by
  unfold Obligations.CallsAndReturns
  refine ⟨?code, ?gang, ?graph, ?returned, ?status, ?timeout, fun s => rett_outside, ?rett⟩
  case code =>
    intro rd rs1 rs2 s d u hg hd hp hu
    refine ⟨_, callt_code hg hd hp hu, threadJump_setX_setX _ _ _ _ _ _, fun r => ?_⟩
    rw [x_jump, x_setX, x_setX]
    by_cases h : r = 0
    · rw [if_pos h, if_pos h]
    · rw [if_neg h, if_neg h, if_neg h]
  case gang => exact fun rd rs1 rs2 s => callt_gang rd rs1 rs2
  case graph =>
    intro rd rs1 rs2 s d d' z s1 s2 s3 s5 b p a size f hg hd hp hr hh hz hb h3 he s4 h5
    have hb' : Described d' p s2 b := by
      rcases hb with ⟨h, hu⟩ | ⟨h, h56, hk, ha, hv, hu⟩
      · exact .kept h hu
      · exact .read h h56 hk ha s1 hv hu
    have hcall := (callt_graph hg hd hp).trans (congrArg Go.done (callGraph_blocks hr hh hz hb' h3 he h5))
    exact ⟨_, _, hcall, rfl, rfl, rfl, rfl, rfl, rfl, rfl, rfl, rfl, me_blocked _ _ _ _⟩
  case returned => exact fun s c r m u hc hm hs ho hu => ⟨_, calltReturn_ok hc hm hs ho hu, writesX_retire u c.rd 0 4⟩
  case status =>
    intro s c r m hc hm hs ho
    exact ⟨calltReturn_fault hc hm hs, fun hf => ⟨_, calltReturn_other hc hm hs hf ho, writesX_retire _ _ _ 4⟩⟩
  case timeout => exact fun s c r => graphCallTimeout_traps
  case rett =>
    intro s u k q c r hd hr hp hk hc
    refine ⟨_, rett_answers hd hr hp hk, rfl, ?_⟩
    rw [me_modMe]
    show u.me.afterCallback false s.cycle = _
    rw [afterCallback_blocked false s.cycle hp hc, hk]
    rfl

end Sys2Proof.Machine
end

section
/-! PROOFS. `call` nodes and callbacks (O37). -/

namespace Sys2Proof.Machine

/-! ### A node that fires -/

/-- A candidate whose condition holds makes its step, and its frame has fired. -/
theorem atNode_fires {s t : State} {kind : Nat} {f : Fire} {k : Fire → Option State} (hf : s.candidate kind = some f)
    (hk : k f = some t) : s.atNode kind k = .next (t.fired s.site) := by
  simp only [State.atNode, hf, hk]

/-! ### `call` nodes with a control-flow target (R31, R34, R236) -/

/-- The heads of a `call` node, by port. -/
def Fire.callHeads (f : Fire) : List (Nat × Token) :=
  ((List.range 9).filter f.fed).filterMap (fun p => (f.head p).map (fun t => (p, t)))

/-- A `call` node that has no call out, with every head, room, and a control-flow target that is good: it is to call, and has
waited for a pool thread since `sn` if it has. -/
structure MayCall (s : State) (f : Fire) (h : Nat × Token) (hs : List (Nat × Token)) (sn : Option Nat) : Prop where
  candidate : s.candidate 9 = some f
  state : ∃ e tag fr args, f.st = .call false e tag fr args none sn
  heads : f.callHeads = h :: hs
  every : f.callHeads.length = ((List.range 9).filter f.fed).length
  room : f.can [0, 1, 2, 3, 4, 5, 8] = true
  certain : f.speculative h.2.tag = false
  good : ∀ x ∈ f.callHeads, tagErr x.2.tag = false
  target : s.targetErr f.view f.n.callTarget = none
  code : ptrE f.n.callTarget = false

/-- The frame waits for the call of its node, whose heads are consumed. -/
def Fire.calling (f : Fire) (h : Nat × Token) (hs : List (Nat × Token)) (s : State) : State :=
  (f.suspend h.2.tag 0 (h :: hs) none).put s

/-- What such a node does: the thread at the root will run the callback, or an idle pool thread, or it waits for one. -/
def State.callCode (s : State) (f : Fire) (h : Nat × Token) (hs : List (Nat × Token)) (sn : Option Nat) : Option State :=
  if (s.root f.slot).isSome then some (f.calling h hs s)
  else
    match s.idlePool f.slot.job with
    | some loc => some ((f.calling h hs s).modSlot loc (fun t => { t with cbStack := [⟨f.n.id, f.slot.id⟩] }))
    | none => if sn.isSome then none else some ((f.set (.call false false 0 0 [] none (some s.cycle))).put s)

theorem callNodeFire_calls {s t : State} {f : Fire} {h : Nat × Token} {hs : List (Nat × Token)} {sn : Option Nat}
    (hc : MayCall s f h hs sn) (ht : s.callCode f h hs sn = some t) : exec .callNodeFire s = .next (t.fired s.site) := by
  obtain ⟨hf, ⟨e, tag, fr, args, hst⟩, hh, hall, hroom, hspec, hgood, htarget, hcode⟩ := hc
  have herr : (h :: hs).find? (fun x => tagErr x.2.tag) = none := by
    rw [← hh, List.find?_eq_none]
    intro x hx
    simp [hgood x hx]
  have hlen : ((h :: hs).length != ((List.range 9).filter f.fed).length) = false := by rw [← hh, hall, bne_self_eq_false]
  refine atNode_fires hf ?_
  unfold Fire.callHeads at hh
  simp only [hst, hh, hlen, hroom, hspec, Bool.not_true, Bool.or_self, Bool.false_eq_true, if_false, herr, htarget, hcode]
  exact ht

theorem callCode_root {s : State} {f : Fire} (h : Nat × Token) (hs : List (Nat × Token)) (sn : Option Nat)
    (hr : (s.root f.slot).isSome = true) : s.callCode f h hs sn = some (f.calling h hs s) := by
  rw [State.callCode, if_pos hr]

theorem callCode_pool {s : State} {f : Fire} {loc : Nat} (h : Nat × Token) (hs : List (Nat × Token)) (sn : Option Nat)
    (hr : s.root f.slot = none) (hp : s.idlePool f.slot.job = some loc) : s.callCode f h hs sn
      = some ((f.calling h hs s).modSlot loc (fun t => { t with cbStack := [⟨f.n.id, f.slot.id⟩] })) := by
  rw [State.callCode, if_neg (by simp [hr]), hp]

theorem callCode_waits {s : State} {f : Fire} (h : Nat × Token) (hs : List (Nat × Token)) (hr : s.root f.slot = none)
    (hp : s.idlePool f.slot.job = none) : s.callCode f h hs none
      = some ((f.set (.call false false 0 0 [] none (some s.cycle))).put s) := by
  rw [State.callCode, if_neg (by simp [hr]), hp]
  rfl

/-! ### The return of a call (R32, R236) -/

/-- A site with a slot number names no spilled frame. -/
theorem spilledCall_resident {s : State} (h : s.site.fs < 4) : s.spilledCall = none := by
  unfold State.spilledCall
  split
  · rfl
  · rw [if_pos (by simp [h])]

theorem callNodeReturn_resident {s t : State} {f : Fire} {e : Bool} {tag : BitVec 15} {fr : Word} {args : List (Nat × Token)}
    {st : BitVec 8} {ws : List Word} {sn : Option Nat} (h4 : s.site.fs < 4) (hf : s.candidate 9 = some f)
    (hst : f.st = .call true e tag fr args (some (st, ws)) sn)
    (ht : (if st != Status.ok.byte then some (s.fabTrap f.r.num f.n.id f.fs { cause := 0xA, status := some st })
      else if !f.can [0, 1, 2, 3, 4, 5, 8] then none
      else some (((callOutputs tag ws).foldl (fun (x : Fire) o => x.send o.1 o.2)
        (f.set (.call false false 0 0 [] none none))).put s)) = some t) :
    exec .callNodeReturn s = .next (t.fired s.site) := by
  show execCallNodeReturn s = _
  unfold execCallNodeReturn
  rw [spilledCall_resident h4]
  refine atNode_fires hf ?_
  simp only [hst]
  exact ht

theorem callNodeReturn_spilled {s : State} {r : Region} {p : Spill} {e : Bool} {tag : BitVec 15} {fr : Word}
    {args : List (Nat × Token)} {st : BitVec 8} {ws : List Word} {sn : Option Nat}
    (h : s.spilledCall = some (r, p, .call true e tag fr args (some (st, ws)) sn)) :
    exec .callNodeReturn s = .next (s.spilledReturn r p st) := by
  show execCallNodeReturn s = _
  unfold execCallNodeReturn
  rw [h]

theorem spilledReturn_free {s : State} {r : Region} {p : Spill} {k : Nat} (hk : r.freeSlot = some k) :
    s.spilledReturn r p Status.ok.byte = if r.roomFor p k then s.restore r p k else s := by
  unfold State.spilledReturn
  rw [if_neg (by simp), hk]

/-! ### Callbacks (R33 to R35) -/

theorem callIn_resident {s : State} {f : Fire} {tag : BitVec 15} {fr : Word} {args : List (Nat × Token)} {sn : Option Nat}
    (h4 : s.site.fs < 4) (hn : s.siteNode = some f) (hst : f.st = .call true false tag fr args none sn) (hr : f.r.fires = true)
    (hk : f.n.kind = 9) (hs : f.slot.st = .suspended) (he : f.r.elementOk f.n = true) (hc : ptrE f.n.callTarget = false)
    (hp : f.r.precedes f.fs (f.slot.extWave (tagSeq tag)) = false) :
    s.callIn = some ⟨f.r, f.n, f.slot, f.fs, tag, args, (f.set (.call true true tag fr args none sn)).r⟩ := by
  unfold State.callIn
  rw [spilledCall_resident h4]
  simp [hn, hst, hr, hk, hs, he, hc, hp, NSt.enter]

theorem callbackEntry_enters {s : State} {c : CallIn} {loc : Nat} (hc : s.callIn = some c)
    (hl : (s.root c.slot).bind s.locOf = some loc) (hs : (s.slot loc).st = .call) (hm : (s.slot loc).returnMsg = none) :
    exec .callbackEntry s = .next ((c.entered s).modSlot loc (fun u =>
      u.enter c.n.callTarget (callArgs c.n c.args) (BitVec.ofNat 64 (c.slot.act.toNat / 64 * 64)) ⟨c.n.id, c.slot.id⟩)) := by
  show execCallbackEntry s = _
  simp [execCallbackEntry, hc, hl, hs, hm]

/-- The pool thread of a job as it enters the callback that its node took it for. -/
def CallIn.assigned (c : CallIn) (j : Job) (t : Slot) : Slot :=
  { ((t.bound j c.slot.wuid).enter c.n.callTarget (callArgs c.n c.args) t.sc.stkinit ⟨c.n.id, c.slot.id⟩) with
    cbStack := [⟨c.n.id, c.slot.id⟩], poolOf := some j.id, ctx := t.ctx, ctxCounter := t.ctxCounter }

theorem callbackPoolAssign_enters {s : State} {c : CallIn} {j : Job} {loc : Nat} (hc : s.callIn = some c)
    (hj : c.slot.job.bind s.job = some j) (hl : s.poolFor ⟨c.n.id, c.slot.id⟩ = some loc) :
    exec .callbackPoolAssign s = .next ((c.entered s).modSlot loc (c.assigned j)) := by
  show execCallbackPoolAssign s = _
  simp only [execCallbackPoolAssign, hc, hj, hl]
  rfl

/-- A callback has no return address. -/
theorem xr_enter_one (t : Slot) (p : Word) (b : FrameBuf) (sp : Word) (c : CbRef) : (t.enter p b sp c).xr 1 = 0 := by
  show (((t.withArgs b).wx 1 0).wx 2 sp).xr 1 = 0
  rw [xr_wx_ne _ _ (by decide), xr_wx_same _ _ _ (by decide)]

theorem xr_enter_two (t : Slot) (p : Word) (b : FrameBuf) (sp : Word) (c : CbRef) : (t.enter p b sp c).xr 2 = sp := by
  show (((t.withArgs b).wx 1 0).wx 2 sp).xr 2 = sp
  exact xr_wx_same _ _ _ (by decide)

theorem cbDepth_enter (t : Slot) (p : Word) (b : FrameBuf) (sp : Word) (c : CbRef) :
    (t.enter p b sp c).cbDepth = t.cbDepth + 1 := by
  simp [Slot.enter, Slot.withArgs]

theorem cbStack_enter (t : Slot) (p : Word) (b : FrameBuf) (sp : Word) (c : CbRef) :
    (t.enter p b sp c).cbStack = c :: t.cbStack := by
  simp [Slot.enter, Slot.withArgs]

/-- A thread that the dispatcher starts is in no callback. -/
theorem bound_cbDepth (t : Slot) (j : Job) (wuid : Nat) : (t.bound j wuid).cbDepth = 0 := by
  simp only [Slot.bound, Slot.startQuantum, Slot.clamped]
  split <;> rfl

theorem xr_assigned (c : CallIn) (j : Job) (t : Slot) (r : BitVec 5) : (c.assigned j t).xr r
    = ((t.bound j c.slot.wuid).enter c.n.callTarget (callArgs c.n c.args) t.sc.stkinit ⟨c.n.id, c.slot.id⟩).xr r := by
  simp only [Slot.xr, CallIn.assigned]

theorem cbDepth_assigned (c : CallIn) (j : Job) (t : Slot) : (c.assigned j t).cbDepth = 1 := by
  simp only [CallIn.assigned, cbDepth_enter, bound_cbDepth]
  rfl

theorem poolTimeout_traps {s : State} {f : Fire} {tag : BitVec 15} {fr : Word} {args : List (Nat × Token)} {since : Nat}
    (hn : s.siteNode = some f) (hst : f.st = .call false false tag fr args none (some since)) (hr : f.r.fires = true)
    (hs : f.slot.st = .running) (hl : since + f.slot.limit ≤ s.cycle) (hp : s.idlePool f.slot.job = none) :
    exec .poolTimeout s = .next (s.fabTrap f.r.num f.n.id f.fs { cause := 0xC }) := by
  show execPoolTimeout s = _
  simp [execPoolTimeout, hn, hst, hr, hs, hl, hp]

/-- Settles O37: each clause is the equation of its step above, with what the entered thread holds. -/
theorem callNodesAndCallbacks : Obligations.CallNodesAndCallbacks := by
  unfold Obligations.CallNodesAndCallbacks
  refine ⟨?fire, ?returned, ?status, ?spilled, ?callIn, ?entry, ?assign, ?timeout⟩
  case fire =>
    intro s f e tag fr args sn h hs heads hf hst hh hall hroom hspec hgood htarget hcode u
    have hc : MayCall s f h hs sn := ⟨hf, ⟨e, tag, fr, args, hst⟩, hh, hall, hroom, hspec, hgood, htarget, hcode⟩
    have hu : f.calling h hs s = u := by rw [Fire.calling, ← hh]
    refine ⟨fun hr => ?_, fun loc hr hp => ?_, fun hr hp hn => ?_⟩
    · rw [callNodeFire_calls hc (callCode_root h hs sn hr), hu]
    · rw [callNodeFire_calls hc (callCode_pool h hs sn hr hp), hu]
    · subst hn
      exact callNodeFire_calls hc (callCode_waits h hs hr hp)
  case returned =>
    intro s f e tag fr args ws sn h4 hf hst hroom
    exact callNodeReturn_resident h4 hf hst (by rw [if_neg (by simp), if_neg (by simp [hroom])])
  case status =>
    intro s f e tag fr args st ws sn h4 hf hst hne
    exact callNodeReturn_resident h4 hf hst (by rw [if_pos (by simpa using hne)])
  case spilled =>
    intro s r p a e tag fr args ws sn k hsp hk ha
    rw [callNodeReturn_spilled hsp, spilledReturn_free hk, ha]
  case callIn => exact fun s f tag fr args sn => callIn_resident
  case entry =>
    intro s c loc hc hl hs hm
    refine ⟨_, callbackEntry_enters hc hl hs hm, ?_⟩
    rw [slot_modSlot_same]
    exact ⟨rfl, rfl, cbDepth_enter _ _ _ _ _, xr_enter_one _ _ _ _ _, xr_enter_two _ _ _ _ _, cbStack_enter _ _ _ _ _,
      fun l hl => slot_modSlot_ne _ _ hl⟩
  case assign =>
    intro s c j loc hc hj hl
    refine ⟨_, callbackPoolAssign_enters hc hj hl, ?_⟩
    rw [slot_modSlot_same]
    refine ⟨rfl, rfl, rfl, cbDepth_assigned _ _ _, ?_, ?_, rfl, fun l hl => slot_modSlot_ne _ _ hl⟩
    · rw [xr_assigned, xr_enter_one]
    · rw [xr_assigned, xr_enter_two]
  case timeout => exact fun s f tag fr args since => poolTimeout_traps

end Sys2Proof.Machine
end

section
/-! PROOFS. Tokens, phases, frames and fabric traps (O47). -/

namespace Sys2Proof.Machine

/-! ### Tokens, credits and phases (R184, R188, R190) -/

theorem tokenArrival_arrives {s : State} {f : Fire} {e : Nat × Nat × Token} (hn : s.siteNode = some f)
    (he : f.r.flight.find? (atPort f.n.id s.sub f.fs) = some e) :
    exec .tokenArrival s = .next (s.setRegion { f.r with
      flight := dropFirst (atPort f.n.id s.sub f.fs) f.r.flight, chan := f.r.chan ++ [e] }) := by
  show execTokenArrival s = _
  simp only [execTokenArrival, hn, he]

/-- A region after a phase end of a frame: its multi-phase elements stand in the phases that they named. -/
def Region.phaseEnded (r : Region) (fs : Nat) : Region :=
  { r with eregs := r.eregs.map (fun e =>
      match r.phased.find? (fun n => n.id == e.node) with
      | some n => if e.fs == fs then { e with phase := n.ctx0 + e.nextPhase, p := e.p &&& 0x1F } else e
      | none => e) }

theorem phaseEnd_advances {s : State} {r : Region} (hr : s.region s.site.rgn = some r) (hf : r.fires = true)
    (hs : (r.fslot s.site.fs).st = .running) (he : r.phaseEnd s.site.fs = true)
    (hn : ∀ n ∈ r.phased, ∀ e, r.ereg n.id s.site.fs = some e → e.nextPhase < n.ctxs) :
    exec .phaseEnd s = .next (s.setRegion (r.phaseEnded s.site.fs)) := by
  have hnone : r.phased.find? (fun n => (r.ereg n.id s.site.fs).any (fun e => n.ctxs ≤ e.nextPhase)) = none := by
    rw [List.find?_eq_none]
    intro n hmem
    cases hreg : r.ereg n.id s.site.fs with
    | none => simp
    | some e => simpa using hn n hmem e hreg
  show execPhaseEnd s = _
  simp only [execPhaseEnd, hr, hf, hs, he, hnone]
  rfl

theorem region_modRegion_some {s : State} {k : Nat} {r : Region} (f : Region → Region) (hf : ∀ q, (f q).num = q.num)
    (hr : s.region k = some r) : (s.modRegion k f).region k = some (f r) := by
  rw [region_modRegion s k k f hf, hr, Option.map_some, if_pos rfl]

/-! ### `frame` nodes (R237, R238) -/

theorem frameRead_reads {s u : State} {f : Fire} {v : Nat} (hf : s.candidate 10 = some f) (hst : f.st = .frame false)
    (hop : f.n.frameOp = 0) (h8 : f.fed 8 = false) (hroom : f.can [if f.n.frameSlot < 16 then 0 else 4] = true)
    (hg : s.frameGet f.view f.slot (slotOff f.n.frameSlot) (slotLen f.n.frameSlot) = .ok (u, v)) :
    exec .frameRead s = .next (((((f.take 8).set (.frame true)).send (if f.n.frameSlot < 16 then 0 else 4)
      (tokFor (if f.n.frameSlot < 16 then 0 else 4) v allLanes16 (((f.head 8).map Token.tag).getD f.fresh))).put u).fired
        s.site) := by
  refine atNode_fires hf ?_
  simp only [hst, hop, h8, hroom, hg]
  rfl

theorem frameWrite_own {s : State} {f : Fire} {t : Token} (hf : s.candidate 10 = some f)
    (ht : f.head (if f.n.frameSlot < 16 then 0 else 4) = some t) (hop : f.n.frameOp = 1) (hroom : f.can [8] = true)
    (hspec : f.speculative t.tag = false) (hown : f.slot.own = true) :
    exec .frameWrite s = .next ((((f.take (if f.n.frameSlot < 16 then 0 else 4)).send 8 (controlTok 0 t.tag)).put
      (s.put f.agent (.dram (f.slot.act.toNat + slotOff f.n.frameSlot)) (natBytes (slotLen f.n.frameSlot) t.data.toNat))).fired
        s.site) := by
  refine atNode_fires hf ?_
  simp only [ht, hop, hroom, hspec, hown]
  rfl

/-- What the status at an end node gives: the end of the frame, or the trap for a status that is none. -/
theorem frameEnd_ends {s u : State} {f : Fire} {t : Token} (hf : s.candidate 10 = some f) (ht : f.head 0 = some t)
    (hop : f.n.frameOp = 2) (hspec : f.speculative t.tag = false) (hwait : f.r.endWaits f.fs = false)
    (hu : (if tagErr t.tag || !finalStatus (t.data.toNat % 256) then s.fabTrap f.r.num f.n.id f.fs { cause := 0xB }
      else s.endFrame f.r.num f.fs (BitVec.ofNat 8 (t.data.toNat % 256))) = u) :
    exec .frameEnd s = .next (u.fired s.site) := by
  refine atNode_fires hf ?_
  simp only [ht, hop, hspec, hwait, ← hu]
  exact (apply_ite some _ _ _).symm

/-! ### Frame slots (R28, R203) -/

theorem frameOpen_opens {s : State} {o : Opening} {r : Region} {fs : Nat} (ho : s.openings[s.sub]? = some o)
    (hr : s.openAt o = some r) (hfs : r.freeSlot = some fs) :
    exec .frameOpen s = .next ((s.dropOpening o.id).openFrame r fs o) := by
  show execFrameOpen s = _
  simp only [execFrameOpen, ho, hr, hfs]

/-- A region in which nothing of a frame remains: its slot is FREE. -/
def Region.freed (r : Region) (fs : Nat) : Region :=
  { r.setFslot fs FSlot.free with
    eregs := r.eregs.filter (fun e => e.fs != fs), reqs := r.reqs.filter (fun q => q.fs != fs),
    waves := r.waves.filter (fun w => w.fs != fs) }

theorem frameSlotFree_frees {s : State} {r : Region} (hr : s.region s.site.rgn = some r)
    (hs : (r.fslot s.site.fs).st = .ending) (hc : ∀ e ∈ r.chan, tagFs e.2.2.tag ≠ s.site.fs)
    (hf : ∀ e ∈ r.flight, tagFs e.2.2.tag ≠ s.site.fs) (hq : ∀ q ∈ r.reqs, q.fs ≠ s.site.fs) :
    exec .frameSlotFree s = .next (if (r.fslot s.site.fs).endWait
      then (s.setRegion (r.freed s.site.fs)).frameReturn (r.freed s.site.fs) (r.fslot s.site.fs) (r.fslot s.site.fs).endStatus
      else s.setRegion (r.freed s.site.fs)) := by
  have hchan : r.chan.any (fun e => tagFs e.2.2.tag == s.site.fs) = false := by simpa using hc
  have hflight : r.flight.any (fun e => tagFs e.2.2.tag == s.site.fs) = false := by simpa using hf
  have hreqs : r.reqs.any (fun q => q.fs == s.site.fs && (q.op == 16 || q.st == .sent || r.mayPerform q)) = false := by
    rw [List.any_eq_false]
    intro q hmem
    simp [hq q hmem]
  show execFrameSlotFree s = _
  simp only [execFrameSlotFree, hr, hs, hchan, hflight, hreqs]
  rfl

theorem freed_reqs {r : Region} {fs : Nat} (h : ∀ q ∈ r.reqs, q.fs ≠ fs) : (r.freed fs).reqs = r.reqs :=
  List.filter_eq_self.mpr (fun q hq => by simpa using h q hq)

/-! ### Orphaned and stalled frames (R199) -/

theorem frameOrphaned_traps {s : State} {r : Region} (hr : s.region s.site.rgn = some r) (hf : r.fires = true)
    (ho : r.orphan s.site.fs = true) :
    exec .frameOrphaned s = .next (s.fabTrap r.num ((r.nodes.head?.map NodeRec.id).getD 0) s.site.fs { cause := 0xF }) := by
  show execFrameOrphaned s = _
  simp [execFrameOrphaned, hr, hf, ho]

theorem fabricStall_traps {s : State} {r : Region} {t n : Nat} (hr : s.region s.site.rgn = some r)
    (ht : (r.fslot s.site.fs).stallFrom = some t) (hn : r.holder s.site.fs = some n) (hf : r.fires = true)
    (hs : (r.fslot s.site.fs).st = .running) (hl : t + (r.fslot s.site.fs).limit ≤ s.cycle) (ha : r.awaits s.site.fs = false) :
    exec .fabricStall s = .next (s.fabTrap r.num n s.site.fs { cause := 5 }) := by
  show execFabricStall s = _
  simp [execFabricStall, hr, ht, hn, hf, hs, hl, ha]

/-! ### Fabric traps (R377) -/

theorem fabricTrapRaise_traps {s : State} {f : Fire} {c : Nat} (va : Word) (hn : s.siteNode = some f) (hs : f.slot.st = .running)
    (h1 : 1 ≤ c) (h15 : c ≤ 15) :
    exec (.fabricTrapRaise c va) s = .next (s.fabTrap s.site.rgn s.site.node s.site.fs { cause := c, va := va }) := by
  show execFabricTrapRaise c va s = _
  simp [execFabricTrapRaise, hn, hs, h1, h15]

/-- The region of a first trap has the record, and its die tells the service thread. -/
theorem region_noteTrap {s : State} {r q : Region} (x : FTrap) (hq : s.region r.num = some q) :
    (s.noteTrap r x).region r.num = some { r with trap := some (r.trap.getD x) } := by
  have h : (s.setRegion { r with trap := some (r.trap.getD x) }).region r.num = some { r with trap := some (r.trap.getD x) } := by
    rw [region_setRegion, if_pos rfl, hq]
    rfl
  unfold State.noteTrap
  split <;> exact h

theorem mem_ftPending_noteTrap {s : State} {r : Region} (x : FTrap) (hd : bitW (s.die r.die).ftsvc 63 = true)
    (ht : r.trap.any FTrap.delivered = false) : r.num ∈ ((s.noteTrap r x).die r.die).ftPending := by
  unfold State.noteTrap
  rw [if_pos (by simp [hd, ht]), die_modDie, if_pos rfl]
  by_cases hm : r.num ∈ (s.die r.die).ftPending
  · have hm' : r.num ∈ ((s.setRegion { r with trap := some (r.trap.getD x) }).die r.die).ftPending := hm
    simp [hm']
  · have hm' : r.num ∉ ((s.setRegion { r with trap := some (r.trap.getD x) }).die r.die).ftPending := hm
    simp [hm']

/-- A running region that a served page fault freezes, before its record is kept. -/
def Region.frozenBy (r : Region) (node fs : Nat) (i : FabInfo) : Region :=
  { r with
    faulted := if !r.faulted.contains node then r.faulted ++ [node] else r.faulted,
    resumable := if !r.faulted.contains node then r.resumable ++ [node] else r.resumable,
    st := .frozen, before := .frozen, boundary := some (r.boundary.getD (fs, i.wave, i.ord)) }

theorem fabTrap_served {s : State} {r : Region} {i : FabInfo} (node fs : Nat) (hr : s.region r.num = some r)
    (hs : r.st = .running) (hc : i.cause = 1) (hd : bitW (s.die r.die).ftsvc 63 = true) (hi : i.status = none) :
    s.fabTrap r.num node fs i
      = s.noteTrap (r.frozenBy node fs i) (r.trapRecord node fs i Status.preempted.byte s.tick) := by
  simp [State.fabTrap, hr, hs, hc, hd, hi, faultsElement, Region.frozenBy]

/-- Settles O47: each clause is the equation of its step above, with what the region that it leads to holds. -/
theorem framesTokensAndTraps : Obligations.FramesTokensAndTraps := by
  unfold Obligations.FramesTokensAndTraps
  refine ⟨fun s f e => tokenArrival_arrives, ?credit, fun s r => phaseEnd_advances, fun s u f v => frameRead_reads,
    fun s f t => frameWrite_own, ?frameEnd, fun s o r fs => frameOpen_opens, ?slotFree, fun s r => frameOrphaned_traps,
    fun s r t n => fabricStall_traps, fun s f c va => fabricTrapRaise_traps va,
    ?served⟩
  case credit =>
    intro s r hr
    exact ⟨_, _, rfl, rfl, region_modRegion_some _ (fun _ => rfl) hr, rfl⟩
  case frameEnd =>
    intro s f t st hf ht hop hspec hwait
    refine ⟨fun he hst => frameEnd_ends hf ht hop hspec hwait ?_, fun h => frameEnd_ends hf ht hop hspec hwait ?_⟩
    · rw [if_neg (by simpa [he] using hst)]
    · rw [if_pos (by simpa using h)]
  case slotFree =>
    intro s r fs hr hs hc hf hq
    exact ⟨r.freed fs, rfl, rfl, rfl, rfl, freed_reqs hq, frameSlotFree_frees hr hs hc hf hq⟩
  case served =>
    intro s r node fs i hr hs hc hd hi ht
    rw [fabTrap_served node fs hr hs hc hd hi]
    exact ⟨_, region_noteTrap (r := r.frozenBy node fs i) _ hr, rfl, rfl, rfl,
      mem_ftPending_noteTrap (r := r.frozenBy node fs i) _ hd ht⟩

end Sys2Proof.Machine
end

section
/-! PROOFS. Vector lanes, dot products, reductions and scans (O20, O24): a lane instruction by element, the twelve
floating-point meanings as one, and the results that are a whole register or a single element. -/

namespace Sys2Proof.Machine

/-! ### Lane instructions (R154, R158, R162) -/

/-- A lane instruction gives each active element its function of the three sources' elements at that place. -/
theorem vecResult_lanesOf (s : State) (a : VA) (f : Nat → Nat → Nat → Nat) (hty : a.ty ≠ .i64) :
    VecResult s (s.lanesOf a f) a.ty a.d (s.me.mask a.mask) (fun j =>
      f (elemOf a.ty.width (s.me.src a.ty false a.s1) j) (elemOf a.ty.width (s.me.src2 a.ty false a.s2) j)
        (elemOf a.ty.width (s.me.src3 a.ty a.s3) j)) :=
  vecResult_writeDst s a.ty a.d _ _ _ 0 hty (elemOf_buildReg a.ty.width _)

/-- A floating-point lane instruction gives each active element its function of the sources' exact values, encoded once
(R41 to R43). -/
theorem vecResult_fltLanes (s : State) (a : VA) (f : FV → FV → FV → FV) (hty : a.ty ≠ .i64) :
    VecResult s (s.fltLanes a f) a.ty a.d (s.me.mask a.mask) (fun j => a.ty.fmt.encode a.rnd a.sat
      (f (a.ty.fmt.decode (elemOf a.ty.width (s.me.src a.ty false a.s1) j))
        (a.ty.fmt.decode (elemOf a.ty.width (s.me.src2 a.ty false a.s2) j))
        (a.ty.fmt.decode (elemOf a.ty.width (s.me.src3 a.ty a.s3) j)))) := by
  unfold State.fltLanes
  exact vecResult_lanesOf s a _ hty

/-- Settles O20: each of the twelve means its function of the exact values, lane by lane. -/
theorem vectorFloatLanes : Obligations.VectorFloatLanes := by
  unfold Obligations.VectorFloatLanes
  intro a s hty w m x y z runs
  refine ⟨?add, ?sub, ?mul, ?fma, ?min, ?max, ?div, ?sqrt, ?rcp, ?rsq, ?exp2, ?log2⟩
  case add => exact ⟨_, rfl, vecResult_fltLanes s a (fun x y _ => x.add a.rnd y) hty⟩
  case sub => exact ⟨_, rfl, vecResult_fltLanes s a (fun x y _ => x.sub a.rnd y) hty⟩
  case mul => exact ⟨_, rfl, vecResult_fltLanes s a (fun x y _ => x.mul y) hty⟩
  case fma => exact ⟨_, rfl, vecResult_fltLanes s a (fun x y z => (x.mul y).add a.rnd z) hty⟩
  case min => exact ⟨_, rfl, vecResult_fltLanes s a (fun x y _ => x.minNum y) hty⟩
  case max => exact ⟨_, rfl, vecResult_fltLanes s a (fun x y _ => x.maxNum y) hty⟩
  case div => exact ⟨_, rfl, vecResult_fltLanes s a (fun x y _ => x.div y) hty⟩
  case sqrt => exact ⟨_, rfl, vecResult_fltLanes s a (fun x _ _ => x.sqrt) hty⟩
  case rcp => exact ⟨_, rfl, vecResult_fltLanes s a (fun x _ _ => FV.one.div x) hty⟩
  case rsq => exact ⟨_, rfl, vecResult_fltLanes s a (fun x _ _ => x.rsqrt) hty⟩
  case exp2 => exact ⟨_, rfl, vecResult_fltLanes s a (fun x _ _ => x.exp2) hty⟩
  case log2 => exact ⟨_, rfl, vecResult_fltLanes s a (fun x _ _ => x.log2) hty⟩

/-! ### Dot products, reductions and scans (R57, R172 to R174) -/

/-- A result given as a register: the destination takes its active elements. -/
theorem vecResult_elems (s : State) (ty : ElTy) (d : Dst) (k r : Nat) (hty : ty ≠ .i64) :
    VecResult s ((s.setMe (s.me.writeDst ty d k r)).retire 8) ty d k (elemOf ty.width r) :=
  vecResult_writeDst s ty d k r _ 0 hty (fun _ _ => (Nat.mod_mod _ _).symm)

/-- A sum over four places, started from `z`, is `z` and the four terms in order. -/
theorem foldl_add_four (f : Nat → Int) (z : Int) :
    ((List.range 4).map f).foldl (· + ·) z = z + f 0 + f 1 + f 2 + f 3 := rfl

/-- Settles O24: a dot product is one element of 32 bits per lane, a reduction and a scan give the register they build. -/
theorem vectorDotReduceScan : Obligations.VectorDotReduceScan := by
  unfold Obligations.VectorDotReduceScan
  intro a s hty w g k x y
  refine ⟨⟨_, rfl, ?dot⟩, fun o => ⟨_, rfl, ?red⟩, fun o => ⟨_, rfl, ?scan⟩⟩
  case dot =>
    refine vecResult_writeDst s .i32 a.d k _ _ 0 (by decide) (fun j hj => (elemOf_buildReg 32 _ j hj).trans ?_)
    exact congrArg (fun v => narrow true a.sat 32 v % 2 ^ 32) (foldl_add_four _ _)
  case red => exact vecResult_elems s a.ty a.d allLanes _ hty
  case scan => exact vecResult_elems s a.ty a.d k _ hty

end Sys2Proof.Machine
end

section
/-! PROOFS. `jlaunch`, `glaunch` and `gdep` (O38). A launch word first serves the thread's posted stores, after which the state lists
the thread's slot; to wait for reference stores then changes nothing where the thread has none. -/

namespace Sys2Proof.Machine

/-! ### Slots that are listed -/

/-- A key stands where `assocSet` finds it: before every greater one. -/
def Placed (k : Nat) : List Nat → Prop
  | [] => False
  | j :: r => j = k ∨ j < k ∧ Placed k r

theorem placed_assocSet {α : Type} (l : List (Nat × α)) (k : Nat) (a : α) : Placed k ((assocSet l k a).map Prod.fst) := by
  induction l with
  | nil => exact .inl rfl
  | cons p r ih =>
    obtain ⟨j, b⟩ := p
    simp only [assocSet]
    split
    · exact .inl rfl
    · split
      · exact .inl rfl
      · exact .inr ⟨by omega, ih⟩

theorem assocSet_assoc_of_placed {α : Type} {l : List (Nat × α)} {k : Nat} (d : α) (h : Placed k (l.map Prod.fst)) :
    assocSet l k ((assoc l k).getD d) = l := by
  induction l with
  | nil => exact h.elim
  | cons p r ih =>
    obtain ⟨j, b⟩ := p
    rcases h with rfl | ⟨hlt, hr⟩
    · simp [assocSet, assoc]
    · have hne : j ≠ k := Nat.ne_of_lt hlt
      have hnl : ¬ k < j := Nat.not_lt.mpr (Nat.le_of_lt hlt)
      simp [assocSet, assoc, hne, hnl, ih hr]

/-- The locations whose slots a state lists. -/
def State.slotKeys (s : State) : List Nat := s.slots.map Prod.fst

theorem setSlot_slot_of_placed {s : State} {l : Nat} (h : Placed l s.slotKeys) : s.setSlot l (s.slot l) = s := by
  rw [State.setSlot, State.slot, assocSet_assoc_of_placed _ h]

theorem placed_modSlot (s : State) (l : Nat) (f : Slot → Slot) : Placed l (s.modSlot l f).slotKeys := placed_assocSet _ _ _

theorem keys_map {α : Type} (l : List (Nat × α)) (f : Nat × α → Nat × α) (hf : ∀ e, (f e).1 = e.1) :
    (l.map f).map Prod.fst = l.map Prod.fst := by
  rw [List.map_map]
  exact List.map_congr_left (fun e _ => hf e)

theorem slotKeys_breakResv (s : State) (t : Option Nat) (p : Place) (n : Nat) : (s.breakResv t p n).slotKeys = s.slotKeys :=
  keys_map _ _ (fun e => by
    split
    · split <;> rfl
    · rfl)

theorem slotKeys_forgetReplies (s : State) (gone : Nat → Plb → Bool) : (s.forgetReplies gone).slotKeys = s.slotKeys :=
  keys_map _ _ (fun _ => rfl)

theorem slotKeys_foldl {α : Type} {f : State → α → State} (h : ∀ s a, (f s a).slotKeys = s.slotKeys) (l : List α) (s : State) :
    (l.foldl f s).slotKeys = s.slotKeys := by
  induction l generalizing s with
  | nil => rfl
  | cons a r ih => rw [List.foldl_cons, ih, h]

theorem slotKeys_collapse (s : State) (d va : Nat) : (s.collapse d va).slotKeys = s.slotKeys := by
  unfold State.collapse
  split
  · rfl
  · split
    · rfl
    · refine (slotKeys_forgetReplies _ _).trans ?_
      simp only [State.slotKeys]
      refine slotKeys_foldl (fun u i => ?_) _ s
      exact slotKeys_breakResv _ _ _ _

theorem slotKeys_beforeWrite (s : State) (d va : Nat) (e : Option Plb) : (s.beforeWrite d va e).slotKeys = s.slotKeys := by
  unfold State.beforeWrite
  split
  · split
    · exact slotKeys_collapse _ _ _
    · rfl
  · rfl

theorem Notes.slotKeys {s t : State} (h : Notes s t) : t.slotKeys = s.slotKeys := by rw [h.rest]; rfl

theorem slotKeys_put (s : State) (ag : Agent) (p : Place) (bs : List Byte) : (s.put ag p bs).slotKeys = s.slotKeys := by
  cases p with
  | dram pa => exact slotKeys_breakResv ({ s with mem := _ } : State) _ _ _
  | spad c o =>
    exact ((notes_capture _ _ _ _ _).trans (notes_ringAdd _ _ _ _ _)).slotKeys.trans
      (slotKeys_breakResv ({ s with mem := _ } : State) _ _ _)
  | far va => rfl

theorem slotKeys_writeAt (s : State) (l : Nat) (va : Word) (p : Place × Option Plb) (n v kind : Nat) :
    (s.writeAt l va p n v kind).slotKeys = s.slotKeys := by
  unfold State.writeAt
  split
  · split
    · exact (slotKeys_put _ _ _ _).trans (slotKeys_beforeWrite _ _ _ _)
    · exact slotKeys_put _ _ _ _
  · exact slotKeys_put _ _ _ _

theorem placed_serveStore {s : State} {l : Nat} (h : Placed l s.slotKeys) (va : Word) (n : Nat) (v : Word) (q : Nat) (rights : Word) :
    Placed l (s.serveStore l va n v q rights).slotKeys := by
  unfold State.serveStore
  split
  · exact placed_modSlot _ _ _
  · have hw (p : Place × Option Plb) : Placed l ((s.reachUnder l va n rights).1.writeAt l va p n v.toNat).slotKeys := by
      rw [slotKeys_writeAt, State.slotKeys, (translated_reachUnder s l va n rights).slots]
      exact h
    simp only
    split
    · split
      · exact placed_modSlot _ _ _
      · exact hw _
    · exact placed_modSlot _ _ _

theorem placed_servePosted {s : State} {l : Nat} (h : Placed l s.slotKeys) (p : Posted) : Placed l (s.servePosted l p).slotKeys := by
  unfold State.servePosted
  split
  · exact placed_modSlot _ _ _
  · exact placed_serveStore h _ _ _ _ _

theorem placed_drain (s : State) (l : Nat) : Placed l (s.drain l).slotKeys :=
  List.foldlRecOn _ _ (motive := fun u : State => Placed l u.slotKeys) (placed_modSlot s l _) (fun _ hu p _ => placed_servePosted hu p)

theorem setMe_me_of_syncGate {s d : State} (h : s.syncGate = .ok d) : d.setMe d.me = d := by
  have hc := (touches_syncGate h).cur
  simp only [State.syncGate] at h
  split at h
  · cases h
    rw [State.setMe, State.me, hc]
    exact setSlot_slot_of_placed (placed_drain s s.cur)
  · cases h

/-! ### A launch word and its block (R97, R103, R104) -/

theorem serveReady_of_none {s : State} {l : Nat} (h : (s.slot l).refHeld = []) : s.serveReady l = s.setSlot l (s.slot l) := by
  unfold State.serveReady
  rw [show (s.slot l).refHeld.length = 0 by rw [h]; rfl]
  rfl

theorem awaitRefs_of_syncGate {s d : State} (h : s.syncGate = .ok d) (hr : d.me.refHeld = []) : d.awaitRefs = .ok d := by
  have hs : d.serveReady d.cur = d := (serveReady_of_none hr).trans (setMe_me_of_syncGate h)
  simp [State.awaitRefs, hs, hr]

/-- A launch word has its inbox entry, whose wait ends with `v` in rd, and has read its block. -/
structure BlockRead (s : State) (rd : BitVec 5) (a v : Word) (u : State) (b : Nat) : Prop where
  aligned : a.toNat % 64 = 0
  start : ∃ s0 s1, s.syncGate = .ok s0 ∧ s0.me.refHeld = [] ∧ s0.reserve { xs := [(rd, v)] } = .ok s1
    ∧ s1.readBlock a 8 = .ok (u, b)

theorem jlaunch_misaligned {s d : State} {rd rs1 : BitVec 5} (hg : s.syncGate = .ok d) (ha : (s.x rs1).toNat % 64 ≠ 0) :
    exec (.jlaunch rd rs1) s = .next (d.finish rd .range 4) := by
  show execJlaunch rd rs1 s = _
  simp [execJlaunch, hg, ha]
  rfl

theorem glaunch_misaligned {s d : State} {rd rs1 : BitVec 5} (hg : s.syncGate = .ok d) (ha : (s.x rs1).toNat % 64 ≠ 0) :
    exec (.glaunch rd rs1) s = .next ((d.setX rd Status.range.handle).retire 4) := by
  show execGlaunch rd rs1 s = _
  simp [execGlaunch, hg, ha]
  rfl

section
variable {s u w : State} {rd rs1 : BitVec 5} {b : Nat} {l : Launch} {st : Status}

theorem jlaunch_launches (h : BlockRead s rd (s.x rs1) Status.timeout.word u b)
    (h15 : u.check15 (LBlock.of b) (s.me.sc.lnchlim.zeroExtend 64) = .ok l) (h67 : u.check67 (LBlock.of b) = none)
    (hw : u.release .pkg = .ok w) :
    exec (.jlaunch rd rs1) s = .next ((w.submit (.thread s.cur s.tid.1 s.tid.2) l s.me.sc.pdrights).finish rd .ok 4) := by
  obtain ⟨s0, s1, hg, hr, he, hb⟩ := h.start
  show execJlaunch rd rs1 s = _
  simp only [execJlaunch, hg, ok_bind, h.aligned, awaitRefs_of_syncGate hg hr, he, hb, h15, h67, hw, State.reserved]
  rfl

theorem jlaunch_refused15 (h : BlockRead s rd (s.x rs1) Status.timeout.word u b)
    (h15 : u.check15 (LBlock.of b) (s.me.sc.lnchlim.zeroExtend 64) = .error st) :
    exec (.jlaunch rd rs1) s = .next (u.unreserve.finish rd st 4) := by
  obtain ⟨s0, s1, hg, hr, he, hb⟩ := h.start
  show execJlaunch rd rs1 s = _
  simp only [execJlaunch, hg, ok_bind, h.aligned, awaitRefs_of_syncGate hg hr, he, hb, h15]
  rfl

theorem jlaunch_refused67 (h : BlockRead s rd (s.x rs1) Status.timeout.word u b)
    (h15 : u.check15 (LBlock.of b) (s.me.sc.lnchlim.zeroExtend 64) = .ok l) (h67 : u.check67 (LBlock.of b) = some st) :
    exec (.jlaunch rd rs1) s = .next (u.unreserve.finish rd st 4) := by
  obtain ⟨s0, s1, hg, hr, he, hb⟩ := h.start
  show execJlaunch rd rs1 s = _
  simp only [execJlaunch, hg, ok_bind, h.aligned, awaitRefs_of_syncGate hg hr, he, hb, h15, h67]
  rfl

/-- The entry that `glaunch` opens for its thread, out of a FREE one. -/
def State.opened (s : State) (l : Launch) (b : Nat) (d : Dep) : Dep :=
  { d with st := .open_, block := LBlock.of b, count := 0, succ := [], home := s.tid.1, ctx := s.tid.2, rights := s.me.sc.pdrights,
           code := l.code, hash := l.hash, profen := l.profen, job := s.me.job, status := 0 }

theorem glaunch_opens {i : Nat} (h : BlockRead s rd (s.x rs1) Status.timeout.handle u b)
    (h15 : u.check15 (LBlock.of b) (s.me.sc.lnchlim.zeroExtend 64) = .ok l) (hp : ptrE (LBlock.of b).entry = true)
    (hi : u.freeDep (dieOf s.cur) = some i) (hw : u.release .pkg = .ok w) :
    exec (.glaunch rd rs1) s = .next (((w.setDep (dieOf s.cur) i (s.opened l b (w.dep (dieOf s.cur) i))).setX rd
      (depHandle (dieOf s.cur) i (w.dep (dieOf s.cur) i).gen)).retire 4) := by
  obtain ⟨s0, s1, hg, hr, he, hb⟩ := h.start
  show execGlaunch rd rs1 s = _
  simp only [execGlaunch, hg, ok_bind, h.aligned, awaitRefs_of_syncGate hg hr, he, hb, h15, hp, hi, hw, State.reserved]
  rfl

end

/-! ### The checks (R97) -/

theorem check15_range {s : State} {b : LBlock} {limit : Word} (h : b.ok13 limit = false) : s.check15 b limit = .error .range := by
  simp [State.check15, h]

theorem check67_empty {s : State} {b : LBlock} (h : b.n = 0) : s.check67 b = some .empty := by
  simp [State.check67, h]

theorem check67_late {s : State} {b : LBlock} (hn : b.n ≠ 0#32) (ht : b.tick ≠ 0#64) (hl : b.tick.toNat ≤ s.tick.toNat) :
    s.check67 b = some .late := by
  simp [State.check67, hn, ht, hl]

theorem check67_passes {s : State} {b : LBlock} (hn : b.n ≠ 0#32) (ht : b.tick = 0) : s.check67 b = none := by
  simp [State.check67, hn, ht]

/-! ### The dependence table (R99, R104, R105) -/

theorem dep_setDep (s : State) (d i e j : Nat) (x : Dep) : (s.setDep d i x).dep e j = if (e, j) = (d, i) then x else s.dep e j := by
  simp only [State.setDep, State.dep, die_modDie]
  by_cases he : e = d
  · subst he
    by_cases hj : j = i
    · subst hj; simp
    · simp [hj, assoc_assocSet_ne]
  · simp [he]

theorem dep_setDep_same (s : State) (d i : Nat) (x : Dep) : (s.setDep d i x).dep d i = x := by rw [dep_setDep, if_pos rfl]

/-- An OPEN entry that the issuing thread may name: no status in its handle, not stale, and of the thread's own rights table. -/
structure OpenEntry (s : State) (h : Word) : Prop where
  status : handleSt h = 0
  fresh : s.stale h = false
  st : (s.named h).st = .open_
  rights : (s.named h).rights = s.me.sc.pdrights

section
variable {s : State} {rd rs1 rs2 : BitVec 5}

theorem gdep_range (h : handleSt (s.x rs2) ≠ 0 ∨ s.stale (s.x rs2) = true ∨ (s.named (s.x rs2)).st ≠ .open_
      ∨ (s.named (s.x rs2)).rights ≠ s.me.sc.pdrights) :
    exec (.gdep rd rs1 rs2) s = .next (s.finish rd .range 4) := by
  show execGdep rd rs1 rs2 s = _
  rw [execGdep, if_pos (by simpa [or_assoc] using h)]

theorem gdep_launches (h : OpenEntry s (s.x rs2)) (hc : (s.named (s.x rs2)).count = 0) :
    exec (.gdep rd 0 rs2) s = .next ((s.launchEntry (handleDie (s.x rs2)) (handleIdx (s.x rs2))).finish rd .ok 4) := by
  show execGdep rd 0 rs2 s = _
  simp [execGdep, h.status, h.fresh, h.st, h.rights, hc]

theorem gdep_waits (h : OpenEntry s (s.x rs2)) (hc : (s.named (s.x rs2)).count ≠ 0) :
    exec (.gdep rd 0 rs2) s = .next ((s.setDep (handleDie (s.x rs2)) (handleIdx (s.x rs2))
      { s.named (s.x rs2) with st := .waiting }).finish rd .ok 4) := by
  show execGdep rd 0 rs2 s = _
  simp [execGdep, h.status, h.fresh, h.st, h.rights, hc]

theorem gdep_stale (h : OpenEntry s (s.x rs2)) (h1 : rs1 ≠ 0#5) (hp : handleSt (s.x rs1) = 0) (hne : s.x rs1 ≠ s.x rs2)
    (hs : s.stale (s.x rs1) = true) : exec (.gdep rd rs1 rs2) s = .next (s.finish rd .ok 4) := by
  show execGdep rd rs1 rs2 s = _
  simp [execGdep, h.status, h.fresh, h.st, h.rights, h1, hp, hne, hs]

theorem gdep_adds (h : OpenEntry s (s.x rs2)) (h1 : rs1 ≠ 0#5) (hp : handleSt (s.x rs1) = 0) (hne : s.x rs1 ≠ s.x rs2)
    (hs : s.stale (s.x rs1) = false) (hd : (s.named (s.x rs1)).rights = s.me.sc.pdrights) (hf : (s.named (s.x rs1)).st ≠ .free)
    (ho : (s.named (s.x rs1)).st ≠ .open_) (hl : (s.named (s.x rs1)).succ.length < 16) (hc : (s.named (s.x rs2)).count < 255) :
    exec (.gdep rd rs1 rs2) s = .next (((s.setDep (handleDie (s.x rs2)) (handleIdx (s.x rs2))
        { s.named (s.x rs2) with count := (s.named (s.x rs2)).count + 1 }).modDep (handleDie (s.x rs1)) (handleIdx (s.x rs1))
      (fun x => { x with succ := x.succ ++ [(handleDie (s.x rs2) * 256 + handleIdx (s.x rs2), handleGen (s.x rs2))] })).finish
        rd .ok 4) := by
  have hl' : ¬ 16 ≤ (s.named (s.x rs1)).succ.length := Nat.not_le.mpr hl
  have hc' : (s.named (s.x rs2)).count ≠ 255 := Nat.ne_of_lt hc
  show execGdep rd rs1 rs2 s = _
  simp [execGdep, h.status, h.fresh, h.st, h.rights, h1, hp, hne, hs, hd, hf, ho, hl', hc']

end

/-- Settles O38: each clause is the equation of its word above, with what the end of the instruction writes. -/
theorem launchWords : Obligations.LaunchWords := by
  unfold Obligations.LaunchWords
  refine ⟨?misaligned, ?launched, ?refused, fun s b limit => check15_range, ?checks, ?opened, ?range, ?started, ?added⟩
  case misaligned =>
    intro rd rs1 s d hg ha
    exact ⟨⟨_, jlaunch_misaligned hg ha, writesX_finish _ _ _ _⟩, ⟨_, glaunch_misaligned hg ha, writesX_retire _ _ _ _⟩⟩
  case launched =>
    intro rd rs1 s s0 s1 u w b l ha hg hr he hb h15 h67 hw
    exact ⟨_, jlaunch_launches ⟨ha, s0, s1, hg, hr, he, hb⟩ h15 h67 hw, writesX_finish _ _ _ _⟩
  case refused =>
    intro rd rs1 s s0 s1 u b st ha hg hr he hb hst
    have h : BlockRead s rd (s.x rs1) Status.timeout.word u b := ⟨ha, s0, s1, hg, hr, he, hb⟩
    refine ⟨_, ?_, writesX_finish _ _ _ _⟩
    rcases hst with h15 | ⟨⟨l, h15⟩, h67⟩
    · exact jlaunch_refused15 h h15
    · exact jlaunch_refused67 h h15 h67
  case checks => exact fun s b => ⟨check67_empty, check67_late, check67_passes⟩
  case opened =>
    intro rd rs1 s s0 s1 u w b l i ha hg hr he hb h15 hp hi hw gen
    refine ⟨_, _, glaunch_opens ⟨ha, s0, s1, hg, hr, he, hb⟩ h15 hp hi hw, writesX_retire _ _ _ _, rfl, ?_⟩
    rw [dep_setDep_same]
    exact ⟨rfl, rfl, rfl, rfl, fun d j hne => by rw [dep_setDep, if_neg hne]⟩
  case range => exact fun rd rs1 rs2 s h => ⟨_, gdep_range h, writesX_finish _ _ _ _⟩
  case started =>
    intro rd rs2 s h e hst hf ho hr
    have hopen : OpenEntry s h := ⟨hst, hf, ho, hr⟩
    exact ⟨fun hc => ⟨_, gdep_launches hopen hc, writesX_finish _ _ _ _⟩,
      fun hc => ⟨_, gdep_waits hopen hc, writesX_finish _ _ _ _⟩⟩
  case added =>
    intro rd rs1 rs2 s h e p d h1 hst hf ho hr hp hne
    have hopen : OpenEntry s h := ⟨hst, hf, ho, hr⟩
    exact ⟨fun hs => ⟨_, gdep_stale hopen h1 hp hne hs, writesX_finish _ _ _ _⟩,
      fun hs hd hfree hop hl hc => ⟨_, gdep_adds hopen h1 hp hne hs hd hfree hop hl hc, writesX_finish _ _ _ _⟩⟩

end Sys2Proof.Machine
end

section
/-! PROOFS. Jobs from their start to their completion (O39): each step of a job on its own, given as the state that it leads to, and
from these the statement. -/

namespace Sys2Proof.Machine

/-! ### Jobs by number -/

theorem jobs_modJob (s : State) (id : Nat) (f : Job → Job) :
    (s.modJob id f).jobs = s.jobs.map (fun x => if x.id = id then f x else x) := by
  simp [State.modJob]

theorem slot_modJob (s : State) (id : Nat) (f : Job → Job) (l : Nat) : (s.modJob id f).slot l = s.slot l := rfl

/-! ### Binding a unit, filling a pool (R96, R108, R109) -/

/-- The thread of a slot as the next unit of a job starts on it. -/
def Job.started (j : Job) (t : Slot) : Slot :=
  { ((((t.bound j j.next).wx 1 exitAddr).wx 10 j.block.args).wx 11 (BitVec.ofNat 64 j.block.n.toNat)) with
    pc := ptrAddr j.block.entry }

theorem startQuantum_rest (t : Slot) : t.startQuantum = { t with sc := t.startQuantum.sc, quantumUsed := 0 } := by
  unfold Slot.startQuantum
  split <;> rfl

theorem bound_starts (t : Slot) (j : Job) (n : Nat) :
    (t.bound j n).st = .ready ∧ (t.bound j n).priv = .u ∧ (t.bound j n).u.waitlim.toNat = 2 ^ 24
      ∧ (t.bound j n).xr 2 = t.sc.stkinit ∧ (t.bound j n).ctx = t.ctxCounter ∧ (t.bound j n).job = some j.id
      ∧ (t.bound j n).inbox = [] ∧ (t.bound j n).held = [] ∧ (t.bound j n).rv.sepc = 0 ∧ (t.bound j n).rv.scause = 0
      ∧ (∀ r, (t.bound j n).hr r = 0) ∧ (t.bound j n).rv.fcsr = 0 := by
  unfold Slot.bound
  rw [startQuantum_rest]
  refine ⟨rfl, rfl, rfl, ?sp, rfl, rfl, rfl, rfl, rfl, rfl, fun r => ?refs, rfl⟩
  case sp => simp [Slot.xr]
  case refs => simp [Slot.hr, Slot.freed, Slot.reset]

section
variable {s u : State} {j : Job} {l : Nat} {r : List Nat}

theorem bind1_of_pad (h : (s.modSlot l j.started).padAt l j.block.entry 1 = (u, none)) :
    s.bind1 j l = u.modJob j.id (fun x => { x with next := x.next + 1, live := x.live ++ [(x.next, 0)] }) := by
  unfold Job.started at h
  simp only [State.bind1, h]

theorem bind1_of_no_pad {e : Nat × Word} (h : (s.modSlot l j.started).padAt l j.block.entry 1 = (u, some e)) :
    s.bind1 j l = (u.modSlot l Slot.freed).modJob j.id (fun x =>
      { x with next := x.next + 1, ended := x.ended ++ [(x.next, Status.fault.byte)] }) := by
  unfold Job.started at h
  simp only [State.bind1, h]

theorem dispatchBind_binds (hj : s.jobs[s.sub]? = some j) (hw : j.wantsSlot = true) (hf : s.freeFor j = l :: r) :
    exec .dispatchBind s = .next (s.bind1 j l) := by
  show execDispatchBind s = _
  simp only [execDispatchBind, hj, hw, hf]

theorem poolTake_takes (hj : s.jobs[s.sub]? = some j) (hw : j.wantsPool = true) (hf : (s.freeFor j).getLast? = some l) :
    exec .poolTake s = .next ((s.modSlot l (·.pooled j.id)).modJob j.id (fun x =>
      { x with pool := x.pool ++ [l], poolLeft := x.poolLeft - 1 })) := by
  show execPoolTake s = _
  simp only [execPoolTake, hj, hw, hf]

end

/-! ### Starting, alone and in a gang (R106, R107) -/

section
variable {s : State} {j : Job} {g : GangL}

theorem startTickReached_starts (hj : s.jobs[s.sub]? = some j) (hh : j.held = true) (hg : j.gang = none)
    (ht : j.block.tick.toNat ≤ s.tick.toNat) : exec .startTickReached s = .next (s.start j.id) := by
  show execStartTickReached s = _
  simp [execStartTickReached, hj, hh, hg, ht]

/-- A job of threads whose set holds a slot outside its pool is open to the dispatcher. -/
theorem begin1_opens (hp : ptrE j.block.entry = false) (hl : j.block.pool.toNat < j.block.slots.length) :
    s.begin1 j = s.modJob j.id (fun x => { x with held := false }) := by
  rw [State.begin1, hp, if_neg Bool.false_ne_true, if_neg (Nat.not_le.mpr hl)]

theorem start_begins (hj : s.job j.id = some j) (hf : j.final = none) (hh : j.held = true)
    (hs : ∀ qp port tag h, j.src ≠ .stream qp port tag h) : s.start j.id = s.begin1 j := by
  simp only [State.start, hj, hf, hh]
  cases hsrc : j.src with
  | stream qp port tag h => exact absurd hsrc (hs qp port tag h)
  | thread loc home ctx => rfl
  | entry die i => rfl

theorem gangJob_of (hj : s.jobs[s.sub]? = some j) (hg : j.gang = some g) :
    s.jobs[s.sub]?.bind (fun x => x.gang.map (fun y => (x, y))) = some (j, g) := by
  simp [hj, hg]

/-- The coordinator's decision on a launch: every member accepts, and the start tick has not come. -/
def State.goes (s : State) (j : Job) (g : GangL) : Bool := s.accepted j.gangId g.members && s.tick.toNat < j.gangId.2.1.toNat

theorem gangDecision_decides (hp : s.pod = []) (hj : s.jobs[s.sub]? = some j) (hg : j.gang = some g) (hh : j.held = true)
    (hf : j.final = none) (hgo : g.go = none) (hc : gangHead g.members = s.pkg.toNat)
    (ht : j.gangId.2.1.toNat ≤ s.tick.toNat + 5000) :
    exec .gangDecision s = .next (({ s with
      outs := s.outs ++ (g.members.filter (fun p => p != s.pkg.toNat)).map (fun p => .pod p (.decision j.gangId (s.goes j g))),
      gangMsgs := s.gangMsgs.filter (fun m => !m.isVote j.gangId) } : State).decided j (s.goes j g)) := by
  show execGangDecision s = _
  simp only [execGangDecision, hp, gangJob_of hj hg]
  rw [if_neg (by simp [hh, hf, hgo]), if_pos (by simp [hc]), if_neg (Nat.not_lt.mpr ht)]
  rfl

/-- At its start tick another member no longer decides: it has what it has. -/
theorem gangDecision_late (hp : s.pod = []) (hj : s.jobs[s.sub]? = some j) (hg : j.gang = some g)
    (hc : gangHead g.members ≠ s.pkg.toNat) (ht : j.block.tick.toNat ≤ s.tick.toNat) : exec .gangDecision s = .next s := by
  show execGangDecision s = _
  have hne : ¬(gangHead g.members == s.pkg.toNat) = true := by simpa using hc
  simp only [execGangDecision, hp, gangJob_of hj hg, if_neg hne, if_pos ht, ite_self]

theorem gangStart_starts (hj : s.jobs[s.sub]? = some j) (hg : j.gang = some g) (hh : j.held = true) (hf : j.final = none)
    (ht : j.block.tick.toNat ≤ s.tick.toNat) (hgo : g.go = some true) : exec .gangStart s = .next (s.start j.id) := by
  show execGangStart s = _
  simp only [execGangStart, gangJob_of hj hg, hgo]
  rw [if_neg (by simp [hh, hf, ht])]

theorem gangStart_loses (hj : s.jobs[s.sub]? = some j) (hg : j.gang = some g) (hh : j.held = true) (hf : j.final = none)
    (ht : j.block.tick.toNat ≤ s.tick.toNat) (hgo : g.go = none) (hc : gangHead g.members ≠ s.pkg.toNat) :
    exec .gangStart s = .next (s.modJob j.id (fun x => { x with final := some Status.lost.byte })) := by
  show execGangStart s = _
  simp only [execGangStart, gangJob_of hj hg, hgo]
  rw [if_neg (by simp [hh, hf, ht]), if_neg (by simpa using hc)]

/-! ### A job that never starts in time (R114), and a DONE entry (R101) -/

theorem launchWaitExpiry_job (hc : s.cur = 1) (hj : s.jobs[s.sub]? = some j) (hh : j.held = false) (hf : j.final = none)
    (hr : j.rest = none) (hn : j.next < j.block.n.toNat)
    (hl : s.launchOver (placeDie j.block.place) (max j.submitted.toNat j.block.tick.toNat) = true) :
    exec .launchWaitExpiry s
      = .next (({ s with queued := s.queued.filter (fun q => q.who != .job j.id) } : State).modJob j.id (fun x =>
          { x with rest := some Status.timeout.byte })) := by
  show execLaunchWaitExpiry s = _
  simp only [execLaunchWaitExpiry, hc, hj]
  rw [if_pos (by simp [hh, hf, hr, hn, hl])]

theorem entryDone_alone (hd : (s.dep s.cur s.sub).st = .done) (hs : (s.dep s.cur s.sub).succ = []) :
    exec .entryDone s = .next (({ s with arrivals := s.arrivals ++
      [((s.dep s.cur s.sub).home, (s.dep s.cur s.sub).ctx, ⟨2, (s.dep s.cur s.sub).status, 0, (s.dep s.cur s.sub).block.tag,
        depHandle s.cur s.sub (s.dep s.cur s.sub).gen⟩)] } : State).setDep s.cur s.sub
          { Dep.reset with gen := (s.dep s.cur s.sub).gen + 1 }) := by
  show execEntryDone s = _
  simp [execEntryDone, hd, hs]

end

/-! ### The end of a thread (R394) -/

theorem foldl_eq_self {α β : Type} {f : β → α → β} {b : β} {l : List α} (h : ∀ a ∈ l, f b a = b) : l.foldl f b = b := by
  induction l with
  | nil => rfl
  | cons a r ih => rw [List.foldl_cons, h a List.mem_cons_self, ih (fun c hc => h c (List.mem_cons_of_mem a hc))]

theorem flushSubs_of_no_subs {s : State} (own : Sub → Bool) (inside : Nat → Bool) (h : ∀ c ∈ s.cores, c.2.subs = []) :
    s.flushSubs own inside = s :=
  foldl_eq_self (fun c hc => by rw [h c hc]; rfl)

theorem releaseFar_of_no_writes {s : State} (a : Nat) (sys : Bool) (n : Nat) (h : s.farTo = []) : s.releaseFar a sys n = s := by
  have hs : ({ s with farTo := [] } : State) = s := by rw [← h]
  rw [State.releaseFar, h, hs]
  rfl

theorem drain_of_none_posted {s : State} (h : s.me.posted = []) : s.drain s.cur = s.setMe s.me := by
  have hs : (s.slot s.cur).posted = [] := h
  have ht : ({ s.slot s.cur with posted := [] } : Slot) = s.me := by rw [← hs]; rfl
  simp only [State.drain, State.modSlot, hs, List.filter_nil, List.foldl_nil, ht]
  rfl

/-- The thread with no held store. -/
def Slot.unheld (t : Slot) : Slot := { t with held := [] }

theorem dropHeld_of_no_refs {s : State} {l : Nat} (h : (s.slot l).refHeld = []) : s.dropHeld l = s.modSlot l Slot.unheld := by
  rw [State.dropHeld, h]
  rfl

/-- A thread alone that has nothing outstanding. -/
structure Idle (s : State) : Prop where
  gang : s.me.gang = none
  posted : s.me.posted = []
  refs : s.me.refHeld = []
  subs : ∀ c ∈ s.cores, c.2.subs = []
  commands : s.commandsOut s.tid = false
  far : s.farTo = []

/-- What an idle thread drops at the exit address: its held stores alone. -/
theorem dropHeld_drain_of_idle {s : State} (h : Idle s) :
    (s.drain s.cur).dropHeld s.cur = s.setMe s.me.unheld := by
  have hslot : (s.setMe s.me).slot s.cur = s.me := me_setMe s _
  rw [drain_of_none_posted h.posted, dropHeld_of_no_refs (by rw [hslot]; exact h.refs)]
  exact modMe_setMe s s.me Slot.unheld

theorem release_of_idle {s : State} (h : Idle s) (t : Slot) (a : Nat) :
    ((s.setMe t).releaseSubs s.cur .pkg).releaseFar a false 0 = s.setMe t := by
  rw [State.releaseSubs, flushSubs_of_no_subs (s := s.setMe t) _ _ h.subs]
  exact releaseFar_of_no_writes (s := s.setMe t) _ _ _ h.far

theorem threadExit_ends {s : State} (h : Idle s) (hpc : s.me.pc = exitAddr) (hs : s.me.st = .ready) :
    exec .threadExit s = .next ((s.setMe s.me.unheld).endThread s.cur (endStatus (s.me.xr 10))) := by
  have hslot : (s.setMe s.me.unheld).slot s.cur = s.me.unheld := me_setMe s _
  have hrefs : s.me.unheld.refHeld = [] := h.refs
  have hout : (s.setMe s.me.unheld).commandsOut ((s.setMe s.me.unheld).tidOf s.cur) = false := by
    rw [State.tidOf, hslot]
    exact h.commands
  show execThreadExit s = _
  rw [execThreadExit, if_neg (by simp [hpc, hs])]
  simp only [fellows_of_no_gang (show (s.slot s.cur).gang = none from h.gang), List.foldl_cons, List.foldl_nil,
    dropHeld_drain_of_idle h, List.any_cons, List.any_nil, Bool.or_false, release_of_idle h, hslot, hrefs, hout,
    List.isEmpty_nil, Bool.not_true, Bool.false_and, Bool.false_eq_true, if_false]

/-! ### The end of a job (R399) -/

theorem setBarrier_rest (s : State) (b : Barrier) : s.setBarrier b = { s with bars := (s.setBarrier b).bars } := by
  unfold State.setBarrier
  split <;> rfl

theorem reportBar_rest (s : State) (b : Barrier) : ∃ os bs, s.reportBar b = { s with outs := os, bars := bs } := by
  simp only [State.reportBar]
  split
  · rw [setBarrier_rest]
    exact ⟨_, _, rfl⟩
  · exact ⟨s.outs, s.bars, rfl⟩

theorem foldl_reportBar_rest (l : List Barrier) (s : State) :
    ∃ os bs, l.foldl State.reportBar s = { s with outs := os, bars := bs } := by
  induction l generalizing s with
  | nil => exact ⟨s.outs, s.bars, rfl⟩
  | cons b r ih =>
    obtain ⟨os, bs, hb⟩ := reportBar_rest s b
    rw [List.foldl_cons, hb]
    exact ih _

/-- A complete job of a thread with no pool is gone, and its message is on the way. -/
theorem jobComplete_reports {s : State} {j : Job} {loc home : Nat} {ctx : BitVec 16} (hj : s.jobs[s.sub]? = some j)
    (hc : j.complete = true) (hsrc : j.src = .thread loc home ctx) (hp : j.pool = []) :
    ∃ t, exec .jobComplete s = .next t ∧ t.jobs = s.jobs.filter (fun x => x.id != j.id)
      ∧ t.arrivals = s.arrivals ++ [(home, ctx, ⟨2, j.report.1, 0, j.block.tag, BitVec.ofNat 64 j.report.2⟩)] := by
  obtain ⟨os, bs, hb⟩ := foldl_reportBar_rest (s.bars.filter (fun b => b.job == j.id)) s
  show ∃ t, execJobComplete s = .next t ∧ _
  simp only [execJobComplete, hj, hc, hsrc, hp, State.canReport, List.foldl_nil, hb]
  exact ⟨_, rfl, rfl, rfl⟩

/-- Settles O39: each clause is the equation of its step above, read off at the job and the slot at hand. -/
theorem jobSteps_complete : Obligations.JobSteps := by
  unfold Obligations.JobSteps
  refine ⟨?bind, bound_starts, ?pool, fun s j => startTickReached_starts, ?start, ?decision, ?member, ?gang, ?expiry, ?entry, ?exit,
    ?complete⟩
  case bind =>
    intro s u j l r hj hw hf start
    refine ⟨fun hpad => ⟨_, dispatchBind_binds hj hw hf, ?_⟩, fun e hpad => ⟨_, dispatchBind_binds hj hw hf, ?_⟩⟩
    · rw [bind1_of_pad hpad]
      exact ⟨rfl, jobs_modJob _ _ _⟩
    · rw [bind1_of_no_pad hpad]
      exact ⟨(slot_modJob _ _ _ _).trans (slot_modSlot_same _ _ _),
        fun k hk => (slot_modJob _ _ _ _).trans (slot_modSlot_ne _ _ hk), jobs_modJob _ _ _⟩
  case pool =>
    intro s j l hj hw hf
    exact ⟨_, poolTake_takes hj hw hf, (slot_modJob _ _ _ _).trans (slot_modSlot_same _ _ _),
      fun k hk => (slot_modJob _ _ _ _).trans (slot_modSlot_ne _ _ hk), jobs_modJob _ _ _⟩
  case start =>
    intro s j hj hf hh hs hp hl
    rw [start_begins hj hf hh hs, begin1_opens hp hl]
  case decision =>
    intro s j g hp hj hg hh hf hgo hc ht go
    exact ⟨_, gangDecision_decides hp hj hg hh hf hgo hc ht, rfl, jobs_modJob _ _ _⟩
  case member => exact fun s j g => gangDecision_late
  case gang =>
    intro s j g hj hg hh hf ht
    exact ⟨gangStart_starts hj hg hh hf ht, gangStart_loses hj hg hh hf ht⟩
  case expiry =>
    intro s j hc hj hh hf hr hn hl
    exact ⟨_, launchWaitExpiry_job hc hj hh hf hr hn hl, jobs_modJob _ _ _⟩
  case entry =>
    intro s d hd hs
    exact ⟨_, entryDone_alone hd hs, dep_setDep_same _ _ _ _, rfl⟩
  case exit =>
    intro s hpc hst hg hp hr _ hsubs hc hfar
    exact threadExit_ends ⟨hg, hp, hr, hsubs, hc, hfar⟩ hpc hst
  case complete => exact fun s j loc home ctx hj hc hsrc hp => jobComplete_reports hj hc hsrc hp

end Sys2Proof.Machine
end

section
/-! PROOFS. The host port (O50): queue pairs and ports by number, each request as the state that it leads to, and from these the
statement. -/

namespace Sys2Proof.Machine

/-! ### Queue pairs and ports by number -/

theorem qp_modQp (s : State) (n k : Nat) (f : Qp → Qp) : (s.modQp n f).qp k = if k = n then f (s.qp n) else s.qp k := by
  by_cases h : k = n
  · subst h; simp [State.modQp, State.qp]
  · simp [State.modQp, State.qp, assoc_assocSet_ne _ _ h, h]

theorem qp_modQp_same (s : State) (n : Nat) (f : Qp → Qp) : (s.modQp n f).qp n = f (s.qp n) := by rw [qp_modQp, if_pos rfl]
theorem qp_modQp_ne (s : State) {n k : Nat} (f : Qp → Qp) (h : k ≠ n) : (s.modQp n f).qp k = s.qp k := by rw [qp_modQp, if_neg h]

theorem port_modPort (s : State) (n k : Nat) (f : Port → Port) :
    (s.modPort n f).port k = if k = n then f (s.port n) else s.port k := by
  by_cases h : k = n
  · subst h; simp [State.modPort, State.port]
  · simp [State.modPort, State.port, assoc_assocSet_ne _ _ h, h]

theorem modPort_congr {s : State} {n : Nat} {f g : Port → Port} (h : f (s.port n) = g (s.port n)) : s.modPort n f = s.modPort n g := by
  rw [State.modPort, State.modPort, h]

theorem port_report (s : State) (qp : Nat) (hostTag : Half) (hash : Word) (st : BitVec 8) (lowest units n : Nat) :
    (s.report qp hostTag hash st lowest units).port n = s.port n := rfl

theorem Touches.ports {s t : State} (h : Touches s t) : t.ports = s.ports := by rw [h.eq]

theorem port_releaseHost (s : State) (qp n : Nat) : (s.releaseHost qp).port n = s.port n := by
  unfold State.releaseHost State.port
  rw [(touches_flushSubs s _ _).ports]

/-! ### When the port answers (R87, R422, R423) -/

theorem portUp_of_running {s : State} (h : s.col.power = .running) : s.portUp = true := by simp [State.portUp, h]
theorem portUp_of_ne {s : State} (h : s.col.power ≠ .running) : s.portUp = false := by simp [State.portUp, h]

theorem qpUp_of_portDown {s : State} (qp : Nat) (h : s.portUp = false) : s.qpUp qp = false := by simp [State.qpUp, h]

theorem qpUp_of_bad {s : State} {qp : Nat} (h : (s.qp qp).error = true ∨ (s.qp qp).connected = false) : s.qpUp qp = false := by
  rcases h with h | h <;> simp [State.qpUp, h]

theorem transmit_eq (s : State) (qp : Nat) (o : Out) :
    s.transmit qp o = if priorityOf qp ∈ s.paused then { s with txWait := s.txWait ++ [(priorityOf qp, o)] }
      else { s with outs := s.outs ++ [o] } := by
  simp [State.transmit, State.emit]

/-- A port that is down answers nothing. -/
theorem silent_of_portDown {s : State} (h : s.portUp = false) :
    (∀ qp m, exec (.cmMad qp m) s = .next s) ∧ (∀ p on, exec (.pfcPause p on) s = .next s) ∧ exec .ptpMessage s = .next s
      ∧ ∀ p, exec (.streamResume p) s = .next s := by
  refine ⟨fun qp m => ?mad, fun p on => ?pause, ?ptp, fun p => ?resume⟩
  case mad => show execCmMad qp m s = _; simp [execCmMad, h]
  case pause => show execPfcPause p on s = _; simp [execPfcPause, h]
  case ptp => show execPtpMessage s = _; simp [execPtpMessage, h]
  case resume => show execStreamResume p s = _; simp [execStreamResume, h]

/-- A queue pair that is not up answers nothing. -/
theorem silent_of_qpDown {s : State} {qp : Nat} (h : s.qpUp qp = false) :
    (∀ r, exec (.unsupportedRequest qp r) s = .next s) ∧ exec (.ecnMarkedPacket qp) s = .next s
      ∧ (∀ k a d, exec (.rdmaWrite qp k a d) s = .next s) ∧ (∀ k a n, exec (.rdmaRead qp k a n) s = .next s)
      ∧ ∀ a d, exec (.streamWrite qp a d) s = .next s := by
  refine ⟨fun r => ?bad, ?ecn, fun k a d => ?write, fun k a n => ?read, fun a d => ?stream⟩
  case bad => show execUnsupportedRequest qp r s = _; simp [execUnsupportedRequest, h]
  case ecn => show execEcnMarkedPacket qp s = _; simp [execEcnMarkedPacket, h]
  case write => show execRdmaWrite qp k a d s = _; simp [execRdmaWrite, h]
  case read => show execRdmaRead qp k a n s = _; simp [execRdmaRead, h]
  case stream => show execStreamWrite qp a d s = _; simp [execStreamWrite, h]

/-! ### Connections (R88) -/

/-- The queue pairs in use beside one of them and Colophon's. -/
def State.qpsUsed (s : State) (qp : Nat) : Nat := s.qps.countP (fun q => q.1 != qp && q.1 != mgmtQp && (q.2.connected || q.2.asked))

section
variable {s : State} {qp : Nat}

theorem cmMad_req_accepts (hp : s.portUp = true) (hn : rcNumber qp = true) (hu : s.qpsUsed qp < 1023 ∨ qp = 2) :
    exec (.cmMad qp .req) s = .next ((s.modQp qp (fun q => { q with asked := true })).transmit 1 (.mad qp .rep)) := by
  unfold State.qpsUsed at hu
  have hroom : ¬(qp != mgmtQp && 1023 ≤ s.qps.countP (fun q => q.1 != qp && q.1 != mgmtQp && (q.2.connected || q.2.asked))) = true := by
    rcases hu with hu | hu
    · simp [Nat.not_le.mpr hu]
    · simp [hu, mgmtQp]
  show execCmMad qp .req s = _
  simp only [execCmMad]
  rw [if_neg (by simp [hp, hn]), if_neg hroom]

theorem cmMad_req_rejects (hp : s.portUp = true) (hn : rcNumber qp = true) (hu : 1023 ≤ s.qpsUsed qp) (h2 : qp ≠ 2) :
    exec (.cmMad qp .req) s = .next (s.transmit 1 (.mad qp .rej)) := by
  unfold State.qpsUsed at hu
  show execCmMad qp .req s = _
  simp only [execCmMad]
  rw [if_neg (by simp [hp, hn]), if_pos (Bool.and_eq_true_iff.mpr ⟨by simp [mgmtQp, h2], decide_eq_true hu⟩)]

theorem cmMad_rtu_connects (hp : s.portUp = true) (hn : rcNumber qp = true) (ha : (s.qp qp).asked = true) :
    exec (.cmMad qp .rtu) s = .next (s.modQp qp (fun q => { q with asked := false, connected := true, error := false })) := by
  show execCmMad qp .rtu s = _
  simp [execCmMad, hp, hn, ha]

theorem cmMad_dreq_disconnects (hp : s.portUp = true) (hn : rcNumber qp = true) :
    exec (.cmMad qp .dreq) s = .next ((s.modQp qp (fun q => { q with asked := false, connected := false, error := false })).transmit
      1 (.mad qp .drep)) := by
  show execCmMad qp .dreq s = _
  simp [execCmMad, hp, hn]

/-! ### Requests of no taken kind, congestion, pause and the tick (R87, R89) -/

theorem unsupportedRequest_refused (r : BadRequest) (h : s.qpUp qp = true) :
    exec (.unsupportedRequest qp r) s = .next (s.badRequest qp) := by
  show execUnsupportedRequest qp r s = _
  simp [execUnsupportedRequest, h]

theorem ecnMarkedPacket_notifies (h : s.qpUp qp = true) : exec (.ecnMarkedPacket qp) s = .next (s.transmit qp (.cnp qp)) := by
  show execEcnMarkedPacket qp s = _
  simp [execEcnMarkedPacket, h]

/-- A pause of one of the eight priorities is taken while the port is up. -/
theorem pause_taken {p : Nat} (hp : s.portUp = true) (h8 : p < 8) : (!s.portUp || decide (8 ≤ p)) = false := by
  rw [hp, decide_eq_false (Nat.not_le.mpr h8)]
  rfl

theorem pfcPause_pauses {p : Nat} (hp : s.portUp = true) (h8 : p < 8) :
    exec (.pfcPause p true) s = .next { s with paused := s.paused.filter (· != p) ++ [p] } := by
  show execPfcPause p true s = _
  simp only [execPfcPause, pause_taken hp h8, Bool.false_eq_true, if_false, if_true]

theorem pfcPause_resumes {p : Nat} (hp : s.portUp = true) (h8 : p < 8) :
    exec (.pfcPause p false) s = .next { s with
      paused := s.paused.filter (· != p), txWait := s.txWait.filter (fun w => w.1 != p),
      outs := s.outs ++ (s.txWait.filter (fun w => w.1 == p)).map Prod.snd } := by
  show execPfcPause p false s = _
  simp only [execPfcPause, pause_taken hp h8, Bool.false_eq_true, if_false]

theorem ptpMessage_serves (hp : s.portUp = true) : exec .ptpMessage s = .next { s with outs := s.outs ++ [.ptp s.tick] } := by
  show execPtpMessage s = _
  simp [execPtpMessage, hp, State.emit]

/-! ### Access through keys (R90) -/

theorem rdmaWrite_mgmt {k : Nat} (a : Word) (d : List Byte) (h : s.qpUp 2 = true) (hk : k ≠ 0) :
    exec (.rdmaWrite 2 k a d) s = .next (s.badRequest 2) := by
  show execRdmaWrite 2 k a d s = _
  simp [execRdmaWrite, h, hk, mgmtQp]

theorem rdmaRead_mgmt (k : Nat) (a : Word) (n : Nat) (h : s.qpUp 2 = true) : exec (.rdmaRead 2 k a n) s = .next (s.badRequest 2) := by
  show execRdmaRead 2 k a n s = _
  simp [execRdmaRead, h, mgmtQp]

theorem streamWrite_mgmt (a : Word) (d : List Byte) (h : s.qpUp 2 = true) : exec (.streamWrite 2 a d) s = .next (s.badRequest 2) := by
  show execStreamWrite 2 a d s = _
  simp [execStreamWrite, h, mgmtQp]

theorem rdmaWrite_denied {k : Nat} {a : Word} {d : List Byte} (h : s.qpUp qp = true) (h2 : qp ≠ 2) (hk : k ≠ 0)
    (hx : s.keyFor qp k .store a d.length = none) : exec (.rdmaWrite qp k a d) s = .next (s.transmit qp (.nakAccess qp)) := by
  show execRdmaWrite qp k a d s = _
  simp [execRdmaWrite, h, hk, mgmtQp, h2, hx]

theorem rdmaWrite_writes {k : Nat} {a : Word} {d : List Byte} {x : Key} (h : s.qpUp qp = true) (h2 : qp ≠ 2) (hk : k ≠ 0)
    (hx : s.keyFor qp k .store a d.length = some x) :
    exec (.rdmaWrite qp k a d) s = .next ((s.keyPut qp x a d).1.transmit qp (.ack qp)) := by
  show execRdmaWrite qp k a d s = _
  simp [execRdmaWrite, h, hk, mgmtQp, h2, hx]

theorem rdmaRead_denied {k : Nat} {a : Word} {n : Nat} (h : s.qpUp qp = true) (h2 : qp ≠ 2)
    (hx : s.keyFor qp k .load a n = none) : exec (.rdmaRead qp k a n) s = .next (s.transmit qp (.nakAccess qp)) := by
  show execRdmaRead qp k a n s = _
  simp [execRdmaRead, h, mgmtQp, h2, hx]

theorem rdmaRead_reads {k : Nat} {a : Word} {n : Nat} {x : Key} (h : s.qpUp qp = true) (h2 : qp ≠ 2)
    (hx : s.keyFor qp k .load a n = some x) :
    exec (.rdmaRead qp k a n) s = .next (s.transmit qp (.readResponse qp (s.keyGet x a n))) := by
  show execRdmaRead qp k a n s = _
  simp [execRdmaRead, h, mgmtQp, h2, hx]

/-! ### Streams (R91 to R93) -/

/-- The tokens that a stream brings its port to. -/
def State.streamNeed (s : State) (qp : Nat) (d : List Byte) : Nat :=
  (s.port (s.qp qp).port.val).tokens + 2 + (streamOf qp d s.tick).args.length

/-- A stream released and buffered at its port. -/
def State.buffer (s : State) (qp : Nat) (d : List Byte) : State :=
  (s.releaseHost qp).modPort (s.qp qp).port.val (fun p => { p with buf := p.buf ++ [streamOf qp d s.tick] })

theorem port_buffer (s : State) (qp k : Nat) (d : List Byte) : (s.buffer qp d).port k
    = if k = (s.qp qp).port.val then
        { s.port (s.qp qp).port.val with buf := (s.port (s.qp qp).port.val).buf ++ [streamOf qp d s.tick] }
      else s.port k := by
  rw [State.buffer, port_modPort, port_releaseHost, port_releaseHost]

theorem recordRoom_of_lt (h : (s.qp qp).held.length < 64) : s.recordRoom qp = true := decide_eq_true h

theorem streamWrite_invalid {a : Word} {d : List Byte} (h : s.qpUp qp = true) (h2 : qp ≠ 2) (hd : a ≠ 0#64 ∨ wholeStream d = false) :
    exec (.streamWrite qp a d) s = .next (s.transmit qp (.nakInvalid qp)) := by
  show execStreamWrite qp a d s = _
  rw [execStreamWrite, if_neg (by simp [h]), if_neg (by simpa [mgmtQp] using h2), if_pos (by simpa using hd)]

theorem streamWrite_full {d : List Byte} (h : s.qpUp qp = true) (h2 : qp ≠ 2) (hd : wholeStream d = true)
    (hf : 64 ≤ (s.qp qp).held.length ∨ 1024 < s.streamNeed qp d) :
    exec (.streamWrite qp 0 d) s = .next (s.transmit qp (.nakRnr qp)) := by
  have hfull : (1024 < s.streamNeed qp d || !s.recordRoom qp) = true := by
    rcases hf with hf | hf
    · have hr : s.recordRoom qp = false := decide_eq_false (Nat.not_lt.mpr hf)
      simp [hr]
    · simp [hf]
  show execStreamWrite qp 0 d s = _
  rw [execStreamWrite, if_neg (by simp [h]), if_neg (by simpa [mgmtQp] using h2), if_neg (by simp [hd])]
  exact if_pos hfull

theorem streamWrite_buffers {d : List Byte} (h : s.qpUp qp = true) (h2 : qp ≠ 2) (hd : wholeStream d = true)
    (hr : (s.qp qp).held.length < 64) (hn : s.streamNeed qp d ≤ 1024) :
    exec (.streamWrite qp 0 d) s = .next (if (s.port (s.qp qp).port.val).buf = [] then
        ((s.buffer qp d).transmit qp (.ack qp)).portHead (s.qp qp).port.val
      else (s.buffer qp d).transmit qp (.ack qp)) := by
  have hroom : ¬(1024 < s.streamNeed qp d || !s.recordRoom qp) = true := by
    simp [recordRoom_of_lt hr, Nat.not_lt.mpr hn]
  show execStreamWrite qp 0 d s = _
  rw [execStreamWrite, if_neg (by simp [h]), if_neg (by simpa [mgmtQp] using h2), if_neg (by simp [hd])]
  refine (if_neg hroom).trans ?_
  simp only [List.isEmpty_iff]
  rfl

end

/-! ### The head stream of a port (R93, R94, R97) -/

theorem streamResume_looks {s : State} {p : Nat} (hp : s.portUp = true) (h : p < 64) :
    exec (.streamResume p) s = .next (s.portHead p) := by
  show execStreamResume p s = _
  simp [execStreamResume, hp, h]

/-- The state in which the head stream of a port has ended with a status, and its record is held. -/
def State.streamEnded (s : State) (p : Nat) (x : Stream) (l : List Stream) (st : Status) : State :=
  (({ s with queued := s.queued.filter (fun q => q.who != .stream p) } : State).modPort p (fun y => { y with buf := l })).report
    x.qp x.hostTag x.hash st.byte noUnit 0

/-- The configuration that a port asks the Imposer for. -/
def State.streamWants (s : State) (p : Nat) (x : Stream) (code : Nat) : Queued :=
  { who := .stream p, desc := ptrAddr x.block.entry, code := BitVec.ofNat 64 code, hash := x.hash, place := x.block.place,
    prio := x.block.prioByte.truncate 2, rights := (s.port p).rights, race := x.block.classByte.getLsbD 3, tried := false }

section
variable {s : State} {p code : Nat} {x : Stream} {l : List Stream}

theorem endStream_ends (st : Status) (hb : (s.port p).buf = x :: l) (hr : s.recordRoom x.qp = true) :
    s.endStream p st.byte = s.streamEnded p x l st := by
  simp only [State.endStream, hb, hr, Bool.not_true, Bool.false_eq_true, if_false]
  rfl

theorem port_streamEnded (s : State) (p : Nat) (x : Stream) (l : List Stream) (st : Status) :
    (s.streamEnded p x l st).port p = { s.port p with buf := l } := by
  rw [State.streamEnded, port_report, port_modPort, if_pos rfl]
  rfl

theorem qp_streamEnded (s : State) (p : Nat) (x : Stream) (l : List Stream) (st : Status) : (s.streamEnded p x l st).qp x.qp
    = (s.qp x.qp).record ⟨x.hostTag, st.byte, 0xFFFFFF, 0, s.tick, x.hash⟩ := qp_modQp_same _ _ _

theorem portHead_unlisted (hb : (s.port p).buf = x :: l) (hc : x.checked = false) (hd : s.dirFind (placeDie x.block.place) x.hash = none) :
    s.portHead p = s.endStream p Status.refused.byte := by
  simp [State.portHead, hb, hc, hd]

theorem portHead_range (hb : (s.port p).buf = x :: l) (hc : x.checked = false)
    (hd : s.dirFind (placeDie x.block.place) x.hash = some code) (hcode : code < 2 ^ 56)
    (hbad : s.dirBad (placeDie x.block.place) = false) (ho : x.block.ok13 (s.port p).limit = false) :
    s.portHead p = s.endStream p Status.range.byte := by
  have hle : ¬2 ^ 56 ≤ code := Nat.not_le.mpr hcode
  simp only [State.portHead, hb, hc, hd, Option.getD_some, hbad, hle, ho, decide_false, Bool.or_false, Bool.false_eq_true, if_false,
    Bool.not_false, if_true]

theorem portHead_queues (hb : (s.port p).buf = x :: l) (hc : x.checked = false)
    (hd : s.dirFind (placeDie x.block.place) x.hash = some code) (hcode : code < 2 ^ 56)
    (hbad : s.dirBad (placeDie x.block.place) = false) (ho : x.block.ok13 (s.port p).limit = true)
    (he : ptrE x.block.entry = true) (hr : s.residentCfg (ptrAddr x.block.entry) x.hash = false)
    (hq : s.queued.any (fun q => q.who == .stream p) = false) :
    s.portHead p = { s with queued := s.queued ++ [s.streamWants p x code] } := by
  have hle : ¬2 ^ 56 ≤ code := Nat.not_le.mpr hcode
  simp only [State.portHead, hb, hc, hd, Option.getD_some, hbad, hle, ho, he, hr, hq, decide_false, Bool.or_false, Bool.false_eq_true,
    if_false, Bool.not_true, Bool.not_false, Bool.and_self, if_true]
  rfl

theorem portHead_submits {c : CodeObj} {pf : BitVec 48} (hb : (s.port p).buf = x :: l) (hc : x.checked = false)
    (hd : s.dirFind (placeDie x.block.place) x.hash = some code) (hcode : code < 2 ^ 56)
    (hbad : s.dirBad (placeDie x.block.place) = false) (ho : x.block.ok13 (s.port p).limit = true)
    (he : ptrE x.block.entry = false) (hobj : s.codeObj (placeDie x.block.place) code = some c)
    (h45 : s.ok45 (placeDie x.block.place) c x.block = some pf) (h67 : s.check67 x.block = none) (hq : s.queued = []) :
    s.portHead p = (s.modPort p (fun y => { y with buf := { x with checked := true } :: l })).submit
      (.stream x.qp p x.hostTag x.hash) ⟨x.block, BitVec.ofNat 64 code, x.hash, pf⟩ (s.port p).rights := by
  have hle : ¬2 ^ 56 ≤ code := Nat.not_le.mpr hcode
  have hs : ({ s with queued := [] } : State) = s := by rw [← hq]
  simp only [State.portHead, hb, hc, hd, Option.getD_some, hbad, hle, ho, he, hobj, Option.bind_some, h45, h67, hq, List.filter_nil, hs,
    decide_false, Bool.or_false, Bool.false_eq_true, if_false, Bool.not_true, Bool.false_and]
  exact congrArg (fun u : State => u.submit _ _ _) (modPort_congr (by simp only [hb]))

end

/-! ### Completion records (R95) -/

theorem completionRecord_sends {s : State} {r : Rec} {l : List Rec} (h : s.qpUp s.cur = true) (hh : (s.qp s.cur).held = r :: l)
    (hn : (s.qp s.cur).receives + s.sub ≠ 0) :
    exec .completionRecord s = .next ((s.modQp s.cur (fun x =>
      { x with held := l, receives := (s.qp s.cur).receives + s.sub - 1 })).transmit s.cur (.send s.cur r.bytes)) := by
  have hup : (s.qpUp s.cur && (s.qp s.cur).receives + s.sub != 0) = true := by simpa [h] using hn
  show execCompletionRecord s = _
  simp only [execCompletionRecord, hh, hup]

/-- Settles O50: each clause is the equation of its request above, read off at the queue pair and the port at hand. -/
theorem hostPortSteps : Obligations.HostPortSteps := by
  unfold Obligations.HostPortSteps
  refine ⟨?down, fun s qp => qpUp_of_bad, fun s qp => silent_of_qpDown, transmit_eq, ?mad, ?bad, fun s qp => ecnMarkedPacket_notifies,
    ?pause, fun s h => ptpMessage_serves (portUp_of_running h), ?mgmt, ?write, ?read, ?stream, ?head, ?record⟩
  case down =>
    intro s h
    obtain ⟨hmad, hpause, hptp, hresume⟩ := silent_of_portDown (portUp_of_ne h)
    exact ⟨hmad, hpause, hptp, hresume, fun qp => qpUp_of_portDown qp (portUp_of_ne h)⟩
  case mad =>
    intro s qp h hn used
    have hp := portUp_of_running h
    exact ⟨fun hu => ⟨_, cmMad_req_accepts hp hn hu, rfl, qp_modQp_same _ _ _, fun k hk => qp_modQp_ne _ _ hk⟩,
      cmMad_req_rejects hp hn,
      fun ha => ⟨_, cmMad_rtu_connects hp hn ha, rfl, qp_modQp_same _ _ _, fun k hk => qp_modQp_ne _ _ hk⟩,
      ⟨_, cmMad_dreq_disconnects hp hn, rfl, qp_modQp_same _ _ _, fun k hk => qp_modQp_ne _ _ hk⟩⟩
  case bad =>
    exact fun s qp r h => ⟨_, unsupportedRequest_refused r h, rfl, qp_modQp_same _ _ _, fun k hk => qp_modQp_ne _ _ hk⟩
  case pause =>
    intro s p on h h8
    have hp := portUp_of_running h
    cases on with
    | true =>
      refine ⟨_, pfcPause_pauses hp h8, rfl, fun k => ?_, fun _ => ⟨rfl, rfl⟩, nofun⟩
      by_cases hk : k = p <;> simp [hk]
    | false =>
      refine ⟨_, pfcPause_resumes hp h8, rfl, fun k => ?_, nofun, fun _ => ⟨rfl, rfl⟩⟩
      by_cases hk : k = p <;> simp [hk]
  case mgmt =>
    exact fun s h => ⟨fun k a d hk => rdmaWrite_mgmt a d h hk, fun k a n => rdmaRead_mgmt k a n h, fun a d => streamWrite_mgmt a d h⟩
  case write => exact fun s qp k a d h h2 hk => ⟨rdmaWrite_denied h h2 hk, fun x => rdmaWrite_writes h h2 hk⟩
  case read => exact fun s qp k a n h h2 => ⟨rdmaRead_denied h h2, fun x => rdmaRead_reads h h2⟩
  case stream =>
    intro s qp a d p need h h2
    refine ⟨streamWrite_invalid h h2, ?_, ?_⟩
    · rintro rfl hd hf
      exact streamWrite_full h h2 hd hf
    · rintro rfl hd hr hn
      refine ⟨_, streamWrite_buffers h h2 hd hr hn, rfl, ?_, fun k hk => ?_⟩
      · rw [port_buffer, if_pos rfl]
      · rw [port_buffer, if_neg hk]
  case head =>
    intro s p x l h h64 hb hc ends
    have hlook := streamResume_looks (portUp_of_running h) h64
    have hends (st : Status) (hst : s.portHead p = s.endStream p st.byte) : ends st := fun hr =>
      ⟨_, hlook.trans (by rw [hst, endStream_ends st hb hr]), rfl, port_streamEnded _ _ _ _ _, qp_streamEnded _ _ _ _ _⟩
    refine ⟨fun hd => hends _ (portHead_unlisted hb hc hd), fun code hd hcode hbad => ⟨fun ho => ?range, ?queue, ?submit⟩⟩
    case range => exact hends _ (portHead_range hb hc hd hcode hbad ho)
    case queue =>
      intro ho he hr hq
      exact ⟨_, hlook.trans (by rw [portHead_queues hb hc hd hcode hbad ho he hr hq]), rfl, rfl, rfl, rfl, rfl⟩
    case submit =>
      intro c pf ho he hobj h45 h67 hq
      rw [hlook, portHead_submits hb hc hd hcode hbad ho he hobj h45 h67 hq]
  case record =>
    exact fun s r l h hh hn => ⟨_, completionRecord_sends h hh hn, rfl, qp_modQp_same _ _ _, fun k hk => qp_modQp_ne _ _ hk⟩

end Sys2Proof.Machine
end

section
/-! PROOFS. What reset leaves (O52): it lists no unit, so every unit reads as its own reset value. -/

namespace Sys2Proof.Machine

theorem slot_reset (l : Nat) : State.reset.slot l = Slot.reset := rfl
theorem die_reset (d : Nat) : State.reset.die d = Die.reset := rfl
theorem clu_reset (c : Nat) : State.reset.clu c = Clu.reset := rfl
theorem port_reset (p : Nat) : State.reset.port p = Port.reset := rfl
theorem dep_reset (d i : Nat) : State.reset.dep d i = Dep.reset := by
  rw [State.dep, die_reset]
  rfl
theorem region_reset (n : Nat) : State.reset.region n = none := rfl

/-- Settles O52: each unit reads as its reset value, whose fields are the manual's. -/
theorem resetValues : Obligations.ResetValues := by
  unfold Obligations.ResetValues
  refine ⟨fun l => ?slot, fun d => ?die, fun c => ?clu, fun p => ?port, fun d i => ?dep, region_reset⟩
  case slot =>
    rw [slot_reset]
    exact ⟨rfl, rfl, rfl, rfl, rfl, rfl⟩
  case die =>
    rw [die_reset]
    rfl
  case clu =>
    rw [clu_reset]
    exact ⟨rfl, rfl, rfl⟩
  case port =>
    rw [port_reset]
    exact ⟨rfl, rfl⟩
  case dep =>
    rw [dep_reset]
    rfl

end Sys2Proof.Machine
end


section
/-! PROOFS. CSR instructions (O13): what a CSR write leaves as it was, what each CSR then reads as, by the tables of R131 and
log 4, and the accesses that fault. -/

namespace Sys2Proof.Machine

/-! ### Bits of a word -/

theorem getLsbD_maskW (v : Word) {hi lo i : Nat} (h : i < 64) :
    (maskW v hi lo).getLsbD i = (decide (lo ≤ i ∧ i ≤ hi) && v.getLsbD i) := by
  rw [maskW, BitVec.getLsbD_ofNat, Nat.testBit_mul_two_pow, Nat.testBit_mod_two_pow, Nat.testBit_div_two_pow]
  by_cases hl : lo ≤ i
  · rw [show i - lo + lo = i by omega]
    simp [h, hl, BitVec.getLsbD, show i - lo < hi + 1 - lo ↔ i ≤ hi by omega]
  · simp [hl]

/-- Bits lo to hi of a word in place are the word under the mask of those bits. -/
theorem maskW_eq_and (v : Word) (hi lo : Nat) :
    maskW v hi lo = v &&& BitVec.ofNat 64 ((2 ^ (hi + 1 - lo) - 1) * 2 ^ lo) := by
  refine BitVec.eq_of_getLsbD_eq fun i h => ?_
  rw [BitVec.getLsbD_and, getLsbD_maskW v h, BitVec.getLsbD_ofNat, Nat.testBit_mul_two_pow, Nat.testBit_two_pow_sub_one,
    Bool.and_comm]
  by_cases hl : lo ≤ i
  · simp [h, hl, show i - lo < hi + 1 - lo ↔ i ≤ hi by omega]
  · simp [hl]

theorem zeroExtend_truncate_eq_and (v : Word) (k : Nat) :
    (v.truncate k).zeroExtend 64 = v &&& BitVec.ofNat 64 (2 ^ k - 1) := by
  refine BitVec.eq_of_getLsbD_eq fun i h => ?_
  rw [BitVec.getLsbD_and, BitVec.getLsbD_ofNat, Nat.testBit_two_pow_sub_one, BitVec.getLsbD_setWidth, BitVec.getLsbD_setWidth]
  simp [h, Bool.and_comm]

theorem ofNat_bitW_zero (v : Word) : BitVec.ofNat 64 (bitW v 0).toNat = v &&& 1 := by
  refine BitVec.eq_of_toNat_eq ?_
  rw [BitVec.toNat_and, show (1 : Word).toNat = 2 ^ 1 - 1 from rfl, Nat.and_two_pow_sub_one_eq_mod, BitVec.toNat_ofNat, bitW,
    BitVec.getLsbD, Nat.toNat_testBit]
  omega

theorem and_three (v : Word) : v &&& 3 = BitVec.ofNat 64 ((bitW v 0).toNat + 2 * (bitW v 1).toNat) := by
  refine BitVec.eq_of_toNat_eq ?_
  rw [BitVec.toNat_and, show (3 : Word).toNat = 2 ^ 2 - 1 from rfl, Nat.and_two_pow_sub_one_eq_mod, BitVec.toNat_ofNat, bitW, bitW,
    BitVec.getLsbD, BitVec.getLsbD, Nat.toNat_testBit, Nat.toNat_testBit]
  omega

/-- The bits of a mask after a write of them alone. -/
theorem write_under_mask (m v k : Word) : ((m &&& ~~~k) ||| (v &&& k)) &&& k = v &&& k := by
  refine BitVec.eq_of_getLsbD_eq fun i h => ?_
  simp only [BitVec.getLsbD_or, BitVec.getLsbD_and, BitVec.getLsbD_not]
  cases k.getLsbD i <;> simp

/-- Delegated bits, read through `d`, after a write of the delegated bits of `e`. -/
theorem write_under_delegated (w v d e : Word) :
    ((w &&& ~~~(d &&& e)) ||| (v &&& (d &&& e))) &&& d = (w &&& d &&& ~~~e) ||| (v &&& d &&& e) := by
  refine BitVec.eq_of_getLsbD_eq fun i h => ?_
  simp only [BitVec.getLsbD_or, BitVec.getLsbD_and, BitVec.getLsbD_not]
  cases d.getLsbD i <;> cases e.getLsbD i <;> simp [h]

theorem getLsbD_setBitW (w : Word) {i : Nat} (b : Bool) (h : i < 64) (j : Nat) :
    (setBitW w i b).getLsbD j = if j = i then b else w.getLsbD j := by
  have hbit : (BitVec.ofNat 64 (2 ^ i)).getLsbD j = decide (j = i) := by
    rw [BitVec.getLsbD_ofNat, Nat.testBit_two_pow]
    by_cases hj : j = i
    · simp [hj, h]
    · simp [hj, Ne.symm hj]
  cases b
  · rw [setBitW, if_neg Bool.false_ne_true, BitVec.getLsbD_and, BitVec.getLsbD_not, hbit]
    by_cases hj : j = i
    · simp only [hj, if_true, decide_true, Bool.not_true, Bool.and_false]
    · by_cases h64 : j < 64
      · simp only [hj, h64, if_false, decide_true, decide_false, Bool.not_false, Bool.and_true]
      · simp only [hj, if_false, BitVec.getLsbD_of_ge w j (Nat.le_of_not_lt h64), Bool.false_and]
  · rw [setBitW, if_pos rfl, BitVec.getLsbD_or, hbit]
    by_cases hj : j = i <;> simp [hj]

/-- A write of the pending bits `e` shows in `mip` as read, where software sets them all. -/
theorem mipBits_write (mip v e : Word) (f : Bool) (he : e &&& 0x222 = e) :
    setBitW (((mip &&& ~~~e) ||| (v &&& e)) &&& intMask) 16 (f || bitW ((mip &&& ~~~e) ||| (v &&& e)) 16)
      = (setBitW (mip &&& intMask) 16 (f || bitW mip 16) &&& ~~~e) ||| (v &&& e) := by
  have hbit (j : Nat) : e.getLsbD j = (e.getLsbD j && (0x222 : Word).getLsbD j) := by
    rw [← BitVec.getLsbD_and, he]
  have h16 : e.getLsbD 16 = false := (hbit 16).trans (Bool.and_false _)
  have hint : ∀ j < 64, (0x222 : Word).getLsbD j = true → intMask.getLsbD j = true := by decide
  refine BitVec.eq_of_getLsbD_eq fun i h => ?_
  simp only [BitVec.getLsbD_or, BitVec.getLsbD_and, BitVec.getLsbD_not, getLsbD_setBitW _ _ (show 16 < 64 by decide), bitW]
  by_cases hi : i = 16
  · simp only [hi, h16, if_true, Bool.not_false, Bool.and_true, Bool.and_false, Bool.or_false, Nat.reduceLT, decide_true]
  · cases hE : e.getLsbD i
    · simp [hi, h]
    · have := hint i h (by simpa [hE] using (hbit i).symm)
      simp [hi, this]

/-- A write of 2 into MPP leaves MPP as it was (log 4). -/
theorem legalMpp_word (m v : Word) :
    (legalMpp m (v &&& mstatusMask) &&& mstatusMask) ||| mstatusFixed
      = ((if v.getLsbD 12 = true ∧ v.getLsbD 11 = false
            then (v &&& ~~~0x1800) ||| (((m &&& mstatusMask) ||| mstatusFixed) &&& 0x1800) else v) &&& 0x7E19AA)
        ||| 0x8000000A00006000 := by
  have h12 : bitW (v &&& mstatusMask) 12 = v.getLsbD 12 := by simp [bitW, mstatusMask]
  have h11 : bitW (v &&& mstatusMask) 11 = v.getLsbD 11 := by simp [bitW, mstatusMask]
  rw [legalMpp, h12, h11]
  by_cases hv : v.getLsbD 12 = true ∧ v.getLsbD 11 = false
  · rw [if_pos hv, if_pos (by rw [hv.1, hv.2]; rfl)]
    refine BitVec.eq_of_getLsbD_eq fun i h => ?_
    have hmpp : (0x1800 : Word).getLsbD i = decide (i = 12 ∨ i = 11) :=
      (by decide : ∀ i < 64, (0x1800 : Word).getLsbD i = decide (i = 12 ∨ i = 11)) i h
    simp only [BitVec.getLsbD_or, BitVec.getLsbD_and, BitVec.getLsbD_not, getLsbD_setBitW _ _ (show 12 < 64 by decide),
      getLsbD_setBitW _ _ (show 11 < 64 by decide), bitW, hmpp]
    by_cases hi : i = 12
    · subst hi
      simp [mstatusMask, mstatusFixed]
    by_cases hj : i = 11
    · subst hj
      simp [mstatusMask, mstatusFixed]
    simp [hi, hj, h, mstatusMask, mstatusFixed]
  · rw [if_neg hv, if_neg (by simpa using hv), BitVec.and_assoc, BitVec.and_self]
    rfl

/-! ### What a CSR write leaves unchanged -/

theorem setCsr_frame (t : Slot) (a : Nat) (v : Word) :
    t.setCsr a v = { t with u := (t.setCsr a v).u, sc := (t.setCsr a v).sc, rv := (t.setCsr a v).rv,
                            instret := (t.setCsr a v).instret } := by
  unfold Slot.setCsr
  split <;> rfl

theorem instret_setCsr (t : Slot) {a : Nat} (v : Word) (h : a ≠ 0xB02) : (t.setCsr a v).instret = t.instret := by
  unfold Slot.setCsr
  split <;> try contradiction
  all_goals rfl

theorem setUnitCsr_frame (s : State) (l a : Nat) (v : Word) :
    s.setUnitCsr l a v = { s with cores := (s.setUnitCsr l a v).cores, clus := (s.setUnitCsr l a v).clus,
                                  dies := (s.setUnitCsr l a v).dies } := by
  unfold State.setUnitCsr
  split <;> rfl

theorem slot_setUnitCsr (s : State) (l a : Nat) (v : Word) (k : Nat) : (s.setUnitCsr l a v).slot k = s.slot k := by
  rw [setUnitCsr_frame]
  rfl

theorem setCsr_of_ne {a : Nat} (s : State) (v : Word) (h : a ≠ 0x5CB) :
    s.setCsr a v = (s.modMe (·.setCsr a v)).setUnitCsr s.cur a v := by
  rw [State.setCsr, if_neg (by simpa using h)]

/-- The state after `pdrights` is written and its PLB entries are gone, the replies on their way not yet. -/
def State.pdrightsSet (s : State) (v : Word) : State :=
  (s.modMe (·.setCsr 0x5CB v)).modCore (coreOf s.cur) (fun c => { c with plb := c.plb.filter (fun e => e.slot != s.cur % 4) })

theorem setCsr_pdrights (s : State) (v : Word) :
    s.setCsr 0x5CB v = (s.pdrightsSet v).forgetReplies (fun loc _ => loc == s.cur) := rfl

theorem setCsr_state (s : State) (a : Nat) (v : Word) :
    s.setCsr a v = { s with slots := (s.setCsr a v).slots, cores := (s.setCsr a v).cores,
                            clus := (s.setCsr a v).clus, dies := (s.setCsr a v).dies } := by
  by_cases h : a = 0x5CB
  · subst h
    rfl
  · rw [setCsr_of_ne s v h, setUnitCsr_frame]
    rfl

theorem cur_setCsr (s : State) (a : Nat) (v : Word) : (s.setCsr a v).cur = s.cur := by
  rw [setCsr_state]

/-- A posted store whose reply, if it brings an entry that is gone, is forgotten: the store asks again (R248). -/
def Posted.forget (gone : Plb → Bool) (p : Posted) : Posted :=
  match p.reply with
  | some (.entry e) => if gone e then { p with reply := none } else p
  | _ => p

theorem posted_forgetReplies (s : State) (gone : Nat → Plb → Bool) (l : Nat) :
    ((s.forgetReplies gone).slot l).posted = (s.slot l).posted.map (Posted.forget (gone l)) := by
  unfold State.forgetReplies State.slot
  simp only
  rw [assoc_map _ (by intro e; rfl)]
  cases assoc s.slots l <;> rfl

theorem reply_forget (gone : Plb → Bool) (p : Posted) :
    { Posted.forget gone p with reply := none } = { p with reply := none } := by
  unfold Posted.forget
  split
  · split <;> rfl
  · rfl

theorem forget_none_gone (p : Posted) : Posted.forget (fun _ => false) p = p := by
  unfold Posted.forget
  split <;> rfl

theorem slot_forgetReplies_kept (s : State) {gone : Nat → Plb → Bool} {l : Nat} (h : gone l = fun _ => false) :
    (s.forgetReplies gone).slot l = s.slot l := by
  have hp := posted_forgetReplies s gone l
  rw [h, List.map_congr_left (fun p _ => forget_none_gone p), List.map_id'] at hp
  rw [slot_forgetReplies, hp]

theorem slot_setCsr_ne (s : State) (a : Nat) (v : Word) {l : Nat} (hl : l ≠ s.cur) : (s.setCsr a v).slot l = s.slot l := by
  by_cases h : a = 0x5CB
  · subst h
    rw [setCsr_pdrights, slot_forgetReplies_kept _ (funext fun _ => beq_false_of_ne hl), State.pdrightsSet, slot_modCore,
      slot_modMe_ne _ _ hl]
  · rw [setCsr_of_ne s v h, slot_setUnitCsr, slot_modMe_ne _ _ hl]

theorem me_pdrightsSet (s : State) (v : Word) : (s.pdrightsSet v).me = s.me.setCsr 0x5CB v := by
  rw [State.pdrightsSet, me_modCore, me_modMe]

/-- The issuing thread after the write: `pdrights` changes its posted stores besides. -/
theorem me_setCsr (s : State) (a : Nat) (v : Word) :
    (s.setCsr a v).me = { s.me.setCsr a v with posted := (s.setCsr a v).me.posted } := by
  by_cases h : a = 0x5CB
  · subst h
    rw [← me_pdrightsSet]
    exact slot_forgetReplies (s.pdrightsSet v) (fun loc _ => loc == s.cur) s.cur
  · have hme : (s.setCsr a v).me = s.me.setCsr a v := by
      rw [setCsr_of_ne s v h, State.me, slot_setUnitCsr, setUnitCsr_frame]
      exact me_modMe s _
    rw [hme]

theorem slot_cur_setCsr (s : State) (a : Nat) (v : Word) :
    (s.setCsr a v).slot s.cur = { s.me.setCsr a v with posted := (s.setCsr a v).me.posted } := by
  rw [← me_setCsr, State.me, cur_setCsr]

theorem u_setCsr (s : State) (a : Nat) (v : Word) : ((s.setCsr a v).slot s.cur).u = (s.me.setCsr a v).u := by
  rw [slot_cur_setCsr]
theorem sc_setCsr (s : State) (a : Nat) (v : Word) : ((s.setCsr a v).slot s.cur).sc = (s.me.setCsr a v).sc := by
  rw [slot_cur_setCsr]
theorem rv_setCsr (s : State) (a : Nat) (v : Word) : ((s.setCsr a v).slot s.cur).rv = (s.me.setCsr a v).rv := by
  rw [slot_cur_setCsr]

theorem posted_setCsr (s : State) {a : Nat} (v : Word) (h : a ≠ 0x5CB) : (s.setCsr a v).me.posted = s.me.posted := by
  rw [setCsr_of_ne s v h, State.me, slot_setUnitCsr, setUnitCsr_frame]
  show (s.modMe _).me.posted = _
  rw [me_modMe, setCsr_frame]

theorem posted_setCsr_pdrights (s : State) (v : Word) :
    (s.setCsr 0x5CB v).me.posted = s.me.posted.map (Posted.forget (fun _ => true)) := by
  refine (posted_forgetReplies (s.pdrightsSet v) (fun loc _ => loc == s.cur) s.cur).trans ?_
  rw [show (s.pdrightsSet v).slot s.cur = s.me.setCsr 0x5CB v from me_pdrightsSet s v, beq_self_eq_true, setCsr_frame]

theorem stores_setCsr (s : State) (a : Nat) (v : Word) :
    (s.setCsr a v).me.posted.map (fun p => { p with reply := none }) = s.me.posted.map (fun p => { p with reply := none }) := by
  by_cases h : a = 0x5CB
  · subst h
    rw [posted_setCsr_pdrights, List.map_map]
    exact List.map_congr_left fun p _ => reply_forget _ p
  · rw [posted_setCsr s v h]

theorem plb_setCsr_pdrights (s : State) (v : Word) :
    ∀ e ∈ ((s.setCsr 0x5CB v).core (coreOf s.cur)).plb, e.slot ≠ s.cur % 4 := by
  intro e he
  have hc : (s.setCsr 0x5CB v).core (coreOf s.cur) = (s.pdrightsSet v).core (coreOf s.cur) := rfl
  rw [hc, State.pdrightsSet, core_modCore_same] at he
  simpa using (List.mem_filter.mp he).2

theorem reply_setCsr_pdrights (s : State) (v : Word) :
    ∀ p ∈ (s.setCsr 0x5CB v).me.posted, ∀ e, p.reply ≠ some (.entry e) := by
  intro p hp e he
  have := entry_forgetReplies (s := s.pdrightsSet v) (gone := fun loc _ => loc == s.cur) (l := s.cur) hp he
  simp at this

/-! ### What the other CSRs of the table read as -/

theorem rvCsr_of_skRange (s : State) (l : Nat) {b : Nat} (h : skRange b = true) : s.rvCsr l b = none := by
  unfold State.rvCsr
  split
  case h_38 =>
    rw [if_neg]
    simp only [skRange, Bool.or_eq_true, Bool.and_eq_true, decide_eq_true_eq] at h ⊢
    omega
  all_goals exact absurd h (by decide)

theorem csr_congr {s t : State} {l b : Nat} (hs : t.slotCsr l b = s.slotCsr l b) (hu : t.unitCsr l b = s.unitCsr l b)
    (hr : t.rvCsr l b = s.rvCsr l b) : t.csr l b = s.csr l b := by
  rw [State.csr, State.csr, hs, hu, hr]

/-- Parts of a slot that no per-slot CSR of the table is read from. -/
theorem slotCsr_congr {s t : State} (l b : Nat) (hp : t.pkg = s.pkg) (ht : t.tick = s.tick)
    (hs : t.slot l = { s.slot l with x := (t.slot l).x, pc := (t.slot l).pc, st := (t.slot l).st, wait := (t.slot l).wait,
                                     far := (t.slot l).far, instret := (t.slot l).instret, rv := (t.slot l).rv,
                                     posted := (t.slot l).posted }) :
    t.slotCsr l b = s.slotCsr l b := by
  unfold State.slotCsr State.locid
  rw [hs, hp, ht]
  rfl

theorem u_sc_setCsr_of_not_skRange (t : Slot) {a : Nat} (v : Word) (h : skRange a = false) :
    (t.setCsr a v).u = t.u ∧ (t.setCsr a v).sc = t.sc := by
  unfold Slot.setCsr
  split <;> try contradiction
  all_goals exact ⟨rfl, rfl⟩

theorem slotCsr_setMe_ne (s : State) {a b : Nat} (v : Word) (ha : skRange a = true) (h : b ≠ a) (h8 : b ≠ 0x808) :
    (s.setMe (s.me.setCsr a v)).slotCsr s.cur b = s.slotCsr s.cur b := by
  unfold State.slotCsr
  rw [show (s.setMe (s.me.setCsr a v)).slot s.cur = s.me.setCsr a v from me_setMe _ _, show s.slot s.cur = s.me from rfl]
  unfold Slot.setCsr
  split <;> try contradiction
  all_goals split <;> try contradiction
  all_goals rfl

theorem slotCsr_setCsr_ne (s : State) {a b : Nat} (v : Word) (h : b ≠ a) (h8 : b ≠ 0x808) :
    (s.setCsr a v).slotCsr s.cur b = s.slotCsr s.cur b := by
  by_cases ha : skRange a = true
  · rw [← slotCsr_setMe_ne s v ha h h8]
    refine slotCsr_congr _ _ ?_ ?_ ?_
    · rw [setCsr_state]; rfl
    · rw [setCsr_state]; rfl
    · rw [slot_cur_setCsr, show (s.setMe (s.me.setCsr a v)).slot s.cur = s.me.setCsr a v from me_setMe _ _]
  · obtain ⟨hu, hsc⟩ := u_sc_setCsr_of_not_skRange s.me v (by simpa using ha)
    refine slotCsr_congr _ _ ?_ ?_ ?_
    · rw [setCsr_state]
    · rw [setCsr_state]
    · rw [slot_cur_setCsr, setCsr_frame, hu, hsc]
      rfl

theorem unitCsr_setUnitCsr_ne (s : State) (l : Nat) {a b : Nat} (v : Word) (h : b ≠ a) (h5 : a ≠ 0x5CF) :
    (s.setUnitCsr l a v).unitCsr l b = s.unitCsr l b := by
  unfold State.setUnitCsr
  split
  case h_10 => contradiction
  case h_17 => rfl
  all_goals
    unfold State.unitCsr
    simp only [core_modCore_same, die_modDie_same, clu_modClu_same]
    split <;> try contradiction
    all_goals rfl

theorem unitCsr_setCsr_ne (s : State) {a b : Nat} (v : Word) (h : b ≠ a) (h5 : a ≠ 0x5CF) :
    (s.setCsr a v).unitCsr s.cur b = s.unitCsr s.cur b := by
  by_cases hp : a = 0x5CB
  · subst hp
    show (s.pdrightsSet v).unitCsr s.cur b = _
    unfold State.unitCsr State.pdrightsSet
    rw [core_modCore_same]
    rfl
  · rw [setCsr_of_ne s v hp]
    exact unitCsr_setUnitCsr_ne (s.modMe _) s.cur v h h5

theorem csr_setCsr_ne (s : State) {a b : Nat} (v : Word) (hb : skRange b = true) (h : b ≠ a) (h8 : b ≠ 0x808)
    (h5 : a ≠ 0x5CF) : (s.setCsr a v).csr s.cur b = s.csr s.cur b :=
  csr_congr (slotCsr_setCsr_ne s v h h8) (unitCsr_setCsr_ne s v h h5)
    (by rw [rvCsr_of_skRange _ _ hb, rvCsr_of_skRange _ _ hb])

/-! ### The end of a CSR instruction -/

theorem slot_finish (s : State) (r : BitVec 5) (w : Word) (n : Nat) :
    ((s.setX r w).retire n).slot s.cur
      = { s.me with x := (s.me.wx r w).x, pc := s.me.pc + BitVec.ofNat 64 n, st := s.me.st.woken, wait := none, far := [],
                    instret := s.me.instret + 1 } := by
  have h : ((s.setX r w).retire n).slot s.cur = (s.me.wx r w).retire n := by
    rw [← me_setX, ← me_retire]
    rfl
  rw [h, wx_eta]
  rfl

/-- Writing `rd` and going on changes no CSR but the count of instructions. -/
theorem csr_finish (s : State) (r : BitVec 5) (w : Word) (n : Nat) {b : Nat} (h : b ≠ 0xB02) (h' : b ≠ 0xC02) :
    ((s.setX r w).retire n).csr s.cur b = s.csr s.cur b := by
  refine csr_congr (slotCsr_congr _ _ rfl rfl ?_) rfl ?_
  · rw [slot_finish]
    rfl
  · unfold State.rvCsr State.mipWord
    rw [slot_finish]
    split <;> try contradiction
    all_goals rfl

/-! ### What a written CSR reads as (R131) -/

/-- The bits that the table gives the user CSRs. -/
def userMasks : List (Nat × Word) :=
  let all : Word := BitVec.allOnes 64
  [(0x800, 0xFFFFFFFFFF), (0x801, 3), (0x802, all), (0x803, all), (0x804, all), (0x805, 1), (0x806, all), (0x807, 0xFFFF),
   (0x809, all), (0x810, 0x8F0FFF), (0x811, all), (0x812, all), (0x813, all), (0x814, all), (0x815, all)]

theorem csr_setCsr_user (s : State) (v : Word) :
    ∀ p ∈ userMasks, (s.setCsr p.1 v).csr s.cur p.1 = some (v &&& p.2) := by
  simp only [userMasks, List.forall_mem_cons, List.not_mem_nil, false_imp_iff, implies_true, and_true]
  and_intros <;> refine congrArg some ?_
  all_goals simp [u_setCsr, Slot.setCsr, maskW_eq_and, zeroExtend_truncate_eq_and, ofNat_bitW_zero,
    ← BitVec.and_or_distrib_left, -BitVec.reduceAllOnes]

/-- The bits that the table gives the supervisor CSRs of a slot. -/
def supervisorMasks : List (Nat × Word) :=
  [(0x5C2, 3), (0x5C3, 0x3FF), (0x5C4, BitVec.allOnes 64), (0x5C5, 1), (0x5CB, 0x1FFFFFFFFFF000), (0x5D3, 0xFFFFFFFFFFFFF000),
   (0x5D4, 0xFFFFFFFFFFFFF000)]

theorem csr_setCsr_supervisor (s : State) (v : Word) :
    ∀ p ∈ supervisorMasks, (s.setCsr p.1 v).csr s.cur p.1 = some (v &&& p.2) := by
  simp only [supervisorMasks, List.forall_mem_cons, List.not_mem_nil, false_imp_iff, implies_true, and_true]
  and_intros <;> refine congrArg some ?_
  all_goals simp [sc_setCsr, Slot.setCsr, maskW_eq_and, zeroExtend_truncate_eq_and, ofNat_bitW_zero,
    -BitVec.reduceAllOnes]

/-- The bits that the table gives the CSRs of a core, a cluster or a die. -/
def unitMasks : List (Nat × Word) :=
  let all : Word := BitVec.allOnes 64
  [(0x5C1, 0x1F), (0x5C6, 0x1FFFFFFFFFFFC0), (0x5C7, all), (0x5C8, 0xFFFFFFFF000000FF), (0x5C9, 1), (0x5CA, 0x1FFFFFFFFF8000),
   (0x5CC, all), (0x5CD, 0xFFF), (0x5CE, 0x1FFFFFFFFFF03F), (0x5D0, 0xFFFFFFFFF), (0x5D2, 0x80000000001FFFFF),
   (0x5D6, 0x800000FFFFFFFFFF), (0x5D7, 0xFFFFFFFFFFFFC1), (0x5D8, 0xFFFFFFFFFF)]

theorem csr_setCsr_unit (s : State) (v : Word) :
    ∀ p ∈ unitMasks, (s.setCsr p.1 v).csr s.cur p.1 = some (v &&& p.2) := by
  simp only [unitMasks, List.forall_mem_cons, List.not_mem_nil, false_imp_iff, implies_true, and_true]
  and_intros <;> refine congrArg some ?_
  all_goals simp [State.setCsr, State.setUnitCsr, maskW_eq_and, zeroExtend_truncate_eq_and,
    ofNat_bitW_zero, ← BitVec.and_or_distrib_left, -BitVec.reduceAllOnes]

theorem csr_setCsr_cycle (s : State) (v : Word) : (s.setCsr 0xB00 v).csr s.cur 0xB00 = some v := by
  show some (BitVec.ofNat 64 s.cycle + ((s.setCsr 0xB00 v).core (coreOf s.cur)).cycleOff) = some v
  rw [show s.setCsr 0xB00 v = (s.modMe (·.setCsr 0xB00 v)).modCore (coreOf s.cur)
    (fun c => { c with cycleOff := v - BitVec.ofNat 64 s.cycle }) from rfl, core_modCore_same, BitVec.add_comm, BitVec.sub_add_cancel]

/-- The low five bits of `fcsr` hold the flags, the next three the rounding mode. -/
theorem fflags_word (f : BitVec 8) (v : Word) :
    BitVec.ofNat 64 ((BitVec.ofNat 8 (f.toNat / 32 * 32 + v.toNat % 32)).toNat % 32) = v &&& 0x1F := by
  refine BitVec.eq_of_toNat_eq ?_
  rw [BitVec.toNat_and, show (0x1F : Word).toNat = 2 ^ 5 - 1 from rfl, Nat.and_two_pow_sub_one_eq_mod, BitVec.toNat_ofNat,
    BitVec.toNat_ofNat]
  omega

theorem frm_word (f : BitVec 8) (v : Word) :
    BitVec.ofNat 64 ((BitVec.ofNat 8 (f.toNat % 32 + v.toNat % 8 * 32)).toNat / 32) = v &&& 7 := by
  refine BitVec.eq_of_toNat_eq ?_
  rw [BitVec.toNat_and, show (7 : Word).toNat = 2 ^ 3 - 1 from rfl, Nat.and_two_pow_sub_one_eq_mod, BitVec.toNat_ofNat,
    BitVec.toNat_ofNat]
  omega

theorem csr_setCsr_fflags (s : State) (v : Word) : (s.setCsr 0x001 v).csr s.cur 0x001 = some (v &&& 0x1F) := by
  refine congrArg some ?_
  rw [rv_setCsr]
  exact fflags_word _ v

theorem csr_setCsr_frm (s : State) (v : Word) : (s.setCsr 0x002 v).csr s.cur 0x002 = some (v &&& 7) := by
  refine congrArg some ?_
  rw [rv_setCsr]
  exact frm_word _ v

/-- The bits that the RISC-V CSRs of a slot hold (log 4), the status and interrupt registers apart. -/
def rvMasks : List (Nat × Word) :=
  let all : Word := BitVec.allOnes 64
  [(0x003, 0xFF), (0x106, 0xFFFFFFFF), (0x140, all), (0x141, 0xFFFFFFFFFFFFFFFC), (0x142, all),
   (0x143, all), (0x302, all), (0x303, 0x30222), (0x304, 0x30222), (0x306, 0xFFFFFFFF), (0x340, all),
   (0x341, 0xFFFFFFFFFFFFFFFC), (0x342, all), (0x343, all), (0x105, 0xFFFFFFFFFFFFFFFD), (0x305, 0xFFFFFFFFFFFFFFFD)]

theorem csr_setCsr_rv (s : State) (v : Word) :
    ∀ p ∈ rvMasks, (s.setCsr p.1 v).csr s.cur p.1 = some (v &&& p.2) := by
  simp only [rvMasks, List.forall_mem_cons, List.not_mem_nil, false_imp_iff, implies_true, and_true]
  and_intros <;> refine congrArg some ?_
  all_goals simp [rv_setCsr, Slot.setCsr, zeroExtend_truncate_eq_and, intMask, -BitVec.reduceAllOnes]

/-! ### A CSR instruction that writes and meets no fault -/

/-- The state after CSR `a` is written with `v` and `r` with the old value. -/
def State.csrDone (s : State) (a : Nat) (v : Word) (r : BitVec 5) (old : Word) : State := ((s.setCsr a v).setX r old).retire 4

theorem csrInstr_writes {s : State} {c : CsrOp} {old : Word} (hf : s.csrFault c = none) (hw : c.writes = true)
    (ho : s.csr s.cur c.csr.toNat = some old) :
    s.csrInstr c = .ok (s.csrDone c.csr.toNat (csrNew c.kind old (s.csrOperand c)) c.rd old) := by
  rw [State.csrInstr, hf, ho]
  simp only [hw, if_true, Option.getD_some]
  rfl

theorem csrInstr_reads {s : State} {c : CsrOp} {old : Word} (hf : s.csrFault c = none) (hw : c.writes = false)
    (ho : s.csr s.cur c.csr.toNat = some old) : s.csrInstr c = .ok ((s.setX c.rd old).retire 4) := by
  rw [State.csrInstr, hf, ho, hw]
  rfl

theorem csrInstr_faults {s : State} {c : CsrOp} {cause : Nat} (hf : s.csrFault c = some cause) :
    s.csrInstr c = s.raise cause (BitVec.ofNat 64 c.word) := by
  rw [State.csrInstr, hf]

section
variable (s : State) (a : Nat) (v : Word) (r : BitVec 5) (old : Word)

theorem cur_csrDone : (s.csrDone a v r old).cur = s.cur := cur_setCsr s a v

theorem me_csrDone :
    (s.csrDone a v r old).me
      = { s.me.setCsr a v with
          x := (s.csrDone a v r old).me.x, posted := (s.csrDone a v r old).me.posted, pc := s.me.pc + 4, wait := none, far := [],
          st := s.me.st.woken, instret := (s.me.setCsr a v).instret + 1 } := by
  have h : (s.csrDone a v r old).me = _ := slot_finish (s.setCsr a v) r old 4
  rw [h, me_setCsr, setCsr_frame]
  rfl

theorem posted_csrDone : (s.csrDone a v r old).me.posted = (s.setCsr a v).me.posted := by
  rw [State.csrDone, me_retire, me_setX, wx_eta]
  rfl

theorem x_csrDone (q : BitVec 5) : (s.csrDone a v r old).x q = if q = 0 then 0 else if q = r then old else s.x q := by
  rw [State.csrDone, State.x, me_retire, xr_retire, me_setX, xr_wx, me_setCsr, setCsr_frame]
  rfl

theorem csr_csrDone {b : Nat} (h : b ≠ 0xB02) (h' : b ≠ 0xC02) :
    (s.csrDone a v r old).csr s.cur b = (s.setCsr a v).csr s.cur b := by
  have := csr_finish (s.setCsr a v) r old 4 h h'
  rwa [cur_setCsr] at this

theorem rest_csrDone :
    s.csrDone a v r old = { s with slots := (s.csrDone a v r old).slots, cores := (s.csrDone a v r old).cores,
                                   clus := (s.csrDone a v r old).clus, dies := (s.csrDone a v r old).dies } :=
  congrArg (fun u : State => { u with slots := (s.csrDone a v r old).slots }) (setCsr_state s a v)

theorem slot_csrDone_ne {l : Nat} (hl : l ≠ s.cur) : (s.csrDone a v r old).slot l = s.slot l := by
  have hcur := cur_setCsr s a v
  rw [State.csrDone, slot_retire_ne _ _ (by rwa [setX_cur, hcur]), slot_setX_ne _ _ _ (by rwa [hcur]), slot_setCsr_ne _ _ _ hl]

end

/-- What every CSR write does beside its register: `rd` takes the old value, and no other CSR of the table, no other
thread and no memory differs. -/
def CsrWrote (c : CsrOp) (old : Word) (s t : State) : Prop :=
  t = { s with slots := t.slots, cores := t.cores, clus := t.clus, dies := t.dies }
  ∧ (∀ l, l ≠ s.cur → t.slot l = s.slot l)
  ∧ (∀ b, skRange b = true → b ≠ c.csr.toNat → b ≠ 0x808 → t.csr s.cur b = s.csr s.cur b)
  ∧ (∀ q, t.x q = if q = 0 then 0 else if q = c.rd then old else s.x q)
  ∧ t.me = { s.me with x := t.me.x, u := t.me.u, sc := t.me.sc, rv := t.me.rv, instret := t.me.instret, posted := t.me.posted,
                       pc := s.me.pc + 4, wait := none, far := [], st := s.me.st.woken }
  ∧ (c.csr ≠ 0xB02 → t.me.instret = s.me.instret + 1)
  ∧ (c.csr ≠ 0x5CB → t.me.posted = s.me.posted)
  ∧ t.me.posted.map (fun p => { p with reply := none }) = s.me.posted.map (fun p => { p with reply := none })
  ∧ (c.csr = 0x5CB → (∀ e ∈ (t.core (coreOf s.cur)).plb, e.slot ≠ s.cur % 4)
      ∧ ∀ p ∈ t.me.posted, ∀ e, p.reply ≠ some (.entry e))

theorem csrWrote_csrDone (s : State) (c : CsrOp) (v old : Word) (h5 : c.csr.toNat ≠ 0x5CF) :
    CsrWrote c old s (s.csrDone c.csr.toNat v c.rd old) := by
  have hne (n : BitVec 12) (h : c.csr ≠ n) : c.csr.toNat ≠ n.toNat := fun e => h (BitVec.eq_of_toNat_eq e)
  refine ⟨rest_csrDone .., fun l hl => slot_csrDone_ne _ _ _ _ _ hl, fun b hb h h8 => ?csrs, x_csrDone _ _ _ _ _, ?me,
    fun h => ?instret, fun h => ?posted, ?stores, fun h => ?pdrights⟩
  case csrs =>
    have hr (n : Nat) (hn : skRange n = false) : b ≠ n := fun e => Bool.false_ne_true (by rw [← hn, ← e, hb])
    rw [csr_csrDone _ _ _ _ _ (hr _ rfl) (hr _ rfl), csr_setCsr_ne s _ hb h h8 h5]
  case me => rw [me_csrDone, setCsr_frame]
  case instret =>
    rw [me_csrDone]
    exact congrArg (· + 1) (instret_setCsr _ _ (hne _ h))
  case posted => rw [posted_csrDone, posted_setCsr _ _ (hne _ h)]
  case stores => rw [posted_csrDone, stores_setCsr]
  case pdrights =>
    rw [posted_csrDone, h]
    exact ⟨plb_setCsr_pdrights s v, reply_setCsr_pdrights s v⟩

/-! ### What a CSR holds after its write -/

/-- The bits that a CSR holds of what is written, for all but `uistat` and the status and interrupt registers. -/
def csrMasks : List (Nat × Word) :=
  userMasks ++ supervisorMasks ++ unitMasks ++ rvMasks
    ++ [(0x001, 0x1F), (0x002, 7), (0xB00, BitVec.allOnes 64)]

theorem csr_setCsr_same (s : State) (v : Word) : ∀ p ∈ csrMasks, (s.setCsr p.1 v).csr s.cur p.1 = some (v &&& p.2) := by
  simp only [csrMasks, List.forall_mem_append]
  refine ⟨⟨⟨⟨csr_setCsr_user s v, csr_setCsr_supervisor s v⟩, csr_setCsr_unit s v⟩, csr_setCsr_rv s v⟩, ?_⟩
  simp only [List.forall_mem_cons, List.not_mem_nil, false_imp_iff, implies_true, and_true]
  refine ⟨csr_setCsr_fflags s v, csr_setCsr_frm s v, ?_⟩
  rw [csr_setCsr_cycle, BitVec.and_allOnes]

/-- The masks of every CSR written so: `minstret` besides, which the instruction that writes it counts in. -/
def writtenMasks : List (Nat × Word) := csrMasks ++ [(0xB02, BitVec.allOnes 64)]

theorem writtenMasks_ne_spimg : ∀ p ∈ writtenMasks, p.1 ≠ 0x5CF := by decide

/-- `minstret` counts on from what is written, as after the instruction that writes it. -/
theorem csr_csrDone_instret (s : State) (v : Word) (r : BitVec 5) (old : Word) :
    (s.csrDone 0xB02 v r old).csr s.cur 0xB02 = some v := by
  refine congrArg some ?_
  rw [← cur_csrDone s 0xB02 v r old]
  show (s.csrDone 0xB02 v r old).me.instret = _
  rw [me_csrDone]
  exact BitVec.sub_add_cancel _ _

theorem csr_csrDone_same (s : State) {a : Nat} {m : Word} (v : Word) (r : BitVec 5) (old : Word)
    (h : (a, m) ∈ writtenMasks) : (s.csrDone a v r old).csr s.cur a = some (v &&& m) := by
  have hcounts : ∀ p ∈ csrMasks, p.1 ≠ 0xB02 ∧ p.1 ≠ 0xC02 := by decide
  obtain hm | hm := List.mem_append.mp h
  · obtain ⟨hb, hc⟩ := hcounts _ hm
    rw [csr_csrDone s a v r old hb hc, csr_setCsr_same s v _ hm]
  · obtain ⟨rfl, rfl⟩ := Prod.mk.inj (List.mem_singleton.mp hm)
    rw [csr_csrDone_instret, BitVec.and_allOnes]

theorem csrInstr_wrote {s : State} {c : CsrOp} {a : Nat} {old : Word} (ha : c.csr.toNat = a) (h5 : a ≠ 0x5CF)
    (hf : s.csrFault c = none) (hw : c.writes = true) (ho : s.csr s.cur a = some old) :
    Go.done (s.csrInstr c) = .next (s.csrDone a (csrNew c.kind old (s.csrOperand c)) c.rd old)
      ∧ CsrWrote c old s (s.csrDone a (csrNew c.kind old (s.csrOperand c)) c.rd old) := by
  subst ha
  exact ⟨by rw [csrInstr_writes hf hw ho, done_ok], csrWrote_csrDone s c _ old h5⟩

theorem csrInstr_effect {s : State} {c : CsrOp} {old m : Word} (hm : (c.csr.toNat, m) ∈ writtenMasks)
    (hf : s.csrFault c = none) (hw : c.writes = true) (ho : s.csr s.cur c.csr.toNat = some old) :
    ∃ t, Go.done (s.csrInstr c) = .next t ∧ CsrWrote c old s t
      ∧ t.csr s.cur c.csr.toNat = some (csrNew c.kind old (s.csrOperand c) &&& m) := by
  obtain ⟨he, hc⟩ := csrInstr_wrote rfl (writtenMasks_ne_spimg _ hm) hf hw ho
  exact ⟨_, he, hc, csr_csrDone_same s _ _ _ hm⟩

/-! ### `uistat`, the status registers and the interrupt registers -/

theorem uistat_eq {t : Slot} {v : Word} (he : t.u.uiEnable = bitW v 0) (ha : t.u.uiActive = bitW v 1) :
    t.uistat = (v &&& 3) ||| BitVec.ofNat 64 (4 * t.uiPending.toNat) := by
  rw [Slot.uistat, he, ha, and_three]
  cases bitW v 0 <;> cases bitW v 1 <;> cases t.uiPending <;> rfl

theorem mipWord_setCsr (s : State) {a : Nat} (v w e : Word) (hd : (s.setCsr a v).dies = s.dies) (he : e &&& 0x222 = e)
    (hm : (s.me.setCsr a v).rv.mip = (s.me.rv.mip &&& ~~~e) ||| (w &&& e)) :
    (s.setCsr a v).mipWord s.cur = (s.mipWord s.cur &&& ~~~e) ||| (w &&& e) := by
  have hft : (s.setCsr a v).ftFor s.cur = s.ftFor s.cur := by
    rw [State.ftFor, hd, State.locid, show (s.setCsr a v).pkg = s.pkg by rw [setCsr_state]]
    rfl
  rw [State.mipWord, hft, rv_setCsr, hm, mipBits_write _ _ _ _ he]
  rfl

theorem csr_mstatus_write (s : State) (v : Word) (r : BitVec 5) {old : Word} (ho : s.csr s.cur 0x300 = some old) :
    (s.csrDone 0x300 v r old).csr s.cur 0x300 = some (((if v.getLsbD 12 = true ∧ v.getLsbD 11 = false
      then (v &&& ~~~0x1800) ||| (old &&& 0x1800) else v) &&& 0x7E19AA) ||| 0x8000000A00006000) := by
  obtain rfl : s.me.mstatusWord = old := Option.some.inj ho
  refine (csr_csrDone s _ v r _ (by decide) (by decide)).trans (congrArg some ?_)
  rw [Slot.mstatusWord, rv_setCsr]
  exact legalMpp_word s.me.rv.mstatus v

theorem csr_sstatus_write (s : State) (v : Word) (r : BitVec 5) (old : Word) :
    (s.csrDone 0x100 v r old).csr s.cur 0x100 = some ((v &&& 0xC0122) ||| 0x8000000200006000) := by
  refine (csr_csrDone s _ v r _ (by decide) (by decide)).trans (congrArg some ?_)
  rw [Slot.sstatusWord, rv_setCsr]
  exact congrArg (· ||| sstatusFixed) (write_under_mask s.me.rv.mstatus v sstatusMask)

theorem csr_sie_write (s : State) (v : Word) (r : BitVec 5) (old : Word) :
    (s.csrDone 0x104 v r old).csr s.cur 0x104 = some (v &&& s.me.rv.mideleg &&& 0x30222) := by
  refine (csr_csrDone s _ v r _ (by decide) (by decide)).trans (congrArg some ?_)
  rw [rv_setCsr]
  have hc : v &&& s.me.rv.mideleg &&& intMask = v &&& intMask &&& s.me.rv.mideleg := by
    rw [BitVec.and_assoc, BitVec.and_comm s.me.rv.mideleg, BitVec.and_assoc]
  show ((s.me.rv.mie &&& ~~~s.me.rv.mideleg) ||| (v &&& s.me.rv.mideleg &&& intMask)) &&& s.me.rv.mideleg
    = v &&& s.me.rv.mideleg &&& intMask
  rw [hc, write_under_mask]

theorem csr_sip_write (s : State) (v : Word) (r : BitVec 5) {old : Word} (ho : s.csr s.cur 0x144 = some old) :
    (s.csrDone 0x144 v r old).csr s.cur 0x144 = some ((old &&& ~~~2) ||| (v &&& s.me.rv.mideleg &&& 2)) := by
  obtain rfl : s.mipWord s.cur &&& s.me.rv.mideleg = old := Option.some.inj ho
  refine (csr_csrDone s _ v r _ (by decide) (by decide)).trans (congrArg some ?_)
  have hmip : (s.me.setCsr 0x144 v).rv.mip
      = (s.me.rv.mip &&& ~~~(s.me.rv.mideleg &&& 2)) ||| (v &&& (s.me.rv.mideleg &&& 2)) := by
    rw [← BitVec.and_assoc v]
    rfl
  rw [mipWord_setCsr s v v _ rfl (BitVec.and_assoc _ _ _) hmip, rv_setCsr]
  exact write_under_delegated (s.mipWord s.cur) v s.me.rv.mideleg 2

theorem csr_mip_write (s : State) (v : Word) (r : BitVec 5) {old : Word} (ho : s.csr s.cur 0x344 = some old) :
    (s.csrDone 0x344 v r old).csr s.cur 0x344 = some ((old &&& ~~~0x222) ||| (v &&& 0x222)) := by
  obtain rfl : s.mipWord s.cur = old := Option.some.inj ho
  exact (csr_csrDone s _ v r _ (by decide) (by decide)).trans (congrArg some <| mipWord_setCsr s v v 0x222 rfl rfl rfl)

theorem csr_uistat_write (s : State) (v : Word) (r : BitVec 5) (old : Word) :
    (s.csrDone 0x808 v r old).csr s.cur 0x808
      = some ((v &&& 3) ||| BitVec.ofNat 64 (4 * (s.csrDone 0x808 v r old).me.uiPending.toNat)) := by
  refine congrArg some ?_
  rw [← cur_csrDone s 0x808 v r old]
  exact uistat_eq (by rw [← State.me, me_csrDone]; rfl) (by rw [← State.me, me_csrDone]; rfl)

/-! ### `quantum` (R375) -/

/-- `quantum` as it holds what is written: bit 62 says whether the length is below the least. -/
def Slot.clampedQuantum (t : Slot) (v : Word) : Word := setBitW v 62 (decide (v.toNat % 2 ^ 40 < t.sc.swcost.toNat + 1024))

theorem setCsr_quantum (t : Slot) (v : Word) : t.setCsr 0x5C0 v = { t with sc := { t.sc with quantum := t.clampedQuantum v } } := rfl

theorem length_clampedQuantum (t : Slot) (v : Word) : (t.clampedQuantum v).toNat % 2 ^ 40 = v.toNat % 2 ^ 40 := by
  refine Nat.eq_of_testBit_eq fun i => ?_
  rw [Nat.testBit_mod_two_pow, Nat.testBit_mod_two_pow]
  by_cases hi : i < 40
  · have h := getLsbD_setBitW v (decide (v.toNat % 2 ^ 40 < t.sc.swcost.toNat + 1024)) (show 62 < 64 by decide) i
    rw [if_neg (by omega)] at h
    exact congrArg (decide (i < 40) && ·) h
  · simp [hi]

theorem me_csrDone_quantum (s : State) (v : Word) (r : BitVec 5) (old : Word) :
    (s.csrDone 0x5C0 v r old).me
      = { s.me with x := (s.csrDone 0x5C0 v r old).me.x, sc := { s.me.sc with quantum := s.me.clampedQuantum v },
                    pc := s.me.pc + 4, wait := none, far := [], st := s.me.st.woken, instret := s.me.instret + 1 } := by
  rw [me_csrDone, posted_csrDone, posted_setCsr s v (by decide), setCsr_quantum]

theorem onlyThread_csrDone_quantum (s : State) (v : Word) (r : BitVec 5) (old : Word) : OnlyThread s (s.csrDone 0x5C0 v r old) :=
  onlyThread_trans (onlyThread_modMe s (·.setCsr 0x5C0 v))
    (onlyThread_trans (onlyThread_modMe _ (·.wx r old)) (onlyThread_modMe _ (·.retire 4)))

/-! ### The instructions -/

/-- A write of a CSR other than `spimg` is what every CSR instruction is. -/
theorem exec_csrWrite (s : State) {c : CsrOp} (h : c.csr.toNat ≠ 0x5CF) : exec (.csrWrite c) s = Go.done (s.csrInstr c) := by
  have hc : (c.csr == 0x5CF) = false := beq_false_of_ne fun e => h (congrArg BitVec.toNat e)
  show execCsrWrite c s = _
  rw [execCsrWrite, hc]
  rfl

/-- A write of a CSR whose new value is not what is written under a mask. -/
theorem csrWrite_wrote {s : State} {c : CsrOp} {a : Nat} {old : Word} {w : State → Word} (ha : c.csr.toNat = a) (h5 : a ≠ 0x5CF)
    (hf : s.csrFault c = none) (hw : c.writes = true) (ho : s.csr s.cur a = some old)
    (hr : (s.csrDone a (csrNew c.kind old (s.csrOperand c)) c.rd old).csr s.cur a
      = some (w (s.csrDone a (csrNew c.kind old (s.csrOperand c)) c.rd old))) :
    ∃ t, exec (.csrWrite c) s = .next t ∧ CsrWrote c old s t ∧ t.csr s.cur a = some (w t) := by
  obtain ⟨he, hc⟩ := csrInstr_wrote ha h5 hf hw ho
  exact ⟨_, (exec_csrWrite s (ha ▸ h5)).trans he, hc, hr⟩

theorem exec_matrixCsrWrite {s : State} (c : CsrOp) (h : s.tileQueued s.cur = false) :
    exec (.matrixCsrWrite c) s = Go.done (s.csrInstr c) := by
  show execMatrixCsrWrite c s = _
  rw [execMatrixCsrWrite, h]
  rfl

theorem exec_csrRead (c : CsrOp) (s : State) : exec (.rv64BaseInstruction (.csrRead c)) s = Go.done (s.csrInstr c) := rfl

/-! ### Accesses that fault (R131) -/

theorem exec_csrWrite_fault {s : State} {c : CsrOp} {cause : Nat} (hf : s.csrFault c = some cause) :
    exec (.csrWrite c) s = .next (s.trap s.cur { cause := cause, tval := BitVec.ofNat 64 c.word }) := by
  rw [← done_raise, ← csrInstr_faults hf]
  show execCsrWrite c s = _
  rw [execCsrWrite, hf]
  simp only [Option.isNone_some, Bool.and_false, Bool.false_and, Bool.false_eq_true, if_false]

theorem csrFault_user {s : State} {c : CsrOp} (hr : skRange c.csr.toNat = true) (hp : s.me.priv = .u)
    (h : skSupervisor c.csr.toNat = true ∨ (c.writes = true ∧ skReadOnly c.csr.toNat = true)) : s.csrFault c = some 25 := by
  rw [State.csrFault]
  simp only [hr, hp, if_true, beq_self_eq_true]
  rw [if_pos (by simpa using h)]
  rfl

theorem csrFault_readOnly {s : State} {c : CsrOp} (hr : skRange c.csr.toNat = true) (hp : s.me.priv ≠ .u)
    (hw : c.writes = true) (ho : skReadOnly c.csr.toNat = true) : s.csrFault c = some 2 := by
  rw [State.csrFault]
  simp only [hr, hw, ho, beq_false_of_ne hp, if_true, Bool.false_eq_true, if_false, Bool.and_self]

/-- Settles O13: each write leaves the state of `csrDone`, whose registers and CSRs the lemmas above read; a read writes `rd`
alone, and an access that faults traps. -/
theorem csrInstructions : Obligations.CsrInstructions := by
  unfold Obligations.CsrInstructions
  refine ⟨⟨?masks, ?uistat, ?mstatus, ?sstatus, ?sie, ?sip, ?mip, ?pdrights, ?prridx, ?tcq, ?matrix⟩, ?quantum, ?read, ?user,
    ?readOnly, ?fixed⟩
  case masks =>
    intro s c old m hm hf hw ho
    have hm' : (c.csr.toNat, m) ∈ writtenMasks := (by decide : _ ⊆ writtenMasks) hm
    rw [exec_csrWrite s (writtenMasks_ne_spimg _ hm')]
    exact csrInstr_effect hm' hf hw ho
  case uistat => exact fun c s old ha hf hw ho => csrWrite_wrote ha (by decide) hf hw ho (csr_uistat_write ..)
  case mstatus => exact fun c s old ha hf hw ho => csrWrite_wrote ha (by decide) hf hw ho (csr_mstatus_write s _ _ ho)
  case sstatus => exact fun c s old ha hf hw ho => csrWrite_wrote ha (by decide) hf hw ho (csr_sstatus_write ..)
  case sie => exact fun c s old ha hf hw ho => csrWrite_wrote ha (by decide) hf hw ho (csr_sie_write ..)
  case sip => exact fun c s old ha hf hw ho => csrWrite_wrote ha (by decide) hf hw ho (csr_sip_write s _ _ ho)
  case mip => exact fun c s old ha hf hw ho => csrWrite_wrote ha (by decide) hf hw ho (csr_mip_write s _ _ ho)
  case pdrights => exact fun s c old m hm hf hw ho => csrInstr_effect ((by decide : _ ⊆ writtenMasks) hm) hf hw ho
  case prridx => exact fun s c old m hm hf hw ho => csrInstr_effect ((by decide : _ ⊆ writtenMasks) hm) hf hw ho
  case tcq => exact fun s c old m hm hf hw ho => csrInstr_effect ((by decide : _ ⊆ writtenMasks) hm) hf hw ho
  case matrix =>
    intro s hq c old m hm hf hw ho
    rw [exec_matrixCsrWrite c hq]
    exact csrInstr_effect ((by decide : _ ⊆ writtenMasks) hm) hf hw ho
  case quantum =>
    intro c s old hc hf hw ho v
    obtain ⟨he, -⟩ := csrInstr_wrote (congrArg BitVec.toNat hc) (by decide) hf hw ho
    refine ⟨_, s.me.clampedQuantum v, he, onlyThread_csrDone_quantum .., fun i hi => ?_, ?_, ?_, x_csrDone _ _ _ _ _, ?_⟩
    · rw [Slot.clampedQuantum, getLsbD_setBitW _ _ (by decide), if_neg hi]
    · rw [Slot.clampedQuantum, getLsbD_setBitW _ _ (by decide), if_pos rfl]
    · exact me_csrDone_quantum ..
    · exact (congrArg Slot.quantumEff (me_csrDone_quantum ..)).trans (congrArg (max · _) (length_clampedQuantum ..))
  case read =>
    intro c s old hf hw ho
    exact ⟨_, by rw [exec_csrRead, csrInstr_reads hf hw ho, done_ok], writesX_retire ..⟩
  case user =>
    intro c s hr hp h
    have hf := csrFault_user hr hp h
    exact ⟨exec_csrWrite_fault hf, by rw [exec_csrRead, csrInstr_faults hf, done_raise]⟩
  case readOnly => exact fun c s hr hp hw ho => exec_csrWrite_fault (csrFault_readOnly hr hp hw ho)
  case fixed => exact fun s loc => ⟨rfl, rfl, rfl⟩

end Sys2Proof.Machine
end

section
/-! PROOFS. Tagged pointers, priority, and the inbox words (O2 to O6). -/

namespace Sys2Proof.Machine

/-! ### Tagged pointers (R134, R135) -/

theorem toNat_tagPointer (a : Word) (ek : BitVec 5) : (tagPointer a ek).toNat = a.toNat % 2 ^ 56 + ek.toNat * 2 ^ 59 := by
  have h := ek.isLt
  rw [tagPointer, BitVec.toNat_ofNat]
  omega

/-- The five bits from 59 on, as `tagx` writes them. -/
theorem tag_eq_extract (v : Word) : BitVec.ofNat 64 (v.toNat / 2 ^ 59) = (v.extractLsb' 59 5).zeroExtend 64 := by
  have h := v.isLt
  refine BitVec.eq_of_toNat_eq ?_
  rw [BitVec.toNat_ofNat, BitVec.zeroExtend, BitVec.toNat_setWidth, BitVec.extractLsb'_toNat, Nat.shiftRight_eq_div_pow]
  omega

theorem tag_tagPointer (a : Word) (ek : BitVec 5) :
    BitVec.ofNat 64 ((tagPointer a ek).toNat / 2 ^ 59) = ek.zeroExtend 64 := by
  have h := ek.isLt
  refine BitVec.eq_of_toNat_eq ?_
  rw [toNat_tagPointer, BitVec.toNat_ofNat, BitVec.zeroExtend, BitVec.toNat_setWidth]
  omega

/-- A field of a tagged pointer, by its bits. -/
theorem extract_tagPointer (a : Word) (ek : BitVec 5) (i n : Nat) (v : BitVec n)
    (h : (a.toNat % 2 ^ 56 + ek.toNat * 2 ^ 59) / 2 ^ i % 2 ^ n = v.toNat) : (tagPointer a ek).extractLsb' i n = v := by
  refine BitVec.eq_of_toNat_eq ?_
  rw [BitVec.extractLsb'_toNat, Nat.shiftRight_eq_div_pow, toNat_tagPointer, h]

/-- Settles O2: the four fields of the pointer are those of the address and of the tag. -/
theorem tagpBuildsTaggedPointer : Obligations.TagpBuildsTaggedPointer := by
  unfold Obligations.TagpBuildsTaggedPointer
  intro rd rs1 ek s
  have h := ek.isLt
  refine ⟨_, tagPointer (s.x rs1) ek, rfl, writesX_retire .., ?address, ?zero, ?k, ?e⟩ <;>
    refine extract_tagPointer _ _ _ _ _ ?_
  case zero => show _ = 0; omega
  all_goals
    rw [BitVec.extractLsb'_toNat, Nat.shiftRight_eq_div_pow]
    omega

/-- Settles O3: the tag is what stands in the five bits, and in a pointer that `tagp` built those are its field. -/
theorem tagxExtractsTag : Obligations.TagxExtractsTag := by
  unfold Obligations.TagxExtractsTag
  refine ⟨fun rd rs1 s => ⟨_, rfl, ?tag⟩, fun rd rs1 ek s t hrd ht => ⟨_, rfl, ?back⟩⟩
  case tag =>
    rw [← tag_eq_extract]
    exact writesX_retire ..
  case back =>
    have hx : t.x rd = tagPointer (s.x rs1) ek := by
      obtain rfl : ((s.setX rd (tagPointer (s.x rs1) ek)).retire 4) = t := Host.Outcome.next.inj ht
      rw [(writesX_retire ..).regs, if_neg hrd, if_pos rfl]
    rw [(writesX_retire ..).regs, if_neg hrd, if_pos rfl, hx, tag_tagPointer]

/-- Settles O4: the smaller of the two is at most the ceiling, so that it fits the two bits that hold it. -/
theorem prioSetsIssuePriority : Obligations.PrioSetsIssuePriority := by
  unfold Obligations.PrioSetsIssuePriority
  intro rs1 s p
  refine ⟨_, rfl, threadStep_retire s { s.me with u := { s.me.u with prio := p } } _ 4 rfl rfl rfl rfl, ?_⟩
  have hlt : min (s.x rs1).toNat s.me.sc.prioceil.toNat < 2 ^ 2 := by omega
  rw [me_retire, me_modMe]
  exact Nat.mod_eq_of_lt hlt

/-! ### Waits with a limit (R15, R125) -/

/-- The limit of the wait that the issuing thread is in, or is about to begin, is over. -/
def State.limitOver (s : State) (k : WaitKind) : Prop :=
  (s.me.wait = none ∧ s.me.u.waitlim = 0)
    ∨ ∃ d n e b o, s.me.wait = some ⟨k, some d, n, e, b, o⟩ ∧ e.release = false ∧ d ≤ s.cycle

theorem holdsEntry_of_no_wait {s : State} (h : s.me.wait = none) : s.holdsEntry = false := by
  simp [State.holdsEntry, h]

theorem deadlineFor_of_no_wait {s : State} (k : WaitKind) (n : Nat) (h : s.me.wait = none) :
    s.deadlineFor s.cur k n = s.cycle + n := by
  have h' : (s.slot s.cur).wait = none := h
  simp only [State.deadlineFor, h']

theorem deadlineFor_of_wait {s : State} {k : WaitKind} {d n : Nat} {e : Expiry} {b o : Option Nat} (m : Nat)
    (h : s.me.wait = some ⟨k, some d, n, e, b, o⟩) : s.deadlineFor s.cur k m = d := by
  have h' : (s.slot s.cur).wait = some ⟨k, some d, n, e, b, o⟩ := h
  simp [State.deadlineFor, h']

/-- A wait that begins now, with its limit counted from now. -/
theorem waitFor_begins {s : State} (k : WaitKind) {n : Nat} (e : Expiry) (hw : s.me.wait = none) (hn : n ≠ 0) :
    s.waitFor k n e = s.modMe (fun t =>
      { t with wait := some ⟨k, some (s.cycle + n), 0, e, none, s.outerFor k⟩, st := if t.st = .ready then .wait else t.st }) := by
  rw [State.waitFor, deadlineFor_of_no_wait k n hw, if_neg (by omega), holdsEntry_of_no_wait hw, Bool.or_false]
  simp only [beq_iff_eq]

/-- A wait that goes on to the deadline that it has. -/
theorem waitFor_goes_on {s : State} {k : WaitKind} {d m : Nat} {e' : Expiry} {b o : Option Nat} (n : Nat) (e : Expiry)
    (hw : s.me.wait = some ⟨k, some d, m, e', b, o⟩) (hd : s.cycle < d) :
    s.waitFor k n e = s.modMe (fun t =>
      { t with wait := some ⟨k, some d, 0, { e with release := e.release || e'.release }, none, s.outerFor k⟩,
               st := if t.st = .ready then .wait else t.st }) := by
  have hr : s.holdsEntry = e'.release := by simp [State.holdsEntry, hw]
  rw [State.waitFor, deadlineFor_of_wait n hw, if_neg (by omega), hr]
  simp only [beq_iff_eq]

theorem waitFor_over {s : State} {k : WaitKind} (e : Expiry) (h : s.limitOver k) : s.waitFor k s.waitlim e = s.expire s.cur e := by
  obtain ⟨hw, hl⟩ | ⟨d, n, e', b, o, hw, hr, hd⟩ := h
  · have hz : s.waitlim = 0 := by rw [State.waitlim, hl]; rfl
    rw [State.waitFor, deadlineFor_of_no_wait _ _ hw, hz, if_pos (by omega), holdsEntry_of_no_wait hw, Bool.or_false]
  · have hr : s.holdsEntry = false := by simp [State.holdsEntry, hw, hr]
    rw [State.waitFor, deadlineFor_of_wait _ hw, if_pos hd, hr, Bool.or_false]

/-- The expiry of a wait that writes registers, where nothing is outstanding that it would take back. -/
theorem expire_of_nothing_out {s : State} (xs : List (BitVec 5 × Word)) (ho : s.rgnOps = []) (hi : s.invs = []) (hf : s.feq = [])
    (hm : ∀ p ∈ s.slots, p.2.st ≠ .member) :
    s.expire s.cur { xs := xs } = s.modMe (fun t => (xs.foldl (fun u p => u.wx p.1 p.2) t).retire 4) := by
  have h : s.expire s.cur { xs := xs }
      = (s.withdrawn s.cur).modSlot s.cur (fun t => (xs.foldl (fun u p => u.wx p.1 p.2) t).retire 4) := rfl
  rw [h, withdrawn_of_nothing_out s.cur ho hi hf hm]
  rfl

theorem setX_retire_eq (s : State) (r : BitVec 5) (v : Word) (n : Nat) :
    (s.setX r v).retire n = s.modMe (fun t => (t.wx r v).retire n) := modMe_modMe s _ _

theorem setX_setX_retire_eq (s : State) (p q : BitVec 5) (v w : Word) (n : Nat) :
    ((s.setX p v).setX q w).retire n = s.modMe (fun t => ((t.wx p v).wx q w).retire n) := by
  rw [setX_retire_eq, State.setX, modMe_modMe]

/-! ### `wfm` (R145) -/

theorem wfm_has {s : State} (rd : BitVec 5) (h : s.me.mail ≠ []) : exec (.wfm rd) s = .next (s.finish rd .ok 4) := by
  show execWfm rd s = _
  rw [execWfm, if_neg (by simp [h])]

theorem wfm_lacks {s : State} (rd : BitVec 5) (h : s.me.mail = []) :
    exec (.wfm rd) s = .next (s.waitFor .inbox s.waitlim { xs := [(rd, Status.timeout.word)] }) := by
  show execWfm rd s = _
  rw [execWfm, if_pos (by simp [h])]

theorem waitlim_ne_zero {s : State} (h : s.me.u.waitlim ≠ 0) : s.waitlim ≠ 0 :=
  fun e => h (BitVec.eq_of_toNat_eq e)

/-- Settles O5: `wfm` finds a message, or begins its wait, goes on with it, or has it expire. -/
theorem wfmWaitsForMessage : Obligations.WfmWaitsForMessage := by
  unfold Obligations.WfmWaitsForMessage
  refine ⟨?has, ?begins, ?goesOn, ?expired⟩
  case has =>
    intro rd s m r hm
    exact ⟨_, wfm_has rd (by rw [hm]; exact List.cons_ne_nil m r), writesX_finish ..⟩
  case begins =>
    intro rd s hm hw hl hs
    refine ⟨_, by rw [wfm_lacks rd hm, waitFor_begins _ _ hw (waitlim_ne_zero hl)], onlyThread_modMe .., ?_⟩
    rw [me_modMe, if_pos hs]
    rfl
  case goesOn =>
    intro rd s d n e b o hm hw hd
    refine ⟨_, by rw [wfm_lacks rd hm, waitFor_goes_on _ _ hw hd], onlyThread_modMe .., ?_⟩
    rw [me_modMe]
    exact ⟨rfl, rfl, rfl, rfl⟩
  case expired =>
    intro rd s hm hover ho hi hf hs
    refine ⟨_, by rw [wfm_lacks rd hm, waitFor_over _ hover, expire_of_nothing_out _ ho hi hf hs], ?_⟩
    exact setX_retire_eq s rd _ 4 ▸ writesX_retire ..

/-! ### `peek` and `recv` (R144) -/

theorem hi_eq (m : Msg) : m.hi = m.kind ++ m.status ++ m.seq ++ m.tag := by
  refine BitVec.eq_of_toNat_eq ?_
  have hk := m.kind.isLt
  have hs := m.status.isLt
  have hq := m.seq.isLt
  have ht := m.tag.isLt
  rw [Msg.hi, BitVec.toNat_ofNat, BitVec.toNat_append, BitVec.toNat_append, BitVec.toNat_append,
    ← Nat.shiftLeft_add_eq_or_of_lt ht, ← Nat.shiftLeft_add_eq_or_of_lt hq, ← Nat.shiftLeft_add_eq_or_of_lt hs]
  simp only [Nat.shiftLeft_eq]
  omega

theorem takeMsg_eta (t : Slot) (p : Msg → Bool) :
    t.takeMsg p = { t with inbox := (t.takeMsg p).inbox, uiFresh := (t.takeMsg p).uiFresh } := by
  unfold Slot.takeMsg
  split <;> rfl

theorem dropFirst_eq_eraseIdx {α : Type} (p : α → Bool) (l : List α) :
    dropFirst p l = match l.findIdx? p with | none => l | some i => l.eraseIdx i := by
  induction l with
  | nil => rfl
  | cons a r ih =>
    rw [dropFirst, List.findIdx?_cons]
    split
    · rfl
    · rw [ih]
      cases r.findIdx? p <;> rfl

theorem inbox_takeMsg (t : Slot) (p : Msg → Bool) : (t.takeMsg p).inbox = dropFirst p t.inbox := by
  rw [dropFirst_eq_eraseIdx, Slot.takeMsg]
  cases t.inbox.findIdx? p <;> rfl

theorem recv_takes {s d : State} {m : Msg} {r : List Msg} (rd : BitVec 4) (hd : s.syncGate = .ok d) (hm : d.me.mail = m :: r) :
    exec (.recv rd) s = .next (d.modMe (fun t =>
      (((t.takeMsg (fun q => !q.isReturn)).wx (pairLo rd) m.value).wx (pairHi rd) m.hi).retire 4)) := by
  have h : (((d.modMe (fun t => t.takeMsg (fun q => !q.isReturn))).setX (pairLo rd) m.value).setX (pairHi rd) m.hi).retire 4
      = d.modMe (fun t => (((t.takeMsg (fun q => !q.isReturn)).wx (pairLo rd) m.value).wx (pairHi rd) m.hi).retire 4) := by
    rw [setX_setX_retire_eq, modMe_modMe]
  show execRecv rd s = _
  simp only [execRecv, hd, ok_bind, hm, h, done_ok]

theorem recv_lacks {s d : State} (rd : BitVec 4) (hd : s.syncGate = .ok d) (hm : d.me.mail = []) :
    exec (.recv rd) s = .next (d.waitFor .inbox d.waitlim { xs := [(pairLo rd, 0), (pairHi rd, noMessage .timeout)] }) := by
  show execRecv rd s = _
  simp only [execRecv, hd, ok_bind, hm]
  rfl

theorem wx_wx_eta (t : Slot) (p q : BitVec 5) (v w : Word) : (t.wx p v).wx q w = { t with x := ((t.wx p v).wx q w).x } := by
  rw [wx_eta (t.wx p v) q w, wx_eta t p v]

/-- Settles O6: `peek` reads the oldest message or writes EMPTY; `recv` takes it, waits, or has its wait expire. -/
theorem inboxWordsReadTheOldestMessage : Obligations.InboxWordsReadTheOldestMessage := by
  unfold Obligations.InboxWordsReadTheOldestMessage
  refine ⟨?empty, ?peek, ?takes, ?begins, ?expired⟩
  case empty =>
    intro rd s hm
    refine ⟨((s.setX (pairLo rd) 0).setX (pairHi rd) (noMessage .empty)).retire 4, ?_, writesXX_retire ..⟩
    show execPeek rd s = _
    simp only [execPeek, hm]
  case peek =>
    intro rd s m r hm
    refine ⟨((s.setX (pairLo rd) m.value).setX (pairHi rd) m.hi).retire 4, ?_, hi_eq m ▸ writesXX_retire ..⟩
    show execPeek rd s = _
    simp only [execPeek, hm]
  case takes =>
    intro rd s d m r hd hm
    refine ⟨_, recv_takes rd hd hm, onlyThread_modMe .., fun q => ?_, ?_, ?_⟩
    · show Slot.xr (State.me _) q = _
      have hx : (d.me.takeMsg (fun q => !q.isReturn)).xr q = d.x q := by rw [takeMsg_eta]; rfl
      rw [me_modMe, xr_retire, xr_wx, xr_wx, hi_eq, hx]
      split <;> rfl
    · rw [me_modMe, wx_wx_eta]
      exact inbox_takeMsg ..
    · rw [me_modMe, wx_wx_eta, takeMsg_eta]
      rfl
  case begins =>
    intro rd s d hd hm hw hl
    refine ⟨_, by rw [recv_lacks rd hd hm, waitFor_begins _ _ hw (waitlim_ne_zero hl)], onlyThread_modMe .., ?_⟩
    rw [me_modMe]
    rfl
  case expired =>
    intro rd s d hd hm hover ho hi hf hs
    refine ⟨_, by rw [recv_lacks rd hd hm, waitFor_over _ hover, expire_of_nothing_out _ ho hi hf hs], ?_⟩
    exact setX_setX_retire_eq d _ _ _ _ 4 ▸ writesXX_retire ..

end Sys2Proof.Machine
end

section
/-! PROOFS. Gangs (O7): what `fuse` does to the member slots, one by one, and `split`. -/

namespace Sys2Proof.Machine

/-! ### Folds over the members of a gang -/

/-- A step of a fold over the members of a gang led from location `c`: member `i`, from 1 on, becomes `f i` of itself, and nothing
else differs. -/
structure MemberStep (c : Nat) (f : Nat → Slot → Slot) (g : State → Nat → State) : Prop where
  rest : ∀ t i, g t i = { t with slots := (g t i).slots }
  slot : ∀ t i l, (g t i).slot l = if i ≠ 0 ∧ l = c + 4 * i then f i (t.slot l) else t.slot l

section
variable {c : Nat} {f : Nat → Slot → Slot} {g : State → Nat → State}

theorem MemberStep.foldl_rest (h : MemberStep c f g) (s : State) (l : List Nat) :
    l.foldl g s = { s with slots := (l.foldl g s).slots } :=
  List.foldlRecOn _ _ (motive := fun t : State => t = { s with slots := t.slots }) rfl
    (fun t ht i _ => by rw [h.rest t i, ht])

theorem MemberStep.foldl_other (h : MemberStep c f g) (s : State) (n : Nat) {l : Nat}
    (hl : ∀ i, 0 < i → i < n → l ≠ c + 4 * i) : ((List.range n).foldl g s).slot l = s.slot l := by
  induction n with
  | zero => rfl
  | succ n ih =>
    rw [List.range_succ, List.foldl_append, List.foldl_cons, List.foldl_nil, h.slot,
      if_neg (fun ⟨h0, he⟩ => hl n (Nat.pos_of_ne_zero h0) (Nat.lt_succ_self n) he)]
    exact ih (fun i h0 hi => hl i h0 (Nat.lt_succ_of_lt hi))

theorem MemberStep.foldl_member (h : MemberStep c f g) (s : State) {n i : Nat} (h0 : 0 < i) (hi : i < n) :
    ((List.range n).foldl g s).slot (c + 4 * i) = f i (s.slot (c + 4 * i)) := by
  induction n with
  | zero => exact absurd hi (Nat.not_lt_zero i)
  | succ n ih =>
    rw [List.range_succ, List.foldl_append, List.foldl_cons, List.foldl_nil, h.slot]
    by_cases he : i = n
    · subst he
      rw [if_pos ⟨by omega, rfl⟩, h.foldl_other s i (fun j _ hj => by omega)]
    · rw [if_neg (by omega)]
      exact ih (by omega)

end

/-! ### `fuse` (R139) -/

/-- A FREE slot reserved as a member. -/
def Slot.reservedFor (g : Gang) (m : Slot) : Slot := if m.st = .free then { m with st := .member, gang := some g } else m

/-- What a member of `n` is reserved as. -/
def gangOf (c n i : Nat) : Gang := ⟨c, i, n⟩

theorem memberStep_reserve (c n : Nat) :
    MemberStep c (fun i => Slot.reservedFor (gangOf c n i)) (fun t i =>
      if i == 0 then t
      else if (t.slot (c + 4 * i)).st == .free then
        t.modSlot (c + 4 * i) (fun m => { m with st := .member, gang := some ⟨c, i, n⟩ })
      else t) := by
  refine ⟨fun t i => ?_, fun t i l => ?_⟩
  · split
    · rfl
    · split <;> rfl
  · by_cases h0 : i = 0
    · simp [h0]
    · by_cases hf : (t.slot (c + 4 * i)).st = .free
      · simp only [beq_iff_eq, h0, hf, if_true, if_false, slot_modSlot, ne_eq, not_false_eq_true, true_and]
        by_cases hl : l = c + 4 * i
        · subst hl
          simp only [if_true, Slot.reservedFor, hf]
          rfl
        · simp only [hl, if_false]
      · simp only [beq_iff_eq, h0, hf, if_false, ne_eq, not_false_eq_true, true_and]
        by_cases hl : l = c + 4 * i
        · subst hl
          simp only [if_true, Slot.reservedFor, hf, if_false]
        · simp only [hl, if_false]

theorem memberStep_fuse (lead : Slot) (rd : BitVec 5) (c n : Nat) :
    MemberStep c (fun i m => m.fused lead (gangOf c n i) rd) (fun t i =>
      if i == 0 then t else t.modSlot (c + 4 * i) (fun m => m.fused lead ⟨c, i, n⟩ rd)) := by
  refine ⟨fun t i => ?_, fun t i l => ?_⟩
  · split <;> rfl
  · by_cases h0 : i = 0
    · simp [h0]
    · simp only [beq_iff_eq, h0, if_false, slot_modSlot, ne_eq, not_false_eq_true, true_and]
      by_cases hl : l = c + 4 * i
      · subst hl
        rfl
      · simp only [hl, if_false]

theorem reserveGang_rest (s : State) (n : Nat) : s.reserveGang n = { s with slots := (s.reserveGang n).slots } :=
  (memberStep_reserve s.cur n).foldl_rest s _

theorem slot_reserveGang_member (s : State) {n i : Nat} (h0 : 0 < i) (hi : i < n) :
    (s.reserveGang n).slot (s.cur + 4 * i) = (s.slot (s.cur + 4 * i)).reservedFor (gangOf s.cur n i) :=
  (memberStep_reserve s.cur n).foldl_member s h0 hi

theorem slot_reserveGang_other (s : State) (n : Nat) {l : Nat} (hl : ∀ i, 0 < i → i < n → l ≠ s.cur + 4 * i) :
    (s.reserveGang n).slot l = s.slot l :=
  (memberStep_reserve s.cur n).foldl_other s n hl

theorem cur_reserveGang (s : State) (n : Nat) : (s.reserveGang n).cur = s.cur := by rw [reserveGang_rest]

theorem me_reserveGang (s : State) (n : Nat) : (s.reserveGang n).me = s.me := by
  rw [State.me, cur_reserveGang]
  exact slot_reserveGang_other s n (fun i _ _ => by omega)

theorem gangReady_reserveGang {s : State} {n : Nat} (h : ∀ i, 0 < i → i < n → (s.slot (s.cur + 4 * i)).st = .free) :
    (s.reserveGang n).gangReady n = true := by
  refine List.all_eq_true.mpr fun i hi => ?_
  rw [cur_reserveGang]
  by_cases h0 : i = 0
  · simp [h0]
  · have hpos := Nat.pos_of_ne_zero h0
    have hn := List.mem_range.mp hi
    rw [slot_reserveGang_member s hpos hn, Slot.reservedFor, if_pos (h i hpos hn)]
    simp [gangOf]

theorem fuse_range {s : State} (rd n : BitVec 5) (h : s.me.gang ≠ none ∨ coreOf s.cur % 2 ^ n.toNat ≠ 0) :
    exec (.fuse rd n) s = .next (s.finish rd .range 4) := by
  have hc : (s.me.gang.isSome || coreOf s.cur % 2 ^ n.toNat != 0) = true := by
    simpa [Option.isSome_iff_ne_none] using h
  show execFuse rd n s = _
  rw [execFuse, if_pos hc]

/-- The gang formed by `fuse`: its slots reserved, then every member started. -/
def State.fused (s : State) (rd : BitVec 5) (n : Nat) : State := (s.reserveGang n).formGang rd n

theorem fuse_forms {s : State} (rd n : BitVec 5) (hg : s.me.gang = none) (hc : coreOf s.cur % 2 ^ n.toNat = 0)
    (hf : ∀ i, 0 < i → i < 2 ^ n.toNat → (s.slot (s.cur + 4 * i)).st = .free) :
    exec (.fuse rd n) s = .next (s.fused rd (2 ^ n.toNat)) := by
  show execFuse rd n s = _
  rw [execFuse, if_neg (by simp [hg, hc])]
  simp only [gangReady_reserveGang hf, if_true]
  rfl

/-- The members started, the leader not yet moved past its `fuse`. -/
def State.membersStarted (s : State) (rd : BitVec 5) (n : Nat) : State :=
  (List.range n).foldl (fun t i =>
    if i == 0 then t else t.modSlot (s.cur + 4 * i) (fun m => m.fused s.me ⟨s.cur, i, n⟩ rd)) (s.reserveGang n)

theorem fused_eq (s : State) (rd : BitVec 5) (n : Nat) :
    s.fused rd n = (s.membersStarted rd n).modMe (fun t =>
      (({ t with gang := some ⟨s.cur, 0, n⟩ } : Slot).wx rd Status.ok.word).retire 4) := by
  rw [State.fused, State.formGang]
  simp only [me_reserveGang, cur_reserveGang, finish_eq, setX_retire_eq, modMe_modMe]
  rfl

theorem membersStarted_rest (s : State) (rd : BitVec 5) (n : Nat) :
    s.membersStarted rd n = { s with slots := (s.membersStarted rd n).slots } := by
  have h := (memberStep_fuse s.me rd s.cur n).foldl_rest (s.reserveGang n) (List.range n)
  rw [State.membersStarted, h, reserveGang_rest]

theorem slot_membersStarted_other (s : State) (rd : BitVec 5) (n : Nat) {l : Nat}
    (hl : ∀ i, 0 < i → i < n → l ≠ s.cur + 4 * i) : (s.membersStarted rd n).slot l = s.slot l :=
  ((memberStep_fuse s.me rd s.cur n).foldl_other _ n hl).trans (slot_reserveGang_other s n hl)

theorem slot_membersStarted_member (s : State) (rd : BitVec 5) {n i : Nat} (h0 : 0 < i) (hi : i < n) :
    (s.membersStarted rd n).slot (s.cur + 4 * i)
      = ((s.slot (s.cur + 4 * i)).reservedFor (gangOf s.cur n i)).fused s.me (gangOf s.cur n i) rd := by
  rw [← slot_reserveGang_member s h0 hi]
  exact (memberStep_fuse s.me rd s.cur n).foldl_member _ h0 hi

theorem cur_membersStarted (s : State) (rd : BitVec 5) (n : Nat) : (s.membersStarted rd n).cur = s.cur := by
  rw [membersStarted_rest]

theorem me_membersStarted (s : State) (rd : BitVec 5) (n : Nat) : (s.membersStarted rd n).me = s.me := by
  rw [State.me, cur_membersStarted]
  exact slot_membersStarted_other s rd n (fun i _ _ => by omega)

theorem me_fused (s : State) (rd : BitVec 5) (n : Nat) :
    (s.fused rd n).me = (({ s.me with gang := some ⟨s.cur, 0, n⟩ } : Slot).wx rd Status.ok.word).retire 4 := by
  rw [fused_eq, me_modMe, me_membersStarted]

theorem slot_fused_ne (s : State) (rd : BitVec 5) (n : Nat) {l : Nat} (hl : l ≠ s.cur) :
    (s.fused rd n).slot l = (s.membersStarted rd n).slot l := by
  rw [fused_eq, slot_modMe_ne _ _ (by rw [cur_membersStarted]; exact hl)]

/-- The x registers of a member: the leader's, but for its own stack pointer and the OK in rd. -/
theorem xr_fused (m lead : Slot) (g : Gang) (rd q : BitVec 5) :
    (m.fused lead g rd).xr q
      = if q = 0 then 0 else if q = rd then Status.ok.word else if q = 2 then m.sc.stkinit else lead.xr q := by
  have h2 : (2 : BitVec 5) ≠ 0 := by decide
  rw [Slot.fused, xr_wx, xr_wx]
  by_cases hq : q = 0
  · simp only [hq, if_true]
  · by_cases hr : q = rd
    · subst hr
      by_cases h : q = 2
      · simp only [h, h2, if_true, if_false]
        rfl
      · simp only [hq, h, if_true, if_false]
        rfl
    · by_cases h : q = 2
      · subst h
        simp only [hq, hr, Ne.symm hr, if_true, if_false]
      · simp only [hq, h, hr, if_false]
        rfl

/-- What else a member starts with. -/
theorem fused_eta (m lead : Slot) (g : Gang) (rd : BitVec 5) :
    m.fused lead g rd = { m with
      st := .member, priv := lead.priv, pc := lead.pc + 4, x := (m.fused lead g rd).x, f := lead.f, v := lead.v, o := lead.o,
      b := lead.b, k := lead.k, h := lead.h, cb := lead.cb, u := lead.u, rv := { m.rv with fcsr := lead.rv.fcsr },
      job := lead.job, dirty := 0x3F, gang := some g, wait := none, ctx := m.ctxCounter, ctxCounter := m.ctxCounter + 1 } := by
  rw [Slot.fused, wx_wx_eta]

theorem sc_reservedFor (g : Gang) (m : Slot) : (m.reservedFor g).sc = m.sc := by
  rw [Slot.reservedFor]
  split <;> rfl

/-! ### `split` (R141) -/

/-- A thread outside its gang. -/
def Slot.alone (t : Slot) : Slot := { t with gang := none, st := if t.st == .member then .ready else t.st }

theorem exec_split (s : State) : exec .split s = .next ((s.modMe Slot.alone).retire 4) := rfl

/-- Settles O7: `split` is the thread alone moved past it; `fuse` answers RANGE, or forms the gang slot by slot. -/
theorem gangWords : Obligations.GangWords := by
  unfold Obligations.GangWords
  refine ⟨?outside, ?member, ?range, ?forms⟩
  case outside =>
    intro s hs
    have ha : s.me.alone = { s.me with gang := none } := by simp [Slot.alone, hs]
    have hm : s.modMe Slot.alone = s.setMe { s.me with gang := none } := by rw [State.modMe, ha]
    exact ⟨_, exec_split s, hm ▸ threadStep_retire s { s.me with gang := none } _ 4 rfl rfl rfl rfl⟩
  case member =>
    intro s hs
    have ha : s.me.alone = { s.me with gang := none, st := .ready } := by simp [Slot.alone, hs]
    refine ⟨_, exec_split s, onlyThread_retire s s.me.alone 4, ?_⟩
    rw [me_retire, me_modMe, ha]
    rfl
  case range => exact fun rd n s h => ⟨_, fuse_range rd n h, writesX_finish ..⟩
  case forms =>
    intro rd n s hg hc hf
    refine ⟨_, fuse_forms rd n hg hc hf, ?rest, fun q => ?regs, ?me, fun i h0 hi => ?started, fun l hl hn => ?others⟩
    case rest =>
      rw [fused_eq, membersStarted_rest]
      rfl
    case regs =>
      show Slot.xr (State.me _) q = _
      rw [me_fused, xr_retire, xr_wx]
      rfl
    case me =>
      rw [me_fused, wx_eta]
      rfl
    case started =>
      rw [slot_fused_ne s rd _ (by omega), slot_membersStarted_member s rd h0 hi]
      intro m old
      refine ⟨?st, ?gang, ?pc, ?priv, fun q => ?xr, ?files⟩
      case xr =>
        rw [xr_fused, sc_reservedFor]
        rfl
      all_goals rw [show m = _ from fused_eta _ s.me _ rd]
      case files => exact ⟨rfl, rfl, rfl, rfl, rfl, rfl, rfl, rfl, sc_reservedFor ..⟩
      all_goals rfl
    case others =>
      rw [slot_fused_ne s rd _ hl, slot_membersStarted_other s rd _ (fun i _ hi => hn i hi)]

end Sys2Proof.Machine
end

section
/-! PROOFS. The RV64 base: integer instructions (O9), F and D instructions (O11). -/

namespace Sys2Proof.Machine

/-- An instruction of the RV64 base goes on as its meaning says. -/
theorem exec_rv (i : Rv) (s : State) : exec (.rv64BaseInstruction i) s = Go.done (s.rv i) := rfl

/-! ### Integer instructions -/

/-- What division by zero gives. -/
theorem aluResult_zero_divisor (a : Word) : aluResult .div a 0 = BitVec.allOnes 64 ∧ aluResult .divu a 0 = BitVec.allOnes 64
    ∧ aluResult .rem a 0 = a ∧ aluResult .remu a 0 = a := by
  simp [aluResult, divS, divU, remS, remU]

/-- Settles O9: each form writes its result into rd and moves past the word. -/
theorem integerInstructionsWriteRd : Obligations.IntegerInstructionsWriteRd := by
  unfold Obligations.IntegerInstructionsWriteRd
  refine ⟨?alu, ?imm, ?un, ?lui, ?auipc, aluResult_zero_divisor, by decide, by decide⟩
  case alu => exact fun op rd rs1 rs2 s => ⟨_, rfl, writesX_retire ..⟩
  case imm => exact fun op rd rs1 imm s => ⟨_, rfl, writesX_retire ..⟩
  case un => exact fun op rd rs1 s => ⟨_, rfl, writesX_retire ..⟩
  case lui => exact fun rd imm s => ⟨_, rfl, writesX_retire ..⟩
  case auipc => exact fun rd imm s => ⟨_, rfl, writesX_retire ..⟩

/-! ### Signed halves -/

theorem sval_eq_toInt (w v : Nat) : sval w v = (BitVec.ofNat w v).toInt := by
  rw [BitVec.toInt_eq_toNat_cond, BitVec.toNat_ofNat, sval]
  norm_cast

/-- The sign extension of the low `w` bits of a number. -/
theorem sextW_eq (w v : Nat) : sextW w v = (BitVec.ofNat w v).signExtend 64 := by
  rw [sextW, sval_eq_toInt]
  rfl

theorem sextW_toNat (v : Word) : sextW 32 v.toNat = (v.extractLsb' 0 32).signExtend 64 := by
  rw [sextW_eq, BitVec.extractLsb', Nat.shiftRight_zero]

/-! ### F and D instructions -/

theorem rounded_of_mode {s : State} {rm : BitVec 3} {r : Rnd} (i : Rv) (f : Rnd → Go) (h : s.me.rounding rm = some r) :
    s.rounded i rm f = f r := by
  rw [State.rounded, h]

theorem rounded_reserved {s : State} {rm : BitVec 3} (i : Rv) (f : Rnd → Go) (h : s.me.rounding rm = none) :
    s.rounded i rm f = s.raise 2 (BitVec.ofNat 64 i.word) := by
  rw [State.rounded, h]

/-- A result of a format ends its instruction in the f register. -/
theorem fpResult_writesF {s : State} {g : Go} {f : FFmt} {rd : BitVec 5} {p : Nat × Nat} (h : g = s.fpResult f rd p) :
    ∃ t, Go.done g = .next t ∧ WritesF s t rd (boxed f p.1) p.2 4 :=
  ⟨_, by rw [h]; rfl, writesF_retire ..⟩

/-- Register rd takes a value, and flags accrue. -/
def WritesXFlags (s t : State) (rd : BitVec 5) (v : Word) (flags : Nat) : Prop :=
  ThreadStep s t 4 { s.me with x := t.me.x, rv := { s.me.rv with fcsr := s.me.rv.fcsr ||| BitVec.ofNat 8 (flags % 32) } }
    ∧ ∀ q, t.x q = if q = 0 then 0 else if q = rd then v else s.x q

/-- An integer result ends its instruction in the x register. -/
theorem fpInt_writes {s : State} {g : Go} {rd : BitVec 5} {v : Word} {flags : Nat} (h : g = s.fpInt rd v flags) :
    ∃ t, Go.done g = .next t ∧ WritesXFlags s t rd v flags := by
  refine ⟨(s.modMe (fun t => (t.wx rd v).flag flags)).retire 4, by rw [h]; rfl, ?_, fun q => ?_⟩
  · refine threadStep_retire s ((s.me.wx rd v).flag flags) _ 4 ?_ ?_ ?_ ?_ <;> rw [wx_eta]
    · rfl
    · rfl
    · rfl
    · rw [me_retire, me_modMe, wx_eta]
      rfl
  · show Slot.xr (State.me _) q = _
    rw [me_retire, xr_retire, me_modMe]
    exact xr_wx ..

theorem boxed_move_s (v : Word) : boxed .s (v.toNat % 2 ^ 32) = 0xFFFFFFFF#32 ++ v.extractLsb' 0 32 := by
  have hlt : v.toNat % 2 ^ 32 < 2 ^ 32 := Nat.mod_lt _ (by decide)
  refine BitVec.eq_of_toNat_eq ?_
  rw [BitVec.toNat_append, BitVec.extractLsb'_toNat, Nat.shiftRight_zero, ← Nat.shiftLeft_add_eq_or_of_lt hlt, Nat.shiftLeft_eq,
    show (0xFFFFFFFF#32).toNat = 2 ^ 32 - 1 from rfl, boxed, BitVec.toNat_ofNat]
  omega

theorem boxed_move_d (v : Word) : boxed .d (v.toNat % 2 ^ 64) = v := by
  rw [boxed, Nat.mod_eq_of_lt v.isLt, BitVec.ofNat_toNat, BitVec.setWidth_eq]

/-- A form whose rounding mode is reserved. -/
theorem exec_reserved {s : State} {rm : BitVec 3} {i : Rv} {f : Rnd → Go} (hi : s.rv i = s.rounded i rm f)
    (h : s.me.rounding rm = none) :
    exec (.rv64BaseInstruction i) s = .next (s.trap s.cur { cause := 2, tval := BitVec.ofNat 64 i.word }) := by
  rw [exec_rv, hi, rounded_reserved i f h, done_raise]

/-- Settles O11: a form with a reserved rounding mode traps; else its result goes to the register file of its form. -/
theorem floatInstructions : Obligations.FloatInstructions := by
  unfold Obligations.FloatInstructions
  refine ⟨?fop, ?fma, ?fromInt, ?toS, ?toD, ?fromX, ?sign, ?reserved, ?compare, ?classify, ?toInt, ?toX⟩
  case fop => exact fun op f rm rd rs1 rs2 s r h => fpResult_writesF (rounded_of_mode _ _ h)
  case fma => exact fun op f rm rd rs1 rs2 rs3 s r h => fpResult_writesF (rounded_of_mode _ _ h)
  case fromInt => exact fun iw f rm rd rs1 s r h => fpResult_writesF (rounded_of_mode _ _ h)
  case toS => exact fun rm rd rs1 s r h => fpResult_writesF (rounded_of_mode _ _ h)
  case toD => exact fun rm rd rs1 s r h => fpResult_writesF (rounded_of_mode _ _ h)
  case fromX =>
    intro f rd rs1 s
    cases f with
    | s =>
      have h : ∃ t, exec (.rv64BaseInstruction (.fmvFromX .s rd rs1)) s = .next t
          ∧ WritesF s t rd (boxed .s ((s.x rs1).toNat % 2 ^ 32)) 0 4 :=
        fpResult_writesF (p := ((s.x rs1).toNat % 2 ^ 32, 0)) rfl
      rwa [boxed_move_s] at h
    | d =>
      have h : ∃ t, exec (.rv64BaseInstruction (.fmvFromX .d rd rs1)) s = .next t
          ∧ WritesF s t rd (boxed .d ((s.x rs1).toNat % 2 ^ 64)) 0 4 :=
        fpResult_writesF (p := ((s.x rs1).toNat % 2 ^ 64, 0)) rfl
      rwa [boxed_move_d] at h
  case sign =>
    rintro op f rd rs1 rs2 s (rfl | rfl | rfl | rfl | rfl) <;> exact fpResult_writesF rfl
  case reserved =>
    rintro i rm s h (⟨op, f, rd, rs1, rs2, rfl⟩ | ⟨op, f, rd, rs1, rs2, rs3, rfl⟩ | ⟨iw, f, rd, rs1, rfl⟩ | ⟨iw, f, rd, rs1, rfl⟩
      | ⟨f, rd, rs1, rfl⟩) <;> exact exec_reserved rfl h
  case compare =>
    rintro op f rd rs1 rs2 s (rfl | rfl | rfl) <;> exact fpInt_writes rfl
  case classify => exact fun f rd rs1 s => fpInt_writes rfl
  case toInt =>
    intro iw f rm rd rs1 s r h p
    have hb : (if IWidth.bits iw == 32 then sextW 32 p.1 else BitVec.ofNat 64 p.1)
        = if IWidth.bits iw = 32 then (BitVec.ofNat 32 p.1).signExtend 64 else BitVec.ofNat 64 p.1 := by
      simp only [beq_iff_eq, sextW_eq]
    rw [← hb]
    exact fpInt_writes (rounded_of_mode _ _ h)
  case toX =>
    intro f rd rs1 s
    cases f with
    | s => exact sextW_toNat (s.me.fr rs1) ▸ fpInt_writes rfl
    | d => exact fpInt_writes rfl

end Sys2Proof.Machine
end

section
/-! PROOFS. Trap entry, trap returns and the system words of the base (O12). -/

namespace Sys2Proof.Machine

/-! ### Trap entry (R368, R370) -/

theorem trapEntry_traps {s : State} {loc : Nat} (cause : Nat) (tval : Word) (hf : (s.slot loc).st ≠ .free)
    (hp : (s.slot loc).st ≠ .pool) (ho : (s.slot loc).st ≠ .out) (hg : (s.slot loc).gang = none) (hw : (s.slot loc).wait = none) :
    exec (.trapEntry loc cause tval) s = .next ((s.dropAsks (tidNo (s.tidOf loc))).modSlot loc
      (·.takeTrap s.tick { cause := cause, tval := tval })) := by
  have hocc : (s.slot loc).occupied = true := by simp [Slot.occupied, hf, hp, ho]
  show execTrapEntry loc cause tval s = _
  rw [execTrapEntry, if_pos hocc, trap_of_no_gang _ hg hw rfl]

theorem delegated_exception (t : Slot) (cause : Nat) :
    t.delegated false cause = true ↔ t.priv ≠ .m ∧ t.rv.medeleg.getLsbD cause = true := by
  simp [Slot.delegated, bitW]

theorem not_delegated_exception (t : Slot) (cause : Nat) :
    t.delegated false cause = false ↔ t.priv = .m ∨ t.rv.medeleg.getLsbD cause = false := by
  rw [Slot.delegated, Bool.and_eq_false_iff, bne_eq_false_iff_eq]
  exact Iff.rfl

/-- Two conditions with one outcome, tested at once. -/
theorem if_or_eq {α : Type} (p q : Prop) [Decidable p] [Decidable q] (a b : α) :
    (if p ∨ q then a else b) = if p then a else if q then a else b := by
  by_cases hp : p
  · rw [if_pos (.inl hp), if_pos hp]
  · simp only [hp, false_or, if_false]

/-- `mstatus` after a trap to supervisor mode from mode `p`. -/
def sTrapStatus (st : Word) (p : Priv) : Word := setBitW (setBitW (setBitW st 5 (bitW st 1)) 1 false) 8 (p != .u)

/-- `mstatus` after a trap to machine mode from mode `p`. -/
def mTrapStatus (st : Word) (p : Priv) : Word :=
  setBitW (setBitW (setBitW (setBitW st 7 (bitW st 3)) 3 false) 11 (p != .u)) 12 (p == .m)

theorem getLsbD_sTrapStatus (st : Word) {p : Priv} (h : p ≠ .m) (i : Nat) :
    (sTrapStatus st p).getLsbD i = if i = 8 then decide (p = .s) else if i = 1 then false
      else if i = 5 then st.getLsbD 1 else st.getLsbD i := by
  have hp : (p != .u) = decide (p = .s) := by
    cases p with
    | m => exact absurd rfl h
    | s => rfl
    | u => rfl
  rw [sTrapStatus, getLsbD_setBitW _ _ (by decide), getLsbD_setBitW _ _ (by decide), getLsbD_setBitW _ _ (by decide), hp]
  rfl

theorem getLsbD_mTrapStatus (st : Word) (p : Priv) (i : Nat) :
    (mTrapStatus st p).getLsbD i = if i = 12 then decide (p = .m) else if i = 11 then decide (p ≠ .u)
      else if i = 3 then false else if i = 7 then st.getLsbD 3 else st.getLsbD i := by
  have hu : (p != .u) = decide (p ≠ .u) := by cases p <;> rfl
  have hm : (p == .m) = decide (p = .m) := by cases p <;> rfl
  rw [mTrapStatus, getLsbD_setBitW _ _ (by decide), getLsbD_setBitW _ _ (by decide), getLsbD_setBitW _ _ (by decide),
    getLsbD_setBitW _ _ (by decide), hu, hm]
  rfl

section
variable {t : Slot} (tick : Word) {cause : Nat} (tval : Word)

/-- A trap that is delegated to supervisor mode, on a thread outside a gang. -/
theorem takeTrap_delegated (hm : t.st ≠ .member) (h : t.delegated false cause = true) :
    t.takeTrap tick { cause := cause, tval := tval } = { t with
      rv := { t.rv with sepc := t.pc, scause := BitVec.ofNat 64 cause, stval := tval, mstatus := sTrapStatus t.rv.mstatus t.priv },
      priv := .s, pc := t.rv.stvec &&& ~~~(3 : Word), st := .trap, wait := none, resv := none, far := [],
      trapRec := some { amo := 0, elem := 0, member := 0, cause := BitVec.ofNat 8 cause, pc := t.pc, tval := tval, frame := 0,
                        held := t.held, tick := tick } } := by
  have hst : (t.st == .member) = false := beq_false_of_ne hm
  simp only [Slot.takeTrap, h, hst, if_true, handlerPc, Bool.false_and, Bool.false_eq_true, if_false]
  rfl

/-- A trap that goes to machine mode, on a thread outside a gang. -/
theorem takeTrap_machine (hm : t.st ≠ .member) (h : t.delegated false cause = false) :
    t.takeTrap tick { cause := cause, tval := tval } = { t with
      rv := { t.rv with mepc := t.pc, mcause := BitVec.ofNat 64 cause, mtval := tval, mstatus := mTrapStatus t.rv.mstatus t.priv },
      priv := .m, pc := t.rv.mtvec &&& ~~~(3 : Word), st := .trap, wait := none, resv := none, far := [],
      trapRec := some { amo := 0, elem := 0, member := 0, cause := BitVec.ofNat 8 cause, pc := t.pc, tval := tval, frame := 0,
                        held := t.held, tick := tick } } := by
  have hst : (t.st == .member) = false := beq_false_of_ne hm
  simp only [Slot.takeTrap, h, hst, handlerPc, Bool.false_and, Bool.false_eq_true, if_false]
  rfl

end

/-! ### Trap returns (R125, R368) -/

/-- The thread at the address and in the mode to which a trap return leads. -/
def Slot.backTo (t : Slot) (pc : Word) (p : Priv) (mstatus : Word) : Slot :=
  { t with pc := pc, priv := p, wait := none, rv := { t.rv with mstatus := mstatus }, instret := t.instret + 1 }

/-- The thread issues again, or is a member of its gang again. -/
def Slot.resume (t : Slot) : Slot := { t with st := if t.member = 0 then .ready else .member }

theorem returned_of_no_calls {t : Slot} (cycle : Nat) (h : t.calls = []) :
    t.returned cycle = t.resume := by
  simp [Slot.returned, Slot.resume, h]

/-- The issuing thread has no held store and no reference store to reissue. -/
theorem reissue_setMe {s : State} {t : Slot} (hh : t.held = []) (hr : t.refHeld = []) : (s.setMe t).reissue s.cur = s.setMe t := by
  have hslot : (s.setMe t).slot s.cur = t := me_setMe s t
  have ht : ({ t with held := [] } : Slot) = t := by rw [← hh]
  have hs : (s.setMe t).setSlot s.cur t = s.setMe t := setMe_setMe s t t
  simp only [State.reissue, State.modSlot, hslot, hh, List.foldl_nil, ht, hs]
  rw [serveReady_of_none (by rw [hslot, hr]), hslot, hs]

/-- A return with no store held and no call outstanding, not to the exit address. -/
theorem trapReturn_goes_back {s : State} {pc : Word} (p : Priv) (mstatus : Word) (hpc : pc ≠ exitAddr) (hh : s.me.held = [])
    (hr : s.me.refHeld = []) (hc : s.me.calls = []) : s.trapReturn pc p mstatus = s.modMe (fun t => (t.backTo pc p mstatus).resume) := by
  have hback : (s.modMe (fun t => (t.backTo pc p mstatus).returned s.cycle)).reissue s.cur
      = s.modMe (fun t => (t.backTo pc p mstatus).resume) := by
    rw [State.modMe, returned_of_no_calls _ (by exact hc), reissue_setMe (by exact hh) (by exact hr)]
    rfl
  have hheld : ((s.modMe (fun t => (t.backTo pc p mstatus).resume)).slot s.cur).held = [] := by
    rw [show (s.modMe _).slot s.cur = _ from me_modMe ..]
    exact hh
  simp only [Slot.backTo] at hback hheld ⊢
  simp only [State.trapReturn, beq_iff_eq, hpc, if_false, hback, hheld, List.isEmpty_nil, if_true]

/-- `mstatus` after SRET. -/
def sretStatus (st : Word) : Word := setBitW (setBitW (setBitW (setBitW st 1 (bitW st 5)) 5 true) 8 false) 17 false

/-- The mode to which MRET returns. -/
def mretMode (st : Word) : Priv := Priv.ofMpp (bitW st 12) (bitW st 11)

/-- `mstatus` after MRET. -/
def mretStatus (st : Word) : Word :=
  let st1 := setBitW (setBitW (setBitW (setBitW st 3 (bitW st 7)) 7 true) 11 false) 12 false
  if mretMode st == .m then st1 else setBitW st1 17 false

theorem getLsbD_sretStatus (st : Word) (i : Nat) :
    (sretStatus st).getLsbD i = if i = 17 ∨ i = 8 then false else if i = 5 then true else if i = 1 then st.getLsbD 5
      else st.getLsbD i := by
  rw [sretStatus, getLsbD_setBitW _ _ (by decide), getLsbD_setBitW _ _ (by decide), getLsbD_setBitW _ _ (by decide),
    getLsbD_setBitW _ _ (by decide), if_or_eq]
  rfl

theorem mretMode_eq (st : Word) : mretMode st = if st.getLsbD 12 then .m else if st.getLsbD 11 then .s else .u := rfl

theorem mretMode_eq_m (st : Word) : (mretMode st == .m) = st.getLsbD 12 := by
  rw [mretMode_eq]
  cases st.getLsbD 12 <;> cases st.getLsbD 11 <;> rfl

theorem getLsbD_mretStatus (st : Word) (i : Nat) :
    (mretStatus st).getLsbD i = if i = 12 ∨ i = 11 then false else if i = 7 then true else if i = 3 then st.getLsbD 7
      else if i = 17 then st.getLsbD 17 && st.getLsbD 12 else st.getLsbD i := by
  have h1 (j : Nat) : (setBitW (setBitW (setBitW (setBitW st 3 (bitW st 7)) 7 true) 11 false) 12 false).getLsbD j
      = if j = 12 ∨ j = 11 then false else if j = 7 then true else if j = 3 then st.getLsbD 7 else st.getLsbD j := by
    rw [getLsbD_setBitW _ _ (by decide), getLsbD_setBitW _ _ (by decide), getLsbD_setBitW _ _ (by decide),
      getLsbD_setBitW _ _ (by decide), if_or_eq]
    rfl
  simp only [mretStatus, mretMode_eq_m]
  cases st.getLsbD 12 with
  | true =>
    rw [if_pos rfl, h1]
    by_cases h17 : i = 17 <;> simp [h17]
  | false =>
    rw [if_neg Bool.false_ne_true, getLsbD_setBitW _ _ (by decide), h1]
    by_cases h17 : i = 17 <;> simp [h17]

theorem sret_returns {s : State} (hp : s.me.priv = .m ∨ (s.me.priv = .s ∧ s.me.rv.mstatus.getLsbD 22 = false)) :
    exec .sret s = .next (s.trapReturn s.me.rv.sepc (if s.me.rv.mstatus.getLsbD 8 then .s else .u) (sretStatus s.me.rv.mstatus)) := by
  have h : (s.me.priv == .u || (s.me.priv == .s && bitW s.me.rv.mstatus 22)) = false := by
    rcases hp with hp | ⟨hp, h22⟩
    · rw [hp]; rfl
    · rw [hp, bitW, h22]; rfl
  show execSret s = _
  simp only [execSret, h, Bool.false_eq_true, if_false]
  rfl

theorem mret_returns {s : State} (hp : s.me.priv = .m) :
    exec .mret s = .next (s.trapReturn s.me.rv.mepc (mretMode s.me.rv.mstatus) (mretStatus s.me.rv.mstatus)) := by
  show execMret s = _
  simp only [execMret, hp]
  rfl

theorem sret_illegal {s : State} (hp : s.me.priv = .u ∨ (s.me.priv = .s ∧ s.me.rv.mstatus.getLsbD 22 = true)) :
    exec .sret s = .next (s.trap s.cur { cause := 2, tval := 0x10200073 }) := by
  have h : (s.me.priv == .u || (s.me.priv == .s && bitW s.me.rv.mstatus 22)) = true := by
    rcases hp with hp | ⟨hp, h22⟩
    · rw [hp]; rfl
    · rw [hp, bitW, h22]; rfl
  show execSret s = _
  rw [execSret, if_pos h]

theorem mret_illegal {s : State} (hp : s.me.priv ≠ .m) :
    exec .mret s = .next (s.trap s.cur { cause := 2, tval := 0x30200073 }) := by
  show execMret s = _
  rw [execMret, if_pos (bne_iff_ne.mpr hp)]

/-! ### WFI -/

theorem wfi_goes_on {s : State} (h : s.me.priv = .m ∨ s.me.rv.mstatus.getLsbD 21 = false) :
    exec (.rv64BaseInstruction .wfi) s = .next (s.retire 4) := by
  have h' : (s.me.priv != .m && bitW s.me.rv.mstatus 21) = false := by
    rcases h with h | h <;> simp only [bitW, h, bne_self_eq_false, Bool.false_and, Bool.and_false]
  rw [exec_rv, State.rv, h']
  rfl

theorem wfi_illegal {s : State} (hp : s.me.priv ≠ .m) (h : s.me.rv.mstatus.getLsbD 21 = true) :
    exec (.rv64BaseInstruction .wfi) s = .next (s.trap s.cur { cause := 2, tval := 0x10500073 }) := by
  rw [exec_rv, State.rv, if_pos (by simp [bitW, hp, h])]
  rfl

/-- Settles O12: a trap on one thread by its delegation, a return with the stacked mode and enable, and the system words. -/
theorem trapsReturnsAndSystemWords : Obligations.TrapsReturnsAndSystemWords := by
  unfold Obligations.TrapsReturnsAndSystemWords
  refine ⟨?entry, ?sret, ?mret, fun s => sret_illegal, fun s => mret_illegal, fun s => ?ecall, fun s => rfl, fun s h => ?wfi,
    fun s => wfi_illegal⟩
  case entry =>
    intro loc cause tval s hf hp ho hm hg hw
    refine ⟨_, trapEntry_traps cause tval hf hp ho hg hw, rfl, fun l hl => slot_modSlot_ne _ _ hl, ?_⟩
    have hslot : ((s.dropAsks (tidNo (s.tidOf loc))).modSlot loc (·.takeTrap s.tick { cause := cause, tval := tval })).slot loc
        = (s.slot loc).takeTrap s.tick { cause := cause, tval := tval } := slot_modSlot_same ..
    rw [hslot]
    cases hd : (s.slot loc).delegated false cause with
    | true =>
      have hd' := (delegated_exception _ _).mp hd
      rw [takeTrap_delegated _ _ hm hd]
      refine ⟨by rw [hw], rfl, fun _ => ⟨rfl, rfl, rfl, getLsbD_sTrapStatus _ hd'.1⟩, fun h => ?_⟩
      rw [(not_delegated_exception _ _).mpr h] at hd
      cases hd
    | false =>
      rw [takeTrap_machine _ _ hm hd]
      refine ⟨by rw [hw], rfl, fun h => ?_, fun _ => ⟨rfl, rfl, rfl, getLsbD_mTrapStatus _ _⟩⟩
      rw [(delegated_exception _ _).mpr h] at hd
      cases hd
  case sret =>
    intro s hp hpc hh hr hc
    refine ⟨_, by rw [sret_returns hp, trapReturn_goes_back _ _ hpc hh hr hc], onlyThread_modMe .., ?_⟩
    rw [me_modMe]
    exact ⟨rfl, rfl, getLsbD_sretStatus _⟩
  case mret =>
    intro s hp hpc hh hr hc
    refine ⟨_, by rw [mret_returns hp, trapReturn_goes_back _ _ hpc hh hr hc], onlyThread_modMe .., ?_⟩
    rw [me_modMe]
    exact ⟨rfl, rfl, rfl, getLsbD_mretStatus _⟩
  case ecall =>
    rw [exec_rv, State.rv, done_raise]
    cases s.me.priv <;> rfl
  case wfi => exact ⟨_, wfi_goes_on h, writesNone_retire s 4⟩

end Sys2Proof.Machine
end

section
/-! PROOFS. Loads (O15): what a waited access meets, and what each load writes. -/

namespace Sys2Proof.Machine

/-! ### The check of a data pointer (R245) -/

theorem ptrCheck_managed (k : AK) {va : Word} (h : va.getLsbD 63 = true) : ptrCheck k va = some causeRaw := by
  rw [ptrCheck, bitW, h]
  rfl

theorem ptrCheck_high (k : AK) {va : Word} (h : va.getLsbD 63 = false) (hn : va.toNat / 2 ^ 56 ≠ 0) :
    ptrCheck k va = some k.accessCause := by
  rw [ptrCheck, bitW, h, if_neg Bool.false_ne_true, if_pos (by simpa using hn)]

/-! ### What a waited access meets (R248, R260) -/

section
variable {s u : State} {k : AK} {va : Word} {n : Nat}

theorem beforeAccess_bad_pointer {c : Nat} (h : ptrCheck k va = some c) :
    s.beforeAccess k va n = .error (s.trap s.cur { cause := c, tval := va }) := by
  rw [State.beforeAccess, h]

theorem beforeAccess_held (h : ptrCheck k va = none) (hh : (s.drainOver s.cur va.toNat n).me.heldOver va.toNat n = true) :
    s.beforeAccess k va n = .error ((s.drainOver s.cur va.toNat n).raiseDeferred s.cur) := by
  simp only [State.beforeAccess, h, hh, if_true]

theorem beforeAccess_fails {c : Nat} (h : ptrCheck k va = none) (hh : (s.drainOver s.cur va.toNat n).me.heldOver va.toNat n = false)
    (hr : (s.drainOver s.cur va.toNat n).reach s.cur k va n = (u, .error c)) :
    s.beforeAccess k va n = .error (u.trap s.cur { cause := c, tval := va }) := by
  simp only [State.beforeAccess, h, hh, hr, Bool.false_eq_true, if_false]

theorem beforeAccess_reaches {p : Place × Option Plb} (h : ptrCheck k va = none)
    (hh : (s.drainOver s.cur va.toNat n).me.heldOver va.toNat n = false)
    (hr : (s.drainOver s.cur va.toNat n).reach s.cur k va n = (u, .ok p)) : s.beforeAccess k va n = .ok (u, p.1, p.2) := by
  simp only [State.beforeAccess, h, hh, hr, Bool.false_eq_true, if_false]

theorem load_of_error {t : State} (h : s.beforeAccess .load va n = .error t) : s.load va n = .error t := by
  rw [State.load, h]
  rfl

theorem load_near {p : Place} {e : Option Plb} (h : s.beforeAccess .load va n = .ok (u, p, e)) (hp : p.near) :
    s.load va n = .ok (u, bytesNat (u.mem.bytes (u.key p) n)) := by
  rw [State.load, h, ok_bind]
  cases p with
  | far w => exact hp.elim
  | dram pa => rfl
  | spad c off => rfl

end

/-! ### The loads -/

theorem scalarLoad_misaligned {s : State} {ld : LoadOp}
    (h : (s.x ld.rs1 + ld.off.signExtend 64).toNat % 2 ^ ld.w.toNat ≠ 0) :
    exec (.scalarLoad ld) s = .next (s.trap s.cur { cause := 4, tval := s.x ld.rs1 + ld.off.signExtend 64 }) := by
  show execScalarLoad ld s = _
  rw [execScalarLoad, if_pos (by simpa [imm12] using h), done_raise]
  rfl

theorem scalarLoad_loads {s u : State} {ld : LoadOp} {v : Nat}
    (h : (s.x ld.rs1 + ld.off.signExtend 64).toNat % 2 ^ ld.w.toNat = 0)
    (hl : s.load (s.x ld.rs1 + ld.off.signExtend 64) (2 ^ ld.w.toNat) = .ok (u, v)) :
    exec (.scalarLoad ld) s = .next ((u.modMe (fun t => LoadOp.write ld t v)).retire 4) := by
  show execScalarLoad ld s = _
  rw [execScalarLoad, if_neg (by simpa [imm12] using h), show s.load (s.x ld.rs1 + imm12 ld.off) _ = _ from hl, ok_bind, done_ok]

theorem flag_zero (t : Slot) : t.flag 0 = t := by
  have h : t.rv.fcsr ||| BitVec.ofNat 8 (0 % 32) = t.rv.fcsr := BitVec.or_zero
  rw [Slot.flag, h]

/-- An f register written without flags. -/
theorem writesF_retire_no_flags (s : State) (d : BitVec 5) (v : Word) (n : Nat) :
    WritesF s ((s.modMe (·.wf d v)).retire n) d v 0 n := by
  have h := writesF_retire s d v 0 n
  simp only [flag_zero] at h
  exact h

theorem two_pow_eq_four (w : BitVec 2) : ((2 ^ w.toNat == 4) = true) = (w.toNat = 2) := by
  revert w
  decide

theorem write_fp {ld : LoadOp} (t : Slot) (v : Nat) (h : ld.fp = true) :
    LoadOp.write ld t v = t.wf ld.rd (if ld.w.toNat = 2 then boxed .s v else BitVec.ofNat 64 v) := by
  simp only [LoadOp.write, h, if_true, two_pow_eq_four]

theorem write_int {ld : LoadOp} (t : Slot) (v : Nat) (h : ld.fp = false) :
    LoadOp.write ld t v = t.wx ld.rd (if ld.uns then BitVec.ofNat 64 v else sextW (8 * 2 ^ ld.w.toNat) v) := by
  simp only [LoadOp.write, h, Bool.false_eq_true, if_false]

/-- A loaded value of 8 or 4 bytes. -/
theorem loadedWord_eq (w : Bool) (v : Nat) :
    loadedWord (if w then 8 else 4) v = if w then BitVec.ofNat 64 v else (BitVec.ofNat 32 v).signExtend 64 := by
  cases w
  · exact sextW_eq 32 v
  · rfl

theorem ldAcq_loads {s s1 s2 u : State} {sc : Scope} {w : Bool} {rd rs1 : BitVec 5} {v : Nat}
    (ha : (s.x rs1).toNat % (if w then 8 else 4) = 0) (hp : s.protect .load (s.x rs1) (if w then 8 else 4) = .ok s1)
    (hh : s1.me.heldOver (s.x rs1).toNat (if w then 8 else 4) = false)
    (hr : (if sc = .thr then .ok s1 else s1.awaitReleases) = .ok s2) (hl : s2.load (s.x rs1) (if w then 8 else 4) = .ok (u, v)) :
    exec (.ldAcq sc w rd rs1) s
      = .next ((u.setX rd (if w then BitVec.ofNat 64 v else (BitVec.ofNat 32 v).signExtend 64)).retire 4) := by
  rw [← loadedWord_eq]
  show execLdAcq sc w rd rs1 s = _
  simp only [execLdAcq, widthOf, ha, bne_self_eq_false, Bool.false_eq_true, if_false, hp, ok_bind, hh, beq_iff_eq]
  split at hr
  next hs =>
    obtain rfl : s1 = s2 := Except.ok.inj hr
    simp only [hs, if_true, hl, ok_bind, done_ok]
  next hs => simp only [hs, if_false, hr, hl, ok_bind, done_ok]

/-- A constant bank as `cbld` leaves it: the words read, lowest first. -/
def bankOf (ws : List Nat) : Vector Half 64 := Vector.ofFn (fun i => BitVec.ofNat 32 (ws.getD i.val 0))

/-- The thread with a constant bank written. -/
def Slot.setBank (t : Slot) (bank : BitVec 2) (ws : List Nat) : Slot :=
  { t with cb := t.cb.set bank.toNat (bankOf ws) (by have := bank.isLt; omega), dirty := t.dirty ||| dirtyCb }

theorem cbld_misaligned {s : State} {bank : BitVec 2} {rs1 : BitVec 5} (h : (s.x rs1).toNat % 64 ≠ 0) :
    exec (.cbld bank rs1) s = .next (s.trap s.cur { cause := 4, tval := s.x rs1 }) := by
  show execCbld bank rs1 s = _
  rw [execCbld, if_pos (bne_iff_ne.mpr h), done_raise]
  rfl

theorem cbld_loads {s u : State} {bank : BitVec 2} {rs1 : BitVec 5} {ws : List Nat} (h : (s.x rs1).toNat % 64 = 0)
    (hl : s.loads (s.x rs1) 4 64 = .ok (u, ws)) :
    exec (.cbld bank rs1) s = .next ((u.modMe (·.setBank bank ws)).retire 4) := by
  show execCbld bank rs1 s = _
  rw [execCbld, if_neg (by simp [h]), hl]
  rfl

theorem getElem_cb_setBank (t : Slot) (bank : BitVec 2) (ws : List Nat) (b : Fin 4) (i : Fin 64) :
    (t.setBank bank ws).cb[b][i] = if b.val = bank.toNat then BitVec.ofNat 32 (ws.getD i.val 0) else t.cb[b][i] := by
  simp only [Slot.setBank, Fin.getElem_fin, Vector.getElem_set, eq_comm (a := bank.toNat)]
  split
  · exact Vector.getElem_ofFn ..
  · rfl

/-- Settles O15: a load is what its access meets, then the bytes at the place reached; each word writes them as it says. -/
theorem scalarLoads : Obligations.ScalarLoads := by
  unfold Obligations.ScalarLoads
  refine ⟨?bytes, ?managed, ?high, ?fault, ?held, ?int, ?fp, fun ld s => scalarLoad_misaligned, ?acq, ?bank,
    fun bank rs1 s => cbld_misaligned⟩
  case bytes =>
    intro s u va n p e d hp hh hr hn
    refine ⟨load_near (beforeAccess_reaches hp hh hr) hn, ?_, (touches_drainOver ..).cur⟩
    have h := translated_reach d s.cur .load va n true
    rwa [hr] at h
  case managed => exact fun s va n h => load_of_error (beforeAccess_bad_pointer (ptrCheck_managed .load h))
  case high => exact fun s va n h hn => load_of_error (beforeAccess_bad_pointer (ptrCheck_high .load h hn))
  case fault => exact fun s u va n c hp hh hr => load_of_error (beforeAccess_fails hp hh hr)
  case held => exact fun s va n hp hh => load_of_error (beforeAccess_held hp hh)
  case int =>
    intro ld s u v a ha hl hf
    refine ⟨_, scalarLoad_loads ha hl, ?_⟩
    simp only [write_int _ _ hf]
    exact writesX_retire ..
  case fp =>
    intro ld s u v a ha hl hf
    refine ⟨_, scalarLoad_loads ha hl, ?_⟩
    simp only [write_fp _ _ hf]
    exact writesF_retire_no_flags ..
  case acq => exact fun sc w rd rs1 s s1 s2 u v ha hp hh hr hl => ⟨_, ldAcq_loads ha hp hh hr hl, writesX_retire ..⟩
  case bank =>
    intro bank rs1 s u ws ha hl
    refine ⟨_, cbld_loads ha hl, threadStep_retire u (u.me.setBank bank ws) _ 4 rfl rfl rfl ?_, fun b i => ?_⟩
    · rw [me_retire, me_modMe]
      rfl
    · rw [me_retire, me_modMe]
      exact getElem_cb_setBank ..

end Sys2Proof.Machine
end

section
/-! PROOFS. LR, SC and the A-extension AMOs (O18): what comes before the access, and what each word leaves. -/

namespace Sys2Proof.Machine

/-! ### What comes before an A-extension access (R130, R337) -/

section
variable {s s0 s1 : State} {k : AK} {a : Word} {n : Nat} {aq rl : Bool}

theorem far_any_eq_false (h : ∀ f ∈ s.me.far, f.1 ≠ a) : s.me.far.any (fun f => f.1 == a) = false := by
  simpa using h

theorem rvGate_passes (hf : ∀ f ∈ s.me.far, f.1 ≠ a) (ha : a.toNat % n = 0) (hh : s.notHeld a n = .ok s0)
    (hp : s0.protect k a n = .ok s1) : s.rvGate k a n aq rl = s1.rlGate aq rl := by
  simp only [State.rvGate, far_any_eq_false hf, ha, bne_self_eq_false, Bool.false_eq_true, if_false, hh, hp, ok_bind]

theorem rvGate_awaiting (hf : ∃ f ∈ s.me.far, f.1 = a) : s.rvGate k a n aq rl = .ok s := by
  have h : s.me.far.any (fun f => f.1 == a) = true := by simpa using hf
  simp only [State.rvGate, h, if_true]

theorem rvGate_misaligned (hf : ∀ f ∈ s.me.far, f.1 ≠ a) (ha : a.toNat % n ≠ 0) :
    s.rvGate k a n aq rl = s.raise k.misalignedCause a := by
  rw [State.rvGate, far_any_eq_false hf, if_neg Bool.false_ne_true, if_pos (bne_iff_ne.mpr ha)]

end

/-! ### LR, SC and the AMOs (R130) -/

section
variable {s s2 u : State} {dbl aq rl : Bool} {rd rs1 rs2 : BitVec 5}

/-- The thread with a reservation taken or given up, moved past an instruction that writes rd. -/
theorem threadStep_resv (s : State) (r : Option Nat) (rd : BitVec 5) (v : Word) :
    let t := ((s.modMe (fun x => { x with resv := r })).setX rd v).retire 4
    ThreadStep s t 4 { s.me with x := t.me.x, resv := r } ∧ ∀ q, t.x q = if q = 0 then 0 else if q = rd then v else s.x q := by
  have he : (s.modMe (fun x => { x with resv := r })).setX rd v = s.modMe (fun x => ({ x with resv := r } : Slot).wx rd v) :=
    modMe_modMe s _ _
  simp only [he]
  refine ⟨?_, fun q => ?_⟩
  · refine threadStep_retire s (({ s.me with resv := r } : Slot).wx rd v) _ 4 ?_ ?_ ?_ ?_
    · exact wx_pc ..
    · exact wx_instret ..
    · exact wx_st ..
    · rw [me_retire, me_modMe, wx_eta]
      rfl
  · show Slot.xr (State.me _) q = _
    rw [me_retire, xr_retire, me_modMe, xr_wx]
    rfl

/-- What LR reads at the place that it reaches: of another package, what that answers. -/
def State.lrRead (s : State) (dbl : Bool) (a : Word) (n : Nat) (p : Place) : Except State (State × Nat) :=
  match p with
  | .far w => (s.ask .load a 0 (fun id => .farAmo id w (.lr dbl))).map (fun r => (r.1, r.2.toNat % 2 ^ (8 * n)))
  | _ => .ok (s, s.get p n)

theorem lr_reads {s3 : State} {p : Place} {e : Option Plb} {v : Nat}
    (hg : s.rvGate .load (s.x rs1) (rvWidth dbl) aq rl = .ok s2)
    (hb : s2.beforeAccess .load (s.x rs1) (rvWidth dbl) = .ok (s3, p, e))
    (hv : s3.lrRead dbl (s.x rs1) (rvWidth dbl) p = .ok (u, v)) :
    exec (.lr dbl aq rl rd rs1) s = .next (((u.modMe (fun t => { t with resv := some (u.resvBlock (s.x rs1) (rvWidth dbl)) })).setX rd
      (loadedWord (rvWidth dbl) v)).retire 4) := by
  show execLr dbl aq rl rd rs1 s = _
  simp only [execLr, hg, hb, ok_bind]
  cases p with
  | far w =>
    rw [State.lrRead] at hv
    simp only [hv, ok_bind, done_ok]
  | dram pa =>
    obtain ⟨rfl, rfl⟩ := Prod.mk.inj (Except.ok.inj hv)
    rfl
  | spad c off =>
    obtain ⟨rfl, rfl⟩ := Prod.mk.inj (Except.ok.inj hv)
    rfl

/-- SC after its checks: it gives up the reservation and writes 1 where the thread does not hold that of the block. -/
theorem sc_fails {p : Place} {e : Option Plb} (hg : s.rvGate .store (s.x rs1) (rvWidth dbl) aq rl = .ok s2)
    (hb : s2.beforeAccess .store (s.x rs1) (rvWidth dbl) = .ok (u, p, e))
    (hr : u.me.resv ≠ some ((homePlace (s.x rs1) p e).block 0)) :
    exec (.sc dbl aq rl rd rs1 rs2) s = .next (((u.modMe (fun t => { t with resv := none })).setX rd 1).retire 4) := by
  have hr' : (u.me.resv == some ((homePlace (s.x rs1) p e).block 0)) = false := beq_false_of_ne hr
  show execSc dbl aq rl rd rs1 rs2 s = _
  simp only [execSc, hg, hb, ok_bind, hr', Bool.not_false, if_true, done_ok]

theorem sc_stores {p : Place} {e : Option Plb} (hg : s.rvGate .store (s.x rs1) (rvWidth dbl) aq rl = .ok s2)
    (hb : s2.beforeAccess .store (s.x rs1) (rvWidth dbl) = .ok (u, p, e))
    (hr : u.me.resv = some ((homePlace (s.x rs1) p e).block 0)) (hp : p.near) :
    exec (.sc dbl aq rl rd rs1 rs2) s
      = .next ((((u.modMe (fun t => { t with resv := none })).writeAt s.cur (s.x rs1) (p, e) (rvWidth dbl)
          ((s.x rs2).toNat % 2 ^ (8 * rvWidth dbl))).setX rd 0).retire 4) := by
  show execSc dbl aq rl rd rs1 rs2 s = _
  simp only [execSc, hg, hb, ok_bind, hr, beq_self_eq_true, Bool.not_true, Bool.false_eq_true, if_false]
  cases p with
  | far w => exact hp.elim
  | dram pa => rfl
  | spad c off => rfl

theorem sc_asks {w : Word} {e : Option Plb} {z : State} {d : BitVec 128}
    (hg : s.rvGate .store (s.x rs1) (rvWidth dbl) aq rl = .ok s2)
    (hb : s2.beforeAccess .store (s.x rs1) (rvWidth dbl) = .ok (u, .far w, e))
    (hr : u.me.resv = some ((homePlace (s.x rs1) (.far w) e).block 0))
    (hz : u.ask .store (s.x rs1) 0 (fun id => .farAmo id w (.sc dbl (BitVec.ofNat 64 ((s.x rs2).toNat % 2 ^ (8 * rvWidth dbl)))))
      = .ok (z, d)) :
    exec (.sc dbl aq rl rd rs1 rs2) s
      = .next (((z.modMe (fun t => { t with resv := none })).setX rd (if d = 0 then 0 else 1)).retire 4) := by
  show execSc dbl aq rl rd rs1 rs2 s = _
  simp only [execSc, hg, hb, ok_bind, hr, beq_self_eq_true, Bool.not_true, Bool.false_eq_true, if_false, hz, beq_iff_eq, done_ok]

/-- The new value that an A-extension AMO gives, as an operation named in a request gives it. -/
theorem new_int (op : AmoOp) (dbl : Bool) (src : Word) :
    (FarOp.int op dbl src 0).new = amoNew op (8 * rvWidth dbl) (src.toNat % 2 ^ (8 * rvWidth dbl)) 0 := by
  funext old
  cases dbl <;> rfl

theorem rvAmo_amo {op : RvAmoOp} {old : Nat} (hg : s.rvGate .amo (s.x rs1) (rvWidth dbl) aq rl = .ok s2)
    (ha : s2.atomic (s.x rs1) (rvWidth dbl) (.int (rvAmoOf op) dbl (s.x rs2) 0)
      (amoNew (rvAmoOf op) (8 * rvWidth dbl) ((s.x rs2).toNat % 2 ^ (8 * rvWidth dbl)) 0) = .ok (u, old)) :
    exec (.rvAmo op dbl aq rl rd rs1 rs2) s = .next ((u.setX rd (loadedWord (rvWidth dbl) old)).retire 4) := by
  show execRvAmo op dbl aq rl rd rs1 rs2 s = _
  simp only [execRvAmo, hg, ok_bind, new_int, ha, done_ok]

theorem lr_misaligned (hf : ∀ f ∈ s.me.far, f.1 ≠ s.x rs1) (ha : (s.x rs1).toNat % rvWidth dbl ≠ 0) :
    exec (.lr dbl aq rl rd rs1) s = .next (s.trap s.cur { cause := 4, tval := s.x rs1 }) := by
  show execLr dbl aq rl rd rs1 s = _
  rw [execLr, rvGate_misaligned hf ha, raise_bind, done_raise]
  rfl

theorem sc_misaligned (hf : ∀ f ∈ s.me.far, f.1 ≠ s.x rs1) (ha : (s.x rs1).toNat % rvWidth dbl ≠ 0) :
    exec (.sc dbl aq rl rd rs1 rs2) s = .next (s.trap s.cur { cause := 6, tval := s.x rs1 }) := by
  show execSc dbl aq rl rd rs1 rs2 s = _
  rw [execSc, rvGate_misaligned hf ha, raise_bind, done_raise]
  rfl

theorem loadedWord_rvWidth (dbl : Bool) (v : Nat) :
    loadedWord (rvWidth dbl) v = if dbl then BitVec.ofNat 64 v else (BitVec.ofNat 32 v).signExtend 64 := loadedWord_eq dbl v

end

/-- Settles O18: each word after its checks reads, stores or gives up its reservation as the lemmas above say. -/
theorem loadReservedStoreConditional : Obligations.LoadReservedStoreConditional := by
  unfold Obligations.LoadReservedStoreConditional
  refine ⟨fun s s0 s1 k a n aq rl => rvGate_passes, fun s k a n aq rl => rvGate_awaiting, ?lr, ?sc, ?amo,
    fun dbl aq rl rd rs1 s => lr_misaligned, fun dbl aq rl rd rs1 rs2 s => sc_misaligned⟩
  case lr =>
    intro dbl aq rl rd rs1 s s2 s3 p e u v n a far hg hb hv
    have hv' : s3.lrRead dbl (s.x rs1) (rvWidth dbl) p = .ok (u, v) := by
      rw [← hv]
      cases p <;> rfl
    have h := threadStep_resv u (some (u.resvBlock (s.x rs1) (rvWidth dbl))) rd (loadedWord (rvWidth dbl) v)
    refine ⟨_, lr_reads hg hb hv', h.1, fun q => ?_⟩
    rw [← loadedWord_rvWidth]
    exact h.2 q
  case sc =>
    intro dbl aq rl rd rs1 rs2 s s2 u p e n a hg hb
    refine ⟨fun hr => ⟨_, sc_fails hg hb hr, threadStep_resv u none rd 1⟩, fun hr hm hp he => ?stores, ?asks⟩
    case stores =>
      exact ⟨_, _, sc_stores hg hb hr hp, writes_writeAt _ s.cur 0 a p e n _ hm hp he, writesX_retire ..⟩
    case asks =>
      rintro w z d rfl hr hz
      exact ⟨_, sc_asks hg hb hr hz, threadStep_resv z none rd _⟩
  case amo =>
    intro op dbl aq rl rd rs1 rs2 s s2 u old n a o hg ha
    refine ⟨_, rvAmo_amo hg ha, ?_⟩
    rw [loadedWord_rvWidth]
    exact writesX_retire ..

end Sys2Proof.Machine
end

section
/-! PROOFS. The command words of the copy engine and of the matrix unit (O28). -/

namespace Sys2Proof.Machine

/-! ### The start of a command word (R143, R260) -/

theorem beginCommand_bad {s d : State} (rd : BitVec 5) (h : s.syncGate = .ok d) :
    s.beginCommand rd true = .error (d.finish rd .range 8) := by
  rw [State.beginCommand, h]
  rfl

theorem syncGate_of_none_posted {s : State} (hp : s.me.posted = []) (hh : s.me.held = []) : s.syncGate = .ok (s.setMe s.me) := by
  have hheld : ((s.setMe s.me).slot s.cur).held = [] := by
    rw [show (s.setMe s.me).slot s.cur = s.me from me_setMe ..]
    exact hh
  simp only [State.syncGate, drain_of_none_posted hp, hheld, List.isEmpty_nil, if_true]

/-- A thread with no store out waits for no other package. -/
theorem awaitFar_of_none_posted {s : State} (hp : s.me.posted = []) (hh : s.me.held = []) : s.awaitFar = .ok s := by
  have hslot : (s.slot s.cur).posted = [] := hp
  have hs : s.settleFar s.cur = s := settleFar_of_near (by rw [hslot]; exact fun p h => absurd h List.not_mem_nil)
  have hf : s.farPending s.cur = false := by rw [State.farPending, hslot]; rfl
  have hheld : (s.slot s.cur).held = [] := hh
  simp only [State.awaitFar, hs, hheld, hf, List.isEmpty_nil, Bool.not_true, Bool.false_eq_true, if_false]

theorem reserve_takes {s : State} (e : Expiry) (hw : s.me.wait = none) (hi : s.me.inbox.length + s.me.ibReserved < 16) :
    s.reserve e = .ok (s.modMe (fun t => { t with ibReserved := t.ibReserved + 1 })) := by
  have hf : s.me.inboxFull = false := decide_eq_false (Nat.not_le.mpr hi)
  simp only [State.reserve, holdsEntry_of_no_wait hw, hf, Bool.false_eq_true, if_false]

/-- A thread with nothing outstanding and room in its inbox begins a command word. -/
theorem beginCommand_reserves {s : State} (rd : BitVec 5) (hp : s.me.posted = []) (hh : s.me.held = []) (hr : s.me.refHeld = [])
    (hw : s.me.wait = none) (hi : s.me.inbox.length + s.me.ibReserved < 16) :
    s.beginCommand rd false = .ok (s.setMe { s.me with ibReserved := s.me.ibReserved + 1 }) := by
  have hg := syncGate_of_none_posted hp hh
  have hme : (s.setMe s.me).me = s.me := me_setMe ..
  rw [State.beginCommand, hg, ok_bind, if_neg Bool.false_ne_true, awaitRefs_of_syncGate hg (by rw [hme]; exact hr), ok_bind,
    awaitFar_of_none_posted (by rw [hme]; exact hp) (by rw [hme]; exact hh), ok_bind,
    reserve_takes _ (by rw [hme]; exact hw) (by rw [hme]; exact hi), modMe_setMe]

/-! ### `cpy` and `cpy.plane` (R263, R264) -/

section
variable {s s1 u : State} {r : F5} {plane : Bool} {b : Nat}

/-- Whether a copy block passes the check of its form. -/
def copyOk (plane : Bool) (b : Nat) : Bool := if plane then (CopyBlk.of b).planeOk else (CopyBlk.of b).cpyOk

/-- The copy command that a thread queues. -/
def State.copyCmd (s : State) (r : F5) (plane : Bool) (b : Nat) : CopyCmd :=
  ⟨BitVec.ofNat 1024 b, plane, (s.x r.s2).truncate 32, s.cur, s.tid.1, s.me.ctx, s.me.sc.pdrights⟩

theorem cpyWord_queues (ha : (s.x r.s1).toNat % 64 = 0) (hb : s.beginCommand r.d false = .ok s1)
    (hr : s1.readBlock (s.x r.s1) 16 = .ok (u, b)) (hk : copyOk plane b = true) (hq : (u.core (coreOf s.cur)).copyQ.length < 2) :
    s.cpyWord r plane
      = .ok ((u.modCore (coreOf s.cur) (fun k => { k with copyQ := k.copyQ ++ [s.copyCmd r plane b] })).finish r.d .ok 8) := by
  rw [copyOk] at hk
  simp only [State.cpyWord, ha, bne_self_eq_false, hb, ok_bind, hr, hk, Bool.not_true, Bool.false_eq_true, if_false,
    if_neg (Nat.not_le.mpr hq)]
  rfl

theorem cpyWord_refuses (ha : (s.x r.s1).toNat % 64 = 0) (hb : s.beginCommand r.d false = .ok s1)
    (hr : s1.readBlock (s.x r.s1) 16 = .ok (u, b)) (hk : copyOk plane b = false) :
    s.cpyWord r plane = .error (u.unreserve.finish r.d .range 8) := by
  rw [copyOk] at hk
  simp only [State.cpyWord, ha, bne_self_eq_false, hb, ok_bind, hr, hk, Bool.not_false, if_true]
  rfl

theorem cpyWord_misaligned {d : State} (plane : Bool) (ha : (s.x r.s1).toNat % 64 ≠ 0) (hd : s.syncGate = .ok d) :
    s.cpyWord r plane = .error (d.finish r.d .range 8) := by
  rw [State.cpyWord, bne_iff_ne.mpr ha, beginCommand_bad r.d hd]
  rfl

theorem exec_cpyWord {i : Instr} (hi : i = .cpy r ∧ plane = false ∨ i = .cpyPlane r ∧ plane = true) :
    exec i s = Go.done (s.cpyWord r plane) := by
  rcases hi with ⟨rfl, rfl⟩ | ⟨rfl, rfl⟩ <;> rfl

end

/-! ### The words of the matrix unit (R330) -/

section
variable {s s1 u : State} {r : F5} {form : MxForm} {b : Nat}

/-- Whether the block of a matrix command passes the check of its form, under the matrix CSRs of the issuing thread. -/
def State.mxOk (s : State) (form : MxForm) (b : Nat) : Bool :=
  mxBlockOk form b s.pkg.toNat (.core (coreOf s.cur)) s.me.u.mxfmt s.me.u.mxscale s.me.u.mxzero

/-- The matrix command that a thread queues. -/
def State.mxCmd (s : State) (r : F5) (form : MxForm) (b : Nat) : MxCmd :=
  { form := form, blk := BitVec.ofNat 512 b, fmt := s.me.u.mxfmt, scale := s.me.u.mxscale, zero := s.me.u.mxzero,
    who := .thread s.cur s.tid.1 s.me.ctx ((s.x r.s2).truncate 32), limit := s.waitlim, rights := s.me.sc.pdrights }

theorem mxWord_queues (ha : (s.x r.s1).toNat % 64 = 0) (hb : s.beginCommand r.d false = .ok s1)
    (hr : s1.readBlock (s.x r.s1) 8 = .ok (u, b)) (hk : s.mxOk form b = true) (hq : u.mxCount (coreOf s.cur) < 2) :
    s.mxWord r form
      = .ok ((u.modCore (coreOf s.cur) (fun k => { k with mxQ := k.mxQ ++ [s.mxCmd r form b] })).finish r.d .ok 8) := by
  rw [State.mxOk] at hk
  simp only [State.mxWord, ha, bne_self_eq_false, hb, ok_bind, hr, hk, Bool.not_true, Bool.false_eq_true, if_false,
    if_neg (Nat.not_le.mpr hq)]
  rfl

theorem mxWord_refuses (ha : (s.x r.s1).toNat % 64 = 0) (hb : s.beginCommand r.d false = .ok s1)
    (hr : s1.readBlock (s.x r.s1) 8 = .ok (u, b)) (hk : s.mxOk form b = false) :
    s.mxWord r form = .error (u.unreserve.finish r.d .range 8) := by
  rw [State.mxOk] at hk
  simp only [State.mxWord, ha, bne_self_eq_false, hb, ok_bind, hr, hk, Bool.not_false, if_true]
  rfl

theorem mxWord_misaligned {d : State} (form : MxForm) (ha : (s.x r.s1).toNat % 64 ≠ 0) (hd : s.syncGate = .ok d) :
    s.mxWord r form = .error (d.finish r.d .range 8) := by
  rw [State.mxWord, bne_iff_ne.mpr ha, beginCommand_bad r.d hd]
  rfl

theorem exec_mxWord {i : Instr} (hi : i = .mxTile r ∧ form = .tile ∨ i = .mxTileAcc r ∧ form = .tileAcc ∨ i = .mxSort r ∧ form = .sort
    ∨ i = .mxTopk r ∧ form = .topk) : exec i s = Go.done (s.mxWord r form) := by
  rcases hi with ⟨rfl, rfl⟩ | ⟨rfl, rfl⟩ | ⟨rfl, rfl⟩ | ⟨rfl, rfl⟩ <;> rfl

end

/-- Each of the six words with a misaligned block address, its stores served. -/
theorem commandWord_misaligned {s d : State} {r : F5} (ha : (s.x r.s1).toNat % 64 ≠ 0) (hd : s.syncGate = .ok d) :
    ∀ i ∈ [Instr.cpy r, .cpyPlane r, .mxTile r, .mxTileAcc r, .mxSort r, .mxTopk r],
      exec i s = .next (d.finish r.d .range 8) := by
  have hc (plane : Bool) : Go.done (s.cpyWord r plane) = .next (d.finish r.d .range 8) := by
    rw [cpyWord_misaligned plane ha hd]
    rfl
  have hm (form : MxForm) : Go.done (s.mxWord r form) = .next (d.finish r.d .range 8) := by
    rw [mxWord_misaligned form ha hd]
    rfl
  simp only [List.forall_mem_cons, List.not_mem_nil, false_imp_iff, implies_true, and_true]
  exact ⟨hc false, hc true, hm .tile, hm .tileAcc, hm .sort, hm .topk⟩

/-- Settles O28: a word queues its command, refuses its block, or refuses its address; and a thread with nothing outstanding gets
its entry. -/
theorem engineWordsQueueTheirCommand : Obligations.EngineWordsQueueTheirCommand := by
  unfold Obligations.EngineWordsQueueTheirCommand
  refine ⟨?copy, ?matrix, fun s d r ha hd i hi => ⟨_, commandWord_misaligned ha hd i hi, writesX_finish ..⟩, ?entry⟩
  case copy =>
    intro s s1 u r b ha hb hr i plane hi
    refine ⟨fun hk hq => ⟨_, ?_, writesX_finish ..⟩, fun hk => ⟨_, ?_, writesX_finish ..⟩⟩
    · rw [exec_cpyWord hi, cpyWord_queues ha hb hr hk hq, done_ok]
      rfl
    · rw [exec_cpyWord hi, cpyWord_refuses ha hb hr hk]
      rfl
  case matrix =>
    intro s s1 u r b ha hb hr m i form hi
    refine ⟨fun hk hq => ⟨_, ?_, writesX_finish ..⟩, fun hk => ⟨_, ?_, writesX_finish ..⟩⟩
    · rw [exec_mxWord hi, mxWord_queues ha hb hr hk hq, done_ok]
      rfl
    · rw [exec_mxWord hi, mxWord_refuses ha hb hr hk]
      rfl
  case entry =>
    intro s rd hp hh hr hw hi
    exact ⟨_, beginCommand_reserves rd hp hh hr hw hi, onlyThread_setMe .., me_setMe ..⟩

end Sys2Proof.Machine
end

section
/-! PROOFS. Integer lanes, selection, compares and masks (O19, O21, O22): a lane instruction whose elements are known modulo the
width, and the bits of a mask register. -/

namespace Sys2Proof.Machine

/-! ### Integer lanes (R38, R160, R161) -/

/-- A lane instruction gives what its function gives, in the low bits of the width. -/
theorem vecResult_lanesOf_of_mod {s : State} {a : VA} {f : Nat → Nat → Nat → Nat} {g : Nat → Nat} (hty : a.ty ≠ .i64)
    (h : ∀ j, f (elemOf a.ty.width (s.me.src a.ty false a.s1) j) (elemOf a.ty.width (s.me.src2 a.ty false a.s2) j)
      (elemOf a.ty.width (s.me.src3 a.ty a.s3) j) % 2 ^ a.ty.width = g j % 2 ^ a.ty.width) :
    VecResult s (s.lanesOf a f) a.ty a.d (s.me.mask a.mask) g :=
  vecResult_writeDst s a.ty a.d _ _ g 0 hty (fun j hj => (elemOf_buildReg a.ty.width _ j hj).trans (h j))

/-- An integer lane instruction gives each active element its exact result, narrowed (R38). -/
theorem vecResult_intLanes (s : State) (a : VA) (sat : Bool) (f : Int → Int → Int → Int) (hty : a.ty ≠ .i64) :
    VecResult s (s.intLanes a sat f) a.ty a.d (s.me.mask a.mask) (fun j => narrow a.ty.signed sat a.ty.width
      (f (ival a.ty.signed a.ty.width (elemOf a.ty.width (s.me.src a.ty false a.s1) j))
        (ival a.ty.signed a.ty.width (elemOf a.ty.width (s.me.src2 a.ty false a.s2) j))
        (ival a.ty.signed a.ty.width (elemOf a.ty.width (s.me.src3 a.ty a.s3) j)))) := by
  unfold State.intLanes
  exact vecResult_lanesOf s a _ hty

theorem elemOf_lt (w v j : Nat) : elemOf w v j < 2 ^ w := Nat.mod_lt _ (Nat.two_pow_pos w)

theorem elemOf_mod (w v j : Nat) : elemOf w v j % 2 ^ w = elemOf w v j := Nat.mod_mod _ _

/-- Exclusive or with all ones is the complement within the width. -/
theorem xor_ones {w x : Nat} (h : x < 2 ^ w) : x ^^^ (2 ^ w - 1) = 2 ^ w - 1 - x := by
  apply Nat.eq_of_testBit_eq
  intro i
  rw [Nat.sub_sub, Nat.add_comm 1 x, Nat.testBit_two_pow_sub_succ h, Nat.testBit_xor, Nat.testBit_two_pow_sub_one]
  by_cases hi : i < w
  · simp [hi]
  · have hx : x < 2 ^ i := Nat.lt_of_lt_of_le h (Nat.pow_le_pow_right (by decide) (by omega))
    simp [hi, Nat.testBit_lt_two_pow hx]

theorem ite_neg_eq_natAbs (x : Int) : (if x < 0 then -x else x) = x.natAbs := by
  split <;> omega

theorem execVabs_eq (a : VA) (s : State) : execVabs a s = .next (s.intLanes a a.sat (fun x _ _ => x.natAbs)) := by
  simp only [execVabs, ite_neg_eq_natAbs]

/-- Settles O19: each of the fifteen means its function of the exact or of the bare elements, lane by lane. -/
theorem vectorIntegerLanes : Obligations.VectorIntegerLanes := by
  unfold Obligations.VectorIntegerLanes
  intro a s hty w g p q x y z runs
  refine ⟨?add, ?sub, ?mul, ?mulh, ?madd, ?min, ?max, ?abs, ?and, ?or, ?xor, ?andn, ?sll, ?srl, ?sra⟩
  case add => exact ⟨_, rfl, vecResult_intLanes s a a.sat (fun x y _ => x + y) hty⟩
  case sub => exact ⟨_, rfl, vecResult_intLanes s a a.sat (fun x y _ => x - y) hty⟩
  case mul => exact ⟨_, rfl, vecResult_intLanes s a a.sat (fun x y _ => x * y) hty⟩
  case mulh => exact ⟨_, rfl, vecResult_intLanes s a false (fun x y _ => x * y / 2 ^ a.ty.width) hty⟩
  case madd => exact ⟨_, rfl, vecResult_intLanes s a a.sat (fun x y z => x * y + z) hty⟩
  case min => exact ⟨_, rfl, vecResult_intLanes s a false (fun x y _ => min x y) hty⟩
  case max => exact ⟨_, rfl, vecResult_intLanes s a false (fun x y _ => max x y) hty⟩
  case abs => exact ⟨_, execVabs_eq a s, vecResult_intLanes s a a.sat (fun x _ _ => x.natAbs) hty⟩
  case and => exact ⟨_, rfl, vecResult_lanesOf s a (fun x y _ => x &&& y) hty⟩
  case or => exact ⟨_, rfl, vecResult_lanesOf s a (fun x y _ => x ||| y) hty⟩
  case xor => exact ⟨_, rfl, vecResult_lanesOf s a (fun x y _ => x ^^^ y) hty⟩
  case andn => exact ⟨_, rfl, vecResult_lanesOf_of_mod hty (fun j =>
      congrArg (fun v => (p j &&& v) % 2 ^ w) (xor_ones (elemOf_lt w _ j)))⟩
  case sll => exact ⟨_, rfl, vecResult_lanesOf_of_mod hty (fun _ => Nat.mod_mod _ _)⟩
  case srl => exact ⟨_, rfl, vecResult_lanesOf s a (fun x y _ => x / 2 ^ (y % a.ty.width)) hty⟩
  case sra => exact ⟨_, rfl, vecResult_lanesOf s a (fun x y _ => wrap a.ty.width (sval a.ty.width x / 2 ^ (y % a.ty.width))) hty⟩

/-! ### Selection (R165) -/

/-- A blend of two registers: each element of the first where its lane is in the mask, of the second elsewhere. -/
theorem elemOf_blend_of_ty {ty : ElTy} (k a b j : Nat) (hty : ty ≠ .i64) (hj : j < perReg ty.width) :
    elemOf ty.width (blend k a b) j = if elemOn k ty.width j then elemOf ty.width a j else elemOf ty.width b j := by
  obtain ⟨m, hm, hw⟩ := width_lane ty hty
  exact elemOf_blend ty.width m k a b j hm hw hj

theorem bitOf_eq_testBit (v i : Nat) : bitOf v i = v.testBit i := by
  rw [bitOf, Nat.testBit_eq_decide_div_mod_eq]
  rfl

/-- The lane of an element of a register. -/
theorem elem_lane_lt {w j : Nat} (h : j < perReg w) : w * j / 32 < 32 := by
  have h1 : w * (j + 1) ≤ 1024 := Nat.le_trans (Nat.mul_le_mul_left w h) (Nat.mul_div_le 1024 w)
  rw [Nat.div_lt_iff_lt_mul (by decide)]
  rcases Nat.eq_zero_or_pos w with rfl | hw
  · simp
  · rw [Nat.mul_succ] at h1
    omega

/-- `k0` has every lane. -/
theorem elemOn_k0 (t : Slot) {w j : Nat} (h : j < perReg w) : elemOn (t.mask 0) w j = true := by
  show bitOf (2 ^ 32 - 1) _ = true
  rw [bitOf_eq_testBit, Nat.testBit_two_pow_sub_one]
  exact decide_eq_true (elem_lane_lt h)

/-- The types of class I or F are those of codes 0 to 5 and 7 to 9 (R66). -/
theorem code_of_intFlt {ty : ElTy} (h : TyK.intFlt.ok ty = true) : ty.code ≤ 5 ∨ 7 ≤ ty.code ∧ ty.code ≤ 9 := by
  simpa [TyK.ok, ElTy.isInt, ElTy.isFlt] using h

/-- A well-formed `vsel` has two register sources, and so stands in format F0. -/
theorem vsel_ok {a : VA} (h : a.ok .sel = true) : TyK.intFlt.ok a.ty = true ∧ ∃ o, a.s2 = .op o := by
  simp only [VA.ok, Bool.and_eq_true] at h
  obtain ⟨⟨⟨hty, -⟩, hs⟩, -⟩ := h
  refine ⟨hty, ?_⟩
  cases hs2 : a.s2 with
  | op o => exact ⟨o, rfl⟩
  | none => simp [hs2, VOp.srcs] at hs
  | imm n => cases hs3 : a.s3 <;> simp [hs2, hs3, VOp.srcs, VOp.f1] at hs

/-- Settles O21: the blend of the two sources, element by element, and the fields of the word. -/
theorem vselSelectsLanes : Obligations.VselSelectsLanes := by
  unfold Obligations.VselSelectsLanes
  refine ⟨fun a s hty => ⟨_, rfl, ?sel, fun h0 => ?k0⟩, fun a hwf => ?word⟩
  case sel =>
    refine vecResult_writeDst s a.ty a.d allLanes _ _ 0 hty (fun j hj => ?_)
    rw [← elemOf_blend_of_ty _ _ _ j hty hj, elemOf_mod]
  case k0 =>
    refine vecResult_writeDst s a.ty a.d allLanes _ _ 0 hty (fun j hj => ?_)
    rw [elemOf_blend_of_ty _ _ _ j hty hj, h0, if_pos (elemOn_k0 s.me hj), elemOf_mod]
  case word =>
    obtain ⟨hty, o, ho⟩ := vsel_ok (show a.ok .sel = true from hwf)
    refine ⟨code_of_intFlt hty, _, rfl, rfl, ?_, rfl⟩
    show fmtField a.s2 = 0
    rw [ho]
    rfl

/-! ### Compares and masks (R164, R166, R167) -/

/-- A bit of a string of one-bit elements. -/
theorem getLsbD_buildBits (f : Nat → Nat) {i : Nat} (h : i < 32) :
    (BitVec.ofNat 32 (buildElems 1 32 f)).getLsbD i = (f i).testBit 0 := by
  have e : (buildElems 1 32 f).testBit i = (elemOf 1 (buildElems 1 32 f) i).testBit 0 := by
    rw [elemOf_testBit]
    simp
  rw [BitVec.getLsbD_ofNat, e, elemOf_buildElems, if_pos h]
  simp [h]

theorem testBit_zero_toNat (b : Bool) : b.toNat.testBit 0 = b := by cases b <;> rfl

theorem elemOf_one_testBit_zero (v : Half) (i : Nat) : (elemOf 1 v.toNat i).testBit 0 = v.getLsbD i := by
  rw [elemOf_testBit]
  simp [BitVec.getLsbD]

theorem bitOf_toNat (v : Half) : bitOf v.toNat = fun i => v.getLsbD i := by
  funext i
  rw [bitOf_eq_testBit]
  rfl

/-- The position found is that of the first set bit, or past the last. -/
theorem lowestSet_spec (n v : Nat) :
    lowestSet n v ≤ n ∧ (∀ i, i < lowestSet n v → bitOf v i = false) ∧ (lowestSet n v < n → bitOf v (lowestSet n v) = true) := by
  unfold lowestSet
  cases h : (List.range n).find? (bitOf v) with
  | none =>
    refine ⟨Nat.le_refl n, fun i hi => ?_, fun hlt => absurd hlt (Nat.lt_irrefl n)⟩
    simpa using List.find?_eq_none.mp h i (List.mem_range.mpr hi)
  | some p =>
    obtain ⟨hp, hlt, hbelow⟩ := List.find?_range_eq_some.mp h
    refine ⟨Nat.le_of_lt (List.mem_range.mp hlt), fun i hi => ?_, fun _ => hp⟩
    simpa using hbelow i hi

/-- Settles O22: a compare builds its register bit by bit, and the mask instructions write one register. -/
theorem vectorComparesAndMasks : Obligations.VectorComparesAndMasks := by
  unfold Obligations.VectorComparesAndMasks
  refine ⟨fun c kd ty mask s1 s2 s => ⟨_, _, rfl, writesK_retire s kd _ 8, fun i hi => ?cmp⟩,
    fun d a b s => ⟨_, rfl, writesK_retire ..⟩, fun d a b s => ⟨_, rfl, writesK_retire ..⟩,
    fun d a b s => ⟨_, rfl, writesK_retire ..⟩, fun d a b s => ⟨_, rfl, writesK_retire ..⟩,
    fun d a s => ⟨_, rfl, writesK_retire ..⟩, fun xd a s => ⟨_, rfl, ?pop⟩, fun xd a s => ⟨_, _, rfl, writesX_retire .., ?first⟩⟩
  case cmp =>
    rw [show lanes = 32 from rfl, getLsbD_buildBits _ hi, laneOn, Slot.mask, bitOf_toNat]
    split
    · exact testBit_zero_toNat _
    · exact elemOf_one_testBit_zero _ _
  case pop =>
    rw [popCount, bitOf_toNat]
    exact writesX_retire ..
  case first =>
    have h := lowestSet_spec 32 (s.me.kr a).toNat
    rwa [bitOf_toNat] at h

end Sys2Proof.Machine
end

section
/-! PROOFS. Conversions and permutes (O23, O25): a result built in the lanes of a region, a block taken by a scalar register, and
one element put into a register. -/

namespace Sys2Proof.Machine

/-! ### Conversions (R168 to R171) -/

/-- A conversion gives each active element of the lanes it writes the one of the string it made. -/
theorem vecResult_cvtEnd (s : State) (a : VC) (region r : Nat) (hty : a.dt ≠ .i64) :
    VecResult s (s.cvtEnd a region r) a.dt a.d (s.me.mask a.mask &&& region) (elemOf a.dt.width r) :=
  vecResult_writeDst s a.dt a.d _ r _ _ hty (fun _ _ => (elemOf_mod ..).symm)

/-- The same for a string built by element. -/
theorem vecResult_cvtEnd_buildReg (s : State) (a : VC) (region : Nat) (f : Nat → Nat) (hty : a.dt ≠ .i64) :
    VecResult s (s.cvtEnd a region (buildReg a.dt.width f)) a.dt a.d (s.me.mask a.mask &&& region) f :=
  vecResult_writeDst s a.dt a.d _ _ f _ hty (elemOf_buildReg a.dt.width f)

theorem cvtPart_same {dt st : ElTy} (r : Rnd) (sat : Bool) (x j : Nat) (h : dt.width = st.width) :
    cvtPart dt st r sat x j = (buildReg dt.width (fun i => cvtElem dt st r sat (elemOf st.width x i)), allLanes) := by
  simp [cvtPart, h]

theorem cvtPart_widens {dt st : ElTy} (r : Rnd) (sat : Bool) (x j : Nat) (h : st.width < dt.width) :
    cvtPart dt st r sat x j
      = (buildReg dt.width (fun i => cvtElem dt st r sat (elemOf st.width x (j * perReg dt.width + i))), allLanes) := by
  simp [cvtPart, h, Nat.lt_asymm h, perReg]

theorem cvtPart_narrows {dt st : ElTy} (r : Rnd) (sat : Bool) (x j : Nat) (h : dt.width < st.width) :
    cvtPart dt st r sat x j
      = (buildReg dt.width (fun i => if j * perReg st.width ≤ i ∧ i < (j + 1) * perReg st.width
            then cvtElem dt st r sat (elemOf st.width x (i - j * perReg st.width)) else 0),
          laneRange (j * 32 / (st.width / dt.width)) ((j + 1) * 32 / (st.width / dt.width))) := by
  rw [cvtPart, if_pos h]
  refine congrArg (fun f => (buildReg dt.width f, _)) (funext fun i => ite_congr (propext ?_) (fun _ => rfl) (fun _ => rfl))
  simp only [perReg, Bool.and_eq_true, decide_eq_true_eq]

theorem exec_vcvt_scalar {a : VC} {s : State} (hd : a.dt ≠ .sb48) (hs : a.st ≠ .sb48) {region r : Nat}
    (h : cvtPart a.dt a.st a.rnd a.sat (s.me.src a.st false a.s1) (litNum a.s2) = (r, region)) :
    exec (.vcvt a) s = .next (s.cvtEnd a region r) := by
  show execVcvt a s = _
  simp [execVcvt, hd, hs, h]

theorem exec_vcvt_toBlock {a : VC} (s : State) (hd : a.dt = .sb48) :
    exec (.vcvt a) s = .next (s.cvtEnd a allLanes
      (toBlock (sbWidth a.m) a.st a.rnd a.sat (s.me.src a.st false a.s1) (s.me.src a.st false a.s2))) := by
  show execVcvt a s = _
  simp [execVcvt, hd]

theorem exec_vcvt_ofBlock {a : VC} (s : State) (hd : a.dt ≠ .sb48) (hs : a.st = .sb48) :
    exec (.vcvt a) s = .next (s.cvtEnd a allLanes
      (ofBlock (sbWidth a.m) a.dt a.rnd a.sat (s.me.srcBlock (sbWidth a.m) a.s1) (litNum a.s2))) := by
  show execVcvt a s = _
  simp [execVcvt, hd, hs]

theorem laneOn_and_allLanes (k : Nat) : laneOn (k &&& allLanes) 0 = laneOn k 0 := by
  simp [laneOn, bitOf_eq_testBit, allLanes]

/-- The state in which a scalar register takes a value under a condition, and the ring a result. -/
def State.scalarPush (s : State) (n : BitVec 5) (on : Bool) (v : Word) (full : Vec) : State :=
  (s.setMe ((if on then s.me.wx n v else s.me).push full)).retire 8

theorem x_scalarPush (s : State) (n : BitVec 5) (on : Bool) (v : Word) (full : Vec) (r : BitVec 5) :
    (s.scalarPush n on v full).x r = if r = 0 then 0 else if r = n ∧ on = true then v else s.x r := by
  rw [State.x, State.scalarPush, me_retire, xr_retire, me_setMe]
  show (if on = true then s.me.wx n v else s.me).xr r = _
  cases on with
  | true =>
    simp only [if_true, and_true]
    exact xr_wx ..
  | false =>
    simp only [Bool.false_eq_true, if_false, and_false]
    split
    · next h0 => exact if_pos h0
    · rfl

/-- A scalar destination takes one mantissa of a block where lane 0 is active (R156, R169; log 50). -/
theorem x_cvtEnd_sb48 {s : State} {a : VC} {n : BitVec 5} (hd : a.dt = .sb48) (hn : a.d = .x n) (v : Nat) (r : BitVec 5) :
    (s.cvtEnd a allLanes v).x r = if r = 0 then 0 else if r = n ∧ elemOn (s.me.mask a.mask) 32 0 then
      BitVec.ofNat 64 (v % 2 ^ sbWidth a.m) else s.x r := by
  rw [State.cvtEnd, hd, hn]
  refine (x_scalarPush s n _ _ _ r).trans ?_
  rw [laneOn_and_allLanes]
  rfl

/-- Settles O23: each conversion builds its register, a block or a part of one, element by element. -/
theorem vectorConversions : Obligations.VectorConversions := by
  unfold Obligations.VectorConversions
  intro a s hty k wd ws x y j c
  refine ⟨fun hd hs hw => ⟨_, exec_vcvt_scalar hd hs (cvtPart_same _ _ _ _ hw), vecResult_cvtEnd_buildReg s a _ _ hty⟩,
    fun hd hs hw => ⟨_, exec_vcvt_scalar hd hs (cvtPart_widens _ _ _ _ hw), vecResult_cvtEnd_buildReg s a _ _ hty⟩,
    fun hd hs hw => ⟨_, exec_vcvt_scalar hd hs (cvtPart_narrows _ _ _ _ hw), vecResult_cvtEnd_buildReg s a _ _ hty⟩,
    fun hd => ⟨_, exec_vcvt_toBlock s hd, vecResult_cvtEnd s a _ _ hty, fun n hn r => x_cvtEnd_sb48 hd hn _ r⟩,
    fun hd hs => ⟨_, exec_vcvt_ofBlock s hd hs, vecResult_cvtEnd s a _ _ hty⟩,
    ⟨_, rfl, vecResult_cvtEnd_buildReg s a _ _ hty⟩, ⟨_, rfl, vecResult_cvtEnd_buildReg s a _ _ hty⟩,
    ⟨_, rfl, ?qnt⟩, fun hd => ⟨_, rfl, ?dq⟩⟩
  case qnt => exact vecResult_writeDst s .u32 a.d k _ _ 0 (by decide) (elemOf_buildReg 32 _)
  case dq =>
    rw [State.cvtEnd, hd]
    exact vecResult_writeDst s .f32 a.d _ _ _ _ (by decide) (elemOf_buildReg 32 _)

/-! ### Permutes (R175, R176) -/

/-- A permute gives each active element what its number finds. -/
theorem vecResult_permute (s : State) (a : VA) (f : Nat → Nat) (hty : a.ty ≠ .i64) :
    VecResult s (s.permute a f) a.ty a.d (s.me.mask a.mask) f :=
  vecResult_writeDst s a.ty a.d _ _ f 0 hty (elemOf_buildReg a.ty.width f)

/-- A string of all the elements of a number is that number. -/
theorem buildElems_elemOf {w n v : Nat} (hw : 0 < w) (h : v < 2 ^ (w * n)) : buildElems w n (elemOf w v) = v := by
  apply Nat.eq_of_testBit_eq
  intro i
  have bit (u : Nat) : u.testBit i = (elemOf w u (i / w)).testBit (i % w) := by
    rw [elemOf_testBit, Nat.div_add_mod, decide_eq_true (Nat.mod_lt i hw), Bool.true_and]
  rw [bit, bit v, elemOf_buildElems]
  split
  · rw [elemOf_mod]
  · next hn =>
    have hi : w * n ≤ i := Nat.le_trans (Nat.mul_le_mul_left w (Nat.not_lt.mp hn)) (Nat.mul_div_le i w)
    rw [← bit, Nat.testBit_lt_two_pow (Nat.lt_of_lt_of_le h (Nat.pow_le_pow_right (by decide) hi)), Nat.zero_testBit]

theorem buildReg_lt (w : Nat) (f : Nat → Nat) : buildReg w f < 2 ^ 1024 :=
  Nat.lt_of_lt_of_le (buildElems_lt w (perReg w) f) (Nat.pow_le_pow_right (by decide) (Nat.mul_div_le 1024 w))

theorem buildReg_toNat (w : Nat) (f : Nat → Nat) : (BitVec.ofNat 1024 (buildReg w f)).toNat = buildReg w f := by
  rw [BitVec.toNat_ofNat, Nat.mod_eq_of_lt (buildReg_lt w f)]

/-- With every lane in the mask a blend is its first register. -/
theorem blend_allLanes {a : Nat} (b : Nat) (h : a < 2 ^ 1024) : blend allLanes a b = a := by
  have on : ∀ i ∈ List.range lanes, (if laneOn allLanes i then elemOf 32 a i else elemOf 32 b i) = elemOf 32 a i := by
    intro i hi
    rw [laneOn, bitOf_eq_testBit, allLanes, Nat.testBit_two_pow_sub_one, if_pos]
    exact decide_eq_true (List.mem_range.mp hi)
  rw [blend, buildElems, List.map_congr_left on]
  exact buildElems_elemOf (n := 32) (by decide) h

/-- Whether `vins` inserts: the place exists and its lane is active. -/
def State.insOn (s : State) (a : VA) : Bool :=
  s.indexOf a < perReg a.ty.width && elemOn (s.me.mask a.mask) a.ty.width (s.indexOf a)

/-- Element `j` of what `vins` leaves: element 0 of its source at the place, the destination's own elsewhere. -/
def State.insElem (s : State) (a : VA) (j : Nat) : Nat :=
  if s.insOn a && j == s.indexOf a then elemOf a.ty.width (s.me.src a.ty false a.s1) 0 else elemOf a.ty.width (s.me.dst a.d) j

theorem insOn_iff (s : State) (a : VA) :
    s.insOn a = true ↔ s.indexOf a < perReg a.ty.width ∧ elemOn (s.me.mask a.mask) a.ty.width (s.indexOf a) = true := by
  rw [State.insOn, Bool.and_eq_true, decide_eq_true_iff]

theorem insElem_eq (s : State) (a : VA) (j : Nat) :
    s.insElem a j = if (s.indexOf a < perReg a.ty.width ∧ elemOn (s.me.mask a.mask) a.ty.width (s.indexOf a) = true)
        ∧ j = s.indexOf a
      then elemOf a.ty.width (s.me.src a.ty false a.s1) 0 else elemOf a.ty.width (s.me.dst a.d) j :=
  ite_congr (by rw [Bool.and_eq_true, insOn_iff, beq_iff_eq]) (fun _ => rfl) (fun _ => rfl)

theorem insElem_mod (s : State) (a : VA) (j : Nat) : s.insElem a j % 2 ^ a.ty.width = s.insElem a j := by
  unfold State.insElem
  split <;> exact elemOf_mod ..

/-- Into a vector register, `vins` writes every lane of its result. -/
theorem exec_vins_vector {a : VA} (s : State) (hd : ∀ n, a.d ≠ .x n) :
    exec (.vins a) s = .next ((s.setMe (s.me.writeDst a.ty a.d allLanes (buildReg a.ty.width (s.insElem a)))).retire 8) := by
  obtain ⟨ty, sat, rnd, mask, d, s1, s2, s3⟩ := a
  cases d with
  | v n => rw [Slot.writeDst, blend_allLanes _ (buildReg_lt ..)]; rfl
  | o n => rw [Slot.writeDst, blend_allLanes _ (buildReg_lt ..)]; rfl
  | x n => exact absurd rfl (hd n)

/-- Into a scalar register, `vins` writes at place 0 only. -/
theorem exec_vins_scalar {a : VA} (s : State) {n : BitVec 5} (hd : a.d = .x n) :
    exec (.vins a) s = .next (s.scalarPush n (s.insOn a && s.indexOf a == 0)
      (extElem a.ty (elemOf a.ty.width (s.me.src a.ty false a.s1) 0)) (BitVec.ofNat 1024 (buildReg a.ty.width (s.insElem a)))) := by
  obtain ⟨ty, sat, rnd, mask, d, s1, s2, s3⟩ := a
  cases hd
  rfl

theorem threadStep_scalarPush (s : State) (n : BitVec 5) (on : Bool) (v : Word) (full : Vec) :
    ThreadStep s (s.scalarPush n on v full) 8
      { s.me with x := (s.scalarPush n on v full).me.x, b := (s.scalarPush n on v full).me.b, dirty := s.me.dirty ||| dirtyB } := by
  have hme : (s.scalarPush n on v full).me = ((if on then s.me.wx n v else s.me).push full).retire 8 := by
    rw [State.scalarPush, me_retire, me_setMe]
  rw [hme]
  cases on with
  | false => exact threadStep_retire s _ _ 8 rfl rfl rfl rfl
  | true =>
    refine threadStep_retire s _ _ 8 (wx_pc ..) (wx_instret ..) (wx_st ..) ?_
    rw [if_pos rfl, wx_eta]
    rfl

theorem b_scalarPush (s : State) (n : BitVec 5) (on : Bool) (v : Word) (full : Vec) :
    (s.scalarPush n on v full).me.b = #v[full, s.me.b[0], s.me.b[1], s.me.b[2]] := by
  rw [State.scalarPush, me_retire, me_setMe]
  cases on with
  | false => rfl
  | true => simp [Slot.push]

/-- Settles O25: a permute finds each active element, `vextr` one, and `vins` puts one into a vector or a scalar register. -/
theorem vectorPermutes : Obligations.VectorPermutes := by
  unfold Obligations.VectorPermutes
  refine ⟨fun a s hty => ⟨⟨_, rfl, ?perm⟩, ⟨_, rfl, ?shuf⟩, ⟨_, rfl, ?up⟩, ⟨_, rfl, ?down⟩, ⟨_, rfl, ?bcast⟩, ⟨_, rfl, ?extr⟩⟩,
    fun a s hty => ⟨fun hd => ⟨_, exec_vins_vector s hd, ?insVector⟩, fun n hd => ⟨_, exec_vins_scalar s hd, ?insScalar⟩⟩⟩
  case perm => exact vecResult_permute s a _ hty
  case shuf => exact vecResult_permute s a _ hty
  case up => exact vecResult_permute s a _ hty
  case down => exact vecResult_permute s a _ hty
  case bcast => exact vecResult_permute s a _ hty
  case extr => exact vecResult_elems s a.ty a.d allLanes _ hty
  case insVector =>
    refine vecResult_writeDst s a.ty a.d allLanes _ _ 0 hty (fun j hj => (elemOf_buildReg _ _ j hj).trans ?_)
    rw [insElem_eq]
    rfl
  case insScalar =>
    refine ⟨threadStep_scalarPush .., fun r => (x_scalarPush ..).trans ?regs, fun j hj => ?elems, ?ring⟩
    case regs =>
      refine ite_congr rfl (fun _ => rfl) (fun _ => ite_congr ?_ (fun _ => rfl) (fun _ => rfl))
      rw [Bool.and_eq_true, insOn_iff, beq_iff_eq]
      rfl
    case elems =>
      rw [b_scalarPush]
      show elemOf _ (BitVec.ofNat 1024 (buildReg a.ty.width (s.insElem a))).toNat j = _
      rw [buildReg_toNat, elemOf_buildReg _ _ j hj, insElem_mod, insElem_eq, hd]
      exact ite_congr rfl (fun _ => rfl) (fun _ => by simp [Slot.dst, elemOf])
    case ring =>
      rw [b_scalarPush]
      exact ⟨rfl, rfl, rfl⟩

end Sys2Proof.Machine
end

section
/-! PROOFS. Vector loads and stores (O26): a load's result by element, the block load, and a store all of whose active elements
are at hand, whose checks then change nothing. -/

namespace Sys2Proof.Machine

/-! ### Loads (R177 to R181) -/

theorem vload_reads {a : VM} {s s1 u : State} {vs : List (Nat × Nat)} {ea : Nat → Word}
    (hc : s.checkLoads (s.me.active a ea) = .ok s1) (hr : s1.readElems (s.me.active a ea) = .ok (u, vs)) :
    s.vload a ea = .ok ((u.setMe (u.me.writeDst a.ty (loadDst a.data) (u.me.mask a.mask) (regOf a.ty.width vs))).retire 8) := by
  simp only [State.vload, hc, hr, bind, Except.bind]

theorem exec_vldb_reads {m : BitVec 2} {a : VM} {s s1 u : State} {vs : List (Nat × Nat)}
    (hb : ∀ e ∈ (s.me.blockAccs m a).head?, e.n = 4 → (s.x a.base + a.off.signExtend 64).toNat % 8 = 0)
    (hc : s.checkLoads (s.me.blockAccs m a) = .ok s1) (hr : s1.readElems (s.me.blockAccs m a) = .ok (u, vs)) :
    exec (.vldb m a) s = .next ((u.setMe (u.me.writeDst .u32 (loadDst a.data) (u.me.mask a.mask) (buildReg 32 (fun j =>
      if j == 31 then (assoc vs 31).getD 0 * 2 ^ 24 else (assoc vs j).getD 0)))).retire 8) := by
  show execVldb m a s = _
  cases hes : s.me.blockAccs m a with
  | nil =>
    rw [hes] at hc hr
    simp only [execVldb, hes, hc, hr, bind, Except.bind]
    rfl
  | cons e r =>
    have aligned : (e.n == 4 && (s.me.xr a.base + a.off.signExtend 64).toNat % 8 != 0) = false := by
      rw [Bool.and_eq_false_imp]
      intro h4
      exact bne_eq_false_iff_eq.mpr (hb e (by rw [hes]; rfl) (beq_iff_eq.mp h4))
    rw [hes] at hc hr
    simp only [execVldb, hes, aligned, hc, hr, bind, Except.bind, Bool.false_eq_true, if_false]
    rfl

theorem active_of_none_on {t : Slot} {a : VM} (ea : Nat → Word) (h : ∀ j, elemOn (t.mask a.mask) a.ty.width j = false) :
    t.active a ea = [] := by
  simp [Slot.active, h]

/-! ### Checks (R177, R248) -/

theorem checkElem_misaligned (s : State) (k : AK) {e : VAcc} (h : e.va.toNat % e.n ≠ 0) :
    s.checkElem k e = .error (s.trap s.cur { cause := k.misalignedCause, tval := e.va, elem := e.elem }) := by
  rw [State.checkElem, if_pos (by simpa using h)]

/-- A translation at hand is found without asking for it. -/
theorem reach_of_atHand {s : State} {loc : Nat} {va : Word} (k : AK) (n : Nat) (raw : Bool) (h : s.atHand loc va = true) :
    (s.reach loc k va n raw).1 = s := by
  unfold State.reach
  split
  · rfl
  · split
    · rfl
    · next hap =>
      have hplb : (s.core (coreOf loc)).plb.any (·.covers (loc % 4) va.toNat) = true := by
        simpa [State.atHand, hap] using h
      have he : ∃ e, s.plbEntry loc va.toNat = (s, .ok e) := by
        unfold State.plbEntry
        cases hf : (s.core (coreOf loc)).plb.find? (·.covers (loc % 4) va.toNat) with
        | some e => exact ⟨e, rfl⟩
        | none =>
          obtain ⟨e, hm, hc⟩ := List.any_eq_true.mp hplb
          exact absurd hc (List.find?_eq_none.mp hf e hm)
      obtain ⟨e, he⟩ := he
      simp only [he]

/-- A check that an element at hand passes changes nothing. -/
theorem checkElem_of_atHand {s u : State} {k : AK} {e : VAcc} (ha : s.atHand s.cur e.va = true) (h : s.checkElem k e = .ok u) :
    u = s := by
  have hr := reach_of_atHand k e.n true ha
  unfold State.checkElem at h
  rw [if_pos ha] at h
  generalize s.reach s.cur k e.va e.n = r at h hr
  obtain ⟨r1, r2⟩ := r
  split at h
  · cases h
  · split at h
    · cases h
    · cases r2 with
      | error c => cases h
      | ok p =>
        cases h
        exact hr

theorem checkElems_of_atHand {k : AK} {es : List VAcc} {s u : State} (ha : ∀ e ∈ es, s.atHand s.cur e.va = true)
    (h : es.foldlM (fun (v : State) e => v.checkElem k e) s = .ok u) : u = s := by
  induction es with
  | nil =>
    cases h
    rfl
  | cons e r ih =>
    rw [List.foldlM_cons] at h
    cases hc : s.checkElem k e with
    | error w => simp [hc, bind, Except.bind] at h
    | ok v =>
      obtain rfl := checkElem_of_atHand (ha e (by simp)) hc
      simp only [hc, bind, Except.bind] at h
      exact ih (fun q hq => ha q (by simp [hq])) h

/-! ### Stores (R177, R260) -/

theorem heldOver_of_none_held {t : Slot} (h : t.held = []) (va n : Nat) : t.heldOver va n = false := by
  simp [Slot.heldOver, h]

theorem wouldHold_of_atHand {s : State} {e : VAcc} (h : s.atHand s.cur e.va = true) : s.wouldHold e = false := by
  simp [State.wouldHold, h]

/-- With nothing held and every active element at hand, a store is its checks and then its elements in order. -/
theorem vstore_performs {a : VM} {s s1 u : State} {ea : Nat → Word}
    (hh : (s.drain s.cur).me.held = [])
    (ha : ∀ e ∈ s.me.active a ea, (s.drain s.cur).atHand (s.drain s.cur).cur e.va = true)
    (hc : (s.me.active a ea).foldlM (fun (v : State) e => v.checkElem .store e) (s.drain s.cur) = .ok s1)
    (hp : (s.me.active a ea).foldlM (fun (v : State) e => v.storePlain e.va e.n
      (BitVec.ofNat 64 (elemOf a.ty.width (s.me.src a.ty false a.data) e.elem)) e.elem) s1 = .ok u) :
    s.vstore a ea = .ok (u.retire 8) := by
  obtain rfl := checkElems_of_atHand ha hc
  have hcur : (s.drain s.cur).cur = s.cur := (touches_drain s s.cur).cur
  have hmiss : (s.me.active a ea).filter (fun e => !(s.drain s.cur).atHand s.cur e.va) = [] :=
    List.filter_eq_nil_iff.mpr (fun e he => by simpa [hcur] using ha e he)
  have hhold : (s.me.active a ea).filter (fun e => (s.drain s.cur).me.heldOver e.va.toNat e.n || (s.drain s.cur).wouldHold e)
      = [] :=
    List.filter_eq_nil_iff.mpr (fun e he => by simp [heldOver_of_none_held hh, wouldHold_of_atHand (ha e he)])
  simp only [State.vstore, hc, hp, hmiss, hhold, bind, Except.bind, List.length_nil, Nat.not_lt_zero, if_false]

/-- Settles O26: a load writes what it read, a store performs its elements, and an element out of alignment traps. -/
theorem vectorMemoryInstructions : Obligations.VectorMemoryInstructions := by
  unfold Obligations.VectorMemoryInstructions
  refine ⟨?load, ?store, ?block, fun a s ea h => ⟨active_of_none_on ea h, rfl, rfl⟩, fun s k e h => checkElem_misaligned s k h⟩
  case load =>
    intro a s s1 u vs i ea hty hi hc hr
    have he : exec i s = Go.done (s.vload a ea) := by
      rcases hi with ⟨rfl, rfl⟩ | ⟨rfl, rfl⟩ | ⟨rfl, rfl⟩ <;> rfl
    rw [he, vload_reads hc hr]
    exact ⟨_, rfl, vecResult_writeDst u a.ty _ _ _ _ 0 hty (elemOf_buildReg a.ty.width _)⟩
  case store =>
    rintro a s _ s1 u i ea hi es rfl hh ha hc hp
    have he : exec i s = Go.done (s.vstore a ea) := by
      rcases hi with ⟨rfl, rfl⟩ | ⟨rfl, rfl⟩ | ⟨rfl, rfl⟩ <;> rfl
    have hcur : (s.drain s.cur).cur = s.cur := (touches_drain s s.cur).cur
    rw [he, vstore_performs hh (by rwa [hcur]) hc hp]
    exact ⟨_, rfl, writesNone_retire u 8⟩
  case block =>
    intro m a s s1 u vs es hb hc hr
    refine ⟨_, exec_vldb_reads hb hc hr, vecResult_writeDst u .u32 _ _ _ _ 0 (by decide) (fun j hj => ?_)⟩
    refine (elemOf_buildReg 32 _ j hj).trans (congrArg (· % 2 ^ 32) (ite_congr (propext beq_iff_eq) (fun _ => rfl) (fun _ => rfl)))

end Sys2Proof.Machine
end

section
/-! PROOFS. What a firing leaves in its region, and the firing of an element (O44). -/

namespace Sys2Proof.Machine

/-! ### The region after a firing (R185, R199) -/

/-- A site without such a node that fires does nothing. -/
theorem atNode_idle {s : State} {kind : Nat} (k : Fire → Option State) (hf : s.candidate kind = none) : s.atNode kind k = .next s := by
  simp only [State.atNode, hf]

/-- A candidate whose condition fails does nothing. -/
theorem atNode_waits {s : State} {kind : Nat} {f : Fire} {k : Fire → Option State} (hf : s.candidate kind = some f)
    (hk : k f = none) : s.atNode kind k = .next s := by
  simp only [State.atNode, hf, hk]

/-- A region whose frame has fired at a site: the frame is not stalled, and the element records the pair. -/
def Region.firedAt (r : Region) (x : Site) : Region :=
  { r with
    slots := r.slots.mapIdx (fun i f => if i == x.fs then { f with stallFrom := none } else f)
    last := match r.node? x.node with
      | some n => (r.last.filter (fun l => l.1 != n.elem)) ++ [(n.elem, n.ctx0, x.fs)]
      | none => r.last }

theorem region_setRegion_fired {s : State} {kind : Nat} {f : Fire} {r : Region} (hf : s.candidate kind = some f)
    (hn : r.num = f.r.num) : ((s.setRegion r).fired s.site).region s.site.rgn = some (r.firedAt s.site) := by
  obtain ⟨hr, hnum, -, -⟩ := candidate_eq s kind f hf
  rw [region_fired, region_setRegion, if_pos (hn.trans hnum).symm, hr, Option.map_some, Option.map_some, if_pos rfl]
  rfl

theorem region_setRegion_fired_ne {s : State} {r : Region} {x : Site} {k : Nat} (hn : r.num = x.rgn) (hk : k ≠ x.rgn) :
    ((s.setRegion r).fired x).region k = s.region k := by
  rw [region_fired, region_setRegion, if_neg (hn ▸ hk)]
  cases s.region k with
  | none => rfl
  | some q => rw [Option.map_some, if_neg hk]

/-! ### The registers of an element (R182, R186) -/

theorem ereg_setEreg (r : Region) (x : EReg) (n g : Nat) :
    (r.setEreg x).ereg n g = (r.ereg n g).map (fun e => if n = x.node ∧ g = x.fs then x else e) := by
  have hfind : (fun e : EReg => e.node == n && e.fs == g) ∘ (fun e => if e.node == x.node && e.fs == x.fs then x else e)
      = fun e => e.node == n && e.fs == g := by
    funext e
    by_cases he : e.node = x.node ∧ e.fs = x.fs
    · simp [he]
    · rw [Function.comp_apply, if_neg (by simpa using he)]
  simp only [Region.ereg, Region.setEreg, List.find?_map, hfind]
  refine Option.map_congr (fun e he => ?_)
  obtain ⟨rfl, rfl⟩ : e.node = n ∧ e.fs = g := by simpa using List.find?_some he
  simp

theorem regs_of_ereg {f : Fire} {e : EReg} (h : f.r.ereg f.n.id f.fs = some e) : f.regs = e := by
  rw [Fire.regs, h, Option.getD_some]

/-- The registers that a firing works with are those of its node for its frame. -/
theorem regs_names (f : Fire) : f.regs.node = f.n.id ∧ f.regs.fs = f.fs := by
  cases h : f.r.ereg f.n.id f.fs with
  | none =>
    rw [Fire.regs, h]
    exact ⟨rfl, rfl⟩
  | some e =>
    rw [regs_of_ereg h]
    simpa using List.find?_some h

/-! ### A firing (R185 to R187) -/

/-- The region once an element has fired with a result: heads taken, tokens sent, registers written. -/
def Fire.firedWord (f : Fire) (o : ElOp) (w : TWord) (x : ElOut) : Region :=
  ({ f.r with
    chan := (f.r.takeAll f.n.id f.fs w.deqPorts).chan
    owed := (f.r.takeAll f.n.id f.fs w.deqPorts).owed
    flight := f.r.flight ++ (portsOf (f.drives o w)).flatMap (fun p => (f.n.outs (f.r.phase f.n f.fs - f.n.ctx0) p).map (fun e =>
      (e.node, e.inPort, tokFor p x.val (x.mask.getD (f.outMask w)) (x.tag.getD (f.outTag w))))) } : Region).setEreg
        (f.regs.after o w x (x.mask.getD (f.outMask w)))

/-- That region, made as a firing makes it. -/
theorem firedWord_eq (f : Fire) (o : ElOp) (w : TWord) (x : ElOut) : f.firedWord o w x
    = ((portsOf (f.drives o w)).foldl (fun q p => q.send f.n (f.r.phase f.n f.fs - f.n.ctx0) p
        (tokFor p x.val (x.mask.getD (f.outMask w)) (x.tag.getD (f.outTag w)))) (f.r.takeAll f.n.id f.fs w.deqPorts)).setEreg
          (f.regs.after o w x (x.mask.getD (f.outMask w))) := by
  rw [sends_eq, takeAll_rest]
  rfl

theorem ereg_firedWord (f : Fire) (o : ElOp) (w : TWord) (x : ElOut) (n g : Nat) :
    (f.firedWord o w x).ereg n g = (f.r.ereg n g).map (fun e =>
      if n = f.n.id ∧ g = f.fs then f.regs.after o w x (x.mask.getD (f.outMask w)) else e) := by
  obtain ⟨hnode, hfs⟩ := regs_names f
  have hn : (f.regs.after o w x (x.mask.getD (f.outMask w))).node = f.n.id := hnode
  have hg : (f.regs.after o w x (x.mask.getD (f.outMask w))).fs = f.fs := hfs
  rw [Fire.firedWord, ereg_setEreg, hn, hg]
  rfl

theorem fireWord_eligible {s : State} {f : Fire} {o : ElOp} {w : TWord} (op : Fire → ElOut) (used : Nat)
    (hf : s.candidate 0 = some f) (he : f.eligible w (f.drives o w) = true) :
    s.fireWord o w op used = .next (({ s.setRegion (f.firedWord o w (op f)) with fresh := s.fresh + used } : State).fired s.site) := by
  refine atNode_fires hf ?_
  simp only [he, Bool.not_true, Bool.false_eq_true, if_false, firedWord_eq]

theorem fired_of_eligible {s : State} {f : Fire} {o : ElOp} {w : TWord} (op : Fire → ElOut) (used : Nat)
    (hf : s.candidate 0 = some f) (he : f.eligible w (f.drives o w) = true) :
    ∃ t, s.fireWord o w op used = .next t ∧ Fired s t f o w (op f) := by
  obtain ⟨-, hnum, -, -⟩ := candidate_eq s 0 f hf
  refine ⟨_, fireWord_eligible op used hf he, rfl, fun k hk => region_setRegion_fired_ne hnum hk,
    _, region_setRegion_fired hf rfl, rfl, rfl, rfl, fun e hreg => ?_, fun n g hne => ?_, rfl, rfl, rfl, rfl⟩
  · refine (ereg_firedWord f o w _ _ _).trans ?_
    rw [hreg, Option.map_some, if_pos ⟨rfl, rfl⟩, regs_of_ereg hreg]
  · refine (ereg_firedWord f o w _ _ _).trans ?_
    simp only [hne, if_false, Option.map_id_fun', id]

/-- What an instruction that is a firing does: it fires where its word is eligible, and else does nothing. -/
theorem fires_of_fireWord {i : Instr} {o : ElOp} {w : TWord} {op : State → Fire → ElOut} (used : Nat)
    (h : ∀ s, exec i s = s.fireWord o w (op s) used) :
    (∀ s f, s.candidate 0 = some f → f.eligible w (f.drives o w) = true → ∃ t, exec i s = .next t ∧ Fired s t f o w (op s f))
    ∧ (∀ s f, s.candidate 0 = some f → f.eligible w (f.drives o w) = false → exec i s = .next s)
    ∧ ∀ s, s.candidate 0 = none → exec i s = .next s := by
  refine ⟨fun s f hf he => ?_, fun s f hf he => ?_, fun s hf => ?_⟩
  · rw [h]
    exact fired_of_eligible (op s) used hf he
  · rw [h]
    exact atNode_waits hf (by simp [he])
  · rw [h]
    exact atNode_idle _ hf

theorem exec_elSel (w : TWord) (s : State) : exec (.elSel w) s = s.fireWord .sel w (fun f => ElOut.of w (if w.vec then
    buildElems 32 16 (fun i => if elemOf 32 (f.src w w.c) i % 2 = 1 then elemOf 32 (f.src w w.a) i else elemOf 32 (f.src w w.b) i)
    else if f.src w w.c % 2 = 1 then f.src w w.a else f.src w w.b)) := by
  show execElSel w s = _
  simp only [execElSel, beq_iff_eq]

theorem exec_elNeg (w : TWord) (s : State) : exec (.elNeg w) s = s.fireWord .neg w (fun f => f.arith w w.sat (fun a _ _ => -a)) := by
  show execElNeg w s = _
  simp only [execElNeg, zero_sub]

theorem exec_elVins (w : TWord) (s : State) : exec (.elVins w) s = s.fireWord .vins w (fun f =>
    let i := f.vector w w.c.toNat % 16
    { val := buildElems 32 16 (fun j => if j = i then f.vector w w.b.toNat % 2 ^ 32 else elemOf 32 (f.vector w w.a.toNat) j),
      vec := true, mask := some (f.maskAt w.a.toNat ||| BitVec.ofNat 16 (2 ^ i)) }) := by
  show execElVins w s = _
  simp only [execElVins, beq_iff_eq]

/-- Settles O44: every element op is a firing of its word, with its own result. -/
theorem elementsFire : Obligations.ElementsFire := by
  unfold Obligations.ElementsFire
  intro fires w
  have ops {i : Instr} {o : ElOp} {op : State → Fire → ElOut} (h : ∀ s, exec i s = s.fireWord o w (op s)) : fires i o w op :=
    fires_of_fireWord 0 h
  exact ⟨ops fun _ => rfl, ops fun _ => rfl, ops (exec_elSel w), ops fun _ => rfl, ops fun _ => rfl,
    -- integer arithmetic (R211)
    ops fun _ => rfl, ops fun _ => rfl, ops fun _ => rfl, ops fun _ => rfl, ops fun _ => rfl, ops fun _ => rfl, ops fun _ => rfl,
    ops fun _ => rfl, ops (exec_elNeg w),
    -- logic and shifts (R212), comparisons (R213)
    ops fun _ => rfl, ops fun _ => rfl, ops fun _ => rfl, ops fun _ => rfl, ops fun _ => rfl, ops fun _ => rfl, ops fun _ => rfl,
    ops fun _ => rfl, ops fun _ => rfl, ops fun _ => rfl, ops fun _ => rfl, ops fun _ => rfl,
    -- floating point (R214, R215)
    ops fun _ => rfl, ops fun _ => rfl, ops fun _ => rfl, ops fun _ => rfl, ops fun _ => rfl, ops fun _ => rfl, ops fun _ => rfl,
    ops fun _ => rfl, ops fun _ => rfl, ops fun _ => rfl,
    -- reductions and lanes (R216, R217)
    ops fun _ => rfl, ops fun _ => rfl, ops fun _ => rfl, ops fun _ => rfl, ops fun _ => rfl, ops fun _ => rfl, ops fun _ => rfl,
    ops (exec_elVins w),
    -- tags (R218) and carry-save values (R219), which use up two free values
    ops fun _ => rfl, ops fun _ => rfl, fires_of_fireWord 2 fun _ => rfl, fires_of_fireWord 2 fun _ => rfl⟩

end Sys2Proof.Machine
end

section
/-! PROOFS. `stream`, `mem` and `join` nodes (O45): each step as the state that it leads to, and from these the statement. -/

namespace Sys2Proof.Machine

/-! ### `stream` nodes (R225, R226) -/

/-- A walk that starts without an offset starts at its first point. -/
theorem streamWalkStart_starts {s : State} {f : Fire} {o : Bool} {idx : List Nat} {off : Int} {c : Nat} {b : Bool} {tg : BitVec 15}
    (hf : s.candidate 1 = some f) (hst : f.st = .stream false o idx off c b tg)
    (htrig : f.fed 8 = true ∧ (f.head 8).isSome = true ∨ f.fed 8 = false ∧ o = false) (h1 : f.fed 1 = false) (hh : f.head 1 = none)
    (hfit : f.n.strFits 0 = true) :
    exec .streamWalkStart s = .next ((((f.take 8).take 1).set (.stream true true [0, 0, 0, 0] 0 0 false
      (((f.head 8).map Token.tag).getD f.fresh))).put s |>.fired s.site) := by
  have hready : (f.fed 8 && (f.head 8).isNone || !f.fed 8 && o) = false := by
    rcases htrig with ⟨h8, hs⟩ | ⟨h8, ho⟩
    · simp [h8, hs]
    · simp [h8, ho]
  refine atNode_fires hf ?_
  simp [hst, hready, h1, hh, hfit]

/-- A point of an address-mode walk leaves as a token, and the walk goes on. -/
theorem streamPoint_address {s : State} {f : Fire} {o : Bool} {idx : List Nat} {off : Int} {c : Nat} {tg : BitVec 15}
    (hf : s.candidate 1 = some f) (hst : f.st = .stream true o idx off c false tg) (hload : f.n.strStore = false)
    (hmode : f.n.strMode = 0) (hroom : f.can [f.n.strOut] = true) :
    exec .streamPoint s = .next ((((f.advance idx off c false tg).send 0 (scalarTok (BitVec.ofInt 64 ((f.n.par 0 : Int) + off
      + intSum ((List.range f.n.strLevels).map (fun i => (idx.getD i 0 : Int) * f.n.strStride i)))).toNat (f.pointTag idx c))).put
        s).fired s.site) := by
  refine atNode_fires hf ?_
  simp [hst, hload, hmode, hroom]

/-! ### `mem` nodes issue requests (R200, R227, R228) -/

/-- A `mem` node whose heads a request has consumed. -/
def Fire.memTaken (f : Fire) : Fire :=
  match f.n.memDataPort with
  | some p => (f.take f.n.memAddrPort).take p
  | none => f.take f.n.memAddrPort

/-- The data head of a `mem` node. -/
def Fire.memData (f : Fire) : Option Token := f.n.memDataPort.bind f.head

/-- The wave of a request that a head asks for. -/
def Fire.memWave (f : Fire) (t : Token) : Nat :=
  if f.n.unord = true then f.slot.nearWave (tagSeq t.tag) else f.slot.extWave (tagSeq t.tag)

/-- The request that an address or index head asks for. -/
def Fire.memRequest (f : Fire) (op : Nat) (t : Token) : MReq :=
  let err := tagErr t.tag && op != 0
  let active : BitVec 16 :=
    (if f.n.memAddrPort == 4 then t.mask else allLanes16)
      &&& (if f.n.memDataPort == some 5 then (f.memData.map Token.mask).getD allLanes16 else allLanes16)
  { node := f.n.id, fs := f.fs, wave := f.memWave t, ord := f.n.memOrder, pred := f.n.memPred, succ := f.n.memSucc,
    ordered := !f.n.unord, op := op, addr := t.data, data := (f.memData.map Token.data).getD 0,
    mask := if err && f.n.memAddrPort == 4 then t.mask else active,
    vec := f.n.memVec, width := f.n.memW, tag := t.tag, st := .waiting, val := 0, err := err, bad := none }

/-- A request's heads leave all but the channels and the credits owed. -/
theorem memTaken_rest (f : Fire) : f.memTaken.r = { f.r with chan := f.memTaken.r.chan, owed := f.memTaken.r.owed } := by
  have h : f.memTaken.r = f.r.takeAll f.n.id f.fs (f.n.memAddrPort :: f.n.memDataPort.toList) := by
    unfold Fire.memTaken
    cases f.n.memDataPort <;> rfl
  rw [h]
  exact takeAll_rest _ _ _ _

/-- The region once a `mem` node has issued its request. -/
def Fire.issued (f : Fire) (op : Nat) (t : Token) : Region :=
  { f.r with chan := f.memTaken.r.chan, owed := f.memTaken.r.owed, reqs := f.r.reqs ++ [f.memRequest op t] }

theorem issueMem_issues {s : State} {f : Fire} {op : Nat} {t : Token} (hf : s.candidate 2 = some f) (hop : f.n.memOp = op)
    (ht : f.head f.n.memAddrPort = some t) (hd : ∀ p, f.n.memDataPort = some p → (f.head p).isSome = true)
    (hroom : f.can [0, 1, 4, 8] = true) (hw : f.n.unord = true ∨ f.slot.extWave (tagSeq t.tag) < f.slot.wave + 16) :
    s.issueMem op = .next ((s.setRegion (f.issued op t)).fired s.site) := by
  have hdata : (f.n.memDataPort.isSome && (f.n.memDataPort.bind f.head).isNone) = false := by
    cases hp : f.n.memDataPort with
    | none => rfl
    | some p => simpa [Option.isSome_iff_ne_none] using hd p hp
  have hopen : ¬((!f.n.unord && decide (f.slot.wave + 16 ≤ f.memWave t)) = true) := by
    rcases hw with hu | hw
    · simp [hu]
    · by_cases hu : f.n.unord = true
      · simp [hu]
      · simp [Fire.memWave, hu, hw]
  have hr : f.issued op t = { f.memTaken.r with reqs := f.memTaken.r.reqs ++ [f.memRequest op t] } := by
    rw [memTaken_rest]
    rfl
  refine atNode_fires hf ?_
  simp only [ht, hop, bne_self_eq_false, hdata, hroom, Bool.not_true, Bool.or_self, Bool.false_eq_true, if_false]
  exact (if_neg hopen).trans (by rw [hr]; rfl)

/-! ### Requests perform (R193, R200, R202, R228, R246) -/

/-- Request `sub` of the region of the site, of a running frame whose memory interfaces work. -/
structure AtRequest (s : State) (r : Region) (q : MReq) (n : NodeRec) : Prop where
  region : s.region s.site.rgn = some r
  request : r.reqs[s.sub]? = some q
  node : r.node? q.node = some n
  on : r.interfaceOn = true
  running : (r.fslot q.fs).st = .running

/-- A request that has not performed and may. -/
structure MayPerform (s : State) (r : Region) (q : MReq) (n : NodeRec) : Prop extends AtRequest s r q n where
  mem : q.op ≠ 16 ∧ q.op ≠ 17
  waiting : q.st = .waiting
  next : r.mayPerform q = true
  certain : r.speculative q.node q.fs (tagSeq q.tag) = false

/-- What such a request does: it performs, or fails. -/
theorem orderedRequestPerform_tries {s : State} {r : Region} {q : MReq} {n : NodeRec} (h : MayPerform s r q n) :
    exec .orderedRequestPerform s = match s.perform r n q with
      | .ok (s1, q1) =>
        .next (if q1.st == .sent then s1.modRegion r.num (fun t => { t with reqs := t.reqs.set s.sub q1 })
          else s1.requestDone r.num s.sub false q1)
      | .error e => .next (s.requestFailed r s.sub false false q e) := by
  obtain ⟨⟨hr, hq, hn, hon, hrun⟩, ⟨h16, h17⟩, hwait, hnext, hcert⟩ := h
  show execOrderedRequestPerform s = _
  simp [execOrderedRequestPerform, hr, hq, hn, hon, hrun, h16, h17, hwait, hnext, hcert] <;> rfl

theorem orderedRequestPerform_performs {s u : State} {r : Region} {q q1 : MReq} {n : NodeRec} (h : MayPerform s r q n)
    (hp : s.perform r n q = .ok (u, q1)) :
    exec .orderedRequestPerform s = .next (u.modRegion r.num (fun t =>
      let w : Region := { t with reqs := t.reqs.set s.sub q1 }
      if q1.st = .sent then w else w.credited q1)) := by
  rw [orderedRequestPerform_tries h, hp]
  by_cases hs : q1.st = .sent
  · simp [hs]
  · simp [hs, State.requestDone]

/-- A fault of a running frame's request that is not speculative is a fabric trap. -/
theorem requestFailed_traps {s : State} {r : Region} {q : MReq} (e : Word × Nat) (hd : r.st ≠ .draining) (h17 : q.op ≠ 17) :
    s.requestFailed r s.sub false false q e
      = (s.modRegion r.num (fun t => { t with reqs := t.reqs.set s.sub { q with st := .faulting } })).fabTrap r.num q.node q.fs
          { cause := fabCause e.2, va := e.1, ord := q.ord, wave := q.wave } := by
  simp [State.requestFailed, hd, h17]

theorem orderedRequestPerform_fails {s : State} {r : Region} {q : MReq} {n : NodeRec} {e : Word × Nat} (h : MayPerform s r q n)
    (hd : r.st ≠ .draining) (hp : s.perform r n q = .error e) :
    exec .orderedRequestPerform s
      = .next ((s.modRegion r.num (fun t => { t with reqs := t.reqs.set s.sub { q with st := .faulting } })).fabTrap r.num q.node q.fs
          { cause := fabCause e.2, va := e.1, ord := q.ord, wave := q.wave }) := by
  rw [orderedRequestPerform_tries h, hp, ← requestFailed_traps e hd h.mem.2]

/-- A request whose writes to other packages have gone out takes their answers. -/
theorem orderedRequestPerform_sent {s : State} {r : Region} {q : MReq} {n : NodeRec} (h : AtRequest s r q n) (hs : q.st = .sent) :
    exec .orderedRequestPerform s = .next (s.requestAnswered r s.sub false q) := by
  obtain ⟨hr, hq, hn, hon, hrun⟩ := h
  show execOrderedRequestPerform s = _
  simp [execOrderedRequestPerform, hr, hq, hn, hon, hrun, hs]
  rfl

theorem requestAnswered_waits {s : State} {r : Region} {q : MReq} (hu : s.unacked q.far = true) :
    s.requestAnswered r s.sub false q = s := by
  rw [State.requestAnswered, if_pos hu]

theorem requestAnswered_performs {s : State} {r : Region} {q : MReq} (h17 : q.op ≠ 17) (hu : s.unacked q.far = false)
    (hf : s.farFault q.far = none) :
    s.requestAnswered r s.sub false q = (s.dropWrites q.far).modRegion r.num (fun t =>
      ({ t with reqs := t.reqs.set s.sub { q with st := .performed, far := [] } } : Region).credited
        { q with st := .performed, far := [] }) := by
  simp [State.requestAnswered, hu, hf, h17, State.requestDone]

theorem requestAnswered_fails {s : State} {r : Region} {q : MReq} {e : Word × Nat} (hu : s.unacked q.far = false)
    (hf : s.farFault q.far = some e) :
    s.requestAnswered r s.sub false q = (s.dropWrites q.far).requestFailed r s.sub false false { q with far := [] } e := by
  simp [State.requestAnswered, hu, hf]

/-! ### Replies (R221, R228) -/

/-- The region once a request has answered. -/
def Region.replied (r : Region) (sub : Nat) (q : MReq) (n : NodeRec) : Region :=
  { r with
    reqs := r.reqs.eraseIdx sub
    flight := r.flight ++ (q.tokens n).flatMap (fun p => (n.outs 0 p.1).map (fun e => (e.node, e.inPort, p.2))) }

/-- Tokens sent, each on its port, join the flight in order. -/
theorem sendAll_eq (q : Region) (n : NodeRec) (ctx : Nat) (ps : List (Nat × Token)) :
    ps.foldl (fun q p => q.send n ctx p.1 p.2) q
      = { q with flight := q.flight ++ ps.flatMap (fun p => (n.outs ctx p.1).map (fun e => (e.node, e.inPort, p.2))) } := by
  induction ps generalizing q with
  | nil => simp
  | cons a l ih =>
    rw [List.foldl_cons, ih]
    simp [Region.send]

theorem memReply_replies {s : State} {r : Region} {q : MReq} {n : NodeRec} (hr : s.region s.site.rgn = some r)
    (hq : r.reqs[s.sub]? = some q) (hn : r.node? q.node = some n) (hon : r.interfaceOn = true) (h16 : q.op ≠ 16) (h17 : q.op ≠ 17)
    (hst : q.st = .performed) (hfirst : (r.reqs.take s.sub).any (fun p => p.node == q.node && p.fs == q.fs) = false) :
    exec .memReply s = .next (s.setRegion (r.replied s.sub q n)) := by
  show execMemReply s = _
  simp only [execMemReply, hr, hq, hn, hon, hst, hfirst, sendAll_eq]
  simp [h16, h17]
  rfl

theorem region_setRegion_site {s : State} {r g : Region} (hr : s.region s.site.rgn = some r) (hn : g.num = r.num) :
    (s.setRegion g).region s.site.rgn = some g := by
  rw [region_setRegion, if_pos (hn.trans (num_of_region _ _ _ hr)).symm, hr, Option.map_some]

/-! ### `join` nodes (R201, R229) -/

theorem dropWrites_nil (s : State) : s.dropWrites [] = s := by
  simp [State.dropWrites]

/-- An agent that has written to no other package has nothing to be told. -/
theorem farReleased_of_none {s : State} (agent : Nat) (h : s.farTo = []) : s.farReleased agent = some s := by
  have hs : { s with farTo := [] } = s := by rw [← h]
  simp [State.farReleased, h, dropWrites_nil, hs]

theorem joinFire_fires {s : State} {f : Fire} {t : Token} (hf : s.candidate 3 = some f) (ht : f.head 8 = some t)
    (hroom : f.can [8] = true) (hw : f.slot.extWave (tagSeq t.tag) = f.slot.wave)
    (hnext : (f.r.waveSt f.fs f.slot.wave).ready f.n.joinOrder f.n.joinPred = true) (hj : f.joinWaits f.slot.wave = false)
    (hsys : f.n.joinScope = .sys → s.farUnacked = [] ∧ s.farTo = []) :
    exec .joinFire s = .next (((s.releaseFrame f.slot.id f.n.joinScope (f.r.clusterOf f.n * 8)).setRegion
      (((f.take 8).send 8 (controlTok (t.data.toNat % 2) t.tag)).r.performed f.fs f.slot.wave f.n.joinOrder f.n.joinSucc)).fired
        s.site) := by
  refine atNode_fires hf ?_
  by_cases hs : f.n.joinScope = .sys
  · obtain ⟨hu, hto⟩ := hsys hs
    simp [ht, hroom, hw, hnext, hj, hs, hu, hto, farReleased_of_none _ hto]
  · have hs' : (f.n.joinScope == .sys) = false := beq_eq_false_iff_ne.mpr hs
    simp [ht, hroom, hw, hnext, hj, hs']

/-- Settles O45: each clause is the equation of its step above, with what the region that it leads to holds. -/
theorem memoryNodesOfTheFabric : Obligations.MemoryNodesOfTheFabric := by
  unfold Obligations.MemoryNodesOfTheFabric
  refine ⟨fun s f o idx off c b tg => streamWalkStart_starts, fun s f o idx off c tg => streamPoint_address, ?issue, ?performs,
    ?answered, ?fails, ?reply, fun s f t => joinFire_fires⟩
  case issue =>
    intro s f op i t hi hf hop ht hd hroom hw wave
    have he : exec i s = s.issueMem op := by
      rcases hi with ⟨rfl, rfl⟩ | ⟨rfl, rfl⟩ | ⟨rfl, rfl⟩ | ⟨rfl, rfl⟩ | ⟨rfl, rfl⟩ | ⟨rfl, rfl⟩ | ⟨rfl, rfl⟩ <;> rfl
    have hchan : f.memTaken.r.chan = (match f.n.memDataPort with
        | some p => ((f.take f.n.memAddrPort).take p).r.chan
        | none => (f.take f.n.memAddrPort).r.chan) := by
      unfold Fire.memTaken
      cases f.n.memDataPort <;> rfl
    exact ⟨_, _, f.memRequest op t, he.trans (issueMem_issues hf hop ht hd hroom hw), region_setRegion_fired hf rfl,
      rfl, rfl, rfl, rfl, rfl, rfl, rfl, rfl, rfl, rfl, rfl, hchan, rfl⟩
  case performs =>
    intro s u r q n q1 hr hq hn hon h16 h17 hwait hnext hcert hrun hp
    exact orderedRequestPerform_performs ⟨⟨hr, hq, hn, hon, hrun⟩, ⟨h16, h17⟩, hwait, hnext, hcert⟩ hp
  case answered =>
    intro s r q n hr hq hn hon h17 hsent hrun
    rw [orderedRequestPerform_sent ⟨hr, hq, hn, hon, hrun⟩ hsent]
    refine ⟨fun hu => ?_, fun hu hf => ?_, fun e hu hf hd => ?_⟩
    · rw [requestAnswered_waits hu]
    · rw [requestAnswered_performs h17 hu hf]
    · rw [requestAnswered_fails hu hf]
      exact congrArg _ (requestFailed_traps (s := s.dropWrites q.far) (q := { q with far := [] }) e hd h17)
  case fails =>
    intro s r q n e hr hq hn hon hd h16 h17 hwait hnext hcert hrun hp
    exact orderedRequestPerform_fails ⟨⟨hr, hq, hn, hon, hrun⟩, ⟨h16, h17⟩, hwait, hnext, hcert⟩ hd hp
  case reply =>
    intro s r q n hr hq hn hon h16 h17 hst hfirst
    exact ⟨_, r.replied s.sub q n, memReply_replies hr hq hn hon h16 h17 hst hfirst, rfl, region_setRegion_site hr rfl, rfl, rfl, rfl⟩

end Sys2Proof.Machine
end

section
/-! PROOFS. `loop`, `collect`, `conv`, `norm` and `dsq` nodes (O46): each step as the state that it leads to, and from these the
statement. -/

namespace Sys2Proof.Machine

/-! ### `loop` nodes (R191 to R194, R230, R231) -/

theorem loopStart_triggered {s : State} {f : Fire} {l : LoopSt} (hf : s.candidate 4 = some f) (hst : f.st = .loop l)
    (ha : l.active = false) (h9 : f.fed 9 = true) (hh : (f.head 9).isSome = true) :
    exec .loopStart s = .next ((f.startLoop l s).fired s.site) := by
  refine atNode_fires hf ?_
  simp [hst, ha, h9, hh]

/-- Without a carry record a walk starts at iteration 0 with the carries of its parameters. -/
theorem startLoop_first (s : State) (f : Fire) (l : LoopSt) (h : f.n.par 1 = 0) :
    f.startLoop l s = ((f.take 9).releases { LoopSt.zero with
      active := true, opened := true, carries := f.n.loopInit f.fs, walks := l.walks } 8).put s := by
  rw [Fire.startLoop, if_pos (beq_iff_eq.mpr h)]
  rfl

/-- A walk once a done token has counted toward an iteration. -/
def LoopSt.counted (l : LoopSt) (i : Nat) : LoopSt := { l with dones := assocSet l.dones i (((assoc l.dones i).getD 0) + 1) }

theorem loopDoneToken_takes {s : State} {f : Fire} {l : LoopSt} {t : Token} (hf : s.candidate 4 = some f) (hst : f.st = .loop l)
    (ht : f.head 8 = some t) :
    exec .loopDoneToken s = .next ((((f.take 8).set (.loop
      (((if l.active then l.iter (tagSeq t.tag) else none).map l.counted).getD l))).put s).fired s.site) := by
  refine atNode_fires hf ?_
  simp only [hst, ht]
  cases (if l.active then l.iter (tagSeq t.tag) else none) <;> rfl

/-- A walk that holds one more exit token. -/
def LoopSt.heldExit (l : LoopSt) (i : Nat) (t : Token) : LoopSt :=
  { l with exits := l.exits ++ [(i, t.data.toNat % 2 == 1 || tagErr t.tag)] }

/-- What the exit tokens that a walk holds decide: nothing yet, or the exit, at which its body is squashed. -/
def Fire.exitTaken (f : Fire) (l : LoopSt) (s : State) : State :=
  match l.decided with
  | none => ((f.take 0).set (.loop l)).put s
  | some n => s.setRegion (((f.take 0).set (.loop (l.exit n))).r.squash f.n.id f.n.loopBody f.fs (squashTags n l.next) ((n + 1) % 256))

theorem loopExitToken_takes {s : State} {f : Fire} {l : LoopSt} {t : Token} {i : Nat} (hf : s.candidate 4 = some f)
    (hst : f.st = .loop l) (ht : f.head 0 = some t) (ha : l.active = true) (he : l.exitAt = none) (hi : l.iter (tagSeq t.tag) = some i) :
    exec .loopExitToken s = .next ((f.exitTaken (l.heldExit i t) s).fired s.site) := by
  have hiter : (if l.active && l.exitAt.isNone then l.iter (tagSeq t.tag) else none) = some i := by simp [ha, he, hi]
  refine atNode_fires hf ?_
  simp only [hst, ht, hiter, Fire.exitTaken, LoopSt.heldExit]
  cases LoopSt.decided _ <;> rfl

/-- What the oldest iteration of a counted loop retires with. -/
structure Retires (s : State) (f : Fire) (l : LoopSt) : Prop where
  candidate : s.candidate 4 = some f
  state : f.st = .loop l
  active : l.active = true
  flying : l.oldest < l.next
  done : f.n.loopD ≤ (assoc l.dones l.oldest).getD 0
  carried : f.carryWaits l.oldest = false
  fixed : f.n.loopFixed = true

theorem mayRetire_of_retires {s : State} {f : Fire} {l : LoopSt} (h : Retires s f l) : f.mayRetire l = true := by
  obtain ⟨-, -, ha, hfly, hd, hc, hfix⟩ := h
  simp [Fire.mayRetire, ha, hfly, hd, hc, hfix]

/-- The last iteration ends the walk with its exit token. -/
theorem iterationRetire_last {s : State} {f : Fire} {l : LoopSt} (h : Retires s f l) (hl : l.oldest + 1 = f.n.loopCount)
    (hroom : f.can [0] = true) :
    exec .iterationRetire s = .next ((((f.send 0 (l.exitToken l.oldest f.fs)).set
      (.loop { LoopSt.zero with opened := true, walks := l.walks + 1 })).put s).fired s.site) := by
  refine atNode_fires h.candidate ?_
  simp [h.state, mayRetire_of_retires h, h.fixed, hl, hroom]

/-- An earlier one makes room in the window, and the node releases what it then may. -/
theorem iterationRetire_goesOn {s : State} {f : Fire} {l : LoopSt} (h : Retires s f l) (hl : l.oldest + 1 ≠ f.n.loopCount) :
    exec .iterationRetire s = .next (((f.releases { l with
      oldest := l.oldest + 1, dones := assocDel l.dones l.oldest, exits := l.exits.filter (fun e => e.1 != l.oldest) } 8).put s).fired
        s.site) := by
  refine atNode_fires h.candidate ?_
  simp [h.state, mayRetire_of_retires h, h.fixed, hl]

theorem carryForward_sends {s : State} {f : Fire} {l : LoopSt} {c : Nat × Nat × Token} {cs : List (Nat × Nat × Token)}
    (hf : s.candidate 4 = some f) (hst : f.st = .loop l) (hc : l.carries = c :: cs) (ha : l.active = true) (hn : c.2.1 < l.next)
    (hroom : f.can [carryPort c.1] = true) :
    exec .carryForward s = .next ((((f.send (carryPort c.1)
      { c.2.2 with tag := mkTag (tagDims c.2.2.tag) (tagErr c.2.2.tag) c.2.1 f.fs }).set (.loop { l with carries := cs })).put s).fired
        s.site) := by
  refine atNode_fires hf ?_
  simp [hst, hc, ha, hn, hroom, dropFirst]

/-! ### `collect` nodes (R198, R232) -/

section
variable {s : State} {f : Fire} {ex a : Nat} {t : Token}

theorem collectStep_sends (hf : s.candidate 5 = some f) (hst : f.st = .collect ex [])
    (hh : f.n.colArms.filterMap (fun a => (f.head (f.n.colPort a)).map (fun t => (a, t))) = [(a, t)]) (hdue : tagSeq t.tag = ex)
    (hroom : f.can [f.n.colOut] = true) :
    exec .collectStep s = .next (((((f.take (f.n.colPort a)).send f.n.colOut t).set (.collect ((ex + 1) % 256) [])).put s).fired
      s.site) := by
  refine atNode_fires hf ?_
  simp only [hst, hh, List.find?_nil]
  simp [hdue, hroom]

theorem collectStep_parks (hf : s.candidate 5 = some f) (hst : f.st = .collect ex [])
    (hh : f.n.colArms.filterMap (fun a => (f.head (f.n.colPort a)).map (fun t => (a, t))) = [(a, t)]) (hdue : tagSeq t.tag ≠ ex) :
    exec .collectStep s = .next ((((f.take (f.n.colPort a)).set (.collect ex [(a, t)])).put s).fired s.site) := by
  refine atNode_fires hf ?_
  simp only [hst, hh, List.find?_nil]
  simp [hdue, NodeRec.colB]

end

/-! ### `conv` and `norm` nodes (R233, R234) -/

theorem convFire_converts {s : State} {f : Fire} {t : Token} {dt st : ElTy} {rnd : Rnd} (hf : s.candidate 6 = some f)
    (hvec : bitOf (f.n.par 0) 12 = false) (ht : f.head 0 = some t) (hdt : ElTy.ofCode (field (f.n.par 0) 4 4) = some dt)
    (hst : ElTy.ofCode (field (f.n.par 0) 0 4) = some st) (hrnd : Rnd.ofCode (field (f.n.par 0) 8 3) = some rnd)
    (hroom : f.can [0] = true) :
    exec .convFire s = .next ((((f.take 0).send 0 (tokFor 0
      (convPlace dt 64 (cvtElem dt st rnd (bitOf (f.n.par 0) 11) (t.data.toNat % 2 ^ st.width))) t.mask t.tag)).put s).fired s.site) := by
  refine atNode_fires hf ?_
  simp [hvec, ht, hdt, hst, hrnd, hroom]

theorem normFire_normalizes {s : State} {f : Fire} {t : Token} (hf : s.candidate 7 = some f) (hacc : bitOf (f.n.par 0) 1 = false)
    (ht : f.head 4 = some t) (hroom : f.can [4] = true) :
    exec .normFire s = .next ((((f.take 4).send 4 (vectorTok (packElems 32
      [csNorm (bitOf (f.n.par 0) 0) (csHalf t.data.toNat 0), csNorm (bitOf (f.n.par 0) 0) (csHalf t.data.toNat 1)]) 0x0003
      (orErr t.tag false))).put s).fired s.site) := by
  refine atNode_fires hf ?_
  simp [hacc, ht, hroom]

/-! ### `dsq` nodes (R235) -/

theorem dsqTwo_of_sqrt {n : NodeRec} (h : n.dsqOp = 1) : n.dsqTwo = false := by
  simp [NodeRec.dsqTwo, h]

theorem dsqEnter_enters {s : State} {f : Fire} {p : List (Token × Token)} {a : Token} (hf : s.candidate 8 = some f)
    (hst : f.st = .dsq p) (ha : f.head 4 = some a) (hop : f.n.dsqOp = 1) (hroom : f.can [4] = true) (hpipe : f.pipeUsed < 12) :
    exec .dsqEnter s = .next ((((f.take 4).set (.dsq (p ++ [(a, a)]))).put s).fired s.site) := by
  refine atNode_fires hf ?_
  simp [hst, ha, dsqTwo_of_sqrt hop, hroom, hpipe]

/-- The token of the oldest work of a `dsq` node. -/
def Fire.dsqToken (f : Fire) (a b : Token) : Token :=
  let p := f.n.par 0
  let m := if f.n.dsqTwo then a.mask &&& b.mask else a.mask
  let lane (i : Nat) : Nat × Bool :=
    dsqLane f.n.dsqOp (p / 2 ^ 32) (bitOf p 8) (bitOf p 7) ((Rnd.ofCode (field p 4 3)).getD .rne) (elemOf 32 a.data.toNat i)
      (elemOf 32 b.data.toNat i) f.n.dsqPasses (elemOf 32 b.data.toNat i, false)
  vectorTok (buildElems 32 16 (fun i => (lane i).1)) m (orErr a.tag
    ((f.n.dsqTwo && tagErr b.tag) || ((List.range 16).filter (fun i => m.getLsbD i)).any (fun i => (lane i).2)))

theorem dsqExit_sends {s : State} {f : Fire} {a b : Token} {p : List (Token × Token)} (hf : s.candidate 8 = some f)
    (hst : f.st = .dsq ((a, b) :: p)) (hroom : f.can [4] = true) :
    exec .dsqExit s = .next ((((f.send 4 (f.dsqToken a b)).set (.dsq p)).put s).fired s.site) := by
  refine atNode_fires hf ?_
  simp only [hst, hroom, Bool.not_true, Bool.false_eq_true, if_false]
  rfl

theorem num_setNst (r : Region) (n fs : Nat) (x : NSt) : (r.setNst n fs x).num = r.num := by
  unfold Region.setNst
  split <;> rfl

theorem chan_setNst (r : Region) (n fs : Nat) (x : NSt) : (r.setNst n fs x).chan = r.chan := by
  unfold Region.setNst
  split <;> rfl

theorem flight_setNst (r : Region) (n fs : Nat) (x : NSt) : (r.setNst n fs x).flight = r.flight := by
  unfold Region.setNst
  split <;> rfl

/-- Settles O46: each clause is the equation of its step above. -/
theorem flowNodesOfTheFabric : Obligations.FlowNodesOfTheFabric := by
  unfold Obligations.FlowNodesOfTheFabric
  refine ⟨fun s f l => loopStart_triggered, startLoop_first, ?done, ?exit, ?retire, fun s f l c cs => carryForward_sends, ?collect,
    fun s f t dt st rnd => convFire_converts, fun s f t => normFire_normalizes, fun s f p a => dsqEnter_enters, ?dsqExit⟩
  case done =>
    intro s f l t hf hst ht
    rw [loopDoneToken_takes hf hst ht]
    refine ⟨fun i ha hi => ?_, fun h => ?_⟩
    · rw [if_pos ha, hi]
      rfl
    · have hnone : (if l.active then l.iter (tagSeq t.tag) else none) = none := by
        rcases h with ha | hi
        · simp [ha]
        · simp [hi]
      rw [hnone]
      rfl
  case exit =>
    intro s f l t i hf hst ht ha he hi
    have h := loopExitToken_takes hf hst ht ha he hi
    refine ⟨fun hd => ?_, fun n hd => ?_⟩
    · rwa [Fire.exitTaken, LoopSt.heldExit, hd] at h
    · rwa [Fire.exitTaken, LoopSt.heldExit, hd] at h
  case retire =>
    intro s f l hf hst ha hfly hd hc hfix
    have h : Retires s f l := ⟨hf, hst, ha, hfly, hd, hc, hfix⟩
    exact ⟨iterationRetire_last h, iterationRetire_goesOn h⟩
  case collect =>
    intro s f ex a t hf hst hh
    exact ⟨collectStep_sends hf hst hh, collectStep_parks hf hst hh⟩
  case dsqExit =>
    intro s f a b p hf hst hroom
    exact ⟨_, _, dsqExit_sends hf hst hroom, rfl, region_setRegion_fired hf (num_setNst _ _ _ _), chan_setNst _ _ _ _,
      f.dsqToken a b, rfl, flight_setNst _ _ _ _⟩

end Sys2Proof.Machine
end

section
/-! PROOFS. Nodes that meet the outside of the fabric (O48): each step as the state that it leads to, and from these the
statement. -/

namespace Sys2Proof.Machine

/-! ### The data slot of a ring (R239, R240) -/

theorem slotBytes_aligned (s : State) (v : View) {a : Word} (ha : a.toNat % 64 = 0) : s.slotBytes v a = s.engBytes v a 64 := by
  simp [State.slotBytes, ha]

theorem slotBytes_misaligned (s : State) (v : View) {a : Word} (ha : a.toNat % 64 ≠ 0) :
    s.slotBytes v a = .error (a, AK.load.misalignedCause) := by
  simp [State.slotBytes, ha]

theorem putSlot_aligned (s : State) (v : View) (ag : Agent) {a : Word} (bs : List Byte) (ha : a.toNat % 64 = 0) :
    s.putSlot v ag a bs = s.engPut v ag a bs := by
  simp [State.putSlot, ha]

/-- An end of stream has no slot, whose alignment is not looked at. -/
theorem putSlot_nil (s : State) (v : View) (ag : Agent) (a : Word) : s.putSlot v ag a [] = (s, none) := rfl

/-! ### Writes to other packages (R246) -/

theorem newWrites_self (s : State) : s.newWrites s = [] := by
  simp [State.newWrites]

theorem sent_self (f : Fire) (s : State) : f.sent s s = f := by
  simp [Fire.sent, newWrites_self]

/-! ### `ingress` nodes (R239) -/

/-- An `ingress` node at an open ring, with room, whose control word is FULL. -/
structure WordFull (s : State) (f : Fire) (i pa : Nat) : Prop where
  candidate : s.candidate 11 = some f
  state : ∃ since, f.st = .ring i false since
  room : f.can [0, 4, 8] = true
  word : s.ctlWord f.view .load (f.ringCtl i) = .ok pa
  full : s.mem.isFull pa = true

/-- The word of an end of stream is taken alone, and the node stops. -/
theorem ingressTake_endOfStream {s : State} {f : Fire} {i pa : Nat} (h : WordFull s f i pa) (hw : s.mem.read pa 8 = 1) :
    exec .ingressTake s = .next ((((f.send 8 (controlTok 0 f.fresh)).set (.ring ((i + 1) % f.n.ringSlots) true none)).put
      (s.setPresence pa false)).fired s.site) := by
  obtain ⟨hf, ⟨since, hst⟩, hroom, hpa, hfull⟩ := h
  refine atNode_fires hf ?_
  simp only [hst, hroom, hpa, hfull, hw]
  rfl

/-- What a data word gives by what the read of its slot answers: the slot's token, or the fault, which leaves the word FULL. -/
def Fire.slotTaken (f : Fire) (s : State) (i pa : Nat) : State :=
  match (s.setPresence pa false).slotBytes f.view (f.ringData i) with
  | .error e => s.nodeFault f e.2 e.1
  | .ok (u, bs) => ((f.send (if f.n.ringVec then 4 else 0) (ringToken f.n.ringVec (s.mem.read pa 8) (bytesNat bs) f.fs)).set
      (.ring ((i + 1) % f.n.ringSlots) false none)).put u

theorem ingressTake_data {s : State} {f : Fire} {i pa : Nat} (h : WordFull s f i pa) (hw : s.mem.read pa 8 % 256 = 0) :
    exec .ingressTake s = .next ((f.slotTaken s i pa).fired s.site) := by
  obtain ⟨hf, ⟨since, hst⟩, hroom, hpa, hfull⟩ := h
  refine atNode_fires hf ?_
  simp only [hst, hroom, hpa, hfull, hw, Fire.slotTaken]
  cases (s.setPresence pa false).slotBytes f.view (f.ringData i) <;> rfl

/-! ### `egress` nodes (R240) -/

/-- An `egress` node with no write under way, whose control word is EMPTY, and a token that no loop may still squash. -/
structure WordEmpty (s : State) (f : Fire) (i pa : Nat) (t : Token) : Prop where
  certain : f.speculative t.tag = false
  word : s.ctlWord f.view .store (f.ringCtl i) = .ok pa
  empty : s.mem.isFull pa = false
  idle : f.sending = none

/-- With no write under way no request stands for one, and the control word follows without more. -/
theorem fillWord_of_idle {f : Fire} (s : State) (port i pa : Nat) (st : Bool) (w : Nat) (h : f.sending = none) :
    f.fillWord s port i pa st w = ((f.take port).set (.ring ((i + 1) % f.n.ringSlots) st none)).put
      (((s.releaseFrame f.slot.id .die (f.r.clusterOf f.n * 8)).putNat f.agent (.dram pa) 8 w).setPresence pa true) := by
  have hreqs : f.r.reqs.filter (fun q => !(q.op == 17 && q.node == f.n.id && q.fs == f.fs)) = f.r.reqs :=
    List.filter_eq_self.mpr fun q hq => by
      simpa only [Bool.not_eq_true', Bool.not_eq_true] using List.find?_eq_none.mp h q hq
  rw [Fire.fillWord, hreqs]

/-- A slot at this package is filled at once; one at another waits for its acknowledgement. -/
theorem fill_writes {s u : State} {f : Fire} {i pa : Nat} {t : Token} (h : WordEmpty s f i pa t) (port : Nat) (st : Bool)
    (since : Option Nat) (w : Nat) {bs : List Byte} (hu : s.putSlot f.view f.agent (f.ringData i) bs = (u, none)) :
    f.fill s port i st since t w bs
      = some (if (s.newWrites u).isEmpty then f.fillWord u port i pa st w else (f.sent s u).put u) := by
  obtain ⟨hspec, hpa, hempty, hidle⟩ := h
  simp only [Fire.fill, hspec, hpa, hempty, hidle, hu, Bool.false_eq_true, if_false]

theorem egressWrite_writes {s u : State} {f : Fire} {i pa : Nat} {st : Bool} {since : Option Nat} {t : Token}
    (hf : s.candidate 12 = some f) (hst : f.st = .ring i st since) (ht : f.head (if f.n.ringVec then 4 else 0) = some t)
    (h : WordEmpty s f i pa t) (ha : (f.ringData i).toNat % 64 = 0)
    (hu : s.engPut f.view f.agent (f.ringData i) (natBytes 64 (if f.n.ringVec then t.data.toNat else t.data.toNat % 2 ^ 64))
      = (u, none)) :
    exec .egressWrite s = .next ((if (s.newWrites u).isEmpty then f.fillWord u (if f.n.ringVec then 4 else 0) i pa st
      (ctlTagBits t.tag + t.mask.toNat * 2 ^ 8) else (f.sent s u).put u).fired s.site) := by
  refine atNode_fires hf ?_
  simp only [hst, ht]
  exact fill_writes h _ _ _ _ ((putSlot_aligned _ _ _ _ ha).trans hu)

theorem egressEndOfStream_writes {s : State} {f : Fire} {i pa : Nat} {st : Bool} {since : Option Nat} {t : Token}
    (hf : s.candidate 12 = some f) (hst : f.st = .ring i st since) (hd : f.head (if f.n.ringVec then 4 else 0) = none)
    (ht : f.head 8 = some t) (h : WordEmpty s f i pa t) :
    exec .egressEndOfStream s = .next ((f.fillWord s 8 i pa st 1).fired s.site) := by
  refine atNode_fires hf ?_
  simp only [hst, hd, ht]
  rw [fill_writes h 8 st since 1 (putSlot_nil _ _ _ _), newWrites_self]
  rfl

/-! ### Waits at a ring (R239, R240) -/

theorem ringWaitExpiry_ends {s : State} {f : Fire} {i : Nat} {st : Bool} {since : Nat} (hn : s.siteNode = some f)
    (hst : f.st = .ring i st (some since)) (hkind : f.n.kind = 11 ∨ f.n.kind = 12) (hfires : f.r.fires = true)
    (hrun : f.slot.st = .running) (hlim : since + f.n.ringLimit ≤ s.cycle) :
    exec .ringWaitExpiry s = .next (s.endFrame f.r.num f.fs Status.timeout.byte) := by
  show execRingWaitExpiry s = _
  simp [execRingWaitExpiry, hn, hst, hkind, hfires, hrun, hlim]

/-! ### `sink` nodes (R241) -/

/-- A `sink` without a log takes the first head after the last one that it took. -/
theorem sinkConsume_takes {s : State} {f : Fire} {last p : Nat} {t : Token} (hf : s.candidate 13 = some f)
    (hst : f.st = .sink last) (hlog : f.n.par 0 = 0)
    (hp : ((List.range 10).map (fun k => (last + 1 + k) % 10)).find? (fun p => (f.head p).isSome) = some p)
    (ht : f.head p = some t) (herr : tagErr t.tag = false)
    (hspec : f.speculative t.tag = false ∨ bitOf (f.n.par 1) 8 = false) (hidle : f.sending = none) :
    exec .sinkConsume s = .next ((((f.take p).set (.sink p)).put s).fired s.site) := by
  have hfree : (f.speculative t.tag && bitOf (f.n.par 1) 8) = false := Bool.and_eq_false_iff.mpr hspec
  refine atNode_fires hf ?_
  simp [hst, hp, ht, hlog, hfree, hidle, herr, sent_self]

/-! ### `mxport` nodes (R242) -/

/-- The command of a block that an `mxport` node with its parameters alone has read. -/
def Fire.mxCommand (f : Fire) (t : Token) (bs : List Byte) : MxCmd :=
  { form := mxFormOf (f.n.par 0 % 4), blk := BitVec.ofNat 512 (bytesNat bs), fmt := BitVec.ofNat 64 (f.n.par 1),
    scale := BitVec.ofNat 64 (f.n.par 2), zero := BitVec.ofNat 64 (f.n.par 3), who := .port f.r.num f.n.id f.fs t.tag,
    limit := 2 ^ 24, rights := f.slot.rights }

theorem mxportFire_queues {s u : State} {f : Fire} {t : Token} {bs : List Byte} (hf : s.candidate 14 = some f)
    (ht : f.head 0 = some t) (hscale : bitOf (f.n.par 0) 2 = false) (hzero : bitOf (f.n.par 0) 3 = false)
    (hspec : f.speculative t.tag = false) (hroom : f.can [0] = true) (hport : s.portCount (f.r.clusterOf f.n) < 2)
    (herr : tagErr t.tag = false) (hlt : t.data.toNat < 2 ^ 64) (ha : t.data.toNat % 64 = 0)
    (hbs : s.engBytes f.view (BitVec.ofNat 64 t.data.toNat) 64 = .ok (u, bs))
    (hok : mxBlockOk (mxFormOf (f.n.par 0 % 4)) (bytesNat bs) s.pkg.toNat (.port (f.r.clusterOf f.n)) (BitVec.ofNat 64 (f.n.par 1))
      (BitVec.ofNat 64 (f.n.par 2)) (BitVec.ofNat 64 (f.n.par 3)) = true) :
    exec .mxportFire s = .next (((((f.take 0).addReq (f.mxReq t.tag none)).put u).modClu (f.r.clusterOf f.n)
      (fun k => { k with portQ := k.portQ ++ [f.mxCommand t bs] })).fired s.site) := by
  have haddr : (BitVec.ofNat 64 t.data.toNat).toNat % 64 = 0 := by rwa [BitVec.toNat_ofNat, Nat.mod_eq_of_lt hlt]
  have hfree : ¬ 2 ≤ s.portCount (f.r.clusterOf f.n) := Nat.not_le.mpr hport
  refine atNode_fires hf ?_
  simp only [ht, hscale, hzero, hspec, hroom, hfree, herr, haddr, hbs, hok, List.append_nil, List.find?_cons, List.find?_nil,
    bne_self_eq_false, Bool.not_true, Bool.false_and, Bool.or_self, Bool.false_eq_true, decide_false, if_false]
  rfl

theorem mxportCompletion_sends {s : State} {f : Fire} {q : MReq} (hn : s.siteNode = some f)
    (hq : f.r.reqs.find? (fun q => q.node == f.n.id && q.op == opMxport) = some q) (hon : f.r.interfaceOn = true)
    (hdone : q.st = .performed) (hfs : q.fs = f.fs) (hrun : f.slot.st = .running) :
    exec .mxportCompletion s = .next (s.setRegion (({ f.r with
      reqs := dropFirst (fun q => q.node == f.n.id && q.op == opMxport) f.r.reqs } : Region).send f.n 0 0
        (scalarTok q.val.toNat q.tag))) := by
  show execMxportCompletion s = _
  simp [execMxportCompletion, hn, hq, hon, hdone, hfs, hrun]

/-! ### `acc` nodes (R243, R244) -/

/-- A scalar key below the size of the table counts in its entry, and the entry's new value is sent. -/
theorem accUpdate_counts {s u : State} {f : Fire} {t : Token} {y : Nat} (hf : s.candidate 15 = some f) (hvec : f.n.accVec = false)
    (hop : f.n.accOp = 6) (ht : f.head 0 = some t) (hspec : f.speculative t.tag = false) (hroom : f.can [0, 1, 4] = true)
    (herr : tagErr t.tag = false) (hk : t.data.toNat % 2 ^ 64 < f.n.accT)
    (hfault : s.firstFault f.view .amo f.n.accW [f.slot.based (f.n.par 0) (field (f.n.par 1) 24 8)
      + BitVec.ofNat 64 (f.n.accW * (t.data.toNat % 2 ^ 64))] = none)
    (hacc : ∀ v, s.accumulate f (f.slot.based (f.n.par 0) (field (f.n.par 1) 24 8)) [(0, t.data.toNat % 2 ^ 64, v)]
      = .ok (u, [(0, y)])) :
    exec .accUpdate s = .next ((((f.take 0).send 0 (tokFor 0 y 1 t.tag)).put u).fired s.site) := by
  have hgood : [(0, t.data.toNat % 2 ^ 64)].filter (fun k => decide (k.2 < f.n.accT)) = [(0, t.data.toNat % 2 ^ 64)] := by
    simp only [List.filter_cons, hk, decide_true, if_true, List.filter_nil]
  have hbad : [(0, t.data.toNat % 2 ^ 64)].find? (fun k => decide (f.n.accT ≤ k.2)) = none := by
    simp only [List.find?_cons, Nat.not_le.mpr hk, decide_false, List.find?_nil]
  refine atNode_fires hf ?_
  simp only [hvec, hop, ht, hspec, hroom, herr, hgood, hbad, hfault, hacc, List.map_cons, List.map_nil, beq_self_eq_true,
    Bool.not_true, Bool.false_and, Bool.or_self, Bool.false_eq_true, if_false, List.isEmpty_cons]
  rfl

/-- Settles O48: each clause is the equation of its step above. -/
theorem nodesThatMeetTheOutside : Obligations.NodesThatMeetTheOutside := by
  unfold Obligations.NodesThatMeetTheOutside
  refine ⟨fun s f i sn pa hf hst hroom hpa hfull => ingressTake_endOfStream ⟨hf, ⟨sn, hst⟩, hroom, hpa, hfull⟩, ?slot, ?misaligned,
    ?egress, ?endOfStream, fun s f i st since => ringWaitExpiry_ends, fun s f last p t => sinkConsume_takes,
    fun s u f t bs => mxportFire_queues, fun s f q => mxportCompletion_sends, fun s u f t y => accUpdate_counts⟩
  case slot =>
    intro s f i sn pa u bs w hf hst hroom hpa hfull hw ha hbs
    rw [ingressTake_data ⟨hf, ⟨sn, hst⟩, hroom, hpa, hfull⟩ hw, Fire.slotTaken, slotBytes_aligned _ _ ha, hbs]
  case misaligned =>
    intro s f i sn pa hf hst hroom hpa hfull hw ha
    rw [ingressTake_data ⟨hf, ⟨sn, hst⟩, hroom, hpa, hfull⟩ hw, Fire.slotTaken, slotBytes_misaligned _ _ ha]
  case egress =>
    intro s u f i st sn t pa port hf hst ht hspec hpa hempty hidle ha hu
    rw [egressWrite_writes hf hst ht ⟨hspec, hpa, hempty, hidle⟩ ha hu, fillWord_of_idle _ _ _ _ _ _ hidle]
    refine ⟨fun hfar => ?_, fun hnear => ?_⟩
    · rw [if_neg (by simpa using hfar)]
    · rw [if_pos (by simp [hnear])]
  case endOfStream =>
    intro s f i st sn t pa hf hst hd ht hspec hpa hempty hidle
    rw [egressEndOfStream_writes hf hst hd ht ⟨hspec, hpa, hempty, hidle⟩, fillWord_of_idle _ _ _ _ _ _ hidle]

end Sys2Proof.Machine
end

section
/-! PROOFS. The status word of the copy engine (O29). -/

namespace Sys2Proof.Machine

/-- The word that `cpy.stat` reads (R265). -/
def copyStatWord (c : Core) : Nat := (if c.copyQ = [] then 0 else c.copyDone % 2 ^ 32) * 2 ^ 32 + c.copyQ.length

theorem cpyStat_reads (s : State) (xd : BitVec 5) :
    exec (.cpyStat xd) s = .next ((s.setX xd (BitVec.ofNat 64 (copyStatWord (s.core (coreOf s.cur))))).retire 8) := by
  show execCpyStat xd s = _
  cases h : (s.core (coreOf s.cur)).copyQ <;> simp [execCpyStat, copyStatWord, h]

/-- The fields of the word, which two queued commands and a count of 32 bits leave apart. -/
theorem copyStatWord_fields {c : Core} (h : c.copyQ.length ≤ 2) :
    (BitVec.ofNat 64 (copyStatWord c)).toNat % 4 = c.copyQ.length
      ∧ (BitVec.ofNat 64 (copyStatWord c)).toNat / 4 % 2 ^ 30 = 0
      ∧ (BitVec.ofNat 64 (copyStatWord c)).toNat / 2 ^ 32 = if c.copyQ = [] then 0 else c.copyDone % 2 ^ 32 := by
  have hd : (if c.copyQ = [] then 0 else c.copyDone % 2 ^ 32) < 2 ^ 32 := by split <;> omega
  rw [BitVec.toNat_ofNat, copyStatWord]
  generalize (if c.copyQ = [] then 0 else c.copyDone % 2 ^ 32) = d at hd ⊢
  omega

/-- Settles O29: the word written is the one whose fields the lemma above reads back. -/
theorem copyStatusWord : Obligations.CopyStatusWord := by
  unfold Obligations.CopyStatusWord
  exact ⟨fun s xd h => ⟨_, _, cpyStat_reads s xd, writesX_retire .., copyStatWord_fields h⟩, fun xd => rfl⟩

end Sys2Proof.Machine
end

section
/-! PROOFS. Fences and releases (O14). -/

namespace Sys2Proof.Machine

/-! ### Releases of a thread with nothing outstanding (R338, R349) -/

/-- A fold that appends each entry to the notes of writes to other packages appends them all. -/
theorem foldl_farTo_append {f : State → FarTo → State} {l : List FarTo} (s : State) (acc : List FarTo)
    (hf : ∀ u : State, ∀ e ∈ l, f u e = { u with farTo := u.farTo ++ [e] }) :
    l.foldl f { s with farTo := acc } = { s with farTo := acc ++ l } := by
  induction l generalizing acc with
  | nil => rw [List.foldl_nil, List.append_nil]
  | cons e r ih =>
    rw [List.foldl_cons, hf _ e List.mem_cons_self, ih _ (fun u x hx => hf u x (List.mem_cons_of_mem e hx)), List.append_assoc]
    rfl

/-- A release goes to no other package for an agent that has written to none. -/
theorem releaseFar_of_no_own_writes {s : State} {a : Nat} (sys : Bool) (n : Nat) (h : ∀ e ∈ s.farTo, e.agent ≠ a) :
    s.releaseFar a sys n = s :=
  foldl_farTo_append s [] (fun u e he => if_pos (by simp [h e he]))

theorem farReleased_of_no_own_writes {s : State} {a : Nat} (h : ∀ e ∈ s.farTo, e.agent ≠ a) : s.farReleased a = some s := by
  have hnone : s.farTo.filter (fun e => e.agent == a) = [] := by simpa using h
  have hkeep : (s.farTo.filter (fun e => !(e.agent == a && e.id.isSome && !e.fresh))).map (fun e =>
      if e.agent == a then { e with id := none } else e) = s.farTo := by
    rw [List.filter_eq_self.mpr (fun e he => by simp [h e he])]
    exact (List.map_congr_left (fun e he => by simp [h e he])).trans (List.map_id _)
  have hdrop : s.dropWrites [] = s := by simp [State.dropWrites]
  simp only [State.farReleased, hnone, List.filterMap_nil, List.any_nil, Bool.false_eq_true, if_false, hkeep, hdrop]

theorem awaitReleased_of_no_own_writes {s : State} (sys : Bool) (h : ∀ e ∈ s.farTo, e.agent ≠ tidNo s.tid) :
    s.awaitReleased sys = .ok s := by
  have hr := releaseFar_of_no_own_writes sys s.me.u.waitlim.toNat h
  have ht : s.tidOf s.cur = s.tid := rfl
  cases sys with
  | false => exact congrArg Except.ok hr
  | true => simp only [State.awaitReleased, ht, hr, farReleased_of_no_own_writes h, Bool.not_true, Bool.false_eq_true, if_false]

theorem tid_setMe_me (s : State) : (s.setMe s.me).tid = s.tid := by
  simp only [State.tid, State.tidOf]
  exact congrArg (Slot.tid · s.cur) (me_setMe s s.me)

/-- No store is posted, so none is to another package. -/
theorem awaitReleases_of_none_posted {s : State} (hp : s.me.posted = []) : s.awaitReleases = .ok s := by
  have hslot : (s.slot s.cur).posted = [] := hp
  have hs : s.settleFar s.cur = s := settleFar_of_near (by rw [hslot]; exact fun p h => absurd h List.not_mem_nil)
  simp only [State.awaitReleases, hs, hp, List.any_nil, Bool.false_eq_true, if_false]

/-- A thread with nothing for a release to wait for. -/
structure Released (s : State) : Prop where
  posted : s.me.posted = []
  held : s.me.held = []
  refs : s.me.refHeld = []
  subs : ∀ c ∈ s.cores, c.2.subs = []
  far : ∀ e ∈ s.farTo, e.agent ≠ tidNo s.tid

/-- At `.thr` a held store is all that stops a release. -/
theorem release_thr (s : State) : s.release .thr
    = if s.me.held.isEmpty then (s.releaseSubs s.cur .thr).awaitReleased false else .error (s.raiseDeferred s.cur) := rfl

theorem release_thr_of_released {s : State} (h : Released s) : s.release .thr = .ok s := by
  have hs : s.releaseSubs s.cur .thr = s := flushSubs_of_no_subs _ _ h.subs
  rw [release_thr, h.held, hs]
  exact awaitReleased_of_no_own_writes false h.far

theorem release_of_released {s : State} {sc : Scope} (h : Released s) (hsc : sc ≠ .thr) : s.release sc = .ok (s.setMe s.me) := by
  have hg := syncGate_of_none_posted h.posted h.held
  have hme : (s.setMe s.me).me = s.me := me_setMe ..
  have hready : (s.setMe s.me).serveReady s.cur = s.setMe s.me :=
    (serveReady_of_none (s := s.setMe s.me) ((congrArg Slot.refHeld hme).trans h.refs)).trans (setMe_me_of_syncGate hg)
  have hs : (s.setMe s.me).releaseSubs s.cur sc = s.setMe s.me := flushSubs_of_no_subs _ _ h.subs
  have hfar : (s.setMe s.me).awaitFar = .ok (s.setMe s.me) := awaitFar_of_none_posted (by rw [hme, h.posted]) (by rw [hme, h.held])
  have hrel : (s.setMe s.me).awaitReleases = .ok (s.setMe s.me) := awaitReleases_of_none_posted (by rw [hme, h.posted])
  rw [State.release, if_neg (by simpa using hsc), hg, ok_bind]
  simp only [hready, hme, h.held, h.refs, hs, hfar, hrel, List.isEmpty_nil, Bool.not_true, Bool.false_eq_true, if_false, if_true,
    ok_bind, ite_self]
  exact awaitReleased_of_no_own_writes _ (by rw [tid_setMe_me]; exact h.far)

/-! ### Fences (R130, R349) -/

theorem fenceScope_releases {s u : State} {sc : Scope} (h : s.release sc = .ok u) : exec (.fenceScope sc) s = .next (u.retire 4) := by
  show execFenceScope sc s = _
  rw [execFenceScope, h, ok_bind, done_ok]

theorem fence_releases {s u : State} (fm pred succ : BitVec 4) (h : s.release .pkg = .ok u) :
    exec (.fence fm pred succ) s = .next (u.retire 4) := by
  show execFence fm pred succ s = _
  rw [execFence, h, ok_bind, done_ok]

/-- The state in which a thread alone has trapped at its oldest held store. -/
def State.deferredAt (s : State) (a : Word) : State :=
  (s.dropAsks (tidNo s.tid)).modMe (·.takeTrap s.tick { cause := causeDeferred, tval := a })

theorem raiseDeferred_traps {s : State} {h : Held} {r : List Held} (hh : s.me.held = h :: r) (hg : s.me.gang = none)
    (hw : s.me.wait = none) : s.raiseDeferred s.cur = s.deferredAt h.addr := by
  have hslot : (s.slot s.cur).held = h :: r := hh
  rw [State.raiseDeferred, hslot]
  exact trap_of_no_gang _ hg hw rfl

/-- Serving no posted store changes nothing of a trap that follows. -/
theorem deferredAt_setMe_me (s : State) (a : Word) : (s.setMe s.me).deferredAt a = s.deferredAt a := by
  rw [State.deferredAt, tid_setMe_me]
  exact modMe_setMe (s.dropAsks (tidNo s.tid)) s.me _

/-- A held store stops a release at every scope. -/
theorem release_held {s : State} {h : Held} {r : List Held} (sc : Scope) (hp : s.me.posted = []) (hh : s.me.held = h :: r)
    (hg : s.me.gang = none) (hw : s.me.wait = none) : s.release sc = .error (s.deferredAt h.addr) := by
  by_cases hsc : sc = .thr
  · subst hsc
    rw [release_thr, hh, raiseDeferred_traps hh hg hw]
    rfl
  · have hme : (s.setMe s.me).me = s.me := me_setMe ..
    have hgate : s.syncGate = .error (s.deferredAt h.addr) := by
      have hslot : ((s.setMe s.me).slot s.cur).held = h :: r := (congrArg Slot.held hme).trans hh
      have ht : (s.setMe s.me).raiseDeferred s.cur = (s.setMe s.me).deferredAt h.addr :=
        raiseDeferred_traps (by rw [hme, hh]) (by rw [hme, hg]) (by rw [hme, hw])
      simp only [State.syncGate, drain_of_none_posted hp, hslot, List.isEmpty_cons, Bool.false_eq_true, if_false, ht,
        deferredAt_setMe_me]
    rw [State.release, if_neg (by simpa using hsc), hgate]
    rfl

theorem fenceI_empties {s : State} (hp : s.me.posted = []) :
    exec .fenceI s = .next (((s.setMe s.me).modCore (coreOf s.cur) (fun c => { c with icache := [] })).retire 4) := by
  show execFenceI s = _
  rw [execFenceI, drain_of_none_posted hp]

/-- Settles O14: a release with nothing outstanding leaves its thread as it is, one over a held store traps, and each fence is its
release. -/
theorem releasesWaitForStores : Obligations.ReleasesWaitForStores := by
  unfold Obligations.ReleasesWaitForStores
  refine ⟨fun s hp hh => ⟨_, syncGate_of_none_posted hp hh, onlyThread_setMe .., me_setMe ..⟩, ?release,
    fun sc s u h => ⟨_, fenceScope_releases h, writesNone_retire ..⟩,
    fun fm pred succ s u h => ⟨_, fence_releases fm pred succ h, writesNone_retire ..⟩, ?held, ?fenceI⟩
  case release =>
    intro s sc hp hh hr hs hf
    by_cases hsc : sc = .thr
    · subst hsc
      exact ⟨s, release_thr_of_released ⟨hp, hh, hr, hs, hf⟩, ⟨rfl, fun _ => rfl, fun _ => rfl, fun _ _ => rfl⟩, rfl⟩
    · exact ⟨_, release_of_released ⟨hp, hh, hr, hs, hf⟩ hsc, onlyThread_setMe .., me_setMe ..⟩
  case held =>
    intro s h r hp hh hg hw i hi
    have hrel (sc : Scope) := release_held sc hp hh hg hw
    have hi' : exec i s = .next (s.deferredAt h.addr) := by
      rcases hi with rfl | ⟨sc, rfl⟩
      · show execFence 0 0xF 0xF s = _
        rw [execFence, hrel]
        rfl
      · show execFenceScope sc s = _
        rw [execFenceScope, hrel]
        rfl
    exact ⟨_, hi', onlyThread_modMe .., me_modMe ..⟩
  case fenceI =>
    intro s hp
    refine ⟨_, fenceI_empties hp, rfl, fun l hl => ?_, fun c => ?_, ?_⟩
    · exact (slot_retire_ne _ _ (by exact hl)).trans (slot_setMe_ne s _ hl)
    · rw [core_retire, core_modCore]
      by_cases hc : c = coreOf s.cur
      · rw [if_pos hc, if_pos hc, hc]
        rfl
      · rw [if_neg hc, if_neg hc]
        rfl
    · rw [me_retire, me_modCore, me_setMe]
      rfl

end Sys2Proof.Machine
end

section
/-! PROOFS. Scalar stores (O16). -/

namespace Sys2Proof.Machine

/-! ### What a write of a thread keeps of its value -/

/-- A byte below a width does not see what lies above it. -/
theorem byte_of_mod (v : Nat) {n i : Nat} (h : i < n) : v % 2 ^ (8 * n) / 2 ^ (8 * i) % 256 = v / 2 ^ (8 * i) % 256 := by
  have hn : 2 ^ (8 * n) = 2 ^ (8 * i) * 2 ^ (8 * (n - i)) := by rw [← Nat.pow_add]; congr 1; omega
  have hd : 256 ∣ 2 ^ (8 * (n - i)) := Nat.pow_dvd_pow 2 (show 8 ≤ 8 * (n - i) by omega)
  rw [hn, Nat.mod_mul_right_div_self, Nat.mod_mod_of_dvd _ hd]

/-- A write of the low bytes of a number is a write of the number. -/
theorem Writes.of_low {s t : State} {loc : Nat} {p : Place} {n v : Nat} (h : Writes s t loc p n (v % 2 ^ (8 * n))) :
    Writes s t loc p n v :=
  { h with stored := { h.stored with bytes := fun i hi => (h.stored.bytes i hi).trans (byte_of_mod v hi) } }

/-! ### A plain store (R248, R260) -/

/-- Which addresses are apertures' does not depend on the core that asks. -/
theorem isSome_aperture (pkg c d va : Nat) : (aperture pkg (some c) va).isSome = (aperture pkg (some d) va).isSome := by
  unfold aperture
  split
  · simp only
    split <;> rfl
  · rfl

theorem isFar_of_not_atHand {s : State} {va : Word} (h : s.atHand s.cur va = false) : s.isFar va = false := by
  have hsome : (aperture s.pkg.toNat (some 0) va.toNat).isSome = false := (isSome_aperture ..).trans (Bool.or_eq_false_iff.mp h).1
  have hap : aperture s.pkg.toNat (some 0) va.toNat = none := by simpa using hsome
  rw [State.isFar, hap]

theorem holdRoom_of_lt {s : State} (h : s.me.held.length + s.me.posted.length < 8) : s.holdRoom s.cur = .ok s := by
  have hfull : decide (8 ≤ (s.slot s.cur).held.length + (s.slot s.cur).posted.length) = false :=
    decide_eq_false (Nat.not_le.mpr h)
  simp only [State.holdRoom, hfull, Bool.not_false, if_true]

theorem drainOver_of_apart {s : State} {a n : Nat} (h : s.me.posted.any (fun q => overlaps a n q.addr.toNat q.width) = false) :
    s.drainOver s.cur a n = s := by
  have hany : (s.slot s.cur).posted.any (fun p => !p.isFar && overlaps a n p.addr.toNat p.width) = false := by
    rw [List.any_eq_false] at h ⊢
    exact fun q hq => by simp [h q hq]
  rw [State.drainOver, hany, if_neg Bool.false_ne_true]

section
variable {s u : State} {a : Word} {n : Nat}

theorem storePlain_writes (v : Word) {p : Place × Option Plb} (hp : ptrCheck .store a = none) (hh : s.me.heldOver a.toNat n = false)
    (hat : s.atHand s.cur a = true) (hq : s.me.posted.any (fun q => overlaps a.toNat n q.addr.toNat q.width) = false)
    (hf : s.isFar a = false) (hr : s.reach s.cur .store a n = (u, .ok p)) :
    s.storePlain a n v = .ok (u.writeAt s.cur a p n v.toNat) := by
  simp only [State.storePlain, hp, hh, hf, hat, drainOver_of_apart hq, hr, Bool.not_true, Bool.false_eq_true, if_false]

theorem storePlain_posts (v : Word) (hp : ptrCheck .store a = none) (hh : s.me.heldOver a.toNat n = false)
    (hat : s.atHand s.cur a = false) (hroom : s.me.held.length + s.me.posted.length < 8) :
    s.storePlain a n v = .ok (s.modMe (fun x => { x with
      posted := x.posted ++ [⟨a, n, v, none, none, false, x.stSeq, x.sc.pdrights⟩] })).nextSeq := by
  simp only [State.storePlain, hp, hh, isFar_of_not_atHand hat, hat, State.postStore, holdRoom_of_lt hroom, Bool.not_false,
    Bool.false_eq_true, if_false, if_true]

theorem storePlain_holds (v : Word) (hp : ptrCheck .store a = none) (hh : s.me.heldOver a.toNat n = true)
    (hroom : s.me.held.length + s.me.posted.length < 8) :
    s.storePlain a n v = .ok (s.modMe (·.hold ⟨a, n, v, s.me.causeOver a.toNat n, s.me.stSeq, false⟩)).nextSeq := by
  have hserve : s.serveStore s.cur a n v s.me.stSeq s.me.sc.pdrights
      = s.modMe (·.hold ⟨a, n, v, s.me.causeOver a.toNat n, s.me.stSeq, false⟩) := if_pos hh
  simp only [State.storePlain, hp, hh, if_true, holdRoom_of_lt hroom, Except.map, hserve]

end

/-! ### The instruction (R129) -/

/-- The value that a plain store writes. -/
def State.storeValue (s : State) (st : StoreOp) : Word := if st.fp then s.me.fr st.rs2 else s.x st.rs2
/-- Its low bytes, as they are posted or held. -/
def State.storeData (s : State) (st : StoreOp) : Word := BitVec.ofNat 64 ((s.storeValue st).toNat % 2 ^ (8 * 2 ^ st.w.toNat))

/-- A width of two bits is of at most eight bytes. -/
theorem toNat_storeData (s : State) (st : StoreOp) : (s.storeData st).toNat = (s.storeValue st).toNat % 2 ^ (8 * 2 ^ st.w.toNat) := by
  have hw : 2 ^ st.w.toNat ≤ 2 ^ 3 := Nat.pow_le_pow_right (by decide) (by have := st.w.isLt; omega)
  have hlt : (s.storeValue st).toNat % 2 ^ (8 * 2 ^ st.w.toNat) < 2 ^ 64 :=
    (Nat.mod_lt _ (Nat.two_pow_pos _)).trans_le (Nat.pow_le_pow_right (by decide) (by omega))
  rw [State.storeData, BitVec.toNat_ofNat, Nat.mod_eq_of_lt hlt]

theorem plainStore_stores {s u : State} {st : StoreOp} (ha : (s.x st.rs1 + st.off.signExtend 64).toNat % 2 ^ st.w.toNat = 0)
    (h : s.storePlain (s.x st.rs1 + st.off.signExtend 64) (2 ^ st.w.toNat) (s.storeData st) = .ok u) :
    exec (.plainStore st) s = .next (u.retire 4) := by
  show execPlainStore st s = _
  rw [State.storeData, State.storeValue] at h
  rw [execPlainStore, if_neg (by simpa [imm12] using ha), show s.storePlain (s.x st.rs1 + imm12 st.off) _ _ = _ from h, ok_bind,
    done_ok]

theorem plainStore_misaligned {s : State} {st : StoreOp}
    (ha : (s.x st.rs1 + st.off.signExtend 64).toNat % 2 ^ st.w.toNat ≠ 0) :
    exec (.plainStore st) s = .next (s.trap s.cur { cause := 6, tval := s.x st.rs1 + st.off.signExtend 64 }) := by
  show execPlainStore st s = _
  rw [execPlainStore, if_pos (by simpa [imm12] using ha), done_raise]
  rfl

/-! ### `st.rel` (R338, R351) -/

theorem translated_protect {s u : State} {k : AK} {a : Word} {n : Nat} (h : s.protect k a n = .ok u) : Translated s u := by
  have ht := translated_reach s s.cur k a n true
  simp only [State.protect] at h
  split at h
  · cases h
  · split at h
    · cases h
    · cases h
      exact ht

theorem storeNow_writes {s u : State} {a : Word} {n : Nat} (v : Nat) {p : Place × Option Plb} (hp : ptrCheck .store a = none)
    (hh : (s.drainOver s.cur a.toNat n).me.heldOver a.toNat n = false)
    (hr : (s.drainOver s.cur a.toNat n).reach s.cur .store a n = (u, .ok p)) :
    s.storeNow a n v = .ok (u.writeAt s.cur a p n v) := by
  simp only [State.storeNow, hp, hh, hr, Bool.false_eq_true, if_false]

section
variable {s s1 s2 u : State} {sc : Scope} {w : Bool} {rs1 rs2 : BitVec 5}

theorem far_find_eq_none {s : State} {a : Word} (h : ∀ f ∈ s.me.far, f.1 ≠ a) : s.me.far.find? (fun f => f.1 == a) = none := by
  simpa using h

theorem stRel_stores {p : Place × Option Plb} (hf : ∀ f ∈ s.me.far, f.1 ≠ s.x rs1)
    (ha : (s.x rs1).toNat % (if w then 8 else 4) = 0) (hp : s.protect .store (s.x rs1) (if w then 8 else 4) = .ok s1)
    (hrel : s1.release sc = .ok s2) (hc : ptrCheck .store (s.x rs1) = none)
    (hh : (s2.drainOver s.cur (s.x rs1).toNat (if w then 8 else 4)).me.heldOver (s.x rs1).toNat (if w then 8 else 4) = false)
    (hr : (s2.drainOver s.cur (s.x rs1).toNat (if w then 8 else 4)).reach s.cur .store (s.x rs1) (if w then 8 else 4) = (u, .ok p))
    (hfar : s2.isFar (s.x rs1) = false) :
    exec (.stRel sc w rs1 rs2) s = .next ((u.writeAt s.cur (s.x rs1) p (if w then 8 else 4)
      ((s.x rs2).toNat % 2 ^ (8 * if w then 8 else 4))).retire 4) := by
  have hcur : s2.cur = s.cur := (touches_release hrel).cur.trans (translated_protect hp).touches.cur
  rw [← hcur] at hh hr
  have hstore := storeNow_writes ((s.x rs2).toNat % 2 ^ (8 * if w then 8 else 4)) hc hh hr
  show execStRel sc w rs1 rs2 s = _
  simp only [execStRel, widthOf, far_find_eq_none hf, ha, bne_self_eq_false, Bool.false_eq_true, if_false, hp, hrel, ok_bind,
    State.releaseStore, hstore, hfar, Bool.not_false, if_true, done_ok, hcur]

theorem stRel_misaligned (hf : ∀ f ∈ s.me.far, f.1 ≠ s.x rs1) (ha : (s.x rs1).toNat % (if w then 8 else 4) ≠ 0) :
    exec (.stRel sc w rs1 rs2) s = .next (s.trap s.cur { cause := 6, tval := s.x rs1 }) := by
  show execStRel sc w rs1 rs2 s = _
  rw [execStRel, far_find_eq_none hf]
  simp only [widthOf, bne_iff_ne.mpr ha, if_true, done_raise]
  rfl

end

/-- Settles O16: a store with its translation at hand is its write, others become entries of the thread, and `st.rel` is its release
and then its write. -/
theorem scalarStores : Obligations.ScalarStores := by
  unfold Obligations.ScalarStores
  refine ⟨?writes, ?posts, ?holds, fun st s => plainStore_misaligned, ?rel, fun sc w rs1 rs2 s => stRel_misaligned⟩
  case writes =>
    intro st s u p e a n v hm ha hp hh hat hq hf hr hn he
    have ht := translated_reach s s.cur .store a n true
    rw [hr] at ht
    refine ⟨_, _, plainStore_stores ha (storePlain_writes (s.storeData st) hp hh hat hq hf hr), ht, ?_, writesNone_retire ..⟩
    rw [toNat_storeData]
    exact (writes_writeAt u s.cur 0 a p e n _ (by rw [ht.mem]; exact hm) hn he).of_low
  case posts =>
    intro st s a n v ha hp hh hat hroom
    refine ⟨_, plainStore_stores ha (storePlain_posts (s.storeData st) hp hh hat hroom), ?_, ?_⟩
    · rw [State.nextSeq, modMe_modMe]
      exact onlyThread_retire ..
    · rw [State.nextSeq, modMe_modMe, me_retire, me_modMe]
      rfl
  case holds =>
    intro st s a n v ha hp hh hroom
    refine ⟨_, s.me.causeOver a.toNat n, plainStore_stores ha (storePlain_holds (s.storeData st) hp hh hroom), ?_, ?_⟩
    · rw [State.nextSeq, modMe_modMe]
      exact onlyThread_retire ..
    · rw [State.nextSeq, modMe_modMe, me_retire, me_modMe]
      rfl
  case rel =>
    intro sc w rs1 rs2 s s1 s2 u p e n a hf ha hp hrel hc d hh hr hm hn he hfar
    have ht := translated_reach d s.cur .store a n true
    rw [hr] at ht
    exact ⟨_, _, stRel_stores hf ha hp hrel hc hh hr hfar, ht, writes_writeAt u s.cur 0 a p e n _ (by rw [ht.mem]; exact hm) hn he,
      writesNone_retire ..⟩

end Sys2Proof.Machine
end

section
/-! PROOFS. Full-empty words (O27): presence bits, the tokens of a word that no other token waits on, and the four instructions. -/

namespace Sys2Proof.Machine

/-! ### Presence bits (R256) -/

theorem not_mem_of_flagsOk {lo a : Nat} {fs : List Nat} (h : flagsOk (some lo) fs = true) (ha : a ≤ lo) : a ∉ fs := by
  induction fs generalizing lo with
  | nil => exact List.not_mem_nil
  | cons k r ih =>
    obtain ⟨hk, hr⟩ := (flagsOk_cons _ k r).mp h
    have hlt := hk lo rfl
    exact List.not_mem_cons_of_ne_of_not_mem (by omega) (ih hr (by omega))

theorem mem_flagSet {lo : Option Nat} {fs : List Nat} (a c : Nat) (on : Bool) (h : flagsOk lo fs = true) :
    c ∈ flagSet fs a on ↔ if c = a then on = true else c ∈ fs := by
  induction fs generalizing lo with
  | nil => cases on <;> simp [flagSet]
  | cons k r ih =>
    obtain ⟨-, hr⟩ := (flagsOk_cons _ k r).mp h
    have above (hak : a ≤ k) : a ∉ r := not_mem_of_flagsOk hr hak
    rcases Nat.lt_trichotomy a k with hlt | rfl | hgt
    · have ha : a ∉ k :: r := List.not_mem_cons_of_ne_of_not_mem (by omega) (above (by omega))
      rw [flagSet, if_pos hlt]
      cases on <;> grind
    · have ha := above le_rfl
      rw [flagSet, if_neg (Nat.lt_irrefl a), if_pos rfl]
      cases on <;> grind
    · rw [flagSet, if_neg (by omega), if_neg (by omega), List.mem_cons, ih hr, List.mem_cons]
      split <;> grind

theorem isFull_setFull {m : Memory} (a c : Nat) (on : Bool) (h : m.wf = true) :
    (m.setFull a on).isFull c = if c = a then on else m.isFull c := by
  obtain ⟨-, hf⟩ := Bool.and_eq_true_iff.mp h
  have hm := mem_flagSet a c on hf
  simp only [Memory.isFull, Memory.setFull, List.contains_eq_mem, hm]
  split <;> simp

/-! ### The word of an access (R257) -/

theorem ptrCheck_of_low (k : AK) {a : Word} (h : a.toNat / 2 ^ 56 = 0) : ptrCheck k a = none := by
  have h63 : bitW a 63 = false := by
    rw [bitW, BitVec.getLsbD, Nat.testBit_eq_decide_div_mod_eq]
    exact decide_eq_false (by omega)
  rw [ptrCheck, h63, if_neg Bool.false_ne_true, if_neg (by rw [h]; exact Bool.false_ne_true)]

theorem feWord_at_hand {s : State} {k : AK} {a : Word} {e : Plb} (ha : a.toNat % 8 = 0) (hlow : a.toNat / 2 ^ 56 = 0)
    (hap : aperture s.pkg.toNat (some (coreOf s.cur)) a.toNat = none) (hp : s.me.posted = []) (hh : s.me.heldOver a.toNat 8 = false)
    (he : (s.core (coreOf s.cur)).plb.find? (·.covers (s.cur % 4) a.toNat) = some e) (hg : granted e.rights k.rights = true)
    (hm : e.managed = false) (hr : e.repl = false) (hfe : e.fe = true) :
    s.feWord k a = .ok (s, e.frame + (a.toNat - e.page)) := by
  have hplb : s.plbEntry s.cur a.toNat = (s, .ok e) := by rw [State.plbEntry, he]
  have hd : s.drainOver s.cur a.toNat 8 = s := drainOver_of_apart (by rw [hp]; rfl)
  have hpl : s.pagePlace (dieOf s.cur) k a.toNat 8 e = .ok (.dram (e.frame + (a.toNat - e.page))) := by
    simp only [State.pagePlace, hg, hm, Plb.pa, hr, Bool.not_true, Bool.and_false, Bool.false_and, Bool.false_eq_true, if_false]
  have hreach : s.reach s.cur k a 8 = (s, .ok (.dram (e.frame + (a.toNat - e.page)), some e)) := by
    simp only [State.reach, ptrCheck_of_low k hlow, hap, hplb, hpl, Except.map]
  have hb : s.beforeAccess k a 8 = .ok (s, .dram (e.frame + (a.toNat - e.page)), some e) :=
    beforeAccess_reaches (p := (.dram (e.frame + (a.toNat - e.page)), some e)) (ptrCheck_of_low k hlow) (by rw [hd, hh])
      (by rw [hd, hreach])
  simp only [State.feWord, ha, hlow, hap, hplb, Except.toOption, Option.filter, hfe, hb, ok_bind, bne_self_eq_false, Bool.false_or,
    Option.isSome_none, Bool.not_true, Bool.false_eq_true, if_false]

theorem touches_beforeAccess {s u : State} {k : AK} {va : Word} {n : Nat} {p : Place × Option Plb}
    (h : s.beforeAccess k va n = .ok (u, p)) : Touches s u := by
  have ht := (touches_drainOver s s.cur va.toNat n).trans (translated_reach _ s.cur k va n true).touches
  simp only [State.beforeAccess] at h
  split at h
  · cases h
  · split at h
    · cases h
    · split at h <;> cases h
      exact ht

theorem touches_feWord {s u : State} {k : AK} {a : Word} {w : Nat} (h : s.feWord k a = .ok (u, w)) : Touches s u := by
  have hplb := (translated_plbEntry s s.cur a.toNat).touches
  simp only [State.feWord] at h
  split at h
  · cases h
  · split at h
    · cases h
    · split at h
      · cases h
      · cases hb : (s.plbEntry s.cur a.toNat).1.beforeAccess k a 8 with
        | error t => rw [hb] at h; cases h
        | ok r =>
          obtain ⟨v, p, e⟩ := r
          rw [hb, ok_bind] at h
          cases p <;> cases h
          exact hplb.trans (touches_beforeAccess hb)

theorem Touches.feq {s t : State} (h : Touches s t) : t.feq = s.feq := by rw [h.eq]

/-! ### The tokens of a word (R258) -/

/-- A pass over tokens of other words serves none of them. -/
theorem servePass_append_of_apart {l : List FeTok} {w : Nat} (s : State) (r : List FeTok) (h : ∀ q ∈ l, q.word ≠ w) :
    s.servePass w (l ++ r) = ((s.servePass w r).1, l ++ (s.servePass w r).2) := by
  induction l with
  | nil => rfl
  | cons q l ih =>
    rw [List.cons_append, State.servePass, if_pos (bne_iff_ne.mpr (h q List.mem_cons_self)),
      ih (fun p hp => h p (List.mem_cons_of_mem q hp))]
    rfl

theorem serveWord_of_apart {s : State} {w : Nat} (n : Nat) (h : ∀ q ∈ s.feq, q.word ≠ w) : s.serveWord w n = s := by
  have hp : s.servePass w s.feq = (s, s.feq) := by
    have := servePass_append_of_apart s [] h
    rwa [List.append_nil, State.servePass, List.append_nil] at this
  cases n with
  | zero => rfl
  | succ n => simp [State.serveWord, hp]

/-- The state in which a token has come to a word's slice. -/
def State.withTok (s : State) (q : FeTok) : State := { s with feq := s.feq ++ [q] }

theorem servePass_withTok {s : State} (q : FeTok) (h : ∀ p ∈ s.feq, p.word ≠ q.word) :
    (s.withTok q).servePass q.word (s.withTok q).feq
      = (((s.withTok q).serveToken q).1, s.feq ++ if ((s.withTok q).serveToken q).2 then [] else [q]) := by
  rw [show (s.withTok q).feq = s.feq ++ [q] from rfl, servePass_append_of_apart _ _ h]
  simp only [State.servePass, bne_self_eq_false, Bool.false_eq_true, if_false]
  split <;> rfl

/-- A token that its word serves at once leaves no token behind. -/
theorem serveWord_withTok_served {s t : State} {q : FeTok} (n : Nat) (h : ∀ p ∈ s.feq, p.word ≠ q.word)
    (hs : (s.withTok q).serveToken q = (t, true)) : (s.withTok q).serveWord q.word (n + 1) = { t with feq := s.feq } := by
  have hp := servePass_withTok q h
  simp only [hs, if_true, List.append_nil] at hp
  have hlen : (s.feq.length == (s.withTok q).feq.length) = false := by simp [State.withTok]
  rw [State.serveWord, hp]
  simp only [hlen, Bool.false_eq_true, if_false]
  exact serveWord_of_apart (s := { t with feq := s.feq }) n h

theorem serveWord_withTok_unserved {s : State} {q : FeTok} (n : Nat) (h : ∀ p ∈ s.feq, p.word ≠ q.word)
    (hs : (s.withTok q).serveToken q = (s.withTok q, false)) : (s.withTok q).serveWord q.word (n + 1) = s.withTok q := by
  have hp := servePass_withTok q h
  simp only [hs, Bool.false_eq_true, if_false] at hp
  rw [State.serveWord, hp]
  simp only [State.withTok, beq_self_eq_true, if_true]

/-! ### The service of a token (R258) -/

/-- The state in which a word's presence bit has a value. -/
def State.withFull (s : State) (w : Nat) (full : Bool) : State := { s with mem := s.mem.setFull w full }

theorem presence_withFull {s : State} (w : Nat) (full : Bool) (h : MemoryInv s) : Presence s (s.withFull w full) w full :=
  ⟨rfl, fun _ => byte_setFull .., fun a => isFull_setFull w a full h⟩

/-- A load waits for a FULL word, a fill for an EMPTY one. -/
theorem serveToken_waits {s : State} {q : FeTok} (h : s.mem.isFull q.word = q.fill) : s.serveToken q = (s, false) := by
  rw [State.serveToken, h]
  cases q.fill <;> rfl

theorem serveToken_reads {s : State} {q : FeTok} (hq : q.fill = false) (h : s.mem.isFull q.word = true) :
    s.serveToken q = ((if q.take then s.withFull q.word false else s).modSlot q.loc (fun t =>
      (t.wx q.rd (BitVec.ofNat 64 (s.mem.read q.word 8))).retire 8), true) := by
  simp only [State.serveToken, hq, h, Bool.false_eq_true, if_false, if_true]
  rfl

theorem serveToken_fills {s : State} {q : FeTok} (hq : q.fill = true) (h : s.mem.isFull q.word = false) :
    s.serveToken q = (((s.putNat (s.agentAt q.loc) (.dram q.word) 8 q.data.toNat).withFull q.word true).modSlot q.loc (·.retire 8),
      true) := by
  simp only [State.serveToken, hq, h, Bool.false_eq_true, if_false, if_true]
  rfl

/-! ### The waiting forms (R257) -/

/-- The state in which a token waits, and the issuing thread with it, to the end of its limit. -/
def State.feWaiting (s : State) (q : FeTok) (limit : Nat) (a : Word) : State :=
  (s.withTok q).modMe (fun t => { t with
    wait := some ⟨.fe, some (s.cycle + limit), 0, { trap := some (causeFe, a) }, none, none⟩,
    st := if t.st = .ready then .wait else t.st })

/-- A waiting form has found its word, on which no other token waits; its thread has none. -/
structure FeAlone (s u : State) (w : Nat) : Prop where
  own : s.feq.any (fun q => q.loc == s.cur) = false
  others : ∀ q ∈ u.feq, q.word ≠ w
  cur : u.cur = s.cur
  mem : MemoryInv u

section
variable {s d u t : State} {a : Word} {mk : Nat → FeTok} {k : AK} {releases : Bool} {w : Nat}

theorem feWait_posts (hn : FeAlone s u w) (hd : (if releases then s.release .die else .ok s) = .ok d)
    (hw : d.feWord k a = .ok (u, w)) : s.feWait a mk k releases =
      if ((u.withTok (mk w)).serveWord w (u.feq.length + 2)).feq.any (fun q => q.loc == s.cur) then
        .error (((u.withTok (mk w)).serveWord w (u.feq.length + 2)).waitFor .fe s.waitlim { trap := some (causeFe, a) })
      else .ok ((u.withTok (mk w)).serveWord w (u.feq.length + 2)) := by
  simp only [State.feWait, hn.own, Bool.false_eq_true, if_false]
  cases releases with
  | false =>
    obtain rfl : s = d := Except.ok.inj hd
    simp only [Bool.false_eq_true, if_false, hw, ok_bind]
    rfl
  | true =>
    rw [if_pos rfl] at hd
    simp only [if_true, hd, hw, ok_bind]
    rfl

theorem feq_of_feWord (hd : (if releases then s.release .die else .ok s) = .ok d) (hw : d.feWord k a = .ok (u, w)) :
    u.feq = s.feq := by
  have h : Touches s d := by
    cases releases with
    | false => exact Except.ok.inj hd ▸ .refl s
    | true => exact touches_release ((if_pos rfl).symm.trans hd)
  exact (h.trans (touches_feWord hw)).feq

theorem feWait_served (hn : FeAlone s u w) (hd : (if releases then s.release .die else .ok s) = .ok d)
    (hw : d.feWord k a = .ok (u, w)) (hword : (mk w).word = w) (hs : (u.withTok (mk w)).serveToken (mk w) = (t, true)) :
    s.feWait a mk k releases = .ok { t with feq := u.feq } := by
  have hserve := serveWord_withTok_served (u.feq.length + 1) (by rw [hword]; exact hn.others) hs
  rw [hword] at hserve
  have hown : u.feq.any (fun q => q.loc == s.cur) = false := by rw [feq_of_feWord hd hw]; exact hn.own
  rw [feWait_posts hn hd hw, hserve, if_neg (by rw [hown]; exact Bool.false_ne_true)]

theorem feWait_waits (hn : FeAlone s u w) (hd : (if releases then s.release .die else .ok s) = .ok d)
    (hw : d.feWord k a = .ok (u, w)) (hword : (mk w).word = w) (hloc : (mk w).loc = s.cur)
    (hs : u.mem.isFull w = (mk w).fill) (hwait : u.me.wait = none) (hlim : 0 < s.waitlim) :
    s.feWait a mk k releases = .error (u.feWaiting (mk w) s.waitlim a) := by
  have hserve := serveWord_withTok_unserved (q := mk w) (u.feq.length + 1) (by rw [hword]; exact hn.others)
    (serveToken_waits (by rw [hword]; exact hs))
  rw [hword] at hserve
  have hany : (u.withTok (mk w)).feq.any (fun q => q.loc == s.cur) = true := by simp [State.withTok, hloc]
  rw [feWait_posts hn hd hw, hserve, if_pos hany, waitFor_begins (s := u.withTok (mk w)) .fe _ hwait (by omega)]
  rfl

end

/-! ### The instructions (R256) -/

/-- The token of a load, which may empty its word. -/
def loadTok (s : State) (take : Bool) (xd : BitVec 5) (w : Nat) : FeTok := ⟨w, s.cur, take, false, 0, xd⟩
/-- The token of `st.fe.fill`. -/
def fillTok (s : State) (v : Word) (w : Nat) : FeTok := ⟨w, s.cur, false, true, v, 0⟩

section
variable {s d u : State} {a : Word} {w : Nat}

theorem modMe_eq_modSlot {s : State} {l : Nat} (f : Slot → Slot) (h : s.cur = l) : s.modMe f = s.modSlot l f := by
  subst h
  rfl

theorem feLoad_reads (take : Bool) (xd : BitVec 5) (hw : s.feWord .load a = .ok (u, w)) (hn : FeAlone s u w)
    (hf : u.mem.isFull w = true) :
    s.feWait a (loadTok s take xd) .load false
      = .ok (((if take then u.withFull w false else u).setX xd (BitVec.ofNat 64 (u.mem.read w 8))).retire 8) := by
  rw [feWait_served (mk := loadTok s take xd) hn rfl hw rfl (serveToken_reads rfl hf), setX_retire_eq]
  have hmod (v : State) (hv : v.cur = s.cur) :=
    modMe_eq_modSlot (fun t : Slot => (t.wx xd (BitVec.ofNat 64 (u.mem.read w 8))).retire 8) hv
  cases take with
  | false => exact congrArg Except.ok (hmod u hn.cur).symm
  | true => exact congrArg Except.ok (hmod (u.withFull w false) hn.cur).symm

theorem feFill_fills (v : Word) (hd : s.release .die = .ok d) (hw : d.feWord .store a = .ok (u, w)) (hn : FeAlone s u w)
    (hf : u.mem.isFull w = false) :
    s.feWait a (fillTok s v) .store true
      = .ok (((u.putNat (u.agentAt s.cur) (.dram w) 8 v.toNat).withFull w true).retire 8) := by
  have hcur : ((u.putNat (u.agentAt s.cur) (.dram w) 8 v.toNat).withFull w true).cur = s.cur := hn.cur
  rw [feWait_served (mk := fillTok s v) hn (if_pos rfl |>.trans hd) hw rfl (serveToken_fills rfl hf)]
  exact congrArg Except.ok (modMe_eq_modSlot (·.retire 8) hcur).symm

/-- A store empties its word at once; no token waits for it to do so. -/
theorem stFe_writes {xs xb : BitVec 5} {off : BitVec 16} (hw : s.feWord .store (feAddr s xb off) = .ok (u, w))
    (hn : FeAlone s u w) :
    exec (.stFe xs xb off) s
      = .next (((u.putNat (u.agentAt s.cur) (.dram w) 8 (s.x xs).toNat).withFull w false).retire 8) := by
  have hset (v : State) (hv : v.feq = u.feq) : v.setPresence w false = v.withFull w false := by
    unfold State.setPresence
    split
    · rfl
    · exact serveWord_of_apart (s := v.withFull w false) _ (by rw [show (v.withFull w false).feq = u.feq from hv]; exact hn.others)
  show execStFe xs xb off s = _
  rw [execStFe, hw, ok_bind]
  exact congrArg (fun v => Host.Outcome.next (State.retire v 8)) (hset (u.putNat (u.agentAt s.cur) (.dram w) 8 (s.x xs).toNat) rfl)

end

/-- Settles O27: a token alone on its word is served at once or waits, and `st.fe` writes without one. -/
theorem fullEmptyInstructions : Obligations.FullEmptyInstructions := by
  unfold Obligations.FullEmptyInstructions
  refine ⟨fun s k a e _ ha hlow hap hp hh he hg hm hr hfe => feWord_at_hand ha hlow hap hp hh he hg hm hr hfe, ?read, ?take, ?store,
    ?fill, ?loadWaits, ?fillWaits⟩
  case read =>
    rintro xd xb off s u w hw ⟨hs, hq, hc, hm⟩ hf
    exact ⟨_, congrArg Go.done (feLoad_reads false xd hw ⟨hs, hq, hc, hm⟩ hf), writesX_retire ..⟩
  case take =>
    rintro xd xb off s u w hw ⟨hs, hq, hc, hm⟩ hf
    exact ⟨_, _, congrArg Go.done (feLoad_reads true xd hw ⟨hs, hq, hc, hm⟩ hf), presence_withFull w false hm, writesX_retire ..⟩
  case store =>
    rintro xs xb off s u w hw ⟨hs, hq, hc, hm⟩
    exact ⟨_, _, _, stFe_writes hw ⟨hs, hq, hc, hm⟩, writes_putNat u s.cur 0 (.dram w) 8 _ hm trivial,
      presence_withFull w false (wf_setBytes _ _ _ hm), writesNone_retire ..⟩
  case fill =>
    rintro xs xb off s d u w hd hw ⟨hs, hq, hc, hm⟩ hf
    exact ⟨_, _, _, congrArg Go.done (feFill_fills (s.x xs) hd hw ⟨hs, hq, hc, hm⟩ hf),
      writes_putNat u s.cur 0 (.dram w) 8 _ hm trivial, presence_withFull w true (wf_setBytes _ _ _ hm), writesNone_retire ..⟩
  case loadWaits =>
    rintro xd xb off s u w hw ⟨hs, hq, hc, hm⟩ hf hwait hlim
    have hwaits (take : Bool) := feWait_waits (mk := loadTok s take xd) (releases := false) ⟨hs, hq, hc, hm⟩ rfl hw rfl rfl hf
      hwait hlim
    exact ⟨⟨u.feWaiting (loadTok s false xd w) s.waitlim _, congrArg Go.done (hwaits false), rfl, rfl, me_modMe ..⟩,
      ⟨u.feWaiting (loadTok s true xd w) s.waitlim _, congrArg Go.done (hwaits true), rfl, rfl, me_modMe ..⟩⟩
  case fillWaits =>
    rintro xs xb off s d u w hd hw ⟨hs, hq, hc, hm⟩ hf hwait hlim
    have hwaits := feWait_waits (mk := fillTok s (s.x xs)) (releases := true) ⟨hs, hq, hc, hm⟩ ((if_pos rfl).trans hd) hw rfl rfl hf
      hwait hlim
    exact ⟨u.feWaiting (fillTok s (s.x xs) w) s.waitlim _, congrArg Go.done hwaits, rfl, rfl, me_modMe ..⟩

end Sys2Proof.Machine
end

section
/-! PROOFS. Numbers in memory: what a read finds after a write to the same bytes and to others, in canonical memory. -/

namespace Sys2Proof.Machine

/-! ### Strings of bytes -/

theorem setBytes_append (m : Memory) (a : Nat) (xs ys : List Byte) :
    m.setBytes a (xs ++ ys) = (m.setBytes a xs).setBytes (a + xs.length) ys := by
  induction xs generalizing m a with
  | nil => rfl
  | cons b r ih => rw [List.cons_append, Memory.setBytes, ih, List.length_cons, Nat.add_right_comm, Nat.add_assoc]; rfl

theorem bytes_add (m : Memory) (a n k : Nat) : m.bytes a (n + k) = m.bytes a n ++ m.bytes (a + n) k := by
  induction n generalizing a with
  | zero => rw [Nat.zero_add]; rfl
  | succ n ih => rw [Nat.add_right_comm, Memory.bytes, ih, Nat.add_assoc, Nat.add_comm 1 n]; rfl

theorem length_bytes (m : Memory) (a n : Nat) : (m.bytes a n).length = n := by
  induction n generalizing a with
  | zero => rfl
  | succ n ih => rw [Memory.bytes, List.length_cons, ih]

theorem bytesNat_append (xs ys : List Byte) : bytesNat (xs ++ ys) = bytesNat xs + 2 ^ (8 * xs.length) * bytesNat ys := by
  induction xs with
  | nil => simp [bytesNat]
  | cons b r ih =>
    rw [List.cons_append, bytesNat, bytesNat, ih, List.length_cons, Nat.mul_add 8, Nat.pow_add]
    ring

theorem bytesNat_lt (bs : List Byte) : bytesNat bs < 2 ^ (8 * bs.length) := by
  induction bs with
  | nil => decide
  | cons b r ih =>
    have hb := b.isLt
    rw [bytesNat, List.length_cons, Nat.mul_add 8, Nat.pow_add]
    omega

/-! ### Numbers -/

theorem read_add (m : Memory) (a n k : Nat) : m.read a (n + k) = m.read a n + 2 ^ (8 * n) * m.read (a + n) k := by
  rw [Memory.read, bytes_add, bytesNat_append, length_bytes]
  rfl

theorem read_lt (m : Memory) (a n : Nat) : m.read a n < 2 ^ (8 * n) := by
  have h := bytesNat_lt (m.bytes a n)
  rwa [length_bytes] at h

/-- A number is read whose bytes these are. -/
theorem read_eq_of_bytes {m : Memory} {a n v : Nat} (h : ∀ i, i < n → (m.byte (a + i)).toNat = v / 2 ^ (8 * i) % 256) :
    m.read a n = v % 2 ^ (8 * n) := by
  induction n with
  | zero => rw [Nat.mul_zero, Nat.pow_zero, Nat.mod_one]; rfl
  | succ n ih =>
    have hn : m.read (a + n) 1 = v / 2 ^ (8 * n) % 256 := h n (Nat.lt_succ_self n)
    rw [read_add, ih (fun i hi => h i (by omega)), hn, Nat.mul_add 8 n 1, Nat.pow_add, Nat.mod_mul]

theorem read_congr {m m' : Memory} {a n : Nat} (h : ∀ i, i < n → m.byte (a + i) = m'.byte (a + i)) : m.read a n = m'.read a n := by
  induction n with
  | zero => rfl
  | succ n ih =>
    have hn : m.read (a + n) 1 = m'.read (a + n) 1 :=
      congrArg (fun b : Byte => b.toNat + 256 * 0) (h n (Nat.lt_succ_self n))
    rw [read_add, read_add, ih (fun i hi => h i (by omega)), hn]

section
variable {m : Memory} (h : m.wf = true)
include h

theorem byte_write (a n v c : Nat) :
    (m.write a n v).byte c = if a ≤ c ∧ c < a + n then (natBytes n v).getD (c - a) unlisted else m.byte c := by
  rw [Memory.write, byte_setBytes m a c _ h, length_natBytes]

theorem read_write_same (a n v : Nat) : (m.write a n v).read a n = v % 2 ^ (8 * n) := by
  refine read_eq_of_bytes (fun i hi => ?_)
  rw [byte_write h, if_pos (by omega), Nat.add_sub_cancel_left]
  exact getD_natBytes n v i hi

theorem read_write_apart {a n v b k : Nat} (hd : b + k ≤ a ∨ a + n ≤ b) : (m.write a n v).read b k = m.read b k :=
  read_congr (fun i hi => by rw [byte_write h, if_neg (by omega)])

end

end Sys2Proof.Machine
end

section
/-! PROOFS. The copy engine (O43). -/

namespace Sys2Proof.Machine

/-! ### A command's start, its steps and its end (R262, R264, R342) -/

theorem core_post (s : State) (home : Nat) (ctx : BitVec 16) (kind : Nat) (st : Status) (tag : Half) (v : Word) (c : Nat) :
    (s.post home ctx kind st tag v).core c = s.core c := rfl

/-- What the end of a copy command leaves. -/
theorem copyEnd_leaves (s : State) (q : CopyCmd) (r : List CopyCmd) (st : Status) (v : Word) :
    (s.copyEnd q r st v).arrivals = s.arrivals ++ [(q.home, q.ctx, ⟨3, st.byte, 0, q.tag, v⟩)]
      ∧ (s.copyEnd q r st v).mem = s.mem ∧ (s.copyEnd q r st v).slots = s.slots
      ∧ (s.copyEnd q r st v).core s.cur = { s.core s.cur with copyQ := r, copyRun := false, copyDone := 0, copyFar := [] } := by
  refine ⟨rfl, rfl, rfl, ?_⟩
  rw [State.copyEnd, core_post, core_modCore_same]
  rfl

section
variable {s u : State} {q : CopyCmd} {r : List CopyCmd}

theorem copyCommandStart_takes (hrun : (s.core s.cur).copyRun = false) (hq : (s.core s.cur).copyQ = q :: r) :
    exec .copyCommandStart s = .next (s.setCore s.cur { s.core s.cur with copyRun := true, copyDone := 0 }) := by
  show execCopyCommandStart s = _
  simp [execCopyCommandStart, hrun, hq]

variable (hrun : (s.core s.cur).copyRun = true) (hq : (s.core s.cur).copyQ = q :: r)
include hrun hq

section
variable (hf : s.farFailed (s.core s.cur).copyFar = none) (hmore : (s.core s.cur).copyDone < q.elems)
  (hu : s.copyFrom q (s.core s.cur).copyDone = .ok u)
include hf hmore hu

/-- A step with elements to come, or with writes to other packages whose answers are still to come. -/
theorem copyCompletion_goes_on
    (hgo : (s.core s.cur).copyDone + q.per < q.elems ∨ (s.core s.cur).copyFar ++ s.newWrites u ≠ []) :
    exec .copyCompletion s = .next (u.modCore s.cur (fun k =>
      { k with copyDone := (s.core s.cur).copyDone + q.per, copyFar := (s.core s.cur).copyFar ++ s.newWrites u })) := by
  have hgo' : (decide ((s.core s.cur).copyDone + q.per < q.elems) || !((s.core s.cur).copyFar ++ s.newWrites u).isEmpty) = true := by
    simpa using hgo
  show execCopyCompletion s = _
  simp only [execCopyCompletion, hrun, hq, hf, if_neg (Nat.not_le.mpr hmore), hu, if_pos hgo']

/-- The last step of a command that has written to no other package. -/
theorem copyCompletion_finishes (hlast : q.elems ≤ (s.core s.cur).copyDone + q.per)
    (hfar : (s.core s.cur).copyFar ++ s.newWrites u = []) : exec .copyCompletion s = .next (u.copyEnd q r .ok 0) := by
  show execCopyCompletion s = _
  simp only [execCopyCompletion, hrun, hq, hf, if_neg (Nat.not_le.mpr hmore), hu, hfar, decide_eq_false (Nat.not_lt.mpr hlast),
    List.isEmpty_nil, Bool.not_true, Bool.or_self, Bool.false_eq_true, if_false]

end

theorem copyCompletion_far_fault {a : Word} (hf : s.farFailed (s.core s.cur).copyFar = some a) :
    exec .copyCompletion s = .next (s.copyEnd q r .fault a) := by
  show execCopyCompletion s = _
  simp only [execCopyCompletion, hrun, hq, hf]

theorem copyCompletion_fault {a : Word} (hf : s.farFailed (s.core s.cur).copyFar = none)
    (hack : s.unacked (s.core s.cur).copyFar = false) (hmore : (s.core s.cur).copyDone < q.elems)
    (hu : s.copyFrom q (s.core s.cur).copyDone = .error (u, a)) :
    exec .copyCompletion s = .next (u.copyEnd q r .fault a) := by
  show execCopyCompletion s = _
  simp only [execCopyCompletion, hrun, hq, hf, if_neg (Nat.not_le.mpr hmore), hu, hack, Bool.false_eq_true, if_false]

theorem copyCompletion_ends (hf : s.farFailed (s.core s.cur).copyFar = none)
    (hack : s.unacked (s.core s.cur).copyFar = false) (hdone : q.elems ≤ (s.core s.cur).copyDone) :
    exec .copyCompletion s = .next (s.copyEnd q r .ok 0) := by
  show execCopyCompletion s = _
  simp only [execCopyCompletion, hrun, hq, hf, if_pos hdone, hack, Bool.false_eq_true, if_false]

end

end Sys2Proof.Machine
end

section
/-! PROOFS. The Kilns (O43): the walk of a job, one live object with what its install leaves in memory, the copy and the rollback,
and the report. -/

namespace Sys2Proof.Machine

theorem kiln_setKiln (s : State) (die i : Nat) (k : Kiln) : (s.setKiln die i k).kiln die i = k := by
  unfold State.kiln State.setKiln
  split <;> rw [die_modDie_same]

/-! ### The install in memory (R274, R279) -/

/-- Memory with the four words of a forwarding entry written. -/
def Memory.setEntry (m : Memory) (p a b c d : Nat) : Memory :=
  (((m.write p 8 a).write (p + 8) 8 b).write (p + 16) 8 c).write (p + 24) 8 d

theorem mem_setFwd (s : State) (k : Kiln) (p a b c d : Nat) : (s.setFwd k p [a, b, c, d]).mem = s.mem.setEntry p a b c d := by
  show s.mem.setBytes p ([a, b, c, d].flatMap (natBytes 8)) = _
  simp only [List.flatMap_cons, List.flatMap_nil, List.append_nil, setBytes_append, length_natBytes]
  rfl

theorem mem_setFlags (s : State) (k : Kiln) (hdr st : Nat) :
    (s.setFlags k hdr st).mem = s.mem.write (hdr + 12) 4 ((Header.of (s.mem.read hdr 16)).flags / 4 * 4 + st) := rfl

section
variable {m : Memory} (hm : m.wf = true) {p a b c d : Nat}
include hm

theorem wf_setEntry : (m.setEntry p a b c d).wf = true := wf_write _ _ _ _ (wf_write _ _ _ _ (wf_write _ _ _ _ (wf_write _ _ _ _ hm)))

theorem byte_setEntry_outside {x : Nat} (hx : x < p ∨ p + 32 ≤ x) : (m.setEntry p a b c d).byte x = m.byte x := by
  have w1 := wf_write m p 8 a hm
  have w2 := wf_write _ (p + 8) 8 b w1
  have w3 := wf_write _ (p + 16) 8 c w2
  rw [Memory.setEntry, byte_write w3, if_neg (by omega), byte_write w2, if_neg (by omega), byte_write w1, if_neg (by omega),
    byte_write hm, if_neg (by omega)]

theorem read_setEntry_apart {x n : Nat} (hx : x + n ≤ p ∨ p + 32 ≤ x) : (m.setEntry p a b c d).read x n = m.read x n :=
  read_congr (fun i hi => byte_setEntry_outside hm (by omega))

theorem read_setEntry (ha : a < 2 ^ 64) (hb : b < 2 ^ 64) (hc : c < 2 ^ 64) : (m.setEntry p a b c d).read p 8 = a
    ∧ (m.setEntry p a b c d).read (p + 8) 8 = b ∧ (m.setEntry p a b c d).read (p + 16) 8 = c := by
  have w1 := wf_write m p 8 a hm
  have w2 := wf_write _ (p + 8) 8 b w1
  have w3 := wf_write _ (p + 16) 8 c w2
  refine ⟨?_, ?_, ?_⟩
  · rw [Memory.setEntry, read_write_apart w3 (by omega), read_write_apart w2 (by omega), read_write_apart w1 (by omega),
      read_write_same hm, Nat.mod_eq_of_lt ha]
  · rw [Memory.setEntry, read_write_apart w3 (by omega), read_write_apart w2 (by omega), read_write_same w1, Nat.mod_eq_of_lt hb]
  · rw [Memory.setEntry, read_write_apart w3 (by omega), read_write_same w2, Nat.mod_eq_of_lt hc]

/-- A header whose flags word is written keeps its other fields. -/
theorem header_of_write_flags (hdr : Nat) {v : Nat} (hv : v < 2 ^ 32) :
    Header.of ((m.write (hdr + 12) 4 v).read hdr 16) = { Header.of (m.read hdr 16) with flags := v } := by
  have hlow : (m.write (hdr + 12) 4 v).read hdr 12 = m.read hdr 12 := read_write_apart hm (by omega)
  have hflags : (m.write (hdr + 12) 4 v).read (hdr + 12) 4 = v := (read_write_same hm ..).trans (Nat.mod_eq_of_lt hv)
  have hlt := read_lt m hdr 12
  rw [read_add _ hdr 12 4, hlow, hflags, read_add _ hdr 12 4]
  simp only [Header.of, Header.mk.injEq]
  omega

end

/-! ### One live object (R279, R280) -/

/-- An object that a Kiln leaves where it is: in transit or moved, too large, or with flags that no state gives. -/
def Header.odd (o : Header) : Prop := o.state ≠ 0 ∨ maxBody < o.size ∨ o.flags / 4 ≠ 0

theorem odd_iff (o : Header) : (o.state != 0 || decide (maxBody < o.size) || o.flags / 4 != 0) = true ↔ Header.odd o := by
  simp [Header.odd, or_assoc]

/-- The entry of the page of a header that a Kiln can read, at an address that is no reference. -/
theorem kilnPage_low {s : State} {k : Kiln} {need : BitVec 8} {a : Word} {e : Plb} (h : s.kilnPage k need a = some e) :
    a.toNat < 2 ^ 56 := by
  by_contra hlt
  have hhigh : (a.toNat / 2 ^ 56 != 0) = true := bne_iff_ne.mpr (by omega)
  rw [State.kilnPage, hhigh, Bool.true_or, if_pos rfl] at h
  cases h

theorem footprint_classOf_lt (n : Nat) : footprint (classOf n) < 2 ^ 64 := by
  have hc : classOf n ≤ 15 := by
    unfold classOf
    cases hf : (List.range 15).find? (fun c => decide (16 + n ≤ footprint c)) with
    | none => exact Nat.le_refl 15
    | some c => exact Nat.le_of_lt (List.mem_range.mp (List.mem_of_find?_eq_some hf))
  have hp : 2 ^ classOf n ≤ 2 ^ 15 := Nat.pow_le_pow_right (by decide) hc
  rw [footprint]
  omega

section
variable {s : State} {die i : Nat} {k : Kiln} {h : Word} {e : Plb}

theorem kilnObject_unreadable (hp : s.kilnPage k 1 h = none) :
    s.kilnObject die i k h = s.setKiln die i { k with status := some Status.fault.byte } := by
  rw [State.kilnObject, hp]

variable (hp : s.kilnPage k 1 h = some e)
include hp

theorem kilnObject_odd (ho : Header.odd (s.header e h)) :
    s.kilnObject die i k h = s.setKiln die i { k with processed := k.processed + 1, skOther := k.skOther + 1 } := by
  rw [State.kilnObject, hp]
  simp only [if_pos ((odd_iff _).mpr ho)]

variable (ho : ¬ Header.odd (s.header e h))
include ho

theorem kilnObject_pinned (hpin : (s.header e h).pin ≠ 0) :
    s.kilnObject die i k h = s.setKiln die i { k with processed := k.processed + 1, skPinned := k.skPinned + 1 } := by
  rw [State.kilnObject, hp]
  simp only [if_neg (mt (odd_iff _).mp ho), bne_iff_ne.mpr hpin, if_true]

variable (hpin : (s.header e h).pin = 0)
include hpin

theorem kilnObject_unwritable (hg : granted e.rights 3 = false) :
    s.kilnObject die i k h = s.setKiln die i { k with status := some Status.fault.byte } := by
  rw [State.kilnObject, hp]
  simp only [if_neg (mt (odd_iff _).mp ho), hpin, hg, bne_self_eq_false, Bool.not_false, Bool.false_eq_true, if_false, if_true]

variable (hg : granted e.rights 3 = true)
include hg

theorem kilnObject_beyond (hd : k.stop < k.d.toNat + footprint (classOf (s.header e h).size)) :
    s.kilnObject die i k h = s.setKiln die i { k with status := some Status.range.byte } := by
  rw [State.kilnObject, hp]
  simp only [if_neg (mt (odd_iff _).mp ho), hpin, hg, bne_self_eq_false, Bool.not_true, Bool.false_eq_true, if_false, if_pos hd]

variable (hd : k.d.toNat + footprint (classOf (s.header e h).size) ≤ k.stop)
include hd

theorem kilnObject_full (hf : s.freeFwd e.home h.toNat = none) :
    s.kilnObject die i k h = s.setKiln die i { k with processed := k.processed + 1, skFull := k.skFull + 1 } := by
  rw [State.kilnObject, hp]
  simp only [if_neg (mt (odd_iff _).mp ho), hpin, hg, bne_self_eq_false, Bool.not_true, Bool.false_eq_true, if_false,
    if_neg (Nat.not_lt.mpr hd), hf]

theorem kilnObject_installs {p : Nat} (hf : s.freeFwd e.home h.toNat = some p) (hr : e.repl = false) :
    s.kilnObject die i k h
      = ((s.setFwd k p [2 ^ 62 + h.toNat, k.d.toNat, footprint (classOf (s.header e h).size), 0]).setFlags k (e.at h) 1).setKiln die i
          { k with processed := k.processed + 1, cur := some (h.toNat, k.d.toNat, footprint (classOf (s.header e h).size)),
                   hdrAt := e.at h, fwdAt := p } := by
  have hw : s.beforeWrite (dieOf k.loc) h.toNat (some e) = s := if_neg (by rw [hr]; exact Bool.false_ne_true)
  rw [State.kilnObject, hp]
  simp only [if_neg (mt (odd_iff _).mp ho), hpin, hg, bne_self_eq_false, Bool.not_true, Bool.false_eq_true, if_false,
    if_neg (Nat.not_lt.mpr hd), hf, hw]

theorem kiln_kilnObject_installs {p : Nat} (hf : s.freeFwd e.home h.toNat = some p) (hr : e.repl = false) :
    (s.kilnObject die i k h).kiln die i = { k with
      processed := k.processed + 1
      cur := some (h.toNat, k.d.toNat, footprint (classOf (s.header e h).size))
      hdrAt := e.at h
      fwdAt := p } := by
  rw [kilnObject_installs hp ho hpin hg hd hf hr, kiln_setKiln]

theorem mem_kilnObject_installs {p : Nat} (hf : s.freeFwd e.home h.toNat = some p) (hr : e.repl = false) :
    (s.kilnObject die i k h).mem
      = ((s.setFwd k p [2 ^ 62 + h.toNat, k.d.toNat, footprint (classOf (s.header e h).size), 0]).setFlags k (e.at h) 1).mem := by
  rw [kilnObject_installs hp ho hpin hg hd hf hr]
  rfl

end

section
variable {s : State} {k : Kiln} {e : Plb} {h : Word} {p d f : Nat}

/-- Memory after an install whose entry lies apart from the header, which no state marks. -/
theorem mem_install (hm : MemoryInv s) (ho : ¬ Header.odd (s.header e h)) (hapart : e.at h + 16 ≤ p ∨ p + 32 ≤ e.at h) :
    ((s.setFwd k p [2 ^ 62 + h.toNat, d, f, 0]).setFlags k (e.at h) 1).mem
      = (s.mem.setEntry p (2 ^ 62 + h.toNat) d f 0).write (e.at h + 12) 4 1 := by
  have hflags : (Header.of (s.mem.read (e.at h) 16)).flags / 4 = 0 := by
    by_contra hne
    exact ho (.inr (.inr hne))
  rw [mem_setFlags, mem_setFwd, read_setEntry_apart hm hapart, hflags]

/-- What an install leaves in memory: the entry's words, the header in state 1, every other byte as it was. -/
theorem install_leaves (hm : MemoryInv s) (ho : ¬ Header.odd (s.header e h)) (hapart : e.at h + 16 ≤ p ∨ p + 32 ≤ e.at h)
    (hh : h.toNat < 2 ^ 56) (hd : d < 2 ^ 64) (hf : f < 2 ^ 64) {m : Memory}
    (hmem : m = ((s.setFwd k p [2 ^ 62 + h.toNat, d, f, 0]).setFlags k (e.at h) 1).mem) :
    m.read p 8 = 2 ^ 62 + h.toNat ∧ m.read (p + 8) 8 = d ∧ m.read (p + 16) 8 = f
      ∧ Header.of (m.read (e.at h) 16) = { s.header e h with flags := 1 }
      ∧ ∀ a, (a < p ∨ p + 32 ≤ a) → (a < e.at h + 12 ∨ e.at h + 16 ≤ a) → m.byte a = s.mem.byte a := by
  have hw := wf_setEntry (p := p) (a := 2 ^ 62 + h.toNat) (b := d) (c := f) (d := 0) hm
  obtain ⟨r0, r1, r2⟩ := read_setEntry (p := p) (d := 0) hm (show 2 ^ 62 + h.toNat < 2 ^ 64 by omega) hd hf
  rw [mem_install hm ho hapart] at hmem
  subst hmem
  refine ⟨?_, ?_, ?_, ?_, fun a hp ha => ?_⟩
  · rw [read_write_apart hw (by omega), r0]
  · rw [read_write_apart hw (by omega), r1]
  · rw [read_write_apart hw (by omega), r2]
  · rw [header_of_write_flags hw _ (by decide), read_setEntry_apart hm hapart]
    rfl
  · rw [byte_write hw, if_neg (by omega), byte_setEntry_outside hm hp]

end

/-! ### The walk, the copy and the report (R278 to R280, R294) -/

/-- A Kiln that runs a job and is between objects. -/
structure Walking (k : Kiln) : Prop where
  running : k.running = true
  cur : k.cur = none
  status : k.status = none

theorem Walking.guard {k : Kiln} (h : Walking k) : ¬ (!k.running || k.cur.isSome || k.status.isSome) = true := by
  rw [h.running, h.cur, h.status]
  exact Bool.false_ne_true

section
variable {s u : State} {k : Kiln} (hk : s.kiln s.cur s.sub = k)
include hk

theorem kilnInstall_checks (hw : Walking k) (hc : k.checked = false) :
    exec .kilnInstall s = .next ((s.regionsStatus k k.count 0).1.setKiln s.cur s.sub { k with
      checked := true
      status := if (s.regionsStatus k k.count 0).2 = .ok then none else some (s.regionsStatus k k.count 0).2.byte }) := by
  show execKilnInstall s = _
  simp only [execKilnInstall, hk, if_neg hw.guard, hc, Bool.not_false, if_true, beq_iff_eq]

theorem kilnInstall_through (hw : Walking k) (hc : k.checked = true) (hn : k.count ≤ k.region) :
    exec .kilnInstall s = .next (s.setKiln s.cur s.sub { k with status := some Status.ok.byte }) := by
  have hc' : ¬ (!k.checked) = true := by simp [hc]
  show execKilnInstall s = _
  simp only [execKilnInstall, hk, if_neg hw.guard, if_neg hc', if_pos hn]

/-- The state in which a region's walk has come to its next live object, or to its end. -/
def State.kilnNext (s : State) (die i : Nat) (k : Kiln) (base : Word) (z : Nat) (o : Option Nat) : State :=
  match o with
  | some b => s.kilnObject die i { k with bit := b + 1 } (base + BitVec.ofNat 64 (16 * b))
  | none => s.setKiln die i { k with region := k.region + 1, bit := 0, bitBase := k.bitBase + 4 ^ z * 256 }

theorem kilnInstall_walks {s1 : State} {base : Word} {z : Nat} {o : Option Nat} (hw : Walking k) (hc : k.checked = true)
    (hn : k.region < k.count) (he : s.regionEntry k k.region = some (s1, base, z))
    (hl : s1.nextLive k k.bitBase (4 ^ z * 256 - k.bit) k.bit = .ok (u, o)) :
    exec .kilnInstall s = .next (u.kilnNext s.cur s.sub k base z o) := by
  have hc' : ¬ (!k.checked) = true := by simp [hc]
  show execKilnInstall s = _
  simp only [execKilnInstall, hk, if_neg hw.guard, if_neg hc', if_neg (Nat.not_le.mpr hn), he, hl]
  cases o <;> rfl

theorem kilnMove_moves {h d f : Nat} (hc : k.cur = some (h, d, f)) (hu : s.kilnCopied k h d f = some u) :
    exec .kilnMove s = .next ((u.setKiln s.cur s.sub { k with
      cur := none, moved := k.moved + 1, bytes := k.bytes + f, d := k.d + BitVec.ofNat 64 f }).kilnLeave k h (some d)) := by
  show execKilnMove s = _
  simp only [execKilnMove, hk, hc, hu]

theorem kilnFault_rolls_back {h d f : Nat} (hc : k.cur = some (h, d, f)) (hu : s.kilnCopied k h d f = none) :
    exec .kilnFault s
      = .next ((s.setKiln s.cur s.sub { k with cur := none, status := some Status.fault.byte }).kilnLeave k h none) := by
  show execKilnFault s = _
  simp only [execKilnFault, hk, hc, hu]

theorem kilnReport_ends {st : BitVec 8} (hr : k.running = true) (hst : k.status = some st) :
    exec .kilnReport s = .next ((((s.writeReport k st (k.words st)).1.dropAsks (tidNo (k.home, k.ctx))).setKiln s.cur s.sub
      { k with running := false, status := none }).post k.home k.ctx 5 (Status.ofByte (s.writeReport k st (k.words st)).2) k.tag
        (BitVec.ofNat 64 k.moved)) := by
  show execKilnReport s = _
  simp only [execKilnReport, hk, hr, hst, Bool.not_true, Bool.false_eq_true, if_false]

end

end Sys2Proof.Machine
end

section
/-! PROOFS. The matrix units (O43): the arbiter, the steps of a tile and of a sort, and what ends them. -/

namespace Sys2Proof.Machine

/-! ### The arbiter (R313) -/

theorem mxuArbitrate_starts {s : State} {r credit : Nat} {c : MxCmd} {q : List MxCmd} (hrun : (s.clu s.cur).run = none)
    (hp : s.mxPick s.cur = some (r, credit)) (hq : s.mxQueue s.cur r = c :: q)
    (hr : c.isTile = true → s.mxRights s.cur c = none) :
    exec .mxuArbitrate s = .next ((s.mxPop s.cur r).modClu s.cur (fun u =>
      { u with run := some c, runReq := r, planes := s.mxPlanes s.cur c, step := 0, waitFrom := none, ptr := r, credit := credit,
               parity := none })) := by
  have hrights : (if c.isTile then s.mxRights s.cur c else none) = none := by
    split
    · exact hr ‹_›
    · rfl
  show execMxuArbitrate s = _
  simp only [execMxuArbitrate, hrun, hp, hq, List.head?_cons, hrights, Option.isSome_none, Bool.false_eq_true, if_false]

/-! ### Steps and ends of a running command (R319, R322, R328) -/

/-- What is written goes to other packages, whose answers come before the next vector or segment, or that one follows. -/
theorem mxWritten_eq (s u : State) :
    s.mxWritten u = if s.newWrites u = [] then u.mxNext else u.modClu s.cur (fun k => { k with far := s.newWrites u }) := by
  simp only [State.mxWritten, List.isEmpty_iff]

section
variable {s : State} {k : Clu} {c : MxCmd} (hk : s.clu s.cur = k) (hrun : k.run = some c)
include hk hrun

section
variable (ht : c.isTile = true)
include ht

theorem tileCompletion_ends (hf : k.far = []) (hm : (TileBlk.of c.blk.toNat).m ≤ k.step) :
    exec .tileCompletion s = .next (s.mxEnd c .ok 0) := by
  have hm' : (s.mxTile c s.cur k.planes).t.m ≤ k.step := hm
  show execTileCompletion s = _
  simp only [execTileCompletion, hk, hrun, ht, hf, List.isEmpty_nil, Bool.not_true, Bool.false_eq_true, if_false, if_pos hm']

section
variable (hf : k.far = []) (hm : k.step < (TileBlk.of c.blk.toNat).m) (hw : (s.mxTile c s.cur k.planes).waits s k.step = false)
include hf hm hw

theorem tileCompletion_performs {u : State} (hu : (s.mxTile c s.cur k.planes).vector s k.step = .ok u) :
    exec .tileCompletion s = .next (s.mxWritten u) := by
  have hm' : ¬ (s.mxTile c s.cur k.planes).t.m ≤ k.step := Nat.not_le.mpr hm
  show execTileCompletion s = _
  simp only [execTileCompletion, hk, hrun, ht, hf, hw, hu, List.isEmpty_nil, Bool.not_true, Bool.false_eq_true, if_false, if_neg hm']

theorem tileCompletion_faults {u : State} {a : Word} (hu : (s.mxTile c s.cur k.planes).vector s k.step = .error (u, a)) :
    exec .tileCompletion s = .next (s.mxEnd c .fault (mxValue k.step (faultPage a))) := by
  have hm' : ¬ (s.mxTile c s.cur k.planes).t.m ≤ k.step := Nat.not_le.mpr hm
  show execTileCompletion s = _
  simp only [execTileCompletion, hk, hrun, ht, hf, hw, hu, List.isEmpty_nil, Bool.not_true, Bool.false_eq_true, if_false, if_neg hm']

end

theorem tileCompletion_far_fault {a : Word} (hf : k.far ≠ []) (ha : s.farFailed k.far = some a) :
    exec .tileCompletion s = .next (s.mxEnd c .fault (mxValue k.step (faultPage a))) := by
  have hf' : (!k.far.isEmpty) = true := by simpa using hf
  show execTileCompletion s = _
  simp only [execTileCompletion, hk, hrun, ht, hf', ha, Bool.not_true, Bool.false_eq_true, if_false, if_true]

theorem tileCompletion_acknowledged (hf : k.far ≠ []) (ha : s.farFailed k.far = none) (hu : s.unacked k.far = false) :
    exec .tileCompletion s = .next s.mxNext := by
  have hf' : (!k.far.isEmpty) = true := by simpa using hf
  show execTileCompletion s = _
  simp only [execTileCompletion, hk, hrun, ht, hf', ha, hu, Bool.not_true, Bool.false_eq_true, if_false, if_true]

theorem fillWaitTimeout_ends {fr : Nat} (hfrom : k.waitFrom = some fr) (hw : (s.mxTile c s.cur k.planes).waits s k.step = true)
    (hl : fr + c.limit ≤ s.cycle) : exec .fillWaitTimeout s = .next (s.mxEnd c .timeout (mxValue k.step 0)) := by
  show execFillWaitTimeout s = _
  simp only [execFillWaitTimeout, hk, hrun, hfrom, ht, hw, decide_eq_true hl, Bool.and_self, if_true]

theorem mxuParityError_recomputes (hm : k.step < (TileBlk.of c.blk.toNat).m) (hp : k.parity ≠ some k.step) :
    exec .mxuParityError s = .next (s.setClu s.cur { k with
      mxerr := if k.mxerr = BitVec.allOnes 32 then k.mxerr else k.mxerr + 1
      planes := s.mxPlanes s.cur c
      parity := some k.step }) := by
  have hp' : (k.parity == some k.step) = false := beq_false_of_ne hp
  have hm' : ¬ (!c.isTile || decide ((TileBlk.of c.blk.toNat).m ≤ k.step)) = true := by simp [ht, hm]
  show execMxuParityError s = _
  simp only [execMxuParityError, hk, hrun, if_neg hm', hp', Bool.false_eq_true, if_false, beq_iff_eq]

end

section
variable (ht : c.isTile = false)
include ht

theorem sortCompletion_ends (hf : k.far = []) (hm : (SortBlk.of c.blk.toNat).segments ≤ k.step) :
    exec .sortCompletion s = .next (s.mxEnd c .ok 0) := by
  show execSortCompletion s = _
  simp only [execSortCompletion, hk, hrun, ht, hf, List.isEmpty_nil, Bool.not_true, Bool.false_eq_true, if_false, if_pos hm]

section
variable (hf : k.far = []) (hm : k.step < (SortBlk.of c.blk.toNat).segments)
include hf hm

theorem sortCompletion_performs {u : State} (hu : s.sortSegment (s.mxView c s.cur) (s.mxAgent c s.cur) (SortBlk.of c.blk.toNat)
    (c.form == .topk) k.step = .ok u) : exec .sortCompletion s = .next (s.mxWritten u) := by
  show execSortCompletion s = _
  simp only [execSortCompletion, hk, hrun, ht, hf, hu, List.isEmpty_nil, Bool.not_true, Bool.false_eq_true, if_false,
    if_neg (Nat.not_le.mpr hm)]

theorem sortCompletion_faults {u : State} {a : Word} (hu : s.sortSegment (s.mxView c s.cur) (s.mxAgent c s.cur)
    (SortBlk.of c.blk.toNat) (c.form == .topk) k.step = .error (u, a)) :
    exec .sortCompletion s = .next (s.mxEnd c .fault (faultPage a)) := by
  show execSortCompletion s = _
  simp only [execSortCompletion, hk, hrun, ht, hf, hu, List.isEmpty_nil, Bool.not_true, Bool.false_eq_true, if_false,
    if_neg (Nat.not_le.mpr hm)]

end

theorem sortCompletion_far_fault {a : Word} (hf : k.far ≠ []) (ha : s.farFailed k.far = some a) :
    exec .sortCompletion s = .next (s.mxEnd c .fault (faultPage a)) := by
  have hf' : (!k.far.isEmpty) = true := by simpa using hf
  show execSortCompletion s = _
  simp only [execSortCompletion, hk, hrun, ht, hf', ha, Bool.false_eq_true, if_false, if_true]

theorem sortCompletion_acknowledged (hf : k.far ≠ []) (ha : s.farFailed k.far = none) (hu : s.unacked k.far = false) :
    exec .sortCompletion s = .next s.mxNext := by
  have hf' : (!k.far.isEmpty) = true := by simpa using hf
  show execSortCompletion s = _
  simp only [execSortCompletion, hk, hrun, ht, hf', ha, hu, Bool.false_eq_true, if_false, if_true]

end
end

end Sys2Proof.Machine
end

section
/-! PROOFS. Subscriptions and the image of a scratchpad (O43): the initial copy as one write of the window, the packets, the end, and
the save and restore. -/

namespace Sys2Proof.Machine

/-! ### Bytes of a scratchpad (R304) -/

theorem spadKey_add (s : State) (c o i : Nat) : s.spadKey c (o + i) = s.spadKey c o + i := by
  simp only [State.spadKey]
  split <;> omega

theorem spadKey_of_cores {s t : State} (h : t.cores = s.cores) (c o : Nat) : t.spadKey c o = s.spadKey c o := by
  have hc : t.core c = s.core c := by rw [State.core, h]; rfl
  simp only [State.spadKey, hc]

theorem Notes.spadKey {s t : State} (h : Notes s t) (c o : Nat) : t.spadKey c o = s.spadKey c o := by
  simp only [State.spadKey]
  rw [h.cores c]

/-- Bytes written one by one at rising addresses. -/
theorem foldl_setByte_range (m : Memory) (a n : Nat) (f : Nat → Byte) :
    (List.range n).foldl (fun m i => m.setByte (a + i) (f i)) m = m.setBytes a ((List.range n).map f) := by
  induction n with
  | zero => rfl
  | succ n ih =>
    rw [List.range_succ, List.foldl_append, ih, List.map_append, setBytes_append, List.length_map, List.length_range]
    rfl

theorem natBytes_eq_map (n v : Nat) : natBytes n v = (List.range n).map (fun i => BitVec.ofNat 8 (v / 2 ^ (8 * i))) := by
  induction n generalizing v with
  | zero => rfl
  | succ n ih =>
    have hv (i : Nat) : v / 256 / 2 ^ (8 * i) = v / 2 ^ (8 * (i + 1)) := by
      rw [Nat.div_div_eq_div_mul, Nat.mul_add 8 i 1, Nat.pow_add, Nat.mul_comm]
    rw [natBytes, ih, List.range_succ_eq_map, List.map_cons, List.map_map]
    simp only [Function.comp_def, hv, Nat.succ_eq_add_one, Nat.mul_zero, Nat.pow_zero, Nat.div_one]

theorem natBytes_bytesNat (bs : List Byte) : natBytes bs.length (bytesNat bs) = bs := by
  induction bs with
  | nil => rfl
  | cons b r ih =>
    have hb := b.isLt
    have hlow : BitVec.ofNat 8 (b.toNat + 256 * bytesNat r) = b := BitVec.eq_of_toNat_eq (by rw [BitVec.toNat_ofNat]; omega)
    have hhigh : (b.toNat + 256 * bytesNat r) / 256 = bytesNat r := by omega
    rw [List.length_cons, bytesNat, natBytes, hlow, hhigh, ih]

/-! ### A packet at the subscriber's port (R298, R299) -/

/-- Only what writes at a scratchpad port touch may differ. -/
structure PortWrites (s t : State) : Prop where
  rest : t = { s with mem := t.mem, slots := t.slots, cores := t.cores, farResv := t.farResv }

theorem PortWrites.trans {s t u : State} (h : PortWrites s t) (k : PortWrites t u) : PortWrites s u := by
  have h1 := h.rest
  have k1 := k.rest
  exact ⟨by rw [k1, h1]⟩

theorem portWrites_foldl {α : Type} (f : State → α → State) (h : ∀ s a, PortWrites s (f s a)) (l : List α) (s : State) :
    PortWrites s (l.foldl f s) := by
  induction l generalizing s with
  | nil => exact ⟨rfl⟩
  | cons a r ih => exact (h s a).trans (ih _)

theorem PortWrites.arrivals {s t : State} (h : PortWrites s t) : t.arrivals = s.arrivals := by rw [h.rest]

theorem Notes.portWrites {s t : State} (h : Notes s t) : PortWrites s t := ⟨by rw [h.rest]⟩

/-- One byte of a packet, written at a core's port. -/
def State.packetByte (core base : Nat) (t : State) (i : Nat × Byte) : State :=
  ({ t with mem := t.mem.setByte (t.spadKey core (base + i.1)) i.2 } : State).breakResv none (.spad core (base + i.1)) 1

/-- The agent whose writes a packet brings (R305). -/
def Sub.agent (b : Sub) : Agent := { kind := 4, id := b.owner, thread := none, core := some b.pubCore, iface := none }

theorem applyPacket_eq (s : State) (core : Nat) (b : Sub) (p : Packet) :
    s.applyPacket core b p = (p.bytes.foldl (State.packetByte core (b.dst + (p.line * 64 - b.src))) s).ringAdd core
      (b.dst + (p.line * 64 - b.src) + ((p.bytes.head?).map Prod.fst).getD 0) p.bytes.length b.agent := rfl

theorem portWrites_applyPacket (s : State) (core : Nat) (b : Sub) (p : Packet) : PortWrites s (s.applyPacket core b p) := by
  rw [applyPacket_eq]
  exact (portWrites_foldl _ (fun _ _ => ⟨rfl⟩) _ s).trans (notes_ringAdd _ _ _ _ _).portWrites

theorem packetBytes_writes (core base : Nat) (l : List (Nat × Byte)) (s : State) :
    (l.foldl (State.packetByte core base) s).cores = s.cores
      ∧ (l.foldl (State.packetByte core base) s).mem
        = l.foldl (fun m i => m.setByte (s.spadKey core base + i.1) i.2) s.mem := by
  induction l generalizing s with
  | nil => exact ⟨rfl, rfl⟩
  | cons i r ih =>
    have hkey : (State.packetByte core base s i).spadKey core base = s.spadKey core base := spadKey_of_cores rfl _ _
    obtain ⟨hc, hm⟩ := ih (State.packetByte core base s i)
    rw [List.foldl_cons, List.foldl_cons, hc, hm, hkey, ← spadKey_add]
    exact ⟨rfl, rfl⟩

theorem spadKey_applyPacket (s : State) (core : Nat) (b : Sub) (p : Packet) (c o : Nat) :
    (s.applyPacket core b p).spadKey c o = s.spadKey c o := by
  rw [applyPacket_eq, (notes_ringAdd _ _ _ _ _).spadKey, spadKey_of_cores (packetBytes_writes core _ p.bytes s).1]

/-- A packet of a whole line. -/
def linePacket (line v : Nat) : Packet := ⟨line, BitVec.allOnes 64, BitVec.ofNat 512 v, 0, []⟩

theorem bytes_linePacket (line v : Nat) :
    (linePacket line v).bytes = (List.range 64).map (fun i => (i, BitVec.ofNat 8 ((BitVec.ofNat 512 v).toNat / 2 ^ (8 * i)))) := by
  have hall : ∀ i ∈ List.range 64, bitOf (BitVec.allOnes 64).toNat i = true := by decide
  rw [Packet.bytes, linePacket]
  simp only
  rw [List.filter_eq_self.mpr hall]

/-- A whole line is written at its place of the window, in order. -/
theorem mem_applyPacket_line (s : State) (core : Nat) (b : Sub) (line v : Nat) :
    (s.applyPacket core b (linePacket line v)).mem
      = s.mem.setBytes (s.spadKey core (b.dst + (line * 64 - b.src))) (natBytes 64 (BitVec.ofNat 512 v).toNat) := by
  rw [applyPacket_eq, (notes_ringAdd _ _ _ _ _).rest, (packetBytes_writes core _ _ s).2, bytes_linePacket, List.foldl_map,
    natBytes_eq_map]
  exact foldl_setByte_range ..

/-! ### The initial copy (R302) -/

section
variable {b : Sub} {bs : List Byte} (hsrc : b.src % 64 = 0) (core : Nat)

/-- The line of a snapshot that goes to the subscriber as packet `i`. -/
def Sub.copyLine (b : Sub) (bs : List Byte) (i : Nat) : Packet := linePacket (b.src / 64 + i) (bytesNat ((bs.drop (64 * i)).take 64))

theorem applyCopy_eq (s : State) (core : Nat) (b : Sub) (bs : List Byte) :
    s.applyCopy core b bs = (List.range (b.len / 64)).foldl (fun u i => u.applyPacket core b (b.copyLine bs i)) s := rfl

theorem portWrites_applyCopy (s : State) (core : Nat) (b : Sub) (bs : List Byte) : PortWrites s (s.applyCopy core b bs) :=
  portWrites_foldl _ (fun u i => portWrites_applyPacket u core b (b.copyLine bs i)) _ s

include hsrc

theorem mem_applyPacket_copyLine (s : State) {i : Nat} (hi : 64 * i + 64 ≤ bs.length) :
    (s.applyPacket core b (b.copyLine bs i)).mem
      = s.mem.setBytes (s.spadKey core b.dst + 64 * i) ((bs.drop (64 * i)).take 64) := by
  have hlen : ((bs.drop (64 * i)).take 64).length = 64 := by
    rw [List.length_take, List.length_drop]
    omega
  have hlt := bytesNat_lt ((bs.drop (64 * i)).take 64)
  rw [hlen, show 8 * 64 = 512 from rfl] at hlt
  have hbytes := natBytes_bytesNat ((bs.drop (64 * i)).take 64)
  rw [hlen] at hbytes
  rw [Sub.copyLine, mem_applyPacket_line, BitVec.toNat_ofNat, Nat.mod_eq_of_lt hlt, hbytes,
    show b.dst + ((b.src / 64 + i) * 64 - b.src) = b.dst + 64 * i by omega, spadKey_add]

theorem mem_applyLines (s : State) (n : Nat) (hn : 64 * n ≤ bs.length) :
    ((List.range n).foldl (fun u i => u.applyPacket core b (b.copyLine bs i)) s).mem
        = s.mem.setBytes (s.spadKey core b.dst) (bs.take (64 * n))
      ∧ ((List.range n).foldl (fun u i => u.applyPacket core b (b.copyLine bs i)) s).spadKey core b.dst = s.spadKey core b.dst := by
  induction n with
  | zero => exact ⟨rfl, rfl⟩
  | succ n ih =>
    obtain ⟨hm, hk⟩ := ih (by omega)
    have hlen : (bs.take (64 * n)).length = 64 * n := by rw [List.length_take]; omega
    rw [List.range_succ, List.foldl_append, List.foldl_cons, List.foldl_nil]
    refine ⟨?_, (spadKey_applyPacket ..).trans hk⟩
    rw [mem_applyPacket_copyLine hsrc core _ (by omega), hm, hk, Nat.mul_add 64 n 1, List.take_add, setBytes_append, hlen]

/-- The copy of a snapshot of whole lines is one write of the window. -/
theorem mem_applyCopy (s : State) (hlen : b.len % 64 = 0) (hbs : bs.length = b.len) :
    (s.applyCopy core b bs).mem = s.mem.setBytes (s.spadKey core b.dst) bs := by
  have h := (mem_applyLines (bs := bs) hsrc core s (b.len / 64) (by omega)).1
  rwa [show 64 * (b.len / 64) = bs.length by omega, List.take_length] at h

end

section
variable {s : State} {b : Sub}

/-- The state in which a subscription's initial copy is applied and its message posted. -/
def State.synced (s : State) (b : Sub) (bs : List Byte) : State :=
  ((s.applyCopy s.cur b bs).setSub s.cur s.sub { b with snap := none, st := .active }).post b.owner b.ctx 7 .ok b.tag
    (BitVec.ofNat 64 s.sub)

variable (hb : s.subAt s.cur s.sub = some b)
include hb

theorem subSyncCopy_applies {bs : List Byte} (hsnap : b.snap = some bs) (hst : b.st = .syncing) :
    exec .subSyncCopy s = .next (s.synced b bs) := by
  show execSubSyncCopy s = _
  simp only [execSubSyncCopy, hb, State.syncCopy, hsnap, hst, beq_self_eq_true, if_true]
  rfl

theorem packetFlush_sends {p : Packet} (ho : b.opened = some p) (hf : p.full = true) :
    exec .packetFlush s = .next (s.putSub s.cur s.sub b b.flush) := by
  show execPacketFlush s = _
  simp only [execPacketFlush, hb, ho, Option.any_some, hf, if_true]

theorem packetTimerExpiry_sends {p : Packet} (ho : b.opened = some p) (ht : p.opened + 64 ≤ s.cycle) :
    exec .packetTimerExpiry s = .next (s.putSub s.cur s.sub b b.flush) := by
  have ht' : decide (p.opened + packetTimer ≤ s.cycle) = true := decide_eq_true ht
  show execPacketTimerExpiry s = _
  simp only [execPacketTimerExpiry, hb, ho, Option.any_some, ht', if_true]

theorem packetApply_applies {p : Packet} {r : List Packet} (hsnap : b.snap = none) (hsent : b.sent = p :: r) :
    exec .packetApply s
      = .next ((s.applyPacket s.cur b p).setSub s.cur s.sub { b with sent := r, applied := b.applied + 1 }) := by
  show execPacketApply s = _
  simp only [execPacketApply, hb, hsnap, hsent]

theorem subDrained_frees (hst : b.st = .draining) (hsnap : b.snap = none) (ho : b.opened = none) (hsent : b.sent = []) :
    exec .subDrained s = .next ((s.modCore s.cur (fun k => { k with subs := assocDel k.subs s.sub })).modCore b.pubCore
      (fun k => { k with pubs := assocDel k.pubs b.pubIdx })) := by
  show execSubDrained s = _
  simp only [execSubDrained, hb, hst, hsnap, ho, hsent, beq_self_eq_true, Option.isNone_none, List.isEmpty_nil, Bool.and_self, if_true]

end

theorem subAt_setSub (s : State) (c e : Nat) (b : Sub) : (s.setSub c e b).subAt c e = some b := by
  rw [State.subAt, State.setSub, core_modCore_same]
  exact assoc_assocSet_same ..

theorem assoc_assocDel {α : Type} (l : List (Nat × α)) (k : Nat) : assoc (assocDel l k) k = none := by
  induction l with
  | nil => rfl
  | cons p r ih =>
    rw [assocDel, List.filter_cons]
    split
    next h => rw [assoc, if_neg (by simpa using h)]; exact ih
    next => exact ih

theorem subAt_modCore_of_subs (s : State) (k : Nat) {f : Core → Core} (hf : ∀ c, (f c).subs = c.subs) (c e : Nat) :
    (s.modCore k f).subAt c e = s.subAt c e := by
  rw [State.subAt, core_modCore, State.subAt]
  split
  next h => rw [hf, h]
  next => rfl

/-- A FREE entry holds no subscription. -/
theorem subAt_drained (s : State) (b : Sub) (e : Nat) :
    ((s.modCore s.cur (fun k => { k with subs := assocDel k.subs e })).modCore b.pubCore
      (fun k => { k with pubs := assocDel k.pubs b.pubIdx })).subAt s.cur e = none := by
  refine (subAt_modCore_of_subs _ _ ?pubs _ _).trans ?freed
  case pubs => exact fun _ => rfl
  case freed =>
    rw [State.subAt, core_modCore_same]
    exact assoc_assocDel ..

/-- The message of a subscription whose copy is complete (R302, R307). -/
theorem arrivals_synced (s : State) (b : Sub) (bs : List Byte) :
    (s.synced b bs).arrivals = s.arrivals ++ [(b.owner, b.ctx, ⟨7, Status.ok.byte, 0, b.tag, BitVec.ofNat 64 s.sub⟩)] := by
  rw [← (portWrites_applyCopy s s.cur b bs).arrivals]
  rfl

/-! ### Save and restore of a scratchpad (R304) -/

/-- A reservation that ends moves no thread. -/
theorem locOf_breakResv (s : State) (th : Option Nat) (p : Place) (n : Nat) (t : Tid) : (s.breakResv th p n).locOf t = s.locOf t := by
  unfold State.breakResv State.locOf
  simp only
  rw [List.find?_map, Option.map_map]
  congr 1
  · funext e
    simp only [Function.comp_apply]
    split
    · split <;> rfl
    · rfl
  · congr 1
    funext e
    simp only [Function.comp_apply]
    split
    · split <;> rfl
    · rfl

section
variable {s : State} {c : Nat}

/-- No thread waits for a core's command: its owner is in no slot, or goes on. -/
def State.spimgUnwaited (s : State) (c : Nat) : Prop := ∀ l, s.locOf (s.core c).spOwner = some l → (s.slot l).wait = none

theorem spimgDone_of_unwaited (h : s.spimgUnwaited c) : s.spimgDone c = s.setCore c { s.core c with spCmd := none } := by
  have hl : (s.setCore c { s.core c with spCmd := none }).locOf (s.core c).spOwner = s.locOf (s.core c).spOwner := rfl
  simp only [State.spimgDone, hl]
  cases ho : s.locOf (s.core c).spOwner with
  | none => rfl
  | some l => simp only [slot_setCore, h l ho]

theorem slot_spimgCopy (s : State) (src dst : Nat) (p : Place) (l : Nat) :
    (s.spimgCopy src dst p).slot l = { s.slot l with resv := ((s.spimgCopy src dst p).slot l).resv } :=
  slot_breakResv ({ s with mem := s.mem.copyRange src dst (2 ^ 20) } : State) none p (2 ^ 20) l

/-- The state after a copy between a scratchpad and its image, with the port redirected or not. -/
def State.imaged (s : State) (src dst : Nat) (p : Place) (on : Bool) : State :=
  ((s.spimgCopy src dst p).setCore s.cur { s.core s.cur with redirected := on }).setCore s.cur
    { s.core s.cur with redirected := on, spCmd := none }

theorem spimgDone_imaged (src dst : Nat) (p : Place) (on : Bool) (h : s.spimgUnwaited s.cur) :
    ((s.spimgCopy src dst p).setCore s.cur { s.core s.cur with redirected := on }).spimgDone s.cur = s.imaged src dst p on := by
  have hc : ((s.spimgCopy src dst p).setCore s.cur { s.core s.cur with redirected := on }).core s.cur
      = { s.core s.cur with redirected := on } := core_setCore_same ..
  rw [spimgDone_of_unwaited, hc]
  · rfl
  · intro l hl
    rw [hc] at hl
    have ho : s.locOf (s.core s.cur).spOwner = some l :=
      (locOf_breakResv ({ s with mem := s.mem.copyRange src dst (2 ^ 20) } : State) none p (2 ^ 20) _).symm.trans hl
    rw [slot_setCore, slot_spimgCopy]
    exact h l ho

/-- What a save or a restore leaves. -/
theorem imaged_leaves (s : State) (src dst : Nat) (p : Place) (on : Bool) :
    (s.imaged src dst p on).mem = s.mem.copyRange src dst (2 ^ 20)
      ∧ (s.imaged src dst p on).core s.cur = { s.core s.cur with redirected := on, spCmd := none }
      ∧ ∀ l, (s.imaged src dst p on).slot l = { s.slot l with resv := ((s.imaged src dst p on).slot l).resv } :=
  ⟨rfl, core_setCore_same .., slot_spimgCopy s src dst p⟩

theorem spimgSave_saves (hn : (s.core s.cur).spCmd = some 1) (h : s.spimgUnwaited s.cur) :
    exec .spimgSave s
      = .next (s.imaged (spadBase s.cur) (s.core s.cur).image (.dram (s.core s.cur).image) true) := by
  show execSpimgSave s = _
  rw [← spimgDone_imaged _ _ _ _ h]
  exact if_pos (by rw [hn]; rfl)

theorem spimgRestore_restores (hn : (s.core s.cur).spCmd = some 2) (h : s.spimgUnwaited s.cur) :
    exec .spimgRestore s = .next (s.imaged (s.core s.cur).image (spadBase s.cur) (.spad s.cur 0) false) := by
  show execSpimgRestore s = _
  rw [← spimgDone_imaged _ _ _ _ h]
  exact if_pos (by rw [hn]; rfl)

end

end Sys2Proof.Machine
end

section
/-! PROOFS. The steps of the engines together (O43). -/

namespace Sys2Proof.Machine

/-- Settles O43: each clause is the equation of its step above; an install's effect is what it leaves in memory, and a whole
snapshot's copy is one write of its window. -/
theorem engineSteps : Obligations.EngineSteps := by
  unfold Obligations.EngineSteps
  intro following written
  have hwritten (s u : State) : written s u = s.mxWritten u := (mxWritten_eq s u).symm
  refine ⟨?copyStart, ?copyStep, ?copyDone, fun s q r st v => copyEnd_leaves s q r st v, ?kilnInstall,
    fun s die i k h => kilnObject_unreadable, ?kilnObject, ?kilnMove, ?kilnReport,
    fun s r credit c q hrun hp hq hr => mxuArbitrate_starts hrun hp hq hr, ?tile, ?fillWait, ?sort, ?parity, ?subSync, ?packet,
    fun s b p r hb => packetApply_applies hb, ?subDrained, ?spimg⟩
  case copyStart =>
    intro s q r c hrun hq
    exact ⟨_, copyCommandStart_takes hrun hq, rfl, fun k => core_setCore ..⟩
  case copyStep =>
    intro s u q r c hrun hq hf hmore hu far
    exact ⟨copyCompletion_goes_on hrun hq hf hmore hu, copyCompletion_finishes hrun hq hf hmore hu⟩
  case copyDone =>
    intro s u q r a c hrun hq
    exact ⟨copyCompletion_far_fault hrun hq, fun hf hack =>
      ⟨copyCompletion_fault hrun hq hf hack, copyCompletion_ends hrun hq hf hack⟩⟩
  case kilnInstall =>
    intro s k hr hcur hst
    have hw : Walking k := ⟨hr, hcur, hst⟩
    refine ⟨kilnInstall_checks rfl hw, kilnInstall_through rfl hw, fun s1 s2 base z o hc hn he hl => ?_⟩
    rw [kilnInstall_walks rfl hw hc hn he hl]
    cases o <;> rfl
  case kilnObject =>
    intro s die i k h e hp o f k1 odd
    refine ⟨kilnObject_odd hp, kilnObject_pinned hp, kilnObject_unwritable hp, kilnObject_beyond hp, fun ho hpin hg hd => ⟨
      kilnObject_full hp ho hpin hg hd, fun p hf hr hm hapart hi => ?_⟩⟩
    exact ⟨kiln_kilnObject_installs hp ho hpin hg hd hf hr, install_leaves hm ho hapart (kilnPage_low hp) k.d.isLt
      (footprint_classOf_lt (s.header e h).size) (mem_kilnObject_installs hp ho hpin hg hd hf hr)⟩
  case kilnMove => exact fun s h d f hc => ⟨fun u hu => kilnMove_moves rfl hc hu, kilnFault_rolls_back rfl hc⟩
  case kilnReport => exact fun s st hr hst => kilnReport_ends rfl hr hst
  case tile =>
    intro s c k b r hrun ht
    refine ⟨fun hf => ⟨tileCompletion_ends rfl hrun ht hf, fun hm hw => ⟨fun u hu => ?_, fun u a hu => ?_⟩⟩,
      fun hf => ⟨fun a ha => ?_, fun ha hu => ?_⟩⟩
    · rw [hwritten]
      exact tileCompletion_performs rfl hrun ht hf hm hw hu
    · exact tileCompletion_faults rfl hrun ht hf hm hw hu
    · exact tileCompletion_far_fault rfl hrun ht hf ha
    · exact tileCompletion_acknowledged rfl hrun ht hf ha hu
  case fillWait => exact fun s c fr hrun hfrom ht hw hl => fillWaitTimeout_ends rfl hrun ht hfrom hw hl
  case sort =>
    intro s c k b hrun ht seg
    refine ⟨fun hf => ⟨sortCompletion_ends rfl hrun ht hf, fun hm => ⟨fun u hu => ?_, fun u a hu => ?_⟩⟩,
      fun hf => ⟨fun a ha => ?_, fun ha hu => ?_⟩⟩
    · rw [hwritten]
      exact sortCompletion_performs rfl hrun ht hf hm hu
    · exact sortCompletion_faults rfl hrun ht hf hm hu
    · exact sortCompletion_far_fault rfl hrun ht hf ha
    · exact sortCompletion_acknowledged rfl hrun ht hf ha hu
  case parity =>
    intro s c k hrun ht hm hp
    exact ⟨_, mxuParityError_recomputes rfl hrun ht hm hp, rfl, fun j => clu_setClu ..⟩
  case subSync =>
    intro s b bs hb hsnap hst
    exact ⟨_, subSyncCopy_applies hb hsnap hst, rfl, fun hsrc hlen hbs => mem_applyCopy hsrc s.cur s hlen hbs, subAt_setSub ..,
      arrivals_synced ..⟩
  case packet => exact fun s b p hb ho => ⟨packetFlush_sends hb ho, packetTimerExpiry_sends hb ho⟩
  case subDrained =>
    intro s b hb hst hsnap ho hsent
    exact ⟨_, subDrained_frees hb hst hsnap ho hsent, subAt_drained .., rfl, rfl⟩
  case spimg =>
    intro s n c hn hw
    refine ⟨?save, ?restore⟩
    case save =>
      rintro rfl
      exact ⟨_, spimgSave_saves hn hw, imaged_leaves ..⟩
    case restore =>
      rintro rfl
      exact ⟨_, spimgRestore_restores hn hw, imaged_leaves ..⟩

end Sys2Proof.Machine
end

section
/-! PROOFS. Colophon, its commands and the pod (O51). -/

namespace Sys2Proof.Machine

theorem bytesNat_natBytes (n v : Nat) : bytesNat (natBytes n v) = v % 2 ^ (8 * n) := by
  induction n generalizing v with
  | zero => simp [natBytes, bytesNat, Nat.mod_one]
  | succ n ih =>
    rw [natBytes, bytesNat, ih, BitVec.toNat_ofNat, show 8 * (n + 1) = 8 + 8 * n by omega, pow_add]
    exact (Nat.mod_mul (x := v) (a := 256) (b := 2 ^ (8 * n))).symm

/-- The conditions on an image, as propositions. -/
theorem fwVerified_iff (n : Nat) (i : List Byte) : fwVerified n i = true ↔
    bytesAt i 0 8 = 0x534B465700000001 ∧ (∀ b ∈ (i.drop 0x1263).take 29, b = 0) ∧ i.length = 0x1280 + bytesAt i 8 4
      ∧ (i.drop 0x10).take 64 = sha3 ((i.drop 0x1280).take (bytesAt i 8 4)) ∧ n ≤ bytesAt i 0xC 4
      ∧ mlVerify (natBytes 2592 Config.firmwareKey.toNat) (i.take 0x50) ((i.drop 0x50).take 4627) = true := by
  simp only [fwVerified, Bool.and_eq_true, beq_iff_eq, List.all_eq_true, decide_eq_true_eq]
  rw [fwMagic, fwBody, fwVersion]
  tauto

/-! ### Whether a command reaches Colophon -/

section
variable {s : State} {p : MPort}

theorem hears_eq_false (h : s.col.power = .off ∨ (p = .mainPort ∧ s.qpUp 2 = false)) : s.hears p = false := by
  obtain h | ⟨rfl, h⟩ := h
  · simp [State.hears, h]
  · simp [State.hears, mgmtQp, h]

theorem hears_eq_true (hp : s.col.power ≠ .off) (hm : p = .mainPort → s.qpUp 2 = true) : s.hears p = true := by
  simp only [State.hears, mgmtQp, Bool.and_eq_true, Bool.or_eq_true, bne_iff_ne]
  exact ⟨hp, Classical.or_iff_not_imp_left.mpr fun h => hm (not_not.mp h)⟩

/-- What each command does where it does not reach Colophon. -/
theorem commands_unheard (h : s.hears p = false) :
    (∀ i, exec (.loadImage p i) s = .next s) ∧ exec (.reset p) s = .next s ∧ exec (.getStatus p) s = .next s
      ∧ (∀ n, exec (.readLog p n) s = .next s) ∧ exec (.getIdentity p) s = .next s ∧ (∀ n, exec (.attest p n) s = .next s)
      ∧ ∀ w, exec (.setPowerCap p w) s = .next s := by
  simp only [exec, execLoadImage, execReset, execGetStatus, execReadLog, execGetIdentity, execAttest, execSetPowerCap, h,
    Bool.not_false, if_true, implies_true, and_self]

/-! ### Commands that reach it -/

theorem loadImage_taken (h : s.hears p = true) (hp : p ≠ .mainPort) (hl : s.col.loading = none) (i : List Byte)
    (hpow : s.col.power = .standby ∨ s.col.power = .bisque) :
    exec (.loadImage p i) s = .next { s with col := { s.col with loading := some (p, i), wasRunning := false } } := by
  show execLoadImage p i s = _
  rcases hpow with hpow | hpow <;> simp [execLoadImage, h, hp, hl, hpow, Power.resettable]

theorem loadImage_running (h : s.hears p = true) (hp : p ≠ .mainPort) (hl : s.col.loading = none) (i : List Byte)
    (hpow : s.col.power = .running) :
    exec (.loadImage p i) s = .next { s.resetCompute with
      col := { s.col with power := .standby, loading := some (p, i), wasRunning := true } } := by
  show execLoadImage p i s = _
  simp [execLoadImage, h, hp, hl, hpow, Power.resettable, State.setPower, State.resetCompute]

theorem loadImage_refused (h : s.hears p = true) (i : List Byte) (hr : p = .mainPort ∨ s.col.power = .selftest) :
    exec (.loadImage p i) s = .next { s with outs := s.outs ++ [.mgmt p Status.refused.byte []] } := by
  show execLoadImage p i s = _
  rw [execLoadImage, if_neg (by simp [h]), if_pos (by rcases hr with hr | hr <;> simp [hr, Power.resettable])]
  rfl

theorem reset_taken (h : s.hears p = true) (hl : s.col.loading = none) (hr : s.col.power.resettable = true) {x : Power}
    (hx : (if s.col.power == .running then Power.selftest else .standby) = x) :
    exec (.reset p) s = .next { s.resetCompute with
      col := { s.col with power := x }, outs := s.outs ++ [.mgmt p 0 []] } := by
  show execReset p s = _
  rw [execReset, if_neg (by simp [h]), if_neg (by simp [hr, hl]), hx]
  rfl

theorem reset_refused (h : s.hears p = true) (hs : s.col.power = .selftest) :
    exec (.reset p) s = .next { s with outs := s.outs ++ [.mgmt p Status.refused.byte []] } := by
  show execReset p s = _
  simp [execReset, h, hs, Power.resettable, State.respond, State.emit]

theorem setPowerCap_answers (h : s.hears p = true) (hp : s.col.power = .running) (hl : s.col.loading = none) (w : Nat) :
    exec (.setPowerCap p w) s = .next (if 1200 ≤ w ∧ w ≤ 2500
      then { s with col := { s.col with capWatts := w }, outs := s.outs ++ [.mgmt p 0 []] }
      else { s with outs := s.outs ++ [.mgmt p Status.range.byte []] }) := by
  show execSetPowerCap p w s = _
  by_cases hw : 1200 ≤ w ∧ w ≤ 2500
  · have hn : ¬ (w < 1200 ∨ 2500 < w) := by omega
    simp [execSetPowerCap, h, hp, hl, hw, hn]
    rfl
  · have hn : w < 1200 ∨ 2500 < w := by omega
    simp [execSetPowerCap, h, hp, hl, hw, hn]
    rfl

/-- The first 32 bytes of a report are its nonce. -/
theorem bytesAt_attestReport (s : State) (nonce : BitVec 256) (rest : List Byte) :
    bytesAt (s.attestReport nonce ++ rest) 0 32 = nonce.toNat := by
  have hl : (natBytes 32 nonce.toNat).length = 32 := length_natBytes ..
  simp only [bytesAt, State.attestReport, List.append_assoc, List.drop_zero]
  rw [List.take_append_of_le_length (by omega), List.take_of_length_le (by omega), bytesNat_natBytes]
  exact Nat.mod_eq_of_lt nonce.isLt

theorem answers_heard (h : s.hears p = true) :
    (∃ d, exec (.getStatus p) s = .next { s with fresh := s.fresh + 1, outs := s.outs ++ [.mgmt p 0 d] })
    ∧ (∀ n, ∃ d, d.length = 4096 ∧ exec (.readLog p n) s = .next { s with fresh := s.fresh + 1, outs := s.outs ++ [.mgmt p 0 d] })
    ∧ (∃ d, exec (.getIdentity p) s = .next { s with outs := s.outs ++ [.mgmt p 0 d] })
    ∧ (∀ n, ∃ d, exec (.attest p n) s = .next { s with fresh := s.fresh + 4, outs := s.outs ++ [.mgmt p 0 d] }
        ∧ bytesAt d 0 32 = n.toNat) := by
  have hn : ¬ (!s.hears p) = true := by simp [h]
  refine ⟨⟨_, if_neg hn⟩, fun n => ⟨_, ?_, if_neg hn⟩, ⟨_, if_neg hn⟩, fun n => ⟨_, if_neg hn, ?_⟩⟩
  · simp [logPage]
  · exact bytesAt_attestReport ..

end

/-! ### Images -/

theorem firmwareVerify_erases {s : State} {p : MPort} {i : List Byte} (hl : s.col.loading = some (p, i))
    (ok : fwVerified s.col.fuseMin i = true) (hf : s.col.flash ≠ []) :
    exec .firmwareVerify s = .next { s with col := { s.col with flash := [] } } := by
  show execFirmwareVerify s = _
  simp only [execFirmwareVerify, hl]
  exact if_pos (by simp [ok, hf])

/-- Colophon once an image in progress has been judged. -/
def Colophon.judged (c : Colophon) (i : List Byte) (ok : Bool) : Colophon :=
  { c with loading := none, wasRunning := false,
           power := if c.wasRunning then .selftest else if ok then .standby else c.power,
           flash := if ok then i else c.flash, fuseMin := if ok then max c.fuseMin (fwVersion i) else c.fuseMin }

theorem firmwareVerify_judges {s : State} {p : MPort} {i : List Byte} (hl : s.col.loading = some (p, i))
    (h : fwVerified s.col.fuseMin i = false ∨ s.col.flash = []) :
    exec .firmwareVerify s = .next { s with
      col := s.col.judged i (fwVerified s.col.fuseMin i),
      outs := s.outs ++ [.mgmt p (if fwVerified s.col.fuseMin i then 0 else Status.refused.byte) []] } := by
  show execFirmwareVerify s = _
  simp only [execFirmwareVerify, hl]
  refine (if_neg (by rcases h with h | h <;> simp [h])).trans ?_
  cases fwVerified s.col.fuseMin i <;> rfl

/-! ### The pod -/

theorem linkFlitReplay_sends {s : State} {l : Nat} (hl : l < 12) (hn : l ∉ s.linksDown) :
    exec (.linkFlitReplay l) s = .next (if s.col.power = .running then { s with outs := s.outs ++ [.replay l] } else s) := by
  refine congrArg Host.Outcome.next ?_
  by_cases hp : s.col.power = .running
  · rw [if_pos hp]
    exact if_pos (by simp [hp, wezilLinks, hl, hn])
  · rw [if_neg hp]
    exact if_neg (by simp [hp])

theorem linkDown_noted {s : State} {l : Nat} (hl : l < 12) (hn : l ∉ s.linksDown) :
    exec (.linkDown l) s = .next { s with linksDown := s.linksDown ++ [l] } :=
  congrArg Host.Outcome.next (if_pos (by simp [wezilLinks, hl, hn]))

theorem tickSync_sets {s : State} {v : Word}
    (h : s.col.power = .selftest ∨ (s.linked = true ∧ v.toNat ≤ s.tick.toNat + 4 ∧ s.tick.toNat ≤ v.toNat + 4)) :
    exec (.tickSync v) s = .next { s with tick := v } :=
  congrArg Host.Outcome.next (if_pos (by simpa using h))

theorem tickSync_idle {s : State} (v : Word) (hp : s.col.power ≠ .selftest) (hl : s.linked = false) :
    exec (.tickSync v) s = .next s :=
  congrArg Host.Outcome.next (if_neg (by simp [hp, hl]))

/-! ### The statement -/

/-- Settles O51: each command by the lemma on whether it reaches Colophon and by its own, and each other step from its definition. -/
theorem colophonSteps : Obligations.ColophonSteps := by
  unfold Obligations.ColophonSteps
  refine ⟨?power, fun s => ⟨rfl, rfl, rfl, rfl, rfl, rfl, rfl⟩, ?image, ?flash, fwVerified_iff,
    fun s p h => commands_unheard (hears_eq_false h), ?heard, ?throttle, ?number,
    fun s l hl hn => ⟨linkFlitReplay_sends hl hn, linkDown_noted hl hn⟩, fun s v h => tickSync_sets h,
    fun s v hp hl => tickSync_idle v hp hl⟩
  case power =>
    exact fun s => ⟨fun h => if_pos (by simp [h]), rfl, fun ok h => if_pos (by simp [h]), fun h => if_pos (by simp [h])⟩
  case image =>
    intro s p i hl ok
    by_cases he : ok = true ∧ s.col.flash ≠ []
    · refine ⟨_, firmwareVerify_erases hl he.1 he.2, fun _ _ => rfl, fun h => ?_⟩
      rcases h with h | h
      · exact absurd (he.1.symm.trans h) (by decide)
      · exact absurd h he.2
    · have hj : ok = false ∨ s.col.flash = [] := by
        rcases Bool.eq_false_or_eq_true ok with hok | hok
        · exact .inr (not_not.mp fun hf => he ⟨hok, hf⟩)
        · exact .inl hok
      refine ⟨_, firmwareVerify_judges hl hj, fun h hf => absurd ⟨h, hf⟩ he, fun _ => ⟨rfl, rfl, fun h => ?_, fun h => ?_, rfl⟩⟩
      · exact ⟨if_pos h, if_pos h⟩
      · have hn : ¬ ok = true := by simp [h]
        exact ⟨if_neg hn, if_neg hn⟩
  case flash =>
    intro s hl hp
    show execFirmwareVerify s = _
    simp only [execFirmwareVerify, hl, State.setPower]
    exact if_pos (beq_iff_eq.mpr hp)
  case heard =>
    intro s p hp hm
    have h := hears_eq_true hp hm
    obtain ⟨hstatus, hlog, hid, hattest⟩ := answers_heard h
    refine ⟨fun i hm hp hl => loadImage_taken h hm hl i hp, fun i hm hp hl => loadImage_running h hm hl i hp,
      fun i hr => loadImage_refused h i hr, fun hp hl => reset_taken h hl (by simp [hp, Power.resettable]) (by simp [hp]),
      fun hp hl => reset_taken h hl ?_ ?_, reset_refused h, hstatus, hlog, hid, hattest,
      fun w hp hl => setPowerCap_answers h hp hl w⟩
    · rcases hp with hp | hp <;> simp [hp, Power.resettable]
    · rcases hp with hp | hp <;> simp [hp]
  case throttle =>
    intro s k n hp hk
    refine ⟨s.modClu k (fun c => { c with throttle := n }), if_pos (by simp [hp, hk]), rfl, ?_, fun j hj => clu_modClu_ne s _ hj⟩
    rw [clu_modClu, if_pos rfl]
  case number =>
    intro s n h
    exact if_neg (by rcases h with h | h | h <;> simp [h])

end Sys2Proof.Machine
end

section
/-! PROOFS. Memory at reset, and with a word in place (O53). -/

namespace Sys2Proof.Machine

theorem memoryInv_placeWord {s : State} (h : MemoryInv s) (w : Nat) : MemoryInv (s.placeWord w) :=
  wf_setBytes s.mem 0 (leBytes 8 w) h

theorem memoryInv_withFetchWord {s : State} (h : MemoryInv s) (n w : Nat) : MemoryInv (s.withFetchWord n w) := by
  unfold State.withFetchWord
  split
  · exact h
  · exact memoryInv_placeWord h w

/-- Settles O53: memory at reset lists nothing, and a word in place is bytes written into it, or an element's and then none. -/
theorem resetMemoryIsCanonical : Obligations.ResetMemoryIsCanonical :=
  ⟨wf_empty, memoryInv_withFetchWord wf_empty⟩

end Sys2Proof.Machine
end

section
/-! PROOFS. `kiln.go`, and the words that read a status (O30). -/

namespace Sys2Proof.Machine

/-! ### A wait that keeps the block it has read (R143) -/

theorem waitFor_begins_blk {s : State} (k : WaitKind) {n : Nat} (e : Expiry) (blk : Option Nat) (hw : s.me.wait = none) (hn : n ≠ 0) :
    s.waitFor k n e blk = s.modMe (fun t =>
      { t with wait := some ⟨k, some (s.cycle + n), 0, e, blk, s.outerFor k⟩, st := if t.st = .ready then .wait else t.st }) := by
  rw [State.waitFor, deadlineFor_of_no_wait k n hw, if_neg (by omega), holdsEntry_of_no_wait hw, Bool.or_false]
  simp only [beq_iff_eq]

/-! ### `kiln.go` (R293) -/

section
variable {s s1 s2 u : State} {r : F5} {b : Nat}

/-- The job that a thread hands to a Kiln. -/
def State.kilnJob (s : State) (r : F5) (b : Nat) : Kiln :=
  { Kiln.reset with running := true, job := BitVec.ofNat 512 b, loc := s.cur, home := s.tid.1, ctx := s.me.ctx,
                    tag := (s.x r.s2).truncate 32, rights := s.me.sc.pdrights, d := BitVec.ofNat 64 (blkAt b 0x18 8) }

theorem freeKiln_first {d : Nat} (h : (s.kiln d 0).running = false) : s.freeKiln d = some 0 := by
  simp [State.freeKiln, h]

theorem freeKiln_second {d : Nat} (h0 : (s.kiln d 0).running = true) (h1 : (s.kiln d 1).running = false) :
    s.freeKiln d = some 1 := by
  simp [State.freeKiln, h0, h1]

theorem freeKiln_none {d : Nat} (h : ∀ i, i < 2 → (s.kiln d i).running = true) : s.freeKiln d = none := by
  simp [State.freeKiln, h 0, h 1]

theorem kilnGo_starts {i : Nat} (ha : (s.x r.s1).toNat % 64 = 0) (hb : s.beginCommand r.d false = .ok s1)
    (hr : s1.readBlock (s.x r.s1) 8 = .ok (s2, b)) (hk : kilnJobOk b = true) (hu : s2.release .pkg = .ok u)
    (hi : s2.freeKiln (dieOf s.cur) = some i) :
    exec (.kilnGo r) s = .next ((u.setKiln (dieOf s.cur) i (s.kilnJob r b)).finish r.d .ok 8) := by
  show execKilnGo r s = _
  simp only [execKilnGo, ha, bne_self_eq_false, hb, ok_bind, hr, hk, Bool.not_true, Bool.false_eq_true, if_false, hi, hu,
    State.reserved]
  rfl

theorem kilnGo_refuses (ha : (s.x r.s1).toNat % 64 = 0) (hb : s.beginCommand r.d false = .ok s1)
    (hr : s1.readBlock (s.x r.s1) 8 = .ok (s2, b)) (hk : kilnJobOk b = false) :
    exec (.kilnGo r) s = .next (s2.unreserve.finish r.d .range 8) := by
  show execKilnGo r s = _
  simp only [execKilnGo, ha, bne_self_eq_false, hb, ok_bind, hr, hk, Bool.not_false, if_true]
  rfl

theorem kilnGo_waits (ha : (s.x r.s1).toNat % 64 = 0) (hb : s.beginCommand r.d false = .ok s1)
    (hr : s1.readBlock (s.x r.s1) 8 = .ok (s2, b)) (hk : kilnJobOk b = true) (hi : s2.freeKiln (dieOf s.cur) = none) :
    exec (.kilnGo r) s = .next (s2.waitFor .kiln s2.waitlim
      { xs := [(r.d, Status.timeout.word)], release := true, len := 8 } (some b)) := by
  show execKilnGo r s = _
  simp only [execKilnGo, ha, bne_self_eq_false, hb, ok_bind, hr, hk, Bool.not_true, Bool.false_eq_true, if_false, hi]
  rfl

/-- Only one Kiln of one die differs. -/
theorem kiln_setKiln_ne (s : State) (die i : Nat) (k : Kiln) (hi : i < 2) {d j : Nat} (h : d ≠ die ∨ j % 2 ≠ i) (hj : j < 2) :
    (s.setKiln die i k).kiln d j = s.kiln d j := by
  unfold State.kiln State.setKiln
  by_cases hd : d = die
  · subst hd
    have hji : j ≠ i := by omega
    rw [die_modDie_same]
    obtain rfl | rfl : i = 0 ∨ i = 1 := by omega
    · obtain rfl : j = 1 := by omega
      rfl
    · obtain rfl : j = 0 := by omega
      rfl
  · rw [die_modDie_ne s _ hd]

end

/-! ### The words that read a status (R294, R310, R331) -/

/-- The word of `mx.stat`. -/
def State.mxStatWord (s : State) : Nat :=
  let u := s.clu (cluOfCore (coreOf s.cur))
  (if u.run.isSome && u.runReq == coreOf s.cur % 8 then u.step else 0) % 2 ^ 32 * 2 ^ 32
    + (u.run.any (fun c => c.ofThread s.tid)).toNat * 8 + u.run.isSome.toNat * 4 + s.mxCount (coreOf s.cur)

theorem mxStat_reads (s : State) (xd : BitVec 5) :
    exec (.mxStat xd) s = .next ((s.setX xd (BitVec.ofNat 64 s.mxStatWord)).retire 8) := rfl

/-- Four fields of a word that do not meet. -/
theorem mxFields {d c : Nat} (p q : Bool) (hd : d < 2 ^ 32) (hc : c ≤ 2) :
    let v := BitVec.ofNat 64 (d * 2 ^ 32 + q.toNat * 8 + p.toNat * 4 + c)
    v.toNat / 2 ^ 32 = d ∧ v.toNat % 4 = c ∧ bitW v 2 = p ∧ bitW v 3 = q ∧ v.toNat / 2 ^ 4 % 2 ^ 28 = 0 := by
  intro v
  have hp := Bool.toNat_lt p
  have hq := Bool.toNat_lt q
  have hv : v.toNat = d * 2 ^ 32 + q.toNat * 8 + p.toNat * 4 + c := by
    rw [BitVec.toNat_ofNat]
    exact Nat.mod_eq_of_lt (by omega)
  have hbit (i : Nat) : bitW v i = decide (v.toNat / 2 ^ i % 2 = 1) := Nat.testBit_eq_decide_div_mod_eq
  rw [hbit, hbit, hv]
  have h2 : (d * 2 ^ 32 + q.toNat * 8 + p.toNat * 4 + c) / 2 ^ 2 % 2 = p.toNat := by omega
  have h3 : (d * 2 ^ 32 + q.toNat * 8 + p.toNat * 4 + c) / 2 ^ 3 % 2 = q.toNat := by omega
  rw [h2, h3]
  refine ⟨by omega, by omega, ?_, ?_, by omega⟩
  · cases p <;> rfl
  · cases q <;> rfl

theorem mxStatWord_fields {s : State} (hc : s.mxCount (coreOf s.cur) ≤ 2) :
    let u := s.clu (cluOfCore (coreOf s.cur))
    let v := BitVec.ofNat 64 s.mxStatWord
    v.toNat / 2 ^ 32 = (if u.run.isSome && u.runReq == coreOf s.cur % 8 then u.step % 2 ^ 32 else 0)
      ∧ v.toNat % 4 = s.mxCount (coreOf s.cur) ∧ bitW v 2 = u.run.isSome ∧ bitW v 3 = u.run.any (fun c => c.ofThread s.tid)
      ∧ v.toNat / 2 ^ 4 % 2 ^ 28 = 0 := by
  intro u v
  obtain ⟨h, hrest⟩ := mxFields u.run.isSome (u.run.any (fun c => c.ofThread s.tid))
    (Nat.mod_lt (if u.run.isSome && u.runReq == coreOf s.cur % 8 then u.step else 0) (Nat.two_pow_pos 32)) hc
  refine ⟨h.trans ?_, hrest⟩
  split <;> rfl

theorem subStat_absent (s : State) (xd xe : BitVec 5) (h : 32 ≤ (s.x xe).toNat) :
    exec (.subStat xd xe) s = .next ((s.setX xd 0xFF00000000000000).retire 8) := by
  show execSubStat xd xe s = _
  rw [execSubStat, if_pos h]

theorem subStat_reads (s : State) (xd xe : BitVec 5) (h : (s.x xe).toNat < 16) :
    exec (.subStat xd xe) s = .next ((s.setX xd (BitVec.ofNat 64 (s.subWord (coreOf s.cur) (s.x xe).toNat))).retire 8) := by
  show execSubStat xd xe s = _
  rw [execSubStat, if_neg (by omega)]

theorem subWord_held {s : State} {c x : Nat} {b : Sub} (hx : x < 16) (hb : s.subAt c x = some b) :
    s.subWord c x = b.st.code * 2 ^ 56 + (s.core c).redirected.toNat * 2 ^ 55 + b.src * 2 ^ 32 + b.applied.toNat := by
  have h0 : x / 16 = 0 := by omega
  have hm : x % 16 = x := by omega
  simp [State.subWord, h0, hm, hb]

theorem subWord_free {s : State} {c x : Nat} (hx : x < 16) (hb : s.subAt c x = none) :
    s.subWord c x = (s.core c).redirected.toNat * 2 ^ 55 := by
  have h0 : x / 16 = 0 := by omega
  have hm : x % 16 = x := by omega
  simp [State.subWord, h0, hm, hb]

theorem code_subSt_lt (t : SubSt) : t.code < 4 := by
  cases t <;> decide

/-- The fields of a subscription's word do not meet. -/
theorem subFields {c a n : Nat} (p : Bool) (hc : c < 4) (ha : a < 2 ^ 20) (hn : n < 2 ^ 32) :
    let v := BitVec.ofNat 64 (c * 2 ^ 56 + p.toNat * 2 ^ 55 + a * 2 ^ 32 + n)
    v.toNat / 2 ^ 56 = c ∧ bitW v 55 = p ∧ v.toNat / 2 ^ 32 % 2 ^ 20 = a ∧ v.toNat % 2 ^ 32 = n := by
  intro v
  have hp := Bool.toNat_lt p
  have hv : v.toNat = c * 2 ^ 56 + p.toNat * 2 ^ 55 + a * 2 ^ 32 + n := by
    rw [BitVec.toNat_ofNat]
    exact Nat.mod_eq_of_lt (by omega)
  have hbit : bitW v 55 = decide (v.toNat / 2 ^ 55 % 2 = 1) := Nat.testBit_eq_decide_div_mod_eq
  rw [hbit, hv]
  have h55 : (c * 2 ^ 56 + p.toNat * 2 ^ 55 + a * 2 ^ 32 + n) / 2 ^ 55 % 2 = p.toNat := by omega
  rw [h55]
  refine ⟨by omega, ?_, by omega, by omega⟩
  cases p <;> rfl

/-! ### The statement -/

/-- Settles O30: `kiln.go` by which Kiln of the die is free, and each status word by the fields of the number it reads. -/
theorem kilnAndStatusWords : Obligations.KilnAndStatusWords := by
  unfold Obligations.KilnAndStatusWords
  refine ⟨?starts, fun s s1 s2 r b ha hb hr hk => ⟨_, kilnGo_refuses ha hb hr hk, writesX_finish ..⟩, ?waits,
    fun s xd xk => ⟨_, rfl, writesX_retire ..⟩,
    fun s xd hc => ⟨_, _, mxStat_reads s xd, writesX_retire .., mxStatWord_fields hc⟩,
    fun s xd xe h => ⟨_, subStat_absent s xd xe h, writesX_retire ..⟩, ?held, ?free⟩
  case starts =>
    intro s s1 s2 u r b ha hb hr hk hu die job i hi
    have hfree : s2.freeKiln die = some i ∧ i < 2 := by
      obtain ⟨h, rfl⟩ | ⟨h0, h1, rfl⟩ := hi
      · exact ⟨freeKiln_first h, by decide⟩
      · exact ⟨freeKiln_second h0 h1, by decide⟩
    refine ⟨_, kilnGo_starts ha hb hr hk hu hfree.1, writesX_finish .., kiln_setKiln u die i job, fun d j h hj => ?_⟩
    exact kiln_setKiln_ne u die i job hfree.2 h hj
  case waits =>
    intro s s1 s2 r b ha hb hr hk hrun hw hl
    refine ⟨_, kilnGo_waits ha hb hr hk (freeKiln_none hrun), ?_⟩
    rw [waitFor_begins_blk _ _ _ hw hl.ne']
    exact ⟨onlyThread_modMe .., me_modMe ..⟩
  case held =>
    intro s xd xe b hx hb hsrc
    refine ⟨_, _, subStat_reads s xd xe hx, writesX_retire .., ?_⟩
    rw [subWord_held hx hb]
    exact subFields _ (code_subSt_lt b.st) hsrc b.applied.isLt
  case free =>
    intro s xd xe hx hb
    refine ⟨_, _, subStat_reads s xd xe hx, writesX_retire .., ?_⟩
    have hp := Bool.toNat_lt (s.core (coreOf s.cur)).redirected
    rw [subWord_free hx hb, BitVec.toNat_ofNat]
    exact Nat.mod_eq_of_lt (by omega)

end Sys2Proof.Machine
end

section
/-! PROOFS. The scoped atomics (O17): the atomic at its place, and the words around it. -/

namespace Sys2Proof.Machine

/-! ### An atomic at the place it reached (R340, R352) -/

section
variable {s u : State} {va : Word} {n : Nat} {o : FarOp} {f : Nat → Option Nat} {p : Place} {e : Option Plb}

theorem homePlace_of_not_repl (va : Word) (p : Place) (he : ∀ x, e = some x → x.repl = false) : homePlace va p e = p := by
  cases e with
  | none => rfl
  | some x => rw [homePlace, if_neg (by simp [he x rfl])]

theorem beforeWrite_of_not_repl (s : State) (d a : Nat) (he : ∀ x, e = some x → x.repl = false) : s.beforeWrite d a e = s := by
  cases e with
  | none => rfl
  | some x => rw [State.beforeWrite, if_neg (by simp [he x rfl])]

theorem atomic_near (hb : s.beforeAccess .amo va n = .ok (u, p, e)) (hp : p.near) (he : ∀ x, e = some x → x.repl = false) :
    s.atomic va n o f = match f (u.get p n) with
      | some v => .ok (u.writeAt s.cur va (p, e) n v 1, u.get p n)
      | none => .ok (u, u.get p n) := by
  rw [State.atomic, show s.beforeAccess .amo va n 0 true = .ok (u, p, e) from hb, ok_bind]
  dsimp only
  rw [homePlace_of_not_repl va p he, beforeWrite_of_not_repl u _ _ he]
  cases p with
  | far w => exact hp.elim
  | dram pa => rfl
  | spad c off => rfl

end

/-! ### The words (R352) -/

section
variable {s s1 s2 u : State} {i : Instr} {sc : Scope} {rd rs1 rs2 : BitVec 5} {a : Word} {n : Nat} {o : FarOp} {old : Nat}

theorem amoOld_passes (hf : ∀ f ∈ s.me.far, f.1 ≠ a) (ha : a.toNat % n = 0) (hp : s.protect .amo a n = .ok s1)
    (hr : (if sc = .thr then .ok s1 else s1.release sc) = .ok s2) : s.amoOld sc a n o = s2.atomic a n o o.new := by
  have hr' : s1.amoRelease sc = .ok s2 := by
    rw [← hr, State.amoRelease]
    simp only [beq_iff_eq]
  simp only [State.amoOld, far_any_eq_false hf, ha, bne_self_eq_false, Bool.false_eq_true, if_false, hp, hr', ok_bind]

theorem amoOld_awaiting (hf : ∃ f ∈ s.me.far, f.1 = a) : s.amoOld sc a n o = s.atomic a n o o.new := by
  have h : s.me.far.any (fun f => f.1 == a) = true := by simpa using hf
  simp only [State.amoOld, h, if_true]

theorem amoOld_misaligned (hf : ∀ f ∈ s.me.far, f.1 ≠ a) (ha : a.toNat % n ≠ 0) : s.amoOld sc a n o = s.raise 6 a := by
  rw [State.amoOld, far_any_eq_false hf, if_neg Bool.false_ne_true, if_pos (bne_iff_ne.mpr ha)]
  rfl

theorem amo_of_old (h : s.amoOld sc a n o = .ok (u, old)) :
    s.amo sc rd a n o = .ok ((u.setX rd (loadedWord n old)).retire 4) := by
  rw [State.amo, h]
  rfl

/-- What a word that is one scoped AMO does: it passes its checks, goes on with a reply, or is out of alignment. -/
theorem amo_runs (w : Bool) (hx : exec i s = Go.done (s.amo sc rd a (if w then 8 else 4) o)) :
    let n := if w then 8 else 4
    let done (u : State) (old : Nat) : Prop := ∃ t, exec i s = .next t
      ∧ WritesX u t rd (if n = 4 then (BitVec.ofNat 32 old).signExtend 64 else BitVec.ofNat 64 old) 4
    (∀ s1 s2 u old, (∀ f ∈ s.me.far, f.1 ≠ a) → a.toNat % n = 0 → s.protect .amo a n = .ok s1 →
      (if sc = .thr then .ok s1 else s1.release sc) = .ok s2 → s2.atomic a n o o.new = .ok (u, old) → done u old)
    ∧ (∀ u old, (∃ f ∈ s.me.far, f.1 = a) → s.atomic a n o o.new = .ok (u, old) → done u old)
    ∧ ((∀ f ∈ s.me.far, f.1 ≠ a) → a.toNat % n ≠ 0 → exec i s = .next (s.trap s.cur { cause := 6, tval := a })) := by
  intro n done
  have hdone (u : State) (old : Nat) (h : s.amoOld sc a n o = .ok (u, old)) : done u old := by
    refine ⟨_, by rw [hx, amo_of_old h, done_ok], ?_⟩
    have hv : loadedWord n old = if n = 4 then (BitVec.ofNat 32 old).signExtend 64 else BitVec.ofNat 64 old :=
      (loadedWord_eq w old).trans (by cases w <;> rfl)
    rw [← hv]
    exact writesX_retire ..
  refine ⟨fun s1 s2 u old hf ha hp hr h => hdone u old ((amoOld_passes hf ha hp hr).trans h),
    fun u old hf h => hdone u old ((amoOld_awaiting hf).trans h), fun hf ha => ?_⟩
  have hr : s.amo sc rd a n o = s.raise 6 a := by rw [State.amo, amoOld_misaligned hf ha, raise_bind]
  rw [hx, hr, done_raise]

end

/-- Settles O17: the atomic at the place it reached, and each word as its checks, its release and its atomic. -/
theorem scopedAtomics : Obligations.ScopedAtomics := by
  unfold Obligations.ScopedAtomics
  refine ⟨?atomic, fun op sc rd rs1 rs2 s => amo_runs true rfl, fun op sc rd rs1 rs2 s => amo_runs false rfl,
    fun sc rd rs1 rs2 s => amo_runs false rfl, fun sc rd rs1 rs2 s => amo_runs false rfl, ?cas128, fun op dbl src exp old => rfl,
    fun src old => ⟨rfl, rfl⟩, fun w src exp old => ⟨rfl, rfl, ?cas⟩⟩
  case atomic =>
    intro s u va n o f p e d old hm hc hh hr hp he
    have htr : Translated d u := by
      have h := translated_reach d s.cur .amo va n true
      rw [hr] at h
      exact h
    have hb : s.beforeAccess .amo va n = .ok (u, p, e) := beforeAccess_reaches hc hh hr
    have hmu : u.mem.wf = true := by
      rw [htr.mem]
      exact hm
    have hget : u.get p n = old := by
      cases p with
      | far w => exact hp.elim
      | dram pa => rfl
      | spad c off => rfl
    rw [atomic_near hb hp he, hget]
    refine ⟨htr, fun h => by rw [h], fun v h => ⟨_, by rw [h], ?_⟩⟩
    exact writes_writeAt u s.cur 1 va p e n v hmu hp he
  case cas128 =>
    intro sc rd rs1 rs2 s s1 s2 u old hf ha hp hr h
    refine ⟨_, ?_, writesXX_retire ..⟩
    show execAmoCas128 sc rd rs1 rs2 s = _
    have hn : (FarOp.cas128 (s.pair rd) (s.pair rs2)).new
        = fun old => if old = (s.pair rd).toNat then some (s.pair rs2).toNat else none := by
      funext old
      simp only [FarOp.new, beq_iff_eq]
    rw [execAmoCas128, amoOld_passes hf ha hp hr, hn, h]
    rfl
  case cas => simp only [amoNew, beq_iff_eq]

end Sys2Proof.Machine
end

section
/-! PROOFS. Barriers (O34): a barrier put back and looked up, the generations, and the words of an arrival and of its wait. -/

namespace Sys2Proof.Machine

/-! ### A barrier put back (R353) -/

section
variable (s : State) (b : Barrier)

@[simp] theorem slot_setBarrier (l : Nat) : (s.setBarrier b).slot l = s.slot l := by
  rw [setBarrier_rest]
  rfl

theorem cur_setBarrier : (s.setBarrier b).cur = s.cur := by rw [setBarrier_rest]

/-- A barrier that is put back keeps everything but the barriers and the messages to other packages. -/
theorem openUp_rest : s.openUp b = { s with bars := (s.openUp b).bars, outs := (s.openUp b).outs } := by
  unfold State.openUp
  split
  · rw [setBarrier_rest]
  · rw [setBarrier_rest]

theorem ripe_rest (sc : Scope) (id : Nat) :
    s.ripe sc id = { s with bars := (s.ripe sc id).bars, outs := (s.ripe sc id).outs } := by
  unfold State.ripe
  dsimp only
  split
  · rw [openUp_rest]
  · rfl

theorem me_ripe (sc : Scope) (id : Nat) : (s.ripe sc id).me = s.me := by
  rw [ripe_rest]
  rfl

theorem waitlim_ripe (sc : Scope) (id : Nat) : (s.ripe sc id).waitlim = s.waitlim := by
  rw [State.waitlim, me_ripe]
  rfl

/-- A barrier has the key by which its job, the place of its scope and its ID name it. -/
def Barrier.keyed (s : State) (sc : Scope) (id : Nat) (b : Barrier) : Prop :=
  b.same (s.me.job.getD 0) sc.code (instanceOf sc (coreOf s.cur)) id = true

theorem same_iff {b : Barrier} {j l i n : Nat} : b.same j l i n = true ↔ b.job = j ∧ b.lvl = l ∧ b.inst = i ∧ b.id = n := by
  simp [Barrier.same, and_assoc]

theorem keyed_barrier (sc : Scope) (id : Nat) : (s.barrier sc id).keyed s sc id := by
  unfold State.barrier
  dsimp only
  cases h : s.bars.find? (fun b => b.same (s.me.job.getD 0) sc.code (instanceOf sc (coreOf s.cur)) id) with
  | none => exact same_iff.mpr ⟨rfl, rfl, rfl, rfl⟩
  | some c =>
    have hc := List.find?_some h
    exact hc

/-- The first element found after every one that is found has been replaced by one of its kind. -/
theorem find?_map_replace {α : Type} (p : α → Bool) (b : α) (hb : p b = true) (l : List α) (h : l.any p = true) :
    (l.map (fun c => if p c then b else c)).find? p = some b := by
  induction l with
  | nil => cases h
  | cons c r ih =>
    by_cases hc : p c = true
    · rw [List.map_cons, if_pos hc, List.find?_cons_of_pos hb]
    · rw [List.map_cons, if_neg hc, List.find?_cons_of_neg hc]
      exact ih (by simpa [hc] using h)

variable {s b} in
theorem barrier_setBarrier {sc : Scope} {id : Nat} (h : b.keyed s sc id) : (s.setBarrier b).barrier sc id = b := by
  have hme : (s.setBarrier b).me = s.me := by rw [State.me, State.me, slot_setBarrier, cur_setBarrier]
  have hb : b.same (s.me.job.getD 0) sc.code (instanceOf sc (coreOf s.cur)) id = true := h
  obtain ⟨hj, hl, hi, hn⟩ := same_iff.mp hb
  unfold State.barrier
  dsimp only
  rw [hme, cur_setBarrier]
  unfold State.setBarrier
  rw [hj, hl, hi, hn]
  by_cases ha : s.bars.any (fun c => c.same (s.me.job.getD 0) sc.code (instanceOf sc (coreOf s.cur)) id) = true
  · rw [if_pos ha]
    dsimp only
    rw [find?_map_replace (fun c => c.same (s.me.job.getD 0) sc.code (instanceOf sc (coreOf s.cur)) id) b hb _ ha]
    rfl
  · rw [if_neg ha]
    dsimp only
    have hn : s.bars.find? (fun c => c.same (s.me.job.getD 0) sc.code (instanceOf sc (coreOf s.cur)) id) = none := by
      simpa [List.find?_eq_none] using ha
    simp only [List.find?_append, hn, Option.none_or, List.find?_cons, hb, Option.getD_some]

variable {s b} in
theorem gen_barrier_openUp {sc : Scope} {id : Nat} (h : b.keyed s sc id) : ((s.openUp b).barrier sc id).gen = b.gen := by
  unfold State.openUp
  split
  · rw [barrier_setBarrier]
    exact h
  · rw [barrier_setBarrier h]

theorem barrier_modMe_arr (sc : Scope) (id : Nat) (f : List (Nat × Nat) → List (Nat × Nat)) :
    (s.modMe (fun t => { t with arr := f t.arr })).barrier sc id = s.barrier sc id := by
  rw [State.barrier, me_modMe]
  rfl

/-- Opening a generation keeps what the barrier is known by. -/
theorem keyed_congr {c : Barrier} {sc : Scope} {id : Nat} (h : b.keyed s sc id) (hj : c.job = b.job) (hl : c.lvl = b.lvl)
    (hi : c.inst = b.inst) (hn : c.id = b.id) : c.keyed s sc id := by
  obtain ⟨h1, h2, h3, h4⟩ := same_iff.mp h
  exact same_iff.mpr ⟨hj.trans h1, hl.trans h2, hi.trans h3, hn.trans h4⟩

/-! ### Generations (R353, R354) -/

theorem nextGen_key : (s.nextGen b).job = b.job ∧ (s.nextGen b).lvl = b.lvl ∧ (s.nextGen b).inst = b.inst
    ∧ (s.nextGen b).id = b.id := by
  unfold State.nextGen
  dsimp only
  split <;> exact ⟨rfl, rfl, rfl, rfl⟩

theorem nextGen_gen : (s.nextGen b).gen = b.gen + 1 := by
  unfold State.nextGen
  dsimp only
  split <;> rfl

theorem nextGen_later : (s.nextGen b).later = [] := by
  unfold State.nextGen
  dsimp only
  split <;> rfl

theorem nextGen_arrived : (s.nextGen b).arrived = b.later := by
  unfold State.nextGen
  dsimp only
  split
  · next h =>
    have he : b.later = [] := List.isEmpty_iff.mp (Bool.and_eq_true_iff.mp h).1
    rw [he]
  · rfl

theorem nextGen_isOpen : (s.nextGen b).isOpen = (!b.later.isEmpty || b.opens.contains (b.gen + 1)) := by
  unfold State.nextGen
  dsimp only
  cases b.later.isEmpty <;> cases b.opens.contains (b.gen + 1) <;> rfl

variable {s b} in
theorem passed_key (c : Barrier) (h : c = s.passed b) : c.job = b.job ∧ c.lvl = b.lvl ∧ c.inst = b.inst ∧ c.id = b.id := by
  subst h
  obtain ⟨hj, hl, hi, hn⟩ := nextGen_key s b
  obtain ⟨kj, kl, ki, kn⟩ := nextGen_key s (s.nextGen b)
  unfold State.passed
  dsimp only
  split
  · exact ⟨rfl, rfl, rfl, rfl⟩
  · split
    · exact ⟨kj.trans hj, kl.trans hl, ki.trans hi, kn.trans hn⟩
    · exact ⟨hj, hl, hi, hn⟩

variable {s b} in
theorem gen_lt_passed (h : s.barDone b = true) : b.gen < (s.passed b).gen := by
  unfold State.passed
  dsimp only
  rw [h, if_neg (by decide)]
  split
  · rw [nextGen_gen, nextGen_gen]
    omega
  · rw [nextGen_gen]
    omega

variable {s} in
theorem ripe_of_not_done {sc : Scope} {id : Nat} (h : s.barDone (s.barrier sc id) = false) : s.ripe sc id = s := by
  exact if_neg (by simp [h])

variable {s} in
theorem gen_lt_ripe {sc : Scope} {id : Nat} (h : s.barDone (s.barrier sc id) = true) :
    (s.barrier sc id).gen < ((s.ripe sc id).barrier sc id).gen := by
  obtain ⟨hj, hl, hi, hn⟩ := passed_key (s := s) (b := s.barrier sc id) _ rfl
  have hr : s.ripe sc id = s.openUp (s.passed (s.barrier sc id)) := if_pos h
  rw [hr, gen_barrier_openUp (keyed_congr s _ (keyed_barrier s sc id) hj hl hi hn)]
  exact gen_lt_passed h

theorem barDone_iff : s.barDone b = true ↔ b.isOpen = true ∧ (∀ m ∈ b.parts, m ∈ b.arrived ∨ s.alive m = false)
    ∧ (s.gangOthers b = [] ∨ ∀ p ∈ s.pkg.toNat :: s.gangOthers b, (b.gen, p) ∈ b.heard) := by
  simp only [State.barDone, State.barLocal, Bool.and_eq_true, Bool.or_eq_true, List.all_eq_true, List.contains_iff_mem,
    Bool.not_eq_true', List.isEmpty_iff, and_assoc]

/-! ### Arrivals (R354, R355) -/

theorem arrive_gen (t : Tid) : (s.arrive b t).1.gen = b.gen := by
  unfold State.arrive
  dsimp only
  split <;> split <;> rfl

theorem arrive_key (t : Tid) : (s.arrive b t).1.job = b.job ∧ (s.arrive b t).1.lvl = b.lvl ∧ (s.arrive b t).1.inst = b.inst
    ∧ (s.arrive b t).1.id = b.id := by
  unfold State.arrive
  dsimp only
  split <;> split <;> exact ⟨rfl, rfl, rfl, rfl⟩

/-- The generation that an arrival counts in: this one for a participant, else the next. -/
theorem arrive_counts (t : Tid) :
    (s.arrive b t).2 = if (if b.isOpen then b.parts else s.participants b).contains t then b.gen else b.gen + 1 := by
  unfold State.arrive
  dsimp only
  cases b.isOpen
  · simp only [Bool.false_eq_true, if_false]
    show Prod.snd (if (s.participants b).contains t = true then _ else _) = _
    split <;> rfl
  · simp only [if_true]
    split <;> rfl

end

section
variable {s d u v : State} {sc : Scope} {id g : Nat} {rd : BitVec 5}

theorem barArrive_refused (hd : s.syncGate = .ok d) (ha : d.me.arrival sc id = some g) (hg : (d.barrier sc id).gen ≤ g)
    (hn : d.barDone (d.barrier sc id) = false) : s.barArrive sc id = .ok (d.releaseSubs s.cur .thr, false) := by
  have h : (d.me.arrival sc id).any (fun g => (d.barrier sc id).gen ≤ g) = true := by simp [ha, hg]
  simp only [State.barArrive, State.barGate, hd, ok_bind, ripe_of_not_done hn, h, if_true, Bool.not_false]

theorem barArrive_arrives (hd : s.syncGate = .ok d) (hr : (d.ripe sc id).release sc = .ok u)
    (ha : ∀ g, d.me.arrival sc id = some g → g < ((d.ripe sc id).barrier sc id).gen) :
    s.barArrive sc id = .ok
      ((((u.ripe sc id).openUp ((u.ripe sc id).arrive ((u.ripe sc id).barrier sc id) (u.ripe sc id).tid).1).modMe (fun t =>
        { t with arr := assocSet t.arr (arrKey sc id) ((u.ripe sc id).arrive ((u.ripe sc id).barrier sc id) (u.ripe sc id).tid).2 })), true) := by
  have h : ¬ (((d.ripe sc id).me.arrival sc id).any (fun g => ((d.ripe sc id).barrier sc id).gen ≤ g) = true) := by
    rw [me_ripe]
    cases hx : d.me.arrival sc id with
    | none => simp
    | some g => simpa using ha g hx
  have hgate : s.barGate sc id = .ok (u.ripe sc id, true) := by
    rw [State.barGate, hd, ok_bind]
    dsimp only
    rw [if_neg h, hr]
    rfl
  rw [State.barArrive, hgate]
  rfl

/-! ### The wait (R357) -/

/-- The thread with its arrival forgotten, moved past an instruction that answers OK. -/
theorem threadStep_forgets (s : State) (k : Nat) (rd : BitVec 5) :
    let t := (s.modMe (fun x => { x with arr := assocDel x.arr k })).finish rd .ok 4
    ThreadStep s t 4 { s.me with arr := assocDel s.me.arr k, x := t.me.x }
      ∧ ∀ r, t.x r = if r = 0 then 0 else if r = rd then Status.ok.word else s.x r := by
  have he : (s.modMe (fun x => { x with arr := assocDel x.arr k })).setX rd Status.ok.word
      = s.modMe (fun x => ({ x with arr := assocDel x.arr k } : Slot).wx rd Status.ok.word) := modMe_modMe s _ _
  simp only [finish_eq, he]
  refine ⟨?_, fun r => ?_⟩
  · refine threadStep_retire s (({ s.me with arr := assocDel s.me.arr k } : Slot).wx rd Status.ok.word) _ 4 ?_ ?_ ?_ ?_
    · exact wx_pc ..
    · exact wx_instret ..
    · exact wx_st ..
    · rw [me_retire, me_modMe, wx_eta]
      rfl
  · show Slot.xr (State.me _) r = _
    rw [me_retire, xr_retire, me_modMe, xr_wx]
    rfl

theorem barAwait_lacks (h : s.me.arrival sc id = none) : s.barAwait sc id rd = s.finish rd .range 4 := by
  rw [State.barAwait, h]

theorem barAwait_over (h : s.me.arrival sc id = some g) (hg : g < ((s.ripe sc id).barrier sc id).gen) :
    s.barAwait sc id rd
      = ((s.ripe sc id).modMe (fun t => { t with arr := assocDel t.arr (arrKey sc id) })).finish rd .ok 4 := by
  simp only [State.barAwait, h, if_pos hg]

theorem barAwait_waits (h : s.me.arrival sc id = some g) (hg : ((s.ripe sc id).barrier sc id).gen ≤ g) :
    s.barAwait sc id rd
      = (s.ripe sc id).waitFor .barrier (s.ripe sc id).waitlim { xs := [(rd, Status.timeout.word)] } := by
  simp only [State.barAwait, h, if_neg (Nat.not_lt.mpr hg), waitlim_ripe]

theorem barAwait_begins (h : s.me.arrival sc id = some g) (hg : ((s.ripe sc id).barrier sc id).gen ≤ g)
    (hw : (s.ripe sc id).me.wait = none) (hl : 0 < (s.ripe sc id).waitlim) :
    let r := s.ripe sc id
    OnlyThread r (s.barAwait sc id rd) ∧ (s.barAwait sc id rd).me = { r.me with
      wait := some ⟨.barrier, some (r.cycle + r.waitlim), 0, { xs := [(rd, Status.timeout.word)] }, none, none⟩,
      st := if r.me.st = .ready then .wait else r.me.st } := by
  intro r
  rw [barAwait_waits h hg, waitFor_begins _ _ hw hl.ne']
  exact ⟨onlyThread_modMe .., me_modMe ..⟩

theorem barAwait_goes_on {d n : Nat} {e : Expiry} {b o : Option Nat} (h : s.me.arrival sc id = some g)
    (hw : s.me.wait = some ⟨.barrier, some d, n, e, b, o⟩) (hg : ((s.ripe sc id).barrier sc id).gen ≤ g) (hd : s.cycle < d) :
    let t := s.barAwait sc id rd
    OnlyThread (s.ripe sc id) t ∧ t.me.pc = s.me.pc ∧ t.me.x = s.me.x ∧ t.me.arr = s.me.arr
      ∧ t.me.wait = some ⟨.barrier, some d, 0, { xs := [(rd, Status.timeout.word)], release := e.release }, none, none⟩ := by
  have hc : (s.ripe sc id).cycle < d := by
    rw [ripe_rest]
    exact hd
  intro t
  have ht : t = _ := (barAwait_waits h hg).trans (waitFor_goes_on (s.ripe sc id).waitlim _ ((me_ripe s sc id).symm ▸ hw) hc)
  rw [ht, me_modMe, me_ripe, Bool.false_or]
  exact ⟨onlyThread_modMe .., rfl, rfl, rfl, rfl⟩

theorem barAwait_times_out {d n : Nat} {e : Expiry} {b o : Option Nat} (h : s.me.arrival sc id = some g)
    (hw : s.me.wait = some ⟨.barrier, some d, n, e, b, o⟩) (hg : ((s.ripe sc id).barrier sc id).gen ≤ g) (hd : d ≤ s.cycle)
    (he : e.release = false) (ho : s.rgnOps = []) (hi : s.invs = []) (hf : s.feq = []) (hm : ∀ p ∈ s.slots, p.2.st ≠ .member) :
    WritesX (s.ripe sc id) (s.barAwait sc id rd) rd Status.timeout.word 4 := by
  have hlim : (s.ripe sc id).limitOver .barrier :=
    .inr ⟨d, n, e, b, o, (me_ripe s sc id).symm ▸ hw, he, by rw [ripe_rest]; exact hd⟩
  have hx : (s.ripe sc id).expire (s.ripe sc id).cur { xs := [(rd, Status.timeout.word)] }
      = ((s.ripe sc id).setX rd Status.timeout.word).retire 4 := by
    rw [setX_retire_eq]
    refine expire_of_nothing_out _ ?_ ?_ ?_ ?_
    · rw [ripe_rest]; exact ho
    · rw [ripe_rest]; exact hi
    · rw [ripe_rest]; exact hf
    · rw [ripe_rest]; exact hm
  rw [barAwait_waits h hg, waitFor_over _ hlim, hx]
  exact writesX_retire ..

/-! ### The words (R355 to R358) -/

theorem barArr_answers {id : BitVec 4} {ok : Bool} (h : s.barArrive sc id.toNat = .ok (u, ok)) :
    exec (.barArr sc id rd) s = .next (u.finish rd (if ok then .ok else .range) 4) := by
  show execBarArr sc id rd s = _
  rw [execBarArr, h]
  rfl

theorem barWait_asks {id : BitVec 4} (hw : s.waiting .barrier = false) (hd : s.syncGate = .ok d) :
    exec (.barWait sc id rd) s = .next ((d.releaseSubs s.cur .thr).barAwait sc id.toNat rd) := by
  show execBarWait sc id rd s = _
  rw [execBarWait, if_neg (by simp [hw]), State.barWaitGo, hd]
  rfl

theorem bar_refused {id : BitVec 4} (hw : s.waiting .barrier = false) (h : s.barArrive sc id.toNat = .ok (u, false)) :
    exec (.bar sc id rd) s = .next (u.finish rd .range 4) := by
  show execBar sc id rd s = _
  rw [execBar, if_neg (by simp [hw]), h]
  rfl

theorem bar_arrives {id : BitVec 4} (hw : s.waiting .barrier = false) (h : s.barArrive sc id.toNat = .ok (u, true)) :
    exec (.bar sc id rd) s = .next (u.barAwait sc id.toNat rd) := by
  show execBar sc id rd s = _
  rw [execBar, if_neg (by simp [hw]), h]
  rfl

theorem barrier_word_awaits {id : BitVec 4} {i : Instr} (hw : s.waiting .barrier = true)
    (hi : i = .barWait sc id rd ∨ i = .bar sc id rd) : exec i s = .next (s.barAwait sc id.toNat rd) := by
  obtain rfl | rfl := hi
  · exact if_pos hw
  · exact if_pos hw

/-- The end of a wait whose generation is over, for whichever word waited. -/
theorem gone_of_over {i : Instr} (hx : exec i s = .next (v.barAwait sc id rd)) (h : v.me.arrival sc id = some g)
    (hg : g < ((v.ripe sc id).barrier sc id).gen) :
    ∃ t, exec i s = .next t
      ∧ ThreadStep (v.ripe sc id) t 4 { (v.ripe sc id).me with arr := assocDel (v.ripe sc id).me.arr (arrKey sc id), x := t.me.x }
      ∧ ∀ r, t.x r = if r = 0 then 0 else if r = rd then Status.ok.word else (v.ripe sc id).x r :=
  ⟨_, by rw [hx, barAwait_over h hg], threadStep_forgets ..⟩

/-! ### A generation completes (R353) -/

theorem setBarrier_of_mem {b n : Barrier} (hb : b ∈ s.bars) (hj : n.job = b.job) (hl : n.lvl = b.lvl) (hi : n.inst = b.inst)
    (hn : n.id = b.id) :
    s.setBarrier n = { s with bars := s.bars.map (fun c => if c.same b.job b.lvl b.inst b.id then n else c) } := by
  rw [State.setBarrier, hj, hl, hi, hn]
  exact if_pos (List.any_eq_true.mpr ⟨b, hb, same_iff.mpr ⟨rfl, rfl, rfl, rfl⟩⟩)

theorem barrierComplete_on {b : Barrier} (hp : s.pod = []) (hb : s.bars[s.cur]? = some b) :
    exec .barrierComplete s = .next (if s.barDone b then s.openUp (s.passed b) else s.reportBar b) := by
  show execBarrierComplete s = _
  simp only [execBarrierComplete, hp, hb]
  split <;> rfl

theorem gangOthers_nextGen (s : State) (b : Barrier) : s.gangOthers (s.nextGen b) = s.gangOthers b := by
  obtain ⟨hj, hl, -, -⟩ := nextGen_key s b
  rw [State.gangOthers, State.gangOthers, hj, hl]

theorem barDone_of_unreported {b : Barrier} (hg : s.gangOthers b ≠ []) (hh : (b.gen, s.pkg.toNat) ∉ b.heard) :
    s.barDone b = false := by
  refine Bool.eq_false_iff.mpr fun h => ?_
  obtain ⟨-, -, h | h⟩ := (barDone_iff s b).mp h
  · exact hg h
  · exact hh (h _ List.mem_cons_self)

end

/-- Settles O34: the arrival by the generation of its record, each word by its arrival or its wait, and the completion of a
generation by its barrier put back. -/
theorem barrierWords : Obligations.BarrierWords := by
  unfold Obligations.BarrierWords
  refine ⟨fun s sc id => ripe_of_not_done, fun s sc id => gen_lt_ripe, fun sc id s d g => barArrive_refused, ?arrives,
    ?barArr, ?barWait, ?bar, ?awaits, ?completes, barDone_iff⟩
  case arrives =>
    intro sc id s d u hd hr ha r b parts
    obtain ⟨hj, hl, hi, hn⟩ := arrive_key r b r.tid
    have hrest := openUp_rest r (r.arrive b r.tid).1
    refine ⟨_, barArrive_arrives hd hr ha, ?only, ?me, ?gen⟩
    case only =>
      rw [hrest]
      exact onlyThread_modMe ..
    case me =>
      rw [me_modMe, hrest, arrive_counts]
      rfl
    case gen =>
      rw [barrier_modMe_arr _ sc id (assocSet · (arrKey sc id) _), gen_barrier_openUp (keyed_congr r b (keyed_barrier r sc id) hj hl hi hn), arrive_gen]
  case barArr =>
    intro sc id rd s u ok h
    have hw : (if ok then Status.ok.word else Status.range.word) = (if ok then Status.ok else Status.range).word := by
      cases ok <;> rfl
    rw [hw]
    exact ⟨_, barArr_answers h, writesX_finish ..⟩
  case barWait =>
    intro sc id rd s d hw hd v
    have hx := barWait_asks (sc := sc) (rd := rd) (id := id) hw hd
    refine ⟨fun ha => ⟨_, by rw [hx, barAwait_lacks ha], writesX_finish ..⟩, fun g ha => ⟨gone_of_over hx ha, fun hg hn hl => ?_⟩⟩
    exact ⟨_, hx, barAwait_begins ha hg hn hl⟩
  case bar =>
    intro sc id rd s u hw
    refine ⟨fun h => ⟨_, bar_refused hw h, writesX_finish ..⟩, fun g h ha => ?_⟩
    have hx := bar_arrives (rd := rd) hw h
    exact ⟨gone_of_over hx ha, fun hg hn hl => ⟨_, hx, barAwait_begins ha hg hn hl⟩⟩
  case awaits =>
    intro sc id rd s g i hw ha hi r
    have hx := barrier_word_awaits hw hi
    refine ⟨gone_of_over hx ha, fun d n e b o hwait hg => ⟨fun hd => ⟨_, hx, barAwait_goes_on ha hwait hg hd⟩, ?_⟩⟩
    exact fun hd he ho hi hf hm => ⟨_, hx, barAwait_times_out ha hwait hg hd he ho hi hf hm⟩
  case completes =>
    intro s b hp hb
    have hmem : b ∈ s.bars := List.mem_of_getElem? hb
    refine ⟨fun hd hn hg => ?next, fun hl hg hh => ?reports⟩
    case next =>
      obtain ⟨hj, hv, hi, hid⟩ := nextGen_key s b
      have hpass : s.passed b = s.nextGen b := by simp [State.passed, hd, hn]
      have hopen : s.openUp (s.nextGen b) = s.setBarrier (s.nextGen b) := by
        simp [State.openUp, gangOthers_nextGen, hg]
      refine ⟨_, s.nextGen b, by rw [barrierComplete_on hp hb, if_pos hd, hpass, hopen], setBarrier_of_mem hmem hj hv hi hid,
        nextGen_gen s b, nextGen_arrived s b, nextGen_later s b, nextGen_isOpen s b⟩
    case reports =>
      have hrep : s.reportBar b = (({ s with outs := s.outs ++ (s.gangOthers b).map (fun p =>
          .pod p (.barrier (s.launchKey b.job) b.id b.gen s.pkg.toNat)) } : State).setBarrier
            { b with heard := b.heard ++ [(b.gen, s.pkg.toNat)] }) := by
        rw [State.reportBar]
        exact if_pos (by simp [hl, hg, hh])
      refine ⟨_, { b with heard := b.heard ++ [(b.gen, s.pkg.toNat)] },
        by rw [barrierComplete_on hp hb, barDone_of_unreported hg hh, if_neg (by decide), hrep], ?_, rfl⟩
      exact setBarrier_of_mem (b := b) hmem rfl rfl rfl rfl

end Sys2Proof.Machine
end

section
/-! PROOFS. The words of scratchpad subscription (O31): entries claimed, ended and flushed, and the ring read. -/

namespace Sys2Proof.Machine

/-! ### `sub.add` (R295, R302, R307) -/

section
variable {s s1 s2 u : State} {r : F5} {b : Nat}

theorem subAdd_claims {q : SubReq} {e p : Nat} (ha : (s.x r.s1).toNat % 32 = 0) (h1 : s.syncGate = .ok s1)
    (h2 : s1.reserve { xs := [(r.d, subHandle .timeout 0)], len := 8 } = .ok s2) (hb : s2.readBlock (s.x r.s1) 4 = .ok (u, b))
    (hq : u.subReq (coreOf s.cur) b = some q) (he : freeOf (u.core (coreOf s.cur)).subs = some e)
    (hp : freeOf (u.core q.pubCore).pubs = some p) (hr : u.subAllowed q = true) :
    exec (.subAdd r) s
      = .next (((u.subClaim q e p ((s.x r.s2).truncate 32)).setX r.d (subHandle .ok e)).retire 8) := by
  show execSubAdd r s = _
  simp only [execSubAdd, h1, ok_bind, ha, bne_self_eq_false, Bool.false_eq_true, if_false, h2, hb, hq, he, hp, hr, done_ok]

theorem subAdd_refuses (ha : (s.x r.s1).toNat % 32 = 0) (h1 : s.syncGate = .ok s1)
    (h2 : s1.reserve { xs := [(r.d, subHandle .timeout 0)], len := 8 } = .ok s2) (hb : s2.readBlock (s.x r.s1) 4 = .ok (u, b))
    (hq : u.subReq (coreOf s.cur) b = none) :
    exec (.subAdd r) s = .next ((u.unreserve.setX r.d (subHandle .range 0)).retire 8) := by
  show execSubAdd r s = _
  simp only [execSubAdd, h1, ok_bind, ha, bne_self_eq_false, Bool.false_eq_true, if_false, h2, hb, hq]
  rfl

end

theorem subAt_subClaim (s : State) (q : SubReq) (e p : Nat) (tag : Half) :
    (s.subClaim q e p tag).subAt (coreOf s.cur) e = some
      { st := .syncing, owner := s.tid.1, ctx := s.me.ctx, tag := tag, pubCore := q.pubCore, pubIdx := p,
        src := q.src, dst := q.dst, len := q.len, snap := some (s.mem.bytes (s.spadKey q.pubCore q.src) q.len),
        opened := none, sent := [], ended := false, applied := 0 } := by
  refine (subAt_modCore_of_subs _ _ ?subs _ _).trans (subAt_setSub ..)
  case subs => exact fun _ => rfl

theorem pubs_subClaim (s : State) (q : SubReq) (e p : Nat) (tag : Half) :
    assoc ((s.subClaim q e p tag).core q.pubCore).pubs p = some ⟨coreOf s.cur, e, 0⟩ := by
  rw [State.subClaim, core_modCore_same]
  exact assoc_assocSet_same ..

/-! ### `sub.drop` (R308) -/

section
variable {s : State} {xd xe : BitVec 5} {b : Sub}

theorem opened_flush (b : Sub) : b.flush.opened = none := by
  unfold Sub.flush
  split
  · assumption
  · rfl

theorem subAt_putSub (s : State) (c e : Nat) (old new : Sub) : (s.putSub c e old new).subAt c e = some new := by
  rw [State.putSub, State.countSent, subAt_modCore_of_subs, subAt_setSub]
  intro k
  split <;> rfl

theorem subEnd_rest (s : State) (c e : Nat) (b : Sub) : s.subEnd c e b = { s with cores := (s.subEnd c e b).cores } :=
  (notes_putSub ..).rest

theorem subDrop_ends (hw : s.waiting .drain = false) (he : (s.x xe).toNat < 16)
    (hb : s.subAt (coreOf s.cur) (s.x xe).toNat = some b) (ho : (b.owner, b.ctx) = s.tid) (hst : b.st ≠ .draining) :
    exec (.subDrop xd xe) s = .next ((s.subEnd (coreOf s.cur) (s.x xe).toNat b).waitFor .drain s.waitlim
      { xs := [(xd, Status.timeout.word)], len := 8 }) := by
  have hm : ((b.owner, b.ctx) == s.tid) = true := beq_iff_eq.mpr ho
  have hd : (b.st == .draining) = false := beq_eq_false_iff_ne.mpr hst
  show execSubDrop xd xe s = _
  simp only [execSubDrop, hw, Bool.false_eq_true, if_false, if_neg (Nat.not_le.mpr he), hb, hm, hd, Bool.not_true, Bool.or_false]
  rfl

theorem subDrop_gone (hw : s.waiting .drain = true) (hb : s.subAt (coreOf s.cur) ((s.x xe).toNat % 16) = none) :
    exec (.subDrop xd xe) s = .next (s.finish xd .ok 8) := by
  show execSubDrop xd xe s = _
  simp only [execSubDrop, hw, if_true, hb]

theorem subDrop_refuses (hw : s.waiting .drain = false)
    (h : 16 ≤ (s.x xe).toNat ∨ s.subAt (coreOf s.cur) (s.x xe).toNat = none) :
    exec (.subDrop xd xe) s = .next (s.finish xd .range 8) := by
  show execSubDrop xd xe s = _
  rw [execSubDrop, hw, if_neg Bool.false_ne_true]
  by_cases he : 16 ≤ (s.x xe).toNat
  · exact if_pos he
  · simp only [if_neg he, h.resolve_left he]

end

/-! ### `sub.flush` (R309) -/

theorem subFlush_applies {s v u : State} {xd : BitVec 5} (hv : s.syncGate = .ok v)
    (hh : ((v.settleFar s.cur).serveReady s.cur).me.held = []) (hr : ((v.settleFar s.cur).serveReady s.cur).me.refHeld = [])
    (hf : ((v.settleFar s.cur).serveReady s.cur).farPending s.cur = false)
    (hu : ((((v.settleFar s.cur).serveReady s.cur).releaseSubs s.cur .pkg).releaseFar (tidNo s.tid) true
      (((v.settleFar s.cur).serveReady s.cur).releaseSubs s.cur .pkg).waitlim).farReleased (tidNo s.tid) = some u) :
    exec (.subFlush xd) s = .next (u.finish xd .ok 8) := by
  show execSubFlush xd s = _
  simp only [execSubFlush, hv, ok_bind, hh, hr, hf, List.isEmpty_nil, Bool.not_true, Bool.or_false, Bool.false_eq_true, if_false,
    hu, done_ok]

/-! ### `race.rd` (R311) -/

theorem raceRd_stores {s u : State} {r : F5} (hi : (s.x r.s2).toNat < 2 ^ 23) (h12 : (s.x r.s2).toNat / 2 ^ 12 % 16 = 0)
    (h1 : 1 ≤ (s.x r.s2).toNat / 2 ^ 16 % 128) (h64 : (s.x r.s2).toNat / 2 ^ 16 % 128 ≤ 64) (ha : (s.x r.s1).toNat % 16 = 0)
    (hg : granted (s.rightsByte s.me.sc.pdrights (s.core (coreOf s.cur)).spdom.toNat) 1 = true)
    (hu : s.storeQuads (s.x r.s1) ((List.range ((s.x r.s2).toNat / 2 ^ 16 % 128)).map (fun j =>
      (assoc (s.core (coreOf s.cur)).ring (((s.x r.s2).toNat + j) % 4096)).getD 0)) = .ok u) :
    exec (.raceRd r) s = .next ((u.setX r.d (BitVec.ofNat 64 ((s.core (coreOf s.cur)).ringCount % 2 ^ 32 * 2 ^ 24
      + (s.core (coreOf s.cur)).ringCount % 4096))).retire 8) := by
  show execRaceRd r s = _
  have hno : (decide (2 ^ 23 ≤ (s.x r.s2).toNat) || (s.x r.s2).toNat / 2 ^ 12 % 16 != 0 || (s.x r.s2).toNat / 2 ^ 16 % 128 == 0
      || decide (64 < (s.x r.s2).toNat / 2 ^ 16 % 128) || (s.x r.s1).toNat % 16 != 0) = false := by
    simp [ha]
    omega
  rw [execRaceRd]
  dsimp only
  rw [if_neg (by simpa using hno), hg, Bool.not_true, if_neg Bool.false_ne_true, hu]
  rfl

/-- Settles O31: each word is the state it claims, ends, flushes or reads, and the register it writes. -/
theorem subscriptionWords : Obligations.SubscriptionWords := by
  unfold Obligations.SubscriptionWords
  refine ⟨?claims, fun s s1 s2 u r b ha h1 h2 hb hq => ⟨_, subAdd_refuses ha h1 h2 hb hq, writesX_retire ..⟩, ?ends,
    fun s xd xe hw hb => ⟨_, subDrop_gone hw hb, writesX_finish ..⟩,
    fun s xd xe hw h => ⟨_, subDrop_refuses hw h, writesX_finish ..⟩, ?flush, ?race⟩
  case claims =>
    intro s s1 s2 u r b q e p c ha h1 h2 hb hq he hp hr
    exact ⟨_, _, subAdd_claims ha h1 h2 hb hq he hp hr, writesX_retire .., rfl, subAt_subClaim .., pubs_subClaim ..⟩
  case ends =>
    intro s xd xe b e hw he hb ho hst hl hn
    have hrest := subEnd_rest s (coreOf s.cur) e b
    have hme : (s.subEnd (coreOf s.cur) e b).me = s.me := by rw [hrest]; rfl
    have hsub : (s.subEnd (coreOf s.cur) e b).subAt (coreOf s.cur) e = some { b.flush with st := .draining, ended := true } :=
      subAt_putSub ..
    refine ⟨_, subDrop_ends hw he hb ho hst, ?_⟩
    rw [waitFor_begins _ _ (hme.symm ▸ hn) hl.ne', me_modMe, hme]
    refine ⟨?me, ⟨_, hsub, rfl, rfl, opened_flush b⟩, ?mem, fun l hl => ?others⟩
    case me => rw [hrest]; rfl
    case mem =>
      show (s.subEnd (coreOf s.cur) e b).mem = s.mem
      rw [hrest]
    case others =>
      rw [hrest]
      exact slot_modMe_ne _ _ hl
  case flush =>
    intro s v u xd hv d f hh hr hf
    refine ⟨fun hu => ⟨_, subFlush_applies hv hh hr hf hu, writesX_finish ..⟩, fun hn => ⟨_, subFlush_applies hv hh hr hf ?_, writesX_finish ..⟩⟩
    rw [releaseFar_of_no_own_writes _ _ hn]
    exact farReleased_of_no_own_writes hn
  case race =>
    intro s u r i n c hi h12 h1 h64 ha hg hu
    exact ⟨_, raceRd_stores hi h12 h1 h64 ha hg hu, writesX_retire ..⟩

end Sys2Proof.Machine
end

section
/-! PROOFS. The requests on a region (O41): resume, scan-out, restore, shrink, drain and quantum, each with the request it ends. -/

namespace Sys2Proof.Machine

/-! ### A region put back, a request that is over (R378, R379) -/

theorem regions_setRegion (s : State) (r : Region) :
    (s.setRegion r).regions = s.regions.map (fun x => if x.num = r.num then r else x) := by
  simp only [State.setRegion, State.modRegion, beq_iff_eq]

theorem rgnResults_opDone (s : State) {o : RgnOp} (st : Status) (n : Nat) {w : Tid} (h : o.who = some w) :
    (s.opDone o st n).rgnResults = s.rgnResults ++ [(w, BitVec.ofNat 64 (n * 2 ^ 8 + st.code))] := by
  simp only [State.opDone, h]

section
variable {s : State} {o : RgnOp} {r : Region}

/-! ### Resume in place and scan-out (R379, R380) -/

theorem resumeInPlace_resumes (ho : s.opFor s.site.rgn 1 = some o) (hr : s.region o.rgn = some r) (h : r.st = .frozen) :
    exec .resumeInPlace s = .next (((s.setRegion r.resumed).clearRecord r).opDone o .ok 2) := by
  show execResumeInPlace s = _
  simp only [execResumeInPlace, ho, hr]
  exact if_neg (by simp [h])

theorem resumeInPlace_refuses (ho : s.opFor s.site.rgn 1 = some o) (hr : s.region o.rgn = some r) (h : r.st ≠ .frozen) :
    exec .resumeInPlace s = .next (s.opDone o .refused 0) := by
  show execResumeInPlace s = _
  simp only [execResumeInPlace, ho, hr]
  exact if_pos (by simpa using h)

/-- No request of a resumed region is one that a fault holds. -/
theorem reqs_resumed (r : Region) {q : MReq} (h : q ∈ r.resumed.reqs) : q.st ≠ .faulting ∧ q.st ≠ .behind := by
  obtain ⟨p, -, rfl⟩ := List.mem_map.mp h
  by_cases hp : (p.st == .faulting || p.st == .behind) = true
  · rw [if_pos hp]
    exact ⟨by simp, by simp⟩
  · rw [if_neg hp]
    simpa using hp

theorem scanOut_freezes (ho : s.opFor s.site.rgn 2 = some o) (hr : s.region o.rgn = some r) (h : r.st = .running) :
    exec .scanOut s = .next ((s.setRegion { r with st := .frozen }).modOp o.rgn (fun x => { x with froze := true })) := by
  show execScanOut s = _
  simp only [execScanOut, ho, hr]
  exact if_pos (by simp [h])

theorem scanOut_scans (ho : s.opFor s.site.rgn 2 = some o) (hr : s.region o.rgn = some r) (h : r.st = .frozen)
    (hs : o.sched = false) (hu : r.unsettled = false) : exec .scanOut s = .next (s.scanOut r o) := by
  have h1 : (r.st == .running) = false := by rw [h]; rfl
  have h2 : (r.st != .frozen) = false := by rw [h]; rfl
  show execScanOut s = _
  simp only [execScanOut, ho, hr, h1, h2, hs, hu, Bool.false_and, Bool.false_eq_true, if_false]

/-! ### Restore (R381) -/

theorem regionRestore_restores {t : State} (ho : s.opFor s.site.rgn 3 = some o)
    (ht : s.restoreAt o.view o.image o.rgn = some t) : exec .regionRestore s = .next (t.opDone o .ok 3) := by
  show execRegionRestore s = _
  simp only [execRegionRestore, ho, ht]

theorem regionRestore_refuses (ho : s.opFor s.site.rgn 3 = some o) (ht : s.restoreAt o.view o.image o.rgn = none) :
    exec .regionRestore s = .next (s.opDone o .refused 0) := by
  show execRegionRestore s = _
  simp only [execRegionRestore, ho, ht]

/-! ### Shrinking (R382) -/

theorem shrinkPoint_ends (ho : s.opFor s.site.rgn 0 = some o) (hr : s.region o.rgn = some r) (h : r.st = .shrinking)
    (hl : r.loadEnd ≤ s.cycle) : exec .shrinkPoint s = .next ((s.setRegion r.resumed).opDone o .ok 0) := by
  have h1 : (r.st == .shrinking) = true := by rw [h]; rfl
  show execShrinkPoint s = _
  simp only [execShrinkPoint, ho, hr, h1, if_true, if_pos hl]
  rfl

theorem shrinkPoint_loads {g : Graph} {f : Folding} (ho : s.opFor s.site.rgn 0 = some o) (hr : s.region o.rgn = some r)
    (h : r.st = .running) (hs : s.smaller r o.fold = some (g, f)) (hp : r.atShrinkPoint (s.carryPoints r.die f) = true)
    (hu : s.unchanged r = true) :
    exec .shrinkPoint s = .next ((s.setRegion { r.refolded g f o.fold with
      st := .shrinking, loadEnd := s.cycle + loadCycles (r.refolded g f o.fold).nodes }).clearRecord r) := by
  have h1 : (r.st == .shrinking) = false := by rw [h]; rfl
  have h2 : (!(r.st == .running || r.st == .frozen)) = false := by rw [h]; rfl
  show execShrinkPoint s = _
  simp only [execShrinkPoint, ho, hr, h1, h2, hs, hp, hu, Bool.not_true, Bool.false_eq_true, if_false]

theorem shrinkBudgetExpiry_scans (ho : s.opFor s.site.rgn 0 = some o) (hr : s.region o.rgn = some r) (h : r.st = .running)
    (hd : o.deadline ≤ s.cycle) (hs : o.sched = false) :
    exec .shrinkBudgetExpiry s = .next (s.modOp o.rgn (fun x => { x with act := 2 })) := by
  have h1 : (decide (s.cycle < o.deadline) || !(r.st == .running || r.st == .frozen)) = false := by
    rw [h, decide_eq_false (Nat.not_lt.mpr hd)]
    rfl
  show execShrinkBudgetExpiry s = _
  simp only [execShrinkBudgetExpiry, ho, hr, h1, hs, Bool.not_false, Bool.false_eq_true, if_false, if_true]

/-! ### Draining (R384, R385) -/

theorem occupancyRound_starts (ho : s.opFor s.site.rgn 4 = some o) (hr : s.region o.rgn = some r)
    (h : r.st = .running ∨ r.st = .frozen) : exec .occupancyRound s = .next (s.startDrain r) := by
  have h1 : (r.st == .draining) = false := by obtain h | h := h <;> rw [h] <;> rfl
  have h2 : (r.st == .running || r.st == .frozen) = true := by obtain h | h := h <;> rw [h] <;> rfl
  show execOccupancyRound s = _
  simp only [execOccupancyRound, ho, hr, h1, h2, Bool.false_eq_true, if_false, if_true]

theorem occupancyRound_counts (ho : s.opFor s.site.rgn 4 = some o) (hr : s.region o.rgn = some r) (h : r.st = .draining) :
    exec .occupancyRound s = .next (s.setRegion { r with rounds := if r.vacant then r.rounds + 1 else 0 }) := by
  have h1 : (r.st == .draining) = true := by rw [h]; rfl
  show execOccupancyRound s = _
  simp only [execOccupancyRound, ho, hr, h1, if_true]

theorem drainQuiescence_frees (ho : s.opFor s.site.rgn 4 = some o) (hr : s.region o.rgn = some r) (h : r.st = .draining)
    (hv : r.vacant = true) (h2 : 2 ≤ r.rounds) :
    exec .drainQuiescence s = .next
      ((({ s with regions := s.regions.filter (fun x => x.num != r.num) } : State).clearRecord r).opDone o .ok 0) := by
  have h1 : (r.st == .draining && r.vacant && decide (2 ≤ r.rounds)) = true := by
    rw [h, hv, decide_eq_true h2]
    rfl
  show execDrainQuiescence s = _
  simp only [execDrainQuiescence, ho, hr, h1, if_true]

/-! ### The quantum (R383) -/

theorem queueOrder_of_none (h : s.queued = []) : s.queueOrder = [] := by
  simp [State.queueOrder, h]

theorem regionQuantumExpiry_restarts (hr : s.region s.site.rgn = some r) (hw : bitW (s.die r.die).rquant 63 = true)
    (h : r.st = .running) (hq : (s.die r.die).rquant.toNat % 2 ^ 40 ≤ r.quantum) (hl : r.live ≠ []) (ho : s.rgnOps = [])
    (hn : s.queued = []) : exec .regionQuantumExpiry s = .next (s.setRegion { r with quantum := 0 }) := by
  have hgo : (!(bitW (s.die r.die).rquant 63) || r.st != .running || decide (r.quantum < (s.die r.die).rquant.toNat % 2 ^ 40)
      || (r.live.isEmpty && r.spilled.isEmpty) || s.rgnOps.any (fun o => o.rgn == r.num)) = false := by
    rw [hw, h, decide_eq_false (Nat.not_lt.mpr hq), ho, List.isEmpty_eq_false_iff.mpr hl]
    rfl
  show execRegionQuantumExpiry s = _
  simp only [execRegionQuantumExpiry, hr, hgo, Bool.false_eq_true, if_false, queueOrder_of_none hn, List.find?_nil]

end

/-- Settles O41: each clause is the equation of its step above, with the region and the request that it leaves. -/
theorem regionRequests : Obligations.RegionRequests := by
  unfold Obligations.RegionRequests
  refine ⟨?resume, ?scan, fun s t o => regionRestore_restores, ?refuse, ?shrink, ?drain, ?quantum⟩
  case resume =>
    intro s o r ho hr
    refine ⟨fun h => ⟨_, resumeInPlace_resumes ho hr h, ⟨rfl, fun w hw => rgnResults_opDone _ _ _ hw⟩, ?_, rfl,
      fun q => reqs_resumed r⟩, fun h => ⟨_, resumeInPlace_refuses ho hr h, ⟨rfl, fun w hw => rgnResults_opDone _ _ _ hw⟩, rfl⟩⟩
    exact regions_setRegion s r.resumed
  case scan =>
    intro s o r ho hr
    exact ⟨fun h => ⟨_, scanOut_freezes ho hr h, regions_setRegion ..⟩, scanOut_scans ho hr⟩
  case refuse =>
    intro s o ho ht
    exact ⟨_, regionRestore_refuses ho ht, ⟨rfl, fun w hw => rgnResults_opDone _ _ _ hw⟩, rfl⟩
  case shrink =>
    intro s o r g f ho hr
    refine ⟨fun h hl => ⟨_, shrinkPoint_ends ho hr h hl, ⟨rfl, fun w hw => rgnResults_opDone _ _ _ hw⟩, ?_⟩,
      fun h hs hp hu => ⟨_, shrinkPoint_loads ho hr h hs hp hu, rfl, ?_⟩, shrinkBudgetExpiry_scans ho hr⟩
    · exact regions_setRegion s r.resumed
    · exact regions_setRegion s { r.refolded g f o.fold with
        st := .shrinking, loadEnd := s.cycle + loadCycles (r.refolded g f o.fold).nodes }
  case drain =>
    intro s o r ho hr
    exact ⟨occupancyRound_starts ho hr, fun h => ⟨_, occupancyRound_counts ho hr h, regions_setRegion ..⟩,
      fun h hv h2 => ⟨_, drainQuiescence_frees ho hr h hv h2, ⟨rfl, fun w hw => rgnResults_opDone _ _ _ hw⟩, rfl⟩⟩
  case quantum =>
    intro s r w hr hw h hq hl ho hn
    exact ⟨_, regionQuantumExpiry_restarts hr hw h hq hl ho hn, regions_setRegion ..⟩

end Sys2Proof.Machine
end

section
/-! PROOFS. The six words of the supervisor (O40): their guard, the area that a save writes and a load reads, and their requests. -/

namespace Sys2Proof.Machine

section
variable {s u : State} {rd rs1 rs2 : BitVec 5} {l : Nat}

/-! ### The guard (R70, R388) -/

theorem privileged_user {f7 : Nat} {k : State → Go} (h : s.me.priv = .u) :
    s.privileged f7 rd rs1 rs2 k = .next (s.trap s.cur { cause := causePrivilege, tval := privWord f7 rd rs1 rs2 }) := by
  rw [State.privileged, h]
  exact done_raise ..

theorem privileged_passes {f7 : Nat} {k : State → Go} (h : s.me.priv ≠ .u) : s.privileged f7 rd rs1 rs2 k = Go.done (k s) := by
  rw [State.privileged, if_neg (by simpa using h)]

/-! ### `ctx.save` and `ctx.load` (R389) -/

theorem ctxSave_no_slot (hp : s.me.priv ≠ .u) (hl : s.otherSlot (s.x rs1) (s.x rs2) = none) :
    exec (.ctxSave rd rs1 rs2) s = .next (s.finish rd .range 4) := by
  show execCtxSave rd rs1 rs2 s = _
  simp only [execCtxSave, privileged_passes hp, hl, done_ok]

theorem ctxLoad_no_slot (hp : s.me.priv ≠ .u) (hl : s.otherSlot (s.x rs1) (s.x rs2) = none) :
    exec (.ctxLoad rd rs1 rs2) s = .next (s.finish rd .range 4) := by
  show execCtxLoad rd rs1 rs2 s = _
  simp only [execCtxLoad, privileged_passes hp, hl, done_ok]

/-- The states of a slot whose thread can be saved. -/
theorem savable_eq (h : (s.slot l).st = .ready ∨ (s.slot l).st = .wait ∨ (s.slot l).st = .call ∨ (s.slot l).st = .trap) :
    (!((s.slot l).st == .ready || (s.slot l).st == .wait || (s.slot l).st == .call || (s.slot l).st == .trap)) = false := by
  obtain h | h | h | h := h <;> rw [h] <;> rfl

theorem ctxSave_refused (hp : s.me.priv ≠ .u) (hl : s.otherSlot (s.x rs1) (s.x rs2) = some l)
    (hst : (s.slot l).st = .ready ∨ (s.slot l).st = .wait ∨ (s.slot l).st = .call ∨ (s.slot l).st = .trap)
    (h : (((s.drain l).settleFar l).slot l).gang.isSome = true ∨ (((s.drain l).settleFar l).slot l).held ≠ []
      ∨ (((s.drain l).settleFar l).slot l).needsPark = true ∧ 4 ≤ (((s.drain l).settleFar l).slot l).parked.length) :
    exec (.ctxSave rd rs1 rs2) s = .next (((s.drain l).settleFar l).finish rd .refused 4) := by
  have hno : ((((s.drain l).settleFar l).slot l).gang.isSome || !(((s.drain l).settleFar l).slot l).held.isEmpty
      || ((((s.drain l).settleFar l).slot l).needsPark && decide (4 ≤ (((s.drain l).settleFar l).slot l).parked.length))) = true := by
    simpa [or_assoc] using h
  show execCtxSave rd rs1 rs2 s = _
  simp only [execCtxSave, privileged_passes hp, hl, savable_eq hst, hno, Bool.false_eq_true, if_false, if_true, done_ok]

theorem ctxSave_saves (hp : s.me.priv ≠ .u) (hl : s.otherSlot (s.x rs1) (s.x rs2) = some l)
    (hst : (s.slot l).st = .ready ∨ (s.slot l).st = .wait ∨ (s.slot l).st = .call ∨ (s.slot l).st = .trap)
    (hg : (((s.drain l).settleFar l).slot l).gang = none) (hh : (((s.drain l).settleFar l).slot l).held = [])
    (hk : (((s.drain l).settleFar l).slot l).needsPark = false ∨ (((s.drain l).settleFar l).slot l).parked.length < 4)
    (hf : ((s.drain l).settleFar l).farPending l = false) (hu : ((s.drain l).settleFar l).saveTo l (s.x rs1) = .ok u) :
    exec (.ctxSave rd rs1 rs2) s = .next (u.finish rd .ok 4) := by
  have hno : ((((s.drain l).settleFar l).slot l).gang.isSome || !(((s.drain l).settleFar l).slot l).held.isEmpty
      || ((((s.drain l).settleFar l).slot l).needsPark && decide (4 ≤ (((s.drain l).settleFar l).slot l).parked.length))) = false := by
    rw [hg, hh]
    obtain hk | hk := hk
    · rw [hk]
      rfl
    · rw [decide_eq_false (Nat.not_le.mpr hk), Bool.and_false]
      rfl
  show execCtxSave rd rs1 rs2 s = _
  simp only [execCtxSave, privileged_passes hp, hl, savable_eq hst, hno, hf, Bool.false_eq_true, if_false, hu, ok_bind, done_ok]

theorem loadable_eq (h : (s.slot l).st = .free ∨ (s.slot l).st = .out) :
    (!((s.slot l).st == .free || (s.slot l).st == .out)) = false := by
  obtain h | h := h <;> rw [h] <;> rfl

theorem ctxLoad_of_area {b : Nat} (hp : s.me.priv ≠ .u) (hl : s.otherSlot (s.x rs1) (s.x rs2) = some l)
    (hst : (s.slot l).st = .free ∨ (s.slot l).st = .out) (hu : s.loadBlock (s.x rs1) 2048 = .ok (u, b)) :
    exec (.ctxLoad rd rs1 rs2) s
      = .next (if areaOk b false then (u.loadFrom l (s.x rs1) b).finish rd .ok 4 else u.finish rd .refused 4) := by
  show execCtxLoad rd rs1 rs2 s = _
  simp only [execCtxLoad, privileged_passes hp, hl, loadable_eq hst, Bool.false_eq_true, if_false, hu, ok_bind]
  cases areaOk b false <;> rfl

/-! ### The context that a load brings (R372 to R374) -/

/-- What a step of a load that only restores CSRs, its quantum and its wait leaves of the context. -/
structure SameContext (t u : Slot) : Prop where
  pc : u.pc = t.pc
  x : u.x = t.x
  h : u.h = t.h
  st : u.st = t.st
  origin : u.origin = t.origin
  dirty : u.dirty = t.dirty
  moves : u.moves = t.moves

theorem SameContext.refl (t : Slot) : SameContext t t := ⟨rfl, rfl, rfl, rfl, rfl, rfl, rfl⟩

theorem SameContext.trans {t u v : Slot} (h : SameContext t u) (k : SameContext u v) : SameContext t v :=
  ⟨k.pc.trans h.pc, k.x.trans h.x, k.h.trans h.h, k.st.trans h.st, k.origin.trans h.origin, k.dirty.trans h.dirty,
    k.moves.trans h.moves⟩

theorem sameContext_setCsr (t : Slot) (a : Nat) (v : Word) : SameContext t (t.setCsr a v) := by
  rw [setCsr_frame]
  exact ⟨rfl, rfl, rfl, rfl, rfl, rfl, rfl⟩

theorem sameContext_loadCsrs (t : Slot) (loc b : Nat) (cs : List (Nat × Nat)) : SameContext t (t.loadCsrs loc b cs) := by
  induction cs generalizing t with
  | nil => exact .refl t
  | cons c r ih =>
    rw [Slot.loadCsrs]
    refine .trans ?_ (ih _)
    split
    · exact .refl t
    · split
      · exact ⟨rfl, rfl, rfl, rfl, rfl, rfl, rfl⟩
      · split
        · exact ⟨rfl, rfl, rfl, rfl, rfl, rfl, rfl⟩
        · split
          · exact ⟨rfl, rfl, rfl, rfl, rfl, rfl, rfl⟩
          · split
            · exact ⟨rfl, rfl, rfl, rfl, rfl, rfl, rfl⟩
            · exact sameContext_setCsr t _ _

theorem sameContext_renewAll {t : Slot} (h : t.moves = []) : SameContext t t.renewAll := by
  have hr : t.renewAll = { t with moves := [] } := by rw [Slot.renewAll, h]; rfl
  rw [hr]
  exact ⟨rfl, rfl, rfl, rfl, rfl, rfl, h.symm⟩

theorem sameContext_startQuantum (t : Slot) : SameContext t t.startQuantum := by
  rw [startQuantum_rest]
  exact ⟨rfl, rfl, rfl, rfl, rfl, rfl, rfl⟩

theorem sameContext_resumeWait {t : Slot} (c n : Nat) (h : t.st = .ready) : SameContext t (t.resumeWait c n) := by
  rw [Slot.resumeWait]
  simp only [h]
  exact ⟨rfl, rfl, rfl, h.symm, rfl, rfl, rfl⟩

/-- A slot with the pc, the registers, the state and the place of an area. -/
structure HoldsArea (a : Word) (b : Nat) (t : Slot) : Prop where
  pc : t.pc.toNat = blkAt b 0x10 8
  st : t.st = .ready
  origin : t.origin = some a
  dirty : t.dirty = 0
  x : ∀ r : BitVec 5, r ≠ 0 → (t.xr r).toNat = blkAt b (0x40 + 8 * r.toNat) 8
  h : ∀ r : BitVec 4, (t.hr r).toNat = blkAt b (0x280 + 8 * r.toNat) 8

theorem HoldsArea.same {a : Word} {b : Nat} {t v : Slot} (h : HoldsArea a b t) (k : SameContext t v) : HoldsArea a b v := by
  refine ⟨k.pc ▸ h.pc, k.st.trans h.st, k.origin.trans h.origin, k.dirty.trans h.dirty, fun r hr => ?_, fun r => ?_⟩
  · rw [← h.x r hr]
    simp only [Slot.xr, k.x]
  · rw [← h.h r]
    simp only [Slot.hr, k.h]

theorem toNat_blkAt (b off : Nat) : (BitVec.ofNat 64 (blkAt b off 8)).toNat = blkAt b off 8 := by
  rw [BitVec.toNat_ofNat]
  exact Nat.mod_eq_of_lt (Nat.mod_lt _ (Nat.two_pow_pos _))

theorem holdsArea_loadRegs {a : Word} (b : Nat) {t : Slot} (hst : t.st = .ready) (ho : t.origin = some a) (hd : t.dirty = 0) :
    HoldsArea a b (t.loadRegs b) := by
  refine ⟨toNat_blkAt .., hst, ho, hd, fun r hr => ?_, fun r => ?_⟩
  · rw [Slot.xr, if_neg hr]
    simp only [Slot.loadRegs, Vector.getElem_ofFn, toNat_blkAt]
  · rw [Slot.hr]
    simp only [Slot.loadRegs, Vector.getElem_ofFn, toNat_blkAt]

theorem holdsArea_loaded (slot base : Slot) (loc home : Nat) (a : Word) (b cycle : Nat)
    (hb : SlotSt.ofArea (blkAt b 0xF 1) = some .ready) (hm : base.moves = []) :
    HoldsArea a b (slot.loaded base loc home a b cycle) := by
  unfold Slot.loaded
  dsimp only
  rw [hb, Option.getD_some]
  have hregs := holdsArea_loadRegs (a := a) b (t := { base with
    st := .ready, priv := (Priv.ofCode (blkAt b 8 8 / 2 ^ 54 % 4)).getD .u,
    ctx := BitVec.ofNat 16 (blkAt b 0x1E 2), home := if home == loc then none else some home, cbDepth := BitVec.ofNat 8 (blkAt b 0x28 1), inbox := areaInbox b,
    ibReserved := blkAt b 0x21 1 % 32, arr := areaArr b, trapRec := none, dirty := 0, origin := some a, quantumUsed := 0,
    issWait := 0, aged := false, resv := none,
    sc := { base.sc with swcost := slot.sc.swcost, thsave := slot.sc.thsave, thnext := slot.sc.thnext },
    rv := slot.rv, ctxCounter := slot.ctxCounter, parked := slot.parked }) rfl rfl rfl
  have hcsr := hregs.same (sameContext_loadCsrs _ loc b ((List.range 38).zip areaCsrs))
  have hrenew := hcsr.same (sameContext_renewAll ((sameContext_loadCsrs _ loc b ((List.range 38).zip areaCsrs)).moves.trans hm))
  have hquantum := hrenew.same (sameContext_startQuantum _)
  exact hquantum.same (sameContext_resumeWait _ _ hquantum.st)

end

/-- What the device kept of a context is one of those away. -/
theorem mem_away_of_awayAt {s : State} {a : Word} {b : Nat} {w : Away} (h : s.awayAt a b = some w) : w ∈ s.away := by
  unfold State.awayAt at h
  dsimp only at h
  rw [Option.orElse_eq_or, Option.or_eq_some_iff] at h
  obtain h | ⟨-, h⟩ := h
  · exact List.mem_of_find?_eq_some h
  · exact List.mem_of_find?_eq_some h

theorem holdsArea_loadFrom (s : State) (l : Nat) (a : Word) (b : Nat) (hm : ∀ w ∈ s.away, w.slot.moves = [])
    (hb : SlotSt.ofArea (blkAt b 0xF 1) = some .ready) : HoldsArea a b ((s.loadFrom l a b).slot l) := by
  have hbase : (((s.newCost l).awayAt a b).map Away.slot |>.getD ((s.newCost l).slot l).freed).moves = [] := by
    cases h : (s.newCost l).awayAt a b with
    | none => rfl
    | some w => exact hm w (mem_away_of_awayAt h)
  have hload := holdsArea_loaded ((s.newCost l).slot l) _ l
    ((((s.newCost l).awayAt a b).map (fun w => (w.slot.tid w.loc).1)).getD (blkAt b 0x18 4 % 4096)) a b (s.newCost l).cycle hb hbase
  have hs := slot_modSlot_same (s.newCost l) l (fun t => t.loaded (((s.newCost l).awayAt a b).map Away.slot |>.getD
    ((s.newCost l).slot l).freed) l ((((s.newCost l).awayAt a b).map (fun w => (w.slot.tid w.loc).1)).getD
      (blkAt b 0x18 4 % 4096)) a b (s.newCost l).cycle)
  have hsame {v : Slot} (hv : SameContext (((s.newCost l).modSlot l _).slot l) v) : HoldsArea a b v := (hs ▸ hload).same hv
  unfold State.loadFrom
  dsimp only
  rw [slot_modCore, slot_modSlot]
  split
  · next h =>
    refine hsame ?_
    rw [← h]
    exact ⟨rfl, rfl, rfl, rfl, rfl, rfl, rfl⟩
  · exact hsame (.refl _)

/-! ### The area that a save writes (R373, R374, R389) -/

theorem saveTo_saves {s p w : State} {l : Nat} {a : Word} (hp : s.areaPages a 4 = .ok p)
    (hw : p.writeArea a ((p.slot l).skips a) 0 (p.areaWords l) = .ok w) :
    s.saveTo l a = .ok ((({ w with
      feq := w.feq.filter (fun q => q.loc != l),
      away := w.away ++ [⟨l, a, { w.slot l with resv := none, home := some ((w.slot l).tid l).1 }⟩] } : State).modSlot l
        (fun t => t.leaveOut l a)).newCost l) := by
  simp only [State.saveTo, hp, hw, ok_bind]

theorem slot_newCost_ne (s : State) (l : Nat) {k : Nat} (h : k ≠ l) : (s.newCost l).slot k = s.slot k :=
  slot_modSlot_ne s (fun t => { t with sc := { t.sc with swcost := (Config.freeWord s.fresh).truncate 32 } }) h

theorem slot_newCost_same (s : State) (l : Nat) : ∃ c, (s.newCost l).slot l = { s.slot l with sc := c } :=
  ⟨_, slot_modSlot_same s l (fun t => { t with sc := { t.sc with swcost := (Config.freeWord s.fresh).truncate 32 } })⟩

/-! ### `plb.inv` (R390) -/

section
variable {s d u : State} {rd rs1 rs2 : BitVec 5}

theorem bitOf_three (m : Nat) : bitOf m 3 = decide (m / 8 % 2 = 1) := by
  by_cases h : m / 8 % 2 = 1 <;> simp [bitOf, h]

theorem plbInv_refuses (hp : s.me.priv ≠ .u) (hw : s.waiting .plbInv = false) (hd : s.syncGate = .ok d)
    (h : (s.x rs2).toNat % 4 = 3 ∨ 16 ≤ (s.x rs2).toNat ∨ (s.x rs2).toNat / 8 % 2 = 1 ∧ (s.x rs2).toNat % 4 ≠ 0) :
    exec (.plbInv rd rs1 rs2) s = .next (d.finish rd .range 4) := by
  have hno : ((s.x rs2).toNat % 4 == 3 || decide (16 ≤ (s.x rs2).toNat)
      || (bitOf (s.x rs2).toNat 3 && (s.x rs2).toNat % 4 != 0)) = true := by
    rw [bitOf_three]
    simpa [or_assoc] using h
  show execPlbInv rd rs1 rs2 s = _
  simp only [execPlbInv, privileged_passes hp, hw, Bool.false_eq_true, if_false, hd, ok_bind, hno, if_true, done_ok]

theorem plbInv_posts (hp : s.me.priv ≠ .u) (hw : s.waiting .plbInv = false) (hd : s.syncGate = .ok d)
    (h3 : (s.x rs2).toNat % 4 ≠ 3) (h16 : (s.x rs2).toNat < 16) (h8 : (s.x rs2).toNat / 8 % 2 = 0 ∨ (s.x rs2).toNat % 4 = 0)
    (hu : d.release .pkg = .ok u) :
    exec (.plbInv rd rs1 rs2) s = .next (({ u with invs := u.invs ++
      [⟨some s.tid, (s.x rs2).toNat % 4, bitOf (s.x rs2).toNat 3, s.x rs1⟩] } : State).waitFor .plbInv u.waitlim
        { xs := [(rd, Status.timeout.word)] }) := by
  have hno : ((s.x rs2).toNat % 4 == 3 || decide (16 ≤ (s.x rs2).toNat)
      || (bitOf (s.x rs2).toNat 3 && (s.x rs2).toNat % 4 != 0)) = false := by
    rw [bitOf_three, decide_eq_false (Nat.not_le.mpr h16)]
    obtain h8 | h8 := h8
    · simp [h3, h8]
    · simp [h8]
  show execPlbInv rd rs1 rs2 s = _
  simp only [execPlbInv, privileged_passes hp, hw, Bool.false_eq_true, if_false, hd, ok_bind, hno, hu, done_ok]

theorem plbInv_acknowledged (hp : s.me.priv ≠ .u) (hw : s.waiting .plbInv = true) (hi : ∀ i ∈ s.invs, i.who ≠ some s.tid) :
    exec (.plbInv rd rs1 rs2) s = .next (s.finish rd .ok 4) := by
  have hno : s.invs.any (fun i => i.who == some s.tid) = false := by simpa using hi
  show execPlbInv rd rs1 rs2 s = _
  simp only [execPlbInv, privileged_passes hp, hw, if_true, hno, Bool.false_eq_true, if_false, done_ok]

/-! ### `rgn.shrink` and `rgn.drain` (R391, R392) -/

theorem regionWait_takes {w : Word} {k : State → Go} (h : s.rgnResults = [(s.tid, w)]) :
    s.regionWait rd k = .ok ((({ s with rgnResults := [] } : State).setX rd w).retire 4) := by
  have hf : s.rgnResults.find? (fun r => r.1 == s.tid) = some (s.tid, w) := by simp [h]
  have hr : s.rgnResults.filter (fun x => x.1 != s.tid) = [] := by simp [h]
  simp only [State.regionWait, hf, hr]

theorem regionWait_submits {k : State → Go} (hr : s.rgnResults = []) (ho : s.rgnOps = []) :
    s.regionWait rd k = (k s).map (fun t => t.waitFor .region t.waitlim { xs := [(rd, Status.timeout.word)] }) := by
  simp only [State.regionWait, hr, ho, List.find?_nil, List.any_nil, Bool.false_eq_true, if_false]

theorem rgnShrink_waits (hp : s.me.priv ≠ .u) : ∃ k, exec (.rgnShrink rd rs1 rs2) s = Go.done (s.regionWait rd k) := by
  show ∃ k, execRgnShrink rd rs1 rs2 s = _
  simp only [execRgnShrink, privileged_passes hp]
  exact ⟨_, rfl⟩

theorem rgnDrain_waits (hp : s.me.priv ≠ .u) : ∃ k, exec (.rgnDrain rd rs1) s = Go.done (s.regionWait rd k) := by
  show ∃ k, execRgnDrain rd rs1 s = _
  simp only [execRgnDrain, privileged_passes hp]
  exact ⟨_, rfl⟩

theorem rgnShrink_refuses (hp : s.me.priv ≠ .u) (hr : s.rgnResults = []) (ho : s.rgnOps = [])
    (h : 128 ≤ (s.x rs1).toNat ∨ 2 ^ 56 ≤ (s.x rs2).toNat ∨ (s.x rs2).toNat / 4 % 4 = 3
      ∨ (s.x rs2).toNat % 4 = 0 ∧ (s.x rs2).toNat / 4 % 4 = 0) :
    exec (.rgnShrink rd rs1 rs2) s = .next (s.finish rd .range 4) := by
  have hno : (decide (128 ≤ (s.x rs1).toNat) || decide (2 ^ 56 ≤ (s.x rs2).toNat) || (s.x rs2).toNat / 4 % 4 == 3
      || ((s.x rs2).toNat % 4 == 0 && (s.x rs2).toNat / 4 % 4 == 0)) = true := by
    simpa [or_assoc] using h
  show execRgnShrink rd rs1 rs2 s = _
  simp only [execRgnShrink, privileged_passes hp, regionWait_submits hr ho, hno, if_true]
  rfl

theorem rgnShrink_posts (hp : s.me.priv ≠ .u) (hr : s.rgnResults = []) (ho : s.rgnOps = []) (h1 : (s.x rs1).toNat < 128)
    (h2 : (s.x rs2).toNat < 2 ^ 56) (h3 : (s.x rs2).toNat / 4 % 4 ≠ 3)
    (h4 : (s.x rs2).toNat % 4 ≠ 0 ∨ (s.x rs2).toNat / 4 % 4 ≠ 0) :
    exec (.rgnShrink rd rs1 rs2) s = .next (({ s with rgnOps := [s.threadOp (s.x rs1).toNat ((s.x rs2).toNat % 4)
      (BitVec.ofNat 64 ((s.x rs2).toNat / 2 ^ 12 % 2 ^ 44 * 2 ^ 12)) ((s.x rs2).toNat / 2 ^ 4 % 2 ^ 8)
      ((s.x rs2).toNat / 4 % 4)] } : State).waitFor .region s.waitlim { xs := [(rd, Status.timeout.word)] }) := by
  have hno : (decide (128 ≤ (s.x rs1).toNat) || decide (2 ^ 56 ≤ (s.x rs2).toNat) || (s.x rs2).toNat / 4 % 4 == 3
      || ((s.x rs2).toNat % 4 == 0 && (s.x rs2).toNat / 4 % 4 == 0)) = false := by
    rw [decide_eq_false (Nat.not_le.mpr h1), decide_eq_false (Nat.not_le.mpr h2)]
    obtain h4 | h4 := h4 <;> simp [h3, h4]
  show execRgnShrink rd rs1 rs2 s = _
  simp only [execRgnShrink, privileged_passes hp, regionWait_submits hr ho, hno, Bool.false_eq_true, if_false, ho]
  rfl

theorem rgnDrain_refuses (hp : s.me.priv ≠ .u) (hr : s.rgnResults = []) (ho : s.rgnOps = [])
    (h : s.region ((s.x rs1).toNat % 128) = none) : exec (.rgnDrain rd rs1) s = .next (s.finish rd .range 4) := by
  show execRgnDrain rd rs1 s = _
  simp only [execRgnDrain, privileged_passes hp, regionWait_submits hr ho, h, Option.isNone_none, if_true]
  rfl

theorem rgnDrain_posts (hp : s.me.priv ≠ .u) (hr : s.rgnResults = []) (ho : s.rgnOps = [])
    (h : (s.region ((s.x rs1).toNat % 128)).isSome = true) :
    exec (.rgnDrain rd rs1) s = .next (({ s with rgnOps := [s.threadOp ((s.x rs1).toNat % 128) 4 0 0 0] } : State).waitFor .region
      s.waitlim { xs := [(rd, Status.timeout.word)] }) := by
  have hno : (s.region ((s.x rs1).toNat % 128)).isNone = false := by
    rw [Option.isNone_eq_false_iff]
    exact h
  show execRgnDrain rd rs1 s = _
  simp only [execRgnDrain, privileged_passes hp, regionWait_submits hr ho, hno, Bool.false_eq_true, if_false, ho]
  rfl

/-! ### `trap.rec` (R393) -/

theorem trapRec_refuses (hp : s.me.priv ≠ .u) (h : (s.x rs1).toNat % 64 ≠ 0 ∨ 2 ^ 63 ≤ (s.x rs2).toNat) :
    exec (.trapRec rd rs1 rs2) s = .next (s.finish rd .range 4) := by
  have hno : ((s.x rs1).toNat % 64 != 0 || decide (2 ≤ (s.x rs2).toNat / 2 ^ 62)
      || (s.x rs2).toNat % 2 ^ 62 / (if (s.x rs2).toNat / 2 ^ 62 == 1 then 128 else 1) != 0) = true := by
    obtain h | h := h
    · simp [h]
    · rw [decide_eq_true (by omega : 2 ≤ (s.x rs2).toNat / 2 ^ 62), Bool.or_true, Bool.true_or]
  show execTrapRec rd rs1 rs2 s = _
  simp only [execTrapRec, privileged_passes hp, hno, if_true, done_ok]

/-- A selector that names the thread's own record, or that of a region. -/
theorem selector_ok {a : Nat} {sel : Nat} (ha : a % 64 = 0) (h : sel = 0 ∨ 2 ^ 62 ≤ sel ∧ sel < 2 ^ 62 + 128) :
    (a % 64 != 0 || decide (2 ≤ sel / 2 ^ 62) || sel % 2 ^ 62 / (if sel / 2 ^ 62 == 1 then 128 else 1) != 0) = false := by
  obtain rfl | ⟨h1, h2⟩ := h
  · simp [ha]
  · have hq : sel / 2 ^ 62 = 1 := by omega
    have hr : sel % 2 ^ 62 / 128 = 0 := by omega
    rw [ha, hq, if_pos (by rfl), hr]
    rfl

theorem trapRec_lacks (hp : s.me.priv ≠ .u) (ha : (s.x rs1).toNat % 64 = 0)
    (h : (s.x rs2).toNat = 0 ∨ 2 ^ 62 ≤ (s.x rs2).toNat ∧ (s.x rs2).toNat < 2 ^ 62 + 128) (hr : s.record (s.x rs2).toNat = none) :
    exec (.trapRec rd rs1 rs2) s = .next (s.finish rd .empty 4) := by
  show execTrapRec rd rs1 rs2 s = _
  simp only [execTrapRec, privileged_passes hp, selector_ok ha h, Bool.false_eq_true, if_false, hr, done_ok]

theorem trapRec_stores {ws : List Nat} (hp : s.me.priv ≠ .u) (ha : (s.x rs1).toNat % 64 = 0)
    (h : (s.x rs2).toNat = 0 ∨ 2 ^ 62 ≤ (s.x rs2).toNat ∧ (s.x rs2).toNat < 2 ^ 62 + 128)
    (hr : s.record (s.x rs2).toNat = some ws) (hu : s.writeArea (s.x rs1) (fun _ => false) 0 ws = .ok u) :
    exec (.trapRec rd rs1 rs2) s = .next (u.finish rd .ok 4) := by
  show execTrapRec rd rs1 rs2 s = _
  simp only [execTrapRec, privileged_passes hp, selector_ok ha h, Bool.false_eq_true, if_false, hr, hu, ok_bind, done_ok]

end

/-- Settles O40: the guard, the area written and read back, and each word as the request that it posts. -/
theorem privilegedWords : Obligations.PrivilegedWords := by
  unfold Obligations.PrivilegedWords
  refine ⟨?user, ?noSlot, ?save, ?saveTo, ?load, ?loaded, ?plbInv, fun rd rs1 rs2 s hp hw hi => ⟨_, plbInv_acknowledged hp hw hi, writesX_finish ..⟩,
    ?result, ?shrink, ?drain, ?trapRec⟩
  case user =>
    intro rd rs1 rs2 s hu i f7 h
    obtain ⟨rfl, rfl⟩ | ⟨rfl, rfl⟩ | ⟨rfl, rfl⟩ | ⟨rfl, rfl⟩ | ⟨rfl, rfl, rfl⟩ | ⟨rfl, rfl⟩ := h
    · show execCtxSave rd rs1 rs2 s = _
      exact privileged_user hu
    · show execCtxLoad rd rs1 rs2 s = _
      exact privileged_user hu
    · show execPlbInv rd rs1 rs2 s = _
      exact privileged_user hu
    · show execRgnShrink rd rs1 rs2 s = _
      exact privileged_user hu
    · show execRgnDrain rd rs1 s = _
      exact privileged_user hu
    · show execTrapRec rd rs1 rs2 s = _
      exact privileged_user hu
  case noSlot =>
    intro rd rs1 rs2 s hp hl i hi
    obtain rfl | rfl := hi
    · exact ⟨_, ctxSave_no_slot hp hl, writesX_finish ..⟩
    · exact ⟨_, ctxLoad_no_slot hp hl, writesX_finish ..⟩
  case save =>
    intro rd rs1 rs2 s u l d hp hl hst
    exact ⟨fun h => ⟨_, ctxSave_refused hp hl hst h, writesX_finish ..⟩,
      fun hg hh hk hf hu => ⟨_, ctxSave_saves hp hl hst hg hh hk hf hu, writesX_finish ..⟩⟩
  case saveTo =>
    intro s w p l a hp hw
    refine ⟨_, saveTo_saves hp hw, ?out, fun k hk => ?others, rfl, rfl, fun h => ?parked⟩
    case out =>
      obtain ⟨c, hc⟩ := slot_newCost_same (({ w with
        feq := w.feq.filter (fun q => q.loc != l),
        away := w.away ++ [⟨l, a, { w.slot l with resv := none, home := some ((w.slot l).tid l).1 }⟩] } : State).modSlot l
          (fun t => t.leaveOut l a)) l
      rw [hc, slot_modSlot_same]
      rfl
    case others =>
      rw [slot_newCost_ne _ _ hk, slot_modSlot_ne _ _ hk]
      rfl
    case parked =>
      obtain ⟨c, hc⟩ := slot_newCost_same (({ w with
        feq := w.feq.filter (fun q => q.loc != l),
        away := w.away ++ [⟨l, a, { w.slot l with resv := none, home := some ((w.slot l).tid l).1 }⟩] } : State).modSlot l
          (fun t => t.leaveOut l a)) l
      rw [hc, slot_modSlot_same]
      exact if_pos h
  case load =>
    intro rd rs1 rs2 s u l b hp hl hst hu
    have hx := ctxLoad_of_area (rd := rd) hp hl hst hu
    exact ⟨fun h => ⟨_, by rw [hx, if_pos h], writesX_finish ..⟩, fun h => ⟨_, by rw [hx, if_neg (by simp [h])], writesX_finish ..⟩⟩
  case loaded =>
    intro s l a b t hm hb
    obtain ⟨hpc, hst, ho, hd, hx, hh⟩ := holdsArea_loadFrom s l a b hm hb
    exact ⟨hpc, hst, ho, hd, hx, hh⟩
  case plbInv =>
    intro rd rs1 rs2 s d u m hp hw hd
    refine ⟨fun h => ⟨_, plbInv_refuses hp hw hd h, writesX_finish ..⟩, fun h3 h16 h8 hu hn hl => ?_⟩
    refine ⟨_, plbInv_posts hp hw hd h3 h16 h8 hu, ?_⟩
    rw [waitFor_begins _ _ (by exact hn) hl.ne', me_modMe]
    exact ⟨rfl, rfl, rfl⟩
  case result =>
    intro rd rs1 rs2 s w hp hr i hi
    obtain rfl | rfl := hi
    · obtain ⟨k, hk⟩ := rgnShrink_waits (rd := rd) (rs1 := rs1) (rs2 := rs2) hp
      exact ⟨_, by rw [hk, regionWait_takes hr, done_ok], writesX_retire ..⟩
    · obtain ⟨k, hk⟩ := rgnDrain_waits (rd := rd) (rs1 := rs1) hp
      exact ⟨_, by rw [hk, regionWait_takes hr, done_ok], writesX_retire ..⟩
  case shrink =>
    intro rd rs1 rs2 s n w hp hr ho
    refine ⟨fun h => ⟨_, rgnShrink_refuses hp hr ho h, writesX_finish ..⟩, fun h1 h2 h3 h4 hn hl => ?_⟩
    refine ⟨_, s.threadOp n (w % 4) (BitVec.ofNat 64 (w / 2 ^ 12 % 2 ^ 44 * 2 ^ 12)) (w / 2 ^ 4 % 2 ^ 8) (w / 4 % 4),
      rgnShrink_posts hp hr ho h1 h2 h3 h4, ?_⟩
    rw [waitFor_begins _ _ (by exact hn) hl.ne', me_modMe]
    refine ⟨rfl, rfl, rfl, rfl, rfl, ?_, rfl⟩
    show (BitVec.ofNat 64 (w / 2 ^ 12 % 2 ^ 44 * 2 ^ 12)).toNat = _
    rw [BitVec.toNat_ofNat]
    omega
  case drain =>
    intro rd rs1 s n hp hr ho
    refine ⟨fun h => ⟨_, rgnDrain_refuses hp hr ho h, writesX_finish ..⟩, fun h hn hl => ?_⟩
    refine ⟨_, s.threadOp n 4 0 0 0, rgnDrain_posts hp hr ho h, ?_⟩
    rw [waitFor_begins _ _ (by exact hn) hl.ne']
    exact ⟨rfl, rfl, rfl, rfl⟩
  case trapRec =>
    intro rd rs1 rs2 s sel hp
    exact ⟨fun h => ⟨_, trapRec_refuses hp h, writesX_finish ..⟩, fun ha h => ⟨fun hr => ⟨_, trapRec_lacks hp ha h hr, writesX_finish ..⟩,
      fun ws u hr hu => ⟨_, trapRec_stores hp ha h hr hu, writesX_finish ..⟩⟩⟩

end Sys2Proof.Machine
end

section
/-! PROOFS. Reference moves, checks, allocation and pins (O33). -/

namespace Sys2Proof.Machine

/-! ### A slot whose reference and integer registers are written -/

/-- A slot that differs in its `h` and `x` registers, marked dirty, and in its user CSRs, then retired. -/
theorem refs_retire {s t : State} {w : Slot} {n : Nat} (ht : t = (s.setMe w).retire n)
    (hw : w = { s.me with h := w.h, x := w.x, dirty := s.me.dirty ||| dirtyH, u := w.u }) :
    ThreadStep s t n { s.me with h := t.me.h, x := t.me.x, dirty := s.me.dirty ||| dirtyH, u := w.u }
      ∧ (∀ q, t.h q = w.hr q) ∧ ∀ q, t.x q = w.xr q := by
  subst ht
  refine ⟨threadStep_retire s w _ n ?_ ?_ ?_ ?_, fun q => ?_, fun q => ?_⟩
  · rw [hw]
  · rw [hw]
  · rw [hw]
  · simp only [me_retire, me_setMe, retire_h, retire_x]
    rw [hw]
  · show ((s.setMe w).retire n).me.hr q = _
    rw [me_retire, hr_retire, me_setMe]
  · show ((s.setMe w).retire n).me.xr q = _
    rw [me_retire, xr_retire, me_setMe]

theorem wx_hr (t : Slot) (r : BitVec 5) (v : Word) (q : BitVec 4) : (t.wx r v).hr q = t.hr q := by
  rw [wx_eta]
  rfl

theorem wh_xr (t : Slot) (r : BitVec 4) (v : Word) (q : BitVec 5) : (t.wh r v).xr q = t.xr q := rfl

/-- A null reference and a status: an allocation that failed. -/
theorem allocFail_writes (s : State) (hd : BitVec 4) (xs : BitVec 5) (st : Status) :
    let t := s.allocFail hd xs st
    ThreadStep s t 8 { s.me with h := t.me.h, x := t.me.x, dirty := s.me.dirty ||| dirtyH }
      ∧ (∀ q, t.h q = if q = hd then 0 else s.h q)
      ∧ ∀ q, t.x q = if q = 0 then 0 else if q = xs then st.word else s.x q := by
  intro t
  have ht : t = (s.setMe ((s.me.wh hd 0).wx xs st.word)).retire 8 := by
    show (((s.setH hd 0).setX xs st.word).retire 8) = _
    simp only [State.setH, State.setX, State.modMe, me_setMe, setMe_setMe]
  obtain ⟨hstep, hh, hx⟩ := refs_retire ht (by rw [wx_eta]; rfl)
  refine ⟨by simpa only [wx_u, wh_u] using hstep, fun q => ?_, fun q => ?_⟩
  · rw [hh, wx_hr, hr_wh]
    rfl
  · rw [hx, xr_wx, wh_xr]
    rfl

/-- A reference and two x registers, the second written last. -/
theorem refs_written (s : State) (hd : BitVec 4) (v : Word) (xs xi : BitVec 5) (a b : Word) :
    let t := (((s.setH hd v).setX xs a).setX xi b).retire 8
    ThreadStep s t 8 { s.me with h := t.me.h, x := t.me.x, dirty := s.me.dirty ||| dirtyH }
      ∧ (∀ q, t.h q = if q = hd then v else s.h q)
      ∧ ∀ q, t.x q = if q = 0 then 0 else if q = xi then b else if q = xs then a else s.x q := by
  intro t
  have ht : t = (s.setMe (((s.me.wh hd v).wx xs a).wx xi b)).retire 8 := by
    simp only [t, State.setH, State.setX, State.modMe, me_setMe, setMe_setMe]
  obtain ⟨hstep, hh, hx⟩ := refs_retire ht (by rw [wx_eta ((s.me.wh hd v).wx xs a), wx_eta (s.me.wh hd v)]; rfl)
  refine ⟨by simpa only [wx_u, wh_u] using hstep, fun q => ?_, fun q => ?_⟩
  · rw [hh, wx_hr, wx_hr, hr_wh]
    rfl
  · rw [hx, xr_wx, xr_wx, wh_xr]
    by_cases h0 : q = 0
    · simp only [h0, if_pos]
    · simp only [h0, if_false]
      rfl

/-! ### `ref.eq` (R289) -/

section
variable {s : State}

theorem resolveEq_null {h : BitVec 4} (h0 : s.h h = 0) : s.resolveEq h = s := by
  rw [State.resolveEq, if_pos (beq_iff_eq.mpr h0)]

theorem resolveEq_still {h : BitVec 4} (hm : s.movedRef (s.h h) = none) : s.resolveEq h = s := by
  rw [State.resolveEq, hm]
  exact ite_self s

theorem resolveEq_moved {h : BitVec 4} {r : Word} (h0 : s.h h ≠ 0) (hm : s.movedRef (s.h h) = some r) :
    s.resolveEq h = s.setH h r := by
  rw [State.resolveEq, if_neg (mt beq_iff_eq.mp h0), hm]

theorem refEq_same (u : State) (ha hb : BitVec 4) :
    BitVec.ofNat 64 (if u.h ha == 0 || u.h hb == 0 then u.h ha == u.h hb else refAddr (u.h ha) == refAddr (u.h hb)).toNat
      = if (if u.h ha = 0 ∨ u.h hb = 0 then u.h ha = u.h hb else refAddr (u.h ha) = refAddr (u.h hb)) then (1 : Word) else 0 := by
  by_cases hz : u.h ha = 0 ∨ u.h hb = 0
  · have hb' : (u.h ha == 0 || u.h hb == 0) = true := by simpa using hz
    simp only [hb', hz, if_true]
    by_cases he : u.h ha = u.h hb
    · simp [he]
    · simp [he, beq_false_of_ne he]
  · have hb' : (u.h ha == 0 || u.h hb == 0) = false := by simpa using hz
    simp only [hb', hz, Bool.false_eq_true, if_false]
    by_cases he : refAddr (u.h ha) = refAddr (u.h hb)
    · simp [he]
    · simp [he, beq_false_of_ne he]

theorem refEq_writes (s : State) (xd : BitVec 5) (ha hb : BitVec 4) : let u := (s.resolveEq ha).resolveEq hb
    ∃ t, exec (.refEq xd ha hb) s = .next t ∧ WritesX u t xd
      (if (if u.h ha = 0 ∨ u.h hb = 0 then u.h ha = u.h hb else refAddr (u.h ha) = refAddr (u.h hb)) then 1 else 0) 8 := by
  intro u
  refine ⟨_, rfl, ?_⟩
  rw [← refEq_same]
  exact writesX_retire u xd _ 8

end

/-! ### `ref.chk` (R292) -/

/-- The entry of a page that `ref.chk` may read a header on. -/
def State.refSeen (s : State) (a : Word) (e : Plb) : Prop :=
  aperture s.pkg.toNat (some (coreOf s.cur)) a.toNat = none ∧ s.lookup (s.viewOf s.cur) a.toNat = .ok e
    ∧ granted e.rights 9 = true ∧ e.managed = true

/-- That entry, as `ref.chk` looks it up. -/
def State.chkPage (s : State) (a : Word) : Option Plb :=
  if (aperture s.pkg.toNat (some (coreOf s.cur)) a.toNat).isSome then none
  else match s.lookup (s.viewOf s.cur) a.toNat with
    | .ok e => if granted e.rights (AK.rights .load ||| rightRef) && e.managed then some e else none
    | .error _ => none

/-- The reference that an object's page gives for it. -/
def State.chkAt (s : State) (e : Plb) (v : Word) : Word :=
  match s.forward e (refAddr v) with
  | .moved a => refAt v a
  | _ => v

/-- A header that no live object of the class of `v` has. -/
def Header.unfit (h : Header) (v : Word) : Prop :=
  h.flags / 4 ≠ 0 ∨ h.state = 3 ∨ maxBody < h.size ∨ classOf h.size ≠ refClass v

section
variable {s : State} {a v : Word} {e e2 : Plb}

theorem chkPage_eq_some : s.chkPage a = some e ↔ s.refSeen a e := by
  unfold State.chkPage State.refSeen
  cases haper : aperture s.pkg.toNat (some (coreOf s.cur)) a.toNat with
  | some p => simp
  | none =>
    cases hl : s.lookup (s.viewOf s.cur) a.toNat with
    | error w => simp
    | ok x =>
      have hr : (AK.rights .load ||| rightRef) = (9 : BitVec 8) := rfl
      simp only [Option.isSome_none, Bool.false_eq_true, if_false, hr, Option.ite_none_right_eq_some, Bool.and_eq_true,
        Option.some.injEq, true_and, Except.ok.injEq]
      constructor
      · rintro ⟨hg, rfl⟩
        exact ⟨rfl, hg⟩
      · rintro ⟨rfl, hg⟩
        exact ⟨hg, rfl⟩

theorem chkPage_eq_none (h : ∀ e, ¬ s.refSeen a e) : s.chkPage a = none :=
  Option.eq_none_iff_forall_not_mem.mpr fun e he => h e (chkPage_eq_some.mp he)

theorem chkRef_null : s.chkRef 0 = (0, .empty, 0) := rfl

theorem chkRef_malformed (hv : v ≠ 0) (ho : refOk v = false) : s.chkRef v = (0, .range, 0) := by
  rw [State.chkRef, if_neg (by simpa using hv), if_pos (by rw [ho]; rfl)]

theorem chkRef_wellFormed (hv : v ≠ 0) (ho : refOk v = true) : s.chkRef v = match s.chkPage (refAddr v) with
    | none => (0, .fault, 0)
    | some e => match s.chkPage (refAddr (s.chkAt e v)) with
      | none => (0, .fault, 0)
      | some e2 =>
        let h := s.header e2 (refAddr (s.chkAt e v))
        if h.flags / 4 != 0 || h.state == 3 || maxBody < h.size || classOf h.size != refClass v then (0, .refused, 0)
        else (s.chkAt e v, .ok, BitVec.ofNat 64 (h.type * 2 ^ 32 + h.size)) := by
  have hv' : (v == 0) = false := beq_false_of_ne hv
  simp only [State.chkRef, hv', ho, Bool.not_true, Bool.false_eq_true, if_false, State.chkPage, State.chkAt]
  generalize aperture s.pkg.toNat (some (coreOf s.cur)) = ap
  generalize s.lookup (s.viewOf s.cur) = lk
  rfl

theorem chkRef_unseen (hv : v ≠ 0) (ho : refOk v = true) (h : ∀ e, ¬ s.refSeen (refAddr v) e) : s.chkRef v = (0, .fault, 0) := by
  rw [chkRef_wellFormed hv ho, chkPage_eq_none h]

theorem chkRef_unseenAt (hv : v ≠ 0) (ho : refOk v = true) (h : s.refSeen (refAddr v) e)
    (h2 : ∀ e2, ¬ s.refSeen (refAddr (s.chkAt e v)) e2) : s.chkRef v = (0, .fault, 0) := by
  rw [chkRef_wellFormed hv ho, chkPage_eq_some.mpr h]
  simp only [chkPage_eq_none h2]

theorem unfit_iff (h : Header) (v : Word) :
    (h.flags / 4 != 0 || h.state == 3 || decide (maxBody < h.size) || classOf h.size != refClass v) = true ↔ h.unfit v := by
  simp [Header.unfit, or_assoc]

theorem chkRef_seen (hv : v ≠ 0) (ho : refOk v = true) (h : s.refSeen (refAddr v) e)
    (h2 : s.refSeen (refAddr (s.chkAt e v)) e2) : let h := s.header e2 (refAddr (s.chkAt e v))
    (h.unfit v → s.chkRef v = (0, .refused, 0))
    ∧ (¬ h.unfit v → s.chkRef v = (s.chkAt e v, .ok, BitVec.ofNat 64 (h.type * 2 ^ 32 + h.size))) := by
  have hc := chkRef_wellFormed (s := s) hv ho
  rw [chkPage_eq_some.mpr h] at hc
  simp only [chkPage_eq_some.mpr h2] at hc
  exact ⟨fun hu => by rw [hc, if_pos ((unfit_iff _ _).mpr hu)], fun hu => by rw [hc, if_neg (mt (unfit_iff _ _).mp hu)]⟩

end

/-! ### `ref.alloc` (R288, R289) -/

section
variable {s r u z : State} {hd : BitVec 4} {xn xt xs : BitVec 5} {ps : List (Word × Option Plb)}

theorem arenaRoom_fits {f : Nat} (h : s.me.u.arcur.toNat + f ≤ s.me.u.arend.toNat) : s.arenaRoom hd xs f = .ok s := by
  rw [State.arenaRoom]
  exact if_pos h

theorem arenaRoom_empty {f : Nat} (h : s.me.u.arend.toNat < s.me.u.arcur.toNat + f) (hl : s.me.u.arlist = 0) :
    s.arenaRoom hd xs f = .error (s.allocFail hd xs .empty) := by
  rw [State.arenaRoom]
  exact (if_neg (Nat.not_le.mpr h)).trans (if_pos (by rw [hl]; rfl))

theorem allocFar_near (s : State) (ps : List (Word × Option Plb)) (bs : List Byte)
    (h : ∀ p ∈ ps, ∀ a, s.allocPlace p ≠ .far a) : s.allocFar ps bs = .ok s := by
  induction ps generalizing bs with
  | nil => rfl
  | cons p r ih =>
    have hr := ih (bs.drop (min bs.length (2 ^ 12 - p.1.toNat % 2 ^ 12))) fun q hq => h q (List.mem_cons_of_mem _ hq)
    rw [State.allocFar]
    cases hq : s.allocPlace p with
    | far a => exact absurd hq (h p List.mem_cons_self a)
    | dram pa => exact hr
    | spad c o => exact hr

theorem refAlloc_tooLarge (h : maxBody < (s.x xn).toNat) : exec (.refAlloc hd xn xt xs) s = .next (s.allocFail hd xs .range) := by
  show execRefAlloc hd xn xt xs s = _
  simp only [execRefAlloc, if_pos h, done_ok]

theorem refAlloc_allocates (h : (s.x xn).toNat ≤ maxBody) (ha : s.me.u.arcur.toNat % 32 = 0)
    (hr : (s.drain s.cur).arenaRoom hd xs (footprint (classOf (s.x xn).toNat)) = .ok r)
    (hp : r.allocPages r.me.u.arcur
      ((r.me.u.arcur.toNat + footprint (classOf (s.x xn).toNat) - 1) / 2 ^ 12 + 1 - r.me.u.arcur.toNat / 2 ^ 12) = .ok (u, ps))
    {bs : List Byte} (hb : natBytes (footprint (classOf (s.x xn).toNat)) (Header.mk (s.x xn).toNat (s.x xt).toNat 0 0).nat = bs)
    (hf : u.allocFar ps bs = .ok z) :
    exec (.refAlloc hd xn xt xs) s = .next ((((z.allocWrite ps bs).setH hd
        (BitVec.ofNat 64 (2 ^ 63 + classOf (s.x xn).toNat * 2 ^ 59 + r.me.u.arcur.toNat % 2 ^ 56))).modMe (fun t => { t with
          u := { t.u with arcur := r.me.u.arcur + BitVec.ofNat 64 (footprint (classOf (s.x xn).toNat)) } })).finish xs .ok 8) := by
  show execRefAlloc hd xn xt xs s = _
  have ha' : (s.me.u.arcur.toNat % 32 != 0) = false := by rw [ha]; rfl
  subst hb
  simp only [execRefAlloc, if_neg (Nat.not_lt.mpr h), ha', Bool.false_eq_true, if_false, hr, ok_bind, hp, hf, done_ok]

/-- The reference, the arena and the status of an allocation, written after its object. -/
theorem allocated_writes (w : State) (hd : BitVec 4) (xs : BitVec 5) (v cur : Word) :
    let t := ((w.setH hd v).modMe (fun t => { t with u := { t.u with arcur := cur } })).finish xs .ok 8
    ThreadStep w t 8 { w.me with h := t.me.h, x := t.me.x, dirty := w.me.dirty ||| dirtyH, u := { w.me.u with arcur := cur } }
      ∧ t.h hd = v ∧ (∀ q, q ≠ hd → t.h q = w.h q)
      ∧ ∀ q, t.x q = if q = 0 then 0 else if q = xs then Status.ok.word else w.x q := by
  intro t
  have ht : t = (w.setMe (({ w.me.wh hd v with u := { w.me.u with arcur := cur } } : Slot).wx xs Status.ok.word)).retire 8 := by
    simp only [t, State.finish, State.setH, State.setX, State.modMe, me_setMe, setMe_setMe]
    rfl
  obtain ⟨hstep, hh, hx⟩ := refs_retire ht (by rw [wx_eta]; rfl)
  have hreg (q : BitVec 4) : t.h q = if q = hd then v else w.h q := by
    rw [hh, wx_hr]
    exact hr_wh w.me hd q v
  refine ⟨by simpa only [wx_u] using hstep, by rw [hreg, if_pos rfl], fun q hq => by rw [hreg, if_neg hq], fun q => ?_⟩
  rw [hx, xr_wx]
  rfl

theorem refAlloc_noRoom {w : State} (h : (s.x xn).toNat ≤ maxBody) (ha : s.me.u.arcur.toNat % 32 = 0)
    (hr : (s.drain s.cur).arenaRoom hd xs (footprint (classOf (s.x xn).toNat)) = .error w) :
    exec (.refAlloc hd xn xt xs) s = .next w := by
  show execRefAlloc hd xn xt xs s = _
  have ha' : (s.me.u.arcur.toNat % 32 != 0) = false := by rw [ha]; rfl
  simp only [execRefAlloc, if_neg (Nat.not_lt.mpr h), ha', Bool.false_eq_true, if_false, hr]
  rfl

end

/-! ### The pins (R291) -/

section
variable {s u : State} {xd xs : BitVec 5} {hs : BitVec 4} {e : Plb} {a : Word}

theorem setPin_writes (hm : MemoryInv u) (he : e.repl = false) (n : Nat) :
    Writes u (u.setPin e a n) u.cur (.dram (e.at (a + 8))) 4 n :=
  writes_writeAt u u.cur 0 (a + 8) _ (some e) 4 n hm trivial fun _ hx => by rw [← Option.some.inj hx]; exact he

theorem die_setPin (s : State) (e : Plb) (a : Word) (n d : Nat) : (s.setPin e a n).die d = s.die d := by
  have h : (s.setPin e a n).dies = s.dies := (touches_writeAt s s.cur (a + 8) _ 4 n 0).dies
  rw [State.die, State.die, h]

variable (hp : s.pinHeader hs = .ok (u, e, a))
include hp

theorem refPin_counts (hfull : (u.header e a).pin ≠ 2 ^ 32 - 1)
    (hroom : (u.header e a).pin = 0 → (u.die e.home).pins.length < 4096) :
    let w := u.setPin e a ((u.header e a).pin + 1)
    exec (.refPin xd hs xs) s = .next ((((if (u.header e a).pin = 0
        then w.modDie e.home (fun d => { d with pins := assocSet d.pins a.toNat (u.header e a).size }) else w).setX xd (a + 16)).setX xs
      Status.ok.word).retire 8) := by
  intro w
  show execRefPin xd hs xs s = _
  have h1 : ((u.header e a).pin == 2 ^ 32 - 1) = false := beq_false_of_ne hfull
  have h2 : ((u.header e a).pin == 0 && decide (pinEntries ≤ (u.die e.home).pins.length)) = false := by
    by_cases h0 : (u.header e a).pin = 0
    · have hlt : ¬ pinEntries ≤ (u.die e.home).pins.length := Nat.not_le.mpr (hroom h0)
      exact Bool.and_eq_false_iff.mpr (.inr (decide_eq_false hlt))
    · simp [h0]
  rw [execRefPin, hp, ok_bind]
  simp only [h1, h2, Bool.false_eq_true, if_false, done_ok, beq_iff_eq, State.modDie, die_setPin, w]
  rfl

theorem refUnpin_counts (h0 : (u.header e a).pin ≠ 0) :
    let w := u.setPin e a ((u.header e a).pin - 1)
    exec (.refUnpin xs hs) s = .next ((if (u.header e a).pin = 1
      then w.modDie e.home (fun d => { d with pins := assocDel d.pins a.toNat }) else w).finish xs .ok 8) := by
  intro w
  show execRefUnpin xs hs s = _
  rw [execRefUnpin, hp, ok_bind]
  simp only [beq_iff_eq, if_neg h0, done_ok, w]

theorem refUnpin_unpinned (h0 : (u.header e a).pin = 0) : exec (.refUnpin xs hs) s = .next (u.finish xs .range 8) := by
  show execRefUnpin xs hs s = _
  rw [execRefUnpin, hp, ok_bind]
  simp only [beq_iff_eq, if_pos h0, done_ok]

end

/-- Settles O33: each word's registers are written by one slot update, `ref.chk` by the rows of R292, and the pin count by
one write of memory. -/
theorem referenceObjectWords : Obligations.ReferenceObjectWords := by
  unfold Obligations.ReferenceObjectWords
  refine ⟨fun hd s => ⟨_, rfl, writesH_retire s hd 0 8⟩, fun d hs s => ⟨_, rfl, writesX_retire s d _ 8⟩,
    fun d hs s => ⟨_, rfl, writesH_retire s _ _ 8⟩, ?_, ?_, ?_, ?_, fun s ps bs h => allocFar_near s ps bs h, ?_,
    fun s hd xs f h => arenaRoom_fits h, ?_, ?_, ?_⟩
  case refine_1 =>
    intro via xd ha hb s u
    have hv (s : State) (h : BitVec 4) : via s h = s.resolveEq h := by
      by_cases h0 : s.h h = 0
      · simp only [via, h0, if_true, resolveEq_null]
      · cases hm : s.movedRef (s.h h) with
        | none => simp only [via, h0, if_false, hm, resolveEq_still hm]
        | some r => simp only [via, h0, if_false, hm, resolveEq_moved h0 hm]
    have hu : (s.resolveEq ha).resolveEq hb = u := by rw [← hv, ← hv]
    clear_value via u
    exact hu ▸ refEq_writes s xd ha hb
  case refine_2 => exact fun hd xv xs xi s => ⟨_, rfl, refs_written ..⟩
  case refine_3 =>
    intro seen at1 bad s v
    exact ⟨fun h => by rw [h]; exact chkRef_null, chkRef_malformed, chkRef_unseen, fun e hv ho hs =>
      ⟨chkRef_unseenAt hv ho hs, fun e2 h2 => chkRef_seen hv ho hs h2⟩⟩
  case refine_4 =>
    intro hd xn xt xs s st h d
    rcases h with ⟨hl, rfl⟩ | ⟨hl, ha, hr, hz, rfl⟩
    · rw [show d = s from if_pos hl]
      exact ⟨_, refAlloc_tooLarge hl, allocFail_writes s hd xs .range⟩
    · rw [show d = s.drain s.cur from if_neg (Nat.not_lt.mpr hl)]
      exact ⟨_, refAlloc_noRoom hl ha (arenaRoom_empty hr hz), allocFail_writes _ hd xs .empty⟩
  case refine_5 =>
    intro hd xn xt xs s r u z ps n f a hl ha hr hp bs hz w
    exact ⟨_, refAlloc_allocates hl ha hr hp rfl hz, allocated_writes w hd xs _ _⟩
  case refine_6 =>
    intro xd hs xs s u e a hp hm he h hfull hroom
    exact ⟨_, _, _, refPin_counts hp hfull hroom, setPin_writes hm he _, rfl, writesXX_retire ..⟩
  case refine_7 =>
    intro xs hs s u e a hp hm he h h0
    exact ⟨_, _, _, refUnpin_counts hp h0, setPin_writes hm he _, rfl, writesX_retire ..⟩
  case refine_8 => exact fun xs hs s u e a hp h0 => ⟨_, refUnpin_unpinned hp h0, writesX_retire ..⟩

end Sys2Proof.Machine
end

section
/-! PROOFS. Reference loads and stores (O32): where a field is, and the four words over it. -/

namespace Sys2Proof.Machine

theorem ok_of_bind_ok {α β : Type} {x : Except State α} {f : α → Except State β} {b : β} (h : (x >>= f) = .ok b) :
    ∃ a, x = .ok a ∧ f a = .ok b := by
  cases x with
  | error e => cases h
  | ok a => exact ⟨a, rfl, h⟩

theorem cur_of_ok {α : Type} {s t u : State} {a b : α} (h : (Except.ok (t, a) : Except State (State × α)) = .ok (u, b))
    (hc : t.cur = s.cur) : u.cur = s.cur := by
  cases h
  exact hc

/-! ### The page of a reference (R275) -/

section
variable {s u : State} {k : AK} {a : Word} {e : Plb}

theorem refPage_cached (ha : aperture s.pkg.toNat (some (coreOf s.cur)) a.toNat = none)
    (hp : (s.core (coreOf s.cur)).plb.find? (·.covers (s.cur % 4) a.toNat) = some e)
    (hg : granted e.rights (k.rights ||| rightRef) = true) : s.refPage k a = .ok (s, some e) := by
  have hq : s.plbEntry s.cur a.toNat = (s, .ok e) := by
    rw [State.plbEntry, hp]
  simp only [State.refPage, ha, hq, hg, if_true]

/-- A page with an entry is one of memory here: only a translation was asked for. -/
theorem refPage_translated (h : s.refPage k a = .ok (u, some e)) : Translated s u := by
  unfold State.refPage at h
  split at h
  · split at h <;> cases h
  · generalize s.ask k a 0 _ _ = q at h
    cases q <;> cases h
  · cases h
  · dsimp only at h
    split at h
    · cases h
    · split at h
      · have hu : (s.plbEntry s.cur a.toNat).1 = u := congrArg Prod.fst (Except.ok.inj h)
        exact hu ▸ translated_plbEntry s s.cur a.toNat
      · cases h

theorem cur_refPage (h : s.refPage k a = .ok (u, some e)) : u.cur = s.cur := (refPage_translated h).touches.cur

end

/-! ### Where the object is (R276, R277) -/

section
variable {s u : State} {k : AK} {hs : BitVec 4} {e : Plb}

theorem resolve_normal (h : s.forward e (refAddr (s.h hs)) = .normal) :
    s.resolve k hs e = .ok (s, e, refAddr (s.h hs), false) := by
  simp only [State.resolve, h]

section
variable {a : Word} (h : s.forward e (refAddr (s.h hs)) = .moved a)
include h

theorem resolve_moved {e2 : Plb} (hp : (s.setH hs (refAt (s.h hs) a)).refPage k a = .ok (u, some e2)) :
    s.resolve k hs e = .ok (u, e2, a, false) := by
  simp only [State.resolve, h, hp, ok_bind]

theorem resolve_moved_away (hp : (s.setH hs (refAt (s.h hs) a)).refPage k a = .ok (u, none)) :
    s.resolve k hs e = .error (u.trap u.cur { cause := k.accessCause, tval := a }) := by
  simp only [State.resolve, h, hp, ok_bind]
  rfl

end

theorem cur_resolve {p : Plb × Word × Bool} (h : s.resolve k hs e = .ok (u, p)) : u.cur = s.cur := by
  unfold State.resolve at h
  dsimp only at h
  split at h
  · exact cur_of_ok h rfl
  · exact cur_of_ok h rfl
  · obtain ⟨⟨s2, q⟩, hp, hq⟩ := ok_of_bind_ok h
    cases q with
    | none => cases hq
    | some e2 =>
      have hc : s2.cur = s.cur := (cur_refPage hp).trans (setH_cur ..)
      exact cur_of_ok hq hc

end

/-! ### Where a field is (R285, R289) -/

section
variable {s u : State} {k : AK} {hs : BitVec 4} {xo : BitVec 5} {w : Nat}

theorem field_null (h : s.h hs = 0) : s.field k hs xo w = .error (s.trap s.cur { cause := 49 }) := by
  simp only [State.field, h, beq_self_eq_true, if_true]
  rfl

theorem field_misaligned (h0 : s.h hs ≠ 0) (ho : (s.x xo).toNat % w ≠ 0) : s.field k hs xo w = .error (s.trap s.cur
    { cause := k.misalignedCause, tval := refAddr (s.h hs) + 16 + BitVec.ofNat 64 (s.x xo).toNat }) := by
  have h0' : (s.h hs == 0) = false := beq_false_of_ne h0
  have ho' : ((s.x xo).toNat % w != 0) = true := bne_iff_ne.mpr ho
  simp only [State.field, h0', ho', Bool.false_eq_true, if_false, if_true]
  rfl

theorem aligned_bne (ho : (s.x xo).toNat % w = 0) : ((s.x xo).toNat % w != 0) = false := by
  rw [ho]
  rfl

theorem field_foreign (h0 : s.h hs ≠ 0) (ho : (s.x xo).toNat % w = 0)
    (hp : (s.drain s.cur).refPage k (refAddr (s.h hs)) = .ok (u, none)) :
    s.field k hs xo w = .error (u.trap u.cur { cause := 50, tval := refAddr (s.h hs) }) := by
  simp only [State.field, beq_false_of_ne h0, aligned_bne ho, Bool.false_eq_true, if_false, hp, ok_bind]
  rfl

section
variable {e : Plb} (h0 : s.h hs ≠ 0) (ho : (s.x xo).toNat % w = 0)
  (hp : (s.drain s.cur).refPage k (refAddr (s.h hs)) = .ok (u, some e)) (hh : u.h hs = s.h hs) (hm : e.managed = true)
  (hf : u.forward e (refAddr (s.h hs)) = .normal)
include h0 ho hp hh hm hf

theorem field_beyond (hb : (u.header e (refAddr (s.h hs))).size < (s.x xo).toNat + w) :
    s.field k hs xo w = .error (u.trap u.cur { cause := 51, tval := refAddr (s.h hs) }) := by
  rw [← hh] at hf
  simp only [State.field, beq_false_of_ne h0, aligned_bne ho, hp, hm, Bool.not_true, Bool.false_eq_true, if_false, resolve_normal hf, ok_bind, hh, if_pos hb]
  rfl

theorem field_located (hb : (s.x xo).toNat + w ≤ (u.header e (refAddr (s.h hs))).size) :
    let ea := refAddr (s.h hs) + 16 + BitVec.ofNat 64 (s.x xo).toNat
    ea.toNat / 2 ^ 12 = (refAddr (s.h hs)).toNat / 2 ^ 12 → s.field k hs xo w = .ok (u, ⟨ea, e, none⟩) := by
  intro ea hea
  rw [← hh] at hf
  have hea' : (ea.toNat / 2 ^ 12 == (refAddr (s.h hs)).toNat / 2 ^ 12) = true := beq_iff_eq.mpr hea
  simp only [State.field, beq_false_of_ne h0, aligned_bne ho, hp, hm, Bool.not_true, Bool.false_eq_true, if_false, resolve_normal hf, ok_bind, hh, if_neg (Nat.not_lt.mpr hb)]
  exact if_pos hea'

end

theorem cur_field {f : Field} (h : s.field k hs xo w = .ok (u, f)) : u.cur = s.cur := by
  unfold State.field at h
  dsimp only at h
  split at h
  · cases h
  · split at h
    · cases h
    · obtain ⟨⟨s1, q⟩, hp, h1⟩ := ok_of_bind_ok h
      cases q with
      | none => cases h1
      | some e =>
        have hc : s1.cur = s.cur := (cur_refPage hp).trans (touches_drain s s.cur).cur
        dsimp only at h1
        split at h1
        · cases h1
        · obtain ⟨⟨s2, e2, a, transit⟩, hr, h2⟩ := ok_of_bind_ok h1
          have hc2 : s2.cur = s.cur := (cur_resolve hr).trans hc
          dsimp only at h2
          split at h2
          · cases h2
          · split at h2
            · exact cur_of_ok h2 hc2
            · obtain ⟨⟨s3, q3⟩, hq, h3⟩ := ok_of_bind_ok h2
              cases q3 with
              | none => cases h3
              | some e3 =>
                dsimp only at h3
                split at h3
                · exact cur_of_ok h3 ((cur_refPage hq).trans hc2)
                · cases h3

end

/-! ### Loads and stores at a field (R286, R287) -/

section
variable {s u : State} {hs : BitVec 4} {xo : BitVec 5} {w : Nat} {v : Word} {f : Field}

theorem refHeld_apart {l : List RefHeld} {a n : Nat} (h : ∀ x ∈ l, overlaps a n x.at.toNat x.st.width = false) :
    l.any (fun x => overlaps a n x.at.toNat x.st.width) = false :=
  List.any_eq_false.mpr fun x hx => by rw [h x hx]; exact Bool.false_ne_true

theorem refLoad_reads (hf : s.field .load hs xo w = .ok (u, f)) (hh : u.me.heldOver f.ea.toNat w = false)
    (hr : ∀ h ∈ u.me.refHeld, overlaps f.ea.toNat w h.at.toNat h.st.width = false) :
    s.refLoad hs xo w = .ok (u, f, u.mem.read (f.page.pa (dieOf s.cur) false f.ea.toNat) w) := by
  rw [State.refLoad, hf, ok_bind]
  simp only [refHeld_apart hr, hh, Bool.false_eq_true, if_false]

theorem cur_refLoad {n : Nat} (h : s.refLoad hs xo w = .ok (u, f, n)) : u.cur = s.cur := by
  obtain ⟨⟨s1, g⟩, hf, h1⟩ := ok_of_bind_ok h
  dsimp only at h1
  split at h1
  · cases h1
  · split at h1
    · cases h1
    · exact cur_of_ok h1 (cur_field hf)

theorem refWrite_writes {e : Plb} {a : Word} (hm : MemoryInv u) (he : e.repl = false) (hc : u.cur = s.cur) (n x kind : Nat) :
    Writes u (u.refWrite e a n x kind) s.cur (.dram (e.at a)) n x := by
  rw [← hc]
  exact writes_writeAt u u.cur kind a _ (some e) n x hm trivial fun _ hx => by rw [← Option.some.inj hx]; exact he

theorem refStore_writes (hm : MemoryInv u) (hf : s.field .store hs xo w = .ok (u, f)) (ht : f.transit = none)
    (hrep : f.page.repl = false) (hh : u.me.heldOver f.ea.toNat w = false)
    (hr : ∀ h ∈ u.me.refHeld, overlaps f.ea.toNat w h.at.toNat h.st.width = false) :
    ∃ t, s.refStore hs xo w v = .ok t ∧ Writes u t s.cur (.dram (f.page.at f.ea)) w v.toNat := by
  refine ⟨_, ?_, refWrite_writes hm hrep (cur_field hf) w v.toNat 0⟩
  rw [State.refStore, hf, ok_bind]
  simp only [ht, hh, refHeld_apart hr, Bool.false_eq_true, if_false]

/-- A store that joins those held at the slice of its object. -/
theorem held_writes (u : State) (h : RefHeld) : let t := (u.modMe (fun t => { t with refHeld := t.refHeld ++ [h] })).nextSeq
    OnlyThread u t ∧ t.me = { u.me with refHeld := u.me.refHeld ++ [h], stSeq := u.me.stSeq + 1 } := by
  refine ⟨onlyThread_trans (onlyThread_setMe u _) (onlyThread_setMe _ _), ?_⟩
  simp only [State.nextSeq, me_modMe]

theorem refStore_transit {a : Nat} (hf : s.field .store hs xo w = .ok (u, f)) (ht : f.transit = some a) :
    s.refStore hs xo w v = .ok (u.modMe (fun t => { t with
      refHeld := t.refHeld ++ [⟨a, hs, none, ⟨f.ea, w, v, 0, u.me.stSeq, true⟩⟩] })).nextSeq := by
  rw [State.refStore, hf, ok_bind]
  simp only [ht]
  rfl

theorem refStore_behind (hf : s.field .store hs xo w = .ok (u, f)) (ht : f.transit = none)
    (hh : u.me.heldOver f.ea.toNat w = false) (hr : ∃ h ∈ u.me.refHeld, overlaps f.ea.toNat w h.at.toNat h.st.width = true) :
    s.refStore hs xo w v = .ok (u.modMe (fun t => { t with
      refHeld := t.refHeld ++ [⟨f.ea.toNat, hs, some f.ea, ⟨f.ea, w, v, 0, u.me.stSeq, true⟩⟩] })).nextSeq := by
  have hr' : u.me.refHeld.any (fun h => overlaps f.ea.toNat w h.at.toNat h.st.width) = true := List.any_eq_true.mpr hr
  rw [State.refStore, hf, ok_bind]
  simp only [ht, hh, hr', Bool.false_eq_true, if_false, if_true]
  rfl

end

/-! ### The words (R268, R275 to R277) -/

section
variable {s u : State} {ty : ElTy} {xd xv xo : BitVec 5} {hd hv hs : BitVec 4} {f : Field} {n : Nat}

theorem refLd_writes {v : Nat} (h : s.refLoad hs xo (ty.width / 8) = .ok (u, f, v)) :
    ∃ t, exec (.refLd ty xd hs xo) s = .next t
      ∧ WritesX u t xd (if ty.signed then sextW ty.width v else BitVec.ofNat 64 v) 8 := by
  refine ⟨_, ?_, writesX_retire u xd _ 8⟩
  show execRefLd ty xd hs xo s = _
  rw [execRefLd, h]
  rfl

theorem refSt_writes (h : s.refStore hs xo (ty.width / 8) (BitVec.ofNat 64 ((s.x xv).toNat % 2 ^ ty.width)) = .ok u) :
    ∃ t, exec (.refSt ty xv hs xo) s = .next t ∧ WritesNone u t 8 := by
  refine ⟨_, ?_, writesNone_retire u 8⟩
  show execRefSt ty xv hs xo s = _
  rw [execRefSt, h]
  rfl

theorem ofNat_beq_zero (hn : n < 2 ^ 64) (h0 : n ≠ 0) : (BitVec.ofNat 64 n == 0) = false := by
  refine beq_false_of_ne fun e => h0 ?_
  have hz := congrArg BitVec.toNat e
  rwa [BitVec.toNat_ofNat, Nat.mod_eq_of_lt hn] at hz

section
variable (h : s.refLoad hs xo 8 = .ok (u, f, n))
include h

theorem refLdf_null (h0 : n = 0) : exec (.refLdf hd hs xo) s = .next ((u.setH hd 0).retire 8) := by
  subst h0
  show execRefLdf hd hs xo s = _
  rw [execRefLdf, h]
  rfl

variable (hn : n < 2 ^ 64) (h0 : n ≠ 0)
include hn h0

theorem refLdf_malformed (hr : refOk (BitVec.ofNat 64 n) = false) :
    exec (.refLdf hd hs xo) s = .next (u.trap u.cur { cause := 52, tval := BitVec.ofNat 64 n }) := by
  show execRefLdf hd hs xo s = _
  simp only [execRefLdf, h, ok_bind, ofNat_beq_zero hn h0, hr, Bool.not_false, Bool.false_eq_true, if_false, if_true]
  rfl

variable (hr : refOk (BitVec.ofNat 64 n) = true)
include hr

theorem refLdf_still (hm : u.movedRef (BitVec.ofNat 64 n) = none) :
    exec (.refLdf hd hs xo) s = .next ((u.setH hd (BitVec.ofNat 64 n)).retire 8) := by
  show execRefLdf hd hs xo s = _
  simp only [execRefLdf, h, ok_bind, ofNat_beq_zero hn h0, hr, hm, Bool.not_true, Bool.false_eq_true, if_false, done_ok]

theorem refLdf_heals {r : Word} (hm : u.movedRef (BitVec.ofNat 64 n) = some r) :
    exec (.refLdf hd hs xo) s = .next (((u.refWrite f.page f.ea 8 r.toNat 1).setH hd r).retire 8) := by
  show execRefLdf hd hs xo s = _
  simp only [execRefLdf, h, ok_bind, ofNat_beq_zero hn h0, hr, hm, Bool.not_true, Bool.false_eq_true, if_false, done_ok]

end

theorem refStf_still (hm : s.movedRef (s.h hv) = none) (h : s.refStore hs xo 8 (s.h hv) = .ok u) :
    exec (.refStf hv hs xo) s = .next (u.retire 8) := by
  show execRefStf hv hs xo s = _
  simp only [execRefStf, hm, h, ok_bind, beq_self_eq_true, if_true, done_ok]

theorem refStf_moved {r : Word} (h0 : s.h hv ≠ 0) (hm : s.movedRef (s.h hv) = some r) (hr : r ≠ s.h hv)
    (h : s.refStore hs xo 8 r = .ok u) : exec (.refStf hv hs xo) s = .next ((u.setH hv r).retire 8) := by
  have h0' : (s.h hv == 0) = false := beq_false_of_ne h0
  have hr' : (r == s.h hv) = false := beq_false_of_ne hr
  show execRefStf hv hs xo s = _
  simp only [execRefStf, hm, h0', h, hr', Bool.false_eq_true, if_false, ok_bind, done_ok]

end

/-- Settles O32: a field is located by its page, its object's forwarding and its bounds, and each word is one load or store
of it. -/
theorem referenceAccesses : Obligations.ReferenceAccesses := by
  unfold Obligations.ReferenceAccesses
  refine ⟨fun s k hs xo w h => field_null h, fun s k hs xo w => field_misaligned, fun s k a e => refPage_cached,
    fun s u k hs xo w => field_foreign, ?_, ?_, fun ty xd hs xo s u f v => refLd_writes,
    fun ty xv hs xo s u => refSt_writes, fun s u hs xo w f => refLoad_reads, fun s u hs xo w v f => refStore_writes, ?_, ?_, ?_,
    fun hd hs xo s u f n h hn h0 hr => refLdf_malformed h hn h0 hr, fun hv hs xo s u hm h => ⟨_, refStf_still hm h, writesNone_retire u 8⟩,
    fun hv hs xo s u r h0 hm hr h => ⟨_, refStf_moved h0 hm hr h, writesH_retire u hv r 8⟩⟩
  case refine_1 =>
    intro s u k hs xo w e a ea h0 ho hp hh hm hf
    exact ⟨field_beyond h0 ho hp hh hm hf, field_located h0 ho hp hh hm hf⟩
  case refine_2 =>
    intro s u k hs e a r h hp
    cases r with
    | none => exact resolve_moved_away h hp
    | some e2 => exact resolve_moved h hp
  case refine_3 =>
    exact fun s u hs xo w v f a hf => ⟨fun ht => ⟨_, refStore_transit hf ht, held_writes u _⟩,
      fun ht hh hr => ⟨_, refStore_behind hf ht hh hr, held_writes u _⟩⟩
  case refine_4 =>
    intro hd hs xo s u f n h hn hv
    by_cases h0 : n = 0
    · exact ⟨_, refLdf_null h h0, h0 ▸ writesH_retire u hd 0 8⟩
    · obtain ⟨hr, hm⟩ := hv.resolve_left h0
      exact ⟨_, refLdf_still h hn h0 hr hm, writesH_retire u hd _ 8⟩
  case refine_5 =>
    intro hd hs xo s u f n r h hn h0 hr hm hw hrep
    exact ⟨_, _, refLdf_heals h hn h0 hr hm, refWrite_writes hw hrep (cur_refLoad h) 8 r.toNat 1, writesH_retire _ hd r 8⟩

end Sys2Proof.Machine
end

section
/-! PROOFS. Groups and collectives (O35): how a group forms, and how the k-th collective of a group goes on and ends. -/

namespace Sys2Proof.Machine

/-! ### The handle of a group -/

section
variable {s : State} {g : Group} {h r : Nat}

theorem group_of_liveGroup (hg : s.liveGroup h = some g) : s.group h = some g :=
  (Option.filter_eq_some_iff.mp hg).1

theorem handle_of_group (hg : s.group h = some g) : g.handle = h :=
  beq_iff_eq.mp (List.find?_some (p := fun x : Group => x.handle == h) hg)

theorem group_setGroup (hg : s.group h = some g) {g' : Group} (hh : g'.handle = h) : (s.setGroup g').group h = some g' := by
  have hp (x : Group) : ((if x.handle == g'.handle then g' else x).handle == h) = (x.handle == h) := by
    split
    · next he => rw [← beq_iff_eq.mp he]
    · rfl
  have hf : s.groups.find? (fun x => (if x.handle == g'.handle then g' else x).handle == h) = some g := by
    simp only [hp]
    exact hg
  show (s.groups.map (fun x => if x.handle == g'.handle then g' else x)).find? (fun x => x.handle == h) = some g'
  rw [List.find?_map]
  show Option.map _ (s.groups.find? (fun x => (if x.handle == g'.handle then g' else x).handle == h)) = _
  rw [hf, Option.map_some, if_pos (beq_iff_eq.mpr ((handle_of_group hg).trans hh.symm))]

/-- A group that a rank has dropped. -/
def Group.without (g : Group) (r : Nat) : Group :=
  { g with closed := true, dropped := if g.dropped.contains r then g.dropped else g.dropped ++ [r] }

theorem mem_dropped_without (g : Group) (r : Nat) : r ∈ (g.without r).dropped := by
  unfold Group.without
  by_cases hr : g.dropped.contains r = true
  · simp only [hr, if_true]
    exact List.contains_iff_mem.mp hr
  · simp only [hr]
    exact List.mem_append_right _ (List.mem_singleton.mpr rfl)

theorem dropRank_of_group (hg : s.group h = some g) (r : Nat) : s.dropRank h r false = s.setGroup (g.without r) := by
  simp only [State.dropRank, hg]
  rfl

section
variable {xd xh : BitVec 5} (hg : s.liveGroup ((s.x xh).toNat % 2 ^ 16) = some g) (hr : s.rankIn g s.tid = some r)
include hg hr

theorem grpDrop_drops (hd : r ∉ g.dropped) : exec (.grpDrop xd xh) s
    = .next (((s.tellOthers g (.drop g.handle r false)).dropRank g.handle r false).finish xd .ok 8) := by
  have hc : g.dropped.contains r = false := Bool.eq_false_iff.mpr (mt List.contains_iff_mem.mp hd)
  show execGrpDrop xd xh s = _
  simp only [execGrpDrop, hg, hr, hc, Bool.false_eq_true, if_false]

end

/-- A thread that is no rank of a live group, or has dropped it. -/
def State.noRank (s : State) (h : Nat) : Prop :=
  ∀ g r, s.liveGroup h = some g → s.rankIn g s.tid = some r → r ∈ g.dropped

theorem grpDrop_range {xd xh : BitVec 5} (h : s.noRank ((s.x xh).toNat % 2 ^ 16)) :
    exec (.grpDrop xd xh) s = .next (s.finish xd .range 8) := by
  show execGrpDrop xd xh s = _
  rw [execGrpDrop]
  cases hg : s.liveGroup ((s.x xh).toNat % 2 ^ 16) with
  | none => rfl
  | some g =>
    dsimp only
    cases hr : s.rankIn g s.tid with
    | none => rfl
    | some r => exact if_pos (List.contains_iff_mem.mpr (h g r hg hr))

theorem collCancel_range {xd xh : BitVec 5} (h : s.noRank ((s.x xh).toNat % 2 ^ 16)) (hw : s.waiting .cancel = false) :
    exec (.collCancel xd xh) s = .next (s.finish xd .range 8) := by
  show execCollCancel xd xh s = _
  simp only [execCollCancel, hw, Bool.false_eq_true, if_false]
  cases hg : s.liveGroup ((s.x xh).toNat % 2 ^ 16) with
  | none => rfl
  | some g =>
    cases hr : s.rankIn g s.tid with
    | none => simp only [Option.bind_some, hr, Option.map_none]
    | some r =>
      have hc : g.dropped.contains r = true := List.contains_iff_mem.mpr (h g r hg hr)
      simp only [Option.bind_some, hr, Option.map_some, hc, Bool.true_or, if_true]

end

/-! ### `coll.cancel` on the coordinator's package (R367) -/

/-- The collectives of a group that a thread still waits for. -/
def State.ownInsts (s : State) (h : Nat) : List Inst :=
  s.insts.filter (fun i => i.group == h && i.result.isNone && i.outstanding s.tid)

/-- The oldest of them that has not committed. -/
def oldestOpen (l : List Inst) : Option Inst := l.find? (fun i => !i.committed && l.all (fun j => j.committed || i.k ≤ j.k))

section
variable {s : State} {xd xh : BitVec 5} {g : Group} {r : Nat} (hw : s.waiting .cancel = false)
  (hg : s.liveGroup ((s.x xh).toNat % 2 ^ 16) = some g) (hr : s.rankIn g s.tid = some r) (hd : r ∉ g.dropped)
  (hc : g.coordinator = s.pkg.toNat)
include hw hg hr hd hc

theorem collCancel_here (hne : s.ownInsts ((s.x xh).toNat % 2 ^ 16) ≠ []) : exec (.collCancel xd xh) s =
    match oldestOpen (s.ownInsts ((s.x xh).toNat % 2 ^ 16)) with
    | some i => .next ((s.collStop i .abort [r]).finish xd .ok 8)
    | none => .next (s.finish xd .late 8) := by
  have hd' : g.dropped.contains r = false := Bool.eq_false_iff.mpr (mt List.contains_iff_mem.mp hd)
  have he : (s.ownInsts ((s.x xh).toNat % 2 ^ 16)).isEmpty = false := by simpa using hne
  have hc' : (g.coordinator != s.pkg.toNat) = false := by simp [hc]
  unfold State.ownInsts at he
  show execCollCancel xd xh s = _
  simp only [execCollCancel, hw, hg, Option.bind_some, hr, Option.map_some, hd', he, hc', Bool.or_false, Bool.false_eq_true, if_false]
  rfl

theorem collCancel_aborts {n : Inst} (hn : oldestOpen (s.ownInsts ((s.x xh).toNat % 2 ^ 16)) = some n) :
    exec (.collCancel xd xh) s = .next ((s.collStop n .abort [r]).finish xd .ok 8) := by
  have hne : s.ownInsts ((s.x xh).toNat % 2 ^ 16) ≠ [] := List.ne_nil_of_mem (List.mem_of_find?_eq_some hn)
  rw [collCancel_here hw hg hr hd hc hne, hn]

theorem collCancel_late (hne : s.ownInsts ((s.x xh).toNat % 2 ^ 16) ≠ [])
    (hall : ∀ i ∈ s.ownInsts ((s.x xh).toNat % 2 ^ 16), i.committed = true) :
    exec (.collCancel xd xh) s = .next (s.finish xd .late 8) := by
  have hn : oldestOpen (s.ownInsts ((s.x xh).toNat % 2 ^ 16)) = none :=
    List.find?_eq_none.mpr fun i hi => by simp [hall i hi]
  rw [collCancel_here hw hg hr hd hc hne, hn]

end

/-! ### The decision on a group (R360) -/

section
variable {s : State} {f : Forming} {i : Nat}

/-- The member that arrived at a location, or a stand-in. -/
def Forming.memberAt (f : Forming) (l : Nat) : Member := (f.arrived.find? (fun m => m.locid == l)).getD ⟨l, 0, 0, 0⟩

theorem locid_memberAt (f : Forming) (l : Nat) : (f.memberAt l).locid = l := by
  unfold Forming.memberAt
  cases h : f.arrived.find? (fun m => m.locid == l) with
  | none => rfl
  | some m => exact beq_iff_eq.mp (List.find?_some (p := fun m : Member => m.locid == l) h)

/-- The group that an attempt makes. -/
def Forming.toGroup (f : Forming) (h : Nat) : Group := ⟨h, f.key, f.list.map f.memberAt, f.timeout, false, [], [], []⟩

theorem decide_undecided (hf : s.forming[i]? = some f) (hd : f.decided = none) (hl : pkgOf (f.list.headD 0) = s.pkg.toNat)
    (hdiff : f.differs = false) (hj : s.listOfJob f.job f.list = true) (hfull : s.groupsFull = false) :
    s.decide i = if f.list.all (fun l => f.arrived.any (fun m => m.locid == l)) then
        ({ (s.formGroup f s.freeHandle) with fresh := s.fresh + 1 } : State).sendDecision f Status.ok.byte s.freeHandle
      else s := by
  have hl' : s.leadsForm f = true := beq_iff_eq.mpr hl
  simp only [State.decide, hf, hd, hl', hdiff, hj, hfull, Option.isSome_none, Bool.not_true, Bool.or_self, Bool.false_eq_true,
    if_false]

theorem decide_forms (hf : s.forming[i]? = some f) (hd : f.decided = none) (hl : pkgOf (f.list.headD 0) = s.pkg.toNat)
    (hdiff : f.differs = false) (hj : s.listOfJob f.job f.list = true) (hfull : s.groupsFull = false)
    (hall : ∀ l ∈ f.list, ∃ m ∈ f.arrived, m.locid = l) :
    s.decide i = ({ (s.formGroup f s.freeHandle) with fresh := s.fresh + 1 } : State).sendDecision f Status.ok.byte s.freeHandle := by
  rw [decide_undecided hf hd hl hdiff hj hfull, if_pos]
  simpa using hall

theorem decide_waits (hf : s.forming[i]? = some f) (hd : f.decided = none) (hl : pkgOf (f.list.headD 0) = s.pkg.toNat)
    (hdiff : f.differs = false) (hj : s.listOfJob f.job f.list = true) (hfull : s.groupsFull = false)
    (hsome : ∃ l ∈ f.list, ∀ m ∈ f.arrived, m.locid ≠ l) : s.decide i = s := by
  rw [decide_undecided hf hd hl hdiff hj hfull, if_neg]
  simpa using hsome

theorem groupDecision_here (hp : s.pod = []) : exec .groupDecision s = .next (s.decide s.cur) := by
  show execGroupDecision s = _
  rw [execGroupDecision, hp]

end

/-! ### A collective (R362, R364) -/

section
variable {s s1 u : State} {r : F5} {ty : ElTy} {kind b : Nat}
  (ha : (s.x r.s1).toNat % 64 = 0) (hb : s.beginCommand r.d false = .ok s1) (hr : s1.readBlock (s.x r.s1) 8 = .ok (u, b))
include ha hb hr

theorem coll_malformed (hok : (CollBlk.of b).ok kind (ty.width / 8)
      ((u.liveGroup (CollBlk.of b).handle).map (fun g => g.members.length)) = false) :
    s.coll kind ty r = .error (u.refuseCommand r.d .range) := by
  have ha' : ((s.x r.s1).toNat % 64 != 0) = false := by rw [ha]; rfl
  simp only [State.coll, ha', hb, ok_bind, hr, hok, Bool.not_false, if_true]

theorem coll_groupless (hg : u.liveGroup (CollBlk.of b).handle = none) (hok : (CollBlk.of b).ok kind (ty.width / 8) none = true) :
    s.coll kind ty r = .error (u.refuseCommand r.d .refused) := by
  have ha' : ((s.x r.s1).toNat % 64 != 0) = false := by rw [ha]; rfl
  simp only [State.coll, ha', hb, ok_bind, hr, hg, Option.map_none, hok, Bool.not_true, Bool.false_eq_true, if_false]

variable {g : Group} (hg : u.liveGroup (CollBlk.of b).handle = some g)
  (hok : (CollBlk.of b).ok kind (ty.width / 8) (some g.members.length) = true)
include hg hok

theorem coll_outsider (h : u.rankIn g u.tid = none ∨ g.closed = true) :
    s.coll kind ty r = .error (u.refuseCommand r.d .refused) := by
  have ha' : ((s.x r.s1).toNat % 64 != 0) = false := by rw [ha]; rfl
  simp only [State.coll, ha', hb, ok_bind, hr, hg, Option.map_some, hok, Bool.not_true, Bool.false_eq_true, if_false]
  cases hk : u.rankIn g u.tid with
  | none => rfl
  | some rank => exact if_pos (h.resolve_left (by simp [hk]))

theorem coll_joins {rank : Nat} (hk : u.rankIn g u.tid = some rank) (hc : g.closed = false)
    (h4 : (u.insts.filter (fun i => i.group == (CollBlk.of b).handle && i.outstanding u.tid)).length < 4) :
    let c := CollBlk.of b
    let k := (assoc g.seqs rank).getD 0
    s.coll kind ty r = .ok (((u.setGroup { g with seqs := assocSet g.seqs rank (k + 1) }).collStart c.handle k
      { rank := rank, loc := s.cur, home := s.tid.1, ctx := s.me.ctx, tag := (s.x r.s2).truncate 32, src := c.src, dst := c.dst,
        rights := s.me.sc.pdrights, params := ⟨kind, ty.code, c.op, c.n, c.root⟩, sent := none, failed := false }).finish r.d .ok 8) := by
  intro c k
  have ha' : ((s.x r.s1).toNat % 64 != 0) = false := by rw [ha]; rfl
  simp only [State.coll, ha', hb, ok_bind, hr, hg, Option.map_some, hok, Bool.not_true, Bool.false_eq_true, if_false, hk, hc,
    if_neg (Nat.not_le.mpr h4), c, k]

end

theorem exec_collective {i : Instr} {kind : Nat} {ty : ElTy} {r : F5} (s : State)
    (h : (i = .collAllreduce ty r ∧ kind = 0) ∨ (i = .collRedscatter ty r ∧ kind = 1) ∨ (i = .collAllgather ty r ∧ kind = 2)
      ∨ (i = .collBcast ty r ∧ kind = 3) ∨ (i = .collAlltoall ty r ∧ kind = 4)) : exec i s = Go.done (s.coll kind ty r) := by
  rcases h with ⟨rfl, rfl⟩ | ⟨rfl, rfl⟩ | ⟨rfl, rfl⟩ | ⟨rfl, rfl⟩ | ⟨rfl, rfl⟩ <;> rfl

theorem refuseCommand_writes (u : State) (rd : BitVec 5) (st : Status) :
    WritesX u.unreserve (u.refuseCommand rd st) rd st.word 8 := writesX_finish ..

theorem done_error (t : State) : Go.done (.error t) = .next t := rfl

/-! ### The steps of a collective (R362, R365, R366) -/

section
variable {s : State} {i : Inst}

theorem id_of_inst {id : Nat} (h : s.inst id = some i) : i.id = id :=
  beq_iff_eq.mp (List.find?_some (p := fun x : Inst => x.id == id) h)

section
variable (hp : s.pod = []) (hi : s.inst s.cur = some i) (hr : i.result = none) (hc : s.coordinates i = true)
include hp hi hr hc

theorem collContribution_reads {c : Contrib} {u : State} {d : Option (List Byte)}
    (hf : i.contribs.find? (fun c => c.rank == s.sub && c.sent.isNone && !c.failed) = some c)
    (hd : s.contribute (s.instSize i) c = (u, d)) :
    exec .collContribution s = .next ((u.setInst { i with
      contribs := i.contribs.map (fun x => if x.rank = c.rank then { c with sent := d, failed := d.isNone } else x),
      firstAt := some (i.firstAt.getD s.cycle) }).commitNow i.group i.k) := by
  have hr' : i.result.isSome = false := by rw [hr]; rfl
  show execCollContribution s = _
  simp only [execCollContribution, hp, hi, hf, hr', hd, hc, Bool.false_eq_true, if_false, if_true, beq_iff_eq]

theorem collCommit_commits {p : CollP} {srcs : List (List Byte)} (hy : i.ready (s.instSize i) = some (p, srcs))
    (hn : i.committed = false) : exec .collCommit s = .next (s.commitNow i.group i.k) := by
  have hr' : i.result.isSome = false := by rw [hr]; rfl
  show execCollCommit s = _
  simp only [execCollCommit, hp, hi, hr', hc, hy, hn, Bool.not_true, Bool.not_false, Bool.false_eq_true, if_false, if_true]

theorem collCommit_writes {p : CollP} {srcs : List (List Byte)} (hy : i.ready (s.instSize i) = some (p, srcs))
    (hn : i.committed = true) (hw : i.written = false) : exec .collCommit s
      = .next (((s.writeResults i (fun _ r => collResult p srcs r)).sendResults i p srcs).collFinish i.id) := by
  have hr' : i.result.isSome = false := by rw [hr]; rfl
  show execCollCommit s = _
  simp only [execCollCommit, hp, hi, hr', hc, hy, hn, hw, Bool.not_true, Bool.not_false, Bool.false_eq_true, if_false, if_true]

theorem collAbort_aborts (hn : i.committed = false) (hf : s.failing i ≠ []) :
    exec .collAbort s = .next (s.collStop i .abort (s.failing i)) := by
  have hr' : i.result.isSome = false := by rw [hr]; rfl
  have hf' : (s.failing i).isEmpty = false := by simpa using hf
  show execCollAbort s = _
  simp only [execCollAbort, hp, hi, hr', hc, hn, hf', Bool.not_true, Bool.or_self, Bool.false_eq_true, if_false]

end

/-- A collective of which the condition of R365 holds commits. -/
theorem inst_commitNow (hi : s.inst s.cur = some i) {u : State} (hu : u.insts = s.insts) (hc : u.coordinates i = true)
    (hr : i.result = none) (hf : u.failing i = []) (hy : (i.ready (u.instSize i)).isSome = true) :
    (u.commitNow i.group i.k).inst s.cur = some { i with committed := true } := by
  let now (x : Inst) : Inst :=
    if x.group == i.group && x.k == i.k && u.coordinates x && x.result.isNone && (u.failing x).isEmpty
      && (x.ready (u.instSize x)).isSome then { x with committed := true } else x
  have hid (x : Inst) : (now x).id = x.id := by
    unfold now
    split <;> rfl
  have hnow : now i = { i with committed := true } := by
    unfold now
    rw [if_pos]
    simp only [beq_self_eq_true, hc, hr, hf, hy, Option.isNone_none, List.isEmpty_nil, Bool.and_self]
  show (u.insts.map now).find? (fun x => x.id == s.cur) = _
  rw [List.find?_map]
  show Option.map now (u.insts.find? (fun x => (now x).id == s.cur)) = _
  simp only [hid]
  rw [hu, show s.insts.find? (fun x => x.id == s.cur) = some i from hi, Option.map_some, hnow]

theorem coordinates_congr {u : State} (hg : u.groups = s.groups) (hp : u.pkg = s.pkg) : u.coordinates i = s.coordinates i := by
  simp only [State.coordinates, State.group, hg, hp]

theorem instSize_congr {u : State} (hg : u.groups = s.groups) : u.instSize i = s.instSize i := by
  simp only [State.instSize, State.group, hg]

theorem failing_congr {u : State} (hg : u.groups = s.groups) (hs : u.slots = s.slots) (ha : u.away = s.away) (hp : u.pkg = s.pkg) :
    u.failing i = s.failing i := by
  simp only [State.failing, State.group, State.memberEnded, State.isLocal, State.alive, State.locOf, hg, hs, ha, hp]

theorem collGroupTimeout_ends {g : Group} {t0 : Nat} (hi : s.inst s.cur = some i) (hg : s.group i.group = some g)
    (ht : i.firstAt = some t0) (hr : i.result = none) (hn : i.committed = false) (hc : s.coordinates i = true)
    (hover : t0 + g.timeout ≤ s.cycle) : exec .collGroupTimeout s
      = .next (s.collStop i .timeout ((List.range g.members.length).filter (fun r => (i.source r).isNone))) := by
  have hr' : i.result.isSome = false := by rw [hr]; rfl
  have ho : decide (s.cycle < t0 + g.timeout) = false := decide_eq_false (Nat.not_lt.mpr hover)
  have hz : s.instSize i = g.members.length := by rw [State.instSize, hg]; rfl
  show execCollGroupTimeout s = _
  simp only [execCollGroupTimeout, hi, hg, ht, hr', hn, hc, hz, Option.map_some, Option.getD_some, ho, Bool.not_true, Bool.or_self,
    Bool.false_eq_true, if_false]

end

/-! ### One collective among the others -/

/-- The collective that a predicate finds, alone with its number. -/
structure TheInst (s : State) (p : Inst → Bool) (n : Inst) : Prop where
  found : s.insts.find? p = some n
  alone : ∀ x ∈ s.insts, x.id = n.id → x = n

section
variable {s : State} {p : Inst → Bool} {n m : Inst}

theorem TheInst.inst (h : TheInst s p n) : s.inst n.id = some n := by
  have hmem : n ∈ s.insts := List.mem_of_find?_eq_some h.found
  cases hf : s.inst n.id with
  | none => exact absurd (beq_self_eq_true n.id) (List.find?_eq_none.mp hf n hmem)
  | some x => rw [h.alone x (List.mem_of_find?_eq_some hf) (id_of_inst hf)]

theorem TheInst.setInst (h : TheInst s p n) (hid : m.id = n.id) (hp : p m = true) : TheInst (s.setInst m) p m := by
  have heq (x : Inst) (hx : x ∈ s.insts) : p (if x.id == m.id then m else x) = p x := by
    split
    · next he => rw [h.alone x hx ((beq_iff_eq.mp he).trans hid), hp, List.find?_some h.found]
    · rfl
  refine ⟨?_, fun x hx hxid => ?_⟩
  · show (s.insts.map (fun x => if x.id == m.id then m else x)).find? p = some m
    have hfind : s.insts.find? (p ∘ fun x => if x.id == m.id then m else x) = some n := by
      rw [← h.found]
      exact List.find?_congr heq
    rw [List.find?_map, hfind, Option.map_some, if_pos (beq_iff_eq.mpr hid.symm)]
  · obtain ⟨y, _, rfl⟩ := List.mem_map.mp hx
    by_cases hy : (y.id == m.id) = true
    · rw [if_pos hy]
    · rw [if_neg hy] at hxid
      exact absurd (beq_iff_eq.mpr hxid) hy

end

/-! ### A package that is lost (R366) -/

section
variable {s : State} {h k r : Nat} {rest : List PodMsg}

theorem collMemberLost_alone (hp : s.pod = .lost h k r :: rest) (hi : s.insts = []) :
    exec .collMemberLost s = .next { s with pod := rest } := by
  show execCollMemberLost s = _
  simp only [execCollMemberLost, hp, hi, List.find?_nil]

theorem collMemberLost_loses {i : Inst} (hp : s.pod = .lost h k r :: rest)
    (hi : s.insts.find? (fun x => x.group == h && x.k == k && x.result.isNone) = some i) :
    exec .collMemberLost s = .next (({ s with pod := rest } : State).loseRanks i [r]) := by
  show execCollMemberLost s = _
  simp only [execCollMemberLost, hp, hi]

theorem collFinish_unwritten {i : Inst} {id : Nat} (hi : s.inst id = some i) (hw : i.written = false) (hf : i.far = []) :
    s.collFinish id = s := by
  have hset : s.settleInst i = some s := by
    simp only [State.settleInst, hf, List.any_nil, List.isEmpty_nil, if_true, Bool.false_eq_true, if_false]
  simp only [State.collFinish, hi, Option.bind_some, hset, hw, Bool.false_and, Bool.false_eq_true, if_false]

theorem loseRanks_one {i : Inst} {p : Inst → Bool} (hi : TheInst s p i)
    (hp : p { i with lost := i.lost ++ [r] } = true) (hw : i.written = false) (hf : i.far = []) (hr : r ∉ i.lost) :
    s.loseRanks i [r] = s.setInst { i with lost := i.lost ++ [r] } ∧ TheInst (s.loseRanks i [r]) p { i with lost := i.lost ++ [r] } := by
  have hl : [r].filter (fun q => !i.lost.contains q) = [r] := by simp [hr]
  have hset := hi.setInst (m := { i with lost := i.lost ++ [r] }) rfl hp
  have he : s.loseRanks i [r] = s.setInst { i with lost := i.lost ++ [r] } := by
    rw [State.loseRanks, hl]
    exact collFinish_unwritten hset.inst hw hf
  exact ⟨he, he ▸ hset⟩

end

/-! ### A result that others have reached (R366) -/

section
variable {s : State}

theorem insts_engWrite {u : State} {v : View} {ag : Agent} {a : Word} {n x : Nat} {raw : Bool}
    (h : s.engWrite v ag a n x raw = .ok u) : u.insts = s.insts := by
  unfold State.engWrite at h
  split at h
  · cases h
  · next p e _ =>
    have hu : (s.beforeWrite v.die a.toNat e).putNat ag (homePlace a p e) n x = u := Except.ok.inj h
    have ht := (touches_beforeWrite s v.die a.toNat e).trans (touches_put _ ag (homePlace a p e) (natBytes n x))
    rw [← hu]
    have hi := congrArg State.insts ht.eq
    exact hi

theorem insts_mixBytes (c : Contrib) (a : Word) (bs : List Byte) (s : State) : (s.mixBytes c a bs).insts = s.insts := by
  induction bs generalizing s a with
  | nil => rfl
  | cons b bs ih =>
    rw [State.mixBytes, ih]
    show (if bitW (Config.freeWord s.fresh) 0 then s else _ : State).insts = s.insts
    split
    · rfl
    · split
      · next t ht => exact insts_engWrite ht
      · rfl

theorem insts_mixed (l : List Contrib) (f : Contrib → List Byte) (s : State) :
    (l.foldl (fun u c => u.mixBytes c c.dst (f c)) s).insts = s.insts := by
  induction l generalizing s with
  | nil => rfl
  | cons c l ih => rw [List.foldl_cons, ih, insts_mixBytes]

/-- A collective whose members in `l` have been told of its end. -/
def Inst.toldTo (n : Inst) (l : List Nat) : Inst := { n with told := l }

/-- Telling the members of a collective's end changes what they have been told alone. -/
theorem TheInst.tellAll {p : Inst → Bool} {n : Inst} (hn : TheInst s p n) (hp : ∀ l, p (n.toldTo l) = true) :
    ∃ l, TheInst (s.tellAll n.id) p (n.toldTo l) := by
  rw [State.tellAll, show s.insts.find? (fun x => x.id == n.id) = some n from hn.inst]
  dsimp only
  cases n.result with
  | none => exact ⟨n.told, hn⟩
  | some res =>
    refine List.foldlRecOn (motive := fun u : State => ∃ l, TheInst u p (n.toldTo l)) _ _ ⟨n.told, hn⟩ fun u hu c _ => ?_
    obtain ⟨l, hl⟩ := hu
    rw [show u.insts.find? (fun x => x.id == n.id) = some (n.toldTo l) from hl.inst]
    refine ⟨l ++ [c.rank], ?_⟩
    exact TheInst.setInst (s := { u with arrivals := _ }) (n := n.toldTo l) ⟨hl.found, hl.alone⟩ rfl (hp _)

theorem lostMemberReached_ends {h k : Nat} {d : List (Nat × List Byte)} {rest : List PodMsg} {i : Inst}
    (hp : s.pod = .reached h k d :: rest) (hi : s.insts.find? (fun x => x.group == h && x.k == k) = some i) (hr : i.result = none) :
    exec .lostMemberReached s
      = .next (((i.contribs.foldl (fun u c => u.mixBytes c c.dst ((assoc d c.rank).getD []))
          ({ s with pod := rest } : State)).setInst
          { i with committed := true, result := some (Status.lost.byte, 0, 0) }).tellAll i.id) := by
  have hr' : i.result.isSome = false := by rw [hr]; rfl
  show execLostMemberReached s = _
  simp only [execLostMemberReached, hp, hi, hr', Bool.false_eq_true, if_false]

end

/-! ### A group forms (R359, R360) -/

section
variable {s u : State} {xd xb : BitVec 5}

theorem grpForm_waiting (hw : s.waiting .group = true ∨ s.waiting .reply = true) :
    exec (.grpForm xd xb) s = .next (s.awaitForm xd) := by
  have hw' : (s.waiting .group || s.waiting .reply) = true := by simpa using hw
  show execGrpForm xd xb s = _
  simp only [execGrpForm, hw', if_true]

/-- The attempts once a decision has been taken. -/
def State.formTaken (s : State) (f : Forming) (xd : BitVec 5) (d : BitVec 8 × Nat) : State :=
  { s with forming := (s.takeForm f xd d).forming }

/-- The register that `grp.form` writes with its decision. -/
theorem takeForm_writes (s : State) (f : Forming) (xd : BitVec 5) (d : BitVec 8 × Nat) :
    WritesX (s.formTaken f xd d) (s.takeForm f xd d) xd
      (if d.1 = 0 then formWord 0 (f.list.findIdx (· == ((s.arrivalAt f s.tid).map Member.locid).getD 0)) d.2
        else formWord d.1.toNat 0 0) 8 := by
  have h0 : (d.1 == Status.ok.byte) = decide (d.1 = 0) := rfl
  simp only [State.formTaken, State.takeForm, h0, decide_eq_true_eq]
  exact writesX_retire ..

theorem awaitForm_decided {f : Forming} {d : BitVec 8 × Nat} (hf : s.myForm = some f) (hd : f.decided = some d) :
    s.awaitForm xd = s.takeForm f xd d := by
  simp only [State.awaitForm, hf, hd, Option.isSome_some, if_true, Option.getD_some]

section
variable (hg : s.waiting .group = false) (hr : s.waiting .reply = false)
include hg hr

theorem grpForm_misaligned (ha : (s.x xb).toNat % 64 ≠ 0) :
    exec (.grpForm xd xb) s = .next ((s.setX xd Status.range.handle).retire 8) := by
  have ha' : ((s.x xb).toNat % 64 != 0) = true := bne_iff_ne.mpr ha
  show execGrpForm xd xb s = _
  simp only [execGrpForm, hg, hr, ha', Bool.or_self, Bool.false_eq_true, if_false, if_true]

variable {hdr : Nat} {ws : List Nat} (ha : (s.x xb).toNat % 64 = 0) (hl : s.readList (s.x xb) = .ok (u, hdr, ws))
include ha hl

theorem grpForm_malformed (hm : memberList hdr ws (s.locid s.cur).toNat = none) :
    exec (.grpForm xd xb) s = .next ((u.setX xd Status.range.handle).retire 8) := by
  have ha' : ((s.x xb).toNat % 64 != 0) = false := by rw [ha]; rfl
  show execGrpForm xd xb s = _
  simp only [execGrpForm, hg, hr, ha', Bool.or_self, Bool.false_eq_true, if_false, hl, ok_bind, hm, done_ok]

theorem grpForm_arrives {list : List Nat} {n : Nat} (hm : memberList hdr ws (s.locid s.cur).toNat = some (list, n))
    (hc : pkgOf (list.headD 0) = s.pkg.toNat) :
    let key := BitVec.ofNat 32 (hdr / 2 ^ 32)
    exec (.grpForm xd xb) s = .next (((({ u with nextInst := u.nextInst + 1 } : State).arriveForm key list n (u.asMember u.nextInst)
      (some (u.me.job.getD 0)) u.groupsFull).decideKey key).awaitForm xd) := by
  have ha' : ((s.x xb).toNat % 64 != 0) = false := by rw [ha]; rfl
  have hc' : (pkgOf (list.headD 0) == s.pkg.toNat) = true := beq_iff_eq.mpr hc
  show execGrpForm xd xb s = _
  simp only [execGrpForm, hg, hr, ha', Bool.or_self, Bool.false_eq_true, if_false, hl, ok_bind, hm, hc', if_true, done_ok]

end

end

/-- The first attempt at a key, with the thread its first arrival. -/
def State.newForm (s : State) (key : BitVec 32) (list : List Nat) (n : Nat) : Forming :=
  ⟨key, list, n, false, some (s.me.job.getD 0), [s.asMember s.nextInst], none, [], false⟩

/-- A state in which that attempt stands behind the others. -/
def State.withForm (s : State) (key : BitVec 32) (list : List Nat) (n : Nat) : State :=
  { s with nextInst := s.nextInst + 1, forming := s.forming ++ [s.newForm key list n] }

section
variable {u : State} {key : BitVec 32} {list : List Nat} {n : Nat}

theorem arriveForm_first (hd : ∀ f ∈ u.forming, f.key = key → f.decided ≠ none) (hfull : u.groupsFull = false) :
    ({ u with nextInst := u.nextInst + 1 } : State).arriveForm key list n (u.asMember u.nextInst) (some (u.me.job.getD 0)) u.groupsFull
      = u.withForm key list n := by
  have hnone : u.forming.any (fun f => f.key == key && f.decided.isNone) = false := by
    refine List.any_eq_false.mpr fun f hf => ?_
    simp only [Bool.and_eq_true, beq_iff_eq, Option.isNone_iff_eq_none, not_and]
    exact hd f hf
  simp only [State.arriveForm, hnone, hfull, Bool.false_eq_true, if_false]
  rfl

theorem findIdx_newForm (hd : ∀ f ∈ u.forming, f.key = key → f.decided ≠ none) (hl : pkgOf (list.headD 0) = u.pkg.toNat) :
    (u.withForm key list n).forming.findIdx (fun f => f.key == key && f.decided.isNone && (u.withForm key list n).leadsForm f)
      = u.forming.length := by
  have hold : u.forming.findIdx (fun f => f.key == key && f.decided.isNone && (u.withForm key list n).leadsForm f)
      = u.forming.length := by
    refine List.findIdx_eq_length_of_false fun f hf => ?_
    have hno : (f.key == key && f.decided.isNone) = false := by
      by_cases hk : f.key = key
      · cases hdec : f.decided with
        | none => exact absurd hdec (hd f hf hk)
        | some d => simp
      · simp [hk]
    rw [hno, Bool.false_and]
  have hlead : (u.withForm key list n).leadsForm (u.newForm key list n) = true := beq_iff_eq.mpr hl
  show (u.forming ++ [u.newForm key list n]).findIdx _ = _
  have hnew : ((u.newForm key list n).key == key && (u.newForm key list n).decided.isNone
      && (u.withForm key list n).leadsForm (u.newForm key list n)) = true := by
    rw [hlead]
    simp [State.newForm]
  rw [List.findIdx_append, hold, if_neg (Nat.lt_irrefl _), List.findIdx_cons, hnew, cond_true, Nat.zero_add]

theorem getElem_newForm : (u.withForm key list n).forming[u.forming.length]? = some (u.newForm key list n) := by
  show (u.forming ++ [u.newForm key list n])[u.forming.length]? = _
  rw [List.getElem?_append_right (Nat.le_refl _), Nat.sub_self]
  rfl

theorem pkgOf_locid (s : State) (h : s.cur < 4096) : pkgOf (s.locid s.cur).toNat = s.pkg.toNat := by
  have hp := s.pkg.isLt
  rw [State.locid, BitVec.toNat_ofNat, pkgOf]
  omega

theorem arrivalAt_own (hc : u.cur < 4096) {f : Forming} (hf : f.arrived = [u.asMember u.nextInst]) (ht : f.taken = []) :
    u.arrivalAt f u.tid = some (u.asMember u.nextInst) := by
  have hlocal : u.isLocal (u.asMember u.nextInst) = true := beq_iff_eq.mpr (pkgOf_locid u hc)
  have htid : ((u.asMember u.nextInst).tid == u.tid) = true := beq_self_eq_true u.tid
  simp only [State.arrivalAt, hf, ht, List.contains_nil, Bool.false_eq_true, if_false, List.find?_cons, hlocal, htid, Bool.and_self]

/-- The attempt decided, with its handle. -/
def Forming.formed (f : Forming) (h : Nat) : Forming := { f with decided := some (Status.ok.byte, h) }

/-- The state in which an attempt that everyone has joined is decided. -/
def State.grouped (s : State) (f : Forming) : State :=
  ({ (s.formGroup f s.freeHandle) with fresh := s.fresh + 1 } : State).sendDecision f Status.ok.byte s.freeHandle

theorem myForm_grouped {s : State} {f : Forming} (h : s.myForm = some f) : (s.grouped f).myForm = some (f.formed s.freeHandle) := by
  let upd (x : Forming) : Forming := if x == f then x.formed s.freeHandle else x
  have hsame (x : Forming) : (s.grouped f).arrivalAt (upd x) s.tid = s.arrivalAt x s.tid := by
    unfold upd
    split <;> rfl
  show (s.forming.map upd).find? (fun x => ((s.grouped f).arrivalAt x s.tid).isSome) = _
  rw [List.find?_map]
  show Option.map upd (s.forming.find? (fun x => ((s.grouped f).arrivalAt (upd x) s.tid).isSome)) = _
  simp only [hsame]
  rw [show s.forming.find? (fun x => (s.arrivalAt x s.tid).isSome) = some f from h, Option.map_some]
  simp only [upd, beq_self_eq_true, if_true]

theorem myForm_withForm (hn : ∀ f ∈ u.forming, u.arrivalAt f u.tid = none) (hc : u.cur < 4096) :
    (u.withForm key list n).myForm = some (u.newForm key list n) := by
  have hold : u.forming.find? (fun f => (u.arrivalAt f u.tid).isSome) = none :=
    List.find?_eq_none.mpr fun f hf => by rw [hn f hf]; exact Bool.false_ne_true
  have hnew : u.arrivalAt (u.newForm key list n) u.tid = some (u.asMember u.nextInst) := arrivalAt_own hc rfl rfl
  show (u.forming ++ [u.newForm key list n]).find? (fun f => (u.arrivalAt f u.tid).isSome) = _
  rw [List.find?_append, hold, Option.none_or, List.find?_cons, hnew]
  rfl

theorem awaitForm_begins {s : State} {xd : BitVec 5} {f : Forming} (hf : s.myForm = some f) (hd : f.decided = none)
    (hw : s.me.wait = none) (hl : 0 < s.waitlim) :
    s.awaitForm xd = s.waitFor .group s.waitlim { xs := [(xd, Status.timeout.handle)], len := 8 } := by
  have hr : s.waiting .reply = false := by simp only [State.waiting, hw]
  have hlt : s.cycle < s.deadlineFor s.cur .group s.waitlim := by
    rw [deadlineFor_of_no_wait _ _ hw]
    omega
  simp only [State.awaitForm, hf, hd, Option.isSome_none, hr, Bool.false_eq_true, if_false, if_pos hlt]

section
variable {s : State} {xd xb : BitVec 5} {hdr : Nat} {ws : List Nat}
  (hg : s.waiting .group = false) (hr : s.waiting .reply = false) (ha : (s.x xb).toNat % 64 = 0)
  (hl : s.readList (s.x xb) = .ok (u, hdr, ws)) (hm : memberList hdr ws (s.locid s.cur).toNat = some (list, n))
  (hc : pkgOf (list.headD 0) = s.pkg.toNat) (hcur : s.cur < 4096) (hn : ∀ f ∈ u.forming, u.arrivalAt f u.tid = none)
  (hd : ∀ f ∈ u.forming, f.key = BitVec.ofNat 32 (hdr / 2 ^ 32) → f.decided ≠ none) (hfull : u.groupsFull = false)
  (hj : u.listOfJob (some (u.me.job.getD 0)) list = true) (hucur : u.cur = s.cur) (hpkg : u.pkg = s.pkg)
include hg hr ha hl hm hc hd hfull hpkg

theorem grpForm_first : exec (.grpForm xd xb) s = .next (((u.withForm (BitVec.ofNat 32 (hdr / 2 ^ 32)) list n).decide
    u.forming.length).awaitForm xd) := by
  have hp : pkgOf (list.headD 0) = u.pkg.toNat := by rw [hpkg]; exact hc
  rw [grpForm_arrives hg hr ha hl hm hc, arriveForm_first hd hfull, State.decideKey, findIdx_newForm hd hp]

include hcur hn hj hucur

theorem grpForm_begins (hw : u.me.wait = none) (hlim : 0 < u.waitlim) (hother : ∃ l ∈ list, l ≠ (s.locid s.cur).toNat) :
    exec (.grpForm xd xb) s = .next ((u.withForm (BitVec.ofNat 32 (hdr / 2 ^ 32)) list n).modMe (fun t => { t with
      wait := some ⟨.group, some (u.cycle + u.waitlim), 0, { xs := [(xd, Status.timeout.handle)], len := 8 }, none, none⟩,
      st := if t.st = .ready then .wait else t.st })) := by
  have hlocid : u.locid u.cur = s.locid s.cur := by simp only [State.locid, hpkg, hucur]
  have hwaits : (u.withForm (BitVec.ofNat 32 (hdr / 2 ^ 32)) list n).decide u.forming.length
      = u.withForm (BitVec.ofNat 32 (hdr / 2 ^ 32)) list n := by
    refine decide_waits getElem_newForm rfl (by rw [← hpkg] at hc; exact hc) rfl hj hfull ?_
    obtain ⟨l, hmem, hne⟩ := hother
    refine ⟨l, hmem, fun m hm' => ?_⟩
    rw [List.mem_singleton.mp hm']
    exact fun e => hne (e.symm.trans (congrArg BitVec.toNat hlocid))
  rw [grpForm_first hg hr ha hl hm hc hd hfull hpkg, hwaits, awaitForm_begins (myForm_withForm hn (hucur ▸ hcur)) rfl hw hlim]
  exact congrArg _ (waitFor_begins (s := u.withForm _ _ _) .group _ hw (Nat.ne_of_gt hlim))

theorem grpForm_alone (hlist : list = [(s.locid s.cur).toNat]) :
    let w := u.withForm (BitVec.ofNat 32 (hdr / 2 ^ 32)) list n
    let f := u.newForm (BitVec.ofNat 32 (hdr / 2 ^ 32)) list n
    exec (.grpForm xd xb) s = .next ((w.grouped f).takeForm (f.formed w.freeHandle) xd (Status.ok.byte, w.freeHandle)) := by
  intro w f
  have hlocid : u.locid u.cur = s.locid s.cur := by simp only [State.locid, hpkg, hucur]
  have hforms : w.decide u.forming.length = w.grouped f := by
    refine decide_forms getElem_newForm rfl (by rw [← hpkg] at hc; exact hc) rfl hj hfull fun l hmem => ?_
    have hl : l ∈ [(s.locid s.cur).toNat] := hlist ▸ (hmem : l ∈ list)
    exact ⟨_, List.mem_singleton.mpr rfl, (congrArg BitVec.toNat hlocid).trans (List.mem_singleton.mp hl).symm⟩
  rw [grpForm_first hg hr ha hl hm hc hd hfull hpkg]
  rw [hforms, awaitForm_decided (myForm_grouped (myForm_withForm hn (hucur ▸ hcur))) rfl]

end

theorem members_newForm (hl : list = [(u.locid u.cur).toNat]) (h : Nat) :
    ((u.newForm key list n).toGroup h).members = [u.asMember u.nextInst] := by
  subst hl
  simp only [Forming.toGroup, State.newForm, Forming.memberAt, State.asMember, List.map_cons, List.map_nil, List.find?_cons,
    beq_self_eq_true, Option.getD_some]

theorem rank_newForm (hl : list = [(u.locid u.cur).toNat]) :
    (u.newForm key list n).list.findIdx (· == ((some (u.asMember u.nextInst)).map Member.locid).getD 0) = 0 := by
  subst hl
  simp only [State.newForm, State.asMember, Option.map_some, Option.getD_some, List.findIdx_cons, beq_self_eq_true, cond_true]

theorem toGroup_mem_groups (w : State) (f g : Forming) (xd : BitVec 5) (d : BitVec 8 × Nat) :
    f.toGroup w.freeHandle ∈ ((w.grouped f).formTaken g xd d).groups :=
  List.mem_append_right _ (List.mem_singleton.mpr rfl)

theorem mem_formTaken (w : State) (f g : Forming) (xd : BitVec 5) (d : BitVec 8 × Nat) :
    ((w.grouped f).formTaken g xd d).mem = w.mem := rfl

theorem slots_formTaken (w : State) (f g : Forming) (xd : BitVec 5) (d : BitVec 8 × Nat) :
    ((w.grouped f).formTaken g xd d).slots = w.slots := rfl

theorem arrivalAt_grouped (w : State) (f g : Forming) : (w.grouped f).arrivalAt g (w.grouped f).tid = w.arrivalAt g w.tid := rfl

theorem arrivalAt_withForm (g : Forming) :
    (u.withForm key list n).arrivalAt g (u.withForm key list n).tid = u.arrivalAt g u.tid := rfl

theorem takeForm_alone (hc : u.cur < 4096) (hl : list = [(u.locid u.cur).toNat]) (xd : BitVec 5) :
    let w := u.withForm key list n
    let f := u.newForm key list n
    let d := (Status.ok.byte, w.freeHandle)
    WritesX ((w.grouped f).formTaken (f.formed w.freeHandle) xd d) ((w.grouped f).takeForm (f.formed w.freeHandle) xd d) xd
      (formWord 0 0 w.freeHandle) 8 := by
  intro w f d
  have hw := takeForm_writes (w.grouped f) (f.formed w.freeHandle) xd (Status.ok.byte, w.freeHandle)
  have hown : (w.grouped f).arrivalAt (f.formed w.freeHandle) (w.grouped f).tid = some (u.asMember u.nextInst) :=
    (arrivalAt_grouped ..).trans ((arrivalAt_withForm _).trans (arrivalAt_own (f := f.formed w.freeHandle) hc rfl rfl))
  have hrank : (f.formed w.freeHandle).list.findIdx (· == ((some (u.asMember u.nextInst)).map Member.locid).getD 0) = 0 :=
    rank_newForm (key := key) (n := n) hl
  rw [hown, hrank] at hw
  exact hw

end

/-- Settles O35: a group forms with its last arrival, a collective joins the k-th of its rank or is refused, and that has one
entry, which each step of it rewrites. -/
theorem groupsAndCollectives : Obligations.GroupsAndCollectives := by
  unfold Obligations.GroupsAndCollectives
  refine ⟨fun xd xb s hg hr ha => ⟨_, grpForm_misaligned hg hr ha, writesX_retire ..⟩, ?_, ?_, ?_, ?_, ?_, ?_, ?_,
    fun s u i c d hp hi hr _ hf hc => collContribution_reads hp hi hr hc hf, ?_,
    fun s i hp hi hr hn hc hf => collAbort_aborts hp hi hr hc hn hf,
    fun s i g t0 => collGroupTimeout_ends, fun s h k r rest => collMemberLost_alone, ?_, ?_⟩
  case refine_1 =>
    intro xd xb s u hdr ws hg hr ha hl
    refine ⟨fun hm => ⟨_, grpForm_malformed hg hr ha hl hm, writesX_retire ..⟩, ?_⟩
    intro list n hm hc hcur hn hw hlim hd hfull hj hucur hpkg
    refine ⟨fun hother => ⟨_, grpForm_begins hg hr ha hl hm hc hcur hn hd hfull hj hucur hpkg hw hlim hother, rfl, rfl, ?_, ?_⟩,
      fun hlist => ?_⟩
    · exact fun l hne => slot_modMe_ne _ _ hne
    · exact me_modMe _ _
    · have hlist' : list = [(u.locid u.cur).toNat] := by
        rw [hlist]
        simp only [State.locid, hpkg, hucur]
      let w := u.withForm (BitVec.ofNat 32 (hdr / 2 ^ 32)) list n
      let f := u.newForm (BitVec.ofNat 32 (hdr / 2 ^ 32)) list n
      refine ⟨(w.grouped f).formTaken (f.formed w.freeHandle) xd (Status.ok.byte, w.freeHandle), _, f.toGroup w.freeHandle,
        grpForm_alone hg hr ha hl hm hc hcur hn hd hfull hj hucur hpkg hlist, ?_, toGroup_mem_groups .., rfl, rfl,
        members_newForm hlist' _, rfl, mem_formTaken .., slots_formTaken ..⟩
      exact takeForm_alone (hucur ▸ hcur) hlist' xd
  case refine_2 =>
    intro xd xb s f d hw hf hd
    exact ⟨_, by rw [grpForm_waiting hw, awaitForm_decided hf hd], takeForm_writes s f xd d⟩
  case refine_3 =>
    intro xd xh s g r hg hr hd
    have hgroup := group_of_liveGroup hg
    have hh : (s.tellOthers g (.drop g.handle r false)).group g.handle = some g := by rw [handle_of_group hgroup]; exact hgroup
    refine ⟨_, _, grpDrop_drops hg hr hd, writesX_retire .., ?_, g.without r, ?_, rfl, mem_dropped_without g r, rfl⟩
    · rw [dropRank_of_group hh]
      rfl
    · rw [dropRank_of_group hh]
      exact group_setGroup hh rfl
  case refine_4 =>
    exact fun xd xh s h => ⟨⟨_, grpDrop_range h, writesX_retire ..⟩, fun hw => ⟨_, collCancel_range h hw, writesX_retire ..⟩⟩
  case refine_5 =>
    intro s f hp hf hd hl hdiff hj hfull hall
    refine ⟨_, f.toGroup s.freeHandle, by rw [groupDecision_here hp, decide_forms hf hd hl hdiff hj hfull hall], rfl, rfl, rfl, ?_, rfl, ?_⟩
    · show (f.list.map f.memberAt).map Member.locid = f.list
      rw [List.map_map]
      exact (List.map_congr_left fun l _ => locid_memberAt f l).trans (List.map_id _)
    · show (s.forming.map (fun x => if x == f then x.formed s.freeHandle else x))[s.cur]? = _
      rw [List.getElem?_map, hf, Option.map_some, if_pos (beq_self_eq_true f)]
      rfl
  case refine_6 =>
    intro kind i ty r s s1 u b hi ha hb hr c
    have hx := exec_collective s hi
    refine ⟨fun g hg hok => ⟨fun rank hk hc h4 => ⟨_, by rw [hx, coll_joins ha hb hr hg hok hk hc h4, done_ok], writesX_finish ..⟩,
        fun h => ⟨_, by rw [hx, coll_outsider ha hb hr hg hok h, done_error], refuseCommand_writes ..⟩⟩,
      fun hg hok => ⟨_, by rw [hx, coll_groupless ha hb hr hg hok, done_error], refuseCommand_writes ..⟩,
      fun hok => ⟨_, by rw [hx, coll_malformed ha hb hr hok, done_error], refuseCommand_writes ..⟩⟩
  case refine_7 =>
    intro xd xh s g r h mine hw hg hr hd hc
    exact ⟨fun n hn => ⟨_, collCancel_aborts hw hg hr hd hc hn, writesX_retire ..⟩,
      fun hne hall => ⟨_, collCancel_late hw hg hr hd hc hne hall, writesX_retire ..⟩⟩
  case refine_8 =>
    intro s i p srcs hp hi hr hc hy
    refine ⟨fun hn hf => ⟨_, collCommit_commits hp hi hr hc hy hn, rfl, ?_, ?_⟩, fun hn hw => collCommit_writes hp hi hr hc hy hn hw⟩
    · exact inst_commitNow hi rfl hc hr hf (by rw [hy]; rfl)
    · intro u hu hg hs ha hk
      exact inst_commitNow hi hu (by rw [coordinates_congr hg hk, hc]) hr (by rw [failing_congr hg hs ha hk, hf])
        (by rw [instSize_congr hg, hy]; rfl)
  case refine_9 =>
    intro s h k r rest i hp hi halone hw hf hr
    have hthe : TheInst ({ s with pod := rest } : State) _ i := ⟨hi, halone⟩
    have hp' := List.find?_some hi
    obtain ⟨he, hn⟩ := loseRanks_one (r := r) hthe hp' hw hf hr
    exact ⟨_, _, collMemberLost_loses hp hi, by rw [he]; rfl, hn.found, rfl⟩
  case refine_10 =>
    intro s h k d rest i hp hi halone hr
    have hins := insts_mixed i.contribs (fun c => (assoc d c.rank).getD []) { s with pod := rest }
    have hthe : TheInst (i.contribs.foldl (fun u c => u.mixBytes c c.dst ((assoc d c.rank).getD [])) ({ s with pod := rest } : State)) _ i :=
      ⟨by rw [hins]; exact hi, by rw [hins]; exact halone⟩
    have hp' := List.find?_some hi
    obtain ⟨l, hl⟩ := TheInst.tellAll (hthe.setInst (m := { i with committed := true, result := some (Status.lost.byte, 0, 0) }) rfl hp')
      fun _ => hp'
    exact ⟨_, _, lostMemberReached_ends hp hi hr, hl.found, rfl, rfl⟩

end Sys2Proof.Machine
end

section
/-! PROOFS. Memory stays canonical (O60, O59): the shapes of an answer, and what every instruction shares. -/

namespace Sys2Proof.Machine

/-! ### Answers -/

/-- What a meaning in progress comes to: `P` holds of what it goes on with, `Q` of what it ends in. -/
def Ends {ε α : Type} (P : α → Prop) (Q : ε → Prop) : Except ε α → Prop
  | .ok a => P a
  | .error e => Q e

@[simp] theorem ends_ok {ε α : Type} (P : α → Prop) (Q : ε → Prop) (a : α) : Ends P Q (.ok a) = P a := rfl
@[simp] theorem ends_error {ε α : Type} (P : α → Prop) (Q : ε → Prop) (e : ε) : Ends P Q (.error e) = Q e := rfl

/-- What an instruction answers: a next state, with memory canonical where it was. -/
def Keeps (s : State) : Res → Prop
  | .next t => MemoryInv s → MemoryInv t
  | _ => False

@[simp] theorem keeps_next (s t : State) : Keeps s (.next t) = (MemoryInv s → MemoryInv t) := rfl

theorem memoryInv_of_mem {s t : State} (h : MemoryInv s) (e : t.mem = s.mem) : MemoryInv t := by
  unfold MemoryInv; rw [e]; exact h

theorem memoryInv_foldl {α : Type} {f : State → α → State} (hf : ∀ s a, MemoryInv s → MemoryInv (f s a)) (l : List α) {s : State}
    (h : MemoryInv s) : MemoryInv (l.foldl f s) := by
  induction l generalizing s with
  | nil => exact h
  | cons a l ih => exact ih (hf s a h)

theorem mem_foldl {α : Type} {f : State → α → State} (hf : ∀ s a, (f s a).mem = s.mem) (l : List α) (s : State) :
    (l.foldl f s).mem = s.mem := by
  induction l generalizing s with
  | nil => rfl
  | cons a l ih => exact (ih (f s a)).trans (hf s a)

theorem ends_of_error {α : Type} {P : α → Prop} {r : Except State α} (h : Ends P MemoryInv r) {t : State} (e : r = .error t) :
    MemoryInv t := by subst e; exact h

theorem ends_bind {ε α β : Type} {P : α → Prop} {R : β → Prop} {Q : ε → Prop} {r : Except ε α} {f : α → Except ε β}
    (h : Ends P Q r) (hf : ∀ a, P a → Ends R Q (f a)) : Ends R Q (r >>= f) := by
  cases r with
  | ok a => exact hf a h
  | error e => exact h

theorem ends_map {ε α β : Type} {P : α → Prop} {R : β → Prop} {Q : ε → Prop} {r : Except ε α} {f : α → β}
    (h : Ends P Q r) (hf : ∀ a, P a → R (f a)) : Ends R Q (r.map f) := by
  cases r with
  | ok a => exact hf a h
  | error e => exact h

theorem memoryInv_state {g : Go} (h : Ends MemoryInv MemoryInv g) : MemoryInv g.state := by
  cases g <;> exact h

theorem keeps_done_iff (s : State) (g : Go) : Keeps s (Go.done g) = (MemoryInv s → MemoryInv g.state) := rfl

theorem keeps_done {s : State} {g : Go} (h : MemoryInv s → Ends MemoryInv MemoryInv g) : Keeps s (Go.done g) :=
  fun hs => memoryInv_state (h hs)

/-- An answer read against a state from which memory came canonical. -/
theorem keeps_of_imp {s t : State} {r : Res} (h : MemoryInv s → MemoryInv t) (hr : Keeps t r) : Keeps s r := by
  cases r with
  | next u => exact fun hs => hr (h hs)
  | fault f => exact hr
  | refused f => exact hr

theorem ends_ok_of_eq {ε α : Type} {P : α → Prop} {Q : ε → Prop} {r : Except ε α} (h : Ends P Q r) {a : α} (e : r = .ok a) :
    P a := by
  subst e
  exact h

theorem ends_foldlM {α : Type} {f : State → α → Go} (hf : ∀ s a, MemoryInv s → Ends MemoryInv MemoryInv (f s a)) (l : List α)
    {s : State} (h : MemoryInv s) : Ends MemoryInv MemoryInv (l.foldlM f s) := by
  induction l generalizing s with
  | nil => exact h
  | cons a l ih => exact ends_bind (hf s a h) fun t ht => ih ht

theorem memoryInv_findSome? {α : Type} {t : State} {f : α → Option State} {l : List α} (hf : ∀ a u, f a = some u → MemoryInv u)
    (h : l.findSome? f = some t) : MemoryInv t := by
  obtain ⟨a, -, ha⟩ := List.exists_of_findSome?_eq_some h
  exact hf a t ha

/-! ### Threads and registers -/

@[simp] theorem mem_finish (s : State) (rd : BitVec 5) (st : Status) (len : Nat) : (s.finish rd st len).mem = s.mem := rfl

/-! ### Places and writes (R245 to R252) -/

@[simp] theorem mem_plbFill (s : State) (core : Nat) (e : Plb) : (s.plbFill core e).mem = s.mem := by
  unfold State.plbFill
  grind [setCore_mem]

@[simp] theorem mem_plbEntry (s : State) (loc va : Nat) : (s.plbEntry loc va).1.mem = s.mem := by
  unfold State.plbEntry
  grind [mem_plbFill]

@[simp] theorem mem_reach (s : State) (loc : Nat) (k : AK) (va : Word) (n : Nat) (raw : Bool) :
    (s.reach loc k va n raw).1.mem = s.mem := by
  unfold State.reach
  grind [mem_plbEntry]

@[simp] theorem mem_breakResv (s : State) (thread : Option Nat) (p : Place) (n : Nat) : (s.breakResv thread p n).mem = s.mem := by
  unfold State.breakResv
  grind

@[simp] theorem mem_ringAdd (s : State) (core off n : Nat) (ag : Agent) : (s.ringAdd core off n ag).mem = s.mem := by
  unfold State.ringAdd
  grind [modCore_mem]

@[simp] theorem mem_setSub (s : State) (core e : Nat) (b : Sub) : (s.setSub core e b).mem = s.mem := rfl
@[simp] theorem mem_putSub (s : State) (core e : Nat) (old new : Sub) : (s.putSub core e old new).mem = s.mem := rfl

@[simp] theorem mem_expirePackets (s : State) : s.expirePackets.mem = s.mem := by
  unfold State.expirePackets
  grind [mem_putSub, mem_foldl]

@[simp] theorem mem_capture (s : State) (core off : Nat) (bs : List Byte) (writer : Nat) :
    (s.capture core off bs writer).mem = s.mem := by
  unfold State.capture
  refine mem_foldl (fun t p => ?_) _ s
  split
  · rfl
  · split <;> simp

theorem memoryInv_put {s : State} (h : MemoryInv s) (ag : Agent) (p : Place) (bs : List Byte) : MemoryInv (s.put ag p bs) := by
  cases p with
  | dram pa => exact wf_setBytes _ _ _ h
  | spad c off =>
    refine memoryInv_of_mem (s := { s with mem := s.mem.setBytes (s.spadKey c off) bs }) (wf_setBytes _ _ _ h) ?_
    simp only [State.put, mem_ringAdd, mem_capture, mem_breakResv]
  | far va => exact h

theorem memoryInv_putNat {s : State} (h : MemoryInv s) (ag : Agent) (p : Place) (n v : Nat) : MemoryInv (s.putNat ag p n v) := by
  unfold State.putNat
  grind [memoryInv_put]

theorem memoryInv_applyPacket {s : State} (h : MemoryInv s) (core : Nat) (b : Sub) (p : Packet) :
    MemoryInv (s.applyPacket core b p) := by
  unfold State.applyPacket
  refine memoryInv_of_mem (memoryInv_foldl ?_ _ h) (mem_ringAdd ..)
  exact fun t i ht => wf_setByte _ _ _ ht

@[simp] theorem mem_forgetReplies (s : State) (gone : Nat → Plb → Bool) : (s.forgetReplies gone).mem = s.mem := by
  unfold State.forgetReplies
  grind

theorem memoryInv_collapse {s : State} (h : MemoryInv s) (die va : Nat) : MemoryInv (s.collapse die va) := by
  unfold State.collapse
  split
  · exact h
  · split
    · exact h
    · refine memoryInv_foldl (s := s) ?_ _ h
      exact fun t i ht => wf_write _ _ _ _ ht

theorem memoryInv_beforeWrite {s : State} (h : MemoryInv s) (die va : Nat) (e : Option Plb) : MemoryInv
    (s.beforeWrite die va e) := by
  unfold State.beforeWrite
  grind [memoryInv_collapse]

/-! ### Waits, inboxes, posted and held stores (R248, R260) -/

@[simp] theorem mem_freeReserved (s : State) (loc : Nat) : (s.freeReserved loc).mem = s.mem := by
  unfold State.freeReserved
  split <;> rfl

@[simp] theorem mem_dropWait (s : State) (loc : Nat) : (s.dropWait loc).mem = s.mem := by
  unfold State.dropWait
  grind [modSlot_mem, mem_freeReserved]

@[simp] theorem mem_dropAsks (s : State) (who : Nat) : (s.dropAsks who).mem = s.mem := rfl

@[simp] theorem mem_trap (s : State) (loc : Nat) (i : TrapInfo) : (s.trap loc i).mem = s.mem := by
  unfold State.trap
  grind [modSlot_mem, mem_dropWait, mem_dropAsks, mem_foldl]

theorem ends_raise {α : Type} {P : α → Prop} {s : State} (h : MemoryInv s) (cause : Nat) (tval : Word) :
    Ends P MemoryInv (s.raise cause tval : Except State α) := by
  simp only [State.raise, ends_error, MemoryInv, mem_trap]
  exact h

@[simp] theorem mem_raiseDeferred (s : State) (loc : Nat) : (s.raiseDeferred loc).mem = s.mem := by
  unfold State.raiseDeferred
  grind [mem_trap]

@[simp] theorem mem_dropRegionWait (s : State) (loc : Nat) : (s.dropRegionWait loc).mem = s.mem := by
  unfold State.dropRegionWait
  grind

@[simp] theorem mem_expire (s0 : State) (loc : Nat) (e : Expiry) : (s0.expire loc e).mem = s0.mem := by
  unfold State.expire
  grind [modSlot_mem, mem_freeReserved, mem_trap, mem_dropRegionWait]

@[simp] theorem mem_waitFor (s : State) (k : WaitKind) (limit : Nat) (e0 : Expiry) (blk : Option Nat) :
    (s.waitFor k limit e0 blk).mem = s.mem := by
  unfold State.waitFor
  grind [modMe_mem, mem_expire]

@[simp] theorem mem_waitOpen (s : State) (k : WaitKind) : (s.waitOpen k).mem = s.mem := by
  unfold State.waitOpen
  grind [modMe_mem]

theorem ends_reserve {s : State} (h : MemoryInv s) (e : Expiry) (blk : Option Nat) : Ends MemoryInv MemoryInv
    (s.reserve e blk) := by
  unfold State.reserve
  grind [MemoryInv, modMe_mem, mem_waitFor, ends_ok, ends_error]

@[simp] theorem mem_unreserve (s : State) : s.unreserve.mem = s.mem := rfl

theorem ends_reserved {α : Type} {P : α → Prop} {s : State} {r : Except State α} (hr : Ends P MemoryInv r) :
    Ends P MemoryInv (s.reserved r) := by
  unfold State.reserved
  grind [MemoryInv, ends_error, modMe_mem, mem_unreserve]

@[simp] theorem mem_post (s : State) (home : Nat) (ctx : BitVec 16) (kind : Nat) (st : Status) (tag : Half) (value : Word) :
    (s.post home ctx kind st tag value).mem = s.mem := rfl

theorem memoryInv_writeAt {s : State} (h : MemoryInv s) (loc : Nat) (va : Word) (p : Place × Option Plb) (n v kind : Nat) :
    MemoryInv (s.writeAt loc va p n v kind) := by
  unfold State.writeAt
  grind [memoryInv_putNat, memoryInv_beforeWrite]

@[simp] theorem mem_hold (s : State) (loc : Nat) (va : Word) (n : Nat) (v : Word) (cause seq : Nat) :
    (s.hold loc va n v cause seq).mem = s.mem := rfl

@[simp] theorem mem_postFarAt (s : State) (loc : Nat) (va : Word) (n : Nat) (v : Word) (rel : Bool) (seq : Nat) :
    (s.postFarAt loc va n v rel seq).mem = s.mem := rfl

@[simp] theorem mem_reachUnder (s : State) (loc : Nat) (va : Word) (n : Nat) (rights : Word) :
    (s.reachUnder loc va n rights).1.mem = s.mem := by
  unfold State.reachUnder
  grind [mem_reach]

theorem memoryInv_serveStore {s : State} (h : MemoryInv s) (loc : Nat) (va : Word) (n : Nat) (v : Word) (seq : Nat)
    (rights : Word) :
    MemoryInv (s.serveStore loc va n v seq rights) := by
  unfold State.serveStore
  grind [MemoryInv, memoryInv_writeAt, mem_hold, mem_postFarAt, mem_reachUnder]

theorem memoryInv_servePosted {s : State} (h : MemoryInv s) (loc : Nat) (p : Posted) : MemoryInv (s.servePosted loc p) := by
  unfold State.servePosted
  grind [MemoryInv, mem_hold, memoryInv_serveStore]

theorem memoryInv_drain {s : State} (h : MemoryInv s) (loc : Nat) : MemoryInv (s.drain loc) := by
  unfold State.drain
  grind [MemoryInv, modSlot_mem, memoryInv_servePosted, memoryInv_foldl]

theorem memoryInv_drainOver {s : State} (h : MemoryInv s) (loc va n : Nat) : MemoryInv (s.drainOver loc va n) := by
  unfold State.drainOver
  grind [memoryInv_drain]

@[simp] theorem mem_dropReply (s : State) (id : Nat) : (s.dropReply id).mem = s.mem := rfl
@[simp] theorem mem_dropWrites (s : State) (ids : List Nat) : (s.dropWrites ids).mem = s.mem := rfl

theorem ends_askFar {s : State} (h : MemoryInv s) (k : AK) (v : View) (va : Word) (n : Nat) (op : Option FarOp) :
    Ends (fun p => MemoryInv p.1) (fun _ => True) (s.askFar k v va n op) := by
  unfold State.askFar
  grind [MemoryInv, ends_ok, ends_error]

@[simp] theorem mem_sendAsk (s : State) (a : FarAsk) : (s.sendAsk a).mem = s.mem := by
  unfold State.sendAsk
  split <;> rfl

theorem memoryInv_farStep {s t : State} (h : MemoryInv s) (ht : MemoryInv t) : MemoryInv (s.farStep t) := by
  unfold State.farStep
  grind [MemoryInv, mem_sendAsk]

@[simp] theorem mem_settle (s : State) (loc : Nat) (p : Posted) : (s.settle loc p).mem = s.mem := by
  unfold State.settle
  grind [modSlot_mem, mem_hold, mem_dropReply]

@[simp] theorem mem_settleFar (s : State) (loc : Nat) : (s.settleFar loc).mem = s.mem := by
  unfold State.settleFar
  grind [mem_settle, mem_foldl]

theorem ends_awaitFar {s : State} (h : MemoryInv s) : Ends MemoryInv MemoryInv s.awaitFar := by
  unfold State.awaitFar
  grind [MemoryInv, mem_raiseDeferred, mem_waitOpen, mem_settleFar, ends_ok, ends_error]

theorem ends_ask {s : State} (h : MemoryInv s) (k : AK) (va : Word) (elem : Nat) (out : Nat → Out) (key : Word) :
    Ends (fun p => MemoryInv p.1) MemoryInv (s.ask k va elem out key) := by
  unfold State.ask
  grind [MemoryInv, modMe_mem, mem_trap, mem_waitFor, mem_dropReply, ends_ok, ends_error]

theorem ends_syncGate {s : State} (h : MemoryInv s) : Ends MemoryInv MemoryInv s.syncGate := by
  unfold State.syncGate
  grind [MemoryInv, mem_raiseDeferred, memoryInv_drain, ends_ok, ends_error]

theorem ends_beforeAccess {s : State} (h : MemoryInv s) (k : AK) (va : Word) (n elem : Nat) (raw : Bool) :
    Ends (fun p => MemoryInv p.1) MemoryInv (s.beforeAccess k va n elem raw) := by
  unfold State.beforeAccess
  grind [MemoryInv, mem_reach, mem_trap, mem_raiseDeferred, memoryInv_drainOver, ends_ok, ends_error]

theorem ends_load {s : State} (h : MemoryInv s) (va : Word) (n elem : Nat) (raw : Bool) :
    Ends (fun p => MemoryInv p.1) MemoryInv (s.load va n elem raw) := by
  unfold State.load
  simp only [bind, Except.bind, Except.map]
  grind [ends_ask, ends_beforeAccess, ends_ok, ends_error]

theorem ends_loads {s : State} (h : MemoryInv s) (va : Word) (n k : Nat) :
    Ends (fun p => MemoryInv p.1) MemoryInv (s.loads va n k) := by
  induction k generalizing s va with
  | zero => exact h
  | succ k ih => exact ends_bind (ends_load h _ _ _ _) fun p hp => ends_bind (ih hp _) fun q hq => hq

theorem ends_loadBlock {s : State} (h : MemoryInv s) (va : Word) (k : Nat) :
    Ends (fun p => MemoryInv p.1) MemoryInv (s.loadBlock va k) := by
  unfold State.loadBlock
  simp only [Except.map]
  grind [ends_loads, ends_ok, ends_error]

theorem ends_storeNow {s : State} (h : MemoryInv s) (va : Word) (n v : Nat) : Ends MemoryInv MemoryInv (s.storeNow va n v) := by
  unfold State.storeNow
  grind [MemoryInv, mem_reach, mem_raiseDeferred, memoryInv_writeAt, memoryInv_drainOver, State.raise, mem_trap, ends_ok,
    ends_error]

theorem ends_storeWaited {s : State} (h : MemoryInv s) (va : Word) (n v : Nat) : Ends MemoryInv MemoryInv
    (s.storeWaited va n v) := by
  unfold State.storeWaited
  simp only [Except.map]
  grind [ends_ask, ends_storeNow, ends_ok, ends_error]

@[simp] theorem mem_nextSeq (s : State) : s.nextSeq.mem = s.mem := rfl

theorem ends_holdRoom {s : State} (h : MemoryInv s) (loc : Nat) : Ends MemoryInv MemoryInv (s.holdRoom loc) := by
  unfold State.holdRoom
  grind [MemoryInv, mem_raiseDeferred, mem_waitOpen, memoryInv_drain, mem_settleFar, ends_ok, ends_error]

theorem ends_postStore {s : State} (h : MemoryInv s) (va : Word) (n : Nat) (v : Word) :
    Ends MemoryInv MemoryInv (s.postStore va n v) := by
  unfold State.postStore
  grind [MemoryInv, modMe_mem, mem_reach, mem_raiseDeferred, memoryInv_writeAt, memoryInv_drain, mem_settleFar, mem_nextSeq,
    ends_holdRoom, ends_ok, ends_error]

@[simp] theorem mem_postFar (s : State) (va : Word) (n : Nat) (v : Word) (rel : Bool) : (s.postFar va n v rel).mem = s.mem := rfl

theorem ends_storePlain {s : State} (h : MemoryInv s) (va : Word) (n : Nat) (v : Word) (elem : Nat) :
    Ends MemoryInv MemoryInv (s.storePlain va n v elem) := by
  unfold State.storePlain
  simp only [Except.map]
  grind [MemoryInv, mem_reach, mem_trap, memoryInv_writeAt, memoryInv_serveStore, memoryInv_drainOver, mem_nextSeq,
    ends_holdRoom, ends_postStore, mem_postFar, ends_ok, ends_error]

theorem ends_atomic {s : State} (h : MemoryInv s) (va : Word) (n : Nat) (o : FarOp) (f : Nat → Option Nat) (raw : Bool) :
    Ends (fun p => MemoryInv p.1) MemoryInv (s.atomic va n o f raw) := by
  unfold State.atomic
  simp only [bind, Except.bind, Except.map]
  grind [memoryInv_beforeWrite, memoryInv_writeAt, ends_ask, ends_beforeAccess, ends_ok, ends_error]

theorem memoryInv_serveRefAt {s : State} (hm : MemoryInv s) (ag : Agent) (loc : Nat) (t : Slot) (h : Held) :
    MemoryInv (s.serveRefAt ag loc t h).1 := by
  unfold State.serveRefAt
  grind [memoryInv_putNat, memoryInv_beforeWrite]

theorem memoryInv_serveList {s : State} (h : MemoryInv s) (ag : Agent) (loc : Nat) (t : Slot) (n : Nat) :
    MemoryInv (s.serveList ag loc t n).1 := by
  fun_induction State.serveList <;> grind [memoryInv_serveRefAt]

theorem memoryInv_serveReady {s : State} (h : MemoryInv s) (loc : Nat) : MemoryInv (s.serveReady loc) := by
  unfold State.serveReady
  grind [MemoryInv, modSlot_mem, memoryInv_serveList]

theorem memoryInv_applyCopy {s : State} (h : MemoryInv s) (core : Nat) (b : Sub) (bs : List Byte) :
    MemoryInv (s.applyCopy core b bs) := by
  unfold State.applyCopy
  grind [memoryInv_applyPacket, memoryInv_foldl]

theorem memoryInv_syncCopy {s : State} (h : MemoryInv s) (core e : Nat) (b : Sub) : MemoryInv (s.syncCopy core e b) := by
  unfold State.syncCopy
  grind [MemoryInv, mem_setSub, mem_post, memoryInv_applyCopy]

theorem memoryInv_applySent {s : State} (h : MemoryInv s) (core e : Nat) : MemoryInv (s.applySent core e) := by
  unfold State.applySent
  grind [MemoryInv, mem_setSub, memoryInv_applyPacket, memoryInv_syncCopy, memoryInv_foldl]

theorem memoryInv_flushSubs {s : State} (h : MemoryInv s) (own : Sub → Bool) (inside : Nat → Bool) :
    MemoryInv (s.flushSubs own inside) := by
  unfold State.flushSubs
  grind [MemoryInv, mem_putSub, memoryInv_applySent, memoryInv_foldl]

theorem memoryInv_releaseSubs {s : State} (h : MemoryInv s) (loc : Nat) (sc : Scope) : MemoryInv (s.releaseSubs loc sc) := by
  unfold State.releaseSubs
  grind [memoryInv_flushSubs]

@[simp] theorem mem_releaseFar (s : State) (agent : Nat) (sys : Bool) (limit : Nat) :
    (s.releaseFar agent sys limit).mem = s.mem := by
  unfold State.releaseFar
  grind [mem_foldl]

theorem memoryInv_farReleased {s : State} (h : MemoryInv s) (agent : Nat) {u : State} (e : s.farReleased agent = some u) :
    MemoryInv u := by
  unfold State.farReleased at e
  grind [MemoryInv, mem_dropWrites]

theorem ends_awaitReleased {s : State} (h : MemoryInv s) (sys : Bool) : Ends MemoryInv MemoryInv (s.awaitReleased sys) := by
  have h1 : MemoryInv (s.releaseFar (tidNo (s.tidOf s.cur)) sys s.me.u.waitlim.toNat) := memoryInv_of_mem h (mem_releaseFar ..)
  unfold State.awaitReleased
  dsimp only
  split
  · exact h1
  · split
    · next e => exact memoryInv_farReleased h1 _ e
    · exact memoryInv_of_mem h1 (mem_waitOpen ..)

theorem ends_awaitReleases {s : State} (h : MemoryInv s) : Ends MemoryInv MemoryInv s.awaitReleases := by
  unfold State.awaitReleases
  grind [MemoryInv, mem_waitOpen, mem_settleFar, ends_ok, ends_error]

theorem ends_release {s : State} (h : MemoryInv s) (sc : Scope) : Ends MemoryInv MemoryInv (s.release sc) := by
  unfold State.release
  simp only [bind, Except.bind]
  grind [MemoryInv, mem_raiseDeferred, mem_waitOpen, ends_awaitFar, ends_syncGate, memoryInv_serveReady, memoryInv_releaseSubs,
    ends_awaitReleased, ends_awaitReleases, ends_ok, ends_error]

theorem ends_awaitRefs {s : State} (h : MemoryInv s) : Ends MemoryInv MemoryInv s.awaitRefs := by
  unfold State.awaitRefs
  grind [MemoryInv, mem_waitOpen, memoryInv_serveReady, ends_ok, ends_error]

theorem memoryInv_serveHeldRef {s : State} (hm : MemoryInv s) (loc : Nat) (h : Held) : MemoryInv (s.serveHeldRef loc h) := by
  unfold State.serveHeldRef
  grind [MemoryInv, modSlot_mem, memoryInv_serveRefAt]

theorem memoryInv_reissue {s : State} (h : MemoryInv s) (loc : Nat) : MemoryInv (s.reissue loc) := by
  unfold State.reissue
  grind [MemoryInv, modSlot_mem, memoryInv_serveStore, memoryInv_serveReady, memoryInv_serveHeldRef, memoryInv_foldl]

theorem memoryInv_dropHeld {s : State} (h : MemoryInv s) (loc : Nat) : MemoryInv (s.dropHeld loc) := by
  unfold State.dropHeld
  grind [MemoryInv, modSlot_mem, memoryInv_serveReady, memoryInv_foldl]

theorem memoryInv_trapReturn {s : State} (h : MemoryInv s) (pc : Word) (p : Priv) (mstatus : Word) :
    MemoryInv (s.trapReturn pc p mstatus) := by
  unfold State.trapReturn
  grind [MemoryInv, modMe_mem, mem_raiseDeferred, memoryInv_reissue, memoryInv_dropHeld]

theorem memoryInv_fetch {s : State} (h : MemoryInv s) (loc : Nat) (va : Word) : MemoryInv (s.fetch loc va).1 := by
  unfold State.fetch
  grind [MemoryInv, setCore_mem, mem_reach, ends_askFar, ends_ok]

theorem memoryInv_padAt {s : State} (h : MemoryInv s) (loc : Nat) (p : Word) (k : Nat) : MemoryInv (s.padAt loc p k).1 := by
  unfold State.padAt
  grind [memoryInv_fetch]

theorem ends_checkPad {s : State} (h : MemoryInv s) (p : Word) (k : Nat) : Ends MemoryInv MemoryInv (s.checkPad p k) := by
  unfold State.checkPad
  grind [MemoryInv, memoryInv_padAt, State.raise, mem_trap, ends_ok, ends_error]

theorem ends_transfer {s : State} (h : MemoryInv s) (pc : Word) {f : State → State} (hf : ∀ u, MemoryInv u → MemoryInv (f u)) :
    Ends MemoryInv MemoryInv (s.transfer pc f) := by
  unfold State.transfer
  split
  · exact ends_bind (ends_release h .pkg) hf
  · exact hf s h

/-! ### CSRs (R131) -/

@[simp] theorem mem_setUnitCsr (s : State) (loc a : Nat) (v : Word) : (s.setUnitCsr loc a v).mem = s.mem := by
  unfold State.setUnitCsr
  grind [modCore_mem, modClu_mem, modDie_mem]

@[simp] theorem mem_setCsr (s : State) (a : Nat) (v : Word) : (s.setCsr a v).mem = s.mem := by
  unfold State.setCsr
  grind [modCore_mem, modMe_mem, mem_forgetReplies, mem_setUnitCsr]

theorem ends_csrInstr {s : State} (h : MemoryInv s) (c : CsrOp) : Ends MemoryInv MemoryInv (s.csrInstr c) := by
  unfold State.csrInstr
  grind [MemoryInv, setX_mem, retire_mem, mem_setCsr, State.raise, mem_trap, ends_ok, ends_error]

theorem keeps_execPdrightsWrite (c : CsrOp) (s : State) : Keeps s (execPdrightsWrite c s) := by
  unfold execPdrightsWrite
  grind [ends_csrInstr, keeps_done_iff, memoryInv_state]

theorem keeps_execQuantumWrite (c : CsrOp) (s : State) : Keeps s (execQuantumWrite c s) := by
  unfold execQuantumWrite
  grind [ends_csrInstr, keeps_done_iff, memoryInv_state]

theorem keeps_execMatrixCsrWrite (c : CsrOp) (s : State) : Keeps s (execMatrixCsrWrite c s) := by
  unfold execMatrixCsrWrite
  grind [MemoryInv, mem_waitOpen, ends_csrInstr, keeps_next, keeps_done_iff, memoryInv_state]

theorem keeps_execPrridxWrite (c : CsrOp) (s : State) : Keeps s (execPrridxWrite c s) := by
  unfold execPrridxWrite
  grind [ends_csrInstr, keeps_done_iff, memoryInv_state]

theorem keeps_execTcqWrite (c : CsrOp) (s : State) : Keeps s (execTcqWrite c s) := by
  unfold execTcqWrite
  grind [ends_csrInstr, keeps_done_iff, memoryInv_state]

@[simp] theorem mem_spimgCommand (s : State) (c : CsrOp) (old v : Word) : (s.spimgCommand c old v).mem = s.mem := by
  unfold State.spimgCommand
  grind [modCore_mem, modMe_mem, setX_mem, retire_mem, mem_setCsr]

theorem keeps_execCsrWrite (c : CsrOp) (s : State) : Keeps s (execCsrWrite c s) := by
  unfold execCsrWrite
  grind [MemoryInv, mem_expire, mem_waitOpen, ends_csrInstr, mem_spimgCommand, keeps_next, keeps_done_iff, memoryInv_state]

/-! ### Barriers (R353 to R358) -/

@[simp] theorem mem_setBarrier (s : State) (b : Barrier) : (s.setBarrier b).mem = s.mem := by
  unfold State.setBarrier
  split <;> rfl

@[simp] theorem mem_openUp (s : State) (b : Barrier) : (s.openUp b).mem = s.mem := by
  unfold State.openUp
  grind [mem_setBarrier]

@[simp] theorem mem_ripe (s : State) (sc : Scope) (id : Nat) : (s.ripe sc id).mem = s.mem := by
  unfold State.ripe
  grind [mem_openUp]

theorem ends_barGate {s : State} (h : MemoryInv s) (sc : Scope) (id : Nat) :
    Ends (fun p => MemoryInv p.1) MemoryInv (s.barGate sc id) := by
  unfold State.barGate
  simp only [bind, Except.bind, Except.map]
  grind [MemoryInv, ends_syncGate, memoryInv_releaseSubs, ends_release, mem_ripe, ends_ok, ends_error]

theorem ends_barArrive {s : State} (h : MemoryInv s) (sc : Scope) (id : Nat) :
    Ends (fun p => MemoryInv p.1) MemoryInv (s.barArrive sc id) := by
  unfold State.barArrive
  simp only [bind, Except.bind]
  grind [MemoryInv, modMe_mem, mem_openUp, ends_barGate, ends_ok]

@[simp] theorem mem_barAwait (s : State) (sc : Scope) (id : Nat) (rd : BitVec 5) : (s.barAwait sc id rd).mem = s.mem := by
  unfold State.barAwait
  grind [modMe_mem, mem_finish, mem_waitFor, mem_ripe]

theorem keeps_execBarArr (sc : Scope) (id : BitVec 4) (rd : BitVec 5) (s : State) : Keeps s (execBarArr sc id rd s) := by
  unfold execBarArr
  simp only [bind, Except.bind]
  grind [MemoryInv, mem_finish, ends_barArrive, ends_ok, ends_error, keeps_done_iff, memoryInv_state]

theorem ends_barWaitGo {s : State} (h : MemoryInv s) (sc : Scope) (id : Nat) (rd : BitVec 5) :
    Ends MemoryInv MemoryInv (s.barWaitGo sc id rd) := by
  unfold State.barWaitGo
  simp only [bind, Except.bind]
  grind [MemoryInv, ends_syncGate, memoryInv_releaseSubs, mem_barAwait, ends_ok]

theorem keeps_execBarWait (sc : Scope) (id : BitVec 4) (rd : BitVec 5) (s : State) : Keeps s (execBarWait sc id rd s) := by
  unfold execBarWait
  grind [MemoryInv, mem_barAwait, ends_barWaitGo, keeps_next, keeps_done_iff, memoryInv_state]

theorem keeps_execBar (sc : Scope) (id : BitVec 4) (rd : BitVec 5) (s : State) : Keeps s (execBar sc id rd s) := by
  unfold execBar
  simp only [bind, Except.bind]
  grind [MemoryInv, mem_finish, ends_barArrive, mem_barAwait, ends_ok, ends_error, keeps_next, keeps_done_iff, memoryInv_state]

@[simp] theorem mem_barReport (s : State) (launch : Word × Word × Nat) (id gen p : Nat) :
    (s.barReport launch id gen p).mem = s.mem := by
  unfold State.barReport
  grind [mem_setBarrier]

@[simp] theorem mem_barOpened (s : State) (launch : Word × Word × Nat) (id gen p : Nat) :
    (s.barOpened launch id gen p).mem = s.mem := by
  unfold State.barOpened
  grind [mem_setBarrier]

@[simp] theorem mem_reportBar (s : State) (b : Barrier) : (s.reportBar b).mem = s.mem := by
  unfold State.reportBar
  grind [mem_setBarrier]

theorem keeps_execBarrierComplete (s : State) : Keeps s (execBarrierComplete s) := by
  unfold execBarrierComplete
  grind [MemoryInv, mem_openUp, mem_barReport, mem_barOpened, mem_reportBar, keeps_next]

/-! ### Fences, releases and atomics (R348 to R352) -/

theorem keeps_execFenceScope (sc : Scope) (s : State) : Keeps s (execFenceScope sc s) := by
  unfold execFenceScope
  simp only [bind, Except.bind]
  grind [MemoryInv, retire_mem, ends_release, ends_ok, keeps_done_iff, memoryInv_state]

theorem keeps_execFence (_fm _pred _succ : BitVec 4) (s : State) : Keeps s (execFence _fm _pred _succ s) := by
  unfold execFence
  simp only [bind, Except.bind]
  grind [MemoryInv, retire_mem, ends_release, ends_ok, keeps_done_iff, memoryInv_state]

theorem keeps_execFenceI (s : State) : Keeps s (execFenceI s) := by
  unfold execFenceI
  grind [MemoryInv, modCore_mem, retire_mem, memoryInv_drain, keeps_next]

theorem ends_protect {s : State} (h : MemoryInv s) (k : AK) (va : Word) (n : Nat) : Ends MemoryInv MemoryInv
    (s.protect k va n) := by
  unfold State.protect
  grind [MemoryInv, mem_reach, State.raise, mem_trap, ends_ok, ends_error]

theorem keeps_execLdAcq (sc : Scope) (w : Bool) (rd rs1 : BitVec 5) (s : State) : Keeps s (execLdAcq sc w rd rs1 s) := by
  unfold execLdAcq
  simp only [bind, Except.bind]
  grind [MemoryInv, setX_mem, retire_mem, mem_raiseDeferred, ends_load, ends_awaitReleases, ends_protect, State.raise,
    mem_trap, ends_ok, ends_error, keeps_done_iff, memoryInv_state]

theorem ends_awaitOwn {s : State} (h : MemoryInv s) (va : Word) (id : Nat) : Ends MemoryInv MemoryInv (s.awaitOwn va id) := by
  unfold State.awaitOwn
  grind [MemoryInv, mem_waitOpen, mem_settleFar, ends_ok, ends_error]

theorem ends_releaseStore {s : State} (h : MemoryInv s) (sc : Scope) (a : Word) (n v : Nat) :
    Ends MemoryInv MemoryInv (s.releaseStore sc a n v) := by
  unfold State.releaseStore
  simp only [bind, Except.bind]
  grind [MemoryInv, modMe_mem, ends_storeNow, mem_postFar, ends_awaitOwn, ends_ok]

theorem keeps_execStRel (sc : Scope) (w : Bool) (rs1 rs2 : BitVec 5) (s : State) : Keeps s (execStRel sc w rs1 rs2 s) := by
  unfold execStRel
  refine keeps_done fun h => ?_
  split
  · exact ends_map (ends_awaitOwn h _ _) fun t ht => memoryInv_of_mem ht (retire_mem ..)
  · split
    · exact ends_raise h _ _
    · exact ends_bind (ends_protect h _ _ _) fun s1 h1 => ends_bind (ends_release h1 _) fun s2 h2 =>
        ends_bind (ends_releaseStore h2 _ _ _ _) fun s3 h3 => memoryInv_of_mem h3 (retire_mem ..)

theorem ends_amoRelease {s : State} (h : MemoryInv s) (sc : Scope) : Ends MemoryInv MemoryInv (s.amoRelease sc) := by
  unfold State.amoRelease
  grind [ends_release, ends_ok]

theorem ends_amoOld {s : State} (h : MemoryInv s) (sc : Scope) (a : Word) (n : Nat) (o : FarOp) :
    Ends (fun p => MemoryInv p.1) MemoryInv (s.amoOld sc a n o) := by
  unfold State.amoOld
  simp only [bind, Except.bind]
  grind [MemoryInv, ends_atomic, ends_protect, ends_amoRelease, State.raise, mem_trap, ends_ok, ends_error]

theorem ends_amo {s : State} (h : MemoryInv s) (sc : Scope) (rd : BitVec 5) (a : Word) (n : Nat) (o : FarOp) :
    Ends MemoryInv MemoryInv (s.amo sc rd a n o) := by
  unfold State.amo
  simp only [bind, Except.bind]
  grind [MemoryInv, setX_mem, retire_mem, ends_amoOld, ends_ok, ends_error]

theorem keeps_execAmoI64 (op : AmoOp) (sc : Scope) (rd rs1 rs2 : BitVec 5) (s : State) : Keeps s
    (execAmoI64 op sc rd rs1 rs2 s) := by
  unfold execAmoI64
  grind [ends_amo, keeps_done_iff, memoryInv_state]

theorem keeps_execAmoI32 (op : AmoOp) (sc : Scope) (rd rs1 rs2 : BitVec 5) (s : State) : Keeps s
    (execAmoI32 op sc rd rs1 rs2 s) := by
  unfold execAmoI32
  grind [ends_amo, keeps_done_iff, memoryInv_state]

theorem keeps_execAmoCas128 (sc : Scope) (rd : BitVec 4) (rs1 : BitVec 5) (rs2 : BitVec 4) (s : State) :
    Keeps s (execAmoCas128 sc rd rs1 rs2 s) := by
  unfold execAmoCas128
  simp only [bind, Except.bind]
  grind [MemoryInv, setX_mem, retire_mem, ends_amoOld, ends_ok, ends_error, keeps_done_iff, memoryInv_state]

theorem keeps_execAmoFaddF32 (sc : Scope) (rd rs1 rs2 : BitVec 5) (s : State) : Keeps s (execAmoFaddF32 sc rd rs1 rs2 s) := by
  unfold execAmoFaddF32
  grind [ends_amo, keeps_done_iff, memoryInv_state]

theorem keeps_execAmoFadd2Bf16 (sc : Scope) (rd rs1 rs2 : BitVec 5) (s : State) : Keeps s (execAmoFadd2Bf16 sc rd rs1 rs2 s) := by
  unfold execAmoFadd2Bf16
  grind [ends_amo, keeps_done_iff, memoryInv_state]

theorem ends_notHeld {s : State} (h : MemoryInv s) (va : Word) (n : Nat) : Ends MemoryInv MemoryInv (s.notHeld va n) := by
  unfold State.notHeld
  grind [MemoryInv, mem_raiseDeferred, memoryInv_drainOver, ends_ok, ends_error]

theorem ends_rlGate {s : State} (h : MemoryInv s) (aq rl : Bool) : Ends MemoryInv MemoryInv (s.rlGate aq rl) := by
  unfold State.rlGate
  grind [ends_awaitReleases, ends_release, ends_ok]

theorem ends_rvGate {s : State} (h : MemoryInv s) (k : AK) (a : Word) (n : Nat) (aq rl : Bool) :
    Ends MemoryInv MemoryInv (s.rvGate k a n aq rl) := by
  unfold State.rvGate
  simp only [bind, Except.bind]
  grind [MemoryInv, ends_protect, ends_notHeld, ends_rlGate, State.raise, mem_trap, ends_ok, ends_error]

theorem keeps_execLr (dbl aq rl : Bool) (rd rs1 : BitVec 5) (s : State) : Keeps s (execLr dbl aq rl rd rs1 s) := by
  unfold execLr
  refine keeps_done fun h => ends_bind (ends_rvGate h _ _ _ _ _) fun s1 h1 =>
    ends_bind (ends_beforeAccess h1 _ _ _ _ _) fun q h2 => ?_
  obtain ⟨s2, p, e⟩ := q
  dsimp only
  cases p with
  | far w => exact ends_bind (P := fun p => MemoryInv p.1) (ends_map (ends_ask h2 _ _ _ _ _) fun r hr => hr) fun v hv =>
      memoryInv_of_mem hv rfl
  | dram pa => exact h2
  | spad c off => exact h2

theorem keeps_execSc (dbl aq rl : Bool) (rd rs1 rs2 : BitVec 5) (s : State) : Keeps s (execSc dbl aq rl rd rs1 rs2 s) := by
  unfold execSc
  refine keeps_done fun h => ends_bind (ends_rvGate h _ _ _ _ _) fun s1 h1 =>
    ends_bind (ends_beforeAccess h1 _ _ _ _ _) fun q h2 => ?_
  obtain ⟨s2, p, e⟩ := q
  dsimp only
  split
  · exact h2
  · split
    · exact ends_bind (ends_ask h2 _ _ _ _ _) fun r hr => hr
    · exact memoryInv_writeAt (memoryInv_of_mem h2 (modMe_mem ..)) _ _ _ _ _ _

theorem keeps_execRvAmo (op : RvAmoOp) (dbl aq rl : Bool) (rd rs1 rs2 : BitVec 5) (s : State) :
    Keeps s (execRvAmo op dbl aq rl rd rs1 rs2 s) := by
  unfold execRvAmo
  simp only [bind, Except.bind]
  grind [MemoryInv, setX_mem, retire_mem, ends_atomic, ends_rvGate, ends_ok, ends_error, keeps_done_iff, memoryInv_state]

theorem keeps_execJalr (rd rs1 : BitVec 5) (off : BitVec 12) (s : State) : Keeps s (execJalr rd rs1 off s) := by
  unfold execJalr
  simp only [bind, Except.bind]
  grind [MemoryInv, setX_mem, ends_checkPad, ends_transfer, ends_ok, keeps_done_iff, memoryInv_state]

theorem keeps_execSret (s : State) : Keeps s (execSret s) := by
  unfold execSret
  grind [MemoryInv, mem_trap, memoryInv_trapReturn, keeps_next]

theorem keeps_execMret (s : State) : Keeps s (execMret s) := by
  unfold execMret
  grind [MemoryInv, mem_trap, memoryInv_trapReturn, keeps_next]

/-! ### The RV64 base (R129, R130) -/

theorem ends_directJump {s : State} (h : MemoryInv s) (rd : BitVec 5) (pc : Word) :
    Ends MemoryInv MemoryInv (s.directJump rd pc) := by
  unfold State.directJump
  grind [MemoryInv, setX_mem, ends_transfer, State.raise, mem_trap, ends_error]

theorem ends_fpResult {s : State} (h : MemoryInv s) (f : FFmt) (rd : BitVec 5) (p : Nat × Nat) :
    Ends MemoryInv MemoryInv (s.fpResult f rd p) := by
  unfold State.fpResult
  grind [MemoryInv, modMe_mem, retire_mem, ends_ok]

theorem ends_fpInt {s : State} (h : MemoryInv s) (rd : BitVec 5) (v : Word) (flags : Nat) :
    Ends MemoryInv MemoryInv (s.fpInt rd v flags) := by
  unfold State.fpInt
  grind [MemoryInv, modMe_mem, retire_mem, ends_ok]

theorem ends_rounded {s : State} (h : MemoryInv s) (i : Rv) (rm : BitVec 3) {f : Rnd → Go} (hf : ∀ r,
    Ends MemoryInv MemoryInv (f r)) :
    Ends MemoryInv MemoryInv (s.rounded i rm f) := by
  unfold State.rounded
  split
  · exact hf _
  · exact ends_raise h _ _

theorem ends_rv {s : State} (h : MemoryInv s) (i : Rv) : Ends MemoryInv MemoryInv (s.rv i) := by
  unfold State.rv
  grind [MemoryInv, setX_mem, retire_mem, ends_csrInstr, ends_directJump, ends_fpResult, ends_fpInt, ends_rounded, State.raise,
    mem_trap, ends_ok, ends_error]

theorem keeps_execRv64BaseInstruction (i : Rv) (s : State) : Keeps s (execRv64BaseInstruction i s) := by
  unfold execRv64BaseInstruction
  grind [ends_rv, keeps_done_iff, memoryInv_state]

theorem keeps_execScalarLoad (ld : LoadOp) (s : State) : Keeps s (execScalarLoad ld s) := by
  unfold execScalarLoad
  simp only [bind, Except.bind]
  grind [MemoryInv, modMe_mem, retire_mem, ends_load, State.raise, mem_trap, ends_ok, ends_error, keeps_done_iff, memoryInv_state]

theorem keeps_execPlainStore (st : StoreOp) (s : State) : Keeps s (execPlainStore st s) := by
  unfold execPlainStore
  simp only [bind, Except.bind]
  grind [MemoryInv, retire_mem, ends_storePlain, State.raise, mem_trap, ends_ok, ends_error, keeps_done_iff, memoryInv_state]

end Sys2Proof.Machine
end

section
/-! PROOFS. Memory stays canonical: the engines, groups and collectives. -/

namespace Sys2Proof.Machine

/-! ### Accesses of the engines (R247, R262) -/

theorem ends_engRead {s : State} (h : MemoryInv s) (v : View) (va : Word) (n : Nat) (raw : Bool) :
    Ends (fun p => MemoryInv p.1) (fun _ => True) (s.engRead v va n raw) := by
  unfold State.engRead
  grind [ends_askFar, ends_ok, ends_error]

theorem ends_engWrite {s : State} (h : MemoryInv s) (v : View) (ag : Agent) (va : Word) (n val : Nat) (raw : Bool) :
    Ends MemoryInv (fun _ => True) (s.engWrite v ag va n val raw) := by
  unfold State.engWrite
  grind [memoryInv_putNat, memoryInv_beforeWrite, ends_ok, ends_error]

theorem ends_engAtomic {s : State} (h : MemoryInv s) (v : View) (ag : Agent) (va : Word) (n : Nat) (o : FarOp)
    (f : Nat → Option Nat) :
    Ends (fun p => MemoryInv p.1) (fun _ => True) (s.engAtomic v ag va n o f) := by
  unfold State.engAtomic
  grind [memoryInv_putNat, memoryInv_beforeWrite, ends_askFar, ends_ok, ends_error]

theorem ends_engBytes {s : State} (h : MemoryInv s) (v : View) (va : Word) (n : Nat) :
    Ends (fun p => MemoryInv p.1) (fun _ => True) (s.engBytes v va n) := by
  fun_induction State.engBytes <;> grind [ends_engRead, ends_ok, ends_error]

theorem memoryInv_engPutBytes {s : State} (h : MemoryInv s) (v : View) (ag : Agent) (va : Word) (l : List Byte) :
    MemoryInv (s.engPutBytes v ag va l).1 := by
  fun_induction State.engPutBytes <;> grind [ends_engWrite, ends_ok]

theorem memoryInv_engPieces {s : State} (h : MemoryInv s) (v : View) (ag : Agent) (va : Word) (bs : List Byte) (n : Nat) :
    MemoryInv (s.engPieces v ag va bs n).1 := by
  fun_induction State.engPieces <;> grind [ends_engWrite, memoryInv_engPutBytes, ends_ok]

theorem memoryInv_engPut {s : State} (h : MemoryInv s) (v : View) (ag : Agent) (va : Word) (bs : List Byte) :
    MemoryInv (s.engPut v ag va bs).1 := by
  unfold State.engPut
  grind [memoryInv_engPieces]

theorem ends_beginCommand {s : State} (h : MemoryInv s) (rd : BitVec 5) (bad : Bool) :
    Ends MemoryInv MemoryInv (s.beginCommand rd bad) := by
  unfold State.beginCommand
  simp only [bind, Except.bind]
  grind [MemoryInv, mem_finish, ends_reserve, ends_awaitFar, ends_syncGate, ends_awaitRefs, ends_ok, ends_error]

@[simp] theorem mem_waitQueue (s : State) (rd : BitVec 5) (blk : Nat) : (s.waitQueue rd blk).mem = s.mem := by
  unfold State.waitQueue
  grind [mem_waitFor]

@[simp] theorem mem_refuseCommand (s : State) (rd : BitVec 5) (st : Status) : (s.refuseCommand rd st).mem = s.mem := rfl

theorem ends_readBlock {s : State} (h : MemoryInv s) (va : Word) (k : Nat) :
    Ends (fun p => MemoryInv p.1) MemoryInv (s.readBlock va k) := by
  unfold State.readBlock
  grind [ends_reserved, ends_loadBlock, ends_ok]

/-! ### The copy engine and prefetch (R262 to R266) -/

theorem ends_cpyWord {s : State} (h : MemoryInv s) (r : F5) (plane : Bool) : Ends MemoryInv MemoryInv (s.cpyWord r plane) := by
  unfold State.cpyWord
  simp only [bind, Except.bind]
  grind [MemoryInv, modCore_mem, mem_finish, ends_beginCommand, mem_waitQueue, mem_refuseCommand, ends_readBlock, ends_ok,
    ends_error]

theorem keeps_execCpy (r : F5) (s : State) : Keeps s (execCpy r s) := by
  unfold execCpy
  grind [ends_cpyWord, keeps_done_iff, memoryInv_state]

theorem keeps_execCpyPlane (r : F5) (s : State) : Keeps s (execCpyPlane r s) := by
  unfold execCpyPlane
  grind [ends_cpyWord, keeps_done_iff, memoryInv_state]

theorem keeps_execCpyStat (xd : BitVec 5) (s : State) : Keeps s (execCpyStat xd s) := by
  unfold execCpyStat
  grind [MemoryInv, setX_mem, retire_mem, keeps_next]

theorem keeps_execPf (_sc : Scope) (_xb : BitVec 5) (_off : BitVec 16) (s : State) : Keeps s (execPf _sc _xb _off s) := by
  unfold execPf
  grind [MemoryInv, retire_mem, keeps_next]

theorem ends_eRead {s : State} (h : MemoryInv s) (v : View) (va : Word) (n : Nat) :
    Ends (fun p => MemoryInv p.1) (fun e => MemoryInv e.1) (s.eRead v va n) := by
  unfold State.eRead
  grind [ends_engRead, ends_ok, ends_error]

theorem ends_eWrite {s : State} (h : MemoryInv s) (v : View) (ag : Agent) (va : Word) (n x : Nat) :
    Ends MemoryInv (fun e => MemoryInv e.1) (s.eWrite v ag va n x) := by
  have hw := ends_engWrite h v ag va n x true
  unfold State.eWrite
  split
  · next e => rw [e] at hw; exact hw
  · exact h

theorem ends_eReads {s : State} (h : MemoryInv s) (v : View) (va : Word) (w n : Nat) :
    Ends (fun p => MemoryInv p.1) (fun e => MemoryInv e.1) (s.eReads v va w n) := by
  induction n generalizing s va with
  | zero => exact h
  | succ n ih => exact ends_bind (ends_eRead h _ _ _) fun p hp => ends_bind (ih hp _) fun q hq => hq

theorem ends_eWrites {s : State} (h : MemoryInv s) (v : View) (ag : Agent) (va : Word) (w : Nat) (xs : List Nat) :
    Ends MemoryInv (fun e => MemoryInv e.1) (s.eWrites v ag va w xs) := by
  induction xs generalizing s va with
  | nil => exact h
  | cons x xs ih => exact ends_bind (ends_eWrite h _ _ _ _ _) fun t ht => ih ht _

theorem ends_copyRun_elem {s : State} (h : MemoryInv s) (u : CopyRun) (i0 : Nat) (so d : Int) :
    Ends MemoryInv (fun e => MemoryInv e.1) (u.elem s i0 so d) :=
  ends_bind (ends_eRead h _ _ _) fun _ h1 => ends_eWrite h1 _ _ _ _ _

theorem ends_copyRun_toBlk {s : State} (h : MemoryInv s) (u : CopyRun) (j b : Nat) (so d : Int) :
    Ends MemoryInv (fun e => MemoryInv e.1) (u.toBlk s j b so d) :=
  ends_bind (ends_eReads h _ _ _ _) fun _ h1 => ends_bind (ends_eWrites h1 _ _ _ _ _) fun _ h2 => ends_eWrite h2 _ _ _ _ _

theorem ends_copyRun_ofBlk {s : State} (h : MemoryInv s) (u : CopyRun) (j b : Nat) (so d : Int) :
    Ends MemoryInv (fun e => MemoryInv e.1) (u.ofBlk s j b so d) :=
  ends_bind (ends_eReads h _ _ _ _) fun _ h1 => ends_bind (ends_eRead h1 _ _ _) fun _ h2 => ends_eWrites h2 _ _ _ _ _

theorem ends_copyRun_unit {s : State} (h : MemoryInv s) (u : CopyRun) (blocks : Bool) (k : Nat) :
    Ends MemoryInv (fun e => MemoryInv e.1) (u.unit blocks k s) := by
  unfold CopyRun.unit
  dsimp only
  split
  · exact ends_copyRun_elem h _ _ _ _
  · split
    · exact ends_copyRun_toBlk h _ _ _ _ _
    · exact ends_copyRun_ofBlk h _ _ _ _ _

theorem ends_copyRun_planesOf {s : State} (h : MemoryInv s) (u : CopyRun) (codes : List Nat) (row n b : Nat) :
    Ends MemoryInv (fun e => MemoryInv e.1) (u.planesOf codes row n b s) := by
  induction n generalizing s b with
  | zero => exact h
  | succ n ih => exact ends_bind (ends_eWrites h _ _ _ _ _) fun t ht => ih ht _

theorem ends_copyRun_row {s : State} (h : MemoryInv s) (u : CopyRun) (row : Nat) :
    Ends MemoryInv (fun e => MemoryInv e.1) (u.row row s) :=
  ends_bind (ends_eReads h _ _ _ _) fun _ h1 => ends_copyRun_planesOf h1 _ _ _ _ _

theorem ends_copyFrom {s : State} (h : MemoryInv s) (cmd : CopyCmd) (n : Nat) :
    Ends MemoryInv (fun e => MemoryInv e.1) (s.copyFrom cmd n) := by
  unfold State.copyFrom
  dsimp only
  split
  · exact ends_copyRun_row h _ _
  · exact ends_copyRun_unit h _ _ _

theorem keeps_execCopyCommandStart (s : State) : Keeps s (execCopyCommandStart s) := by
  unfold execCopyCommandStart
  grind [MemoryInv, setCore_mem, keeps_next]

@[simp] theorem mem_copyEnd (s : State) (cmd : CopyCmd) (rest : List CopyCmd) (st : Status) (v : Word) :
    (s.copyEnd cmd rest st v).mem = s.mem := rfl

theorem keeps_execCopyCompletion (s : State) : Keeps s (execCopyCompletion s) := by
  unfold execCopyCompletion
  dsimp only
  split
  · split
    · exact fun h => memoryInv_of_mem h (mem_copyEnd ..)
    · split
      · split
        · exact id
        · exact fun h => memoryInv_of_mem h (mem_copyEnd ..)
      · next cmd rest _ _ _ _ _ =>
        have hc (h : MemoryInv s) := ends_copyFrom h cmd (s.core s.cur).copyDone
        split
        · next e =>
          intro h
          have k := hc h
          rw [e] at k
          split
          · exact h
          · exact memoryInv_of_mem k (mem_copyEnd ..)
        · next e =>
          intro h
          have k := hc h
          rw [e] at k
          split
          · exact memoryInv_of_mem k (modCore_mem ..)
          · exact memoryInv_of_mem k (mem_copyEnd ..)
  · exact id

/-! ### Groups and collectives (R359 to R367) -/

@[simp] theorem mem_setGroup (s : State) (g : Group) : (s.setGroup g).mem = s.mem := by
  unfold State.setGroup
  grind

@[simp] theorem mem_dropRank (s : State) (h rank : Nat) (ended : Bool) : (s.dropRank h rank ended).mem = s.mem := by
  unfold State.dropRank
  grind [mem_setGroup]

@[simp] theorem mem_tellOthers (s : State) (g : Group) (m : PodMsg) : (s.tellOthers g m).mem = s.mem := rfl

theorem ends_readList {s : State} (h : MemoryInv s) (a : Word) : Ends (fun p => MemoryInv p.1) MemoryInv (s.readList a) := by
  unfold State.readList
  simp only [bind, Except.bind]
  grind [ends_loads, ends_loadBlock, ends_ok, ends_error]

@[simp] theorem mem_arriveForm (s : State) (key : BitVec 32) (list : List Nat) (timeout : Nat) (m : Member) (job : Option Nat)
    (bad : Bool) :
    (s.arriveForm key list timeout m job bad).mem = s.mem := by
  unfold State.arriveForm
  split <;> rfl

@[simp] theorem mem_takeForm (s : State) (f : Forming) (rd : BitVec 5) (d : BitVec 8 × Nat) :
    (s.takeForm f rd d).mem = s.mem := by
  unfold State.takeForm
  grind [setX_mem, retire_mem]

@[simp] theorem mem_closeForm (s : State) (f : Forming) (st : BitVec 8) : (s.closeForm f st).mem = s.mem := by
  unfold State.closeForm
  grind

@[simp] theorem mem_sendDecision (s : State) (f : Forming) (st : BitVec 8) (h : Nat) : (s.sendDecision f st h).mem = s.mem := rfl
@[simp] theorem mem_decideForm (s : State) (f : Forming) (st : Status) : (s.decideForm f st).mem = s.mem := rfl

@[simp] theorem mem_awaitForm (s : State) (rd : BitVec 5) : (s.awaitForm rd).mem = s.mem := by
  unfold State.awaitForm
  grind [mem_finish, mem_waitFor, mem_takeForm, mem_closeForm, mem_decideForm]

@[simp] theorem mem_setInst (s : State) (i : Inst) : (s.setInst i).mem = s.mem := by
  unfold State.setInst
  grind

@[simp] theorem mem_tell (s : State) (i : Inst) (c : Contrib) (st : BitVec 8) (value : Word) :
    (s.tell i c st value).mem = s.mem := rfl

@[simp] theorem mem_tellAll (s : State) (id : Nat) : (s.tellAll id).mem = s.mem := by
  unfold State.tellAll
  grind [mem_tell, mem_foldl]

@[simp] theorem mem_forgetInsts (s : State) (h : Nat) : (s.forgetInsts h).mem = s.mem := rfl

@[simp] theorem mem_formGroup (s0 : State) (f : Forming) (h : Nat) : (s0.formGroup f h).mem = s0.mem := by
  unfold State.formGroup
  grind [mem_forgetInsts]

@[simp] theorem mem_decide (s : State) (i : Nat) : (s.decide i).mem = s.mem := by
  unfold State.decide
  grind [mem_sendDecision, mem_decideForm, mem_formGroup]

@[simp] theorem mem_loseInsts (s : State) (h : Nat) : (s.loseInsts h).mem = s.mem := by
  unfold State.loseInsts
  grind [mem_setInst, mem_tellAll, mem_foldl]

@[simp] theorem mem_decideKey (s : State) (key : BitVec 32) : (s.decideKey key).mem = s.mem := by
  unfold State.decideKey
  grind [mem_decide]

@[simp] theorem mem_takeDecision (s : State) (key : BitVec 32) (st : BitVec 8) (h : Nat) (nums : List Nat) :
    (s.takeDecision key st h nums).mem = s.mem := by
  unfold State.takeDecision
  grind [mem_closeForm, mem_formGroup, mem_loseInsts]

theorem keeps_execGrpForm (xd xb : BitVec 5) (s : State) : Keeps s (execGrpForm xd xb s) := by
  unfold execGrpForm
  simp only [bind, Except.bind]
  grind [MemoryInv, setX_mem, retire_mem, ends_readList, mem_arriveForm, mem_awaitForm, mem_decideKey, ends_ok, ends_error,
    keeps_next, keeps_done_iff, memoryInv_state]

theorem keeps_execGroupDecision (s : State) : Keeps s (execGroupDecision s) := by
  unfold execGroupDecision
  grind [MemoryInv, mem_dropRank, mem_arriveForm, mem_decideForm, mem_decide, mem_decideKey, mem_takeDecision, keeps_next]

theorem keeps_execGrpDrop (xd xh : BitVec 5) (s : State) : Keeps s (execGrpDrop xd xh s) := by
  unfold execGrpDrop
  grind [MemoryInv, mem_finish, mem_dropRank, mem_tellOthers, keeps_next]

@[simp] theorem mem_dropGroups (s : State) (t : Tid) : (s.dropGroups t).mem = s.mem := by
  unfold State.dropGroups
  grind [mem_dropRank, mem_tellOthers, mem_foldl]

@[simp] theorem mem_collStart (s : State) (h k : Nat) (c : Contrib) : (s.collStart h k c).mem = s.mem := by
  unfold State.collStart
  grind [mem_tellAll]

theorem ends_coll {s : State} (h : MemoryInv s) (kind : Nat) (ty : ElTy) (r : F5) : Ends MemoryInv MemoryInv
    (s.coll kind ty r) := by
  unfold State.coll
  refine ends_bind (ends_beginCommand h _ _) fun s1 h1 => ends_bind (ends_readBlock h1 _ _) fun q h2 => ?_
  obtain ⟨s3, b⟩ := q
  have hr (st : Status) : MemoryInv (s3.refuseCommand r.d st) := memoryInv_of_mem h2 (mem_refuseCommand ..)
  dsimp only
  split
  · exact hr _
  · split
    · exact hr _
    · split
      · exact hr _
      · split
        · exact hr _
        · split
          · exact hr _
          · refine memoryInv_of_mem h2 ?_
            simp only [mem_finish, mem_collStart, mem_setGroup]

theorem keeps_execCollAllreduce (ty : ElTy) (r : F5) (s : State) : Keeps s (execCollAllreduce ty r s) := by
  unfold execCollAllreduce
  grind [ends_coll, keeps_done_iff, memoryInv_state]

theorem keeps_execCollRedscatter (ty : ElTy) (r : F5) (s : State) : Keeps s (execCollRedscatter ty r s) := by
  unfold execCollRedscatter
  grind [ends_coll, keeps_done_iff, memoryInv_state]

theorem keeps_execCollAllgather (ty : ElTy) (r : F5) (s : State) : Keeps s (execCollAllgather ty r s) := by
  unfold execCollAllgather
  grind [ends_coll, keeps_done_iff, memoryInv_state]

theorem keeps_execCollBcast (ty : ElTy) (r : F5) (s : State) : Keeps s (execCollBcast ty r s) := by
  unfold execCollBcast
  grind [ends_coll, keeps_done_iff, memoryInv_state]

theorem keeps_execCollAlltoall (ty : ElTy) (r : F5) (s : State) : Keeps s (execCollAlltoall ty r s) := by
  unfold execCollAlltoall
  grind [ends_coll, keeps_done_iff, memoryInv_state]

theorem memoryInv_contribute {s : State} (h : MemoryInv s) (g : Nat) (c : Contrib) : MemoryInv (s.contribute g c).1 := by
  unfold State.contribute
  grind [ends_engBytes, ends_ok]

@[simp] theorem mem_takeContrib (s : State) (h k rank : Nat) (p : CollP) (data : Option (List Byte)) :
    (s.takeContrib h k rank p data).mem = s.mem := by
  unfold State.takeContrib
  grind

@[simp] theorem mem_commitNow (s : State) (h k : Nat) : (s.commitNow h k).mem = s.mem := by
  unfold State.commitNow
  grind

theorem keeps_execCollContribution (s : State) : Keeps s (execCollContribution s) := by
  unfold execCollContribution
  grind [MemoryInv, mem_setInst, memoryInv_contribute, mem_takeContrib, mem_commitNow, keeps_next]

theorem memoryInv_putElems {s : State} (h : MemoryInv s) (c : Contrib) (w : Nat) (a : Word) (l : List Nat) :
    MemoryInv (s.putElems c w a l).1 := by
  fun_induction State.putElems <;> grind [ends_engWrite, ends_ok]

theorem memoryInv_writeResults {s : State} (h : MemoryInv s) (i : Inst) (res : Nat → Nat → List Nat) :
    MemoryInv (s.writeResults i res) := by
  unfold State.writeResults
  refine memoryInv_of_mem ?_ (mem_setInst ..)
  generalize hf : (fun (acc : State × List Nat × List (Nat × List Nat)) (c : Contrib) => _) = f
  have hstep (acc : State × List Nat × List (Nat × List Nat)) (c : Contrib) (ha : MemoryInv acc.1) : MemoryInv (f acc c).1 := by
    subst hf
    exact memoryInv_putElems ha _ _ _ _
  exact List.foldlRecOn i.contribs f h fun acc ha c _ => hstep acc c ha

theorem memoryInv_settleInst {s : State} (h : MemoryInv s) (i : Inst) {u : State}
    (e : s.settleInst i = some u) : MemoryInv u := by
  unfold State.settleInst at e
  grind [MemoryInv, mem_dropWrites, mem_setInst]

@[simp] theorem mem_tellGroup (s : State) (i : Inst) (m : PodMsg) : (s.tellGroup i m).mem = s.mem := by
  unfold State.tellGroup
  grind [mem_tellOthers]

@[simp] theorem mem_tellReached (s : State) (i : Inst) (m : PodMsg) : (s.tellReached i m).mem = s.mem := rfl

theorem memoryInv_settled {s : State} (h : MemoryInv s) {id : Nat} {u : State} (e : (s.inst id).bind s.settleInst = some u) :
    MemoryInv u := by
  obtain ⟨i, -, hi⟩ := Option.bind_eq_some_iff.mp e
  exact memoryInv_settleInst h i hi

theorem memoryInv_collFinish {s : State} (h : MemoryInv s) (id : Nat) : MemoryInv (s.collFinish id) := by
  unfold State.collFinish
  split
  · exact h
  · next e =>
    have hu := memoryInv_settled h e
    split
    · exact hu
    · split
      · refine memoryInv_of_mem hu ?_
        simp only [mem_tellAll, mem_tellReached, mem_setInst]
      · exact hu

@[simp] theorem mem_sendResults (s : State) (i : Inst) (p : CollP) (srcs : List (List Byte)) :
    (s.sendResults i p srcs).mem = s.mem := by
  unfold State.sendResults
  grind [mem_tellGroup]

theorem memoryInv_ackResults {s : State} (h : MemoryInv s) (id : Nat) : MemoryInv (s.ackResults id) := by
  unfold State.ackResults
  split
  · exact h
  · next e =>
    have hu := memoryInv_settled h e
    split
    · exact hu
    · split
      · exact hu
      · exact memoryInv_of_mem hu rfl

theorem memoryInv_takeData {s : State} (hm : MemoryInv s) (h k : Nat) (data : List (Nat × List Byte)) :
    MemoryInv (s.takeData h k data) := by
  unfold State.takeData
  grind [memoryInv_writeResults, memoryInv_ackResults]

@[simp] theorem mem_takeEnd (s : State) (h k : Nat) (st : BitVec 8) (count named : Nat) :
    (s.takeEnd h k st count named).mem = s.mem := by
  unfold State.takeEnd
  grind [mem_setInst, mem_tellAll]

theorem memoryInv_takeAck {s : State} (hm : MemoryInv s) (h k r : Nat) : MemoryInv (s.takeAck h k r) := by
  unfold State.takeAck
  grind [MemoryInv, mem_setInst, memoryInv_collFinish]

theorem keeps_execCollCommit (s : State) : Keeps s (execCollCommit s) := by
  unfold execCollCommit
  grind [MemoryInv, mem_commitNow, memoryInv_writeResults, memoryInv_collFinish, mem_sendResults, memoryInv_ackResults,
    memoryInv_takeData, mem_takeEnd, memoryInv_takeAck, keeps_next]

@[simp] theorem mem_collStop (s : State) (i : Inst) (st : Status) (ranks : List Nat) : (s.collStop i st ranks).mem = s.mem := by
  unfold State.collStop
  grind [mem_setInst, mem_tellAll, mem_tellGroup]

theorem memoryInv_oldestOpen {s : State} (hm : MemoryInv s) (h : Nat) (ks : List Nat) {y} (e : s.oldestOpen h ks = some y) :
    MemoryInv y.1 := by
  unfold State.oldestOpen at e
  grind [MemoryInv]

theorem memoryInv_farCancel {s : State} (h : MemoryInv s) (g r num : Nat) (ks : List Nat) : MemoryInv
    (s.farCancel g r num ks) := by
  unfold State.farCancel
  dsimp only
  split
  · next e => exact memoryInv_of_mem (memoryInv_oldestOpen h _ _ e) (mem_collStop ..)
  · exact h

theorem keeps_execCollAbort (s : State) : Keeps s (execCollAbort s) := by
  unfold execCollAbort
  grind [MemoryInv, mem_expire, mem_collStop, memoryInv_farCancel, keeps_next]

theorem keeps_execCollGroupTimeout (s : State) : Keeps s (execCollGroupTimeout s) := by
  unfold execCollGroupTimeout
  grind [MemoryInv, mem_collStop, keeps_next]

theorem memoryInv_loseRanks {s : State} (h : MemoryInv s) (i : Inst) (rs : List Nat) : MemoryInv (s.loseRanks i rs) := by
  unfold State.loseRanks
  grind [MemoryInv, mem_setInst, memoryInv_collFinish]

theorem keeps_execCollMemberLost (s : State) : Keeps s (execCollMemberLost s) := by
  unfold execCollMemberLost
  grind [MemoryInv, memoryInv_loseRanks, keeps_next]

theorem memoryInv_mixBytes {s : State} (h : MemoryInv s) (c : Contrib) (a : Word) (l : List Byte) : MemoryInv
    (s.mixBytes c a l) := by
  fun_induction State.mixBytes <;> grind [MemoryInv, ends_engWrite, ends_ok]

theorem keeps_execLostMemberReached (s : State) : Keeps s (execLostMemberReached s) := by
  unfold execLostMemberReached
  grind [MemoryInv, mem_setInst, mem_tellAll, memoryInv_mixBytes, memoryInv_foldl, keeps_next]

theorem keeps_execCollCancel (xd xh : BitVec 5) (s : State) : Keeps s (execCollCancel xd xh s) := by
  unfold execCollCancel
  grind [MemoryInv, mem_finish, mem_waitFor, mem_collStop, keeps_next]

end Sys2Proof.Machine
end

section
/-! PROOFS. Memory stays canonical: the fabric, full-empty words and the matrix unit. -/

namespace Sys2Proof.Machine

/-! ### Tokens, channels and credits (R183 to R188) -/

@[simp] theorem mem_modRegion (s : State) (n : Nat) (f : Region → Region) : (s.modRegion n f).mem = s.mem := by
  unfold State.modRegion
  grind

@[simp] theorem mem_setRegion (s : State) (r : Region) : (s.setRegion r).mem = s.mem := rfl

@[simp] theorem mem_fired (s : State) (x : Site) : (s.fired x).mem = s.mem := by
  unfold State.fired
  grind [mem_modRegion]

theorem keeps_atNode {s : State} (kind : Nat) {k : Fire → Option State}
    (hk : ∀ f t, k f = some t → MemoryInv s → MemoryInv t) : Keeps s (s.atNode kind k) := by
  unfold State.atNode
  split
  · exact id
  · split
    · exact id
    · next e => exact fun h => memoryInv_of_mem (hk _ _ e h) (mem_fired ..)

@[simp] theorem mem_fire_put (f : Fire) (s : State) : (f.put s).mem = s.mem := rfl

theorem memoryInv_releaseFrame {s : State} (h : MemoryInv s) (id : Nat) (sc : Scope) (core : Nat) :
    MemoryInv (s.releaseFrame id sc core) := by
  unfold State.releaseFrame
  grind [MemoryInv, memoryInv_flushSubs, mem_releaseFar]

theorem ends_frameGet {s : State} (h : MemoryInv s) (v : View) (f : FSlot) (off n : Nat) :
    Ends (fun p => MemoryInv p.1) (fun _ => True) (s.frameGet v f off n) := by
  unfold State.frameGet
  simp only [Except.map]
  grind [ends_engBytes, ends_ok, ends_error]

@[simp] theorem mem_answerCall (s : State) (node frame : Nat) (st : BitVec 8) (ws : List Word) :
    (s.answerCall node frame st ws).mem = s.mem := rfl

@[simp] theorem mem_endUnit (s : State) (job unit : Nat) (st : BitVec 8) : (s.endUnit job unit st).mem = s.mem := by
  unfold State.endUnit
  grind

theorem memoryInv_putStatus {s : State} (h : MemoryInv s) (r : Region) (f : FSlot) (st : BitVec 8) :
    MemoryInv (s.putStatus r f st) := by
  unfold State.putStatus
  grind [memoryInv_put, memoryInv_engPut]

theorem memoryInv_frameReturn {s : State} (h : MemoryInv s) (r : Region) (f : FSlot) (st : BitVec 8) :
    MemoryInv (s.frameReturn r f st) := by
  unfold State.frameReturn
  grind [MemoryInv, memoryInv_releaseFrame, mem_answerCall, mem_endUnit, memoryInv_putStatus]

@[simp] theorem mem_endFrame (s : State) (rgn fs : Nat) (st : BitVec 8) : (s.endFrame rgn fs st).mem = s.mem := by
  unfold State.endFrame
  grind [mem_setRegion]

@[simp] theorem mem_noteTrap (s : State) (r : Region) (rec1 : FTrap) : (s.noteTrap r rec1).mem = s.mem := by
  unfold State.noteTrap
  grind [modDie_mem, mem_setRegion]

@[simp] theorem mem_fabTrap (s : State) (rgn node fs : Nat) (i : FabInfo) : (s.fabTrap rgn node fs i).mem = s.mem := by
  unfold State.fabTrap
  grind [mem_endFrame, mem_noteTrap]

@[simp] theorem mem_nodeFault (s : State) (f : Fire) (cause : Nat) (va : Word) : (s.nodeFault f cause va).mem = s.mem := by
  unfold State.nodeFault
  grind [mem_fabTrap]

theorem keeps_execTokenArrival (s : State) : Keeps s (execTokenArrival s) := by
  unfold execTokenArrival
  grind [MemoryInv, mem_setRegion, keeps_next]

theorem keeps_execCreditReturn (s : State) : Keeps s (execCreditReturn s) := by
  unfold execCreditReturn
  grind [MemoryInv, mem_modRegion, keeps_next]

theorem keeps_execPhaseEnd (s : State) : Keeps s (execPhaseEnd s) := by
  unfold execPhaseEnd
  grind [MemoryInv, mem_setRegion, mem_fabTrap, keeps_next]

theorem keeps_execFabricTrapRaise (cause : Nat) (va : Word) (s : State) : Keeps s (execFabricTrapRaise cause va s) := by
  unfold execFabricTrapRaise
  grind [MemoryInv, mem_fabTrap, keeps_next]

/-! ### Elements (R206 to R219) -/

theorem keeps_fireWord (s : State) (o : ElOp) (w : TWord) (op : Fire → ElOut) (used : Nat) : Keeps s
    (s.fireWord o w op used) := by
  unfold State.fireWord
  grind [MemoryInv, mem_setRegion, keeps_atNode]

theorem keeps_execElNop (w : TWord) (s : State) : Keeps s (execElNop w s) := by
  unfold execElNop
  grind [keeps_fireWord]

theorem keeps_execElMov (w : TWord) (s : State) : Keeps s (execElMov w s) := by
  unfold execElMov
  grind [keeps_fireWord]

theorem keeps_execElSel (w : TWord) (s : State) : Keeps s (execElSel w s) := by
  unfold execElSel
  grind [keeps_fireWord]

theorem keeps_execElSteer (w : TWord) (s : State) : Keeps s (execElSteer w s) := by
  unfold execElSteer
  grind [keeps_fireWord]

theorem keeps_execElRepl (w : TWord) (s : State) : Keeps s (execElRepl w s) := by
  unfold execElRepl
  grind [keeps_fireWord]

theorem keeps_execElAdd (w : TWord) (s : State) : Keeps s (execElAdd w s) := by
  unfold execElAdd
  grind [keeps_fireWord]

theorem keeps_execElSub (w : TWord) (s : State) : Keeps s (execElSub w s) := by
  unfold execElSub
  grind [keeps_fireWord]

theorem keeps_execElMul (w : TWord) (s : State) : Keeps s (execElMul w s) := by
  unfold execElMul
  grind [keeps_fireWord]

theorem keeps_execElMulh (w : TWord) (s : State) : Keeps s (execElMulh w s) := by
  unfold execElMulh
  grind [keeps_fireWord]

theorem keeps_execElMac (w : TWord) (s : State) : Keeps s (execElMac w s) := by
  unfold execElMac
  grind [keeps_fireWord]

theorem keeps_execElMin (w : TWord) (s : State) : Keeps s (execElMin w s) := by
  unfold execElMin
  grind [keeps_fireWord]

theorem keeps_execElMax (w : TWord) (s : State) : Keeps s (execElMax w s) := by
  unfold execElMax
  grind [keeps_fireWord]

theorem keeps_execElAbs (w : TWord) (s : State) : Keeps s (execElAbs w s) := by
  unfold execElAbs
  grind [keeps_fireWord]

theorem keeps_execElNeg (w : TWord) (s : State) : Keeps s (execElNeg w s) := by
  unfold execElNeg
  grind [keeps_fireWord]

theorem keeps_execElAnd (w : TWord) (s : State) : Keeps s (execElAnd w s) := by
  unfold execElAnd
  grind [keeps_fireWord]

theorem keeps_execElOr (w : TWord) (s : State) : Keeps s (execElOr w s) := by
  unfold execElOr
  grind [keeps_fireWord]

theorem keeps_execElXor (w : TWord) (s : State) : Keeps s (execElXor w s) := by
  unfold execElXor
  grind [keeps_fireWord]

theorem keeps_execElAndn (w : TWord) (s : State) : Keeps s (execElAndn w s) := by
  unfold execElAndn
  grind [keeps_fireWord]

theorem keeps_execElNot (w : TWord) (s : State) : Keeps s (execElNot w s) := by
  unfold execElNot
  grind [keeps_fireWord]

theorem keeps_execElSll (w : TWord) (s : State) : Keeps s (execElSll w s) := by
  unfold execElSll
  grind [keeps_fireWord]

theorem keeps_execElSrl (w : TWord) (s : State) : Keeps s (execElSrl w s) := by
  unfold execElSrl
  grind [keeps_fireWord]

theorem keeps_execElSra (w : TWord) (s : State) : Keeps s (execElSra w s) := by
  unfold execElSra
  grind [keeps_fireWord]

theorem keeps_execElCmpEq (w : TWord) (s : State) : Keeps s (execElCmpEq w s) := by
  unfold execElCmpEq
  grind [keeps_fireWord]

theorem keeps_execElCmpNe (w : TWord) (s : State) : Keeps s (execElCmpNe w s) := by
  unfold execElCmpNe
  grind [keeps_fireWord]

theorem keeps_execElCmpLt (w : TWord) (s : State) : Keeps s (execElCmpLt w s) := by
  unfold execElCmpLt
  grind [keeps_fireWord]

theorem keeps_execElCmpLe (w : TWord) (s : State) : Keeps s (execElCmpLe w s) := by
  unfold execElCmpLe
  grind [keeps_fireWord]

theorem keeps_execElFadd (w : TWord) (s : State) : Keeps s (execElFadd w s) := by
  unfold execElFadd
  grind [keeps_fireWord]

theorem keeps_execElFsub (w : TWord) (s : State) : Keeps s (execElFsub w s) := by
  unfold execElFsub
  grind [keeps_fireWord]

theorem keeps_execElFmul (w : TWord) (s : State) : Keeps s (execElFmul w s) := by
  unfold execElFmul
  grind [keeps_fireWord]

theorem keeps_execElFma (w : TWord) (s : State) : Keeps s (execElFma w s) := by
  unfold execElFma
  grind [keeps_fireWord]

theorem keeps_execElFmin (w : TWord) (s : State) : Keeps s (execElFmin w s) := by
  unfold execElFmin
  grind [keeps_fireWord]

theorem keeps_execElFmax (w : TWord) (s : State) : Keeps s (execElFmax w s) := by
  unfold execElFmax
  grind [keeps_fireWord]

theorem keeps_execElFcmpEq (w : TWord) (s : State) : Keeps s (execElFcmpEq w s) := by
  unfold execElFcmpEq
  grind [keeps_fireWord]

theorem keeps_execElFcmpLt (w : TWord) (s : State) : Keeps s (execElFcmpLt w s) := by
  unfold execElFcmpLt
  grind [keeps_fireWord]

theorem keeps_execElFcmpLe (w : TWord) (s : State) : Keeps s (execElFcmpLe w s) := by
  unfold execElFcmpLe
  grind [keeps_fireWord]

theorem keeps_execElFcmpUn (w : TWord) (s : State) : Keeps s (execElFcmpUn w s) := by
  unfold execElFcmpUn
  grind [keeps_fireWord]

theorem keeps_execElVredAdd (w : TWord) (s : State) : Keeps s (execElVredAdd w s) := by
  unfold execElVredAdd
  grind [keeps_fireWord]

theorem keeps_execElVredMin (w : TWord) (s : State) : Keeps s (execElVredMin w s) := by
  unfold execElVredMin
  grind [keeps_fireWord]

theorem keeps_execElVredMax (w : TWord) (s : State) : Keeps s (execElVredMax w s) := by
  unfold execElVredMax
  grind [keeps_fireWord]

theorem keeps_execElVredFadd (w : TWord) (s : State) : Keeps s (execElVredFadd w s) := by
  unfold execElVredFadd
  grind [keeps_fireWord]

theorem keeps_execElVredFmin (w : TWord) (s : State) : Keeps s (execElVredFmin w s) := by
  unfold execElVredFmin
  grind [keeps_fireWord]

theorem keeps_execElVredFmax (w : TWord) (s : State) : Keeps s (execElVredFmax w s) := by
  unfold execElVredFmax
  grind [keeps_fireWord]

theorem keeps_execElVextr (w : TWord) (s : State) : Keeps s (execElVextr w s) := by
  unfold execElVextr
  grind [keeps_fireWord]

theorem keeps_execElVins (w : TWord) (s : State) : Keeps s (execElVins w s) := by
  unfold execElVins
  grind [keeps_fireWord]

theorem keeps_execElSettag (w : TWord) (s : State) : Keeps s (execElSettag w s) := by
  unfold execElSettag
  grind [keeps_fireWord]

theorem keeps_execElEndtest (w : TWord) (s : State) : Keeps s (execElEndtest w s) := by
  unfold execElEndtest
  grind [keeps_fireWord]

theorem keeps_execElCsacc (w : TWord) (s : State) : Keeps s (execElCsacc w s) := by
  unfold execElCsacc
  grind [keeps_fireWord]

theorem keeps_execElCsadd (w : TWord) (s : State) : Keeps s (execElCsadd w s) := by
  unfold execElCsadd
  grind [keeps_fireWord]

/-! ### Memory from the fabric (R200, R225 to R228) -/

theorem keeps_execStreamWalkStart (s : State) : Keeps s (execStreamWalkStart s) := by
  unfold execStreamWalkStart
  grind [MemoryInv, keeps_atNode, mem_fire_put]

theorem ends_engReads {s : State} (h : MemoryInv s) (v : View) (n : Nat) (l : List Word) :
    Ends (fun p => MemoryInv p.1) (fun _ => True) (s.engReads v n l) := by
  fun_induction State.engReads <;> grind [ends_engRead, ends_ok, ends_error]

theorem ends_engWrites {s : State} (h : MemoryInv s) (v : View) (ag : Agent) (n : Nat) (l : List (Word × Nat)) :
    Ends MemoryInv (fun _ => True) (s.engWrites v ag n l) := by
  fun_induction State.engWrites <;> grind [ends_engWrite, ends_ok, ends_error]

theorem keeps_execStreamPoint (s : State) : Keeps s (execStreamPoint s) := by
  refine keeps_atNode 1 fun f t e h => ?_
  split at e
  · dsimp only at e
    split at e
    · split at e
      · cases e
      · split at e
        · cases e
        · split at e
          · rw [← Option.some.inj e]
            exact h
          · split at e
            · rw [← Option.some.inj e]
              exact memoryInv_of_mem h (mem_nodeFault ..)
            · split at e
              · rw [← Option.some.inj e]
                exact memoryInv_of_mem h (mem_nodeFault ..)
              · next hw =>
                rw [← Option.some.inj e]
                exact memoryInv_of_mem (ends_ok_of_eq (ends_engWrites h _ _ _ _) hw) (mem_fire_put ..)
    · split at e
      · cases e
      · split at e
        · rw [← Option.some.inj e]
          exact h
        · split at e
          · split at e
            · cases e
            · rw [← Option.some.inj e]
              exact memoryInv_of_mem h (mem_nodeFault ..)
          · split at e
            · split at e
              · cases e
              · rw [← Option.some.inj e]
                exact memoryInv_of_mem h (mem_nodeFault ..)
            · next hr =>
              rw [← Option.some.inj e]
              exact memoryInv_of_mem (ends_ok_of_eq (ends_engReads h _ _ _) hr) (mem_fire_put ..)
  · cases e

theorem keeps_issueMem (s : State) (op : Nat) : Keeps s (s.issueMem op) := by
  unfold State.issueMem
  grind [MemoryInv, mem_setRegion, keeps_atNode]

theorem keeps_execMemSkip (s : State) : Keeps s (execMemSkip s) := by
  unfold execMemSkip
  grind [keeps_issueMem]

theorem keeps_execMemLoad (s : State) : Keeps s (execMemLoad s) := by
  unfold execMemLoad
  grind [keeps_issueMem]

theorem keeps_execMemStore (s : State) : Keeps s (execMemStore s) := by
  unfold execMemStore
  grind [keeps_issueMem]

theorem keeps_execMemIndexedLoad (s : State) : Keeps s (execMemIndexedLoad s) := by
  unfold execMemIndexedLoad
  grind [keeps_issueMem]

theorem keeps_execMemIndexedStore (s : State) : Keeps s (execMemIndexedStore s) := by
  unfold execMemIndexedStore
  grind [keeps_issueMem]

theorem keeps_execMemRmw (s : State) : Keeps s (execMemRmw s) := by
  unfold execMemRmw
  grind [keeps_issueMem]

theorem keeps_execMemIndexedRmw (s : State) : Keeps s (execMemIndexedRmw s) := by
  unfold execMemIndexedRmw
  grind [keeps_issueMem]

theorem ends_actAll {s : State} (h : MemoryInv s) (v : View) (ag : Agent) (q : MReq) (amo : Nat) (es : List (Nat × Word × Nat)) :
    Ends (fun p => MemoryInv p.1) (fun _ => True) (s.actAll v ag q amo es) := by
  induction es generalizing s with
  | nil => exact h
  | cons e r ih =>
    unfold State.actAll
    extract_lets a one
    have hone : Ends (fun p => MemoryInv p.1) (fun _ => True) one := by
      unfold one
      split
      · exact ends_engRead h _ _ _ _
      · split
        · exact ends_map (ends_engWrite h _ _ _ _ _ _) fun t ht => ht
        · exact ends_engAtomic h _ _ _ _ _ _
    clear_value one
    cases one with
    | error c => trivial
    | ok p =>
      refine ends_bind (ih hone) fun x hx => ?_
      obtain ⟨s2, xs⟩ := x
      exact hx

theorem ends_perform {s : State} (h : MemoryInv s) (r : Region) (n : NodeRec) (q : MReq) :
    Ends (fun p => MemoryInv p.1) (fun _ => True) (s.perform r n q) := by
  unfold State.perform
  simp only [Except.map]
  grind [ends_actAll, ends_ok, ends_error]

@[simp] theorem mem_requestDone (s : State) (rgn sub : Nat) (gone : Bool) (q : MReq) :
    (s.requestDone rgn sub gone q).mem = s.mem := by
  unfold State.requestDone
  grind [mem_modRegion]

@[simp] theorem mem_requestFailed (s : State) (r : Region) (sub : Nat) (gone spec : Bool) (q : MReq) (e : Word × Nat) :
    (s.requestFailed r sub gone spec q e).mem = s.mem := by
  unfold State.requestFailed
  grind [mem_modRegion, mem_fabTrap]

@[simp] theorem mem_requestAnswered (s : State) (r : Region) (sub : Nat) (gone : Bool) (q : MReq) :
    (s.requestAnswered r sub gone q).mem = s.mem := by
  unfold State.requestAnswered
  grind [mem_dropWrites, mem_modRegion, mem_requestDone, mem_requestFailed]

theorem keeps_execOrderedRequestPerform (s : State) : Keeps s (execOrderedRequestPerform s) := by
  unfold execOrderedRequestPerform
  split
  · exact id
  · split
    · exact id
    · split
      · exact id
      · dsimp only
        split
        · exact fun h => memoryInv_of_mem h (mem_requestAnswered ..)
        · split
          · exact id
          · next _ r _ _ q _ _ n _ _ _ =>
            have hp (h : MemoryInv s) := ends_perform h r n q
            split
            · next e =>
              intro h
              have k := hp h
              rw [e] at k
              split
              · exact memoryInv_of_mem k (mem_modRegion ..)
              · exact memoryInv_of_mem k (mem_requestDone ..)
            · exact fun h => memoryInv_of_mem h (mem_requestFailed ..)

theorem keeps_execMemReply (s : State) : Keeps s (execMemReply s) := by
  unfold execMemReply
  grind [MemoryInv, mem_setRegion, keeps_next]

theorem keeps_execJoinFire (s : State) : Keeps s (execJoinFire s) := by
  refine keeps_atNode 3 fun f t e h => ?_
  split at e
  · cases e
  · extract_lets wave sys me at e
    split at e
    · cases e
    · rename_i g fire _
      have hfire {u : State} (hu : MemoryInv u) : MemoryInv (fire u) :=
        memoryInv_of_mem (memoryInv_releaseFrame hu _ _ _) (mem_setRegion ..)
      split at e
      · rw [← Option.some.inj e]
        exact hfire h
      · split at e
        · rw [← Option.some.inj e]
          exact memoryInv_of_mem h (mem_releaseFar ..)
        · obtain ⟨u, hu, hf⟩ := Option.map_eq_some_iff.mp e
          rw [← hf]
          exact hfire (memoryInv_farReleased h _ hu)

/-! ### Nodes that order and convert tokens (R191 to R198, R230 to R235) -/

theorem memoryInv_fire_startLoop {s : State} (h : MemoryInv s) (f : Fire) (l : LoopSt) : MemoryInv (f.startLoop l s) := by
  unfold Fire.startLoop
  grind [MemoryInv, ends_engBytes, mem_fire_put, mem_fabTrap, mem_nodeFault, ends_ok]

theorem keeps_execLoopStart (s : State) : Keeps s (execLoopStart s) := by
  unfold execLoopStart
  grind [MemoryInv, keeps_atNode, mem_fire_put, memoryInv_fire_startLoop]

theorem keeps_execLoopDoneToken (s : State) : Keeps s (execLoopDoneToken s) := by
  unfold execLoopDoneToken
  grind [MemoryInv, keeps_atNode, mem_fire_put]

theorem keeps_execLoopExitToken (s : State) : Keeps s (execLoopExitToken s) := by
  unfold execLoopExitToken
  grind [MemoryInv, mem_setRegion, keeps_atNode, mem_fire_put]

theorem keeps_execIterationRetire (s : State) : Keeps s (execIterationRetire s) := by
  unfold execIterationRetire
  grind [MemoryInv, keeps_atNode, mem_fire_put]

theorem keeps_execCarryForward (s : State) : Keeps s (execCarryForward s) := by
  refine keeps_atNode 4 fun f t e h => ?_
  split at e
  · extract_lets ready at e
    split at e
    · rw [← Option.some.inj e]
      exact h
    · split at e
      · cases e
      · split at e
        · cases e
        · rw [← Option.some.inj e]
          exact h
  · cases e

theorem keeps_execCollectStep (s : State) : Keeps s (execCollectStep s) := by
  unfold execCollectStep
  grind [MemoryInv, keeps_atNode, mem_fire_put, mem_fabTrap]

theorem keeps_execConvFire (s : State) : Keeps s (execConvFire s) := by
  unfold execConvFire
  grind [MemoryInv, keeps_atNode, mem_fire_put]

theorem keeps_execNormFire (s : State) : Keeps s (execNormFire s) := by
  unfold execNormFire
  grind [MemoryInv, keeps_atNode, mem_fire_put]

theorem keeps_execDsqEnter (s : State) : Keeps s (execDsqEnter s) := by
  unfold execDsqEnter
  grind [MemoryInv, keeps_atNode, mem_fire_put]

theorem keeps_execDsqExit (s : State) : Keeps s (execDsqExit s) := by
  unfold execDsqExit
  grind [MemoryInv, keeps_atNode, mem_fire_put]

/-! ### Frames (R203, R237, R238) -/

theorem keeps_execFrameRead (s : State) : Keeps s (execFrameRead s) := by
  unfold execFrameRead
  grind [MemoryInv, keeps_atNode, mem_fire_put, ends_frameGet, mem_nodeFault, ends_ok]

theorem keeps_execFrameWrite (s : State) : Keeps s (execFrameWrite s) := by
  unfold execFrameWrite
  grind [MemoryInv, memoryInv_put, memoryInv_engPut, keeps_atNode, mem_fire_put, mem_nodeFault]

theorem keeps_execFrameEnd (s : State) : Keeps s (execFrameEnd s) := by
  unfold execFrameEnd
  grind [MemoryInv, keeps_atNode, mem_endFrame, mem_fabTrap]

theorem keeps_execFrameSlotFree (s : State) : Keeps s (execFrameSlotFree s) := by
  unfold execFrameSlotFree
  grind [MemoryInv, mem_setRegion, memoryInv_frameReturn, keeps_next]

theorem memoryInv_layFrame {s : State} (h : MemoryInv s) (r : Region) (fs : Nat) (f : FSlot) : MemoryInv (s.layFrame r fs f) := by
  unfold State.layFrame
  grind [memoryInv_put]

@[simp] theorem mem_called (s : State) (o : Opening) (act : Word) : (s.called o act).mem = s.mem := by
  unfold State.called
  split <;> rfl

theorem memoryInv_openFrame {s : State} (h : MemoryInv s) (r : Region) (fs : Nat) (o : Opening) : MemoryInv
    (s.openFrame r fs o) := by
  unfold State.openFrame
  grind [MemoryInv, memoryInv_engPut, mem_setRegion, mem_fabTrap, memoryInv_layFrame, mem_called]

@[simp] theorem mem_spillWords (s : State) (n : Nat) : (s.spillWords n).1.mem = s.mem := rfl

theorem ends_spill {s : State} (h : MemoryInv s) (r : Region) (fs : Nat) : Ends MemoryInv MemoryInv (s.spill r fs) := by
  unfold State.spill
  grind [MemoryInv, memoryInv_engPut, mem_setRegion, mem_fabTrap, mem_spillWords, ends_ok, ends_error]

theorem memoryInv_restore {s : State} (h : MemoryInv s) (r : Region) (p : Spill) (fs : Nat) : MemoryInv (s.restore r p fs) := by
  unfold State.restore
  grind [MemoryInv, memoryInv_engPut, mem_setRegion, memoryInv_layFrame]

@[simp] theorem mem_dropOpening (s : State) (id : Nat) : (s.dropOpening id).mem = s.mem := rfl

theorem keeps_execFrameOpen (s : State) : Keeps s (execFrameOpen s) := by
  unfold execFrameOpen
  split
  · split
    · exact id
    · next o _ _ r _ =>
      split
      · exact fun h => memoryInv_openFrame (memoryInv_of_mem h (mem_dropOpening ..)) _ _ _
      · next g _ _ =>
        have hs (h : MemoryInv s) := ends_spill h r g
        split
        · next e => exact fun h => ends_of_error (hs h) e
        · next t e =>
          intro h
          have ht : MemoryInv t := by
            have k := hs h
            rw [e] at k
            exact k
          split
          · exact memoryInv_openFrame (memoryInv_of_mem ht (mem_dropOpening ..)) _ _ _
          · exact ht
      · exact id
  · split
    · exact id
    · split
      · exact id
      · split
        · exact id
        · split
          · exact id
          · extract_lets s1
            exact fun h => memoryInv_openFrame (s := s1) h _ _ _

theorem keeps_execFrameOrphaned (s : State) : Keeps s (execFrameOrphaned s) := by
  unfold execFrameOrphaned
  grind [MemoryInv, mem_fabTrap, keeps_next]

theorem keeps_execFabricStall (s : State) : Keeps s (execFabricStall s) := by
  unfold execFabricStall
  grind [MemoryInv, mem_fabTrap, keeps_next]

/-! ### Full-empty words (R256 to R258) -/

theorem memoryInv_serveToken {s : State} (h : MemoryInv s) (q : FeTok) : MemoryInv (s.serveToken q).1 := by
  unfold State.serveToken
  dsimp only
  split
  · split
    · exact h
    · exact wf_setFull _ _ _ (memoryInv_putNat h _ _ _ _)
  · split
    · split
      · exact wf_setFull _ _ _ h
      · exact h
    · exact h

theorem memoryInv_servePass {s : State} (h : MemoryInv s) (word : Nat) (l : List FeTok) : MemoryInv (s.servePass word l).1 := by
  fun_induction State.servePass <;> grind [memoryInv_serveToken]

theorem memoryInv_serveWord {s : State} (h : MemoryInv s) (word n : Nat) : MemoryInv (s.serveWord word n) := by
  fun_induction State.serveWord <;> grind [MemoryInv, memoryInv_servePass]

theorem memoryInv_setPresence {s : State} (h : MemoryInv s) (word : Nat) (full : Bool) : MemoryInv (s.setPresence word full) := by
  have h1 : MemoryInv { s with mem := s.mem.setFull word full } := wf_setFull _ _ _ h
  unfold State.setPresence
  dsimp only
  split
  · exact h1
  · exact memoryInv_serveWord h1 _ _

theorem ends_feWord {s : State} (h : MemoryInv s) (k : AK) (a : Word) : Ends (fun p => MemoryInv p.1) MemoryInv
    (s.feWord k a) := by
  unfold State.feWord
  simp only [bind, Except.bind]
  grind [MemoryInv, mem_plbEntry, ends_beforeAccess, State.raise, mem_trap, ends_ok, ends_error]

theorem ends_feWait {s : State} (h : MemoryInv s) (a : Word) (mk : Nat → FeTok) (k : AK) (releases : Bool) :
    Ends MemoryInv MemoryInv (s.feWait a mk k releases) := by
  unfold State.feWait
  simp only [bind, Except.bind]
  grind [MemoryInv, mem_waitFor, ends_release, memoryInv_serveWord, ends_feWord, ends_ok, ends_error]

theorem keeps_execLdFe (xd xb : BitVec 5) (off : BitVec 16) (s : State) : Keeps s (execLdFe xd xb off s) := by
  unfold execLdFe
  grind [ends_feWait, keeps_done_iff, memoryInv_state]

theorem keeps_execLdFeTake (xd xb : BitVec 5) (off : BitVec 16) (s : State) : Keeps s (execLdFeTake xd xb off s) := by
  unfold execLdFeTake
  grind [ends_feWait, keeps_done_iff, memoryInv_state]

theorem keeps_execStFe (xs xb : BitVec 5) (off : BitVec 16) (s : State) : Keeps s (execStFe xs xb off s) := by
  unfold execStFe
  simp only [bind, Except.bind]
  grind [MemoryInv, retire_mem, memoryInv_putNat, memoryInv_setPresence, ends_feWord, ends_ok, ends_error, keeps_done_iff,
    memoryInv_state]

theorem keeps_execStFeFill (xs xb : BitVec 5) (off : BitVec 16) (s : State) : Keeps s (execStFeFill xs xb off s) := by
  unfold execStFeFill
  grind [ends_feWait, keeps_done_iff, memoryInv_state]

theorem keeps_execFeTimeout (s : State) : Keeps s (execFeTimeout s) := by
  unfold execFeTimeout
  grind [MemoryInv, mem_expire, keeps_next]

/-! ### The matrix unit (R312 to R331) -/

theorem ends_mxWord {s : State} (h : MemoryInv s) (r : F5) (form : MxForm) : Ends MemoryInv MemoryInv (s.mxWord r form) := by
  unfold State.mxWord
  simp only [bind, Except.bind]
  grind [MemoryInv, modCore_mem, mem_finish, ends_beginCommand, mem_waitQueue, mem_refuseCommand, ends_readBlock, ends_ok,
    ends_error]

theorem keeps_execMxTile (r : F5) (s : State) : Keeps s (execMxTile r s) := by
  unfold execMxTile
  grind [ends_mxWord, keeps_done_iff, memoryInv_state]

theorem keeps_execMxTileAcc (r : F5) (s : State) : Keeps s (execMxTileAcc r s) := by
  unfold execMxTileAcc
  grind [ends_mxWord, keeps_done_iff, memoryInv_state]

theorem keeps_execMxSort (r : F5) (s : State) : Keeps s (execMxSort r s) := by
  unfold execMxSort
  grind [ends_mxWord, keeps_done_iff, memoryInv_state]

theorem keeps_execMxTopk (r : F5) (s : State) : Keeps s (execMxTopk r s) := by
  unfold execMxTopk
  grind [ends_mxWord, keeps_done_iff, memoryInv_state]

theorem keeps_execMxStat (xd : BitVec 5) (s : State) : Keeps s (execMxStat xd s) := by
  unfold execMxStat
  grind [MemoryInv, setX_mem, retire_mem, keeps_next]

@[simp] theorem mem_mxEnd (s : State) (c : MxCmd) (st : Status) (value : Nat) : (s.mxEnd c st value).mem = s.mem := by
  unfold State.mxEnd
  grind [modClu_mem, mem_dropAsks, mem_post, mem_dropWrites]

@[simp] theorem mem_mxPop (s : State) (cluster req : Nat) : (s.mxPop cluster req).mem = s.mem := by
  unfold State.mxPop
  grind [modCore_mem, modClu_mem]

theorem keeps_execMxuArbitrate (s : State) : Keeps s (execMxuArbitrate s) := by
  unfold execMxuArbitrate
  grind [MemoryInv, modClu_mem, mem_mxEnd, mem_mxPop, keeps_next]

theorem ends_tileRun_bFactors {s : State} (h : MemoryInv s) (u : TileRun) (m : Nat) :
    Ends (fun p => MemoryInv p.1) (fun e => MemoryInv e.1) (u.bFactors s m) := by
  unfold TileRun.bFactors
  simp only [bind, Except.bind]
  grind [ends_eRead, ends_eReads, ends_ok, ends_error]

theorem ends_tileRun_aFactors {s : State} (h : MemoryInv s) (u : TileRun) (c : Nat) :
    Ends (fun p => MemoryInv p.1) (fun e => MemoryInv e.1) (u.aFactors s c) := by
  unfold TileRun.aFactors
  simp only [bind, Except.bind]
  grind [ends_eReads, ends_ok, ends_error]

theorem ends_tileRun_column {s : State} (h : MemoryInv s) (u : TileRun) (x : List Int) (bf : List FV) (m c : Nat) :
    Ends (fun p => MemoryInv p.1) (fun e => MemoryInv e.1) (u.column s x bf m c) := by
  unfold TileRun.column
  simp only [bind, Except.bind]
  grind [ends_eRead, ends_tileRun_aFactors, ends_ok, ends_error]

theorem ends_tileRun_columns {s : State} (h : MemoryInv s) (u : TileRun) (x : List Int) (bf : List FV) (m n c : Nat) :
    Ends (fun p => MemoryInv p.1) (fun e => MemoryInv e.1) (u.columns x bf m n c s) := by
  induction n generalizing s c with
  | zero => exact h
  | succ n ih => exact ends_bind (ends_tileRun_column h u x bf m c) fun p hp => ends_bind (ih hp _) fun q hq => hq

theorem ends_tileRun_vector {s : State} (h : MemoryInv s) (u : TileRun) (m : Nat) :
    Ends MemoryInv (fun e => MemoryInv e.1) (u.vector s m) :=
  ends_bind (ends_tileRun_bFactors h _ _) fun _ h1 => ends_bind (ends_tileRun_columns h1 _ _ _ _ _ _) fun _ h2 =>
    ends_eWrites h2 _ _ _ _ _

@[simp] theorem mem_mxNext (s : State) : s.mxNext.mem = s.mem := rfl

theorem memoryInv_mxWritten {s t : State} (ht : MemoryInv t) : MemoryInv (s.mxWritten t) := by
  unfold State.mxWritten
  grind [MemoryInv, modClu_mem, mem_mxNext]

theorem keeps_execTileCompletion (s : State) : Keeps s (execTileCompletion s) := by
  unfold execTileCompletion
  dsimp only
  split
  · exact id
  · next c _ =>
    split
    · exact id
    · split
      · split
        · exact fun h => memoryInv_of_mem h (mem_mxEnd ..)
        · split
          · exact id
          · exact fun h => memoryInv_of_mem h (mem_mxNext ..)
      · split
        · exact fun h => memoryInv_of_mem h (mem_mxEnd ..)
        · split
          · exact id
          · have hv (h : MemoryInv s) := ends_tileRun_vector h (s.mxTile c s.cur (s.clu s.cur).planes) (s.clu s.cur).step
            split
            · next e =>
              intro h
              have k := hv h
              rw [e] at k
              exact memoryInv_mxWritten k
            · exact fun h => memoryInv_of_mem h (mem_mxEnd ..)

theorem keeps_execFillWaitTimeout (s : State) : Keeps s (execFillWaitTimeout s) := by
  unfold execFillWaitTimeout
  grind [MemoryInv, mem_mxEnd, keeps_next]

theorem keeps_execMxuParityError (s : State) : Keeps s (execMxuParityError s) := by
  unfold execMxuParityError
  grind [MemoryInv, setClu_mem, mem_mxEnd, keeps_next]

theorem ends_sortSegment {s : State} (h : MemoryInv s) (v : View) (ag : Agent) (c : SortBlk) (topk : Bool) (t : Nat) :
    Ends MemoryInv (fun e => MemoryInv e.1) (s.sortSegment v ag c topk t) :=
  ends_bind (ends_eReads h _ _ _ _) fun _ h1 => ends_bind (ends_eWrites h1 _ _ _ _ _) fun _ h2 => ends_eWrites h2 _ _ _ _ _

theorem keeps_execSortCompletion (s : State) : Keeps s (execSortCompletion s) := by
  unfold execSortCompletion
  dsimp only
  split
  · exact id
  · next c _ =>
    split
    · exact id
    · split
      · split
        · exact fun h => memoryInv_of_mem h (mem_mxEnd ..)
        · split
          · exact id
          · exact fun h => memoryInv_of_mem h (mem_mxNext ..)
      · split
        · exact fun h => memoryInv_of_mem h (mem_mxEnd ..)
        · have hv (h : MemoryInv s) := ends_sortSegment h (s.mxView c s.cur) (s.mxAgent c s.cur) (SortBlk.of c.blk.toNat)
            (c.form == .topk) (s.clu s.cur).step
          split
          · next e =>
            intro h
            have k := hv h
            rw [e] at k
            exact memoryInv_mxWritten k
          · exact fun h => memoryInv_of_mem h (mem_mxEnd ..)

/-! ### Nodes that meet the outside of the fabric (R239 to R244) -/

theorem memoryInv_fire_ringWait {s : State} (h : MemoryInv s) (f : Fire) (i : Nat) (stopped : Bool) (since : Option Nat)
    {u : State} (e : f.ringWait s i stopped since = some u) :
    MemoryInv u := by
  unfold Fire.ringWait at e
  grind [MemoryInv, mem_fire_put]

theorem ends_slotBytes {s : State} (h : MemoryInv s) (v : View) (a : Word) :
    Ends (fun p => MemoryInv p.1) (fun _ => True) (s.slotBytes v a) := by
  unfold State.slotBytes
  grind [ends_engBytes, ends_error]

theorem memoryInv_putSlot {s : State} (h : MemoryInv s) (v : View) (ag : Agent) (a : Word) (bs : List Byte) :
    MemoryInv (s.putSlot v ag a bs).1 := by
  unfold State.putSlot
  grind [memoryInv_engPut]

theorem keeps_execIngressTake (s : State) : Keeps s (execIngressTake s) := by
  unfold execIngressTake
  grind [MemoryInv, keeps_atNode, mem_fire_put, mem_nodeFault, memoryInv_setPresence, memoryInv_fire_ringWait, ends_slotBytes,
    ends_ok]

theorem memoryInv_fire_fillWord {s : State} (h : MemoryInv s) (f : Fire) (port i pa : Nat) (stopped : Bool) (word : Nat) :
    MemoryInv (f.fillWord s port i pa stopped word) := by
  unfold Fire.fillWord
  grind [MemoryInv, memoryInv_putNat, mem_fire_put, memoryInv_releaseFrame, memoryInv_setPresence]

theorem memoryInv_fire_fill {s : State} (h : MemoryInv s) (f : Fire) (port i : Nat) (stopped : Bool) (since : Option Nat)
    (t : Token) (word : Nat) (slot : List Byte) {u : State} (e : f.fill s port i stopped since t word slot = some u) :
    MemoryInv u := by
  unfold Fire.fill at e
  grind [MemoryInv, mem_fire_put, mem_nodeFault, memoryInv_fire_ringWait, memoryInv_putSlot, memoryInv_fire_fillWord]

theorem keeps_execEgressWrite (s : State) : Keeps s (execEgressWrite s) := by
  unfold execEgressWrite
  grind [keeps_atNode, memoryInv_fire_fill]

theorem keeps_execEgressEndOfStream (s : State) : Keeps s (execEgressEndOfStream s) := by
  unfold execEgressEndOfStream
  grind [keeps_atNode, memoryInv_fire_fill]

theorem keeps_execRingWaitExpiry (s : State) : Keeps s (execRingWaitExpiry s) := by
  unfold execRingWaitExpiry
  grind [MemoryInv, mem_endFrame, keeps_next]

theorem memoryInv_engWords {s : State} (h : MemoryInv s) (v : View) (ag : Agent) (a : Word) (ws : List Nat) :
    MemoryInv (s.engWords v ag a ws).1 := by
  unfold State.engWords
  grind [memoryInv_engPut]

theorem ends_fire_logToken {s : State} (h : MemoryInv s) (f : Fire) (port : Nat) (t : Token) :
    Ends MemoryInv (fun _ => True) (f.logToken s port t) := by
  unfold Fire.logToken
  grind [ends_engBytes, memoryInv_engWords, ends_ok, ends_error]

theorem keeps_execSinkConsume (s : State) : Keeps s (execSinkConsume s) := by
  refine keeps_atNode 13 fun f t e h => ?_
  split at e
  · split at e
    · cases e
    · next p _ =>
      split at e
      · cases e
      · next tok _ =>
        split at e
        · cases e
        · have hl : Ends MemoryInv (fun _ => True) (if f.n.par 0 == 0 then .ok s else f.logToken s p tok) := by
            split
            · exact h
            · exact ends_fire_logToken h _ _ _
          split at e
          · rw [← Option.some.inj e]
            exact memoryInv_of_mem h (mem_nodeFault ..)
          · next hok =>
            have h1 := ends_ok_of_eq hl hok
            rw [← Option.some.inj e]
            split
            · exact memoryInv_of_mem h1 (mem_fabTrap ..)
            · exact h1
  · cases e

theorem keeps_execMxportFire (s : State) : Keeps s (execMxportFire s) := by
  unfold execMxportFire
  grind [MemoryInv, modClu_mem, ends_engBytes, keeps_atNode, mem_fire_put, mem_nodeFault, ends_ok]

theorem keeps_execMxportCompletion (s : State) : Keeps s (execMxportCompletion s) := by
  unfold execMxportCompletion
  grind [MemoryInv, mem_setRegion, keeps_next]

theorem ends_accumulate {s : State} (h : MemoryInv s) (f : Fire) (base : Word) (l : List (Nat × Nat × Nat)) :
    Ends (fun p => MemoryInv p.1) (fun _ => True) (s.accumulate f base l) := by
  induction l generalizing s with
  | nil => exact h
  | cons x l ih =>
    rw [State.accumulate]
    split
    · trivial
    · next s1 old e => exact ends_bind (ih (ends_ok_of_eq (ends_engAtomic h _ _ _ _ _ _) e)) fun q hq => hq

theorem keeps_execAccUpdate (s : State) : Keeps s (execAccUpdate s) := by
  unfold execAccUpdate
  grind [MemoryInv, keeps_atNode, mem_fire_put, mem_nodeFault, ends_accumulate, ends_ok]

/-! ### Loading a region (R110 to R122) -/

@[simp] theorem mem_unload (s : State) (rect : BitVec 128) : (s.unload rect).mem = s.mem := rfl

theorem memoryInv_raceReport {s : State} (h : MemoryInv s) (die : Nat) (hash : Word) (desc : Nat) (p : Nat × Nat) :
    MemoryInv (s.raceReport die hash desc p) := by
  unfold State.raceReport
  grind [MemoryInv, setDie_mem, memoryInv_put, memoryInv_beforeWrite]

theorem memoryInv_load1 {s : State} (h : MemoryInv s) (q : Queued) (c : Checked) (f : Nat × Folding × Nat) :
    MemoryInv (s.load1 q c f) := by
  unfold State.load1
  grind [MemoryInv, mem_unload, memoryInv_raceReport, memoryInv_foldl]

theorem memoryInv_failOpening {s : State} (h : MemoryInv s) (o : Opening) (st : BitVec 8) : MemoryInv (s.failOpening o st) := by
  unfold State.failOpening
  grind [MemoryInv, ends_engRead, memoryInv_engPut, mem_answerCall, mem_dropOpening, ends_ok]

@[simp] theorem mem_modJob (s : State) (id : Nat) (f : Job → Job) : (s.modJob id f).mem = s.mem := by
  unfold State.modJob
  grind

@[simp] theorem mem_modQp (s : State) (n : Nat) (f : Qp → Qp) : (s.modQp n f).mem = s.mem := rfl
@[simp] theorem mem_modPort (s : State) (n : Nat) (f : Port → Port) : (s.modPort n f).mem = s.mem := rfl

@[simp] theorem mem_report (s : State) (qp : Nat) (hostTag : Half) (hash : Word) (st : BitVec 8) (lowest units : Nat) :
    (s.report qp hostTag hash st lowest units).mem = s.mem := rfl

@[simp] theorem mem_endStream (s : State) (port : Nat) (st : BitVec 8) : (s.endStream port st).mem = s.mem := by
  unfold State.endStream
  grind [mem_modPort, mem_report]

theorem memoryInv_refuse {s : State} (h : MemoryInv s) (q : Queued) (st : Status) (all : Bool) : MemoryInv
    (s.refuse q st all) := by
  unfold State.refuse
  grind [MemoryInv, memoryInv_failOpening, mem_modJob, mem_endStream]

theorem keeps_execConfigPlace (s : State) : Keeps s (execConfigPlace s) := by
  unfold execConfigPlace
  grind [MemoryInv, memoryInv_load1, memoryInv_refuse, keeps_next]

theorem keeps_execConfigRetry (s : State) : Keeps s (execConfigRetry s) := by
  unfold execConfigRetry
  intro h
  cases e : s.queueOrder.findSome? _ with
  | none => exact h
  | some t => 
    refine memoryInv_findSome? (fun q u hu => ?_) e
    split at hu
    · cases hu
    · split at hu
      · cases hu
        exact memoryInv_refuse h _ _ _
      · obtain ⟨f, -, rfl⟩ := Option.map_eq_some_iff.mp hu
        exact memoryInv_load1 h _ _ _

theorem keeps_execRegionLoad (s : State) : Keeps s (execRegionLoad s) := by
  unfold execRegionLoad
  grind [MemoryInv, mem_setRegion, keeps_next]

theorem keeps_execScrub (corrected : Nat) (s : State) : Keeps s (execScrub corrected s) := by
  unfold execScrub
  grind [MemoryInv, modDie_mem, keeps_next]

theorem keeps_execUncorrectableError (s : State) : Keeps s (execUncorrectableError s) := by
  unfold execUncorrectableError
  grind [MemoryInv, mem_modRegion, keeps_next]

@[simp] theorem mem_endAll (s : State) (rgn cause : Nat) : (s.endAll rgn cause).mem = s.mem := by
  unfold State.endAll
  grind [mem_fabTrap, mem_foldl]

@[simp] theorem mem_reloadFailed (s : State) (r : Region) : (s.reloadFailed r).mem = s.mem := by
  unfold State.reloadFailed
  grind [mem_modRegion, mem_endAll]

theorem keeps_execConfigReload (error : Bool) (s : State) : Keeps s (execConfigReload error s) := by
  unfold execConfigReload
  grind [MemoryInv, mem_modRegion, mem_setRegion, mem_reloadFailed, keeps_next]

end Sys2Proof.Machine
end

section
/-! PROOFS. Memory stays canonical: control words, subscriptions, the managed heap and launching. -/

namespace Sys2Proof.Machine

/-! ### Scalar control words (R134 to R150) -/

theorem keeps_execLpad (_k : BitVec 4) (s : State) : Keeps s (execLpad _k s) := by
  unfold execLpad
  grind [MemoryInv, retire_mem, keeps_next]

theorem keeps_execTagp (rd rs1 ek : BitVec 5) (s : State) : Keeps s (execTagp rd rs1 ek s) := by
  unfold execTagp
  grind [MemoryInv, setX_mem, retire_mem, keeps_next]

theorem keeps_execTagx (rd rs1 : BitVec 5) (s : State) : Keeps s (execTagx rd rs1 s) := by
  unfold execTagx
  grind [MemoryInv, setX_mem, retire_mem, keeps_next]

@[simp] theorem mem_reserveGang (s : State) (n : Nat) : (s.reserveGang n).mem = s.mem := by
  unfold State.reserveGang
  grind [modSlot_mem, mem_foldl]

@[simp] theorem mem_formGang (s : State) (rd : BitVec 5) (n : Nat) : (s.formGang rd n).mem = s.mem := by
  unfold State.formGang
  grind [modSlot_mem, modMe_mem, mem_finish, mem_foldl]

theorem keeps_execFuse (rd n : BitVec 5) (s : State) : Keeps s (execFuse rd n s) := by
  unfold execFuse
  grind [MemoryInv, mem_finish, mem_waitFor, mem_reserveGang, mem_formGang, keeps_next]

theorem keeps_execSplit (s : State) : Keeps s (execSplit s) := by
  unfold execSplit
  grind [MemoryInv, modMe_mem, retire_mem, keeps_next]

theorem keeps_execRecv (rd : BitVec 4) (s : State) : Keeps s (execRecv rd s) := by
  unfold execRecv
  simp only [bind, Except.bind]
  grind [MemoryInv, modMe_mem, setX_mem, retire_mem, mem_waitFor, ends_syncGate, ends_ok, ends_error, keeps_done_iff,
    memoryInv_state]

theorem keeps_execPeek (rd : BitVec 4) (s : State) : Keeps s (execPeek rd s) := by
  unfold execPeek
  grind [MemoryInv, setX_mem, retire_mem, keeps_next]

theorem keeps_execWfm (rd : BitVec 5) (s : State) : Keeps s (execWfm rd s) := by
  unfold execWfm
  grind [MemoryInv, mem_finish, mem_waitFor, keeps_next]

theorem keeps_execUiret (s : State) : Keeps s (execUiret s) := by
  unfold execUiret
  grind [MemoryInv, modMe_mem, ends_transfer, State.raise, mem_trap, ends_error, keeps_done_iff, memoryInv_state]

theorem keeps_execEmulationEntry (word : Word) (len : Nat) (s : State) : Keeps s (execEmulationEntry word len s) := by
  unfold execEmulationEntry
  simp only [bind, Except.bind]
  grind [MemoryInv, modMe_mem, ends_checkPad, State.raise, mem_trap, ends_ok, ends_error, keeps_done_iff, memoryInv_state]

theorem keeps_execYield (s : State) : Keeps s (execYield s) := by
  unfold execYield
  grind [MemoryInv, modCore_mem, modMe_mem, retire_mem, keeps_next]

theorem keeps_execPrio (rs1 : BitVec 5) (s : State) : Keeps s (execPrio rs1 s) := by
  unfold execPrio
  grind [MemoryInv, modMe_mem, retire_mem, keeps_next]

theorem keeps_execCbld (bank : BitVec 2) (rs1 : BitVec 5) (s : State) : Keeps s (execCbld bank rs1 s) := by
  unfold execCbld
  simp only [bind, Except.bind]
  grind [MemoryInv, modMe_mem, retire_mem, ends_loads, State.raise, mem_trap, ends_ok, ends_error, keeps_done_iff,
    memoryInv_state]

/-! ### The fetch (R58, R69, R70) -/

theorem memoryInv_fetchInstr {s : State} (h : MemoryInv s) (loc : Nat) : MemoryInv (s.fetchInstr loc).1 := by
  unfold State.fetchInstr
  grind [memoryInv_fetch]

/-! ### Between the instructions of a thread (R146, R369) -/

theorem keeps_execTrapEntry (loc cause : Nat) (tval : Word) (s : State) : Keeps s (execTrapEntry loc cause tval s) := by
  unfold execTrapEntry
  grind [MemoryInv, mem_trap, keeps_next]

@[simp] theorem mem_interrupt (s : State) (loc code : Nat) (tval : Word) : (s.interrupt loc code tval).mem = s.mem := by
  unfold State.interrupt
  grind [mem_trap]

theorem memoryInv_deliver {s : State} (h : MemoryInv s) (codes : List Nat) : MemoryInv (s.deliver codes) := by
  unfold State.deliver
  grind [MemoryInv, mem_interrupt]

theorem memoryInv_raised {s : State} (h : MemoryInv s) (code : Nat) : MemoryInv (s.raised code) := by
  unfold State.raised
  grind [MemoryInv, modMe_mem]

theorem keeps_execTimerInterrupt (s : State) : Keeps s (execTimerInterrupt s) := by
  unfold execTimerInterrupt
  grind [memoryInv_deliver, memoryInv_raised, keeps_next]

theorem keeps_execExternalInterrupt (s : State) : Keeps s (execExternalInterrupt s) := by
  unfold execExternalInterrupt
  grind [memoryInv_deliver, memoryInv_raised, keeps_next]

theorem keeps_execFabricTrapDelivery (s : State) : Keeps s (execFabricTrapDelivery s) := by
  unfold execFabricTrapDelivery
  grind [MemoryInv, modDie_mem, mem_interrupt, keeps_next]

theorem memoryInv_userInterrupt {s : State} (h : MemoryInv s) (loc : Nat) : MemoryInv (s.userInterrupt loc) := by
  unfold State.userInterrupt
  grind [MemoryInv, modSlot_mem, mem_dropWait, mem_trap, memoryInv_padAt, memoryInv_foldl]

theorem keeps_execUserInterruptDelivery (s : State) : Keeps s (execUserInterruptDelivery s) := by
  unfold execUserInterruptDelivery
  grind [memoryInv_userInterrupt, keeps_next]

theorem keeps_execThreadAged (s : State) : Keeps s (execThreadAged s) := by
  unfold execThreadAged
  grind [MemoryInv, modMe_mem, keeps_next]

@[simp] theorem mem_deliverMsg (s : State) (t : Tid) (m : Msg) : (s.deliverMsg t m).mem = s.mem := by
  unfold State.deliverMsg
  grind [modSlot_mem]

theorem keeps_execInboxMessageArrival (s : State) : Keeps s (execInboxMessageArrival s) := by
  unfold execInboxMessageArrival
  grind [MemoryInv, mem_deliverMsg, keeps_next]

/-! ### Scratchpad subscription (R295 to R311) -/

theorem keeps_execSubAdd (r : F5) (s : State) : Keeps s (execSubAdd r s) := by
  unfold execSubAdd
  refine keeps_done fun h => ends_bind (ends_syncGate h) fun s1 h1 => ?_
  split
  · exact h1
  · refine ends_bind (ends_reserve h1 _ _) fun s2 h2 => ends_bind (ends_readBlock h2 _ _) fun q h3 => ?_
    obtain ⟨s3, b⟩ := q
    dsimp only
    split
    · exact h3
    · split
      · exact h3
      · exact h3

@[simp] theorem mem_subEnd (s : State) (c e : Nat) (b : Sub) : (s.subEnd c e b).mem = s.mem := rfl

theorem keeps_execSubDrop (xd xe : BitVec 5) (s : State) : Keeps s (execSubDrop xd xe s) := by
  unfold execSubDrop
  grind [MemoryInv, mem_finish, mem_waitFor, mem_subEnd, keeps_next]

theorem keeps_execSubFlush (xd : BitVec 5) (s : State) : Keeps s (execSubFlush xd s) := by
  unfold execSubFlush
  refine keeps_done fun h => ends_bind (ends_syncGate h) fun d hd => ?_
  have h1 : MemoryInv ((d.settleFar s.cur).serveReady s.cur) := memoryInv_serveReady (memoryInv_of_mem hd (mem_settleFar ..)) _
  extract_lets s1 s2 s3 wait
  have h2 : MemoryInv s2 := memoryInv_releaseSubs h1 _ _
  have h3 : MemoryInv s3 := by
    unfold s3
    split
    · exact h2
    · exact memoryInv_of_mem h2 (mem_releaseFar ..)
  have hw (t : State) (ht : MemoryInv t) : Ends MemoryInv MemoryInv (wait t) := memoryInv_of_mem ht (mem_waitFor ..)
  split
  · exact memoryInv_of_mem h1 (mem_raiseDeferred ..)
  · split
    · exact hw s2 h2
    · split
      · next e => exact memoryInv_of_mem (memoryInv_farReleased h3 _ e) (mem_finish ..)
      · exact hw s3 h3

theorem keeps_execSubStat (xd xe : BitVec 5) (s : State) : Keeps s (execSubStat xd xe s) := by
  unfold execSubStat
  grind [MemoryInv, setX_mem, retire_mem, keeps_next]

theorem ends_storeQuads {s : State} (h : MemoryInv s) (a : Word) (vs : List (BitVec 128)) :
    Ends MemoryInv MemoryInv (s.storeQuads a vs) := by
  induction vs generalizing s a with
  | nil => exact h
  | cons v r ih =>
    exact ends_bind (ends_protect h _ _ _) fun s1 h1 => ends_bind (ends_storePlain h1 _ _ _ _) fun s2 h2 =>
      ends_bind (ends_protect h2 _ _ _) fun s3 h3 => ends_bind (ends_storePlain h3 _ _ _ _) fun s4 h4 => ih h4 _

theorem keeps_execRaceRd (r : F5) (s : State) : Keeps s (execRaceRd r s) := by
  unfold execRaceRd
  simp only [bind, Except.bind]
  grind [MemoryInv, setX_mem, retire_mem, ends_storeQuads, ends_ok, keeps_next, keeps_done_iff, memoryInv_state]

theorem keeps_execSubSyncCopy (s : State) : Keeps s (execSubSyncCopy s) := by
  unfold execSubSyncCopy
  grind [memoryInv_syncCopy, keeps_next]

theorem keeps_execPacketFlush (s : State) : Keeps s (execPacketFlush s) := by
  unfold execPacketFlush
  grind [MemoryInv, mem_putSub, keeps_next]

theorem keeps_execPacketTimerExpiry (s : State) : Keeps s (execPacketTimerExpiry s) := by
  unfold execPacketTimerExpiry
  grind [MemoryInv, mem_putSub, keeps_next]

theorem keeps_execPacketApply (s : State) : Keeps s (execPacketApply s) := by
  unfold execPacketApply
  grind [MemoryInv, mem_setSub, memoryInv_applyPacket, keeps_next]

theorem keeps_execSubDrained (s : State) : Keeps s (execSubDrained s) := by
  unfold execSubDrained
  grind [MemoryInv, modCore_mem, keeps_next]

theorem memoryInv_farPut {s : State} (h : MemoryInv s) (a : FarAccess) (kind : Nat) (p : Place) (bs : List Byte) :
    MemoryInv (s.farPut a kind p bs) := by
  unfold State.farPut
  grind [MemoryInv, memoryInv_put]

@[simp] theorem mem_farReserve (s : State) (a : FarAccess) (b : Option Nat) : (s.farReserve a b).mem = s.mem := rfl

theorem memoryInv_farServe {s : State} (h : MemoryInv s) (a : FarAccess) (p : Place) : MemoryInv (s.farServe a p).1 := by
  unfold State.farServe
  grind [MemoryInv, memoryInv_flushSubs, memoryInv_farPut, mem_farReserve]

theorem memoryInv_serveFar {s : State} (h : MemoryInv s) (a : FarAccess) : MemoryInv (s.serveFar a) := by
  unfold State.serveFar
  grind [MemoryInv, memoryInv_farServe]

@[simp] theorem mem_spimgDone (s : State) (core : Nat) : (s.spimgDone core).mem = s.mem := by
  unfold State.spimgDone
  grind [setCore_mem, mem_expire]

theorem memoryInv_spimgCopy {s : State} (h : MemoryInv s) (src dst : Nat) (p : Place) : MemoryInv (s.spimgCopy src dst p) :=
  memoryInv_of_mem (s := { s with mem := s.mem.copyRange src dst (2 ^ 20) }) (wf_copyRange _ _ _ _ h) (mem_breakResv ..)

theorem keeps_execSpimgSave (s : State) : Keeps s (execSpimgSave s) := by
  unfold execSpimgSave
  grind [MemoryInv, setCore_mem, mem_spimgDone, memoryInv_spimgCopy, keeps_next]

theorem keeps_execSpimgRestore (s : State) : Keeps s (execSpimgRestore s) := by
  unfold execSpimgRestore
  grind [MemoryInv, setCore_mem, mem_spimgDone, memoryInv_spimgCopy, keeps_next]

/-! ### Calls between the encodings (R28 to R35, R136 to R138) -/

@[simp] theorem mem_wake (s : State) (o : Opening) (code : Word) : (s.wake o code).mem = s.mem := by
  unfold State.wake
  split <;> rfl

theorem ends_callGraph {s : State} (h : MemoryInv s) (rd : BitVec 5) (p : Word) (tag : Half) :
    Ends MemoryInv MemoryInv (s.callGraph rd p tag) := by
  unfold State.callGraph
  extract_lets a read
  have hread {u : State} (hu : MemoryInv u) : Ends (fun q => MemoryInv q.1) MemoryInv (read u) := by
    unfold read
    split
    · exact hu
    · split
      · exact ends_raise hu _ _
      · refine ends_bind (ends_load hu _ _ _ _) fun q hq => ?_
        obtain ⟨u1, m⟩ := q
        dsimp only
        split
        · exact ends_raise hq _ _
        · exact ends_loadBlock hq _ _
  refine ends_bind (ends_awaitRefs h) fun s0 h0 => ?_
  split
  · exact memoryInv_of_mem h0 (mem_raiseDeferred ..)
  · refine ends_bind (ends_awaitReleases h0) fun _ _ => ends_bind (hread h0) fun q hq => ?_
    obtain ⟨s2, d⟩ := q
    refine ends_bind (ends_reserve hq _ _) fun s3 h3 => ?_
    dsimp only
    split
    · exact ends_reserved (ends_raise h3 _ _)
    · have h4 := memoryInv_engPut h3 (s3.viewOf s.cur)
      refine ends_bind (ends_reserved (ends_release
        (memoryInv_engPut h3 _ _ _ _) _)) fun s5 h5 => ?_
      exact memoryInv_of_mem h5 rfl

theorem keeps_execCallt (rd rs1 rs2 : BitVec 5) (s : State) : Keeps s (execCallt rd rs1 rs2 s) := by
  unfold execCallt
  simp only [bind, Except.bind]
  grind [MemoryInv, setX_mem, jump_mem, ends_syncGate, ends_checkPad, ends_callGraph, State.raise, mem_trap, ends_ok,
    ends_error, keeps_done_iff, memoryInv_state]

theorem ends_copyResults {s : State} (h : MemoryInv s) (f : Word) (mask : BitVec 8) :
    Ends MemoryInv (fun _ => True) (s.copyResults f mask) := by
  unfold State.copyResults
  extract_lets v one s1 s2 s3 s4 s5
  have hone (k off n : Nat) (w : Slot → Nat → Slot) {t : Except (Word × Nat) State} (ht : Ends MemoryInv (fun _ => True) t) :
      Ends MemoryInv (fun _ => True) (one k off n w t) := by
    unfold one
    split
    · exact ht
    · split
      · trivial
      · exact ends_map (ends_engBytes ht _ _ _) fun q hq => memoryInv_of_mem hq (modMe_mem ..)
  clear_value one
  have h0 : Ends MemoryInv (fun _ : Word × Nat => True) (.ok s) := h
  have h1 : Ends MemoryInv (fun _ => True) s1 := hone _ _ _ _ h0
  have h2 : Ends MemoryInv (fun _ => True) s2 := hone _ _ _ _ h1
  have h3 : Ends MemoryInv (fun _ => True) s3 := hone _ _ _ _ h2
  have h4 : Ends MemoryInv (fun _ => True) s4 := hone _ _ _ _ h3
  have h5 : Ends MemoryInv (fun _ => True) s5 := hone _ _ _ _ h4
  exact hone _ _ _ _ h5

theorem keeps_execCalltReturn (s : State) : Keeps s (execCalltReturn s) := by
  unfold execCalltReturn
  grind [MemoryInv, modMe_mem, setX_mem, retire_mem, mem_trap, ends_copyResults, ends_ok, keeps_next]

theorem keeps_execGraphCallTimeout (s : State) : Keeps s (execGraphCallTimeout s) := by
  unfold execGraphCallTimeout
  grind [MemoryInv, modMe_mem, mem_trap, keeps_next]

@[simp] theorem mem_leave (s : State) (loc : Nat) : (s.leave loc).mem = s.mem := by
  unfold State.leave
  grind [mem_dropGroups, mem_subEnd, mem_foldl]

theorem keeps_execRett (s : State) : Keeps s (execRett s) := by
  unfold execRett
  simp only [bind, Except.bind]
  grind [MemoryInv, modMe_mem, ends_release, mem_answerCall, mem_leave, State.raise, mem_trap, ends_ok, ends_error,
    keeps_done_iff, memoryInv_state]

theorem memoryInv_callFromNode {s : State} (h : MemoryInv s) (f : Fire) (tag : BitVec 15) (heads : List (Nat × Token)) :
    MemoryInv (s.callFromNode f tag heads) := by
  unfold State.callFromNode
  grind [MemoryInv, ends_engRead, memoryInv_engPut, mem_fire_put, mem_nodeFault, mem_wake, ends_ok]

theorem keeps_execCallNodeFire (s : State) : Keeps s (execCallNodeFire s) := by
  refine keeps_atNode 9 fun f t e h => ?_
  split at e
  · extract_lets ins heads at e
    clear_value heads
    split at e
    · cases e
    · split at e
      · cases e
      · split at e
        · rw [← Option.some.inj e]
          exact h
        · split at e
          · rw [← Option.some.inj e]
            exact memoryInv_of_mem h (mem_fabTrap ..)
          · split at e
            · rw [← Option.some.inj e]
              exact memoryInv_callFromNode h _ _ _
            · split at e
              · rw [← Option.some.inj e]
                exact h
              · split at e
                · rw [← Option.some.inj e]
                  exact memoryInv_of_mem h (modSlot_mem ..)
                · split at e
                  · cases e
                  · rw [← Option.some.inj e]
                    exact h
  · cases e

theorem memoryInv_spilledReturn {s : State} (h : MemoryInv s) (r : Region) (p : Spill) (st : BitVec 8) :
    MemoryInv (s.spilledReturn r p st) := by
  unfold State.spilledReturn
  grind [MemoryInv, mem_setRegion, memoryInv_frameReturn, ends_spill, memoryInv_restore, ends_ok, ends_error]

theorem keeps_execCallNodeReturn (s : State) : Keeps s (execCallNodeReturn s) := by
  unfold execCallNodeReturn
  grind [MemoryInv, keeps_atNode, mem_fire_put, mem_fabTrap, memoryInv_spilledReturn, keeps_next]

theorem memoryInv_callIn_entered {s : State} (h : MemoryInv s) (c : CallIn) : MemoryInv (c.entered s) := by
  unfold CallIn.entered
  grind [MemoryInv, mem_setRegion, memoryInv_releaseFrame]

theorem keeps_execCallbackEntry (s : State) : Keeps s (execCallbackEntry s) := by
  unfold execCallbackEntry
  grind [MemoryInv, modSlot_mem, memoryInv_callIn_entered, keeps_next]

theorem keeps_execCallbackPoolAssign (s : State) : Keeps s (execCallbackPoolAssign s) := by
  unfold execCallbackPoolAssign
  grind [MemoryInv, modSlot_mem, memoryInv_callIn_entered, keeps_next]

theorem keeps_execPoolTimeout (s : State) : Keeps s (execPoolTimeout s) := by
  unfold execPoolTimeout
  grind [MemoryInv, mem_fabTrap, keeps_next]

/-! ### References (R268 to R292) -/

theorem ends_refPage {s : State} (h : MemoryInv s) (k : AK) (a : Word) : Ends (fun p => MemoryInv p.1) MemoryInv
    (s.refPage k a) := by
  unfold State.refPage
  simp only [Except.map]
  grind [MemoryInv, mem_plbEntry, ends_ask, State.raise, mem_trap, ends_ok, ends_error]

theorem ends_resolve {s : State} (h : MemoryInv s) (k : AK) (hs : BitVec 4) (e : Plb) :
    Ends (fun p => MemoryInv p.1) MemoryInv (s.resolve k hs e) := by
  unfold State.resolve
  simp only [bind, Except.bind]
  grind [MemoryInv, setH_mem, ends_refPage, State.raise, mem_trap, ends_ok, ends_error]

theorem ends_field {s : State} (h : MemoryInv s) (k : AK) (hs : BitVec 4) (xo : BitVec 5) (w : Nat) :
    Ends (fun p => MemoryInv p.1) MemoryInv (s.field k hs xo w) := by
  unfold State.field
  dsimp only
  split
  · exact ends_raise h _ _
  · split
    · exact ends_raise h _ _
    · refine ends_bind (ends_refPage (memoryInv_drain h _) _ _) fun q h1 => ?_
      obtain ⟨s1, q⟩ := q
      dsimp only
      split
      · exact ends_raise h1 _ _
      · split
        · exact ends_raise h1 _ _
        · refine ends_bind (ends_resolve h1 _ _ _) fun p h2 => ?_
          obtain ⟨s2, e2, a, transit⟩ := p
          dsimp only
          split
          · exact ends_raise h2 _ _
          · split
            · exact h2
            · refine ends_bind (ends_refPage h2 _ _) fun q3 h3 => ?_
              obtain ⟨s3, q3⟩ := q3
              dsimp only
              split
              · split
                · exact h3
                · exact ends_raise h3 _ _
              · exact ends_raise h3 _ _

theorem memoryInv_refWrite {s : State} (h : MemoryInv s) (e : Plb) (a : Word) (n v kind : Nat) :
    MemoryInv (s.refWrite e a n v kind) := by
  unfold State.refWrite
  grind [memoryInv_writeAt]

theorem ends_refLoad {s : State} (h : MemoryInv s) (hs : BitVec 4) (xo : BitVec 5) (w : Nat) :
    Ends (fun p => MemoryInv p.1) MemoryInv (s.refLoad hs xo w) := by
  unfold State.refLoad
  simp only [bind, Except.bind]
  grind [MemoryInv, mem_raiseDeferred, mem_waitOpen, ends_field, ends_ok, ends_error]

theorem ends_refStore {s : State} (h : MemoryInv s) (hs : BitVec 4) (xo : BitVec 5) (w : Nat) (v : Word) :
    Ends MemoryInv MemoryInv (s.refStore hs xo w v) := by
  unfold State.refStore
  simp only [bind, Except.bind]
  grind [MemoryInv, modMe_mem, mem_raiseDeferred, mem_nextSeq, ends_field, memoryInv_refWrite, ends_ok, ends_error]

theorem keeps_execRefLd (ty : ElTy) (xd : BitVec 5) (hs : BitVec 4) (xo : BitVec 5) (s : State) :
    Keeps s (execRefLd ty xd hs xo s) := by
  unfold execRefLd
  simp only [bind, Except.bind]
  grind [MemoryInv, setX_mem, retire_mem, ends_refLoad, ends_ok, ends_error, keeps_done_iff, memoryInv_state]

theorem keeps_execRefSt (ty : ElTy) (xv : BitVec 5) (hs : BitVec 4) (xo : BitVec 5) (s : State) :
    Keeps s (execRefSt ty xv hs xo s) := by
  unfold execRefSt
  simp only [bind, Except.bind]
  grind [MemoryInv, retire_mem, ends_refStore, ends_ok, keeps_done_iff, memoryInv_state]

theorem keeps_execRefLdf (hd hs : BitVec 4) (xo : BitVec 5) (s : State) : Keeps s (execRefLdf hd hs xo s) := by
  unfold execRefLdf
  simp only [bind, Except.bind]
  grind [MemoryInv, setH_mem, retire_mem, memoryInv_refWrite, ends_refLoad, State.raise, mem_trap, ends_ok, ends_error,
    keeps_done_iff, memoryInv_state]

theorem keeps_execRefStf (hv hs : BitVec 4) (xo : BitVec 5) (s : State) : Keeps s (execRefStf hv hs xo s) := by
  unfold execRefStf
  simp only [bind, Except.bind]
  grind [MemoryInv, setH_mem, retire_mem, ends_refStore, ends_ok, keeps_done_iff, memoryInv_state]

@[simp] theorem mem_allocFail (s : State) (hd : BitVec 4) (xs : BitVec 5) (st : Status) :
    (s.allocFail hd xs st).mem = s.mem := rfl

theorem ends_popChunk {s : State} (h : MemoryInv s) : Ends (fun p => MemoryInv p.1) MemoryInv s.popChunk := by
  unfold State.popChunk
  refine ends_reserved (ends_bind (ends_release h _) fun s0 h0 => ends_bind (ends_load h0 _ _ _ _) fun q h1 => ?_)
  obtain ⟨s1, k⟩ := q
  dsimp only
  split
  · exact h1
  · exact ends_bind (ends_load h1 _ _ _ _) fun p h2 => ends_bind (ends_load h2 _ _ _ _) fun p h3 =>
      ends_bind (ends_atomic h3 _ _ _ _ _) fun p h4 => h4

@[simp] theorem mem_postRefill (s : State) (st : Status) (v : Nat) : (s.postRefill st v).mem = s.mem := rfl

theorem ends_arenaRoom {s : State} (h : MemoryInv s) (hd : BitVec 4) (xs : BitVec 5) (f : Nat) :
    Ends MemoryInv MemoryInv (s.arenaRoom hd xs f) := by
  unfold State.arenaRoom
  simp only [bind, Except.bind]
  grind [MemoryInv, modMe_mem, ends_reserve, mem_allocFail, ends_popChunk, mem_postRefill, ends_ok, ends_error]

theorem ends_allocPages {s : State} (h : MemoryInv s) (a : Word) (n : Nat) :
    Ends (fun p => MemoryInv p.1) MemoryInv (s.allocPages a n) := by
  induction n generalizing s a with
  | zero => exact h
  | succ n ih =>
    rw [State.allocPages]
    split
    · exact ends_raise h _ _
    · exact ends_bind (ends_refPage h _ _) fun p hp => ends_bind (ih hp _) fun q hq => hq

theorem memoryInv_allocWrite {s : State} (h : MemoryInv s) (ps : List (Word × Option Plb)) (bs : List Byte) :
    MemoryInv (s.allocWrite ps bs) := by
  fun_induction State.allocWrite <;> grind [memoryInv_put, memoryInv_beforeWrite]

theorem ends_farLines {s : State} (h : MemoryInv s) (a : Word) (bs : List Byte) (n : Nat) :
    Ends MemoryInv MemoryInv (s.farLines a bs n) := by
  induction n generalizing s a bs with
  | zero => exact h
  | succ n ih =>
    unfold State.farLines
    split
    · exact h
    · exact ends_bind (ends_ask h _ _ _ _ _) fun r hr => ih hr _ _

theorem ends_allocFar {s : State} (h : MemoryInv s) (ps : List (Word × Option Plb)) (bs : List Byte) :
    Ends MemoryInv MemoryInv (s.allocFar ps bs) := by
  induction ps generalizing s bs with
  | nil => exact h
  | cons p ps ih =>
    rw [State.allocFar]
    split
    · exact ends_bind (ends_farLines h _ _ _) fun s1 h1 => ih h1 _
    · exact ih h _

theorem keeps_execRefAlloc (hd : BitVec 4) (xn xt xs : BitVec 5) (s : State) : Keeps s (execRefAlloc hd xn xt xs s) := by
  unfold execRefAlloc
  simp only [bind, Except.bind]
  grind [MemoryInv, modMe_mem, setH_mem, mem_finish, memoryInv_drain, mem_allocFail, ends_arenaRoom, ends_allocPages,
    memoryInv_allocWrite, ends_allocFar, State.raise, mem_trap, ends_ok, ends_error, keeps_done_iff, memoryInv_state]

theorem ends_pinHeader {s : State} (h : MemoryInv s) (hs : BitVec 4) : Ends (fun p => MemoryInv p.1) MemoryInv
    (s.pinHeader hs) := by
  unfold State.pinHeader
  simp only [bind, Except.bind]
  grind [MemoryInv, mem_waitOpen, memoryInv_drain, ends_refPage, ends_resolve, State.raise, mem_trap, ends_ok, ends_error]

theorem memoryInv_setPin {s : State} (h : MemoryInv s) (e : Plb) (a : Word) (n : Nat) : MemoryInv (s.setPin e a n) := by
  unfold State.setPin
  grind [memoryInv_refWrite]

theorem keeps_execRefPin (xd : BitVec 5) (hs : BitVec 4) (xs : BitVec 5) (s : State) : Keeps s (execRefPin xd hs xs s) := by
  unfold execRefPin
  simp only [bind, Except.bind]
  grind [MemoryInv, setDie_mem, setX_mem, mem_finish, mem_waitFor, ends_pinHeader, memoryInv_setPin, ends_ok, ends_error,
    keeps_done_iff, memoryInv_state]

theorem keeps_execRefUnpin (xs : BitVec 5) (hs : BitVec 4) (s : State) : Keeps s (execRefUnpin xs hs s) := by
  unfold execRefUnpin
  simp only [bind, Except.bind]
  grind [MemoryInv, modDie_mem, mem_finish, ends_pinHeader, memoryInv_setPin, ends_ok, ends_error, keeps_done_iff,
    memoryInv_state]

theorem keeps_execPinWaitTimeout (s : State) : Keeps s (execPinWaitTimeout s) := by
  unfold execPinWaitTimeout
  grind [MemoryInv, mem_expire, keeps_next]

@[simp] theorem mem_resolveEq (s : State) (h : BitVec 4) : (s.resolveEq h).mem = s.mem := by
  unfold State.resolveEq
  grind [setH_mem]

theorem keeps_execRefEq (xd : BitVec 5) (ha hb : BitVec 4) (s : State) : Keeps s (execRefEq xd ha hb s) := by
  unfold execRefEq
  grind [MemoryInv, setX_mem, retire_mem, mem_resolveEq, keeps_next]

theorem keeps_execRefMov (toX : Bool) (d : BitVec 5) (hs : BitVec 4) (s : State) : Keeps s (execRefMov toX d hs s) := by
  unfold execRefMov
  grind [MemoryInv, setX_mem, setH_mem, retire_mem, keeps_next]

theorem keeps_execRefNull (hd : BitVec 4) (s : State) : Keeps s (execRefNull hd s) := by
  unfold execRefNull
  grind [MemoryInv, setH_mem, retire_mem, keeps_next]

theorem keeps_execRefChk (hd : BitVec 4) (xv xs xi : BitVec 5) (s : State) : Keeps s (execRefChk hd xv xs xi s) := by
  unfold execRefChk
  grind [MemoryInv, setX_mem, setH_mem, retire_mem, memoryInv_drain, keeps_next]

theorem memoryInv_serveAway {s : State} (h : MemoryInv s) (a : Away) : MemoryInv (s.serveAway a) := by
  unfold State.serveAway
  grind [MemoryInv, memoryInv_serveList]

theorem memoryInv_serveRefs {s : State} (h : MemoryInv s) (old : Nat) (new : Word) : MemoryInv (s.serveRefs old new) := by
  unfold State.serveRefs
  grind [MemoryInv, memoryInv_serveReady, memoryInv_serveAway, memoryInv_foldl]

/-! ### The Kilns (R278 to R281, R293, R294) -/

@[simp] theorem mem_setKiln (s : State) (die i : Nat) (k : Kiln) : (s.setKiln die i k).mem = s.mem := by
  unfold State.setKiln
  grind [modDie_mem]

theorem keeps_execKilnGo (r : F5) (s : State) : Keeps s (execKilnGo r s) := by
  unfold execKilnGo
  refine keeps_done fun h => ends_bind (ends_beginCommand h _ _) fun s1 h1 => ends_bind (ends_readBlock h1 _ _) fun q h2 => ?_
  obtain ⟨s2, b⟩ := q
  dsimp only
  split
  · exact memoryInv_of_mem h2 (mem_refuseCommand ..)
  · split
    · exact memoryInv_of_mem h2 (mem_waitFor ..)
    · exact ends_bind (ends_reserved (ends_release h2 _)) fun s3 h3 =>
        memoryInv_of_mem h3 ((mem_finish ..).trans (mem_setKiln ..))

theorem keeps_execKilnStat (xd xk : BitVec 5) (s : State) : Keeps s (execKilnStat xd xk s) := by
  unfold execKilnStat
  grind [MemoryInv, setX_mem, retire_mem, keeps_next]

theorem memoryInv_kilnWrite {s : State} (h : MemoryInv s) (k : Kiln) (a : Word) (v : Nat) {u : State}
    (e : s.kilnWrite k a v = some u) :
    MemoryInv u := by
  unfold State.kilnWrite at e
  grind [memoryInv_putNat, memoryInv_beforeWrite, Option.map_eq_some_iff]

theorem memoryInv_kilnCopy {s : State} (h : MemoryInv s) (k : Kiln) (src dst : Word) (n n1 : Nat) {u : State}
    (e : s.kilnCopy k src dst n n1 = some u) :
    MemoryInv u := by
  fun_induction State.kilnCopy <;> grind [memoryInv_kilnWrite]

theorem memoryInv_regionEntry {s : State} (h : MemoryInv s) (k : Kiln) (j : Nat) {y} (e : s.regionEntry k j = some y) :
    MemoryInv y.1 := by
  have h1 := ends_engRead h (s.kilnView k) (k.list + BitVec.ofNat 64 (16 * j)) 8 false
  simp only [State.regionEntry] at e
  split at e
  · cases e
  · next s1 b he =>
    rw [he] at h1
    have h2 := ends_engRead h1 (s1.kilnView k) (k.list + BitVec.ofNat 64 (16 * j) + 8) 8 false
    split at e
    · cases e
    · next he2 =>
      rw [he2] at h2
      cases e
      exact h2

theorem memoryInv_regionsStatus {s : State} (h : MemoryInv s) (k : Kiln) (n n1 : Nat) : MemoryInv (s.regionsStatus k n n1).1 := by
  fun_induction State.regionsStatus <;> grind [memoryInv_regionEntry]

theorem ends_nextLive {s : State} (h : MemoryInv s) (k : Kiln) (bitBase n n1 : Nat) :
    Ends (fun p => MemoryInv p.1) (fun _ => True) (s.nextLive k bitBase n n1) := by
  fun_induction State.nextLive <;> grind [ends_engRead, ends_ok, ends_error]

theorem memoryInv_setFlags {s : State} (h : MemoryInv s) (k : Kiln) (hdr st : Nat) : MemoryInv (s.setFlags k hdr st) := by
  unfold State.setFlags
  grind [memoryInv_putNat]

theorem memoryInv_setFwd {s : State} (h : MemoryInv s) (k : Kiln) (p : Nat) (ws : List Nat) : MemoryInv (s.setFwd k p ws) := by
  unfold State.setFwd
  grind [memoryInv_put]

theorem memoryInv_kilnObject {s : State} (hm : MemoryInv s) (die i : Nat) (k : Kiln) (h : Word) :
    MemoryInv (s.kilnObject die i k h) := by
  unfold State.kilnObject
  grind [MemoryInv, memoryInv_beforeWrite, mem_setKiln, memoryInv_setFlags, memoryInv_setFwd]

theorem keeps_execKilnInstall (s : State) : Keeps s (execKilnInstall s) := by
  unfold execKilnInstall
  dsimp only
  split
  · exact id
  · split
    · exact fun h => memoryInv_of_mem (memoryInv_regionsStatus h _ _ _) (mem_setKiln ..)
    · split
      · exact fun h => memoryInv_of_mem h (mem_setKiln ..)
      · split
        · exact fun h => memoryInv_of_mem h (mem_setKiln ..)
        · next s1 base z e =>
          have h1 (h : MemoryInv s) := memoryInv_regionEntry h _ _ e
          have h2 (h : MemoryInv s) := ends_nextLive (h1 h)
          split
          · exact fun h => memoryInv_of_mem h (mem_setKiln ..)
          · next e2 => exact fun h => memoryInv_of_mem (ends_ok_of_eq (h2 h ..) e2) (mem_setKiln ..)
          · next e2 => exact fun h => memoryInv_kilnObject (ends_ok_of_eq (h2 h ..) e2) _ _ _ _

theorem memoryInv_kilnCopied {s : State} (h : MemoryInv s) (k : Kiln) (a d f : Nat) {u : State}
    (e : s.kilnCopied k a d f = some u) :
    MemoryInv u := by
  simp only [State.kilnCopied] at e
  split at e
  · cases e
  · split at e
    · cases e
    · next e1 => exact memoryInv_kilnCopy (memoryInv_kilnWrite h _ _ _ e1) _ _ _ _ _ e

theorem memoryInv_kilnLeave {s : State} (hm : MemoryInv s) (k : Kiln) (h : Nat) (moved : Option Nat) :
    MemoryInv (s.kilnLeave k h moved) := by
  unfold State.kilnLeave
  grind [memoryInv_serveRefs, memoryInv_setFlags, memoryInv_setFwd]

theorem keeps_execKilnMove (s : State) : Keeps s (execKilnMove s) := by
  unfold execKilnMove
  dsimp only
  split
  · exact id
  · split
    · exact id
    · next e => exact fun h => memoryInv_kilnLeave (memoryInv_of_mem (memoryInv_kilnCopied h _ _ _ _ e) (mem_setKiln ..)) _ _ _

theorem keeps_execKilnFault (s : State) : Keeps s (execKilnFault s) := by
  unfold execKilnFault
  grind [MemoryInv, mem_setKiln, memoryInv_kilnLeave, keeps_next]

theorem memoryInv_writeReport {s : State} (h : MemoryInv s) (k : Kiln) (st : BitVec 8) (l : List (Nat × Nat)) :
    MemoryInv (s.writeReport k st l).1 := by
  fun_induction State.writeReport <;> grind [ends_engWrite, ends_ok]

theorem keeps_execKilnReport (s : State) : Keeps s (execKilnReport s) := by
  unfold execKilnReport
  grind [MemoryInv, mem_dropAsks, mem_post, mem_setKiln, memoryInv_writeReport, keeps_next]

/-! ### Launching work (R96 to R114) -/

theorem memoryInv_gangMask {s : State} (h : MemoryInv s) (v : View) (a : Word) : MemoryInv (s.gangMask v a).1 := by
  unfold State.gangMask
  grind [ends_engBytes, ends_ok]

@[simp] theorem mem_vote (s : State) (l : Word × Word × Nat) (members : List Nat) : (s.vote l members).mem = s.mem := by
  unfold State.vote
  split <;> rfl

@[simp] theorem mem_begin1 (s : State) (j : Job) : (s.begin1 j).mem = s.mem := by
  unfold State.begin1
  grind [mem_modJob]

theorem memoryInv_keyPutBytes {s : State} (h : MemoryInv s) (qp : Nat) (key : Key) (va : Word) (l : List Byte) :
    MemoryInv (s.keyPutBytes qp key va l).1 := by
  fun_induction State.keyPutBytes <;> grind [memoryInv_put, memoryInv_beforeWrite]

theorem memoryInv_keyPieces {s : State} (h : MemoryInv s) (qp : Nat) (key : Key) (va : Word) (bs : List Byte) (n : Nat) :
    MemoryInv (s.keyPieces qp key va bs n).1 := by
  fun_induction State.keyPieces <;> grind [memoryInv_put, memoryInv_beforeWrite, memoryInv_keyPutBytes]

theorem memoryInv_keyPut {s : State} (h : MemoryInv s) (qp : Nat) (key : Key) (va : Word) (bs : List Byte) :
    MemoryInv (s.keyPut qp key va bs).1 := by
  unfold State.keyPut
  grind [memoryInv_keyPieces]

theorem memoryInv_releaseHost {s : State} (h : MemoryInv s) (qp : Nat) : MemoryInv (s.releaseHost qp) := by
  unfold State.releaseHost
  grind [memoryInv_flushSubs]

theorem memoryInv_copyArgs {s : State} (h : MemoryInv s) (qp : Nat) (a : Word) (args : List (BitVec 512)) :
    MemoryInv (s.copyArgs qp a args).1 := by
  unfold State.copyArgs
  grind [memoryInv_keyPut]

theorem memoryInv_start {s : State} (h : MemoryInv s) (id : Nat) : MemoryInv (s.start id) := by
  unfold State.start
  grind [MemoryInv, mem_modJob, mem_modPort, mem_begin1, memoryInv_releaseHost, memoryInv_copyArgs]

theorem memoryInv_submit {s : State} (h : MemoryInv s) (src : JobSrc) (l : Launch) (rights : Word) :
    MemoryInv (s.submit src l rights) := by
  unfold State.submit
  grind [MemoryInv, memoryInv_gangMask, mem_vote, memoryInv_start]

theorem memoryInv_bind1 {s : State} (h : MemoryInv s) (j : Job) (loc : Nat) : MemoryInv (s.bind1 j loc) := by
  unfold State.bind1
  grind [MemoryInv, modSlot_mem, memoryInv_padAt, mem_modJob]

theorem keeps_execDispatchBind (s : State) : Keeps s (execDispatchBind s) := by
  unfold execDispatchBind
  grind [memoryInv_bind1, keeps_next]

theorem keeps_execPoolTake (s : State) : Keeps s (execPoolTake s) := by
  unfold execPoolTake
  split
  · exact id
  · split
    · exact fun h => memoryInv_of_mem h ((mem_modJob ..).trans (modSlot_mem ..))
    · exact id

theorem memoryInv_takePools {s : State} (h : MemoryInv s) : MemoryInv s.takePools := by
  unfold State.takePools
  refine memoryInv_foldl (fun t j ht => memoryInv_foldl (fun u i hu => ?_) _ ht) _ h
  split
  · next v e =>
    have hk := keeps_execPoolTake (s := { u with sub := u.jobs.findIdx (fun x => x.id == j.id) })
    have e' : execPoolTake { u with sub := u.jobs.findIdx (fun x => x.id == j.id) } = .next v := e
    rw [e'] at hk
    exact hk hu
  · exact hu

theorem memoryInv_dispatch {s : State} (h : MemoryInv s) (n : Nat) (l : List Nat) : MemoryInv (s.dispatch n l) := by
  fun_induction State.dispatch <;> grind [memoryInv_farStep, memoryInv_bind1]

theorem keeps_execStartTickReached (s : State) : Keeps s (execStartTickReached s) := by
  unfold execStartTickReached
  grind [memoryInv_start, keeps_next]

@[simp] theorem mem_hear (s : State) (m : PodMsg) : (s.hear m).mem = s.mem := by
  unfold State.hear
  grind

@[simp] theorem mem_decided (s : State) (j : Job) (go : Bool) : (s.decided j go).mem = s.mem := by
  unfold State.decided
  grind [mem_modJob]

theorem keeps_execGangDecision (s : State) : Keeps s (execGangDecision s) := by
  unfold execGangDecision
  grind [MemoryInv, mem_decided, keeps_next]

theorem keeps_execGangStart (s : State) : Keeps s (execGangStart s) := by
  unfold execGangStart
  grind [MemoryInv, mem_modJob, memoryInv_start, keeps_next]

@[simp] theorem mem_setDep (s : State) (die i : Nat) (d : Dep) : (s.setDep die i d).mem = s.mem := rfl
@[simp] theorem mem_modDep (s : State) (die i : Nat) (f : Dep → Dep) : (s.modDep die i f).mem = s.mem := rfl

theorem memoryInv_launchEntry {s : State} (h : MemoryInv s) (die i : Nat) : MemoryInv (s.launchEntry die i) := by
  unfold State.launchEntry
  grind [MemoryInv, memoryInv_submit, mem_setDep]

theorem memoryInv_release1 {s : State} (h : MemoryInv s) (p : Nat × Nat) : MemoryInv (s.release1 p) := by
  unfold State.release1
  grind [MemoryInv, mem_setDep, memoryInv_launchEntry]

theorem keeps_execEntryDone (s : State) : Keeps s (execEntryDone s) := by
  unfold execEntryDone
  grind [MemoryInv, mem_setDep, memoryInv_release1, memoryInv_foldl, keeps_next]

theorem keeps_execJlaunch (rd rs1 : BitVec 5) (s : State) : Keeps s (execJlaunch rd rs1 s) := by
  unfold execJlaunch
  refine keeps_done fun h => ends_bind (ends_syncGate h) fun s0 h0 => ?_
  split
  · exact h0
  · refine ends_bind (ends_awaitRefs h0) fun s1 h1 => ends_bind (ends_reserve h1 _ _) fun s2 h2 =>
      ends_bind (ends_readBlock h2 _ _) fun q h3 => ?_
    obtain ⟨s3, b⟩ := q
    dsimp only
    split
    · exact h3
    · split
      · exact h3
      · refine ends_bind (ends_reserved (ends_release h3 _)) fun s4 h4 => ?_
        exact memoryInv_of_mem (memoryInv_submit h4 _ _ _) (mem_finish ..)

theorem keeps_execGlaunch (rd rs1 : BitVec 5) (s : State) : Keeps s (execGlaunch rd rs1 s) := by
  unfold execGlaunch
  refine keeps_done fun h => ends_bind (ends_syncGate h) fun s0 h0 => ?_
  split
  · exact h0
  · refine ends_bind (ends_awaitRefs h0) fun s1 h1 => ends_bind (ends_reserve h1 _ _) fun s2 h2 =>
      ends_bind (ends_readBlock h2 _ _) fun q h3 => ?_
    obtain ⟨s3, b⟩ := q
    dsimp only
    split
    · exact h3
    · split
      · exact h3
      · split
        · exact memoryInv_of_mem h3 (mem_waitFor ..)
        · exact ends_bind (ends_reserved (ends_release h3 _)) fun s4 h4 => h4

theorem keeps_execGdep (rd rs1 rs2 : BitVec 5) (s : State) : Keeps s (execGdep rd rs1 rs2 s) := by
  unfold execGdep
  grind [MemoryInv, mem_finish, mem_setDep, mem_modDep, memoryInv_launchEntry, keeps_next]

@[simp] theorem mem_noteEnd (s : State) (t : Slot) (locs : List Nat) (st : BitVec 8) : (s.noteEnd t locs st).mem = s.mem := by
  unfold State.noteEnd
  grind [mem_endUnit, mem_modJob]

@[simp] theorem mem_endThread (s : State) (loc : Nat) (st : BitVec 8) : (s.endThread loc st).mem = s.mem := by
  unfold State.endThread
  grind [modSlot_mem, mem_answerCall, mem_leave, mem_noteEnd, mem_foldl]

theorem keeps_execThreadExit (s : State) : Keeps s (execThreadExit s) := by
  unfold execThreadExit
  grind [MemoryInv, mem_waitFor, mem_waitOpen, memoryInv_drain, memoryInv_releaseSubs, mem_releaseFar, memoryInv_dropHeld,
    mem_endThread, memoryInv_foldl, keeps_next]

theorem keeps_execJobComplete (s : State) : Keeps s (execJobComplete s) := by
  unfold execJobComplete
  grind [MemoryInv, modSlot_mem, mem_reportBar, mem_modPort, mem_report, mem_leave, mem_modDep, memoryInv_foldl, keeps_next]

theorem memoryInv_portHead {s : State} (h : MemoryInv s) (port : Nat) : MemoryInv (s.portHead port) := by
  unfold State.portHead
  grind [MemoryInv, mem_modPort, mem_endStream, memoryInv_submit]

theorem keeps_execLaunchWaitExpiry (s : State) : Keeps s (execLaunchWaitExpiry s) := by
  unfold execLaunchWaitExpiry
  grind [MemoryInv, memoryInv_failOpening, mem_modJob, mem_endStream, keeps_next]

end Sys2Proof.Machine
end

section
/-! PROOFS. Memory stays canonical: the host port, Colophon, the supervisor and the vector instructions. -/

namespace Sys2Proof.Machine

/-! ### The host port (R87 to R95) -/

@[simp] theorem mem_emit (s : State) (o : Out) : (s.emit o).mem = s.mem := rfl

@[simp] theorem mem_transmit (s : State) (qp : Nat) (o : Out) : (s.transmit qp o).mem = s.mem := by
  unfold State.transmit
  grind [mem_emit]

@[simp] theorem mem_setUp (s : State) (c : Setup) : (s.setUp c).mem = s.mem := by
  unfold State.setUp
  grind [mem_modQp, mem_modPort]

theorem keeps_execCmMad (qp : Nat) (m : Mad) (s : State) : Keeps s (execCmMad qp m s) := by
  unfold execCmMad
  grind [MemoryInv, mem_modQp, mem_transmit, keeps_next]

@[simp] theorem mem_badRequest (s : State) (qp : Nat) : (s.badRequest qp).mem = s.mem := by
  unfold State.badRequest
  grind [mem_modQp, mem_transmit]

theorem keeps_execUnsupportedRequest (qp : Nat) (_r : BadRequest) (s : State) : Keeps s (execUnsupportedRequest qp _r s) := by
  unfold execUnsupportedRequest
  grind [MemoryInv, mem_badRequest, keeps_next]

@[simp] theorem mem_hostSend (s : State) (qp : Nat) : (s.hostSend qp).mem = s.mem := by
  unfold State.hostSend
  grind [mem_transmit]

theorem keeps_execEcnMarkedPacket (qp : Nat) (s : State) : Keeps s (execEcnMarkedPacket qp s) := by
  unfold execEcnMarkedPacket
  grind [MemoryInv, mem_transmit, keeps_next]

theorem keeps_execPfcPause (prio : Nat) (on : Bool) (s : State) : Keeps s (execPfcPause prio on s) := by
  unfold execPfcPause
  grind [MemoryInv, keeps_next]

theorem keeps_execPtpMessage (s : State) : Keeps s (execPtpMessage s) := by
  unfold execPtpMessage
  grind [MemoryInv, mem_emit, keeps_next]

theorem keeps_execRdmaWrite (qp key : Nat) (addr : Word) (data : List Byte) (s : State) :
    Keeps s (execRdmaWrite qp key addr data s) := by
  unfold execRdmaWrite
  grind [MemoryInv, memoryInv_keyPut, mem_transmit, mem_badRequest, keeps_next]

theorem keeps_execRdmaRead (qp key : Nat) (addr : Word) (len : Nat) (s : State) : Keeps s (execRdmaRead qp key addr len s) := by
  unfold execRdmaRead
  grind [MemoryInv, mem_transmit, mem_badRequest, keeps_next]

theorem keeps_execStreamWrite (qp : Nat) (addr : Word) (data : List Byte) (s : State) : Keeps s
    (execStreamWrite qp addr data s) := by
  unfold execStreamWrite
  grind [MemoryInv, mem_modPort, memoryInv_releaseHost, memoryInv_portHead, mem_transmit, mem_badRequest, keeps_next]

theorem keeps_execStreamResume (port : Nat) (s : State) : Keeps s (execStreamResume port s) := by
  unfold execStreamResume
  grind [memoryInv_portHead, keeps_next]

theorem keeps_execCompletionRecord (s : State) : Keeps s (execCompletionRecord s) := by
  unfold execCompletionRecord
  grind [MemoryInv, mem_modQp, mem_transmit, keeps_next]

/-! ### Colophon and the pod (R421 to R428) -/

@[simp] theorem mem_setPower (s : State) (p : Power) : (s.setPower p).mem = s.mem := rfl

theorem memoryInv_freeMemory (s : State) (n : Nat) : MemoryInv { s with mem := freeMemory n } :=
  wf_foldl_setFull _ _ (wf_foldl_setByte _ _ wf_empty)

theorem memoryInv_resetCompute (s : State) : MemoryInv s.resetCompute := memoryInv_freeMemory s s.fresh

theorem keeps_execStandbyRailOn (s : State) : Keeps s (execStandbyRailOn s) := by
  unfold execStandbyRailOn
  grind [MemoryInv, mem_setPower, keeps_next]

theorem keeps_execStandbyRailLost (s : State) : Keeps s (execStandbyRailLost s) := by
  unfold execStandbyRailLost
  grind [MemoryInv, memoryInv_resetCompute, keeps_next]

theorem keeps_execSelftestComplete (pass : Bool) (s : State) : Keeps s (execSelftestComplete pass s) := by
  unfold execSelftestComplete
  grind [MemoryInv, mem_setPower, keeps_next]

theorem keeps_execThermalTrip (s : State) : Keeps s (execThermalTrip s) := by
  unfold execThermalTrip
  grind [MemoryInv, mem_setPower, memoryInv_resetCompute, keeps_next]

@[simp] theorem mem_respond (s : State) (p : MPort) (st : Status) (data : List Byte) : (s.respond p st data).mem = s.mem := rfl

theorem keeps_execFirmwareVerify (s : State) : Keeps s (execFirmwareVerify s) := by
  unfold execFirmwareVerify
  grind [MemoryInv, mem_setPower, mem_respond, keeps_next]

theorem keeps_execLoadImage (p : MPort) (image : List Byte) (s : State) : Keeps s (execLoadImage p image s) := by
  unfold execLoadImage
  grind [MemoryInv, mem_setPower, memoryInv_resetCompute, mem_respond, keeps_next]

theorem keeps_execReset (p : MPort) (s : State) : Keeps s (execReset p s) := by
  unfold execReset
  grind [MemoryInv, mem_setPower, memoryInv_resetCompute, mem_respond, keeps_next]

theorem keeps_execGetStatus (p : MPort) (s : State) : Keeps s (execGetStatus p s) := by
  unfold execGetStatus
  grind [MemoryInv, mem_respond, keeps_next]

theorem keeps_execReadLog (p : MPort) (page : Nat) (s : State) : Keeps s (execReadLog p page s) := by
  unfold execReadLog
  grind [MemoryInv, mem_respond, keeps_next]

theorem keeps_execGetIdentity (p : MPort) (s : State) : Keeps s (execGetIdentity p s) := by
  unfold execGetIdentity
  grind [MemoryInv, mem_respond, keeps_next]

theorem keeps_execAttest (p : MPort) (nonce : BitVec 256) (s : State) : Keeps s (execAttest p nonce s) := by
  unfold execAttest
  grind [MemoryInv, mem_respond, keeps_next]

theorem keeps_execSetPowerCap (p : MPort) (watts : Nat) (s : State) : Keeps s (execSetPowerCap p watts s) := by
  unfold execSetPowerCap
  grind [MemoryInv, mem_respond, keeps_next]

theorem keeps_execThermalThrottle (cluster level : Nat) (s : State) : Keeps s (execThermalThrottle cluster level s) := by
  unfold execThermalThrottle
  grind [MemoryInv, modClu_mem, keeps_next]

theorem keeps_execPodNumberAssign (n : BitVec 9) (s : State) : Keeps s (execPodNumberAssign n s) := by
  unfold execPodNumberAssign
  grind [MemoryInv, keeps_next]

theorem keeps_execLinkFlitReplay (link : Nat) (s : State) : Keeps s (execLinkFlitReplay link s) := by
  unfold execLinkFlitReplay
  grind [MemoryInv, mem_emit, keeps_next]

theorem keeps_execLinkDown (link : Nat) (s : State) : Keeps s (execLinkDown link s) := by
  unfold execLinkDown
  grind [MemoryInv, keeps_next]

theorem keeps_execTickSync (t : Word) (s : State) : Keeps s (execTickSync t s) := by
  unfold execTickSync
  grind [MemoryInv, keeps_next]

/-! ### The limit of a wait (R15, R125) -/

@[simp] theorem mem_expireAll (s : State) (locs : List Nat) (k : WaitKind) : (s.expireAll locs k).mem = s.mem := by
  unfold State.expireAll
  grind [mem_expire, mem_foldl]

theorem keeps_execWaitlimExpiry (s : State) : Keeps s (execWaitlimExpiry s) := by
  unfold execWaitlimExpiry
  grind [MemoryInv, mem_barAwait, mem_awaitForm, keeps_execFuse, keeps_execSubDrop, keeps_execSubFlush, mem_expireAll, keeps_next]

/-! ### Switching threads, invalidation and trap records (R371 to R393) -/

theorem ends_writeArea {s : State} (h : MemoryInv s) (a : Word) (skip : Nat → Bool) (n : Nat) (l : List Nat) :
    Ends MemoryInv MemoryInv (s.writeArea a skip n l) := by
  induction l generalizing s n with
  | nil => exact h
  | cons w l ih =>
    rw [State.writeArea]
    split
    · exact ih h _
    · exact ends_bind (ends_storeWaited h _ _ _) fun s1 h1 => ih h1 _

theorem ends_areaPages {s : State} (h : MemoryInv s) (a : Word) (n : Nat) : Ends MemoryInv MemoryInv (s.areaPages a n) := by
  induction n with
  | zero => exact h
  | succ n ih =>
    rw [State.areaPages]
    refine ends_bind ih fun s1 h1 => ?_
    split
    · exact ends_raise h1 _ _
    · have h2 := memoryInv_of_mem h1 (mem_reach s1 s1.cur .store (a + BitVec.ofNat 64 (4096 * n)) 8 true)
      dsimp only
      split
      · exact ends_raise h2 _ _
      · exact h2

@[simp] theorem mem_newCost (s : State) (loc : Nat) : (s.newCost loc).mem = s.mem := rfl

theorem ends_saveTo {s : State} (h : MemoryInv s) (loc : Nat) (a : Word) : Ends MemoryInv MemoryInv (s.saveTo loc a) := by
  unfold State.saveTo
  simp only [bind, Except.bind]
  grind [MemoryInv, modSlot_mem, ends_writeArea, ends_areaPages, mem_newCost, ends_ok]

@[simp] theorem mem_loadFrom (s0 : State) (loc : Nat) (a : Word) (b : Nat) : (s0.loadFrom loc a b).mem = s0.mem := rfl

theorem keeps_privileged {s : State} (f7 : Nat) (rd rs1 rs2 : BitVec 5) {k : State → Go}
    (hk : MemoryInv s → Ends MemoryInv MemoryInv (k s)) : Keeps s (s.privileged f7 rd rs1 rs2 k) := by
  refine keeps_done fun h => ?_
  split
  · exact ends_raise h _ _
  · exact hk h

theorem keeps_execCtxSave (rd rs1 rs2 : BitVec 5) (s : State) : Keeps s (execCtxSave rd rs1 rs2 s) := by
  unfold execCtxSave
  simp only [bind, Except.bind]
  grind [MemoryInv, mem_finish, mem_waitOpen, memoryInv_drain, mem_settleFar, ends_saveTo, keeps_privileged, ends_ok, ends_error]

theorem keeps_execCtxLoad (rd rs1 rs2 : BitVec 5) (s : State) : Keeps s (execCtxLoad rd rs1 rs2 s) := by
  unfold execCtxLoad
  simp only [bind, Except.bind]
  grind [MemoryInv, mem_finish, ends_loadBlock, mem_loadFrom, keeps_privileged, ends_ok, ends_error]

theorem ends_incoming {s : State} (h : MemoryInv s) (l : List Nat) : Ends (fun p => MemoryInv p.1) MemoryInv (s.incoming l) := by
  induction l generalizing s with
  | nil => exact h
  | cons l ls ih =>
    rw [State.incoming]
    refine ends_bind (ends_loadBlock (s := { s with cur := l }) h _ _) fun p hp => ?_
    obtain ⟨s2, b⟩ := p
    dsimp only
    split
    · exact memoryInv_of_mem hp (mem_trap ..)
    · exact ends_bind (ends_areaPages hp _ _) fun s3 h3 => ends_bind (ih h3) fun q hq => hq

theorem ends_switchSlots {s : State} (h : MemoryInv s) (l : List (Nat × Nat)) : Ends MemoryInv MemoryInv (s.switchSlots l) := by
  induction l generalizing s with
  | nil => exact h
  | cons p l ih =>
    rw [State.switchSlots]
    exact ends_bind (ends_saveTo (s := { s with cur := p.1 }) h _ _) fun s1 h1 => ih h1

theorem ends_hardSwitch {s : State} (h : MemoryInv s) (loc : Nat) : Ends MemoryInv MemoryInv (s.hardSwitch loc) := by
  unfold State.hardSwitch
  simp only [bind, Except.bind]
  grind [MemoryInv, ends_incoming, ends_switchSlots, ends_ok, ends_error]

@[simp] theorem mem_restartQuantum (s : State) (ls : List Nat) : (s.restartQuantum ls).mem = s.mem := by
  unfold State.restartQuantum
  grind [modSlot_mem, mem_foldl]

theorem keeps_execQuantumExpiry (s : State) : Keeps s (execQuantumExpiry s) := by
  unfold execQuantumExpiry
  grind [MemoryInv, mem_raiseDeferred, memoryInv_drain, mem_settleFar, mem_interrupt, ends_hardSwitch, mem_restartQuantum,
    memoryInv_foldl, keeps_next, keeps_done_iff, memoryInv_state]

theorem ends_appendMsg {s : State} (h : MemoryInv s) (v : View) (ag : Agent) (a : Word) (m : Msg) :
    Ends MemoryInv (fun _ => True) (s.appendMsg v ag a m) := by
  unfold State.appendMsg
  simp only [bind, Except.bind]
  grind [ends_engRead, ends_engWrite, ends_ok, ends_error]

theorem keeps_execParkedMessageAppend (s : State) : Keeps s (execParkedMessageAppend s) := by
  unfold execParkedMessageAppend
  grind [MemoryInv, ends_appendMsg, ends_ok, keeps_next]

@[simp] theorem mem_invalidate (s0 : State) (i : Inv) : (s0.invalidate i).mem = s0.mem := by
  unfold State.invalidate
  grind [mem_forgetReplies]

theorem keeps_execPlbInv (rd rs1 rs2 : BitVec 5) (s : State) : Keeps s (execPlbInv rd rs1 rs2 s) := by
  unfold execPlbInv
  simp only [bind, Except.bind]
  grind [MemoryInv, mem_finish, mem_waitFor, ends_syncGate, ends_release, keeps_privileged, ends_ok]

theorem keeps_execPlbInvComplete (s : State) : Keeps s (execPlbInvComplete s) := by
  unfold execPlbInvComplete
  grind [MemoryInv, mem_expire, mem_invalidate, keeps_next]

theorem keeps_execTrapRec (rd rs1 rs2 : BitVec 5) (s : State) : Keeps s (execTrapRec rd rs1 rs2 s) := by
  unfold execTrapRec
  simp only [bind, Except.bind]
  grind [MemoryInv, mem_finish, ends_writeArea, keeps_privileged, ends_ok]

theorem keeps_execProtectionRequest (s : State) : Keeps s (execProtectionRequest s) := by
  unfold execProtectionRequest
  grind [MemoryInv, modMe_mem, keeps_next]

@[simp] theorem mem_unpost (s : State) (p : Posted) : (s.unpost p).mem = s.mem := rfl

theorem keeps_execProtectionReply (s : State) : Keeps s (execProtectionReply s) := by
  unfold execProtectionReply
  grind [MemoryInv, mem_plbFill, memoryInv_servePosted, mem_settleFar, mem_unpost, keeps_next]

theorem keeps_execRemoteTimeout (s : State) : Keeps s (execRemoteTimeout s) := by
  unfold execRemoteTimeout
  grind [MemoryInv, mem_hold, mem_unpost, keeps_next]

theorem keeps_execReplicaCollapse (va : Word) (s : State) : Keeps s (execReplicaCollapse va s) := by
  unfold execReplicaCollapse
  grind [memoryInv_collapse, keeps_next]

/-! ### The residence of regions (R379 to R392) -/

@[simp] theorem mem_modOp (s : State) (rgn : Nat) (f : RgnOp → RgnOp) : (s.modOp rgn f).mem = s.mem := rfl

@[simp] theorem mem_opDone (s : State) (o : RgnOp) (st : Status) (outcome : Nat) : (s.opDone o st outcome).mem = s.mem := by
  unfold State.opDone
  split <;> rfl

@[simp] theorem mem_clearRecord (s : State) (r : Region) : (s.clearRecord r).mem = s.mem := rfl

theorem ends_regionWait {s : State} (h : MemoryInv s) (rd : BitVec 5) {submit : State → Go}
    (hsub : Ends MemoryInv MemoryInv (submit s)) : Ends MemoryInv MemoryInv (s.regionWait rd submit) := by
  unfold State.regionWait
  dsimp only
  split
  · exact h
  · split
    · exact memoryInv_of_mem h (mem_waitFor ..)
    · exact ends_map hsub fun t ht => memoryInv_of_mem ht (mem_waitFor ..)

theorem keeps_execRgnShrink (rd rs1 rs2 : BitVec 5) (s : State) : Keeps s (execRgnShrink rd rs1 rs2 s) := by
  unfold execRgnShrink
  grind [MemoryInv, mem_finish, keeps_privileged, ends_regionWait, ends_ok, ends_error]

theorem keeps_execRgnDrain (rd rs1 : BitVec 5) (s : State) : Keeps s (execRgnDrain rd rs1 s) := by
  unfold execRgnDrain
  grind [MemoryInv, mem_finish, keeps_privileged, ends_regionWait, ends_ok, ends_error]

theorem memoryInv_devPut {s : State} (h : MemoryInv s) (die : Nat) (ag : Agent) (va : Nat) (l : List Byte) :
    MemoryInv (s.devPut die ag va l).1 := by
  fun_induction State.devPut <;> grind [memoryInv_put, memoryInv_beforeWrite]

theorem memoryInv_imagePut {s : State} (h : MemoryInv s) (v : Option View) (rgn : Nat) (a : Word) (bs : List Byte) :
    MemoryInv (s.imagePut v rgn a bs).1 := by
  unfold State.imagePut
  grind [memoryInv_engPut, memoryInv_devPut]

theorem memoryInv_imageGet {s : State} (h : MemoryInv s) (v : Option View) (die : Nat) (a : Word) (n : Nat) {y}
    (e : s.imageGet v die a n = some y) : MemoryInv y.1 := by
  cases v with
  | none =>
    obtain ⟨b, -, rfl⟩ := Option.map_eq_some_iff.mp e
    exact h
  | some w =>
    have hb := ends_engBytes h w a n
    simp only [State.imageGet] at e
    split at e
    · next he =>
      rw [he] at hb
      cases e
      exact hb
    · cases e

theorem memoryInv_markArea {s : State} (h : MemoryInv s) (die i : Nat) (busy : Bool) {u : State}
    (e : s.markArea die i busy = some u) :
    MemoryInv u := by
  unfold State.markArea at e
  grind [memoryInv_devPut]

theorem memoryInv_takeArea {s : State} (h : MemoryInv s) (die size : Nat) {y}
    (e : s.takeArea die size = some y) : MemoryInv y.1 := by
  unfold State.takeArea at e
  grind [memoryInv_markArea]

@[simp] theorem mem_unfreeze (s : State) (o : RgnOp) : (s.unfreeze o).mem = s.mem := by
  unfold State.unfreeze
  grind [mem_modRegion]

theorem memoryInv_scanOut {s : State} (h : MemoryInv s) (r : Region) (o : RgnOp) : MemoryInv (s.scanOut r o) := by
  unfold State.scanOut
  grind [MemoryInv, memoryInv_releaseFrame, mem_opDone, memoryInv_imagePut, mem_unfreeze, memoryInv_foldl]

theorem memoryInv_markArea_getD {s : State} (h : MemoryInv s) (die i : Nat) (b : Bool) : MemoryInv
    ((s.markArea die i b).getD s) := by
  cases e : s.markArea die i b with
  | none => exact h
  | some t => exact memoryInv_markArea h _ _ _ e

theorem memoryInv_giveUp {s : State} (h : MemoryInv s) (r : Region) (o : RgnOp) : MemoryInv (s.giveUp r o) := by
  have hgo (t : State) (ht : MemoryInv t) :
      MemoryInv (((t.unfreeze o).modRegion r.num (fun x => { x with quantum := 0 })).opDone o .ok 0) := by
    refine memoryInv_of_mem ht ?_
    simp only [mem_opDone, mem_modRegion, mem_unfreeze]
  unfold State.giveUp
  dsimp only
  split
  · exact hgo _ (memoryInv_markArea_getD h _ _ _)
  · exact hgo s h

theorem keeps_execScanOut (s : State) : Keeps s (execScanOut s) := by
  unfold execScanOut
  grind [MemoryInv, mem_setRegion, mem_modOp, mem_opDone, memoryInv_scanOut, memoryInv_giveUp, keeps_next]

theorem keeps_execResumeInPlace (s : State) : Keeps s (execResumeInPlace s) := by
  unfold execResumeInPlace
  grind [MemoryInv, mem_setRegion, mem_opDone, mem_clearRecord, keeps_next]

theorem memoryInv_layFrames {s : State} (h : MemoryInv s) (r : Region) : MemoryInv (s.layFrames r) := by
  unfold State.layFrames
  grind [memoryInv_layFrame, memoryInv_foldl]

theorem memoryInv_restoreAt {s : State} (h : MemoryInv s) (v : Option View) (image : Word) (corner : Nat) {u : State}
    (e : s.restoreAt v image corner = some u) : MemoryInv u := by
  unfold State.restoreAt at e
  split at e
  · cases e
  · next he =>
    have ha := memoryInv_imageGet h _ _ _ _ he
    split at e
    · cases e
      exact ha
    · extract_lets kept at e
      split at e
      · cases e
      · extract_lets rect at e
        split at e
        · cases e
        · split at e
          · cases e
          · next he2 =>
            have hs := memoryInv_imageGet ha _ _ _ _ he2
            split at e
            · rw [← Option.some.inj e]
              exact hs
            · extract_lets r0 r1 r2 s0 s1 s2 at e
              clear_value r2
              have h0 : MemoryInv s0 := memoryInv_of_mem hs ((mem_clearRecord ..).trans (mem_unload ..))
              have h1 : MemoryInv s1 := memoryInv_of_mem h0 rfl
              have h2 : MemoryInv s2 := memoryInv_layFrames h1 _
              rw [← Option.some.inj e]
              split
              · exact memoryInv_markArea_getD h2 _ _ _
              · exact h2

theorem keeps_execRegionRestore (s : State) : Keeps s (execRegionRestore s) := by
  unfold execRegionRestore
  split
  · split
    · next e => exact fun h => memoryInv_of_mem (memoryInv_restoreAt h _ _ _ e) (mem_opDone ..)
    · exact fun h => memoryInv_of_mem h (mem_opDone ..)
  · split
    · exact id
    · next r _ =>
      split
      · exact id
      · split
        · exact id
        · next c _ =>
          intro h
          cases e : s.restoreAt none r.home c with
          | none => exact h
          | some t => exact memoryInv_restoreAt h _ _ _ e

theorem keeps_execShrinkPoint (s : State) : Keeps s (execShrinkPoint s) := by
  unfold execShrinkPoint
  grind [MemoryInv, mem_setRegion, mem_reloadFailed, mem_opDone, mem_clearRecord, keeps_next]

theorem keeps_execShrinkBudgetExpiry (s : State) : Keeps s (execShrinkBudgetExpiry s) := by
  unfold execShrinkBudgetExpiry
  split
  · exact id
  · split
    · exact fun h => memoryInv_of_mem h (mem_opDone ..)
    · split
      · exact id
      · split
        · exact id
        · split
          · next e => exact fun h => memoryInv_of_mem (memoryInv_takeArea h _ _ e) (mem_modOp ..)
          · exact fun h => memoryInv_of_mem h (mem_opDone ..)

theorem keeps_execRegionQuantumExpiry (s : State) : Keeps s (execRegionQuantumExpiry s) := by
  unfold execRegionQuantumExpiry
  split
  · exact id
  · next r _ =>
    dsimp only
    split
    · exact id
    · have again (h : MemoryInv s) : MemoryInv (s.setRegion { r with quantum := 0 }) := memoryInv_of_mem h (mem_setRegion ..)
      split
      · exact again
      · split
        · exact again
        · split
          · next e => exact fun h => memoryInv_of_mem (memoryInv_takeArea (again h) _ _ e) rfl
          · exact again

@[simp] theorem mem_drainFrame (s : State) (rgn fs : Nat) : (s.drainFrame rgn fs).mem = s.mem := by
  unfold State.drainFrame
  grind [mem_modRegion]

theorem memoryInv_startDrain {s : State} (h : MemoryInv s) (r : Region) : MemoryInv (s.startDrain r) := by
  unfold State.startDrain
  grind [MemoryInv, mem_modRegion, memoryInv_frameReturn, mem_noteTrap, mem_drainFrame, memoryInv_foldl]

theorem keeps_execOccupancyRound (s : State) : Keeps s (execOccupancyRound s) := by
  unfold execOccupancyRound
  grind [MemoryInv, mem_setRegion, mem_opDone, memoryInv_startDrain, keeps_next]

theorem keeps_execDrainQuiescence (s : State) : Keeps s (execDrainQuiescence s) := by
  unfold execDrainQuiescence
  grind [MemoryInv, mem_opDone, mem_clearRecord, keeps_next]

/-! ### Vector instructions (R151 to R176) -/

@[simp] theorem mem_lanesOf (s : State) (a : VA) (f : Nat → Nat → Nat → Nat) : (s.lanesOf a f).mem = s.mem := rfl

@[simp] theorem mem_intLanes (s : State) (a : VA) (sat : Bool) (f : Int → Int → Int → Int) :
    (s.intLanes a sat f).mem = s.mem := rfl

theorem keeps_execVadd (a : VA) (s : State) : Keeps s (execVadd a s) := by
  unfold execVadd
  grind [MemoryInv, mem_intLanes, keeps_next]

theorem keeps_execVsub (a : VA) (s : State) : Keeps s (execVsub a s) := by
  unfold execVsub
  grind [MemoryInv, mem_intLanes, keeps_next]

theorem keeps_execVmul (a : VA) (s : State) : Keeps s (execVmul a s) := by
  unfold execVmul
  grind [MemoryInv, mem_intLanes, keeps_next]

theorem keeps_execVmulh (a : VA) (s : State) : Keeps s (execVmulh a s) := by
  unfold execVmulh
  grind [MemoryInv, mem_intLanes, keeps_next]

theorem keeps_execVmadd (a : VA) (s : State) : Keeps s (execVmadd a s) := by
  unfold execVmadd
  grind [MemoryInv, mem_intLanes, keeps_next]

theorem keeps_execVmin (a : VA) (s : State) : Keeps s (execVmin a s) := by
  unfold execVmin
  grind [MemoryInv, mem_intLanes, keeps_next]

theorem keeps_execVmax (a : VA) (s : State) : Keeps s (execVmax a s) := by
  unfold execVmax
  grind [MemoryInv, mem_intLanes, keeps_next]

theorem keeps_execVabs (a : VA) (s : State) : Keeps s (execVabs a s) := by
  unfold execVabs
  grind [MemoryInv, mem_intLanes, keeps_next]

theorem keeps_execVand (a : VA) (s : State) : Keeps s (execVand a s) := by
  unfold execVand
  grind [MemoryInv, mem_lanesOf, keeps_next]

theorem keeps_execVor (a : VA) (s : State) : Keeps s (execVor a s) := by
  unfold execVor
  grind [MemoryInv, mem_lanesOf, keeps_next]

theorem keeps_execVxor (a : VA) (s : State) : Keeps s (execVxor a s) := by
  unfold execVxor
  grind [MemoryInv, mem_lanesOf, keeps_next]

theorem keeps_execVandn (a : VA) (s : State) : Keeps s (execVandn a s) := by
  unfold execVandn
  grind [MemoryInv, mem_lanesOf, keeps_next]

theorem keeps_execVsll (a : VA) (s : State) : Keeps s (execVsll a s) := by
  unfold execVsll
  grind [MemoryInv, mem_lanesOf, keeps_next]

theorem keeps_execVsrl (a : VA) (s : State) : Keeps s (execVsrl a s) := by
  unfold execVsrl
  grind [MemoryInv, mem_lanesOf, keeps_next]

theorem keeps_execVsra (a : VA) (s : State) : Keeps s (execVsra a s) := by
  unfold execVsra
  grind [MemoryInv, mem_lanesOf, keeps_next]

@[simp] theorem mem_fltLanes (s : State) (a : VA) (f : FV → FV → FV → FV) : (s.fltLanes a f).mem = s.mem := rfl

theorem keeps_execVfadd (a : VA) (s : State) : Keeps s (execVfadd a s) := by
  unfold execVfadd
  grind [MemoryInv, mem_fltLanes, keeps_next]

theorem keeps_execVfsub (a : VA) (s : State) : Keeps s (execVfsub a s) := by
  unfold execVfsub
  grind [MemoryInv, mem_fltLanes, keeps_next]

theorem keeps_execVfmul (a : VA) (s : State) : Keeps s (execVfmul a s) := by
  unfold execVfmul
  grind [MemoryInv, mem_fltLanes, keeps_next]

theorem keeps_execVfma (a : VA) (s : State) : Keeps s (execVfma a s) := by
  unfold execVfma
  grind [MemoryInv, mem_fltLanes, keeps_next]

theorem keeps_execVfmin (a : VA) (s : State) : Keeps s (execVfmin a s) := by
  unfold execVfmin
  grind [MemoryInv, mem_fltLanes, keeps_next]

theorem keeps_execVfmax (a : VA) (s : State) : Keeps s (execVfmax a s) := by
  unfold execVfmax
  grind [MemoryInv, mem_fltLanes, keeps_next]

theorem keeps_execVfdiv (a : VA) (s : State) : Keeps s (execVfdiv a s) := by
  unfold execVfdiv
  grind [MemoryInv, mem_fltLanes, keeps_next]

theorem keeps_execVfsqrt (a : VA) (s : State) : Keeps s (execVfsqrt a s) := by
  unfold execVfsqrt
  grind [MemoryInv, mem_fltLanes, keeps_next]

theorem keeps_execVfrcp (a : VA) (s : State) : Keeps s (execVfrcp a s) := by
  unfold execVfrcp
  grind [MemoryInv, mem_fltLanes, keeps_next]

theorem keeps_execVfrsq (a : VA) (s : State) : Keeps s (execVfrsq a s) := by
  unfold execVfrsq
  grind [MemoryInv, mem_fltLanes, keeps_next]

theorem keeps_execVfexp2 (a : VA) (s : State) : Keeps s (execVfexp2 a s) := by
  unfold execVfexp2
  grind [MemoryInv, mem_fltLanes, keeps_next]

theorem keeps_execVflog2 (a : VA) (s : State) : Keeps s (execVflog2 a s) := by
  unfold execVflog2
  grind [MemoryInv, mem_fltLanes, keeps_next]

theorem keeps_execVcmp (c : Cond) (kd : BitVec 3) (ty : ElTy) (mask : BitVec 3) (s1 : Src) (s2 : Src2) (s : State) :
    Keeps s (execVcmp c kd ty mask s1 s2 s) := by
  unfold execVcmp
  grind [MemoryInv, setMe_mem, retire_mem, keeps_next]

theorem keeps_execVsel (a : VA) (s : State) : Keeps s (execVsel a s) := by
  unfold execVsel
  grind [MemoryInv, setMe_mem, retire_mem, keeps_next]

@[simp] theorem mem_maskOp (s : State) (d : BitVec 3) (v : Half) : (s.maskOp d v).mem = s.mem := rfl

theorem keeps_execKand (d a b : BitVec 3) (s : State) : Keeps s (execKand d a b s) := by
  unfold execKand
  grind [MemoryInv, mem_maskOp, keeps_next]

theorem keeps_execKor (d a b : BitVec 3) (s : State) : Keeps s (execKor d a b s) := by
  unfold execKor
  grind [MemoryInv, mem_maskOp, keeps_next]

theorem keeps_execKxor (d a b : BitVec 3) (s : State) : Keeps s (execKxor d a b s) := by
  unfold execKxor
  grind [MemoryInv, mem_maskOp, keeps_next]

theorem keeps_execKandn (d a b : BitVec 3) (s : State) : Keeps s (execKandn d a b s) := by
  unfold execKandn
  grind [MemoryInv, mem_maskOp, keeps_next]

theorem keeps_execKnot (d a : BitVec 3) (s : State) : Keeps s (execKnot d a s) := by
  unfold execKnot
  grind [MemoryInv, mem_maskOp, keeps_next]

theorem keeps_execKpop (xd : BitVec 5) (a : BitVec 3) (s : State) : Keeps s (execKpop xd a s) := by
  unfold execKpop
  grind [MemoryInv, setX_mem, retire_mem, keeps_next]

theorem keeps_execKfirst (xd : BitVec 5) (a : BitVec 3) (s : State) : Keeps s (execKfirst xd a s) := by
  unfold execKfirst
  grind [MemoryInv, setX_mem, retire_mem, keeps_next]

@[simp] theorem mem_cvtEnd (s : State) (a : VC) (region r : Nat) : (s.cvtEnd a region r).mem = s.mem := rfl

theorem keeps_execVcvt (a : VC) (s : State) : Keeps s (execVcvt a s) := by
  unfold execVcvt
  grind [MemoryInv, mem_cvtEnd, keeps_next]

theorem keeps_execVpack (a : VC) (s : State) : Keeps s (execVpack a s) := by
  unfold execVpack
  grind [MemoryInv, mem_cvtEnd, keeps_next]

theorem keeps_execVunpack (a : VC) (s : State) : Keeps s (execVunpack a s) := by
  unfold execVunpack
  grind [MemoryInv, mem_cvtEnd, keeps_next]

theorem keeps_execVqnt (a : VC) (s : State) : Keeps s (execVqnt a s) := by
  unfold execVqnt
  grind [MemoryInv, setMe_mem, retire_mem, keeps_next]

theorem keeps_execVdq (a : VC) (s : State) : Keeps s (execVdq a s) := by
  unfold execVdq
  grind [MemoryInv, mem_cvtEnd, keeps_next]

theorem keeps_execVdot4 (a : VA) (s : State) : Keeps s (execVdot4 a s) := by
  unfold execVdot4
  grind [MemoryInv, setMe_mem, retire_mem, keeps_next]

theorem keeps_execVred (o : RedOp) (a : VA) (s : State) : Keeps s (execVred o a s) := by
  unfold execVred
  grind [MemoryInv, setMe_mem, retire_mem, keeps_next]

theorem keeps_execVscan (o : RedOp) (a : VA) (s : State) : Keeps s (execVscan o a s) := by
  unfold execVscan
  grind [MemoryInv, setMe_mem, retire_mem, keeps_next]

@[simp] theorem mem_permute (s : State) (a : VA) (f : Nat → Nat) : (s.permute a f).mem = s.mem := rfl

theorem keeps_execVperm (a : VA) (s : State) : Keeps s (execVperm a s) := by
  unfold execVperm
  grind [MemoryInv, mem_permute, keeps_next]

theorem keeps_execVshuf (a : VA) (s : State) : Keeps s (execVshuf a s) := by
  unfold execVshuf
  grind [MemoryInv, mem_permute, keeps_next]

theorem keeps_execVslideUp (a : VA) (s : State) : Keeps s (execVslideUp a s) := by
  unfold execVslideUp
  grind [MemoryInv, mem_permute, keeps_next]

theorem keeps_execVslideDown (a : VA) (s : State) : Keeps s (execVslideDown a s) := by
  unfold execVslideDown
  grind [MemoryInv, mem_permute, keeps_next]

theorem keeps_execVbcast (a : VA) (s : State) : Keeps s (execVbcast a s) := by
  unfold execVbcast
  grind [MemoryInv, mem_permute, keeps_next]

theorem keeps_execVins (a : VA) (s : State) : Keeps s (execVins a s) := by
  unfold execVins
  grind [MemoryInv, setMe_mem, retire_mem, keeps_next]

theorem keeps_execVextr (a : VA) (s : State) : Keeps s (execVextr a s) := by
  unfold execVextr
  grind [MemoryInv, setMe_mem, retire_mem, keeps_next]

/-! ### Vector loads and stores (R177 to R181) -/

theorem ends_checkElem {s : State} (h : MemoryInv s) (k : AK) (e : VAcc) : Ends MemoryInv MemoryInv (s.checkElem k e) := by
  unfold State.checkElem
  grind [MemoryInv, mem_reach, mem_trap, ends_ok, ends_error]

theorem ends_waitElem {s : State} (h : MemoryInv s) (k : AK) (e : VAcc) : Ends MemoryInv MemoryInv (s.waitElem k e) := by
  unfold State.waitElem
  grind [MemoryInv, mem_reach, mem_trap, ends_ok, ends_error]

theorem ends_checkLoads {s : State} (h : MemoryInv s) (es : List VAcc) : Ends MemoryInv MemoryInv (s.checkLoads es) := by
  unfold State.checkLoads
  have hd : MemoryInv (es.foldl (fun t e => t.drainOver s.cur e.va.toNat e.n) s) :=
    memoryInv_foldl (fun t e ht => memoryInv_drainOver ht _ _ _) _ h
  refine ends_bind (ends_foldlM (fun t e ht => ends_checkElem ht _ _) _ hd) fun s1 h1 => ?_
  split
  · exact memoryInv_of_mem h1 (mem_raiseDeferred ..)
  · exact ends_foldlM (fun t e ht => ends_waitElem ht _ _) _ h1

theorem ends_readElems {s : State} (h : MemoryInv s) (l : List VAcc) : Ends (fun p => MemoryInv p.1) MemoryInv
    (s.readElems l) := by
  induction l generalizing s with
  | nil => exact h
  | cons e l ih => exact ends_bind (ends_load h _ _ _ _) fun p hp => ends_bind (ih hp) fun q hq => hq

theorem ends_vload {s : State} (h : MemoryInv s) (a : VM) (ea : Nat → Word) : Ends MemoryInv MemoryInv (s.vload a ea) := by
  unfold State.vload
  simp only [bind, Except.bind]
  grind [MemoryInv, setMe_mem, retire_mem, ends_checkLoads, ends_readElems, ends_ok, ends_error]

theorem keeps_execVld (a : VM) (s : State) : Keeps s (execVld a s) := by
  unfold execVld
  grind [ends_vload, keeps_done_iff, memoryInv_state]

theorem keeps_execVlds (a : VM) (s : State) : Keeps s (execVlds a s) := by
  unfold execVlds
  grind [ends_vload, keeps_done_iff, memoryInv_state]

theorem keeps_execVldx (a : VM) (s : State) : Keeps s (execVldx a s) := by
  unfold execVldx
  grind [ends_vload, keeps_done_iff, memoryInv_state]

theorem ends_vstore {s : State} (h : MemoryInv s) (a : VM) (ea : Nat → Word) : Ends MemoryInv MemoryInv (s.vstore a ea) := by
  unfold State.vstore
  refine ends_bind (ends_foldlM (fun t e ht => ends_checkElem ht _ _) _ (memoryInv_drain h _)) fun s1 h1 => ?_
  split <;> refine ends_bind (P := MemoryInv) ?_ fun s2 h2 => ?_
  · exact ends_foldlM (fun t e ht => ends_waitElem ht _ _) _ h1
  · dsimp only
    split
    · exact memoryInv_of_mem h2 (mem_raiseDeferred ..)
    · exact ends_bind (ends_foldlM (fun t e ht => ends_storePlain ht _ _ _ _) _ h2) fun s3 h3 => h3
  · exact h1
  · dsimp only
    split
    · exact memoryInv_of_mem h2 (mem_raiseDeferred ..)
    · exact ends_bind (ends_foldlM (fun t e ht => ends_storePlain ht _ _ _ _) _ h2) fun s3 h3 => h3

theorem keeps_execVst (a : VM) (s : State) : Keeps s (execVst a s) := by
  unfold execVst
  grind [ends_vstore, keeps_done_iff, memoryInv_state]

theorem keeps_execVsts (a : VM) (s : State) : Keeps s (execVsts a s) := by
  unfold execVsts
  grind [ends_vstore, keeps_done_iff, memoryInv_state]

theorem keeps_execVstx (a : VM) (s : State) : Keeps s (execVstx a s) := by
  unfold execVstx
  grind [ends_vstore, keeps_done_iff, memoryInv_state]

theorem keeps_execVldb (m : BitVec 2) (a : VM) (s : State) : Keeps s (execVldb m a s) := by
  unfold execVldb
  simp only [bind, Except.bind]
  grind [MemoryInv, setMe_mem, retire_mem, mem_trap, ends_checkLoads, ends_readElems, ends_ok, ends_error, keeps_done_iff,
    memoryInv_state]

end Sys2Proof.Machine
end

section
/-! PROOFS. Memory stays canonical: the dispatch and the turns of a step (O60), and so every step goes on (O59). -/

namespace Sys2Proof.Machine

/-! ### The dispatch -/

theorem keeps_exec : ∀ (i : Instr) (s : State), Keeps s (exec i s)
  | .lpad k, s => keeps_execLpad k s
  | .callt rd rs1 rs2, s => keeps_execCallt rd rs1 rs2 s
  | .rett, s => keeps_execRett s
  | .tagp rd rs1 ek, s => keeps_execTagp rd rs1 ek s
  | .tagx rd rs1, s => keeps_execTagx rd rs1 s
  | .fuse rd n, s => keeps_execFuse rd n s
  | .split, s => keeps_execSplit s
  | .recv rd, s => keeps_execRecv rd s
  | .peek rd, s => keeps_execPeek rd s
  | .wfm rd, s => keeps_execWfm rd s
  | .uiret, s => keeps_execUiret s
  | .yield, s => keeps_execYield s
  | .prio rs1, s => keeps_execPrio rs1 s
  | .cbld bank rs1, s => keeps_execCbld bank rs1 s
  | .fenceScope sc, s => keeps_execFenceScope sc s
  | .ldAcq sc w rd rs1, s => keeps_execLdAcq sc w rd rs1 s
  | .stRel sc w rs1 rs2, s => keeps_execStRel sc w rs1 rs2 s
  | .amoI64 op sc rd rs1 rs2, s => keeps_execAmoI64 op sc rd rs1 rs2 s
  | .amoI32 op sc rd rs1 rs2, s => keeps_execAmoI32 op sc rd rs1 rs2 s
  | .amoCas128 sc rd rs1 rs2, s => keeps_execAmoCas128 sc rd rs1 rs2 s
  | .amoFaddF32 sc rd rs1 rs2, s => keeps_execAmoFaddF32 sc rd rs1 rs2 s
  | .amoFadd2Bf16 sc rd rs1 rs2, s => keeps_execAmoFadd2Bf16 sc rd rs1 rs2 s
  | .bar sc id rd, s => keeps_execBar sc id rd s
  | .barArr sc id rd, s => keeps_execBarArr sc id rd s
  | .barWait sc id rd, s => keeps_execBarWait sc id rd s
  | .jlaunch rd rs1, s => keeps_execJlaunch rd rs1 s
  | .glaunch rd rs1, s => keeps_execGlaunch rd rs1 s
  | .gdep rd rs1 rs2, s => keeps_execGdep rd rs1 rs2 s
  | .ctxSave rd rs1 rs2, s => keeps_execCtxSave rd rs1 rs2 s
  | .ctxLoad rd rs1 rs2, s => keeps_execCtxLoad rd rs1 rs2 s
  | .plbInv rd rs1 rs2, s => keeps_execPlbInv rd rs1 rs2 s
  | .rgnShrink rd rs1 rs2, s => keeps_execRgnShrink rd rs1 rs2 s
  | .rgnDrain rd rs1, s => keeps_execRgnDrain rd rs1 s
  | .trapRec rd rs1 rs2, s => keeps_execTrapRec rd rs1 rs2 s
  | .jalr rd rs1 off, s => keeps_execJalr rd rs1 off s
  | .fence fm pred succ, s => keeps_execFence fm pred succ s
  | .fenceI, s => keeps_execFenceI s
  | .lr dbl aq rl rd rs1, s => keeps_execLr dbl aq rl rd rs1 s
  | .sc dbl aq rl rd rs1 rs2, s => keeps_execSc dbl aq rl rd rs1 rs2 s
  | .rvAmo op dbl aq rl rd rs1 rs2, s => keeps_execRvAmo op dbl aq rl rd rs1 rs2 s
  | .sret, s => keeps_execSret s
  | .mret, s => keeps_execMret s
  | .emulationEntry word len, s => keeps_execEmulationEntry word len s
  | .vadd a, s => keeps_execVadd a s
  | .vsub a, s => keeps_execVsub a s
  | .vmul a, s => keeps_execVmul a s
  | .vmulh a, s => keeps_execVmulh a s
  | .vmadd a, s => keeps_execVmadd a s
  | .vmin a, s => keeps_execVmin a s
  | .vmax a, s => keeps_execVmax a s
  | .vabs a, s => keeps_execVabs a s
  | .vand a, s => keeps_execVand a s
  | .vor a, s => keeps_execVor a s
  | .vxor a, s => keeps_execVxor a s
  | .vandn a, s => keeps_execVandn a s
  | .vsll a, s => keeps_execVsll a s
  | .vsrl a, s => keeps_execVsrl a s
  | .vsra a, s => keeps_execVsra a s
  | .vfadd a, s => keeps_execVfadd a s
  | .vfsub a, s => keeps_execVfsub a s
  | .vfmul a, s => keeps_execVfmul a s
  | .vfma a, s => keeps_execVfma a s
  | .vfmin a, s => keeps_execVfmin a s
  | .vfmax a, s => keeps_execVfmax a s
  | .vfdiv a, s => keeps_execVfdiv a s
  | .vfsqrt a, s => keeps_execVfsqrt a s
  | .vfrcp a, s => keeps_execVfrcp a s
  | .vfrsq a, s => keeps_execVfrsq a s
  | .vfexp2 a, s => keeps_execVfexp2 a s
  | .vflog2 a, s => keeps_execVflog2 a s
  | .vcmp c kd ty mask s1 s2, s => keeps_execVcmp c kd ty mask s1 s2 s
  | .vsel a, s => keeps_execVsel a s
  | .kand d a b, s => keeps_execKand d a b s
  | .kor d a b, s => keeps_execKor d a b s
  | .kxor d a b, s => keeps_execKxor d a b s
  | .kandn d a b, s => keeps_execKandn d a b s
  | .knot d a, s => keeps_execKnot d a s
  | .kpop xd a, s => keeps_execKpop xd a s
  | .kfirst xd a, s => keeps_execKfirst xd a s
  | .vcvt a, s => keeps_execVcvt a s
  | .vpack a, s => keeps_execVpack a s
  | .vunpack a, s => keeps_execVunpack a s
  | .vqnt a, s => keeps_execVqnt a s
  | .vdq a, s => keeps_execVdq a s
  | .vdot4 a, s => keeps_execVdot4 a s
  | .vred op a, s => keeps_execVred op a s
  | .vscan op a, s => keeps_execVscan op a s
  | .vperm a, s => keeps_execVperm a s
  | .vshuf a, s => keeps_execVshuf a s
  | .vslideUp a, s => keeps_execVslideUp a s
  | .vslideDown a, s => keeps_execVslideDown a s
  | .vbcast a, s => keeps_execVbcast a s
  | .vins a, s => keeps_execVins a s
  | .vextr a, s => keeps_execVextr a s
  | .vld a, s => keeps_execVld a s
  | .vst a, s => keeps_execVst a s
  | .vlds a, s => keeps_execVlds a s
  | .vsts a, s => keeps_execVsts a s
  | .vldx a, s => keeps_execVldx a s
  | .vstx a, s => keeps_execVstx a s
  | .vldb m a, s => keeps_execVldb m a s
  | .ldFe xd xb off, s => keeps_execLdFe xd xb off s
  | .ldFeTake xd xb off, s => keeps_execLdFeTake xd xb off s
  | .stFe xs xb off, s => keeps_execStFe xs xb off s
  | .stFeFill xs xb off, s => keeps_execStFeFill xs xb off s
  | .cpy r, s => keeps_execCpy r s
  | .cpyPlane r, s => keeps_execCpyPlane r s
  | .cpyStat xd, s => keeps_execCpyStat xd s
  | .pf sc xb off, s => keeps_execPf sc xb off s
  | .refLd ty xd hs xo, s => keeps_execRefLd ty xd hs xo s
  | .refSt ty xv hs xo, s => keeps_execRefSt ty xv hs xo s
  | .refLdf hd hs xo, s => keeps_execRefLdf hd hs xo s
  | .refStf hv hs xo, s => keeps_execRefStf hv hs xo s
  | .refAlloc hd xn xt xs, s => keeps_execRefAlloc hd xn xt xs s
  | .refPin xd hs xs, s => keeps_execRefPin xd hs xs s
  | .refUnpin xs hs, s => keeps_execRefUnpin xs hs s
  | .refEq xd ha hb, s => keeps_execRefEq xd ha hb s
  | .refMov toX d hs, s => keeps_execRefMov toX d hs s
  | .refNull hd, s => keeps_execRefNull hd s
  | .refChk hd xv xs xi, s => keeps_execRefChk hd xv xs xi s
  | .kilnGo r, s => keeps_execKilnGo r s
  | .kilnStat xd xk, s => keeps_execKilnStat xd xk s
  | .subAdd r, s => keeps_execSubAdd r s
  | .subDrop xd xe, s => keeps_execSubDrop xd xe s
  | .subFlush xd, s => keeps_execSubFlush xd s
  | .subStat xd xe, s => keeps_execSubStat xd xe s
  | .raceRd r, s => keeps_execRaceRd r s
  | .mxTile r, s => keeps_execMxTile r s
  | .mxTileAcc r, s => keeps_execMxTileAcc r s
  | .mxSort r, s => keeps_execMxSort r s
  | .mxTopk r, s => keeps_execMxTopk r s
  | .mxStat xd, s => keeps_execMxStat xd s
  | .grpForm xd xb, s => keeps_execGrpForm xd xb s
  | .grpDrop xd xh, s => keeps_execGrpDrop xd xh s
  | .collAllreduce ty r, s => keeps_execCollAllreduce ty r s
  | .collRedscatter ty r, s => keeps_execCollRedscatter ty r s
  | .collAllgather ty r, s => keeps_execCollAllgather ty r s
  | .collBcast ty r, s => keeps_execCollBcast ty r s
  | .collAlltoall ty r, s => keeps_execCollAlltoall ty r s
  | .collCancel xd xh, s => keeps_execCollCancel xd xh s
  | .elNop w, s => keeps_execElNop w s
  | .elMov w, s => keeps_execElMov w s
  | .elSel w, s => keeps_execElSel w s
  | .elSteer w, s => keeps_execElSteer w s
  | .elRepl w, s => keeps_execElRepl w s
  | .elAdd w, s => keeps_execElAdd w s
  | .elSub w, s => keeps_execElSub w s
  | .elMul w, s => keeps_execElMul w s
  | .elMulh w, s => keeps_execElMulh w s
  | .elMac w, s => keeps_execElMac w s
  | .elMin w, s => keeps_execElMin w s
  | .elMax w, s => keeps_execElMax w s
  | .elAbs w, s => keeps_execElAbs w s
  | .elNeg w, s => keeps_execElNeg w s
  | .elAnd w, s => keeps_execElAnd w s
  | .elOr w, s => keeps_execElOr w s
  | .elXor w, s => keeps_execElXor w s
  | .elAndn w, s => keeps_execElAndn w s
  | .elNot w, s => keeps_execElNot w s
  | .elSll w, s => keeps_execElSll w s
  | .elSrl w, s => keeps_execElSrl w s
  | .elSra w, s => keeps_execElSra w s
  | .elCmpEq w, s => keeps_execElCmpEq w s
  | .elCmpNe w, s => keeps_execElCmpNe w s
  | .elCmpLt w, s => keeps_execElCmpLt w s
  | .elCmpLe w, s => keeps_execElCmpLe w s
  | .elFadd w, s => keeps_execElFadd w s
  | .elFsub w, s => keeps_execElFsub w s
  | .elFmul w, s => keeps_execElFmul w s
  | .elFma w, s => keeps_execElFma w s
  | .elFmin w, s => keeps_execElFmin w s
  | .elFmax w, s => keeps_execElFmax w s
  | .elFcmpEq w, s => keeps_execElFcmpEq w s
  | .elFcmpLt w, s => keeps_execElFcmpLt w s
  | .elFcmpLe w, s => keeps_execElFcmpLe w s
  | .elFcmpUn w, s => keeps_execElFcmpUn w s
  | .elVredAdd w, s => keeps_execElVredAdd w s
  | .elVredMin w, s => keeps_execElVredMin w s
  | .elVredMax w, s => keeps_execElVredMax w s
  | .elVredFadd w, s => keeps_execElVredFadd w s
  | .elVredFmin w, s => keeps_execElVredFmin w s
  | .elVredFmax w, s => keeps_execElVredFmax w s
  | .elVextr w, s => keeps_execElVextr w s
  | .elVins w, s => keeps_execElVins w s
  | .elSettag w, s => keeps_execElSettag w s
  | .elEndtest w, s => keeps_execElEndtest w s
  | .elCsacc w, s => keeps_execElCsacc w s
  | .elCsadd w, s => keeps_execElCsadd w s
  | .scrub corrected, s => keeps_execScrub corrected s
  | .configReload error, s => keeps_execConfigReload error s
  | .streamWrite qp addr data, s => keeps_execStreamWrite qp addr data s
  | .streamResume port, s => keeps_execStreamResume port s
  | .rdmaWrite qp key addr data, s => keeps_execRdmaWrite qp key addr data s
  | .rdmaRead qp key addr len, s => keeps_execRdmaRead qp key addr len s
  | .cmMad qp m, s => keeps_execCmMad qp m s
  | .unsupportedRequest qp r, s => keeps_execUnsupportedRequest qp r s
  | .ecnMarkedPacket qp, s => keeps_execEcnMarkedPacket qp s
  | .pfcPause prio on, s => keeps_execPfcPause prio on s
  | .replicaCollapse va, s => keeps_execReplicaCollapse va s
  | .trapEntry loc cause tval, s => keeps_execTrapEntry loc cause tval s
  | .fabricTrapRaise cause va, s => keeps_execFabricTrapRaise cause va s
  | .pdrightsWrite c, s => keeps_execPdrightsWrite c s
  | .quantumWrite c, s => keeps_execQuantumWrite c s
  | .matrixCsrWrite c, s => keeps_execMatrixCsrWrite c s
  | .prridxWrite c, s => keeps_execPrridxWrite c s
  | .tcqWrite c, s => keeps_execTcqWrite c s
  | .csrWrite c, s => keeps_execCsrWrite c s
  | .selftestComplete pass, s => keeps_execSelftestComplete pass s
  | .thermalThrottle cluster level, s => keeps_execThermalThrottle cluster level s
  | .getStatus p, s => keeps_execGetStatus p s
  | .readLog p page, s => keeps_execReadLog p page s
  | .loadImage p image, s => keeps_execLoadImage p image s
  | .reset p, s => keeps_execReset p s
  | .getIdentity p, s => keeps_execGetIdentity p s
  | .attest p nonce, s => keeps_execAttest p nonce s
  | .setPowerCap p watts, s => keeps_execSetPowerCap p watts s
  | .podNumberAssign n, s => keeps_execPodNumberAssign n s
  | .linkFlitReplay link, s => keeps_execLinkFlitReplay link s
  | .linkDown link, s => keeps_execLinkDown link s
  | .tickSync t, s => keeps_execTickSync t s
  | .plainStore st, s => keeps_execPlainStore st s
  | .scalarLoad ld, s => keeps_execScalarLoad ld s
  | .rv64BaseInstruction r, s => keeps_execRv64BaseInstruction r s
  | .tokenArrival, s => keeps_execTokenArrival s
  | .creditReturn, s => keeps_execCreditReturn s
  | .phaseEnd, s => keeps_execPhaseEnd s
  | .streamWalkStart, s => keeps_execStreamWalkStart s
  | .streamPoint, s => keeps_execStreamPoint s
  | .memSkip, s => keeps_execMemSkip s
  | .memLoad, s => keeps_execMemLoad s
  | .memStore, s => keeps_execMemStore s
  | .memIndexedLoad, s => keeps_execMemIndexedLoad s
  | .memIndexedStore, s => keeps_execMemIndexedStore s
  | .memRmw, s => keeps_execMemRmw s
  | .memIndexedRmw, s => keeps_execMemIndexedRmw s
  | .orderedRequestPerform, s => keeps_execOrderedRequestPerform s
  | .memReply, s => keeps_execMemReply s
  | .joinFire, s => keeps_execJoinFire s
  | .loopStart, s => keeps_execLoopStart s
  | .loopDoneToken, s => keeps_execLoopDoneToken s
  | .loopExitToken, s => keeps_execLoopExitToken s
  | .iterationRetire, s => keeps_execIterationRetire s
  | .carryForward, s => keeps_execCarryForward s
  | .collectStep, s => keeps_execCollectStep s
  | .convFire, s => keeps_execConvFire s
  | .normFire, s => keeps_execNormFire s
  | .dsqEnter, s => keeps_execDsqEnter s
  | .dsqExit, s => keeps_execDsqExit s
  | .callNodeFire, s => keeps_execCallNodeFire s
  | .callNodeReturn, s => keeps_execCallNodeReturn s
  | .callbackEntry, s => keeps_execCallbackEntry s
  | .callbackPoolAssign, s => keeps_execCallbackPoolAssign s
  | .poolTimeout, s => keeps_execPoolTimeout s
  | .frameRead, s => keeps_execFrameRead s
  | .frameWrite, s => keeps_execFrameWrite s
  | .frameEnd, s => keeps_execFrameEnd s
  | .frameOpen, s => keeps_execFrameOpen s
  | .frameSlotFree, s => keeps_execFrameSlotFree s
  | .frameOrphaned, s => keeps_execFrameOrphaned s
  | .fabricStall, s => keeps_execFabricStall s
  | .ingressTake, s => keeps_execIngressTake s
  | .egressWrite, s => keeps_execEgressWrite s
  | .egressEndOfStream, s => keeps_execEgressEndOfStream s
  | .ringWaitExpiry, s => keeps_execRingWaitExpiry s
  | .sinkConsume, s => keeps_execSinkConsume s
  | .mxportFire, s => keeps_execMxportFire s
  | .mxportCompletion, s => keeps_execMxportCompletion s
  | .accUpdate, s => keeps_execAccUpdate s
  | .dispatchBind, s => keeps_execDispatchBind s
  | .poolTake, s => keeps_execPoolTake s
  | .threadAged, s => keeps_execThreadAged s
  | .threadExit, s => keeps_execThreadExit s
  | .jobComplete, s => keeps_execJobComplete s
  | .startTickReached, s => keeps_execStartTickReached s
  | .gangDecision, s => keeps_execGangDecision s
  | .gangStart, s => keeps_execGangStart s
  | .launchWaitExpiry, s => keeps_execLaunchWaitExpiry s
  | .entryDone, s => keeps_execEntryDone s
  | .configPlace, s => keeps_execConfigPlace s
  | .configRetry, s => keeps_execConfigRetry s
  | .regionLoad, s => keeps_execRegionLoad s
  | .uncorrectableError, s => keeps_execUncorrectableError s
  | .ptpMessage, s => keeps_execPtpMessage s
  | .completionRecord, s => keeps_execCompletionRecord s
  | .protectionRequest, s => keeps_execProtectionRequest s
  | .protectionReply, s => keeps_execProtectionReply s
  | .remoteTimeout, s => keeps_execRemoteTimeout s
  | .feTimeout, s => keeps_execFeTimeout s
  | .inboxMessageArrival, s => keeps_execInboxMessageArrival s
  | .calltReturn, s => keeps_execCalltReturn s
  | .graphCallTimeout, s => keeps_execGraphCallTimeout s
  | .waitlimExpiry, s => keeps_execWaitlimExpiry s
  | .copyCommandStart, s => keeps_execCopyCommandStart s
  | .copyCompletion, s => keeps_execCopyCompletion s
  | .mxuArbitrate, s => keeps_execMxuArbitrate s
  | .fillWaitTimeout, s => keeps_execFillWaitTimeout s
  | .tileCompletion, s => keeps_execTileCompletion s
  | .sortCompletion, s => keeps_execSortCompletion s
  | .mxuParityError, s => keeps_execMxuParityError s
  | .kilnInstall, s => keeps_execKilnInstall s
  | .kilnMove, s => keeps_execKilnMove s
  | .kilnFault, s => keeps_execKilnFault s
  | .kilnReport, s => keeps_execKilnReport s
  | .pinWaitTimeout, s => keeps_execPinWaitTimeout s
  | .subSyncCopy, s => keeps_execSubSyncCopy s
  | .packetFlush, s => keeps_execPacketFlush s
  | .packetTimerExpiry, s => keeps_execPacketTimerExpiry s
  | .packetApply, s => keeps_execPacketApply s
  | .subDrained, s => keeps_execSubDrained s
  | .barrierComplete, s => keeps_execBarrierComplete s
  | .groupDecision, s => keeps_execGroupDecision s
  | .collContribution, s => keeps_execCollContribution s
  | .collCommit, s => keeps_execCollCommit s
  | .collAbort, s => keeps_execCollAbort s
  | .collGroupTimeout, s => keeps_execCollGroupTimeout s
  | .collMemberLost, s => keeps_execCollMemberLost s
  | .userInterruptDelivery, s => keeps_execUserInterruptDelivery s
  | .quantumExpiry, s => keeps_execQuantumExpiry s
  | .parkedMessageAppend, s => keeps_execParkedMessageAppend s
  | .fabricTrapDelivery, s => keeps_execFabricTrapDelivery s
  | .shrinkPoint, s => keeps_execShrinkPoint s
  | .shrinkBudgetExpiry, s => keeps_execShrinkBudgetExpiry s
  | .scanOut, s => keeps_execScanOut s
  | .regionRestore, s => keeps_execRegionRestore s
  | .resumeInPlace, s => keeps_execResumeInPlace s
  | .regionQuantumExpiry, s => keeps_execRegionQuantumExpiry s
  | .occupancyRound, s => keeps_execOccupancyRound s
  | .drainQuiescence, s => keeps_execDrainQuiescence s
  | .plbInvComplete, s => keeps_execPlbInvComplete s
  | .spimgSave, s => keeps_execSpimgSave s
  | .spimgRestore, s => keeps_execSpimgRestore s
  | .standbyRailOn, s => keeps_execStandbyRailOn s
  | .standbyRailLost, s => keeps_execStandbyRailLost s
  | .firmwareVerify, s => keeps_execFirmwareVerify s
  | .thermalTrip, s => keeps_execThermalTrip s
  | .timerInterrupt, s => keeps_execTimerInterrupt s
  | .externalInterrupt, s => keeps_execExternalInterrupt s
  | .lostMemberReached, s => keeps_execLostMemberReached s

/-! ### The turns of a step (R126 to R128, R140, R185) -/

theorem memoryInv_nextInstr {s : State} (h : MemoryInv s) (loc : Nat) : MemoryInv (s.nextInstr loc).1 := by
  unfold State.nextInstr
  grind [memoryInv_fetchInstr]

theorem memoryInv_issuing {s : State} (h : MemoryInv s) (loc : Nat) : MemoryInv (s.issuing loc).1 := by
  unfold State.issuing
  grind [MemoryInv, modSlot_mem, memoryInv_nextInstr, memoryInv_foldl]

theorem keeps_follow (s : State) (leader : Nat) (i : Instr) : Keeps s (s.follow leader i) := by
  unfold State.follow
  dsimp only
  split
  · exact keeps_done fun h => ends_transfer h _ fun u hu => memoryInv_of_mem hu (setX_mem ..)
  · exact keeps_done fun h => ends_transfer h _ fun u hu => memoryInv_of_mem hu (setX_mem ..)
  · exact keeps_done fun h => ends_transfer h _ fun u hu => hu
  · exact keeps_exec i s

theorem memoryInv_gangTrap {s0 : State} (h : MemoryInv s0) (m : Nat) (after : Slot) : MemoryInv (s0.gangTrap m after) := by
  unfold State.gangTrap
  grind [MemoryInv, mem_trap, memoryInv_drain]

theorem keeps_gangRun (s0 : State) (leader : Nat) (i : Instr) (ms : List Nat) {s : State} (h : MemoryInv s0 → MemoryInv s) :
    Keeps s0 (s0.gangRun leader i ms s) := by
  induction ms generalizing s with
  | nil => exact h
  | cons m ms ih =>
    have hb : Keeps s (if m == leader then exec i { s with cur := m } else ({ s with cur := m } : State).follow leader i) := by
      split
      · exact keeps_exec i { s with cur := m }
      · exact keeps_follow { s with cur := m } leader i
    unfold State.gangRun
    dsimp only
    generalize (if m == leader then exec i { s with cur := m } else ({ s with cur := m } : State).follow leader i) = r at hb ⊢
    cases r with
    | next t =>
      dsimp only
      split
      · exact fun h0 => memoryInv_gangTrap h0 _ _
      · exact ih fun h0 => hb (h h0)
    | fault f => exact hb.elim
    | refused f => exact hb.elim

theorem ends_gangGate {s0 s : State} (h : MemoryInv s0) (hs : MemoryInv s) (sc : Scope) (id : Nat) (l : List Nat) (c : Bool) :
    Ends (fun p => MemoryInv p.1) MemoryInv (s0.gangGate sc id l s c) := by
  fun_induction State.gangGate <;> grind [MemoryInv, ends_barGate, memoryInv_gangTrap, ends_ok, ends_error]

theorem memoryInv_foldl_waitOpen {s : State} (h : MemoryInv s) (k : WaitKind) (ms : List Nat) :
    MemoryInv (ms.foldl (fun u m => if (u.slot m).wait.isSome then u else ({ u with cur := m } : State).waitOpen k) s) := by
  refine memoryInv_foldl (fun u m hu => ?_) _ h
  split
  · exact hu
  · exact memoryInv_of_mem (s := { u with cur := m }) hu (mem_waitOpen ..)

theorem keeps_gangArrives (s : State) (loc : Nat) (i : Instr) (ms : List Nat) : Keeps s (s.gangArrives loc i ms) := by
  unfold State.gangArrives
  split
  · exact keeps_gangRun s _ _ _ id
  · next sc id' _ =>
    split
    · exact keeps_gangRun s _ _ _ id
    · have hg (h : MemoryInv s) := ends_gangGate h h sc id' ms false
      split
      · next e => exact fun h => ends_of_error (hg h) e
      · exact keeps_gangRun s _ _ _ id
      · next e => exact fun h => memoryInv_foldl_waitOpen (ends_ok_of_eq (hg h) e) _ _

theorem keeps_gangIssue (s : State) (loc : Nat) (i : Instr) : Keeps s (s.gangIssue loc i) := by
  have hg := keeps_gangArrives s loc i (s.gangRunners loc)
  unfold State.gangIssue
  dsimp only
  generalize s.gangArrives loc i (s.gangRunners loc) = r at hg ⊢
  split
  · split
    · exact hg
    · exact fun h => memoryInv_foldl (fun u m hu => memoryInv_of_mem (s := { u with cur := m }) hu (mem_waitFor ..)) _
        (memoryInv_foldl (fun u m hu => memoryInv_drain hu _) _ h)
  · exact hg

theorem keeps_took {s : State} {r : Res} (h : Keeps s r) : Keeps s (s.took r) := by
  cases r with
  | next t => exact fun hs => memoryInv_farStep hs (h hs)
  | fault f => exact h
  | refused f => exact h

@[simp] theorem mem_awaitAnswer (s : State) (locs : List Nat) : (s.awaitAnswer locs).mem = s.mem := by
  unfold State.awaitAnswer
  grind [mem_waitOpen, mem_foldl]

theorem keeps_executes (s : State) (loc : Nat) (i : Instr) : Keeps s (s.executes loc i) := by
  unfold State.executes
  extract_lets wide
  have hr : Keeps s (if wide then s.gangIssue loc i else exec i s) := by
    split
    · exact keeps_gangIssue s loc i
    · exact keeps_exec i s
  generalize (if wide then s.gangIssue loc i else exec i s) = r at hr ⊢
  cases r with
  | next t =>
    dsimp only
    split
    · exact fun h => memoryInv_farStep h (hr h)
    · exact fun h => memoryInv_of_mem h ((mem_awaitAnswer ..).trans (mem_sendAsk ..))
  | fault f => exact hr
  | refused f => exact hr

theorem keeps_execute (s : State) (loc : Nat) : Keeps s (s.execute loc) := by
  unfold State.execute
  split
  · next l i _ => exact keeps_of_imp (t := { s with cur := l, sub := 0 }) id (keeps_took (keeps_exec i _))
  · have hi (h : MemoryInv s) := memoryInv_issuing h loc
    dsimp only
    split
    · refine fun h => memoryInv_of_mem h ?_
      rw [mem_awaitAnswer, modSlot_mem, mem_sendAsk]
    · split
      · exact fun h => memoryInv_of_mem h (mem_dropWait ..)
      · exact keeps_of_imp (fun h => memoryInv_farStep h (hi h)) (keeps_executes _ _ _)

@[simp] theorem mem_counted (s : State) (loc : Nat) : (s.counted loc).mem = s.mem := by
  unfold State.counted
  grind [modCore_mem, mem_foldl]

theorem keeps_issue (s : State) (loc : Nat) : Keeps s (s.issue loc) :=
  keeps_of_imp (fun h => memoryInv_of_mem h (mem_counted ..)) (keeps_execute _ _)

theorem keeps_fireTurn (s : State) (wish : List Instr) : Keeps s (s.fireTurn wish) := by
  unfold State.fireTurn
  split
  · exact id
  · dsimp only
    split
    · exact id
    · next x i _ => exact keeps_of_imp (t := { s with site := x }) id (keeps_took (keeps_exec i _))

theorem keeps_takeTurn (s : State) (t : Turn) : Keeps s (s.takeTurn t) := by
  cases t with
  | issue loc =>
    unfold State.takeTurn
    dsimp only
    split
    · exact keeps_execute s loc
    · split
      · exact keeps_issue s _
      · exact id
  | fire rgn node fs => exact keeps_of_imp (t := { s with site := ⟨rgn, node, fs⟩ }) id (keeps_fireTurn _ _)
  | event i cur sub x =>
    unfold State.takeTurn
    dsimp only
    split
    · exact id
    · split
      · exact keeps_of_imp (t := s.atAgent cur sub x) id (keeps_fireTurn _ _)
      · exact keeps_of_imp (t := s.atAgent cur sub x) id (keeps_took (keeps_exec i _))
  | setup c =>
    refine fun h => ?_
    split
    · exact memoryInv_of_mem h (mem_setUp ..)
    · exact h
  | arrive a =>
    refine fun h => ?_
    split
    · exact memoryInv_serveFar h a
    · exact h
  | reply r =>
    refine fun h => ?_
    split
    · exact h
    · exact h
  | told m =>
    refine fun h => ?_
    split
    · exact memoryInv_of_mem h (mem_hear ..)
    · exact h
  | hostSend qp _ => exact fun h => memoryInv_of_mem h (mem_hostSend ..)

theorem memoryInv_note {s : State} (h : MemoryInv s) (t : Turn) : MemoryInv (s.note t) := by
  unfold State.note
  grind [MemoryInv]

theorem memoryInv_delivered {s t : State} (ht : MemoryInv t) : MemoryInv (s.delivered t) := by
  unfold State.delivered
  grind [MemoryInv]

theorem keeps_carried {s : State} {r : Res} (h : Keeps s r) : Keeps s (s.carried r) := by
  cases r with
  | next t => exact fun hs => memoryInv_delivered (h hs)
  | fault f => exact h
  | refused f => exact h

theorem memoryInv_pass {s0 : State} (h : MemoryInv s0) : MemoryInv s0.pass := by
  unfold State.pass
  grind [MemoryInv, mem_expirePackets, memoryInv_takePools, memoryInv_dispatch, memoryInv_delivered]

theorem keeps_run (s : State) (t : Turn) : Keeps s (s.run t) :=
  keeps_carried (keeps_of_imp (fun h => memoryInv_note h t) (keeps_takeTurn _ t))

theorem keeps_oneStep (s : State) : Keeps s s.oneStep := by
  unfold State.oneStep
  split
  · next t ts _ =>
    split
    · exact keeps_of_imp (t := { s with agenda := ts }) id (keeps_run _ t)
    · split
      · exact keeps_carried (keeps_issue s _)
      · exact keeps_of_imp (t := { s.pass with agenda := ts }) memoryInv_pass (keeps_run _ t)
  · split
    · exact keeps_carried (keeps_issue s _)
    · split
      · exact keeps_run s _
      · exact memoryInv_pass

/-! ### Every step -/

theorem next_of_keeps {s : State} {r : Res} (h : Keeps s r) : ∃ t, r = .next t := by
  cases r with
  | next t => exact ⟨t, rfl⟩
  | fault f => exact h.elim
  | refused f => exact h.elim

theorem goes (s : State) : Goes s := next_of_keeps (keeps_oneStep s)

theorem safeFor (k : Nat) (s : State) : SafeFor k s := by
  induction k generalizing s with
  | zero => exact ⟨s, rfl⟩
  | succ k ih =>
    obtain ⟨t, ht⟩ := goes s
    obtain ⟨u, hu⟩ := ih t
    have hs : core.step s = .next t := ht
    have hrun : core.run (k + 1) s = core.run k t := by simp only [Host.Core.run, hs]
    exact ⟨u, hrun.trans hu⟩

/-- Settles O60: the turn of a step, and all that it carries with it, writes memory by the operations that keep it canonical. -/
theorem everyStepKeepsMemoryCanonical : Obligations.EveryStepKeepsMemoryCanonical := by
  intro s t hs ht
  have h := keeps_oneStep s
  rw [show s.oneStep = .next t from ht] at h
  exact h hs

/-- Settles O59: no meaning answers a fault or a refusal, and so a run of any length goes on. -/
theorem everyStepGoes : Obligations.EveryStepGoes := ⟨goes, fun s k => safeFor k s⟩

end Sys2Proof.Machine
end
